-- ==== Sys2Proof/Word.lean ====
section
/-!
DEFINITION. The word types of the Carzen 9 and their plainest arithmetic (spec/09_numbers.md R206,
spec/01_notation.md R10 and R11). Everything a test could show wrong about fields of words stands in
Sys2Proof/Machine/Bits.lean, not here.
-/

namespace Sys2Proof

/-- A register: 64 bits (spec/00_scope.md R2). -/
abbrev Word := BitVec 64

/-- A byte of any memory. -/
abbrev Byte := BitVec 8

end Sys2Proof
end

