-- ==== Sys2Proof/Machine/Bits.lean ====
section
/-!
DEFINITION. Bit fields, sign extension, narrowing helpers and byte order: the named helpers of
spec/01_notation.md R22 and R23, on exact integers.
-/

namespace Sys2Proof

/-- x[hi:lo] of a natural number (R22). -/
def bits (x hi lo : Nat) : Nat := (x >>> lo) % 2 ^ (hi + 1 - lo)

/-- Bit i of x. -/
def bit (x i : Nat) : Bool := x.testBit i

/-- The low n bits of x, read as signed (R23, SignExt). -/
def signExt (x n : Nat) : Int :=
  let y := x % 2 ^ n
  if n = 0 then 0 else if y < 2 ^ (n - 1) then (y : Int) else (y : Int) - (2 ^ n : Nat)

/-- x modulo 2^n, as a natural number. -/
def wrapN (x : Int) (n : Nat) : Nat := (x % ((2 ^ n : Nat) : Int)).toNat

/-- The 64-bit register that holds the integer x in two's complement. -/
def ofInt (x : Int) : Word := BitVec.ofNat 64 (wrapN x 64)

/-- The register that holds the low bits of a natural number. -/
def ofN (x : Nat) : Word := BitVec.ofNat 64 x

/-- Insert before the first entry that may follow it. -/
def insertBy {α : Type} (le : α → α → Bool) (x : α) : List α → List α
  | [] => [x]
  | y :: ys => if le x y then x :: y :: ys else y :: insertBy le x ys

/-- A list in the order le; entries that le does not tell apart keep their order. -/
def sortBy {α : Type} (le : α → α → Bool) (l : List α) : List α := l.foldr (insertBy le) []

/-- Clamp to lo … hi (R23, the Sat helpers). -/
def clampI (x lo hi : Int) : Int := if x < lo then lo else if hi < x then hi else x

/-- SatS with width n. -/
def satS (n : Nat) (x : Int) : Int := clampI x (-((2 ^ (n - 1) : Nat) : Int)) (((2 ^ (n - 1) : Nat) : Int) - 1)

/-- SatZ with width n. -/
def satZ (n : Nat) (x : Int) : Int := clampI x 0 (((2 ^ n : Nat) : Int) - 1)

/-- roundup(x, m). -/
def roundUp (x m : Nat) : Nat := (x + m - 1) / m * m

/-- ceil(x / m). -/
def ceilDiv (x m : Nat) : Nat := (x + m - 1) / m

/-- n little-endian bytes as a number, the lowest address first (R23, Mem). -/
def leNat : List Byte → Nat
  | [] => 0
  | b :: bs => b.toNat + 256 * leNat bs

/-- The n little-endian bytes of x. -/
def leBytes : Nat → Nat → List Byte
  | 0, _ => []
  | n + 1, x => BitVec.ofNat 8 x :: leBytes n (x / 256)

/-- Number of set bits of the low n bits. -/
def popN : Nat → Nat → Nat
  | 0, _ => 0
  | n + 1, x => (if x.testBit n then 1 else 0) + popN n x

/-- The positions below n whose bit is set, ascending. -/
def setBits (n x : Nat) : List Nat := (List.range n).filter (fun i => x.testBit i)

/-- The number whose bit i is f i, for i below n. -/
def mkBits (n : Nat) (f : Nat → Bool) : Nat :=
  (List.range n).foldl (fun a i => if f i then a + 2 ^ i else a) 0

/-- Element i of width w of a packed value (R206). -/
def elem (x w i : Nat) : Nat := (x >>> (i * w)) % 2 ^ w

/-- Pack n elements of width w, element 0 lowest (R206). -/
def packElems (w : Nat) : List Nat → Nat
  | [] => 0
  | e :: es => e % 2 ^ w + 2 ^ w * packElems w es

end Sys2Proof
end

