-- ==== Sys2Proof/Syntax.lean ====
section
/-!
DEFINITION. Abstract syntax: operands, types and formats of spec/10_encoding.md (R233 to R243), and the one
inductive Instr with a constructor for every row of spec/opcode_table.json: the 185 instructions and the 88
machine events of spec/95_what_each_step_holds.md.
-/

namespace Sys2Proof

/-- A 9-bit operand (spec/01_notation.md R11). -/
inductive Opnd where
  /-- v0 to v239, code 0x000 to 0x0EF. -/
  | v (n : Fin 240)
  /-- A special value (R12), code 0x0F0 to 0x0FF; sp 0 is vz. -/
  | sp (n : Fin 16)
  /-- k0 to k63, code 0x100 to 0x13F. -/
  | k (n : Fin 64)
  /-- The reserved range 0x140 to 0x1BF; well-formed instructions hold none (R236). -/
  | rsv (n : Fin 128)
  /-- An inline immediate, code 0x1C0 + n; n from 32 stands for n − 64 (R11). -/
  | imm (n : Fin 64)
deriving DecidableEq, Repr

/-- vz, the unused value of an operand field (R237). -/
abbrev Opnd.vz : Opnd := .sp 0

/-- The type codes of R239, in code order. -/
inductive Ty where
  | b8 | b16 | b32 | b64 | s8 | s16 | s32 | s64 | z8 | z16 | z32 | z64 | f16 | bf16 | f32 | f64
deriving DecidableEq, Repr

/-- Rounding modes of R211, in the code order of R238. -/
inductive RM where
  | rn | rz | ru | rd
deriving DecidableEq, Repr

/-- The common fields of every word but OPC and FN (R233). -/
structure Ctl where
  gaN : Bool
  gaI : Fin 16
  gbN : Bool
  gbI : Fin 16
  stall : Fin 8
  yld : Bool
  hold : Fin 4
  ch : Fin 8
deriving DecidableEq, Repr

/-- F3, the five-operand form (R238). -/
structure F3 where
  d : Opnd
  a : Opnd
  b : Opnd
  c : Opnd
  e : Opnd
  pd : Fin 16
  rm : RM
  ty : Ty
  sub : BitVec 8
deriving DecidableEq, Repr

/-- FI, the immediate form (R240). -/
structure FI where
  d : Opnd
  a : Opnd
  imm : BitVec 32
  pd : Fin 16
  rm : RM
  ty : Ty
  sub : BitVec 3
deriving DecidableEq, Repr

/-- FM, the memory form (R241). -/
structure FM where
  data : Opnd
  base : Opnd
  index : Opnd
  off : BitVec 24
  path : Fin 4
  scope : Fin 8
  ty : Ty
  sub : BitVec 3
deriving DecidableEq, Repr

/-- FB, the branch and call form (R242). -/
structure FB where
  argb : Opnd
  tgt : Opnd
  off : BitVec 24
  dem : BitVec 8
  argc : BitVec 8
  flg : BitVec 5
deriving DecidableEq, Repr

/-- FX, the engine and matrix form (R243). -/
structure FX where
  d : Opnd
  a : Opnd
  b : Opnd
  num : BitVec 12
  mt : Fin 8
  cb : Fin 8
  pd : Fin 16
  xsub : BitVec 14
deriving DecidableEq, Repr

/-- The operand area under its format. -/
inductive Body where
  | f3 (o : F3)
  | fi (o : FI)
  | fm (o : FM)
  | fb (o : FB)
  | fx (o : FX)
deriving DecidableEq, Repr

/-- A unit that keeps an error count (spec/15_faults.md R408, coded as ORIGIN of R414). -/
inductive UnitKind where
  | core | slice | channel | port | controller
deriving DecidableEq, Repr

/-- Every row of spec/opcode_table.json: instructions with their common fields and operand area, then the
machine events with the choice each leaves to its agent (which entry, which victim, what the host sends). -/
inductive Instr where
  | add (c : Ctl) (o : F3)
  | addImm (c : Ctl) (o : FI)
  | sub (c : Ctl) (o : F3)
  | subImm (c : Ctl) (o : FI)
  | mul (c : Ctl) (o : F3)
  | mulImm (c : Ctl) (o : FI)
  | mulh (c : Ctl) (o : F3)
  | mad (c : Ctl) (o : F3)
  | div (c : Ctl) (o : F3)
  | rem (c : Ctl) (o : F3)
  | neg (c : Ctl) (o : F3)
  | abs (c : Ctl) (o : F3)
  | min (c : Ctl) (o : F3)
  | minImm (c : Ctl) (o : FI)
  | max (c : Ctl) (o : F3)
  | maxImm (c : Ctl) (o : FI)
  | sad (c : Ctl) (o : F3)
  | and (c : Ctl) (o : F3)
  | andImm (c : Ctl) (o : FI)
  | or (c : Ctl) (o : F3)
  | orImm (c : Ctl) (o : FI)
  | xor (c : Ctl) (o : F3)
  | xorImm (c : Ctl) (o : FI)
  | not (c : Ctl) (o : F3)
  | shl (c : Ctl) (o : F3)
  | shlImm (c : Ctl) (o : FI)
  | shr (c : Ctl) (o : F3)
  | shrImm (c : Ctl) (o : FI)
  | sar (c : Ctl) (o : F3)
  | sarImm (c : Ctl) (o : FI)
  | rot (c : Ctl) (o : F3)
  | rotImm (c : Ctl) (o : FI)
  | clz (c : Ctl) (o : F3)
  | ctz (c : Ctl) (o : F3)
  | popc (c : Ctl) (o : F3)
  | brev (c : Ctl) (o : F3)
  | sel (c : Ctl) (o : F3)
  | cmp (c : Ctl) (o : F3)
  | cmpImm (c : Ctl) (o : FI)
  | mov (c : Ctl) (o : F3)
  | movi (c : Ctl) (o : FI)
  | movh (c : Ctl) (o : FI)
  | ext (c : Ctl) (o : F3)
  | lea (c : Ctl) (o : F3)
  | pack (c : Ctl) (o : F3)
  | unpack (c : Ctl) (o : F3)
  | swz (c : Ctl) (o : F3)
  | dot4 (c : Ctl) (o : F3)
  | bfx (c : Ctl) (o : F3)
  | bfi (c : Ctl) (o : F3)
  | bmm8 (c : Ctl) (o : F3)
  | pdep (c : Ctl) (o : F3)
  | pext (c : Ctl) (o : F3)
  | bperm (c : Ctl) (o : F3)
  | fadd (c : Ctl) (o : F3)
  | faddImm (c : Ctl) (o : FI)
  | fsub (c : Ctl) (o : F3)
  | fsubImm (c : Ctl) (o : FI)
  | fmul (c : Ctl) (o : F3)
  | fmulImm (c : Ctl) (o : FI)
  | ffma (c : Ctl) (o : F3)
  | fmin (c : Ctl) (o : F3)
  | fminImm (c : Ctl) (o : FI)
  | fmax (c : Ctl) (o : F3)
  | fmaxImm (c : Ctl) (o : FI)
  | fcmp (c : Ctl) (o : F3)
  | fcmpImm (c : Ctl) (o : FI)
  | fclass (c : Ctl) (o : F3)
  | frnd (c : Ctl) (o : F3)
  | cvt (c : Ctl) (o : F3)
  | fdot2 (c : Ctl) (o : F3)
  | exp2 (c : Ctl) (fn : Fin 16) (o : F3)
  | log2 (c : Ctl) (fn : Fin 16) (o : F3)
  | rcp (c : Ctl) (fn : Fin 16) (o : F3)
  | rsqrt (c : Ctl) (fn : Fin 16) (o : F3)
  | sqrt (c : Ctl) (fn : Fin 16) (o : F3)
  | sin (c : Ctl) (fn : Fin 16) (o : F3)
  | cos (c : Ctl) (fn : Fin 16) (o : F3)
  | tanh (c : Ctl) (fn : Fin 16) (o : F3)
  | sigm (c : Ctl) (fn : Fin 16) (o : F3)
  | erf (c : Ctl) (fn : Fin 16) (o : F3)
  | rngDraw (c : Ctl) (o : F3)
  | gmax (c : Ctl) (o : F3)
  | quant (c : Ctl) (o : F3)
  | dequant (c : Ctl) (o : F3)
  | shfl (c : Ctl) (o : F3)
  | vote (c : Ctl) (o : F3)
  | voteImm (c : Ctl) (o : FI)
  | matchT (c : Ctl) (o : F3)
  | redTeam (c : Ctl) (o : F3)
  | redTeamImm (c : Ctl) (o : FI)
  | scanTeam (c : Ctl) (o : F3)
  | scanTeamImm (c : Ctl) (o : FI)
  | topkIns (c : Ctl) (o : F3)
  | ld (c : Ctl) (o : FM)
  | ldRo (c : Ctl) (o : FM)
  | ldC (c : Ctl) (o : FM)
  | ldTl (c : Ctl) (o : FM)
  | st (c : Ctl) (o : FM)
  | pref (c : Ctl) (o : FM)
  | smp (c : Ctl) (o : F3)
  | atom (c : Ctl) (fn : Fin 16) (o : FM)
  | atomF (c : Ctl) (fn : Fin 16) (o : FM)
  | atomCas (c : Ctl) (o : FM)
  | atomOrd (c : Ctl) (fn : Fin 16) (o : FM)
  | fence (c : Ctl) (fn : Fin 16) (o : F3)
  | fencePath (c : Ctl) (o : F3)
  | acq (c : Ctl) (o : FM)
  | acqGe (c : Ctl) (o : FM)
  | acqX (c : Ctl) (o : FM)
  | rel (c : Ctl) (o : FM)
  | syncBind (c : Ctl) (o : F3)
  | syncUnbind (c : Ctl) (o : F3)
  | cinv (c : Ctl) (o : FM)
  | cwb (c : Ctl) (o : FM)
  | aggDecl (c : Ctl) (o : F3)
  | aggFree (c : Ctl) (o : F3)
  | aggRange (c : Ctl) (o : F3)
  | aggPfx (c : Ctl) (o : F3)
  | aggPick (c : Ctl) (o : F3)
  | aggSync (c : Ctl) (o : F3)
  | combJoin (c : Ctl) (o : FX)
  | combLeave (c : Ctl) (o : FX)
  | combDef (c : Ctl) (o : FX)
  | combDefs (c : Ctl) (o : FX)
  | combRd (c : Ctl) (o : FX)
  | combRds (c : Ctl) (o : FX)
  | combKill (c : Ctl) (o : FX)
  | combQ (c : Ctl) (o : FX)
  | combMap (c : Ctl) (o : FX)
  | cpTensor (c : Ctl) (o : FX)
  | cpGather (c : Ctl) (o : FX)
  | cpScatter (c : Ctl) (o : FX)
  | cpMcast (c : Ctl) (o : FX)
  | cpFill (c : Ctl) (o : FX)
  | cpResume (c : Ctl) (o : FX)
  | cbRd (c : Ctl) (o : F3)
  | dgNode (c : Ctl) (o : FX)
  | dgGo (c : Ctl) (o : FX)
  | engGuard (c : Ctl) (o : FX)
  | wagSend (c : Ctl) (o : FX)
  | lqPush (c : Ctl) (o : FX)
  | msSet (c : Ctl) (o : FX)
  | mLd (c : Ctl) (o : FX)
  | mSt (c : Ctl) (o : FX)
  | mZero (c : Ctl) (o : FX)
  | rsvAlloc (c : Ctl) (o : FX)
  | rsvFree (c : Ctl) (o : FX)
  | mma (c : Ctl) (o : FX)
  | mmaQ (c : Ctl) (o : FX)
  | epi (c : Ctl) (o : FX)
  | outlAdd (c : Ctl) (o : FX)
  | amaxRd (c : Ctl) (o : FX)
  | accClr (c : Ctl) (o : FX)
  | bra (c : Ctl) (o : FB)
  | braI (c : Ctl) (o : FB)
  | callF (c : Ctl) (o : FB)
  | callFH (c : Ctl) (o : FB)
  | callI (c : Ctl) (o : FB)
  | callIH (c : Ctl) (o : FB)
  | callQ (c : Ctl) (o : FB)
  | ret (c : Ctl) (o : F3)
  | unwind (c : Ctl) (o : F3)
  | exit (c : Ctl) (o : F3)
  | loopCap (c : Ctl) (o : FI)
  | loopStep (c : Ctl) (o : FI)
  | bktSel (c : Ctl) (o : F3)
  | elect (c : Ctl) (o : F3)
  | yield (c : Ctl) (o : F3)
  | nop (c : Ctl) (o : F3)
  | barInit (c : Ctl) (o : FI)
  | barArrive (c : Ctl) (o : FI)
  | barWait (c : Ctl) (o : FI)
  | barTx (c : Ctl) (o : FI)
  | teamSync (c : Ctl) (o : F3)
  | teamSyncImm (c : Ctl) (o : FI)
  | wait (c : Ctl) (o : FI)
  | trap (c : Ctl) (o : FI)
  | brk (c : Ctl) (o : F3)
  | rdsr (c : Ctl) (o : FI)
  | wrsr (c : Ctl) (o : FI)
  | digestRd (c : Ctl) (o : F3)
  | tlbInv (c : Ctl) (o : F3)
  | sleep (c : Ctl) (o : FI)
  | halt (c : Ctl) (o : F3)
  /-- A walker takes a miss request, walks the page tables and fills the TLBs. (R33) -/
  | tlbMissWalk (core k victim : Nat)
  /-- The host answers an ATS request or PRI page request, and the waiting access continues or faults 0x2E. (R41) -/
  | hostTranslationResponse (core k : Nat) (ok : Bool) (ha : Nat)
  /-- A host translation, page request or non-posted read exceeds 2^27 cycles and faults. (R424) -/
  | hostRequestTimeout (core k : Nat) (req : Option Nat)
  /-- An ATS invalidation request from the host removes entries and completes after their accesses. (R41) -/
  | atsInvalidation (part ha size : Nat)
  /-- A waiting flit is injected once its partition's bucket holds a flit. (R64) -/
  | flitInjection (p : Nat)
  /-- A receiver takes a flit, checks its CRC and reassembles packets. (R60) -/
  | flitArrival (p : Nat) (good : Bool)
  /-- A home slice takes a request, filters duplicates and executes loads, stores, atomics, walker reads or cancels. (R66) -/
  | sliceRequest (p : Nat)
  /-- A reply completes a request, writes its destination and retires the class counter. (R60) -/
  | replyArrival (p : Nat)
  /-- A source's retransmission timer expires, resending the request or abandoning it with 0xE1 and a cancel. (R65) -/
  | requestRetransmit (r : Nat)
  /-- At each 1,024-cycle window end slices publish congestion and cores set their throttle count. (R62) -/
  | congestionWindowEnd
  /-- The region home applies one forwarded update and recomputes ancestors. (R78) -/
  | aggUpdateApply (part slot : Nat)
  /-- The region home accepts or refuses a query, sync or free and reads the tree. (R93) -/
  | aggQueryAccept (op : Nat)
  /-- The tree build from the leaf lines completes and the handle is written. (R88) -/
  | aggBuildComplete (op : Nat)
  /-- A free's forwarded updates have arrived and the footprint and slot are released. (R87) -/
  | aggFreeDrain (op : Nat)
  /-- An ordered entry is admitted to the buffer or overflow area, or rejected with 0xD2. (R140) -/
  | orderedEntryArrival (slice : Nat)
  /-- A core reports a thread exit or floor change to slices holding entries. (R138) -/
  | floorReport (core slice : Nat)
  /-- The slice applies an ordered entry once its key conditions hold. (R138) -/
  | orderedEntryApply (slice line : Nat)
  /-- A push or read of a scaling ring is performed at its slice. (R225) -/
  | scalingRingPush (part : Nat)
  /-- A snapshot copy completes, possibly freeing a DRAINING cell or admitting the head definer. (R107) -/
  | combCopyComplete (op : Nat)
  /-- After pending Comb operations finish, parked threads fault, windows are revoked, values move and membership ends. (R97) -/
  | combLeaveComplete (wg : Nat)
  /-- Hardware moves a cell's value to another place. (R112) -/
  | combPlacementMove (dir cell place : Nat)
  /-- The engine front end starts or discards the command at its head once its guard resolves. (R318) -/
  | engineCommandDispatch (wg : Nat)
  /-- An engine unit finishes writing, marks its bit, lowers barrier TX and may complete the command. (R319) -/
  | engineUnitComplete (wg cb unit : Nat) (part : Option Nat)
  /-- A thread's stall count elapses and it may become READY. (R153) -/
  | stallCountExpire (wg tid : Nat)
  /-- A sleeping thread's cycle count elapses and it is woken. (R358) -/
  | sleepExpire (wg tid : Nat)
  /-- The picker drains up to 32 threads of a callee queue into the callee's PC group. (R163) -/
  | calleeQueueDrain (core : Nat)
  /-- The Swarm engine starts on its trigger and spills victims to grant the oldest needs. (R171) -/
  | swarmStart (core : Nat)
  /-- A matrix multiply or outlier add finishes and raises MDONE. (R378) -/
  | mmaComplete (wg : Nat)
  /-- An epilogue writes its output, pushes, clears and raises EDONE. (R383) -/
  | epiComplete (wg : Nat)
  /-- An m.ld, m.st or m.zero completes. (R371) -/
  | tileTransferComplete (wg : Nat)
  /-- A waiting storage claim is granted when storage frees. (R366) -/
  | matrixClaimGrant (core : Nat)
  /-- A claim that has waited 4,096 cycles evicts other workgroups' matrix storage. (R367) -/
  | matrixEviction (core : Nat)
  /-- A host doorbell write sets a queue's TAIL or is refused. (R185) -/
  | doorbell (part q value : Nat)
  /-- A NOP ring command starts and completes at once. (R187) -/
  | ringCommandNop (part q : Nat)
  /-- A LAUNCH ring command starts and its kernel resolves. (R188) -/
  | ringCommandLaunch (part q : Nat)
  /-- A GRAPH ring command starts every node with zero predecessors. (R193) -/
  | ringCommandGraph (part q : Nat)
  /-- A DIGEST-RESET command clears the hash and flags and sets replay mode. (R187) -/
  | ringCommandDigestReset (part q : Nat)
  /-- An atomic decrement of a node's PRED starts the node at zero or raises 0xB4. (R193) -/
  | graphPredDecrement (part : Nat)
  /-- A die takes a child entry from its device launch queue or steals one. (R196) -/
  | launchQueueTake (part die : Nat)
  /-- The distributor places the next fitting workgroup on a core. (R199) -/
  | workgroupPlace (die : Nat)
  /-- A launch at priority 15 for 65,536 cycles reserves its eligible cores. (R198) -/
  | priorityReserve (launch : Nat)
  /-- A workgroup's granules are cleared and the workgroup starts. (R51) -/
  | granuleClearComplete (wg : Nat)
  /-- A workgroup retires when its threads and operations are done, possibly completing its launch. (R189) -/
  | workgroupRetire (wg : Nat)
  /-- A completed launch's digest link is appended once earlier links are in. (R145) -/
  | digestLinkAppend (part q : Nat)
  /-- A reflected waggle enters the handler queue and its handler is launched. (R203) -/
  | waggleHandlerLaunch (part : Nat)
  /-- A release of a fault record applies its action to the named threads or command. (R394) -/
  | faultRecordRelease (rec : Nat)
  /-- A workgroup is pre-empted and its context written to its slot. (R401) -/
  | workgroupSave (wg : Nat)
  /-- A saved workgroup is placed, checked, written back and resumed. (R402) -/
  | workgroupRestore (wg core : Nat) (bad : Option Nat)
  /-- A corrected error is counted, reporting 0xE0 at each multiple of 256. (R407) -/
  | eccCorrected (kind : UnitKind) (index : Nat)
  /-- A fatal error stops every partition, posts 0xE7 and writes the dump. (R413) -/
  | fatalError (kind : UnitKind) (index : Nat)
  /-- Every 10 µs the arbiter compares power and adjusts the clock, or hits the emergency limit. (R432) -/
  | powerArbiterTick (avg100us avg1ms : Nat)
  /-- A host read or write through BAR2 is translated and performed at home slices. (R416) -/
  | hostBar2Access (part va n : Nat) (data : Option (List Byte))
  /-- A host write to a register page register without behaviour of its own. (R418) -/
  | registerWrite (part off value : Nat)
  /-- A queue table write, refused while the queue has an uncompleted command. (R419) -/
  | qtabWrite (part q value : Nat)
  /-- Writing 1 to FQSTAT bit 0 clears the overflow flag. (R418) -/
  | fqstatClear (part : Nat)
  /-- The host's response to a kind-2 entry acts as a release of the parked threads or command. (R422) -/
  | fqresp1 (part value : Nat)
  /-- HREQ switch-out saves every workgroup of a queue's live launches. (R423) -/
  | switchOut (part value : Nat)
  /-- HREQ switch-in restores the saved workgroups in save order. (R423) -/
  | switchIn (part value : Nat)
  /-- HREQ restore of one halted or switched-out workgroup. (R423) -/
  | restore (part value : Nat)
  /-- HREQ attest writes a signed attestation report. (R431) -/
  | attest (part value : Nat)
  /-- A fault queue entry is written, FQTAIL advanced and vector 0 signalled, or held. (R420) -/
  | faultQueuePost (part : Nat)
  /-- Held entries are posted in order once the ring has room. (R420) -/
  | faultQueueDrain (part : Nat)
  /-- Mailbox command creating a completion queue. (R429) -/
  | createCq (part : Nat)
  /-- Mailbox command destroying a completion queue. (R429) -/
  | destroyCq (part : Nat)
  /-- Mailbox command creating a queue pair in RESET. (R429) -/
  | createQp (part : Nat)
  /-- Mailbox command moving a queue pair to a new state. (R429) -/
  | modifyQp (part : Nat)
  /-- Mailbox command destroying a queue pair. (R429) -/
  | destroyQp (part : Nat)
  /-- Mailbox command registering a memory region and returning a key. (R429) -/
  | regMr (part : Nat)
  /-- Mailbox command deregistering a memory region. (R429) -/
  | deregMr (part : Nat)
  /-- Send-queue doorbell setting a send ring's tail. (R429) -/
  | sqdb (part value : Nat)
  /-- Receive-queue doorbell setting a receive ring's tail. (R429) -/
  | rqdb (part value : Nat)
  /-- A port takes a send work request and posts its completion. (R429) -/
  | sendWorkRequest (part qpn : Nat) (status : Nat) (data : List Byte)
  /-- An inbound RoCE packet is performed and may increment the receive sync object; 4 added to its kind says that it carries an ECN
  mark. (R428) -/
  | roceInbound (part qpn kind : Nat) (rva rkey imm : Nat) (data : List Byte)
  /-- An inbound Palnath encapsulation waggle or atomic is filtered and executed; 8 added to its operation is the retry bit. (R428) -/
  | remoteEncapRequest (part node spart seq op va : Nat) (args : List Word)
  /-- A remote request's 2^24-cycle timer expires, resending or cancelling with 0xE5. (R428) -/
  | remoteRetransmit (r : Nat)
  /-- Loss of the host link fails host accesses with 0xE6. (R424) -/
  | hostLinkDown
  /-- A virtual function reset tears down the partition's workgroups and empties its queues. (R427) -/
  | flrVf (part : Nat)
  /-- Firmware clears memory, writes tables and enables a virtual function. (R426) -/
  | partitionCreate (part : Nat) (hives slices groups : List Nat) (shadow combbk : Nat) (rates : List Nat)
      (rootPt asid rcb : Nat) (image : List (Nat × List Byte))
  /-- Firmware drains, rehomes, clears and restores for a resize. (R426) -/
  | partitionResize (part : Nat) (hives slices groups : List Nat) (rates : List Nat)
  /-- The host stages a firmware image into the inactive bank, checked at staging. (R431) -/
  | firmwareStage (bank : Nat) (image : List Byte)
  /-- Power-on or physical function reset loads firmware, clears memory and brings up the link. (R433) -/
  | moduleReset
  /-- A load or store served without the networks completes: an L1, constant-cache or sampler-cache hit, or a scratchpad or hive-window access performed at the array, writes its destination and retires its class counter. (R131) -/
  | localAccessComplete (op : Nat)
  /-- An HBM read made by a home slice on an L2 miss returns its data, or is found uncorrectable and poisons the line. (R410) -/
  | hbmReadComplete (line : Nat) (good : Bool) (victim : Nat)
  /-- A comb.def or comb.defs finishes capturing the source bytes into the cell's storage and retires from the definer's tile-class counter. (R103) -/
  | combDefinitionComplete (op : Nat)
  /-- The 16 cycles after a yield elapse and the issuing threads may become READY again. (R347) -/
  | yieldHoldExpire (wg tid : Nat)
  /-- A completion from the host arrives for a non-posted request to host memory, including the zero-length read of fence.sys and the reads and writes of host-page atomics. (R424) -/
  | hostCompletion (r : Nat) (good : Bool)
  /-- A reliable-connection retransmission timer of a queue pair expires, so the request is resent or, once the retries run out, completes with status 4 (retry exceeded). (R429) -/
  | roceRetryTimeout (part qpn : Nat)
  /-- Power to the module is lost, which stops all activity and can leave a dump cut short with a non-matching digest. (R414) -/
  | lossOfPower
deriving DecidableEq, Repr

/-- A word of storage that becomes an uncorrectable error (R407, R410, R411). -/
inductive Upset where
  /-- A slot of a frame of a thread, the frames counted from the top. -/
  | register (wg tid frame slot : Nat)
  /-- An 8-byte word of a workgroup's scratchpad. -/
  | scratch (wg word : Nat)
  /-- An 8-byte word of a tile register. -/
  | tile (wg reg word : Nat)
  /-- An entry of an accumulator, row * 128 + column. -/
  | accum (wg acc entry : Nat)
  /-- An 8-byte word of a reservation in the operand buffer. -/
  | operand (wg rsv word : Nat)
  /-- A dirty line of a home slice. -/
  | slice (line : Nat)
  /-- A node of an aggregate region. -/
  | node (part slot index : Nat)
  /-- The storage of a Comb cell. -/
  | cell (dir index : Nat)
  /-- A line of a core's L1, constant cache or sampler cache. -/
  | cache (core line : Nat)
deriving DecidableEq, Repr

/-- What one step does: the model's own data (notes/assumptions/1.md). -/
inductive Turn where
  /-- One delivered clock cycle passes. -/
  | tick
  /-- A pipe of a core issues the bundle that the picker gives it. -/
  | issue (core pipe : Nat)
  /-- A machine event happens. -/
  | act (i : Instr)
  /-- A started copy node of a graph run goes on (R192). -/
  | copy (run node : Nat)
  /-- A word of storage goes bad (R407, R410, R411). -/
  | upset (u : Upset)
deriving DecidableEq, Repr

end Sys2Proof
end

