-- ==== Sys2Proof/Machine/OpcodeMap.lean ====
section
/-!
DEFINITION. The opcode map of spec/10_encoding.md (R244 to R254) as a table of rows, with the checks of R255
steps 1 to 4 that each row's entry gives: enumerated subfields (0x03), reserved bits and unused fields (0x04),
operand fields (0x02). The entries are R260 to R298, R304 to R334, R336 to R358 and R368.
-/

namespace Sys2Proof

/-- Width in bits of a type (R10). -/
def Ty.width : Ty → Nat
  | .b8 | .s8 | .z8 => 8
  | .b16 | .s16 | .z16 | .f16 | .bf16 => 16
  | .b32 | .s32 | .z32 | .f32 => 32
  | .b64 | .s64 | .z64 | .f64 => 64

def Ty.isS : Ty → Bool
  | .s8 | .s16 | .s32 | .s64 => true
  | _ => false

def Ty.isB : Ty → Bool
  | .b8 | .b16 | .b32 | .b64 => true
  | _ => false

def Ty.isZ : Ty → Bool
  | .z8 | .z16 | .z32 | .z64 => true
  | _ => false

def Ty.isF : Ty → Bool
  | .f16 | .bf16 | .f32 | .f64 => true
  | _ => false

/-- The sixteen types in code order (R239). -/
def Ty.all : List Ty :=
  [.b8, .b16, .b32, .b64, .s8, .s16, .s32, .s64, .z8, .z16, .z32, .z64, .f16, .bf16, .f32, .f64]

/-- The code of a type (R239). -/
def Ty.code : Ty → Nat
  | .b8 => 0 | .b16 => 1 | .b32 => 2 | .b64 => 3 | .s8 => 4 | .s16 => 5 | .s32 => 6 | .s64 => 7
  | .z8 => 8 | .z16 => 9 | .z32 => 10 | .z64 => 11 | .f16 => 12 | .bf16 => 13 | .f32 => 14 | .f64 => 15

/-- The type of a code; codes have four bits. -/
def Ty.ofCode : Nat → Ty
  | 0 => .b8 | 1 => .b16 | 2 => .b32 | 3 => .b64 | 4 => .s8 | 5 => .s16 | 6 => .s32 | 7 => .s64
  | 8 => .z8 | 9 => .z16 | 10 => .z32 | 11 => .z64 | 12 => .f16 | 13 => .bf16 | 14 => .f32 | _ => .f64

def RM.code : RM → Nat
  | .rn => 0 | .rz => 1 | .ru => 2 | .rd => 3

def RM.ofCode : Nat → RM
  | 0 => .rn | 1 => .rz | 2 => .ru | _ => .rd

/-- How an instruction uses an operand field (R236, R237, R257, R258, R303). -/
inductive Slot where
  /-- Not used: holds vz. -/
  | no
  /-- A source of any kind. -/
  | src
  /-- A destination: a v or k register. -/
  | dst
  /-- A destination that may be left out (vz). -/
  | odst
  /-- A destination that must not be a k register, or the first register of a group. -/
  | vreg
  /-- The same, and may be left out (vz). -/
  | ovreg
  /-- A field that must name a k register (R346). -/
  | kreg
deriving DecidableEq, Repr

/-- An unused field does not hold its unused value (R237). -/
def Slot.bad4 : Slot → Opnd → Bool
  | .no, o => o != .vz
  | _, _ => false

/-- An operand that the field does not accept (R236). -/
def Slot.bad2 : Slot → Opnd → Bool
  | .no, _ => false
  | .src, .rsv _ => true
  | .src, _ => false
  | .dst, .v _ => false
  | .dst, .k _ => false
  | .dst, _ => true
  | .odst, .v _ => false
  | .odst, .k _ => false
  | .odst, o => o != .vz
  | .vreg, .v _ => false
  | .vreg, _ => true
  | .ovreg, .v _ => false
  | .ovreg, o => o != .vz
  | .kreg, .k _ => false
  | .kreg, _ => true

/-- The operand fields of F3 and FX, and PD. -/
structure Use where
  d : Slot := .no
  a : Slot := .no
  b : Slot := .no
  c : Slot := .no
  e : Slot := .no
  pd : Bool := false

/-- One row of the opcode map. -/
structure Row where
  opc : Nat
  fns : List Nat
  /-- A subfield of the row is off its list (0x03). -/
  bad3 : Nat → Body → Bool
  /-- A reserved bit is set or an unused field is in use (0x04). -/
  bad4 : Nat → Body → Bool
  /-- An operand field holds what it must not (0x02). -/
  bad2 : Nat → Body → Bool
  /-- The instruction of the row. -/
  build : Ctl → Fin 16 → Body → Option Instr

/-- The operand area a row needs; which format a word has follows from OPC and FN (R245 to R254). -/
inductive Form where
  | f3 | fi | fm | fb | fx
deriving DecidableEq, Repr

namespace Map

def ints : List Ty := [.b8, .b16, .b32, .b64, .s8, .s16, .s32, .s64, .z8, .z16, .z32, .z64]
def sz : List Ty := [.s8, .s16, .s32, .s64, .z8, .z16, .z32, .z64]
def ss : List Ty := [.s8, .s16, .s32, .s64]
def zz : List Ty := [.z8, .z16, .z32, .z64]
def bb : List Ty := [.b8, .b16, .b32, .b64]
def ff : List Ty := [.f16, .bf16, .f32, .f64]
def none1 : List Ty := [.b8]

/-- An F3 row. A type or a mode that the entry does not list gives 0x03 (R239; notes/assumptions/9.md). -/
def f3 (opc : Nat) (fns : List Nat) (tys : List Ty) (rm : Bool) (u : Use)
    (s3 : Nat → F3 → Bool) (s4 : F3 → Bool) (mk : Ctl → Fin 16 → F3 → Instr) : Row where
  opc := opc
  fns := fns
  bad3 := fun fn b => match b with
    | .f3 o => !(tys.contains o.ty) || (!rm && o.rm != .rn) || s3 fn o
    | _ => true
  bad4 := fun _ b => match b with
    | .f3 o => u.d.bad4 o.d || u.a.bad4 o.a || u.b.bad4 o.b || u.c.bad4 o.c || u.e.bad4 o.e ||
        (!u.pd && o.pd != 15) || s4 o
    | _ => true
  bad2 := fun _ b => match b with
    | .f3 o => u.d.bad2 o.d || u.a.bad2 o.a || u.b.bad2 o.b || u.c.bad2 o.c || u.e.bad2 o.e
    | _ => true
  build := fun c fn b => match b with
    | .f3 o => some (mk c fn o)
    | _ => none

/-- An FI row. -/
def fi (opc fn0 : Nat) (tys : List Ty) (rm : Bool) (d a : Slot) (pd : Bool)
    (s3 : FI → Bool) (s4 : FI → Bool) (mk : Ctl → FI → Instr) : Row where
  opc := opc
  fns := [fn0]
  bad3 := fun _ b => match b with
    | .fi o => !(tys.contains o.ty) || (!rm && o.rm != .rn) || s3 o
    | _ => true
  bad4 := fun _ b => match b with
    | .fi o => d.bad4 o.d || a.bad4 o.a || (!pd && o.pd != 15) || s4 o
    | _ => true
  bad2 := fun _ b => match b with
    | .fi o => d.bad2 o.d || a.bad2 o.a
    | _ => true
  build := fun c _ b => match b with
    | .fi o => some (mk c o)
    | _ => none

/-- An FM row. The slots of DATA may depend on the word (RET, R241). SCOPE is read by no FM instruction. -/
def fm (opc : Nat) (fns : List Nat) (tys : Nat → List Ty) (data : FM → Slot) (base index : Slot)
    (s3 : FM → Bool) (s4 : FM → Bool) (mk : Ctl → Fin 16 → FM → Option Instr) : Row where
  opc := opc
  fns := fns
  bad3 := fun fn b => match b with
    | .fm o => !((tys fn).contains o.ty) || s3 o
    | _ => true
  bad4 := fun _ b => match b with
    | .fm o => (data o).bad4 o.data || base.bad4 o.base || index.bad4 o.index || o.scope != 0 || s4 o
    | _ => true
  bad2 := fun _ b => match b with
    | .fm o => (data o).bad2 o.data || base.bad2 o.base || index.bad2 o.index
    | _ => true
  build := fun c fn b => match b with
    | .fm o => mk c fn o
    | _ => none

/-- An FB row. A window count of 0 requires ARGB = vz; otherwise ARGB is a v register (R242, R339). -/
def fb (opc fn0 : Nat) (win : Bool) (tgt : Slot) (off dem flg : Bool) (s4 : FB → Bool)
    (mk : Ctl → FB → Instr) : Row where
  opc := opc
  fns := [fn0]
  bad3 := fun _ b => match b with
    | .fb _ => false
    | _ => true
  bad4 := fun _ b => match b with
    | .fb o => ((!win || o.argc == 0) && o.argb != .vz) || (!win && o.argc != 0) || tgt.bad4 o.tgt ||
        (!off && o.off != 0) || (!dem && o.dem != 0) || (!flg && o.flg != 0) || s4 o
    | _ => true
  bad2 := fun _ b => match b with
    | .fb o => (win && o.argc != 0 && Slot.vreg.bad2 o.argb) || tgt.bad2 o.tgt
    | _ => true
  build := fun c _ b => match b with
    | .fb o => some (mk c o)
    | _ => none

/-- An FX row; num, mt and cb say whether those fields are used. -/
def fx (opc : Nat) (u : FX → Use) (num mt cb : Bool) (s3 : FX → Bool) (s4 : FX → Bool)
    (mk : Ctl → FX → Instr) : Row where
  opc := opc
  fns := [0]
  bad3 := fun _ b => match b with
    | .fx o => s3 o
    | _ => true
  bad4 := fun _ b => match b with
    | .fx o => (u o).d.bad4 o.d || (u o).a.bad4 o.a || (u o).b.bad4 o.b || (!num && o.num != 0) ||
        (!mt && o.mt != 0) || (!cb && o.cb != 0) || o.pd != 15 || s4 o
    | _ => true
  bad2 := fun _ b => match b with
    | .fx o => (u o).d.bad2 o.d || (u o).a.bad2 o.a || (u o).b.bad2 o.b
    | _ => true
  build := fun c _ b => match b with
    | .fx o => some (mk c o)
    | _ => none

/-- Nothing to check. -/
def ok3 : Nat → F3 → Bool := fun _ _ => false
/-- SUB bits outside the mask m are reserved (R259). -/
def res (m : Nat) : F3 → Bool := fun o => o.sub.toNat &&& (255 - m) != 0
def resI (m : Nat) : FI → Bool := fun o => o.sub.toNat &&& (7 - m) != 0
/-- Bit i of SUB. -/
def sb (o : F3) (i : Nat) : Bool := o.sub.toNat.testBit i
def sbI (o : FI) (i : Nat) : Bool := o.sub.toNat.testBit i
/-- .sat with a .b type (R260), and .pk with a width of 64 (R262). -/
def satpk (o : F3) : Bool := (sb o 0 && o.ty.isB) || (sb o 1 && o.ty.width == 64)
def satpkI (o : FI) : Bool := (sbI o 0 && o.ty.isB) || (sbI o 1 && o.ty.width == 64)
/-- The same for an instruction that lists no .pk, whose SUB bit 1 is reserved (R259). -/
def satOnly (o : F3) : Bool := sb o 0 && o.ty.isB
def satOnlyI (o : FI) : Bool := sbI o 0 && o.ty.isB

def uDA : Use := ⟨.dst, .src, .no, .no, .no, false⟩
def uDAB : Use := ⟨.dst, .src, .src, .no, .no, false⟩
def uDABC : Use := ⟨.dst, .src, .src, .src, .no, false⟩
def u0 : Use := {}

/-- The 185 instruction rows of R245 to R254: integer, logic and bit instructions. -/
def intRows : List Row := [
  f3 0x000 [0] ints false uDAB (fun _ => satpk) (res 3) (fun c _ o => .add c o),
  fi 0x000 1 ints false .dst .src false satpkI (resI 3) .addImm,
  f3 0x001 [0] ints false uDAB (fun _ => satpk) (res 3) (fun c _ o => .sub c o),
  fi 0x001 1 ints false .dst .src false satpkI (resI 3) .subImm,
  f3 0x002 [0] ints false uDAB (fun _ => satOnly) (res 1) (fun c _ o => .mul c o),
  fi 0x002 1 ints false .dst .src false satOnlyI (resI 1) .mulImm,
  f3 0x003 [0] sz false uDAB ok3 (res 0) (fun c _ o => .mulh c o),
  f3 0x004 [0] ints false uDABC (fun _ => satOnly) (res 1) (fun c _ o => .mad c o),
  f3 0x005 [0] sz false uDAB ok3 (res 1) (fun c _ o => .div c o),
  f3 0x006 [0] sz false uDAB ok3 (res 0) (fun c _ o => .rem c o),
  f3 0x007 [0] ss false uDA (fun _ => satpk) (res 3) (fun c _ o => .neg c o),
  f3 0x008 [0] ss false uDA (fun _ => satpk) (res 3) (fun c _ o => .abs c o),
  f3 0x009 [0] sz false uDAB (fun _ => satpk) (res 2) (fun c _ o => .min c o),
  fi 0x009 1 sz false .dst .src false satpkI (resI 2) .minImm,
  f3 0x00A [0] sz false uDAB (fun _ => satpk) (res 2) (fun c _ o => .max c o),
  fi 0x00A 1 sz false .dst .src false satpkI (resI 2) .maxImm,
  f3 0x00B [0] sz false uDABC ok3 (res 0) (fun c _ o => .sad c o),
  f3 0x00C [0] bb false uDAB ok3 (res 0) (fun c _ o => .and c o),
  fi 0x00C 1 bb false .dst .src false (fun _ => false) (resI 0) .andImm,
  f3 0x00D [0] bb false uDAB ok3 (res 0) (fun c _ o => .or c o),
  fi 0x00D 1 bb false .dst .src false (fun _ => false) (resI 0) .orImm,
  f3 0x00E [0] bb false uDAB ok3 (res 0) (fun c _ o => .xor c o),
  fi 0x00E 1 bb false .dst .src false (fun _ => false) (resI 0) .xorImm,
  f3 0x00F [0] bb false uDA ok3 (res 0) (fun c _ o => .not c o),
  f3 0x010 [0] bb false uDAB ok3 (res 0) (fun c _ o => .shl c o),
  fi 0x010 1 bb false .dst .src false (fun _ => false) (resI 0) .shlImm,
  f3 0x011 [0] (bb ++ zz) false uDAB ok3 (res 0) (fun c _ o => .shr c o),
  fi 0x011 1 (bb ++ zz) false .dst .src false (fun _ => false) (resI 0) .shrImm,
  f3 0x012 [0] ss false uDAB ok3 (res 0) (fun c _ o => .sar c o),
  fi 0x012 1 ss false .dst .src false (fun _ => false) (resI 0) .sarImm,
  f3 0x013 [0] bb false uDAB ok3 (res 0) (fun c _ o => .rot c o),
  fi 0x013 1 bb false .dst .src false (fun _ => false) (resI 0) .rotImm,
  f3 0x014 [0] bb false uDA ok3 (res 0) (fun c _ o => .clz c o),
  f3 0x015 [0] bb false uDA ok3 (res 0) (fun c _ o => .ctz c o),
  f3 0x016 [0] bb false uDA ok3 (res 0) (fun c _ o => .popc c o),
  f3 0x017 [0] bb false uDA ok3 (res 0) (fun c _ o => .brev c o),
  f3 0x018 [0] none1 false uDAB ok3 (res 31) (fun c _ o => .sel c o),
  f3 0x019 [0] ints false ⟨.odst, .src, .src, .no, .no, true⟩
    (fun _ o => o.sub.toNat % 8 > 5 || (o.sub.toNat % 8 > 1 && o.ty.isB)) (res 7) (fun c _ o => .cmp c o),
  fi 0x019 1 ints false .odst .src true
    (fun o => o.sub.toNat > 5 || (o.sub.toNat > 1 && o.ty.isB)) (resI 7) .cmpImm,
  f3 0x01A [0] none1 false uDA ok3 (res 0) (fun c _ o => .mov c o),
  fi 0x01B 0 [.b8, .z32] false .dst .no false (fun _ => false) (resI 0) .movi,
  fi 0x01C 0 none1 false .dst .src false (fun _ => false) (resI 0) .movh,
  f3 0x01D [0] [.s8, .s16, .s32, .z8, .z16, .z32] false uDA ok3 (res 0) (fun c _ o => .ext c o),
  f3 0x01E [0] none1 false uDABC ok3 (res 7) (fun c _ o => .lea c o),
  f3 0x01F [0] [.b8, .b16, .b32, .s8, .s16, .s32, .z8, .z16, .z32] false uDAB (fun _ => satpk) (res 1)
    (fun c _ o => .pack c o),
  f3 0x020 [0] [.s8, .s16, .s32, .z8, .z16, .z32] false uDA ok3 (res 1) (fun c _ o => .unpack c o),
  f3 0x021 [0] [.b8, .b16, .b32] false uDABC ok3 (res 0) (fun c _ o => .swz c o),
  f3 0x022 [0] [.s8, .z8] false uDABC (fun _ o => o.sub.toNat / 16 != 4 && o.sub.toNat / 16 != 8) (res 0xF1)
    (fun c _ o => .dot4 c o),
  f3 0x023 [0] ints false uDABC ok3 (res 0) (fun c _ o => .bfx c o),
  f3 0x024 [0] bb false ⟨.dst, .src, .src, .src, .src, false⟩ ok3 (res 0) (fun c _ o => .bfi c o),
  f3 0x025 [0] [.b64] false uDAB ok3 (res 1) (fun c _ o => .bmm8 c o),
  f3 0x026 [0] [.b32, .b64] false uDAB ok3 (res 0) (fun c _ o => .pdep c o),
  f3 0x027 [0] [.b32, .b64] false uDAB ok3 (res 0) (fun c _ o => .pext c o),
  f3 0x028 [0] [.b64] false ⟨.vreg, .src, .vreg, .no, .no, false⟩ ok3 (res 0) (fun c _ o => .bperm c o)]

/-- .pk with .f64 (R280). -/
def pkf (o : F3) : Bool := sb o 1 && o.ty == .f64
def pkfI (o : FI) : Bool := sbI o 1 && o.ty == .f64
/-- Special functions carry the format in FN and list no type (R286). -/
def sf (opc : Nat) (fns : List Nat) (rm : Bool) (mk : Ctl → Fin 16 → F3 → Instr) : Row :=
  f3 opc fns none1 rm uDA ok3 (res 0) mk

/-- Floating-point, conversion and special-function rows (R246). -/
def floatRows : List Row := [
  f3 0x080 [0] ff true uDAB (fun _ => pkf) (res 2) (fun c _ o => .fadd c o),
  fi 0x080 1 ff true .dst .src false pkfI (resI 2) .faddImm,
  f3 0x081 [0] ff true uDAB (fun _ => pkf) (res 2) (fun c _ o => .fsub c o),
  fi 0x081 1 ff true .dst .src false pkfI (resI 2) .fsubImm,
  f3 0x082 [0] ff true uDAB (fun _ => pkf) (res 2) (fun c _ o => .fmul c o),
  fi 0x082 1 ff true .dst .src false pkfI (resI 2) .fmulImm,
  f3 0x083 [0] ff true uDABC (fun _ => pkf) (res 2) (fun c _ o => .ffma c o),
  f3 0x084 [0] ff false uDAB (fun _ => pkf) (res 2) (fun c _ o => .fmin c o),
  fi 0x084 1 ff false .dst .src false pkfI (resI 2) .fminImm,
  f3 0x085 [0] ff false uDAB (fun _ => pkf) (res 2) (fun c _ o => .fmax c o),
  fi 0x085 1 ff false .dst .src false pkfI (resI 2) .fmaxImm,
  f3 0x086 [0] ff false ⟨.odst, .src, .src, .no, .no, true⟩ ok3 (res 7) (fun c _ o => .fcmp c o),
  fi 0x086 1 ff false .odst .src true (fun _ => false) (resI 7) .fcmpImm,
  f3 0x087 [0] ff false ⟨.odst, .src, .src, .no, .no, true⟩ ok3 (res 0) (fun c _ o => .fclass c o),
  f3 0x088 [0] ff true uDA ok3 (res 0) (fun c _ o => .frnd c o),
  f3 0x089 [0] Ty.all true uDA
    (fun _ o => o.sub.toNat / 16 == o.ty.code || (sb o 0 && (Ty.ofCode (o.sub.toNat / 16)).isB)) (res 0xF1)
    (fun c _ o => .cvt c o),
  f3 0x08A [0] [.f32] true uDABC (fun _ o => o.sub.toNat / 16 != 12 && o.sub.toNat / 16 != 13) (res 0xF0)
    (fun c _ o => .fdot2 c o),
  sf 0x08B [0, 1, 2] false .exp2,
  sf 0x08C [0, 1, 2] false .log2,
  sf 0x08D [0, 1, 2, 3] false .rcp,
  sf 0x08E [0, 1, 2] false .rsqrt,
  sf 0x08F [0, 1, 2, 3] true .sqrt,
  sf 0x090 [0, 1, 2] false .sin,
  sf 0x091 [0, 1, 2] false .cos,
  sf 0x092 [0, 1, 2] false .tanh,
  sf 0x093 [0, 1, 2] false .sigm,
  sf 0x094 [0, 1, 2] false .erf,
  f3 0x095 [0] [.b64, .b32, .f32] false ⟨.dst, .no, .no, .no, .no, false⟩ ok3 (res 0) (fun c _ o => .rngDraw c o),
  f3 0x096 [0] [.f16, .bf16, .f32] false ⟨.vreg, .src, .src, .no, .no, true⟩ ok3 (res 1) (fun c _ o => .gmax c o),
  f3 0x097 [0] [.f32, .f16, .bf16] false ⟨.dst, .src, .src, .no, .odst, false⟩ ok3 (res 1) (fun c _ o => .quant c o),
  f3 0x098 [0] [.f32, .f16, .bf16] false uDAB ok3 (res 1) (fun c _ o => .dequant c o)]

/-- The types that red.team and scan.team list for an operation (R291). -/
def redTys : Nat → List Ty
  | 0 => [.s32, .z32, .s64, .z64, .b32, .b64, .f16, .bf16, .f32, .f64]
  | 1 => [.s32, .z32, .s64, .z64, .f16, .bf16, .f32, .f64]
  | 2 => [.s32, .z32, .s64, .z64, .f16, .bf16, .f32, .f64]
  | 3 => [.b32, .b64]
  | 4 => [.b32, .b64]
  | 5 => [.b32, .b64]
  | _ => []

def uVAB : Use := ⟨.vreg, .src, .src, .no, .no, false⟩

/-- A predicate other than pt beside a register source of vote (R289). -/
def voteS (o : F3) : Bool := o.a != .sp 15 && o.sub.toNat % 16 != 15

/-- Lane and team rows (R247). -/
def laneRows : List Row := [
  f3 0x100 [0] bb false ⟨.vreg, .src, .src, .src, .no, true⟩ ok3 (res 3) (fun c _ o => .shfl c o),
  f3 0x101 [0] none1 false ⟨.ovreg, .src, .src, .no, .no, true⟩ ok3 (fun o => res 0x3F o || voteS o)
    (fun c _ o => .vote c o),
  fi 0x101 1 none1 false .ovreg .src true (fun _ => false) (resI 3) .voteImm,
  f3 0x102 [0] [.b32, .b64] false ⟨.vreg, .src, .src, .no, .no, true⟩ ok3 (res 0) (fun c _ o => .matchT c o),
  f3 0x103 [0] Ty.all false uVAB (fun _ o => !((redTys (o.sub.toNat % 8)).contains o.ty)) (res 7)
    (fun c _ o => .redTeam c o),
  fi 0x103 1 Ty.all false .vreg .src false (fun o => !((redTys o.sub.toNat).contains o.ty)) (resI 7) .redTeamImm,
  f3 0x104 [0] Ty.all false uVAB (fun _ o => !((redTys (o.sub.toNat % 8)).contains o.ty)) (res 7)
    (fun c _ o => .scanTeam c o),
  fi 0x104 1 Ty.all false .vreg .src false (fun o => !((redTys o.sub.toNat).contains o.ty)) (resI 7) .scanTeamImm,
  f3 0x105 [0] [.f32, .s32, .z32] false ⟨.vreg, .src, .src, .no, .no, true⟩
    (fun _ o => o.sub.toNat % 16 < 1 || o.sub.toNat % 16 > 8) (res 31) (fun c _ o => .topkIns c o)]

/-- SUB bit 0 of FM, RET. -/
def ret (o : FM) : Bool := o.sub.toNat.testBit 0
def retData (o : FM) : Slot := if ret o then .dst else .no
def subM (m : Nat) : FM → Bool := fun o => o.sub.toNat &&& (7 - m) != 0
def path0 : FM → Bool := fun o => o.path != 0
def i4 : List Ty := [.s32, .z32, .s64, .z64]
def atomTys : Nat → List Ty
  | 0 => i4 | 1 => i4 | 2 => i4
  | _ => [.b32, .b64]
def ordTys : Nat → List Ty
  | 3 => [.b32, .b64]
  | _ => i4 ++ [.f32, .f64]
def no3 : FM → Bool := fun _ => false

/-- Which load a PATH names (R248). -/
def mkLd (c : Ctl) (o : FM) : Instr :=
  if o.path = 0 then .ld c o else if o.path = 1 then .ldRo c o else if o.path = 2 then .ldC c o else .ldTl c o

/-- Memory, atomic and fence rows (R248). -/
def memRows : List Row := [
  fm 0x140 [0] (fun _ => Ty.all) (fun _ => .dst) .src .src no3 (subM 0) (fun c _ o => some (mkLd c o)),
  fm 0x141 [0] (fun _ => Ty.all) (fun _ => .src) .src .src path0 (subM 0) (fun c _ o => some (.st c o)),
  fm 0x142 [0] (fun _ => none1) (fun _ => .no) .src .src (fun o => o.path == 3) (subM 0) (fun c _ o => some (.pref c o)),
  f3 0x143 [0] [.z8, .s8, .z16, .s16, .z32, .s32, .f16, .bf16, .f32] false uDABC
    (fun _ o => o.sub.toNat % 4 == 3 || (o.sub.toNat % 4 == 2 && !o.ty.isF)) (res 3) (fun c _ o => .smp c o),
  fm 0x144 [0, 1, 2, 3, 4, 5, 6] atomTys retData .src .src no3 (fun o => path0 o || subM 1 o)
    (fun c fn o => some (.atom c fn o)),
  fm 0x145 [0, 1, 2] (fun _ => ff) retData .src .src no3 (fun o => path0 o || subM 1 o)
    (fun c fn o => some (.atomF c fn o)),
  fm 0x146 [0] (fun _ => [.b32, .b64]) (fun _ => .dst) .src .src (fun o => !ret o) (fun o => path0 o || subM 1 o)
    (fun c _ o => some (.atomCas c o)),
  fm 0x147 [0, 1, 2, 3] ordTys retData .src .src no3 (fun o => path0 o || subM 1 o)
    (fun c fn o => some (.atomOrd c fn o)),
  f3 0x148 [0, 1, 2, 3, 4, 5] none1 false u0 ok3 (res 0) .fence,
  f3 0x149 [0] none1 false u0 ok3 (res 0) (fun c _ o => .fencePath c o),
  fm 0x14A [0] (fun _ => none1) (fun _ => .dst) .src .no no3 (fun o => path0 o || subM 0 o) (fun c _ o => some (.acq c o)),
  fm 0x14A [1] (fun _ => none1) (fun _ => .dst) .src .src no3 (fun o => path0 o || subM 0 o) (fun c _ o => some (.acqGe c o)),
  fm 0x14A [2] (fun _ => none1) (fun _ => .vreg) .src .no no3 (fun o => path0 o || subM 0 o) (fun c _ o => some (.acqX c o)),
  fm 0x14B [0] (fun _ => none1) (fun _ => .no) .src .no no3 (fun o => path0 o || subM 0 o) (fun c _ o => some (.rel c o)),
  f3 0x14C [0] none1 false ⟨.no, .src, .src, .src, .no, false⟩ ok3 (res 0) (fun c _ o => .syncBind c o),
  f3 0x14D [0] none1 false ⟨.no, .src, .src, .src, .no, false⟩ ok3 (res 0) (fun c _ o => .syncUnbind c o),
  fm 0x14E [0] (fun _ => none1) (fun _ => .no) .src .src no3 (subM 0) (fun c _ o => some (.cinv c o)),
  fm 0x14F [0] (fun _ => none1) (fun _ => .no) .src .src path0 (subM 0) (fun c _ o => some (.cwb c o)),
  f3 0x1C0 [0] none1 false uDA ok3 (res 0) (fun c _ o => .aggDecl c o),
  f3 0x1C1 [0] none1 false ⟨.no, .src, .no, .no, .no, false⟩ ok3 (res 0) (fun c _ o => .aggFree c o),
  f3 0x1C2 [0] none1 false ⟨.dst, .src, .src, .src, .no, true⟩ ok3 (res 0) (fun c _ o => .aggRange c o),
  f3 0x1C3 [0] none1 false ⟨.dst, .src, .src, .no, .no, true⟩ ok3 (res 0) (fun c _ o => .aggPfx c o),
  f3 0x1C4 [0] none1 false ⟨.dst, .src, .no, .no, .no, true⟩ ok3 (res 0) (fun c _ o => .aggPick c o),
  f3 0x1C5 [0] none1 false ⟨.no, .src, .no, .no, .no, true⟩ ok3 (res 0) (fun c _ o => .aggSync c o)]

/-- XSUB bit 0: the cell number comes from source B, and NUM is 0 (R243, R315). -/
def ind (o : FX) : Bool := o.xsub.toNat.testBit 0
def cellB (o : FX) : Slot := if ind o then .src else .no
/-- XSUB bits outside m are reserved; the indirect form leaves NUM unused. -/
def cell4 (o : FX) : Bool := o.xsub.toNat &&& (0x3FFF - 1) != 0 || (ind o && o.num != 0)
def x4 (m : Nat) : FX → Bool := fun o => o.xsub.toNat &&& (0x3FFF - m) != 0
def n3 : FX → Bool := fun _ => false
/-- An engine command: bit 12 of XSUB is reserved, and without bit 13 the slot is unused (R317). -/
def eng4 (o : FX) : Bool := o.xsub.toNat.testBit 12 || (!o.xsub.toNat.testBit 13 && o.xsub != 0)
def uA : FX → Use := fun _ => ⟨.no, .src, .no, .no, .no, false⟩
def uC : FX → Use := fun o => ⟨.no, .no, cellB o, .no, .no, false⟩
def uCA : FX → Use := fun o => ⟨.no, .src, cellB o, .no, .no, false⟩
def uN : FX → Use := fun _ => {}

/-- Comb, engine and matrix rows (R250 to R252, R315, R317, R330 to R334, R368). -/
def fxRows : List Row := [
  fx 0x1E0 (fun _ => ⟨.vreg, .src, .no, .no, .no, false⟩) false false false n3 (x4 0) .combJoin,
  fx 0x1E1 uN false false false n3 (x4 0) .combLeave,
  fx 0x1E2 uC true true false n3 cell4 .combDef,
  fx 0x1E3 uCA true true false n3 cell4 .combDefs,
  fx 0x1E4 uC true true false n3 cell4 .combRd,
  fx 0x1E5 uCA true false false n3 cell4 .combRds,
  fx 0x1E6 uC true false false n3 cell4 .combKill,
  fx 0x1E7 (fun o => ⟨.dst, .no, cellB o, .no, .no, false⟩) true false false n3 cell4 .combQ,
  fx 0x1E8 (fun _ => ⟨.no, .src, .src, .no, .no, false⟩) false false false n3 (x4 0) .combMap,
  fx 0x200 uA true false true n3 eng4 .cpTensor,
  fx 0x201 uA true false true n3 eng4 .cpGather,
  fx 0x202 uA true false true n3 eng4 .cpScatter,
  fx 0x203 (fun _ => ⟨.no, .src, .src, .no, .no, false⟩) true false true n3 eng4 .cpMcast,
  fx 0x204 uA true false true n3 eng4 .cpFill,
  fx 0x205 uN true false true n3 (x4 0) .cpResume,
  f3 0x206 [0] none1 false uDA ok3 (res 7) (fun c _ o => .cbRd c o),
  fx 0x207 uA false false false n3 (x4 0) .dgNode,
  fx 0x208 (fun _ => ⟨.no, .src, .src, .no, .no, false⟩) false false false n3 (x4 0) .dgGo,
  fx 0x209 uA false false false (fun o => o.xsub.toNat % 4 == 3) (x4 3) .engGuard,
  fx 0x20A (fun _ => ⟨.no, .src, .vreg, .no, .no, false⟩) false false false n3 (x4 0) .wagSend,
  fx 0x20B (fun _ => ⟨.no, .src, .vreg, .no, .no, false⟩) false false false n3 (x4 0) .lqPush,
  fx 0x240 (fun _ => ⟨.odst, .src, .no, .no, .no, false⟩) false true false n3 (x4 0) .msSet,
  fx 0x241 (fun _ => ⟨.no, .vreg, .no, .no, .no, false⟩) false true false n3 (x4 0) .mLd,
  fx 0x242 (fun _ => ⟨.no, .vreg, .no, .no, .no, false⟩) false true false n3 (x4 0) .mSt,
  fx 0x243 uN false true false n3 (x4 0) .mZero,
  fx 0x244 (fun _ => ⟨.dst, .src, .no, .no, .no, false⟩) false false false n3 (x4 0) .rsvAlloc,
  fx 0x245 uA false false false n3 (x4 0) .rsvFree,
  fx 0x246 uA false false false n3 (x4 0) .mma,
  fx 0x247 (fun _ => ⟨.dst, .no, .no, .no, .no, false⟩) false false false n3 (x4 0) .mmaQ,
  fx 0x248 uCA true false false n3 cell4 .epi,
  fx 0x249 uA false false false n3 (x4 0) .outlAdd,
  fx 0x24A (fun o => ⟨.dst, .src, cellB o, .no, .no, false⟩) false false false n3 (x4 1) .amaxRd,
  fx 0x24B uA false false false n3 (x4 0) .accClr]

/-- A system register number of the table (R355). -/
def srKnown (n : Nat) : Bool :=
  n ≤ 3 || (0x10 ≤ n && n ≤ 0x18) || (0x20 ≤ n && n ≤ 0x22)
/-- A register that some level may write (R355). -/
def srWritable (n : Nat) : Bool := n ≤ 3 || n == 0x10 || n == 0x20
/-- IMM bits from n up are reserved. -/
def immHi (n : Nat) : FI → Bool := fun o => o.imm.toNat / 2 ^ n != 0 || o.sub != 0
def i3 : FI → Bool := fun _ => false
def u1 (d a : Slot) : Use := ⟨d, a, .no, .no, .no, false⟩

/-- Control, synchronisation and system rows (R253, R254). -/
def ctlRows : List Row := [
  fb 0x280 0 false .no true false false (fun _ => false) .bra,
  fb 0x281 0 false .src false false false (fun _ => false) .braI,
  fb 0x282 0 true .no true true false (fun _ => false) .callF,
  ⟨0x282, [1], fun _ b => (match b with | .fb _ => false | _ => true),
    fun _ b => (match b with | .fb o => o.argc == 0 && o.argb != .vz | _ => true),
    fun _ b => (match b with | .fb o => o.argc != 0 && Slot.vreg.bad2 o.argb | _ => true),
    fun c _ b => (match b with | .fb o => some (.callFH c o) | _ => none)⟩,
  fb 0x283 0 true .src false true false (fun _ => false) .callI,
  fb 0x283 1 true .src true true false (fun o => o.off.toNat / 2 ^ 14 != 0) .callIH,
  fb 0x284 0 true .no false true true (fun o => o.flg.toNat / 16 != 0) .callQ,
  f3 0x285 [0] none1 false u0 ok3 (res 0) (fun c _ o => .ret c o),
  f3 0x286 [0] none1 false (u1 .no .src) ok3 (res 0) (fun c _ o => .unwind c o),
  f3 0x287 [0] none1 false u0 ok3 (res 0) (fun c _ o => .exit c o),
  fi 0x288 0 none1 false .no .src false
    (fun o => bits o.imm.toNat 5 0 == 0 || bits o.imm.toNat 5 0 > 32 || bits o.imm.toNat 10 6 > 16) (immHi 11) .loopCap,
  fi 0x289 0 none1 false .no .no false i3 (resI 0) .loopStep,
  f3 0x28A [0] none1 false ⟨.dst, .src, .kreg, .no, .ovreg, true⟩ ok3 (res 0) (fun c _ o => .bktSel c o),
  f3 0x28B [0] none1 false ⟨.no, .no, .no, .no, .no, true⟩ ok3 (res 0) (fun c _ o => .elect c o),
  f3 0x28C [0] none1 false u0 ok3 (res 0) (fun c _ o => .yield c o),
  f3 0x28D [0] none1 false u0 ok3 (res 0) (fun c _ o => .nop c o),
  fi 0x2C0 0 none1 false .no .src false i3 (immHi 11) .barInit,
  fi 0x2C1 0 none1 false .no .no false i3 (immHi 11) .barArrive,
  fi 0x2C2 0 none1 false .no .no false i3 (immHi 11) .barWait,
  fi 0x2C3 0 none1 false .no .src false i3 (immHi 11) .barTx,
  f3 0x2C4 [0] none1 false (u1 .no .src) ok3 (res 0) (fun c _ o => .teamSync c o),
  fi 0x2C4 1 none1 false .no .no false i3 (resI 0) .teamSyncImm,
  fi 0x2C5 0 none1 false .no .no false i3 (immHi 30) .wait,
  fi 0x2E0 0 none1 false .no .src false (fun o => o.imm.toNat % 16 == 15) (immHi 4) .trap,
  f3 0x2E1 [0] none1 false u0 ok3 (res 0) (fun c _ o => .brk c o),
  fi 0x2E2 0 none1 false .dst .no false (fun o => !srKnown (o.imm.toNat % 4096)) (immHi 12) .rdsr,
  fi 0x2E3 0 none1 false .no .src false (fun o => !srWritable (o.imm.toNat % 4096)) (immHi 12) .wrsr,
  f3 0x2E4 [0] none1 false ⟨.vreg, .no, .no, .no, .no, true⟩ ok3 (res 0) (fun c _ o => .digestRd c o),
  f3 0x2E5 [0] none1 false ⟨.no, .src, .src, .no, .no, false⟩ ok3 (res 0) (fun c _ o => .tlbInv c o),
  fi 0x2E6 0 none1 false .no .no false i3 (resI 0) .sleep,
  f3 0x2E7 [0] none1 false u0 ok3 (res 0) (fun c _ o => .halt c o)]

/-- The whole opcode map. -/
def rows : List Row := intRows ++ floatRows ++ laneRows ++ memRows ++ fxRows ++ ctlRows

/-- The format of a word (R245 to R254): FN 1 chooses the immediate form where the map says so. -/
def form (opc fn : Nat) : Form :=
  if opc < 0x140 then
    if opc = 0x01B || opc = 0x01C then .fi
    else if fn = 1 && (opc < 0x08B || opc = 0x101 || opc = 0x103 || opc = 0x104) then .fi
    else .f3
  else if opc < 0x150 then
    if opc = 0x143 || opc = 0x148 || opc = 0x149 || opc = 0x14C || opc = 0x14D then .f3 else .fm
  else if opc < 0x1E0 then .f3
  else if opc < 0x280 then (if opc = 0x206 then .f3 else .fx)
  else if opc < 0x285 then .fb
  else if opc = 0x288 || opc = 0x289 then .fi
  else if opc < 0x2C0 then .f3
  else if opc = 0x2C4 then (if fn = 1 then .fi else .f3)
  else if opc = 0x2E1 || opc = 0x2E4 || opc = 0x2E5 || opc = 0x2E7 then .f3
  else .fi

/-- The row of an OPC and FN. -/
def rowOf (opc fn : Nat) : Option Row := rows.find? (fun r => r.opc == opc && r.fns.contains fn)

/-- An OPC that some row lists (R244). -/
def assigned (opc : Nat) : Bool := rows.any (fun r => r.opc == opc)

/-- The decode fault of a word, or 0 (R255 steps 1 to 4). -/
def dfault (opc fn : Nat) (b : Body) : Nat :=
  if !assigned opc then 0x01
  else match rowOf opc fn with
    | none => 0x03
    | some r => if r.bad3 fn b then 0x03 else if r.bad4 fn b then 0x04 else if r.bad2 fn b then 0x02 else 0

end Map
end Sys2Proof
end

