-- ==== Sys2Proof/Decode.lean ====
section
/-!
DEFINITION. Decoding and encoding of the 96-bit words of spec/10_encoding.md (R231, R233, R238 to R243). Decoding is
total: a word gives an instruction or the decode fault of R255 steps 1 to 4. The three little-endian 32-bit words of
R231 are one little-endian number of 12 bytes.
-/

namespace Sys2Proof

/-- The code of an operand (R11). -/
def Opnd.code : Opnd → Nat
  | .v n => n.val
  | .sp n => 0x0F0 + n.val
  | .k n => 0x100 + n.val
  | .rsv n => 0x140 + n.val
  | .imm n => 0x1C0 + n.val

/-- The operand of a 9-bit code (R11). -/
def Opnd.ofCode (c : Nat) : Opnd :=
  if h : c < 240 then .v ⟨c, h⟩
  else if h : c - 240 < 16 then .sp ⟨c - 240, h⟩
  else if h : c - 256 < 64 then .k ⟨c - 256, h⟩
  else if h : c - 320 < 128 then .rsv ⟨c - 320, h⟩
  else .imm ⟨(c - 448) % 64, Nat.mod_lt _ (by decide)⟩

/-- Bits hi to lo of a word as a bounded number. -/
def fld (w lo n : Nat) : Fin (2 ^ n) := ⟨w / 2 ^ lo % 2 ^ n, Nat.mod_lt _ (Nat.two_pow_pos n)⟩

/-- The operand in bits lo + 8 to lo. -/
def opndAt (w lo : Nat) : Opnd := Opnd.ofCode (fld w lo 9).val

/-- The common fields (R233). -/
def decodeCtl (w : Nat) : Ctl where
  gaN := (fld w 81 1).val == 1
  gaI := fld w 77 4
  gbN := (fld w 76 1).val == 1
  gbI := fld w 72 4
  stall := fld w 69 3
  yld := (fld w 68 1).val == 1
  hold := fld w 66 2
  ch := fld w 63 3

/-- The operand area under F3 (R238). -/
def decodeF3 (w : Nat) : F3 where
  d := opndAt w 54
  a := opndAt w 45
  b := opndAt w 36
  c := opndAt w 27
  e := opndAt w 18
  pd := fld w 14 4
  rm := RM.ofCode (fld w 12 2).val
  ty := Ty.ofCode (fld w 8 4).val
  sub := BitVec.ofFin (fld w 0 8)

/-- The operand area under FI (R240). -/
def decodeFI (w : Nat) : FI where
  d := opndAt w 54
  a := opndAt w 45
  imm := BitVec.ofFin (fld w 13 32)
  pd := fld w 9 4
  rm := RM.ofCode (fld w 7 2).val
  ty := Ty.ofCode (fld w 3 4).val
  sub := BitVec.ofFin (fld w 0 3)

/-- The operand area under FM (R241). -/
def decodeFM (w : Nat) : FM where
  data := opndAt w 54
  base := opndAt w 45
  index := opndAt w 36
  off := BitVec.ofFin (fld w 12 24)
  path := fld w 10 2
  scope := fld w 7 3
  ty := Ty.ofCode (fld w 3 4).val
  sub := BitVec.ofFin (fld w 0 3)

/-- The operand area under FB (R242). -/
def decodeFB (w : Nat) : FB where
  argb := opndAt w 54
  tgt := opndAt w 45
  off := BitVec.ofFin (fld w 21 24)
  dem := BitVec.ofFin (fld w 13 8)
  argc := BitVec.ofFin (fld w 5 8)
  flg := BitVec.ofFin (fld w 0 5)

/-- The operand area under FX (R243). -/
def decodeFX (w : Nat) : FX where
  d := opndAt w 54
  a := opndAt w 45
  b := opndAt w 36
  num := BitVec.ofFin (fld w 24 12)
  mt := fld w 21 3
  cb := fld w 18 3
  pd := fld w 14 4
  xsub := BitVec.ofFin (fld w 0 14)

/-- The operand area under the format of OPC and FN. -/
def decodeBody (f : Form) (w : Nat) : Body :=
  match f with
  | .f3 => .f3 (decodeF3 w)
  | .fi => .fi (decodeFI w)
  | .fm => .fm (decodeFM w)
  | .fb => .fb (decodeFB w)
  | .fx => .fx (decodeFX w)

/-- The instruction of a 96-bit word, or the code of its decode fault (R255 steps 1 to 4). -/
def decodeWord (w : Nat) : Except Nat Instr :=
  let opc := (fld w 86 10).val
  let fn := fld w 82 4
  let b := decodeBody (Map.form opc fn.val) w
  match Map.dfault opc fn.val b with
  | 0 =>
    match (Map.rowOf opc fn.val).bind (fun r => r.build (decodeCtl w) fn b) with
    | some i => .ok i
    | none => .error 0x01
  | f + 1 => .error (f + 1)

/-- The instruction of the first 12 bytes of a list, with the rest (R231); none when fewer are given. -/
def decodeBytes (bs : List Byte) : Option (Except Nat Instr × List Byte) :=
  if bs.length < 12 then none else some (decodeWord (leNat (bs.take 12)), bs.drop 12)

/-- The instruction read from a word whose bits are numbered as spec/opcode_table.json numbers them: the 12 bytes as
the hardware stores them, given to the decoder. The bits above nbits are 0. -/
def decodeTableWord (nbits w : Nat) : Option Instr :=
  match decodeBytes (leBytes 12 (w % 2 ^ nbits)) with
  | some (.ok i, _) => some i
  | _ => none

/-! ## Encoding -/

/-- OPC, FN, common fields and operand area of an instruction; a machine event has none. -/
structure Parts where
  opc : Nat
  fn : Fin 16
  c : Ctl
  body : Body

def p3 (opc : Nat) (fn : Fin 16) (c : Ctl) (o : F3) : Option Parts := some ⟨opc, fn, c, .f3 o⟩
def pI (opc : Nat) (fn : Fin 16) (c : Ctl) (o : FI) : Option Parts := some ⟨opc, fn, c, .fi o⟩
def pM (opc : Nat) (fn : Fin 16) (c : Ctl) (o : FM) : Option Parts := some ⟨opc, fn, c, .fm o⟩
def pB (opc : Nat) (fn : Fin 16) (c : Ctl) (o : FB) : Option Parts := some ⟨opc, fn, c, .fb o⟩
def pX (opc : Nat) (c : Ctl) (o : FX) : Option Parts := some ⟨opc, 0, c, .fx o⟩

/-- The word's parts (R233, R245 to R254). -/
def Instr.parts : Instr → Option Parts
  | .add c o => p3 0x000 0 c o
  | .addImm c o => pI 0x000 1 c o
  | .sub c o => p3 0x001 0 c o
  | .subImm c o => pI 0x001 1 c o
  | .mul c o => p3 0x002 0 c o
  | .mulImm c o => pI 0x002 1 c o
  | .mulh c o => p3 0x003 0 c o
  | .mad c o => p3 0x004 0 c o
  | .div c o => p3 0x005 0 c o
  | .rem c o => p3 0x006 0 c o
  | .neg c o => p3 0x007 0 c o
  | .abs c o => p3 0x008 0 c o
  | .min c o => p3 0x009 0 c o
  | .minImm c o => pI 0x009 1 c o
  | .max c o => p3 0x00A 0 c o
  | .maxImm c o => pI 0x00A 1 c o
  | .sad c o => p3 0x00B 0 c o
  | .and c o => p3 0x00C 0 c o
  | .andImm c o => pI 0x00C 1 c o
  | .or c o => p3 0x00D 0 c o
  | .orImm c o => pI 0x00D 1 c o
  | .xor c o => p3 0x00E 0 c o
  | .xorImm c o => pI 0x00E 1 c o
  | .not c o => p3 0x00F 0 c o
  | .shl c o => p3 0x010 0 c o
  | .shlImm c o => pI 0x010 1 c o
  | .shr c o => p3 0x011 0 c o
  | .shrImm c o => pI 0x011 1 c o
  | .sar c o => p3 0x012 0 c o
  | .sarImm c o => pI 0x012 1 c o
  | .rot c o => p3 0x013 0 c o
  | .rotImm c o => pI 0x013 1 c o
  | .clz c o => p3 0x014 0 c o
  | .ctz c o => p3 0x015 0 c o
  | .popc c o => p3 0x016 0 c o
  | .brev c o => p3 0x017 0 c o
  | .sel c o => p3 0x018 0 c o
  | .cmp c o => p3 0x019 0 c o
  | .cmpImm c o => pI 0x019 1 c o
  | .mov c o => p3 0x01A 0 c o
  | .movi c o => pI 0x01B 0 c o
  | .movh c o => pI 0x01C 0 c o
  | .ext c o => p3 0x01D 0 c o
  | .lea c o => p3 0x01E 0 c o
  | .pack c o => p3 0x01F 0 c o
  | .unpack c o => p3 0x020 0 c o
  | .swz c o => p3 0x021 0 c o
  | .dot4 c o => p3 0x022 0 c o
  | .bfx c o => p3 0x023 0 c o
  | .bfi c o => p3 0x024 0 c o
  | .bmm8 c o => p3 0x025 0 c o
  | .pdep c o => p3 0x026 0 c o
  | .pext c o => p3 0x027 0 c o
  | .bperm c o => p3 0x028 0 c o
  | .fadd c o => p3 0x080 0 c o
  | .faddImm c o => pI 0x080 1 c o
  | .fsub c o => p3 0x081 0 c o
  | .fsubImm c o => pI 0x081 1 c o
  | .fmul c o => p3 0x082 0 c o
  | .fmulImm c o => pI 0x082 1 c o
  | .ffma c o => p3 0x083 0 c o
  | .fmin c o => p3 0x084 0 c o
  | .fminImm c o => pI 0x084 1 c o
  | .fmax c o => p3 0x085 0 c o
  | .fmaxImm c o => pI 0x085 1 c o
  | .fcmp c o => p3 0x086 0 c o
  | .fcmpImm c o => pI 0x086 1 c o
  | .fclass c o => p3 0x087 0 c o
  | .frnd c o => p3 0x088 0 c o
  | .cvt c o => p3 0x089 0 c o
  | .fdot2 c o => p3 0x08A 0 c o
  | .exp2 c fn o => p3 0x08B fn c o
  | .log2 c fn o => p3 0x08C fn c o
  | .rcp c fn o => p3 0x08D fn c o
  | .rsqrt c fn o => p3 0x08E fn c o
  | .sqrt c fn o => p3 0x08F fn c o
  | .sin c fn o => p3 0x090 fn c o
  | .cos c fn o => p3 0x091 fn c o
  | .tanh c fn o => p3 0x092 fn c o
  | .sigm c fn o => p3 0x093 fn c o
  | .erf c fn o => p3 0x094 fn c o
  | .rngDraw c o => p3 0x095 0 c o
  | .gmax c o => p3 0x096 0 c o
  | .quant c o => p3 0x097 0 c o
  | .dequant c o => p3 0x098 0 c o
  | .shfl c o => p3 0x100 0 c o
  | .vote c o => p3 0x101 0 c o
  | .voteImm c o => pI 0x101 1 c o
  | .matchT c o => p3 0x102 0 c o
  | .redTeam c o => p3 0x103 0 c o
  | .redTeamImm c o => pI 0x103 1 c o
  | .scanTeam c o => p3 0x104 0 c o
  | .scanTeamImm c o => pI 0x104 1 c o
  | .topkIns c o => p3 0x105 0 c o
  | .ld c o => pM 0x140 0 c o
  | .ldRo c o => pM 0x140 0 c o
  | .ldC c o => pM 0x140 0 c o
  | .ldTl c o => pM 0x140 0 c o
  | .st c o => pM 0x141 0 c o
  | .pref c o => pM 0x142 0 c o
  | .smp c o => p3 0x143 0 c o
  | .atom c fn o => pM 0x144 fn c o
  | .atomF c fn o => pM 0x145 fn c o
  | .atomCas c o => pM 0x146 0 c o
  | .atomOrd c fn o => pM 0x147 fn c o
  | .fence c fn o => p3 0x148 fn c o
  | .fencePath c o => p3 0x149 0 c o
  | .acq c o => pM 0x14A 0 c o
  | .acqGe c o => pM 0x14A 1 c o
  | .acqX c o => pM 0x14A 2 c o
  | .rel c o => pM 0x14B 0 c o
  | .syncBind c o => p3 0x14C 0 c o
  | .syncUnbind c o => p3 0x14D 0 c o
  | .cinv c o => pM 0x14E 0 c o
  | .cwb c o => pM 0x14F 0 c o
  | .aggDecl c o => p3 0x1C0 0 c o
  | .aggFree c o => p3 0x1C1 0 c o
  | .aggRange c o => p3 0x1C2 0 c o
  | .aggPfx c o => p3 0x1C3 0 c o
  | .aggPick c o => p3 0x1C4 0 c o
  | .aggSync c o => p3 0x1C5 0 c o
  | .combJoin c o => pX 0x1E0 c o
  | .combLeave c o => pX 0x1E1 c o
  | .combDef c o => pX 0x1E2 c o
  | .combDefs c o => pX 0x1E3 c o
  | .combRd c o => pX 0x1E4 c o
  | .combRds c o => pX 0x1E5 c o
  | .combKill c o => pX 0x1E6 c o
  | .combQ c o => pX 0x1E7 c o
  | .combMap c o => pX 0x1E8 c o
  | .cpTensor c o => pX 0x200 c o
  | .cpGather c o => pX 0x201 c o
  | .cpScatter c o => pX 0x202 c o
  | .cpMcast c o => pX 0x203 c o
  | .cpFill c o => pX 0x204 c o
  | .cpResume c o => pX 0x205 c o
  | .cbRd c o => p3 0x206 0 c o
  | .dgNode c o => pX 0x207 c o
  | .dgGo c o => pX 0x208 c o
  | .engGuard c o => pX 0x209 c o
  | .wagSend c o => pX 0x20A c o
  | .lqPush c o => pX 0x20B c o
  | .msSet c o => pX 0x240 c o
  | .mLd c o => pX 0x241 c o
  | .mSt c o => pX 0x242 c o
  | .mZero c o => pX 0x243 c o
  | .rsvAlloc c o => pX 0x244 c o
  | .rsvFree c o => pX 0x245 c o
  | .mma c o => pX 0x246 c o
  | .mmaQ c o => pX 0x247 c o
  | .epi c o => pX 0x248 c o
  | .outlAdd c o => pX 0x249 c o
  | .amaxRd c o => pX 0x24A c o
  | .accClr c o => pX 0x24B c o
  | .bra c o => pB 0x280 0 c o
  | .braI c o => pB 0x281 0 c o
  | .callF c o => pB 0x282 0 c o
  | .callFH c o => pB 0x282 1 c o
  | .callI c o => pB 0x283 0 c o
  | .callIH c o => pB 0x283 1 c o
  | .callQ c o => pB 0x284 0 c o
  | .ret c o => p3 0x285 0 c o
  | .unwind c o => p3 0x286 0 c o
  | .exit c o => p3 0x287 0 c o
  | .loopCap c o => pI 0x288 0 c o
  | .loopStep c o => pI 0x289 0 c o
  | .bktSel c o => p3 0x28A 0 c o
  | .elect c o => p3 0x28B 0 c o
  | .yield c o => p3 0x28C 0 c o
  | .nop c o => p3 0x28D 0 c o
  | .barInit c o => pI 0x2C0 0 c o
  | .barArrive c o => pI 0x2C1 0 c o
  | .barWait c o => pI 0x2C2 0 c o
  | .barTx c o => pI 0x2C3 0 c o
  | .teamSync c o => p3 0x2C4 0 c o
  | .teamSyncImm c o => pI 0x2C4 1 c o
  | .wait c o => pI 0x2C5 0 c o
  | .trap c o => pI 0x2E0 0 c o
  | .brk c o => p3 0x2E1 0 c o
  | .rdsr c o => pI 0x2E2 0 c o
  | .wrsr c o => pI 0x2E3 0 c o
  | .digestRd c o => p3 0x2E4 0 c o
  | .tlbInv c o => p3 0x2E5 0 c o
  | .sleep c o => pI 0x2E6 0 c o
  | .halt c o => p3 0x2E7 0 c o
  | .tlbMissWalk _ _ _ => none
  | .hostTranslationResponse _ _ _ _ => none
  | .hostRequestTimeout _ _ _ => none
  | .atsInvalidation _ _ _ => none
  | .flitInjection _ => none
  | .flitArrival _ _ => none
  | .sliceRequest _ => none
  | .replyArrival _ => none
  | .requestRetransmit _ => none
  | .congestionWindowEnd => none
  | .aggUpdateApply _ _ => none
  | .aggQueryAccept _ => none
  | .aggBuildComplete _ => none
  | .aggFreeDrain _ => none
  | .orderedEntryArrival _ => none
  | .floorReport _ _ => none
  | .orderedEntryApply _ _ => none
  | .scalingRingPush _ => none
  | .combCopyComplete _ => none
  | .combLeaveComplete _ => none
  | .combPlacementMove _ _ _ => none
  | .engineCommandDispatch _ => none
  | .engineUnitComplete _ _ _ _ => none
  | .stallCountExpire _ _ => none
  | .sleepExpire _ _ => none
  | .calleeQueueDrain _ => none
  | .swarmStart _ => none
  | .mmaComplete _ => none
  | .epiComplete _ => none
  | .tileTransferComplete _ => none
  | .matrixClaimGrant _ => none
  | .matrixEviction _ => none
  | .doorbell _ _ _ => none
  | .ringCommandNop _ _ => none
  | .ringCommandLaunch _ _ => none
  | .ringCommandGraph _ _ => none
  | .ringCommandDigestReset _ _ => none
  | .graphPredDecrement _ => none
  | .launchQueueTake _ _ => none
  | .workgroupPlace _ => none
  | .priorityReserve _ => none
  | .granuleClearComplete _ => none
  | .workgroupRetire _ => none
  | .digestLinkAppend _ _ => none
  | .waggleHandlerLaunch _ => none
  | .faultRecordRelease _ => none
  | .workgroupSave _ => none
  | .workgroupRestore _ _ _ => none
  | .eccCorrected _ _ => none
  | .fatalError _ _ => none
  | .powerArbiterTick _ _ => none
  | .hostBar2Access _ _ _ _ => none
  | .registerWrite _ _ _ => none
  | .qtabWrite _ _ _ => none
  | .fqstatClear _ => none
  | .fqresp1 _ _ => none
  | .switchOut _ _ => none
  | .switchIn _ _ => none
  | .restore _ _ => none
  | .attest _ _ => none
  | .faultQueuePost _ => none
  | .faultQueueDrain _ => none
  | .createCq _ => none
  | .destroyCq _ => none
  | .createQp _ => none
  | .modifyQp _ => none
  | .destroyQp _ => none
  | .regMr _ => none
  | .deregMr _ => none
  | .sqdb _ _ => none
  | .rqdb _ _ => none
  | .sendWorkRequest _ _ _ _ => none
  | .roceInbound _ _ _ _ _ _ _ => none
  | .remoteEncapRequest _ _ _ _ _ _ _ => none
  | .remoteRetransmit _ => none
  | .hostLinkDown => none
  | .flrVf _ => none
  | .partitionCreate _ _ _ _ _ _ _ _ _ _ _ => none
  | .partitionResize _ _ _ _ _ => none
  | .firmwareStage _ _ => none
  | .moduleReset => none
  | .localAccessComplete _ => none
  | .hbmReadComplete _ _ _ => none
  | .combDefinitionComplete _ => none
  | .yieldHoldExpire _ _ => none
  | .hostCompletion _ _ => none
  | .roceRetryTimeout _ _ => none
  | .lossOfPower => none

/-- A field of value x at bit lo. -/
def at' (x lo : Nat) : Nat := x * 2 ^ lo

/-- A bit as a number. -/
def b2n (b : Bool) : Nat := if b then 1 else 0

/-- The common fields at their places (R233). -/
def encodeCtl (c : Ctl) : Nat :=
  at' (b2n c.gaN) 81 + at' c.gaI.val 77 + at' (b2n c.gbN) 76 + at' c.gbI.val 72 + at' c.stall.val 69 +
  at' (b2n c.yld) 68 + at' c.hold.val 66 + at' c.ch.val 63

/-- The operand area at the places of R238 and R240 to R243. -/
def encodeBody : Body → Nat
  | .f3 o => at' o.d.code 54 + at' o.a.code 45 + at' o.b.code 36 + at' o.c.code 27 + at' o.e.code 18 +
      at' o.pd.val 14 + at' o.rm.code 12 + at' o.ty.code 8 + o.sub.toNat
  | .fi o => at' o.d.code 54 + at' o.a.code 45 + at' o.imm.toNat 13 + at' o.pd.val 9 + at' o.rm.code 7 +
      at' o.ty.code 3 + o.sub.toNat
  | .fm o => at' o.data.code 54 + at' o.base.code 45 + at' o.index.code 36 + at' o.off.toNat 12 +
      at' o.path.val 10 + at' o.scope.val 7 + at' o.ty.code 3 + o.sub.toNat
  | .fb o => at' o.argb.code 54 + at' o.tgt.code 45 + at' o.off.toNat 21 + at' o.dem.toNat 13 +
      at' o.argc.toNat 5 + o.flg.toNat
  | .fx o => at' o.d.code 54 + at' o.a.code 45 + at' o.b.code 36 + at' o.num.toNat 24 + at' o.mt.val 21 +
      at' o.cb.val 18 + at' o.pd.val 14 + o.xsub.toNat

/-- The 96-bit word of an instruction (R231, R233); a machine event has none. -/
def encode (i : Instr) : Option Nat :=
  i.parts.map (fun p => at' p.opc 86 + at' p.fn.val 82 + encodeCtl p.c + encodeBody p.body)

/-- The 12 bytes of an instruction, lowest address first (R231). -/
def encodeBytes (i : Instr) : Option (List Byte) := (encode i).map (leBytes 12)

/-- A machine event, which no word encodes (spec/95_what_each_step_holds.md). -/
def Instr.isEvent (i : Instr) : Bool := i.parts.isNone

/-- PATH names the load that the constructor stands for (R248). -/
def Instr.pathOk : Instr → Bool
  | .ld _ o => o.path == 0
  | .ldRo _ o => o.path == 1
  | .ldC _ o => o.path == 2
  | .ldTl _ o => o.path == 3
  | _ => true

end Sys2Proof
end

