-- ==== Sys2Proof/Config.lean ====
section
/-!
DEFINITION. What the part fixes (spec/00_scope.md R2, spec/03_memory_paths.md) and the free values: constants with no
body, of which nothing can be proved (notes/assumptions/2.md).
-/

namespace Sys2Proof.Config

/-- Cores, slices and hives of the module (R2). -/
def cores : Nat := 256
def slices : Nat := 128
def hives : Nat := 32
def dies : Nat := 4
/-- First physical address above HBM (R56). -/
def hbmTop : Nat := 0xC0_0000_0000
/-- Bytes of a channel group (R56). -/
def groupBytes : Nat := 48 * 2 ^ 30
/-- Line size of every cache (spec/03_memory_paths.md). -/
def line : Nat := 64

/-- The n-th free value that a step draws. -/
opaque freeValue : Nat → Word
/-- Which faithful neighbour a special function returns: a function code, the format code and the argument (R217, R218). -/
opaque roundUpwards : Nat → Nat → Nat → Bool
/-- What an FP32 immediate stands for in a narrower format that does not hold its value (R240 gives only exact ones):
type code and immediate. -/
opaque inexactImm : Nat → Nat → Nat
/-- The sampled cycle count of a core may differ from the module's count (R12). -/
opaque clockSkew : Nat → Nat
/-- Deflections of flits headed to a slice in the window that ends at a cycle (R62). -/
opaque deflections : Nat → Nat → Nat
/-- Whether a fetch of an overwritten byte sees the older value (R232), per fetch. -/
opaque fetchOld : Nat → Nat → Bool
/-- Where the log-domain unit's result lies within the bound of R229, per mode and operands. -/
opaque logPick : Nat → Nat → Nat → Nat
/-- The entry of a saved context section that a restore finds (R400: the encoding belongs to the device). -/
opaque sectionByte : Nat → Nat → Byte
/-- The entry of a region's frame map for a frame, in the device's own format (R72). -/
opaque frameEntry : Nat → Word
/-- The header of a firmware image is well formed; its two public keys; whether its Ed25519 and its ML-DSA-65 signature verify over its body;
its security version (R431: the image's format belongs to the device). -/
opaque headerOk : List Byte → Bool
opaque imageKeys : List Byte → List Byte
opaque ed25519Ok : List Byte → Bool
opaque mlDsaOk : List Byte → Bool
opaque imageVersion : List Byte → Nat
/-- What is fused into the package: the SHA3-256 of the two public keys, and the least security version (R431). -/
opaque fusedKeys : List Byte
opaque fusedMinimum : Nat
/-- The bytes of a signed attestation report over what it holds (R431). -/
opaque report : List Nat → List Byte
/-- Retransmissions of a RoCE request before it fails (R429). -/
opaque roceRetries : Nat
/-- OWN of the entries of the first pass round a completion ring (R429). -/
opaque firstOwn : Bool

/-- The weight, in 256ths, that smp.lin gives at a coordinate for which R308 states none (an infinite one). -/
opaque sampleWeight : BitVec 32 → BitVec 8

end Sys2Proof.Config
end

