-- ==== Sys2Proof/Machine/Tab.lean ====
section
/-!
DEFINITION. Tables as lists sorted by key, and memory as a list of (address, byte) pairs in one canonical form:
addresses strictly rising, no entry equal to what an unlisted address reads as. An unlisted byte reads 0, because
bring-up clears HBM (spec/16_device.md R433).
-/

namespace Sys2Proof.Machine

/-- A table: entries in rising order of their keys. -/
abbrev Tab (α : Type) := List (Nat × α)

def tget {α : Type} : Tab α → Nat → Option α
  | [], _ => none
  | (k, x) :: t, i => if i = k then some x else tget t i

def tset {α : Type} : Tab α → Nat → α → Tab α
  | [], i, y => [(i, y)]
  | (k, x) :: t, i, y => if i < k then (i, y) :: (k, x) :: t else if i = k then (i, y) :: t else (k, x) :: tset t i y

def tdel {α : Type} : Tab α → Nat → Tab α
  | [], _ => []
  | (k, x) :: t, i => if i = k then t else (k, x) :: tdel t i

/-- Change the entry of a key, if there is one. -/
def tmod {α : Type} (t : Tab α) (i : Nat) (f : α → α) : Tab α :=
  match tget t i with
  | some x => tset t i (f x)
  | none => t

def thas {α : Type} (t : Tab α) (i : Nat) : Bool := (tget t i).isSome

/-- The smallest number that no key of the table holds. -/
def tfree {α : Type} (t : Tab α) : Nat := t.foldl (fun n e => if e.1 = n then n + 1 else n) 0

/-- Memory of bytes. -/
abbrev Mem := List Host.Cell

/-- What a byte that nothing has written reads as. -/
def unlisted : Byte := 0

def memGet : Mem → Nat → Byte
  | [], _ => unlisted
  | (a, b) :: m, x => if x = a then b else if x < a then unlisted else memGet m x

def memSet : Mem → Nat → Byte → Mem
  | [], a, b => if b = unlisted then [] else [(a, b)]
  | (k, c) :: m, a, b =>
    if a < k then (if b = unlisted then (k, c) :: m else (a, b) :: (k, c) :: m)
    else if a = k then (if b = unlisted then m else (a, b) :: m)
    else (k, c) :: memSet m a b

/-- n bytes from address a up. -/
def memRead (m : Mem) (a : Nat) : Nat → List Byte
  | 0 => []
  | n + 1 => memGet m a :: memRead m (a + 1) n

/-- Write a list of bytes from address a up. -/
def memWrite : Mem → Nat → List Byte → Mem
  | m, _, [] => m
  | m, a, b :: bs => memWrite (memSet m a b) (a + 1) bs

/-- The canonical form, above a bound. -/
def Memory.wfFrom : Nat → Mem → Bool
  | _, [] => true
  | lo, (a, b) :: m => decide (lo ≤ a) && b != unlisted && Memory.wfFrom (a + 1) m

/-- The canonical form of a memory. -/
def Memory.wf (m : Mem) : Bool := Memory.wfFrom 0 m

/-- A little-endian number of n bytes at a. -/
def memNat (m : Mem) (a n : Nat) : Nat := leNat (memRead m a n)

end Sys2Proof.Machine
end

