-- ==== Sys2Proof/Machine/State.lean ====
section
/-!
DEFINITION. The state of the module as plain data: threads, workgroups, launches, cores, slices, networks, Comb
directories, partitions, host. Every field names the rule of spec/ that gives it. Tables are lists in rising key order.
-/

namespace Sys2Proof.Machine

/-- Kinds of access that R25 and R34 tell apart. -/
inductive Acc where
  | fetch | load | store | atomic
deriving DecidableEq, Repr

/-- A failed translation that its access has still to take: address, kind, path, level and code (R37). -/
structure XFail where
  va : Nat
  acc : Acc
  ro : Bool
  user : Bool
  code : Nat
deriving DecidableEq, Repr

/-! ## Threads (spec/07_execution.md) -/

/-- A register frame (R166 to R169). slots are its registers, padding included; link is the link register. -/
structure Frame where
  /-- The model's own name of the frame, which pending writes carry. -/
  id : Nat := 0
  base : Bool := false
  /-- Declared size n or N (R167). -/
  decl : Nat := 0
  /-- Granules it occupies, lowest first (R166). -/
  grans : List Nat := []
  slots : List Word := []
  link : Word := 0
  /-- Moved to its thread's spill stack (R172). -/
  spilled : Bool := false
  /-- Its record did not fit the spill stack at a save and stands in the Frames section (R178, R400). -/
  stored : Bool := false
  /-- Granted or refilled since its thread last issued (R172). -/
  fresh : Bool := false
  /-- Slots whose word holds an uncorrectable error (R411). -/
  bad : List Nat := []
  /-- Words for its spill record, from a slot up, that wait for a page of the host (R30, R41). -/
  late : List (Nat × List Word) := []
deriving DecidableEq, Repr

/-- A loop record (R345). -/
structure LoopRec where
  b : Nat
  len : Nat
  trips : Nat
  pass : Nat
  /-- Body index, field and increment of each step (R343). -/
  steps : List (Nat × Nat × Int)
deriving DecidableEq, Repr

/-- What a parked thread waits for (R152; R108, R122, R163, R350, R351, R358, R392, R396). -/
inductive Park where
  /-- A Comb cell of a directory; reading or defining. -/
  | cell (dir cell : Nat) (reads : Bool)
  /-- An operation on a sync object: the request that waits at the home slice. -/
  | sync (op : Nat)
  /-- A barrier, in bar.wait from phase ph, or in bar.arrive. -/
  | barrier (n ph : Nat) (waits : Bool)
  /-- sleep, until a count of delivered cycles. -/
  | sleep (until_ : Nat)
  /-- A host page request. -/
  | hostPage
  /-- Callee queue q since a cycle; the frame is allocated and target is the callee. -/
  | calleeQ (q since target : Nat)
  /-- A fault record, by the model's number of it. -/
  | record (r : Nat)
  /-- A kind-2 entry of the fault queue, by the model's number of it. -/
  | entry (e : Nat)
deriving DecidableEq, Repr

/-- Thread states of R152; READY and WAITING are told apart by what the thread waits for. -/
inductive TState where
  | run
  /-- At a cross-lane instruction, with the member mask it carries (R162). -/
  | gathering (mask : Nat)
  | parked (p : Park)
  | frameWait
  | refillWait
  | exited
deriving DecidableEq, Repr

/-- Where a result goes: a register of a frame by the frame's name, a uniform register, a predicate of threads. -/
inductive Dst where
  | v (frame slot : Nat)
  | k (n : Nat)
  | p (n : Nat) (tids : List Nat)
deriving DecidableEq, Repr

/-- What holds a thread at an instruction that it has begun (R125, R122, R131). -/
inductive Hold where
  /-- The instruction ends when an operation has been performed. -/
  | op (id : Nat)
  /-- A fence, release or wait looks at operations older than the mark. -/
  | mark (id : Nat)
  /-- tlb.inv has removed the entries that its operands name, and waits for accesses older than the mark (R42). -/
  | inval (id a b : Nat)
  /-- An engine command past step 5 of R318: its descriptor, barrier and receivers. -/
  | command (desc : List Byte) (bar : Option Nat) (recv : List (Option Nat × Nat))
  /-- bkt.sel has found which registers its table makes it read and write, and one of them has a write pending (R153, R346). -/
  | group (ds : List Dst)
deriving DecidableEq, Repr

/-- A call that waits for its frame (R170, R339). -/
structure PendCall where
  demand : Nat
  window : Nat
  args : Nat
  target : Nat
  /-- The handler offset minus 1, for a handler form. -/
  handler : Option Int
  /-- The callee queue, for call.q. -/
  queue : Option Nat
deriving DecidableEq, Repr

/-- A deferred fault that waits for its thread to stop (R390, R456). -/
structure Deferred where
  /-- The operation, or 0 for a fault of the Swarm engine. -/
  op : Nat
  code : Nat
  /-- The faulting instruction's index. -/
  spc : Nat
  addr : Nat
deriving DecidableEq, Repr

/-- A thread (R150, R151). -/
structure Thread where
  pc : BitVec 24 := 0
  st : TState := .run
  /-- Its frame stack, top first. -/
  frames : List Frame := []
  /-- p0 to p14. -/
  preds : List Bool := List.replicate 15 false
  /-- sr.RNGCTR (R294). -/
  rngctr : Word := 0
  /-- sr.EPOCH and sr.OPIDX (R138). -/
  epoch : Word := 0
  opidx : Word := 0
  /-- sr.CAUSE, sr.EPC, sr.FADDR, sr.TVAL (R355). -/
  cause : Word := 0
  epc : Word := 0
  faddr : Word := 0
  tval : Word := 0
  /-- sr.CONGSEL (R62). -/
  congsel : BitVec 7 := 0
  /-- sr.SPTOP (R173). -/
  sptop : Nat := 0
  loop : Option LoopRec := none
  /-- Barrier and phase of its last arrival (R348). -/
  arrival : Option (Nat × Nat) := none
  /-- Cycle at which its stall count has elapsed (R153). -/
  stallTo : Option Nat := none
  /-- Cycle at which the hold of yield ends (R347). -/
  yieldTo : Option Nat := none
  hold : Option Hold := none
  call : Option PendCall := none
  /-- It returns into a spilled caller: the callee stands on top until the refill (R174). -/
  returning : Bool := false
  /-- Cycle of entry into FRAME-WAIT or REFILL-WAIT (R170, R171). -/
  needAt : Nat := 0
  faults : List Deferred := []
  /-- Failures of translations that the access it waits for has asked for (R37). -/
  xfails : List XFail := []
  /-- Since when it has been READY (R155). -/
  readyAt : Nat := 0
  /-- In the serial set, with the program counter that it last looked up (R157). -/
  serial : Bool := false
  looked : Nat := 0
  /-- Its top frame has still to be refilled after its workgroup's restore, whatever it waits for (R178, R402). -/
  backTop : Bool := false
  /-- An unwind that its restore performs: the value, and the second line of the record to escalate with (R397). -/
  unwindX : Option (Word × Nat) := none
deriving DecidableEq, Repr

/-! ## Operations (R131) and requests (R57, R60, R65) -/

/-- The five classes of R131. -/
inductive Cls where
  | ld | st | cp | tl | ag
deriving DecidableEq, Repr

/-- Paths of R47. -/
inductive Path where
  | ls | cst | smp | tile
deriving DecidableEq, Repr

/-- An atomic operation (R311), a compare-and-swap, or an operation on a sync object (R121, R122). -/
inductive Aop where
  /-- OPC, FN, type code of atom, atom.f, atom.cas and atom.ord, with operand and compare value. -/
  | rmw (opc fn ty x cmp : Nat)
  | acq
  | acqGe (x : Nat)
  | acqX (ltag grp tid : Nat)
  | rel (ltag grp tid : Nat)
  /-- A waggle reflected to a hive's handler (R203, R333). -/
  | waggle (hive n : Nat) (regs : List Word)
  /-- Writing the line back (R310). -/
  | wb
  /-- A walker's OR into a page-table entry (R36). -/
  | orWord (m : Nat)
  /-- A push of a value into a scaling ring, or none, and a read of the ring's maximum (R225, R384). -/
  | ring (n : Nat) (v : Option Nat)
deriving DecidableEq, Repr

/-- What a request asks of its home slice. -/
inductive ReqKind where
  | load
  | store (data : List Byte)
  | atomic (a : Aop)
  /-- A region's update, forwarded by the home of a written line: the region's slot and the update's own name (R77). -/
  | update (slot uid : Nat)
  /-- An aggregate operation at the home of the region in a slot (R84, R93). -/
  | query (slot : Nat)
deriving DecidableEq, Repr

/-- A translated address: the physical byte, or the host byte, with the page's attributes (R32, R37). -/
structure Phys where
  pa : Nat
  host : Bool := false
  cache : Nat := 0
  rop : Bool := false
  det : Bool := false
deriving DecidableEq, Repr

/-- Where one piece of an operation stands. -/
inductive Loc where
  /-- Served at the core: an L1, constant or sampler hit, whose bytes were read at issue (R48). -/
  | hit (bytes : List Byte)
  /-- At a scratchpad array: a workgroup's window offset (R26, R27). -/
  | scratch (wg off : Nat)
  /-- A request in the networks. -/
  | net (req : Nat)
  /-- Not read: the border rule gives 0 (R308), or nothing is left to wait for. -/
  | none
deriving DecidableEq, Repr

/-- One access of an operation. -/
structure Piece where
  va : Nat
  n : Nat
  loc : Loc
  /-- What is done at a scratchpad array. -/
  act : ReqKind := .load
  /-- Bytes returned; some [] for a store that has been performed. -/
  got : Option (List Byte) := none
deriving DecidableEq, Repr

/-- How an operation on memory ends. -/
inductive Fin1 where
  /-- Extend the datum of a type into the destination (R305). -/
  | load (ty : Ty)
  /-- Performed and acknowledged. -/
  | store
  /-- The old value of an atomic. -/
  | atomic (ret : Bool) (ty : Ty)
  /-- Bilinear filtering of four texels with weights in 256ths (R308). -/
  | lin (ty : Ty) (a b : Nat)
  /-- SEQ of an acquire (R122). -/
  | acquire
  /-- Nothing to write. -/
  | plain
deriving DecidableEq, Repr

/-- A tile-class operation (R363 to R385, R102 to R108). Everything it reads at issue stands in it. -/
inductive TileOp where
  /-- Tile register, layout word, workgroup of the window, and the source bytes at issue. -/
  | mld (mt lay peer : Nat) (old : List Byte)
  | mst (mt lay peer : Nat)
  | mzero (mt : Nat)
  /-- mma or outl.add: parameter block and outlier list. -/
  | mma (outl : Bool) (pb : Nat) (list : List Nat)
  /-- Epilogue block, scales, biases, scaling maximum M0 and cell. -/
  | epi (pb : Nat) (scale bias : List Nat) (m0 : Nat) (cell : Option (Nat × Nat))
  | accClr (a : Nat)
  /-- Tile register and its source bytes at issue, or at the save of a parked definer (R103, R116). -/
  | combDef (dir cell mt : Nat) (old : List Byte)
  /-- Window offset, shape word and the source bytes at issue. -/
  | combDefs (dir cell off shape : Nat) (old : List Byte)
  | combRd (dir cell mt : Nat)
  | combRds (dir cell off : Nat)
deriving DecidableEq, Repr

/-- An aggregate operation (R80 to R88). -/
inductive AggOp where
  | decl (slot : Nat)
  | free (h : Nat)
  | range (h lo hi : Nat)
  | pfx (h x : Nat)
  /-- With the draw that its acceptance takes (R82). -/
  | pick (h : Nat) (draw : Option Nat)
  | sync (h : Option Nat)
deriving DecidableEq, Repr

/-- What an outstanding operation is. -/
inductive OpKind where
  | mem (f : Fin1)
  /-- A local result: bkt.sel, comb.q, and copies that complete at once. -/
  | local (writes : List (Dst × Word))
  /-- The zero-length host read of fence.sys (R424). -/
  | hostRead
  /-- A push into the launch queue of a die (R195). -/
  | push (die launch : Nat) (index rcb : Nat) (grid : Nat × Nat × Nat) (k63 : Word)
  | engine (cb : Nat)
  | graphGo (run : Nat)
  | node (part : Nat)
  | guard (part slot v : Nat)
  | tile (t : TileOp)
  | agg (a : AggOp)
  /-- comb.leave waits for its steps. -/
  | leave
  /-- A request at a scaling ring (R225). -/
  | ring
  /-- A remote waggle (R430). -/
  | remote
deriving DecidableEq, Repr

/-- An outstanding operation (R131). Its key in the table is its place in issue order. -/
structure Op where
  wg : Nat
  tid : Nat
  core : Nat
  /-- Its class; none for an operation that counts in no class (acquire, release, pref). -/
  cls : Option Cls
  /-- The instruction's index. -/
  pc : Nat
  dst : List Dst := []
  kind : OpKind
  pieces : List Piece := []
  /-- Its effect has been taken; it leaves the table when it retires (R132). -/
  done : Bool := false
  /-- Threads that wait at the instruction until it is performed (R313). -/
  waiters : List Nat := []
  /-- An ordered entry (R137) held at the slices. -/
  ordered : Bool := false
  /-- Accepted by its region's home (R93), and what a query reads there: its result, its predicate, and whether it met a poisoned node. -/
  accepted : Bool := false
  answer : Option (Word × Bool × Bool) := none
  /-- The cache hint of its instruction (R235). -/
  hint : Nat := 0
deriving DecidableEq, Repr

/-- A source of the request network: a core, its engine front end, a slice, a walker group, the host port, an Ethernet port
(R57, R130). -/
inductive Src where
  | core (c : Nat)
  | engine (c : Nat)
  | slice (n : Nat)
  | walker (die : Nat)
  | host
  | port (n : Nat)
deriving DecidableEq, Repr

/-- A further access of the same bundle that the coalescer merged into a request (R38): operation, piece, address, bytes
read or data stored. -/
structure Share where
  op : Nat
  piece : Nat
  pa : Nat
  va : Nat
  n : Nat
  data : List Byte := []
deriving DecidableEq, Repr

/-- A part of the hardware that reads and writes memory by requests of its own: a unit of an engine command, a tile transfer,
an instruction of a thread that reads a descriptor, the Swarm engine for a thread, a BAR2 access of the host, an inbound request
of a queue pair or a peer's request. -/
inductive Owner where
  | unit (op u : Nat)
  | tile (op : Nat)
  | thread (w t : Nat)
  | swarm (w t : Nat)
  | host (part va n : Nat) (data : Option (List Byte))
  /-- The copy of a graph node of a run (R192). -/
  | copy (run node : Nat)
  | inbound (part : Nat) (req : List Nat)
deriving DecidableEq, Repr

/-- Who asks the host for a page: threads at an instruction or for their fault, an access of the hardware, or anything else that a
turn does (R37, R41). -/
inductive Asker where
  | threads (w : Nat) (ts : List Nat)
  | owner (o : Owner)
  | turn (u : Option Turn)
deriving DecidableEq, Repr

/-- A host page that hardware has asked the host for: who asks, partition, base, log2 of the size, and since when (R41). -/
structure HostAsk where
  asker : Asker
  part : Nat
  base : Nat
  size : Nat
  since : Nat
deriving DecidableEq, Repr

/-- A request that its source has not seen acknowledged (R57, R65). -/
structure Req where
  src : Src
  /-- The home slice. -/
  dst : Nat
  part : Nat
  kind : ReqKind
  ph : Phys
  n : Nat
  va : Nat
  seq : Nat := 0
  /-- Sequence number of the latest earlier request to the line (R60). -/
  pred : Option Nat := none
  op : Option Nat := none
  /-- Whose access it is part of, where no operation of a thread asked; the thread and operation that its store follows; the
  core and miss of a walker's read (R33). -/
  owner : Option Owner := none
  by_ : Option (Nat × Nat × Nat) := none
  walk : Option (Nat × Nat) := none
  /-- Which piece of the operation it serves. -/
  piece : Nat := 0
  /-- Accesses to the line that were merged into it, and the bundle they belong to (R38). -/
  shares : List Share := []
  bundle : Nat := 0
  /-- The hint of the access, for the home slice (R235). -/
  hint : Nat := 0
  /-- Its line comes into the core's tile-layout staging buffer (R47). -/
  tl : Bool := false
  /-- The workgroup's launch and whether it runs with DET = 1, for ordered entries and digests. -/
  launch : Option Nat := none
  /-- Cycle of its first injection, from which its age counts (R58). -/
  firstIn : Option Nat := none
  /-- Number of sends and deadline of the timer (R65). -/
  sends : Nat := 1
  deadline : Nat := 0
  /-- The line that a load fills into a cache of the core; where another source of the core has been answered for the line since, which
  reply is the older is not known, and the line leaves the cache instead (R127). -/
  fill : Option Path := none
  unsure : Bool := false
  /-- Its line has been read from HBM (R35, R53). -/
  read : Bool := false
  /-- A flit of it or of its reply has failed its CRC (R61, R413). -/
  crc : Bool := false
  /-- Abandoned: only its cancel is still sent (R65). -/
  dead : Bool := false
  /-- Epoch and operation index of an order-sensitive atomic that is an ordered entry unless it intrudes (R137, R138). -/
  key : Option (Nat × Nat) := none
  /-- A host-memory request: 0 not sent, 1 awaited, 2 answered, 3 failed (R424). -/
  hostSt : Nat := 0
  hostAt : Nat := 0
deriving DecidableEq, Repr

/-- A line that an access of the hardware has read: its address, the fault met or 0, its bytes. -/
structure Seen where
  pa : Nat
  host : Bool
  fault : Nat
  data : List Byte
deriving DecidableEq, Repr

/-- An access of the hardware in progress. -/
structure Stage where
  owner : Owner
  seen : List Seen := []
  /-- Lines asked for and not yet returned: line, whether it is the host's, and the request. -/
  asked : List (Nat × Bool × Nat) := []
  /-- Its reads are over and its stores are on their way: how many are not acknowledged, and the fault met, with its address. -/
  writing : Bool := false
  left : Nat := 0
  out : Option (Nat × Nat) := none
deriving DecidableEq, Repr

/-- A line that a step finds it needs: who asks, and a word of it into which a walker ORs bits. -/
structure Want where
  src : Src
  part : Nat
  ph : Phys
  va : Nat
  orAt : Option (Nat × Nat) := none
  /-- The cache of the core that the line fills, and the hint of the access (R235). -/
  fill : Option Path := none
  hint : Nat := 0
deriving DecidableEq, Repr

/-- A store that a step makes through the networks. -/
structure Put where
  part : Nat
  ph : Phys
  va : Nat
  data : List Byte
  launch : Option Nat
  who : Option (Nat × Nat × Nat)
deriving DecidableEq, Repr

/-- A packet in one of the networks (R57). -/
structure Pkt where
  req : Nat
  /-- The request's source and destination, which its header carries. -/
  src : Src
  dst : Nat
  reply : Bool
  retry : Bool := false
  /-- The source's lowest unacknowledged sequence number as it was sent (R57). -/
  low : Nat := 0
  /-- Cycle of its own first injection, from which the age of a reply counts (R58). -/
  firstIn : Option Nat := none
  /-- A cancel of the request's sequence number (R65). -/
  cancel : Bool := false
  flits : Nat
  /-- Flits injected, and those arrived. -/
  sent : Nat := 0
  arrived : Nat := 0
  /-- A flit was discarded: the packet never completes (R61). -/
  lost : Bool := false
  /-- Cycle in which its last flit arrived (R130). -/
  arrivedAt : Nat := 0
  /-- Result carried by a reply, and the line for a fill. -/
  data : List Byte := []
  line : List Byte := []
  /-- A fault found at the home slice. -/
  fault : Nat := 0
  /-- A waggle that the slice reflects to its hive, by the model's name of it (R55). -/
  waggle : Option Nat := none
  /-- Die at which it is injected, and the partition whose bucket it takes from (R64). -/
  die : Nat
  part : Nat
deriving DecidableEq, Repr

/-- A slice's window for one source (R66). -/
structure Window where
  slice : Nat
  src : Src
  /-- Executed sequence numbers with the fault, result and line returned. -/
  ran : List (Nat × Nat × List Byte × List Byte) := []
  /-- The source's lowest unacknowledged sequence number. -/
  low : Nat := 0
deriving DecidableEq, Repr

/-- A line present in a slice, with its dirty mark (R53). Values stand in the one memory. -/
structure L2Line where
  pa : Nat
  slice : Nat
  dirty : Bool := false
  /-- Holds nodes of an aggregate region (R73). -/
  node : Bool := false
  /-- The hint of the request that brought it: 3 keeps it preferred, 4 lets it go first (R235). -/
  hint : Nat := 0
deriving DecidableEq, Repr

/-- A parked acquirer of a sync object, in the order of arrival at its home slice (R122, R129). -/
structure Waiter where
  /-- Physical address of the object. -/
  pa : Nat
  host : Bool
  op : Nat
  a : Aop
  part : Nat
  va : Nat
  launch : Option Nat
deriving DecidableEq, Repr

/-! ## Workgroups -/

/-- An initialised barrier (R134, R348). -/
structure Barrier where
  exp : Nat
  arr : Nat := 0
  tx : Int := 0
  ph : Nat := 0
deriving DecidableEq, Repr

/-- A completion bitmap (R320). -/
structure Bitmap where
  /-- Status word fields. -/
  st : Nat := 0
  code : Nat := 0
  funit : Nat := 0
  opk : Nat := 0
  units : Nat := 0
  /-- Unit bits. -/
  bits : Nat := 0
  /-- Units that have faulted since the command last ran. -/
  failed : Nat := 0
  desc : List Byte := []
  barrier : Option Nat := none
  /-- Guard slot of a guarded command. -/
  guard : Option Nat := none
  /-- Receivers of a multicast: window and workgroup, the issuer first. -/
  recv : List (Option Nat × Nat) := []
  tid : Nat := 0
  pc : Nat := 0
  /-- Its operation, and whether the front end has started it (R318). -/
  op : Nat := 0
  started : Bool := false
  /-- The cache hint of the command's instruction, which its units keep when they run again (R235, R329). -/
  hint : Nat := 0
deriving DecidableEq, Repr

/-- An occurrence in the election table (R161). -/
structure Election where
  index : Nat
  epoch : Nat
  seen : List Nat
deriving DecidableEq, Repr

/-- A hive window (R27). -/
structure HiveWin where
  peer : Nat
  revoked : Bool := false
deriving DecidableEq, Repr

/-- A tile register's contents (R360). -/
structure Tile where
  bytes : Mem := []
  /-- 8-byte words that hold an uncorrectable error (R411). -/
  bad : List Nat := []
deriving DecidableEq, Repr

/-- An accumulator: raw 56-bit entries by row * 128 + column, each with whether the last mma into it ran in integer mode
(R219, R366, R383). An entry that is not listed holds zero bits, which read the same in both modes. -/
structure Accum where
  entries : Tab (BitVec 56 × Bool) := []
  /-- Entries that hold an uncorrectable error (R411). -/
  bad : List Nat := []
deriving DecidableEq, Repr

/-- A reservation record: its descriptor and its group words in the operand buffer (R373, R374). -/
structure RsvRec where
  desc : Nat
  bytes : List Byte
  /-- 8-byte words of the operand buffer that hold an uncorrectable error (R411). -/
  bad : List Nat := []
deriving DecidableEq, Repr

/-- Where a workgroup resides (R399 to R402). -/
inductive Resid where
  /-- Placed; its granules are being cleared. -/
  | clearing
  | resident
  | saved
deriving DecidableEq, Repr

/-- A workgroup (R150, R199). -/
structure Workgroup where
  launch : Nat
  part : Nat
  idx : Nat
  core : Nat
  resid : Resid := .clearing
  /-- Cycle and order of placement (R63, R399). -/
  placedAt : Nat := 0
  /-- Cycle at which its granules are clear (R51, R199). -/
  clearAt : Nat := 0
  /-- Order of its save (R423). -/
  savedAt : Nat := 0
  /-- A saved workgroup is to be restored (R402, R423, R426). -/
  wantBack : Bool := false
  threads : List Thread := []
  kregs : List Word := List.replicate 64 0
  /-- Scratchpad granules in window order (R51). -/
  grans : List Nat := []
  scratch : Mem := []
  /-- 8-byte words of the scratchpad that hold an uncorrectable error (R411). -/
  badScratch : List Nat := []
  bars : Tab Barrier := []
  elections : List Election := []
  /-- Comb group and member number (R95), and the leave in progress (R97). -/
  group : Option Nat := none
  member : Nat := 0
  leaving : Bool := false
  windows : Tab HiveWin := []
  bitmaps : Tab Bitmap := []
  ms : List Word := List.replicate 8 0
  tiles : Tab Tile := []
  accs : Tab Accum := []
  rsvs : Tab RsvRec := []
  mdone : Nat := 0
  edone : Nat := 0
  /-- Matrix operations in the order of R363, and engine commands in issue order (R318). -/
  mq : List Nat := []
  eq : List Nat := []
  /-- Kinds of matrix storage that stand in its context slot: 0 tiles, 1 accumulators, 2 records (R367). -/
  evicted : List Nat := []
  /-- Context slot: first chunk and number of chunks (R399). -/
  slot : Nat × Nat := (0, 0)
  /-- Why it is saved or to be saved: 0 none, 1 resize, 2 switch-out, 3 halt (R401). -/
  saveFor : Nat := 0
  /-- It lost an operation to a deferred fault after its thread's exit (R342). -/
  lostWork : Bool := false
  torn : Bool := false
deriving DecidableEq, Repr

/-! ## Launches and queues (spec/08_scheduling.md) -/

/-- What launched a launch. -/
inductive Origin where
  | command (q index : Nat)
  /-- A node of a graph run. -/
  | node (run : Nat) (addr : Nat)
  | child (parent : Nat)
  /-- A fault handler for a record (R395). -/
  | handler (record : Nat)
  /-- A waggle handler (R203). -/
  | waggle
deriving DecidableEq, Repr

/-- The effective fields of a launch (R180, R182, R183). -/
structure Eff where
  seed : Nat := 0
  asid : Nat := 0
  ptroot : Nat := 0
  cbase : Nat := 0
  csize : Nat := 0
  prio : Nat := 0
  det : Bool := false
  outlier : Bool := false
  calleeq : Bool := false
  poolg : Nat := 0
  spbase : Nat := 0
  spsize : Nat := 0
  ncore : Nat := 0
  hives : Nat := 0
  /-- Each setter's address and WGMAX. -/
  wgmax : List (Nat × Nat) := []
  fmode : Nat := 0
  fhandler : Nat := 0
  savebase : Nat := 0
  savesize : Nat := 0
deriving DecidableEq, Repr

/-- A live launch (R183, R188). -/
structure Launch where
  part : Nat
  origin : Origin
  queue : Option Nat
  ltag : Nat
  lseq : Nat
  node : Nat
  eff : Eff
  gx : Nat
  gy : Nat
  gz : Nat
  wx : Nat
  wy : Nat
  wz : Nat
  regs : Nat
  scrg : Nat
  nbars : Nat
  kcode : Nat
  kargs : List Word
  callees : List (Option Nat)
  memb : Bool
  event : Nat
  /-- Runs at system level (R355). -/
  priv : Bool
  resolvedAt : Nat
  /-- Length of the log of overwritten bytes at resolution (R232). -/
  wmark : Nat := 0
  /-- Workgroups placed and retired. -/
  placed : Nat := 0
  retired : Nat := 0
  /-- Child indices already pushed (R195). -/
  children : List Nat := []
  /-- Lines written on DET pages: virtual and physical line address, and whether the page is a host page (R144). -/
  lines : List (Nat × Nat × Bool) := []
  /-- A workgroup was torn down, or work was lost (R398). -/
  faulted : Bool := false
  /-- Cycle of the last placement; its eligible cores are reserved (R198). -/
  lastPlaced : Nat := 0
  reserved : Bool := false
  /-- Hive of a handler (R203, R395), and die that took a child (R196). -/
  hiveOnly : Option Nat := none
  die : Option Nat := none
deriving DecidableEq, Repr

/-- A ring command taken by a queue (R186, R187). -/
structure Command where
  index : Nat
  started : Bool := false
  done : Bool := false
  /-- Graph run of a GRAPH command. -/
  run : Option Nat := none
deriving DecidableEq, Repr

/-- A graph started by a command or by dg.go (R193, R331). -/
structure GraphRun where
  part : Nat
  queue : Option Nat
  priv : Bool
  /-- Address space of its nodes (R193). -/
  asid : Nat
  root : Nat
  /-- The sequence its nodes count from, as (s, dg.go's base index). -/
  seq : Nat
  base : Nat
  count : Nat
  /-- Indices of its compute nodes, each of which has a launch. -/
  computes : List Nat := []
  /-- Copy nodes that have started and not ended (R192). -/
  copies : List Nat := []
  /-- Node indices completed or faulted. -/
  ended : List Nat := []
  bad : Bool := false
  /-- Issuing launch and operation of dg.go. -/
  issuer : Option (Nat × Nat) := none
  i0 : Nat := 0
deriving DecidableEq, Repr

/-- A decrement of a graph node on its way, or a node whose start waits (R193, R330). -/
structure Pred where
  node : Nat
  asid : Nat
  root : Nat
  queue : Option Nat
  priv : Bool
  /-- Operation of dg.node; graph run whose node decrements. -/
  op : Option Nat := none
  run : Option Nat := none
  /-- PRED is 0: the node starts. -/
  start : Bool := false
deriving DecidableEq, Repr

/-- A launched digest, waiting for its link (R145). -/
structure LinkWait where
  lseq : Nat
  digest : List Byte
deriving DecidableEq, Repr

/-- The run state of a queue (R185 to R187); its counters stand in its node (R180). -/
structure Queue where
  node : Nat
  priv : Bool
  cmds : List Command := []
  links : List LinkWait := []
  switched : Bool := false
  /-- Stopped: it takes commands again after STOPPED has been cleared and the doorbell rung (R191). -/
  halted : Bool := false
  /-- No further intrusion is logged, or the log was lost (R142). -/
  logFull : Bool := false
  /-- Logged atomics of a replay not yet applied, as log offsets (R143). -/
  replayed : List Nat := []
deriving DecidableEq, Repr

/-- An entry of a device launch queue (R195). -/
structure Child where
  part : Nat
  launch : Nat
  queue : Option Nat
  priv : Bool
  rcb : Nat
  lseq : Nat
  grid : Nat × Nat × Nat
  k63 : Word
  die : Nat := 0
deriving DecidableEq, Repr

/-! ## Cores -/

/-- A TLB entry (R37). -/
structure TlbEntry where
  asid : Nat
  part : Nat
  vpn : Nat
  /-- log2 of the page size. -/
  size : Nat
  /-- Page base, physical or host. -/
  base : Nat
  host : Bool
  cache : Nat
  rop : Bool
  det : Bool
  usr : Bool
  x : Bool
  w : Bool
  r : Bool
  mod : Bool
deriving DecidableEq, Repr

/-- An access that waits for a translation: its threads and what the checks of R34 need. -/
structure XAsk where
  wg : Nat
  tids : List Nat
  va : Nat
  acc : Acc
  ro : Bool
  user : Bool
deriving DecidableEq, Repr

/-- A miss entry of a core: a page that is not in its TLB, and the accesses that wait for it (R38 to R41). -/
structure Miss where
  part : Nat
  asid : Nat
  root : Nat
  /-- The 64 KiB page. -/
  page : Nat
  asks : List XAsk := []
  /-- The walk: the level and table it has reached, the request awaited, the fault or word returned, and the leaf whose flags
  are being set (R33, R36). -/
  level : Nat := 0
  table : Option Nat := none
  req : Option Nat := none
  got : Option (Nat × Nat) := none
  leaf : Option TlbEntry := none
  /-- Waits for the host: the leaf found, whose base is the host I/O virtual address (R41). -/
  ats : Option TlbEntry := none
  since : Nat := 0
deriving DecidableEq, Repr

/-- An entry of a die's walk cache: a table entry with V = 1 and LEAF = 0, by address space, level and the virtual address
bits that lead to it (R37). -/
structure WalkEnt where
  part : Nat
  asid : Nat
  level : Nat
  /-- The virtual address bits that index levels 0 to this one. -/
  pfx : Nat
  entry : Nat
deriving DecidableEq, Repr

/-- A page that the host has translated: partition, host I/O virtual address, log2 of the size, host address (R41). -/
structure HostPage where
  part : Nat
  base : Nat
  size : Nat
  ha : Nat
deriving DecidableEq, Repr

/-- A cache line of a core (R47); the most recently used comes first. -/
structure CLine where
  pa : Nat
  data : List Byte
deriving DecidableEq, Repr

/-- An entry of the PC-group table (R154). -/
structure Group where
  slot : Nat
  wg : Nat
  pc : Nat
  /-- Pass of a loop body, part of the program counter (R345). -/
  pass : Option Nat
  age : Nat := 0
deriving DecidableEq, Repr

/-- What a pipe takes: an entry of the PC-group table with the lanes of its bundle, the serial set, a gathered set (R155). -/
inductive Pick where
  | group (slot : Nat) (lanes : List Nat)
  | serial
  | gather (wg pc : Nat) (tids : List Nat)
deriving DecidableEq, Repr

/-- A candidate of the picker: its age, what a pipe would take, and the READY threads that it holds (R155). -/
structure Cand where
  age : Nat
  pick : Pick
  wg : Nat
  pc : Nat
  tids : List Nat
deriving DecidableEq, Repr

/-- A gathered set that is complete, with its age (R155, R162). -/
structure Gathered where
  wg : Nat
  pc : Nat
  tids : List Nat
  age : Nat := 0
deriving DecidableEq, Repr

/-- A latched operand (R165). -/
structure Latch where
  pipe : Nat
  lane : Nat
  slot : Nat
  wg : Nat
  tid : Nat
  /-- The register latched, its name in the thread's frames. -/
  frame : Nat
  reg : Nat
  /-- The value stored, which a source with the same tag takes. -/
  value : Word
  /-- Bundles of the pipe that it still serves. -/
  left : Nat
deriving DecidableEq, Repr

/-- A binding held by a partition's cores (R120). -/
structure Binding where
  /-- Object's virtual and physical address, range and physical lines recorded. -/
  obj : Nat
  objPa : Nat
  objHost : Bool := false
  base : Nat
  size : Nat
  asid : Nat
  /-- Frames: virtual 64 KiB page, physical base and whether it is a host page, of each. -/
  frames : List (Nat × Nat × Bool)
  /-- Region slot, for the binding that agg.decl makes (R71). -/
  region : Option Nat := none
deriving DecidableEq, Repr

/-- A claim on matrix storage (R366), by an operation or (op 0) by a thread at ms.set or rsv.alloc; or (back) one that
restores an evicted kind (R367). -/
structure Claim where
  wg : Nat
  op : Nat := 0
  tid : Nat := 0
  /-- The tile register whose blocks are given up for the new ones. -/
  reg : Option Nat := none
  tiles : Nat := 0
  accs : Nat := 0
  recs : Nat := 0
  units : Nat := 0
  back : Option Nat := none
  since : Nat := 0
  granted : Bool := false
deriving DecidableEq, Repr

/-- A core. -/
structure Core where
  tlb : List TlbEntry := []
  /-- At most 32 misses (R38), and the bundle held in the memory pipe because it found all of them taken: its workgroup
  and program counter (R40). -/
  misses : Tab Miss := []
  held : Option (Nat × Nat) := none
  l1 : List CLine := []
  cst : List CLine := []
  smp : List CLine := []
  groups : List Group := []
  serialAge : Nat := 0
  /-- Complete gathered sets in order of completion. -/
  gathers : List Gathered := []
  /-- The candidates ranked in this cycle, once a pipe has picked, and what each pipe took (R155). -/
  ranking : Option (List Cand) := none
  picks : List (Nat × Pick) := []
  /-- A callee queue has been drained in this cycle (R163). -/
  drained : Bool := false
  latches : List Latch := []
  claims : List Claim := []
  /-- Workgroups of memory-bound kernels considered by the picker (R63). -/
  throttle : Option Nat := none
  /-- Needs of each lane in order of entry: lane, workgroup, thread (R170). -/
  needs : List (Nat × Nat × Nat) := []
  /-- The Swarm engine has not stopped: a record or a page that it asked for is on its way (R171). -/
  swarming : Bool := false
deriving DecidableEq, Repr

/-! ## Slices (ordered entries, R138 to R143) -/

/-- An ordered entry at a slice (R138). -/
structure OrdEntry where
  req : Nat
  op : Nat
  queue : Nat
  part : Nat
  launch : Nat
  lseq : Nat
  wg : Nat
  grp : Nat
  epoch : Nat
  tid : Nat
  opidx : Nat
  ph : Phys
  va : Nat
  n : Nat
  a : Aop
  /-- In the overflow area. -/
  spilt : Bool := false
deriving DecidableEq, Repr

/-- The determinism record of a line (R137, R141). -/
structure OwnLine where
  pa : Nat
  host : Bool := false
  /-- The line in the owner's address space, as its entries name it (R142). -/
  va : Nat := 0
  queue : Nat
  part : Nat
  /-- Key of the last entry applied: sequence, workgroup, epoch, thread, operation index. -/
  last : Option (Nat × Nat × Nat × Nat × Nat) := none
deriving DecidableEq, Repr

/-- A home slice. -/
structure Slice where
  buffer : List OrdEntry := []
  /-- Ordered entries that have arrived and wait for admission. -/
  arriving : List OrdEntry := []
  owners : List OwnLine := []
  /-- Congestion: cycles of this window with a full queue, and the published word (R62). -/
  full : Nat := 0
  cong : Word := 0
  /-- Floors that cores have reported, by workgroup and thread (R138); none is infinity. -/
  floors : Tab (List (Option (Nat × Nat × Nat))) := []
deriving DecidableEq, Repr

/-! ## Faults -/

/-- A fault record in use (R392). -/
structure Record where
  part : Nat
  launch : Nat
  wg : Nat
  /-- Number of the record, and the virtual and physical address of its first line. -/
  r : Nat
  savebase : Nat
  va : Nat
  pa : Nat
  /-- It lies on a host page (R33). -/
  host : Bool := false
  tids : List Nat
  /-- Completion bitmap of an engine record. -/
  eng : Option Nat := none
  /-- Its second line as it stood when SEQ moved from 0 (R394). -/
  answer : Option Nat := none
  /-- Escalated, and its entry of kind 2 still waits to be posted (R420). -/
  escalated : Bool := false
deriving DecidableEq, Repr

/-- A kind-2 entry whose response is awaited (R396, R422). -/
structure Kind2 where
  part : Nat
  launch : Nat
  wg : Nat
  tids : List Nat
  eng : Option Nat := none
  /-- The entry's number in the ring, once it has been posted; 2^64 before. -/
  seqno : Nat
  /-- Second line of the entry. -/
  line : Nat := 0
deriving DecidableEq, Repr

/-- The bundle that is issuing. -/
structure Cur where
  core : Nat
  pipe : Nat
  wg : Nat
  pc : Nat
  /-- Threads of the bundle in ascending home lane. -/
  tids : List Nat
deriving DecidableEq, Repr

/-! ## The Comb (spec/05_comb.md) -/

inductive CellState where
  | free | defined | draining
deriving DecidableEq, Repr

/-- A parked definition or read: workgroup, thread and operation. -/
structure CombWait where
  wg : Nat
  tid : Nat
  pc : Nat
  op : TileOp
  /-- The shape of a definition. -/
  shape : Nat := 0
  /-- The operation of an epi, which keeps its place in the matrix order (R382). -/
  id : Option Nat := none
  /-- The source bytes of a definition as they stood at the save of its workgroup (R116). -/
  src : Option (List Byte) := none
deriving DecidableEq, Repr

/-- A Comb cell (R100, R101, R107, R111). place is 0 tile space, 1 scratchpad, 2 L2, 3 backing store (R112). -/
structure Cell where
  st : CellState := .free
  gen : Nat := 0
  ew : Nat := 0
  rows : Nat := 0
  cols : Nat := 0
  value : List Byte := []
  /-- The definition whose bytes are still to be captured (R103, R382). -/
  pend : Option Nat := none
  definer : Nat := 0
  /-- Snapshot copies pending (R106). -/
  copies : List Nat := []
  readers : List CombWait := []
  definers : List CombWait := []
  place : Nat := 0
  bad : Bool := false
deriving DecidableEq, Repr

/-- A Comb directory (R94): cells and members by member number. -/
structure Dir where
  cells : Tab Cell := []
  members : Tab Nat := []
deriving DecidableEq, Repr

/-! ## Aggregate regions (spec/04_aggregate_regions.md) -/

/-- A forwarded update (R77): its own name, line of the region, its bytes, the threads and operations whose store it follows, and
the launch. -/
structure Update where
  uid : Nat := 0
  line : Nat
  bytes : List Byte
  bad : Bool := false
  issuers : List (Nat × Nat × Nat) := []
  launch : Option Nat := none
  /-- It has reached the region home; those that have stand in the order in which they came. -/
  here : Bool := false
  /-- Read by the build (R88). -/
  build : Bool := false
deriving DecidableEq, Repr

/-- A declared region (R67 to R75). -/
structure Region where
  agg : Nat
  ty : Nat
  logn : Nat
  lbase : Nat
  sync : Nat
  /-- Virtual 64 KiB page and recorded frame (R70). -/
  frames : List (Nat × Nat)
  /-- First chunk and number of chunks of its shadow footprint (R72). -/
  run : Nat × Nat
  nodes : Tab Word := []
  badNodes : List Nat := []
  ov : Bool := false
  updates : List Update := []
  /-- Lines that the build has still to read, and the operation that waits for it. -/
  build : Option Nat := none
  /-- Step 1 of agg.free has been taken by an operation (R87). -/
  freeing : Option Nat := none
deriving DecidableEq, Repr

/-! ## Partitions, host and module (spec/16_device.md) -/

/-- An entry for the fault queue (R420): its header fields and the record line. -/
structure Post where
  kind : Nat
  cause : Nat
  recaddr : Nat := 0
  ltag : Nat := 0
  wgidx : Nat := 0
  info : Nat := 0
  second : List Byte := []
  /-- The model's number of the record copied or of the kind-2 wait. -/
  ref : Nat := 0
  /-- The record that an entry of kind 2 clears as it is posted, when it could not be held (R420). -/
  rc : Option Nat := none
deriving DecidableEq, Repr

/-- A waggle accepted into the handler queue (R203), and whether its reflection has reached its hive (R55). -/
structure Waggle where
  id : Nat
  here : Bool
  hive : Nat
  n : Nat
  regs : List Word
  ltag : Nat
  slice : Nat
deriving DecidableEq, Repr

/-! ### RoCE objects (R429) -/

/-- A completion queue; tail counts the entries written. -/
structure Cq where
  base : Nat
  log : Nat
  vec : Nat
  sync : Nat
  tail : Nat := 0
deriving DecidableEq, Repr

/-- A queue pair: state 0 RESET, 1 INIT, 2 RTR, 3 RTS, 4 ERROR; heads count requests taken, tails those rung. -/
structure Qp where
  st : Nat := 0
  sbase : Nat
  rbase : Nat
  slog : Nat
  rlog : Nat
  scq : Nat
  rcq : Nat
  sync : Nat
  rqpn : Nat := 0
  node : Nat := 0
  rpart : Nat := 0
  psn : Nat := 0
  epsn : Nat := 0
  mtu : Nat := 0
  shead : Nat := 0
  stail : Nat := 0
  rhead : Nat := 0
  rtail : Nat := 0
  /-- Retries of the request at the head. -/
  tries : Nat := 0
deriving DecidableEq, Repr

/-- A memory region: access bit 0 local write, 1 remote read, 2 remote write. -/
structure Mr where
  base : Nat
  len : Nat
  acc : Nat
deriving DecidableEq, Repr

/-! ### The Palnath encapsulation (R428, R430) -/

/-- A remote waggle that its peer has not answered: its operation, sequence number and timer; once dead, its cancel (R65, R428). -/
structure Remote where
  part : Nat
  node : Nat
  rpart : Nat
  hive : Nat
  n : Nat
  regs : List Word
  op : Nat
  seq : Nat := 0
  sends : Nat := 1
  deadline : Nat
  dead : Bool := false
deriving DecidableEq, Repr

/-- A packet of the encapsulation that this module has sent: to a peer's partition, with its sequence number, its acknowledgement and
its retry bit: 0 a waggle, info its hive and handler, data its registers; 2 a result and 3 a rejection of a request, info the code; 4 a
cancel (R428). -/
structure Encap where
  part : Nat
  node : Nat
  peer : Nat
  seq : Nat
  op : Nat
  info : Nat := 0
  data : List Byte := []
  ack : Bool := false
  retry : Bool := false
deriving DecidableEq, Repr

/-- What a partition has sent to and received from a peer's partition: next numbers, and the last 64 results. -/
structure PeerWin where
  part : Nat
  node : Nat
  peer : Nat
  next : Nat := 0
  expect : Nat := 0
  ran : List (Nat × Nat × List Byte) := []
deriving DecidableEq, Repr

/-- A partition (R425, R426). -/
structure Partition where
  hives : List Nat := []
  slices : List Nat := []
  groups : List Nat := []
  shadow : Nat := 0
  combbk : Nat := 0
  /-- HomeTable (R54). -/
  home : List Nat := []
  /-- The root node: its address, page-table root and identifier (R180, R426). -/
  rootRcb : Nat := 0
  rootPt : Nat := 0
  rootAsid : Nat := 0
  /-- The virtual function is enabled. -/
  vf : Bool := false
  regions : Tab Region := []
  /-- Generations of the region slots (R69). -/
  gens : Tab Nat := []
  bindings : List Binding := []
  /-- Resolved guard slots (R194). -/
  guards : Tab Bool := []
  /-- Scaling rings: 16 values and the write index (R225). -/
  rings : Tab (List (BitVec 32) × Nat) := []
  queues : Tab Queue := []
  qtab : Tab Word := []
  /-- Register page (R418), by offset. -/
  regs : Tab Word := []
  msix : Tab Word := []
  pba : Word := 0
  fqtail : Nat := 0
  lost : Nat := 0
  ovf : Bool := false
  /-- Entries awaiting FAULT_QUEUE_POST, entries held, and entries delivered per number to kind-2 waits. -/
  posts : List Post := []
  held : List Post := []
  fqresp0 : Word := 0
  hstat : Word := 0
  /-- MBSTAT, and the block that the mailbox has read while it is busy (R429). -/
  mbstat : Word := 0
  mbox : List Nat := []
  lastTag : Nat := 0
  waggles : List Waggle := []
  preds : List Pred := []
  cqs : Tab Cq := []
  qps : Tab Qp := []
  mrs : Tab Mr := []
  /-- Hives that are leaving, and the HomeTable to come, while a resize is under way (R426). -/
  leavingHives : List Nat := []
  moving : List Nat := []
deriving DecidableEq, Repr


/-- The state of the module. -/
structure State where
  /-- What happens next (notes/assumptions/1.md). -/
  agenda : List Turn := []
  cur : Option Cur := none
  /-- Free values drawn so far (notes/assumptions/2.md). -/
  fresh : Nat := 0
  /-- Next name of an operation, request, workgroup, frame (notes/assumptions/4.md). -/
  nextId : Nat := 1
  /-- Bundles issued so far, by which the coalescer tells their accesses apart (R38). -/
  issues : Nat := 0
  /-- Delivered clock cycles since module reset (R12, R432). -/
  now : Nat := 0
  /-- Memory performed at the home slices, over HBM (R53, R56). -/
  mem : Mem := []
  /-- Host memory reachable over the link (R41). -/
  host : Mem := []
  /-- Bytes overwritten, newest first: address, old value (notes/assumptions/3.md). -/
  wlog : List (Nat × Byte) := []
  l2 : List L2Line := []
  /-- Poisoned lines, and those of them whose error arose in slice storage (R410). -/
  poison : List Nat := []
  slicePoison : List Nat := []
  /-- Lines whose HBM read is awaited (R410). -/
  hbmReads : List Nat := []
  cores : Tab Core := []
  /-- Walk caches of the dies, the newest entry first (R37). -/
  walks : Tab (List WalkEnt) := []
  slices : Tab Slice := []
  wgs : Tab Workgroup := []
  launches : Tab Launch := []
  ops : Tab Op := []
  reqs : Tab Req := []
  pkts : Tab Pkt := []
  windows : List Window := []
  /-- Next sequence number of a pair of source and slice (R57). -/
  seqs : List (Src × Nat × Nat) := []
  /-- Rate words and buckets: die, partition, rate word, bucket in 1/1,024 flit (R64). -/
  buckets : List (Nat × Nat × Nat × Nat) := []
  waiters : List Waiter := []
  records : Tab Record := []
  kind2s : Tab Kind2 := []
  dirs : Tab Dir := []
  parts : Tab Partition := []
  runs : Tab GraphRun := []
  /-- Device launch queues, and placements since the last steal (R195, R196), by die. -/
  lqs : Tab (List Child) := []
  lqPlaced : Tab Nat := []
  /-- Corrected errors of a unit: kind code of R414, index, count (R408). -/
  ecc : List (Nat × Nat × Nat) := []
  /-- The host link is up (R424, R433). -/
  link : Bool := false
  /-- Clock step n of 32 to 64 (R432). -/
  clock : Nat := 64
  /-- Host pages that the host has translated (R41). -/
  ats : List HostPage := []
  /-- Host pages asked for by hardware, and those the host refused: who asked, partition, base and code (R41, R424). -/
  atsAsk : List HostAsk := []
  atsBad : List (Asker × Nat × Nat × Nat) := []
  /-- The turn that a step takes, and who looks up a page by itself in a part of it (R37). -/
  turn : Option Turn := none
  asking : Option Asker := none
  /-- The core of each die whose miss a walker took last (R39). -/
  walkLast : Tab Nat := []
  /-- Cycle of the last congestion window end (R62). -/
  windowAt : Nat := 0
  /-- Origin of a fatal error (R413). -/
  fatal : Option Nat := none
  /-- Power is supplied (R414). -/
  power : Bool := true
  /-- Cycle of each die's last placement (R198). -/
  placeAt : Tab Nat := []
  /-- MSI-X messages sent, newest first: partition and vector (R417). -/
  msis : List (Nat × Nat) := []
  /-- A part of this step waits for the host's answer to a page request: the step is tried again (R41). -/
  blocked : Bool := false
  /-- Accesses of the hardware in progress; while a step makes one, whose it is and from where, the lines it still needs and
  the stores it makes. -/
  stages : List Stage := []
  net : Option (Owner × Src) := none
  wants : List Want := []
  puts : List Put := []
  remotes : Tab Remote := []
  peers : List PeerWin := []
  /-- Packets of the encapsulation sent, newest first (R428). -/
  encaps : List Encap := []
  /-- Congestion notification packets sent for marked RoCE packets, newest first: partition and queue pair (R428). -/
  cnps : List (Nat × Nat) := []
  /-- Firmware images of the two flash banks, the active bank, and the bank that runs (R431). -/
  banks : Tab (List Byte) := []
  activeBank : Nat := 0
  running : Option Nat := some 0
  /-- What the host's last read through a BAR2 returned; none for a read that failed (R416). -/
  hostData : Option (List Byte) := none
deriving DecidableEq, Repr

/-- Why a step stops the machine. -/
inductive Fault where
  /-- Power to the module is lost (R414): raised by step after LOSS_OF_POWER, until a module reset. Safe: no
  instruction runs without power. -/
  | powerOff
deriving DecidableEq, Repr

/-- Why the model has no meaning. -/
inductive Refusal where
  /-- An instruction without a meaning in this model: raised by its arm of exec. Safe: nothing is claimed of it. -/
  | notModelled (mnemonic : String)
deriving DecidableEq, Repr

/-- The module after reset and bring-up (R433): memory cleared, no partition, the clock at full step, the link up.
Every other field stands at its default above (notes/assumptions/6.md). -/
def State.reset : State := { link := true }

end Sys2Proof.Machine
end

