-- ==== Sys2Proof/Machine/Mem.lean ====
section
/-!
DEFINITION. Access to the state's tables, memory at the home slices (spec/03_memory_paths.md), page walks, the TLB and
the checks of an access in the order of R45 (spec/02_address_spaces.md).
-/

namespace Sys2Proof.Machine

/-! ## Tables of the state -/

def State.core (s : State) (c : Nat) : Core := (tget s.cores c).getD {}
def State.modCore (s : State) (c : Nat) (f : Core → Core) : State :=
  { s with cores := tset s.cores c (f (s.core c)) }
def State.slice (s : State) (n : Nat) : Slice := (tget s.slices n).getD {}
def State.modSlice (s : State) (n : Nat) (f : Slice → Slice) : State :=
  { s with slices := tset s.slices n (f (s.slice n)) }
def State.wg (s : State) (w : Nat) : Option Workgroup := tget s.wgs w
def State.modWg (s : State) (w : Nat) (f : Workgroup → Workgroup) : State := { s with wgs := tmod s.wgs w f }
def State.thread (s : State) (w t : Nat) : Option Thread := (tget s.wgs w).bind (fun g => g.threads[t]?)
def State.modThread (s : State) (w t : Nat) (f : Thread → Thread) : State :=
  s.modWg w (fun g => { g with threads := g.threads.modify t f })
def State.part (s : State) (p : Nat) : Partition := (tget s.parts p).getD {}
def State.modPart (s : State) (p : Nat) (f : Partition → Partition) : State :=
  { s with parts := tset s.parts p (f (s.part p)) }
def State.launchOf (s : State) (w : Nat) : Option Launch := (tget s.wgs w).bind (fun g => tget s.launches g.launch)
def State.modLaunch (s : State) (l : Nat) (f : Launch → Launch) : State := { s with launches := tmod s.launches l f }
def State.dir (s : State) (d : Nat) : Dir := (tget s.dirs d).getD {}
def State.modDir (s : State) (d : Nat) (f : Dir → Dir) : State := { s with dirs := tset s.dirs d (f (s.dir d)) }

/-- A new name for an operation, request, workgroup or frame. -/
def State.newId (s : State) : Nat × State := (s.nextId, { s with nextId := s.nextId + 1 })

/-- The next free value. -/
def State.draw (s : State) : Word × State := (Config.freeValue s.fresh, { s with fresh := s.fresh + 1 })

/-- Effective fields of a workgroup's launch. -/
def State.eff (s : State) (w : Nat) : Eff := ((s.launchOf w).map (·.eff)).getD {}

/-- The workgroup runs at system level (R355). -/
def State.priv (s : State) (w : Nat) : Bool := ((s.launchOf w).map (·.priv)).getD false

/-- Hive and die of a core, die of a slice (spec/03_memory_paths.md). -/
def hiveOf (core : Nat) : Nat := core / 8
def dieOf (core : Nat) : Nat := core / 64
def dieOfSlice (n : Nat) : Nat := n / 32

/-! ## Physical memory -/

/-- H(pa) of R54. -/
def hashPa (pa : Nat) : Nat :=
  bits pa 13 6 ^^^ bits pa 21 14 ^^^ bits pa 29 22 ^^^ bits pa 37 30 ^^^ bits pa 45 38 ^^^ bits pa 51 46

/-- The home slice of a physical address in a partition (R54). -/
def State.home (s : State) (p pa : Nat) : Nat := ((s.part p).home[hashPa pa]?).getD 0

/-- The line of an address. -/
def lineOf (pa : Nat) : Nat := pa / 64 * 64

/-- The HBM channel of a physical address (R56). -/
def channelOf (pa : Nat) : Nat := 16 * (pa / Config.groupBytes) + (bits pa 11 8 ^^^ bits pa 15 12 ^^^ bits pa 19 16)

/-- Lines that a range of physical bytes touches. -/
def linesOf (pa n : Nat) : List Nat :=
  if n = 0 then [] else (List.range ((pa + n - 1) / 64 - pa / 64 + 1)).map (fun i => (pa / 64 + i) * 64)

/-- Code of a read of a poisoned line (R410): 0xE4 where the error arose in slice storage. -/
def State.poisonCode (s : State) (line : Nat) : Nat := if s.slicePoison.contains line then 0xE4 else 0xE2

/-- The lowest poisoned byte of a range and its code (R410). -/
def State.poisonedIn (s : State) (pa n : Nat) : Option (Nat × Nat) :=
  ((linesOf pa n).find? s.poison.contains).map (fun l => (max pa l, s.poisonCode l))

/-- Bytes at the home slice; or the code of a poisoned line and the offset of its first byte (R410). -/
def State.loadOff (s : State) (ph : Phys) (n : Nat) : Except (Nat × Nat) (List Byte) :=
  if ph.host then .ok (memRead s.host ph.pa n)
  else match s.poisonedIn ph.pa n with
    | some (a, f) => .error (f, a - ph.pa)
    | none => .ok (memRead s.mem ph.pa n)

/-- Bytes at the home slice, or the code of a poisoned line. -/
def State.load (s : State) (ph : Phys) (n : Nat) : Except Nat (List Byte) :=
  match s.loadOff ph n with
  | .ok b => .ok b
  | .error (f, _) => .error f

/-- Leaf width of a region in bytes, from its type (R67). -/
def leafBytes : Nat → Nat
  | 1 => 8
  | 3 => 2
  | _ => 4

/-- The lines of a region, by virtual address, that a physical line holds through its recorded frames (R70). -/
def Region.linesAt (r : Region) (pa : Nat) : List Nat :=
  (r.frames.filter (fun f => f.2 ≤ pa && decide (pa < f.2 + 65536))).filterMap (fun f =>
    let lva := f.1 + (pa - f.2)
    if decide (r.lbase ≤ lva) && decide (lva < r.lbase + roundUp (2 ^ r.logn * leafBytes r.ty) 64) then
      some ((lva - r.lbase) / 64) else none)

/-! ## Requests (R57, R58, R60) -/

/-- Flits of the request that a kind asks for with m bytes of store data in all (R57: a read is one flit, a store of the full
line three). DESIGN CHOICE (notes/assumptions/81.md): an atomic, an operation on a sync object and an aggregate operation
take one flit of operands, and a write-back too; a waggle takes two. -/
def ReqKind.flits (m : Nat) : ReqKind → Nat
  | .load => 1
  | .store _ => 1 + ceilDiv (min 64 m) 32
  | .atomic (.waggle ..) => 3
  | .atomic _ => 2
  | .update .. => 3
  | .query _ => 2

/-- Bytes of store data that a request carries, those of merged accesses among them (R38). -/
def Req.dataSize (r : Req) : Nat :=
  (match r.kind with
    | .store d => d.length
    | _ => 0) + (r.shares.map (fun e => e.data.length)).sum

def Req.flits (r : Req) : Nat := r.kind.flits r.dataSize

/-- It asks for a line, in whose order it stands (R60). -/
def ReqKind.onLine : ReqKind → Bool
  | .query _ => false
  | .atomic (.waggle ..) => false
  | _ => true

/-- Die at which a source injects; 4 stands for the I/O base (R130). -/
def Src.die : Src → Nat
  | .core c => dieOf c
  | .engine c => dieOf c
  | .slice n => dieOfSlice n
  | .walker d => d
  | _ => 4

/-- Die whose bucket a flit of a request takes from (R64). DESIGN CHOICE (notes/assumptions/15.md): a flit of the I/O base, which has no
rate word, enters the network of the die that it is addressed to. -/
def Src.entry (x : Src) (dst : Nat) : Nat := if x.die < 4 then x.die else dieOfSlice dst

/-- A core, or its engine front end. -/
def Src.ofCore (x : Src) (c : Nat) : Bool := x == .core c || x == .engine c

/-- Two physical bytes lie on one line. -/
def sameLine (a b : Phys) : Bool := a.host == b.host && lineOf a.pa == lineOf b.pa

/-- Next sequence number of a pair. -/
def State.nextSeq (s : State) (src : Src) (dst : Nat) : Nat :=
  ((s.seqs.find? (fun e => e.1 == src && e.2.1 == dst)).map (·.2.2)).getD 0

/-- Lowest unacknowledged sequence number of a pair (R57). -/
def State.lowSeq (s : State) (src : Src) (dst : Nat) : Nat :=
  s.reqs.foldl (fun m e => if e.2.src == src && e.2.dst == dst then min m e.2.seq else m) (s.nextSeq src dst)

/-- Latest unacknowledged request of the source to the line (R60). -/
def State.predOf (s : State) (r : Req) : Option Nat :=
  if !r.kind.onLine then none
  else s.reqs.foldl (fun m e =>
    if e.2.src == r.src && e.2.dst == r.dst && e.2.kind.onLine && sameLine e.2.ph r.ph then
      (match m with
        | none => some e.2.seq
        | some n => some (max n e.2.seq)) else m) none

/-- A packet waits at its injection point. -/
def State.inject (s : State) (k : Pkt) : State :=
  let (id, s) := s.newId
  { s with pkts := tset s.pkts id k }

/-- A copy of a request is put at its injection point: the first, a retry or a cancel (R65). -/
def State.sendCopy (s : State) (id : Nat) (r : Req) (retry cancel : Bool) : State :=
  s.inject { req := id, src := r.src, dst := r.dst, reply := false, retry := retry, cancel := cancel,
             flits := if cancel then 1 else r.flits, die := r.src.entry r.dst, part := r.part }

/-- A request leaves its source: it takes the next sequence number and its predecessor; its timer starts as it is sent (R65). -/
def State.send (s : State) (r : Req) : Nat × State :=
  let seq := s.nextSeq r.src r.dst
  let r : Req := { r with seq := seq, pred := s.predOf r }
  let (id, s) := s.newId
  (id, { s with
    reqs := tset s.reqs id r
    seqs := (r.src, r.dst, seq + 1) :: s.seqs.filter (fun e => !(e.1 == r.src && e.2.1 == r.dst)) : State }.sendCopy id r false false)

/-! ## Writes at their home slices -/

/-- The home slice of the region in a slot (R73). -/
def State.homeOfSlot (s : State) (p slot : Nat) : Nat := ((s.part p).home[slot % 256]?).getD 0

/-- A place beyond the addresses of memory that stands for a scaling ring, whose requests its slice performs in their order
(R60, R130, R225). -/
def ringPlace (n : Nat) : Phys := { pa := 2 ^ 60 + 64 * n, cache := 2 }

/-- The home of a written line forwards it to a region that records its frame: the region has an update on its way, which a
request from that slice to the region's home carries (R77). -/
def State.forwardOne (s : State) (p pa slot line : Nat) (who : List (Nat × Nat × Nat)) (launch : Option Nat) : State :=
  let (uid, s) := s.newId
  let u : Update := { uid := uid, line := line, bytes := memRead s.mem pa 64, bad := s.poison.contains pa, issuers := who,
                      launch := launch }
  let s := s.modPart p (fun q => { q with regions := tmod q.regions slot (fun r => { r with updates := r.updates ++ [u] }) })
  (s.send { src := .slice (s.home p pa), dst := s.homeOfSlot p slot, part := p, kind := .update slot uid, ph := { pa := pa },
            n := 64, va := 0, launch := launch }).2

/-- Forward a written line to every region of the partition that records its frame, once for each of its pages there
(R70, R73, R77). -/
def State.forwardLine (s : State) (p pa : Nat) (who : List (Nat × Nat × Nat)) (launch : Option Nat) : State :=
  (s.part p).regions.foldl (fun (s : State) e =>
    if e.2.freeing.isSome then s
    else (e.2.linesAt pa).foldl (fun (s : State) l => s.forwardOne p pa e.1 l who launch) s) s

/-- Forward the lines of a leaf store (R73, R77). -/
def State.forward (s : State) (p : Nat) (lines : List Nat) (who : List (Nat × Nat × Nat)) (launch : Option Nat) : State :=
  if (s.part p).regions.isEmpty then s
  else lines.foldl (fun (s : State) l => s.forwardLine p l who launch) s

/-- A record in the memory that was written whose SEQ has moved from 0 is released (R394). -/
def noteRelease (host : Bool) (before after : Mem) (r : Record) : Record :=
  if r.host == host && r.answer.isNone && memNat before r.pa 8 == 0 && memNat after r.pa 8 != 0 then
    { r with answer := some (memNat after (r.pa + 64) 64) }
  else r

/-- The lines of a launch's digest after a write: each virtual line stands once, with the frame written last (R144). -/
def Launch.wrote (l : Launch) (ph : Phys) (va n : Nat) : Launch :=
  { l with lines := (linesOf va n).foldl (fun ls v =>
      (v, lineOf (ph.pa - va % 64) + (v - lineOf va), ph.host) :: ls.filter (fun e => e.1 != v)) l.lines }

/-- What a write at its home slice does to memory itself (R53, R144, R394, R410), or to host memory. -/
def State.write (s : State) (ph : Phys) (va : Nat) (bytes : List Byte) (launch : Option Nat) : State :=
  let s := match launch with
    | some l => if ph.det then s.modLaunch l (fun x => x.wrote ph va bytes.length) else s
    | none => s
  let released := fun (before after : Mem) =>
    s.records.map (fun (e : Nat × Record) => (e.1, noteRelease ph.host before after e.2))
  if ph.host then
    let m := memWrite s.host ph.pa bytes
    { s with host := m, records := released s.host m }
  else
    let old := (memRead s.mem ph.pa bytes.length).zipIdx.map (fun e => (ph.pa + e.2, e.1))
    let m := memWrite s.mem ph.pa bytes
    let lines := linesOf ph.pa bytes.length
    let whole := fun (l : Nat) => decide (ph.pa ≤ l) && decide (l + 64 ≤ ph.pa + bytes.length)
    { s with
      mem := m
      wlog := old ++ s.wlog
      poison := s.poison.filter (fun l => !whole l)
      slicePoison := s.slicePoison.filter (fun l => !whole l)
      l2 := s.l2.map (fun (l : L2Line) => if lines.contains l.pa then { l with dirty := true } else l)
      records := released s.mem m }

/-- Perform a write at its home slice, which forwards what it has written (R77), or in host memory. -/
def State.store (s : State) (p : Nat) (ph : Phys) (va : Nat) (bytes : List Byte) (launch : Option Nat)
    (who : Option (Nat × Nat × Nat)) : State :=
  if s.net.isSome then
    { s with puts := s.puts ++ [{ part := p, ph := ph, va := va, data := bytes, launch := launch, who := who }] }
  else
    let s := s.write ph va bytes launch
    if ph.host then s else s.forward p (linesOf ph.pa bytes.length) who.toList launch

/-! ## Accesses of the hardware through the networks (R55, R57, R64 to R66)

An engine's unit, a tile transfer, the host port or an Ethernet port reads and writes memory by requests of its own. A step
that makes such an access runs against the lines that its requests have brought back: as long as it finds one missing, it
asks for it and changes nothing else; once it finds them all, its stores leave as requests, and what follows the access
happens when they are acknowledged (notes/assumptions/13.md). -/

def State.stage (s : State) (o : Owner) : Option Stage := s.stages.find? (fun e => e.owner == o)

/-- An access of the hardware is over, and with it what it has asked of the host (R37). -/
def State.dropStage (s : State) (o : Owner) : State := { s with
  stages := s.stages.filter (fun e => e.owner != o)
  atsAsk := s.atsAsk.filter (fun e => e.asker != .owner o)
  atsBad := s.atsBad.filter (fun e => e.1 != .owner o) }
def State.modStage (s : State) (o : Owner) (f : Stage → Stage) : State :=
  { s with stages := f ((s.stage o).getD { owner := o }) :: s.stages.filter (fun e => e.owner != o) }

/-- A range split at lines. -/
def lineParts : Nat → Nat → Nat → List (Nat × Nat)
  | 0, _, _ => []
  | fuel + 1, va, n => if n = 0 then [] else let m := min n (64 - va % 64); (va, m) :: lineParts fuel (va + m) (n - m)

/-- Bytes that an access of the hardware reads: from the lines it has, or the fault one of them met and the offset of its first
byte; code 0 where one is missing. -/
def State.fetchAs (s : State) (o : Owner) (src : Src) (part : Nat) (ph : Phys) (va n : Nat) :
    Except (Nat × Nat) (List Byte) × State :=
  let seen := ((s.stage o).map (·.seen)).getD []
  let got := fun (l : Nat) => seen.find? (fun e => e.pa == l && e.host == ph.host)
  let lines := linesOf ph.pa n
  let lack := lines.filter (fun l => (got l).isNone)
  if !lack.isEmpty then
    (.error (0, 0), { s with
      blocked := true
      wants := s.wants ++ lack.map (fun l => { src := src, part := part, ph := { ph with pa := l }, va := va + l - ph.pa }) })
  else match lines.find? (fun l => (got l).any (fun e => e.fault != 0)) with
    | some l => (.error (((got l).map (·.fault)).getD 0, max l ph.pa - ph.pa), s)
    | none => (.ok ((lines.flatMap (fun l => ((got l).map (·.data)).getD [])).drop (ph.pa - lineOf ph.pa) |>.take n), s)

/-- Bytes that hardware reads at a physical place: through the networks where its step makes an access of its own, and at the
home slice at once elsewhere, where a read of the host needs its link (R424). -/
def State.fetch (s : State) (part : Nat) (ph : Phys) (va n : Nat) : Except (Nat × Nat) (List Byte) × State :=
  match s.net with
  | none => (if ph.host && !s.link then .error (0xE6, 0) else s.loadOff ph n, s)
  | some (o, src) => s.fetchAs o src part ph va n

/-- Lines of the core's staging buffer that are being fetched: it holds 256, 16 KiB (R47). -/
def State.staged (s : State) (c : Nat) : Nat := (s.reqs.filter (fun e => e.2.tl && e.2.src.ofCore c)).length

/-- The staging buffer of the core whose engine or tile transfer makes an access is full, so that the access asks for its next line when
one has come. DESIGN CHOICE (notes/assumptions/13.md): the line of an element counts there until it has come; what a unit has read stands
with the unit. -/
def State.stageFull (s : State) (o : Owner) (src : Src) : Bool :=
  match o, src with
  | .unit .., .engine c => decide (256 ≤ s.staged c)
  | .tile .., .engine c => decide (256 ≤ s.staged c)
  | _, _ => false

/-- The access is one through the tile-layout path. -/
def Owner.tileLayout : Owner → Bool
  | .unit .. => true
  | .tile .. => true
  | _ => false

/-- The cache hint of the instruction for which hardware makes an access (R235). -/
def State.hintOf (s : State) (o : Owner) (own : Nat) : Nat :=
  match o with
  | .unit op _ => ((tget s.ops op).map (·.hint)).getD 0
  | .tile op => ((tget s.ops op).map (·.hint)).getD 0
  | _ => own

/-- A walker, whose reads are no accesses of the instruction. -/
def Src.walks : Src → Bool
  | .walker _ => true
  | _ => false

/-- Ask for the lines that an access lacks. -/
def State.sendWants (s : State) (o : Owner) (ws : List Want) : State :=
  ws.foldl (fun (s : State) w =>
    let l := (lineOf w.ph.pa, w.ph.host)
    if ((s.stage o).map (fun e => e.asked.any (fun a => (a.1, a.2.1) == l))).getD false || s.stageFull o w.src then s
    else
      let r : Req := match w.orAt with
        | none => { src := w.src, dst := s.home w.part l.1, part := w.part, kind := .load, ph := { w.ph with pa := l.1 }, n := 64,
                    va := w.va, owner := some o, fill := w.fill, tl := o.tileLayout && !w.src.walks,
                    hint := if w.src.walks then 0 else s.hintOf o w.hint }
        | some (a, m) => { src := w.src, dst := s.home w.part l.1, part := w.part, kind := .atomic (.orWord m),
                           ph := { w.ph with pa := a }, n := 8, va := w.va, owner := some o }
      let (id, s) := s.send r
      s.modStage o (fun e => { e with asked := (l.1, l.2, id) :: e.asked })) s

/-- The stores of an access leave, a request for each line; how many. -/
def State.sendPuts (s : State) (o : Owner) (src : Src) (ps : List Put) : Nat × State :=
  let parts := ps.flatMap (fun p => ((lineParts (p.data.length / 64 + 2) p.ph.pa p.data.length).map (fun q =>
    (p, q.1, q.2, (p.data.drop (q.1 - p.ph.pa)).take q.2))))
  (parts.length, parts.foldl (fun (s : State) e =>
    let (p, pa, n, d) := e
    (s.send { src := src, dst := s.home p.part pa, part := p.part, kind := .store d, ph := { p.ph with pa := pa }, n := n,
              va := p.va + (pa - p.ph.pa), launch := p.launch, owner := some o, by_ := p.who, hint := s.hintOf o 0 }).2) s)

/-- What a step has asked for while it waits: pages of the host and lines of memory, with nothing else of what it tried. -/
def State.asked (s r : State) : State :=
  { s with atsAsk := r.atsAsk, reqs := r.reqs, pkts := r.pkts, seqs := r.seqs, nextId := r.nextId, stages := r.stages }

/-- Try a step: where a part of it waits for the host's answer to a page request, only the request is made (R41). -/
def State.attempt (s : State) (f : State → State) : State :=
  let r := f { s with blocked := false }
  if r.blocked then s.asked r else r

/-- The stores of an access have all been acknowledged: what follows it happens, or waits for the host. -/
def State.viaEnd (s : State) (o : Owner) (st : Stage) (g : Option (Nat × Nat) → State → State) : State :=
  if st.left != 0 then s
  else
    let r := g st.out (({ s with blocked := false } : State).dropStage o)
    if r.blocked then { s with atsAsk := r.atsAsk } else r

/-- An access of the hardware: f makes it, with the fault it met; g is what follows. -/
def State.viaNet (s : State) (o : Owner) (src : Src) (f : State → Option (Nat × Nat) × State)
    (g : Option (Nat × Nat) → State → State) : State :=
  let st := (s.stage o).getD { owner := o }
  if st.writing then s.viaEnd o st g
  else if !st.asked.isEmpty then s
  else
    let (out, r) := f { s with blocked := false, net := some (o, src), wants := [], puts := [] }
    if r.blocked then ({ s with atsAsk := r.atsAsk } : State).sendWants o r.wants
    else
      let (n, t) := ({ r with net := none, wants := [], puts := [] } : State).sendPuts o src r.puts
      let st := { st with seen := [], writing := true, left := n, out := out }
      (t.modStage o (fun _ => st)).viaEnd o st g

/-- Something that an instruction reads before it takes effect: what f answers against the lines that requests have brought back;
code 0 while one is on its way. -/
def State.readNet {α : Type} (s : State) (o : Owner) (src : Src) (f : State → Except (Nat × Nat) α × State) :
    Except (Nat × Nat) α × State :=
  let (e, r) := f { s with blocked := false, net := some (o, src), wants := [], puts := [] }
  if r.blocked then (.error (0, 0), ({ s with atsAsk := r.atsAsk } : State).sendWants o r.wants)
  else (e, ({ r with net := none, wants := [] } : State).dropStage o)

/-! ## Caches (R47, R48) -/

def Core.cache (k : Core) : Path → List CLine
  | .ls => k.l1
  | .cst => k.cst
  | .smp => k.smp
  | .tile => []

def Core.setCache (k : Core) (p : Path) (ls : List CLine) : Core :=
  match p with
  | .ls => { k with l1 := ls }
  | .cst => { k with cst := ls }
  | .smp => { k with smp := ls }
  | .tile => k

def cacheSets : Path → Nat
  | .ls => 256
  | .cst => 64
  | .smp => 128
  | .tile => 1

def cacheWays : Path → Nat
  | .ls => 16
  | _ => 8

/-- Put a line into its set as most or least recently used; the last of a full set is evicted. -/
def insertLine (p : Path) (lru : Bool) (l : CLine) (ls : List CLine) : List CLine :=
  let mine := fun (x : CLine) => x.pa / 64 % cacheSets p == l.pa / 64 % cacheSets p
  let ls := ls.filter (fun x => x.pa != l.pa)
  let keep := (ls.filter mine).take (cacheWays p - 1)
  let rest := ls.filter (fun x => !mine x)
  if lru then rest ++ keep ++ [l] else l :: (keep ++ rest)

/-! ### The slices' lines (R53, R73, R235) -/

def shapeEw (w : Nat) : Nat := 4 * 2 ^ bits w 17 16
def shapeRows (w : Nat) : Nat := bits w 15 8
def shapeCols (w : Nat) : Nat := bits w 7 0
/-- Bytes of a shape. -/
def shapeBytes (w : Nat) : Nat := ceilDiv (shapeRows w * shapeCols w * shapeEw w) 8

/-- Shape word of a cell's current or last value. -/
def Cell.shape (x : Cell) : Nat := x.ew * 2 ^ 16 + x.rows * 2 ^ 8 + x.cols
/-- Bytes of the value. -/
def Cell.size (x : Cell) : Nat := shapeBytes x.shape

/-- Partition of a directory's hive. -/
def State.dirPart (s : State) (d : Nat) : Nat :=
  ((s.parts.find? (fun p => p.2.hives.contains (d / 4))).map (·.1)).getD 0

/-- Values held by cells of some directories in a place. -/
def State.placed (s : State) (dirs : Nat → Bool) (place : Nat) : List Nat :=
  s.dirs.flatMap (fun d => if dirs d.1 then d.2.cells.filterMap (fun c =>
    if c.2.st != .free && c.2.place == place then some c.2.size else none) else [])

/-- Lines of L2 that Comb values of a partition take (R53, R112). -/
def State.combLines (s : State) (p : Nat) : Nat := ((s.placed (fun d => s.dirPart d == p) 2).map (ceilDiv · 64)).sum

/-- Ways of a set of a slice that Comb values take. DESIGN CHOICE (notes/assumptions/82.md): a partition's values are laid over the
slices and sets in turn, without gaps. -/
def State.combWays (s : State) (slice set_ : Nat) : Nat :=
  match s.parts.find? (fun p => p.2.slices.contains slice) with
  | none => 0
  | some (p, q) =>
    ceilDiv (s.combLines p - (q.slices.idxOf slice + q.slices.length * set_)) (q.slices.length * 2048)

/-- Reserved areas at the top of a partition's highest channel group: first and last byte + 1 (R425). -/
def Partition.reserved (p : Partition) : Nat × Nat :=
  let g := p.groups.foldl max 0
  let top := if g = 0 then 0x8_0000_0000 else (g + 1) * Config.groupBytes
  (top - (p.slices.length * 2 ^ 22 + p.shadow + p.combbk), top)

/-- Width of a node (R72). -/
def nodeWidth (agg ty : Nat) : Nat := if ty = 1 || (ty = 0 && agg = 0) then 8 else 4

/-- Shadow address of a node of a region (R72, R425). -/
def State.nodePa (s : State) (p : Nat) (r : Region) (i : Nat) : Nat :=
  let q := s.part p
  q.reserved.2 - q.slices.length * 2 ^ 22 - q.shadow + r.run.1 * 65536 + i * nodeWidth r.agg r.ty

/-- Shadow address of the frame-map entry of a 64 KiB page of the leaf range. DESIGN CHOICE (notes/assumptions/82.md): the map follows
the nodes. -/
def State.framePa (s : State) (p : Nat) (r : Region) (j : Nat) : Nat := s.nodePa p r (2 * 2 ^ r.logn) + 8 * j

/-- Byte of a region's shadow footprint: nodes, then the frame map, whose entries' format is the device's own. -/
def Region.shadowByte (r : Region) (off : Nat) : Byte :=
  let u := nodeWidth r.agg r.ty
  let map_ := 2 * 2 ^ r.logn * u
  if off < map_ then (leBytes u (((tget r.nodes (off / u)).map (·.toNat)).getD 0)).getD (off % u) 0
  else (leBytes 8 (Config.frameEntry (((r.frames[(off - map_) / 8]?).map (·.2)).getD 0)).toNat).getD ((off - map_) % 8) 0

/-- The region of a partition whose shadow footprint holds a line. -/
def State.shadowOf (s : State) (line : Nat) : Option (Nat × Nat × Region) :=
  s.parts.findSome? (fun p => p.2.regions.findSome? (fun r =>
    let lo := s.nodePa p.1 r.2 0
    if lo ≤ line && decide (line < lo + r.2.run.2 * 65536) then some (p.1, r.1, r.2) else none))

/-- A line of nodes or frame-map entries that leaves its slice is written back to shadow space (R73). -/
def State.writeBack (s : State) (l : L2Line) : State :=
  if !l.node || !l.dirty then s
  else match s.shadowOf l.pa with
    | none => s
    | some (p, _, r) =>
      let lo := s.nodePa p r 0
      { s with mem := memWrite s.mem l.pa ((List.range 64).map (fun i => r.shadowByte (l.pa + i - lo))) }

/-- Set of a line among the 2,048 of its slice (notes/assumptions/82.md). -/
def l2Set (pa : Nat) : Nat := pa / 64 % 2048

/-- The line stands in its slice. -/
def State.inL2 (s : State) (pa : Nat) : Bool := s.l2.any (fun l => l.pa == lineOf pa)

/-- Lines of a full set, of which Comb values take some ways, from which its victim comes: nodes keep to the rest of the four ways
that they share, which lines may hold too; among lines those of hint 4 go first and those of hint 3 last (R53, R235). -/
def l2Victims (comb : Nat) (node : Bool) (mine : List L2Line) : List L2Line :=
  let nodes := mine.filter (·.node)
  let lines := mine.filter (fun l => !l.node)
  if node && 4 ≤ nodes.length + comb then nodes
  else if mine.length + comb < 16 then []
  else match lines.filter (·.hint == 4), lines.filter (·.hint != 3) with
    | a :: as, _ => a :: as
    | [], b :: bs => b :: bs
    | [], [] => lines

/-- A line enters its set of 16 ways; which of the lines that may go is given up where the set is full is the free choice x. A node
line that finds all four of its ways with Comb values stays in shadow space. -/
def State.l2Insert (s : State) (l : L2Line) (x : Nat) : State :=
  let comb := s.combWays l.slice (l2Set l.pa)
  if l.node && decide (4 ≤ comb) then s.writeBack l
  else
    let rest := s.l2.filter (fun e => e.pa != l.pa)
    let vs := l2Victims comb l.node (rest.filter (fun e => e.slice == l.slice && l2Set e.pa == l2Set l.pa))
    match vs[x % vs.length]? with
    | none => { s with l2 := l :: rest }
    | some v => { s.writeBack v with l2 := l :: rest.filter (fun e => e.pa != v.pa) }

/-- A line enters a slice, with a victim that the step's next free value names. -/
def State.l2Put (s : State) (l : L2Line) : State :=
  let (x, s) := s.draw
  s.l2Insert l x.toNat

/-- A set has room for a line beside those that it keeps. -/
def State.l2Fits (s : State) (kept : List L2Line) (l : L2Line) : Bool :=
  let mine := kept.filter (fun e => e.slice == l.slice && l2Set e.pa == l2Set l.pa)
  let comb := s.combWays l.slice (l2Set l.pa)
  decide (mine.length + comb < 16) && (!l.node || decide ((mine.filter (·.node)).length + comb < 4))

/-- Lines leave the sets in which Comb values have taken their ways (R53). DESIGN CHOICE (notes/assumptions/82.md): of a set, lines of
hint 3 stay first and those of hint 4 last, and then those that came last. -/
def State.l2Trim (s : State) : State :=
  let ranked := s.l2.filter (·.hint == 3) ++ s.l2.filter (fun l => l.hint != 3 && l.hint != 4) ++ s.l2.filter (·.hint == 4)
  let keep := ranked.foldl (fun k l => if s.l2Fits k l then l :: k else k) []
  let gone := s.l2.filter (fun l => !keep.contains l)
  { gone.foldl State.writeBack s with l2 := s.l2.filter keep.contains }

/-- Replace bytes of a list from an offset up. -/
def patch (data : List Byte) (off : Nat) (bytes : List Byte) : List Byte :=
  data.zipIdx.map (fun e => if off ≤ e.2 && e.2 < off + bytes.length then bytes.getD (e.2 - off) e.1 else e.1)

/-- Discard lines of a core's cache; loads in flight no longer fill them. -/
def State.discard (s : State) (c : Nat) (p : Path) (drop : Nat → Bool) : State :=
  let s := s.modCore c (fun k => k.setCache p ((k.cache p).filter (fun l => !drop l.pa)))
  { s with reqs := s.reqs.map (fun (e : Nat × Req) =>
      if e.2.src.ofCore c && e.2.fill == some p && drop (lineOf e.2.ph.pa) then (e.1, { e.2 with fill := none }) else e) }

/-- The Swarm engine drops a line that it has read or asked for: a later read asks again. -/
def Stage.forget (line : Nat) (host : Bool) (e : Stage) : Stage :=
  match e.owner with
  | .swarm .. => { e with
      seen := e.seen.filter (fun x => !(x.pa == line && x.host == host))
      asked := e.asked.filter (fun a => (a.1, a.2.1) != (line, host)) }
  | _ => e

/-- A line that is present becomes the most recently used (R47). -/
def touchLine (line : Nat) (ls : List CLine) : List CLine :=
  match ls.find? (fun l => l.pa == line) with
  | some l => insertLine .ls false l ls
  | none => ls

/-- A store passes the core's L1: its copy of the line is updated and most recently used (R47, R48), no older line may still be filled, and the Swarm engine
reads the line anew. -/
def State.l1Store (s : State) (c : Nat) (ph : Phys) (bytes : List Byte) : State :=
  let line := lineOf ph.pa
  let s : State := { s with stages := s.stages.map (Stage.forget line ph.host) }
  let s := s.modCore c (fun k => { k with l1 := k.l1.map (fun (l : CLine) =>
    if l.pa == line && !ph.host then { l with data := patch l.data (ph.pa - line) bytes } else l) })
  let s := if ph.host then s else s.modCore c (fun k => { k with l1 := touchLine line k.l1 })
  { s with reqs := s.reqs.map (fun (e : Nat × Req) =>
      if e.2.src.ofCore c && e.2.fill == some .ls && lineOf e.2.ph.pa == line then (e.1, { e.2 with fill := none }) else e) }

/-! ## Page walks (R31 to R36) -/

/-- Index of a virtual address at a level (R31). -/
def vaIndex (va : Nat) : Nat → Nat
  | 0 => bits va 56 48
  | 1 => bits va 47 39
  | 2 => bits va 38 30
  | 3 => bits va 29 21
  | _ => bits va 20 16

/-- log2 of the leaf page size at a level (R31). -/
def leafSize : Nat → Nat
  | 2 => 30
  | 3 => 21
  | _ => 16

/-- A malformed page-table entry (R32). -/
def malformedPte (e level : Nat) : Bool :=
  if bit e 52 then
    bits e 59 53 != 0 || bits e 15 13 != 0 || level == 0 || level == 1 || bits e 8 7 == 3 || bits e 12 11 ≥ 2 ||
    (bits e 12 11 == 1 && bits e 8 7 == 0) || (level == 2 && bits e 29 16 != 0) || (level == 3 && bits e 20 16 != 0)
  else bits e 59 53 != 0 || bits e 7 1 != 0 || level ≥ 4 || (level < 3 && bits e 11 8 != 0)

/-- FrameOutsidePartition (R33, R56). -/
def frameOutside (p : Partition) (base size : Nat) : Bool :=
  decide (Config.hbmTop < base + size) || !(p.groups.contains (base / Config.groupBytes)) ||
  !(p.groups.contains ((base + size - 1) / Config.groupBytes))

/-- Two ranges share a byte. -/
def overlaps (a n b m : Nat) : Bool := decide (a < b + m) && decide (b < a + n)

/-- FrameReserved (R29, R425). -/
def frameReserved (p : Partition) (base size : Nat) : Bool :=
  overlaps base size 0x8_0000_0000 0x4_0000_0000 ||
  (let r := p.reserved; r.1 < r.2 && overlaps base size r.1 (r.2 - r.1))

/-- CheckRights (R34): 0, or the fault. -/
def rights (usr x w r rop : Bool) (acc : Acc) (ro user : Bool) : Nat :=
  if user && !usr then 0x23
  else if (match acc with
    | .fetch => !x
    | .load => !r
    | .store => !w
    | .atomic => !r || !w) then 0x22
  else if ro && !rop then 0x29
  else 0

/-- The TLB entry of a leaf (R37). -/
def leafEntry (part asid va e level : Nat) : TlbEntry :=
  let size := leafSize level
  { asid := asid, part := part, vpn := va / 2 ^ size, size := size, base := bits e 51 16 * 65536 / 2 ^ size * 2 ^ size,
    host := bits e 12 11 == 1, cache := bits e 8 7, rop := bit e 6, det := bit e 5, usr := bit e 4, x := bit e 3,
    w := bit e 2, r := bit e 1, mod := bit e 10 }

/-- ACC, and MOD for a store or atomic (R36). -/
def Acc.flags : Acc → Nat
  | .store | .atomic => 0x600
  | _ => 0x200

/-- The flags of an access are ORed into an entry at its home (R36): done, or false while a request for it is under way. -/
def setAccMod (s : State) (part va a e m : Nat) : Bool × State :=
  if e ||| m = e then (true, s)
  else match s.net with
    | none => (true, s.store part { pa := a } 0 (leBytes 8 (e ||| m)) none none)
    | some (_, src) => (false, { s with
        blocked := true
        wants := s.wants ++ [{ src := .walker src.die, part := part, ph := { pa := a }, va := va, orAt := some (a, m) }] })

/-- An entry as the walk of an address reads it at its home slice: code 0 while the line is on its way. -/
def readPte (s : State) (part va a : Nat) : Except Nat Nat × State :=
  match s.net with
  | none => (match s.poisonedIn a 8 with
    | some (_, f) => (.error f, s)
    | none => (.ok (memNat s.mem a 8), s))
  | some (o, src) => match s.fetchAs o (.walker src.die) part { pa := a } va 8 with
    | (.ok b, s) => (.ok (leNat b), s)
    | (.error (f, _), s) => (.error f, s)

/-- The virtual address bits that index levels 0 to this one. -/
def walkPrefix (va : Nat) : Nat → Nat
  | 0 => va / 2 ^ 48
  | 1 => va / 2 ^ 39
  | 2 => va / 2 ^ 30
  | _ => va / 2 ^ 21

/-- A table entry that a die's walk cache holds (R37). -/
def State.walkHit (s : State) (die : Option Nat) (part asid va level : Nat) : Option Nat :=
  match die with
  | none => none
  | some d => ((((tget s.walks d).getD []).find? (fun e => e.part == part && e.asid == asid && e.level == level &&
      e.pfx == walkPrefix va level))).map (·.entry)

/-- Keep a valid table entry in a die's walk cache of 1,024 entries; which entry a full cache gives up is free. -/
def State.walkKeep (s : State) (die : Option Nat) (part asid va level e : Nat) : State :=
  match die with
  | none => s
  | some d =>
    let l := (tget s.walks d).getD []
    let (x, s) := if 1024 ≤ l.length then s.draw else (0, s)
    let l := if 1024 ≤ l.length then l.eraseIdx (x.toNat % 1024) else l
    { s with walks := tset s.walks d ({ part := part, asid := asid, level := level, pfx := walkPrefix va level, entry := e } :: l) }

/-- What a walk makes of an entry at a level (R33): its fault, its leaf, or a further table. -/
def State.examine (s : State) (part asid va level e : Nat) : Except Nat (Option TlbEntry) :=
  let size := leafSize level
  if !bit e 0 then .error 0x20
  else if malformedPte e level then .error 0x2B
  else if bits e 63 60 != part then .error 0x2C
  else if bit e 52 then
    let t := leafEntry part asid va e level
    if !t.host && frameOutside (s.part part) t.base (2 ^ size) then .error 0x2C
    else if !t.host && frameReserved (s.part part) t.base (2 ^ size) then .error 0x2A
    else .ok (some t)
  else .ok none

/-- The walk of R33 from a table at a level, through a die's walk cache where one is given: the leaf with the address and
value of its entry, or the fault. -/
def walkFrom (s : State) (die : Option Nat) (part asid va : Nat) :
    Nat → Nat → Nat → Except Nat (TlbEntry × Nat × Nat) × State
  | 0, _, _ => (.error 0x2B, s)
  | fuel + 1, level, table =>
    match s.walkHit die part asid va level with
    | some e => walkFrom s die part asid va fuel (level + 1) (bits e 51 8 * 256)
    | none =>
      let a := table + 8 * vaIndex va level
      match readPte s part va a with
      | (.error f, s) => (.error f, s)
      | (.ok e, s) =>
        match s.examine part asid va level e with
        | .error f => (.error f, s)
        | .ok (some t) => (.ok (t, a, e), s)
        | .ok none => walkFrom (s.walkKeep die part asid va level e) die part asid va fuel (level + 1) (bits e 51 8 * 256)

/-- Stores and atomics set MOD (R36). -/
def Acc.writes : Acc → Bool
  | .store => true
  | .atomic => true
  | _ => false

/-- The rights of a leaf for an access (R34): 0, or the fault. -/
def TlbEntry.allows (t : TlbEntry) (acc : Acc) (ro user : Bool) : Nat := rights t.usr t.x t.w t.r t.rop acc ro user

/-- The walk of a global address for one access (R33, R34, R36); code 0 while a request of it is under way. -/
def walk (s : State) (part asid root va : Nat) (acc : Acc) (ro user : Bool) : Except Nat TlbEntry × State :=
  match walkFrom s (s.net.bind (fun n => if n.2.die < 4 then some n.2.die else none)) part asid va 5 0 root with
  | (.error f, s) => (.error f, s)
  | (.ok (t, a, e), s) =>
    match t.allows acc ro user with
    | 0 => (match setAccMod s part va a e acc.flags with
      | (true, s) => (.ok { t with mod := t.mod || acc.writes }, s)
      | (false, s) => (.error 0, s))
    | f => (.error f, s)

/-- The physical byte that an entry gives. -/
def TlbEntry.phys (t : TlbEntry) (va : Nat) : Phys :=
  { pa := t.base + va % 2 ^ t.size, host := t.host, cache := t.cache, rop := t.rop, det := t.det }

/-- An entry serves an access (R37). -/
def TlbEntry.hits (t : TlbEntry) (part asid va : Nat) : Bool :=
  t.part == part && t.asid == asid && t.vpn == va / 2 ^ t.size

/-- The answer of a translation. -/
inductive Xl where
  | ok (ph : Phys)
  | wait
  | fail (code : Nat)
deriving DecidableEq, Repr

/-- What the host answered for a page of a partition, by host I/O virtual address and size (R41). -/
def State.hostPage (s : State) (part base size : Nat) : Option Nat :=
  (s.ats.find? (fun e => e.part == part && e.base == base && e.size == size)).map (·.ha)

/-- Who asks for a host page now. -/
def State.asker (s : State) : Asker :=
  match s.net with
  | some (o, _) => .owner o
  | none => s.asking.getD (.turn s.turn)

/-- A request for a page, or its failure, is that of who asks: threads of a bundle may come back apart. -/
def Asker.is : Asker → Asker → Bool
  | .threads w ts, .threads v us => w == v && ts.any us.contains
  | a, b => a == b

/-- A part of a step in which a looks up pages by itself. -/
def State.askFor {α : Type} (s : State) (a : Asker) (f : State → α × State) : α × State :=
  let r := f { s with asking := some a }
  (r.1, { r.2 with asking := s.asking })

/-- Threads give up what they have asked of the host. -/
def State.forget (s : State) (w : Nat) (ts : List Nat) : State := { s with
  atsAsk := s.atsAsk.filter (fun e => !e.asker.is (.threads w ts))
  atsBad := s.atsBad.filter (fun e => !e.1.is (.threads w ts)) }

/-- Non-posted requests of cores and slices that the host has not answered: reads and atomics, and translations for walks (R415). -/
def State.nonPosted (s : State) : Nat :=
  (s.reqs.filter (fun e => e.2.hostSt == 1 && (match e.2.kind with
    | .store _ => false
    | _ => true))).length +
  ((s.cores.flatMap (fun e => e.2.misses.filterMap (fun m => m.2.ats.map (fun t => (dieOf e.1, t.part, t.asid, t.vpn, t.size))))).eraseDups).length

/-- At most 768 non-posted requests are outstanding (R415): a further one of a core or slice waits. -/
def State.linkFull (s : State) : Bool := decide (768 ≤ s.nonPosted + s.atsAsk.length)

/-- Of the translations that hardware asks for, in their order, as many are with the host as the limit allows (R415). -/
def State.askSent (s : State) (k : Nat) : Bool := decide (k + s.nonPosted < 768)

/-- Translation that hardware makes by itself, walking at once; a host page needs the answer the host gave (R41), and what
asks for it is marked as waiting. A failure goes to who asked, and is remembered by nothing else (R37). -/
def State.xnow (s : State) (part asid root va : Nat) (acc : Acc) (ro user : Bool) : Xl × State :=
  match walk s part asid root va acc ro user with
  | (.ok t, s) =>
    if !t.host then (.ok (t.phys va), s)
    else match s.hostPage part t.base t.size with
      | some b => (.ok ({ t with base := b }.phys va), s)
      | none =>
        let mine := fun (a : Asker) (p b : Nat) => a.is s.asker && p == part && b == t.base
        match s.atsBad.find? (fun e => mine e.1 e.2.1 e.2.2.1) with
        | some e => (.fail e.2.2.2, { s with atsBad := s.atsBad.filter (fun e => !mine e.1 e.2.1 e.2.2.1) })
        | none =>
          if !s.link then (.fail 0x2E, s)
          else (.wait, { s with
            blocked := true
            atsAsk := if s.atsAsk.any (fun e => mine e.asker e.part e.base) then s.atsAsk
              else s.atsAsk ++ [{ asker := s.asker, part := part, base := t.base, size := t.size, since := s.now }] })
  | (.error 0, s) => (.wait, s)
  | (.error f, s) => (.fail f, s)

/-! ### Translation at a core (R37 to R41) -/

/-- The same access failed a walk (R37: a failure is delivered to its access and remembered by nothing else). -/
def XFail.is (f : XFail) (va : Nat) (acc : Acc) (ro user : Bool) : Bool :=
  f.va == va && f.acc == acc && f.ro == ro && f.user == user

/-- Threads that wait for the host are PARKED on the page request (R41, R152). -/
def State.parkHost (s : State) (w : Nat) (ts : List Nat) : State :=
  ts.foldl (fun s t => s.modThread w t (fun th => if th.st == .run then { th with st := .parked .hostPage } else th)) s

/-- Threads PARKED on a page request go on at their instruction. -/
def State.wakeHost (s : State) (w : Nat) (ts : List Nat) : State :=
  ts.foldl (fun s t => s.modThread w t (fun th =>
    if th.st == .parked .hostPage then { th with st := .run, readyAt := s.now } else th)) s

/-- Threads that wait for a translation make their access again. -/
def State.wakeAsk (s : State) (q : XAsk) : State := s.wakeHost q.wg q.tids

/-- A request of hardware for a host page has ended: its threads go on; a failure is kept for who asked and still waits (R37, R41). -/
def State.askEnds (s : State) (bad : Bool) (e : HostAsk) : State :=
  let keep := bad && (match e.asker with
    | .threads w ts => ts.any (fun t => ((s.thread w t).map (fun th => th.st == .parked .hostPage)).getD false)
    | _ => true)
  let s := if keep then { s with atsBad := (e.asker, e.part, e.base, 0x2E) :: s.atsBad } else s
  match e.asker with
  | .threads w ts => s.wakeHost w ts
  | _ => s

/-- Threads take an exception by f. While a page of the save area or of the handler waits for the host, they stay at their
instruction, PARKED, with nothing written (R41, R152); once it is taken, they have nothing more to ask of the host. -/
def State.taking (s : State) (w : Nat) (ts : List Nat) (f : State → State) : State :=
  let r := f { s with blocked := false, asking := some (.threads w ts) }
  if r.blocked then (s.asked r).parkHost w ts
  else { r.forget w ts with blocked := s.blocked, asking := s.asking }

/-- A failed translation is told to its access. -/
def State.tellFail (s : State) (code : Nat) (q : XAsk) : State :=
  q.tids.foldl (fun s t => s.modThread q.wg t (fun th => { th with
    xfails := { va := q.va, acc := q.acc, ro := q.ro, user := q.user, code := code } :: th.xfails }))
    (s.wakeAsk q)

/-- Where a bundle stands: its workgroup and the program counter of its first thread. -/
def State.whereIs (s : State) (w : Nat) (ts : List Nat) : Nat × Nat :=
  (w, (ts.head?.bind (fun t => s.thread w t)).elim 0 (fun th => th.pc.toNat))

/-- An access waits for a page: in the miss entry of its page, or in a new one; when all 32 are taken its bundle is held in
the memory pipe, and the next entry that frees is its own (R38 to R40). DESIGN CHOICE (notes/assumptions/98.md): while the size of a
page is not known, misses are told apart by the 64 KiB page, the smallest there is. -/
def State.miss (s : State) (c : Nat) (m : Miss) (q : XAsk) : State :=
  let k := s.core c
  let me := s.whereIs q.wg q.tids
  let mem := q.acc != .fetch
  match k.misses.find? (fun e => e.2.part == m.part && e.2.asid == m.asid && e.2.root == m.root && e.2.page == m.page) with
  | some (i, e) =>
    let s := if e.ats.isSome then s.parkHost q.wg q.tids else s
    if e.asks.contains q then s
    else s.modCore c (fun k => { k with misses := tset k.misses i { e with asks := e.asks ++ [q] } })
  | none =>
    if 32 ≤ k.misses.length then
      if mem && k.held.isNone then s.modCore c (fun k => { k with held := some me }) else s
    else if mem && k.held.isSome && k.held != some me then s
    else s.modCore c (fun k => { k with
      misses := tset k.misses (tfree k.misses) { m with asks := [q] }
      held := if mem then none else k.held })

/-- Translation at a core for an issuing access of threads ts: the failure of its walk, the TLB, or a miss (R36 to R40). A
TLB entry with MOD = 0 serves no store. A leaf that waits for the host refuses at once what its rights refuse (R45). -/
def State.xlate (s : State) (c w : Nat) (ts : List Nat) (part asid root va : Nat) (acc : Acc) (ro user : Bool) : Xl × State :=
  match (ts.head?.bind (fun t => s.thread w t)).bind (fun th => th.xfails.find? (fun f => f.is va acc ro user)) with
  | some f => (.fail f.code, s)
  | none =>
    match (s.core c).tlb.find? (fun t => t.hits part asid va && (t.mod || !acc.writes)) with
    | some t => (match t.allows acc ro user with
      | 0 => .ok (t.phys va)
      | f => .fail f, s)
    | none =>
      match ((s.core c).misses.findSome? (fun e => e.2.ats.filter (fun t => t.hits part asid va))).map (fun t => t.allows acc ro user) with
      | some (f + 1) => (.fail (f + 1), s)
      | _ => (.wait, s.miss c { part := part, asid := asid, root := root, page := va / 65536 * 65536, since := s.now }
          { wg := w, tids := ts, va := va, acc := acc, ro := ro, user := user })

/-! ## Apertures and checks (R24 to R28, R45) -/

/-- Where an address lies (R24). -/
inductive Place where
  | glob (va : Nat)
  | scr (off : Nat)
  | win (w off : Nat)
  | cst (off : Nat)
  | bad
deriving DecidableEq, Repr

def place (va : Nat) : Place :=
  if va < 2 ^ 57 then .glob va
  else if 0xFF00_0000_0000_0000 ≤ va && va < 0xFF00_0000_0004_0000 then .scr (va - 0xFF00_0000_0000_0000)
  else if 0xFF01_0000_0000_0000 ≤ va && va < 0xFF01_0000_0100_0000 then .win (bits va 23 18) (bits va 17 0)
  else if 0xFF02_0000_0000_0000 ≤ va && va < 0xFF02_0001_0000_0000 then .cst (va - 0xFF02_0000_0000_0000)
  else .bad

/-- The apertures that a kind of access may use (R25). -/
structure Aper where
  glob : Bool := false
  scr : Bool := false
  win : Bool := false
  cst : Bool := false

def Aper.ls : Aper := { glob := true, scr := true, win := true }
def Aper.g : Aper := { glob := true }
def Aper.c : Aper := { cst := true }
def Aper.tile : Aper := { scr := true, win := true }
def Aper.s : Aper := { scr := true }

/-- What the checks of an access say. -/
inductive Chk where
  | scratch (wg off : Nat)
  | glob (va : Nat) (ph : Phys)
  | wait
  | fail (code addr : Nat)
deriving DecidableEq, Repr

/-- Scratchpad bytes of a workgroup (R26). -/
def Workgroup.scrSize (g : Workgroup) : Nat := 8192 * g.grans.length

/-- The window of a workgroup onto a peer (R27, R117). -/
def checkWin (s : State) (g : Workgroup) (w off n va : Nat) : Chk :=
  match tget g.windows w with
  | none => .fail 0x26 va
  | some h =>
    if h.revoked then .fail 0x27 va
    else match s.wg h.peer with
      | none => .fail 0x27 va
      | some p =>
        if p.scrSize < off + n then .fail 0x24 (va + (p.scrSize - off))
        else if p.resid == .saved then .wait
        else .scratch h.peer off

/-- A global access of a workgroup's threads, translated at its core. -/
def checkGlob (s : State) (w : Nat) (ts : List Nat) (va : Nat) (acc : Acc) (ro : Bool) : Chk × State :=
  match s.wg w with
  | none => (.wait, s)
  | some g =>
    let e := s.eff w
    match s.xlate g.core w ts g.part e.asid e.ptroot va acc ro (!s.priv w) with
    | (.ok ph, s) => (.glob va ph, s)
    | (.wait, s) => (.wait, s)
    | (.fail f, s) => (.fail f va, s)

/-- The checks of one aligned access of n bytes by threads ts of workgroup w, in the order of R45. -/
def check (s : State) (w : Nat) (ts : List Nat) (va n align : Nat) (acc : Acc) (ap : Aper) (ro : Bool) : Chk × State :=
  if va % align != 0 then (.fail 0x2D va, s)
  else match s.wg w with
    | none => (.wait, s)
    | some g =>
      match place va with
      | .bad => (.fail 0x21 va, s)
      | .glob va => if ap.glob then checkGlob s w ts va acc ro else (.fail 0x28 va, s)
      | .scr off =>
        if !ap.scr then (.fail 0x28 va, s)
        else if g.scrSize < off + n then (.fail 0x24 (va + (g.scrSize - off)), s)
        else (.scratch w off, s)
      | .win k off => if ap.win then (checkWin s g k off n va, s) else (.fail 0x28 va, s)
      | .cst off =>
        if !ap.cst then (.fail 0x28 va, s)
        else
          let e := s.eff w
          let gva := (e.cbase + off) % 2 ^ 64
          if e.csize < off + n then (.fail 0x25 (va + (e.csize - off)), s)
          else if 2 ^ 57 ≤ gva then (.fail 0x21 gva, s)
          else checkGlob s w ts gva acc true

/-- Check a range that hardware of a workgroup reads or writes by itself (engines, tiles), translated at once: the place
of its first byte. -/
def checkNow (s : State) (w va n : Nat) (acc : Acc) (ap : Aper) : Chk × State :=
  match s.wg w with
  | none => (.wait, s)
  | some g =>
    match place va with
    | .bad => (.fail 0x21 va, s)
    | .glob va =>
      if !ap.glob then (.fail 0x28 va, s)
      else
        let e := s.eff w
        match s.xnow g.part e.asid e.ptroot va acc false (!s.priv w) with
        | (.ok ph, s) => (.glob va ph, s)
        | (.wait, s) => (.wait, s)
        | (.fail f, s) => (.fail f va, s)
    | .scr off =>
      if !ap.scr then (.fail 0x28 va, s) else if g.scrSize < off + n then (.fail 0x24 (va + (g.scrSize - off)), s) else (.scratch w off, s)
    | .win k off => if ap.win then (checkWin s g k off n va, s) else (.fail 0x28 va, s)
    | .cst _ => (.fail 0x28 va, s)

/-- The offset of the first byte of a scratchpad range that holds an uncorrectable error (R411). -/
def Workgroup.badIn (g : Workgroup) (off n : Nat) : Option Nat :=
  ((List.range ((n + off % 8 + 7) / 8)).find? (fun i => n != 0 && g.badScratch.contains (off / 8 + i))).map (fun i => 8 * i - off % 8)

/-- Read bytes at a checked place for hardware of a partition, or the fault and the offset of its first byte (R410, R411); code
0 waits. -/
def State.readAt (s : State) (part n : Nat) : Chk → Except (Nat × Nat) (List Byte) × State
  | .scratch w off =>
    match s.wg w with
    | some g => match g.badIn off n with
      | some o => (.error (0xE3, o), s)
      | none => (.ok (memRead g.scratch off n), s)
    | none => (.error (0x27, 0), s)
  | .glob va ph => s.fetch part ph va n
  | .wait => (.error (0, 0), s)
  | .fail f _ => (.error (f, 0), s)

/-- Write bytes at a checked place on behalf of a workgroup's engine or thread. -/
def State.writeAt (s : State) (by_ : Nat) (t : Nat) (bytes : List Byte) : Chk → State
  | .scratch w off => s.modWg w (fun g => { g with
      scratch := memWrite g.scratch off bytes
      badScratch := g.badScratch.filter (fun b => !(off ≤ 8 * b && 8 * b + 8 ≤ off + bytes.length)) })
  | .glob va ph => match s.wg by_ with
    | some g => s.store g.part ph va bytes (some g.launch) (some (by_, t, 0))
    | none => s
  | _ => s

/-- A global range split at 64 KiB pages: address and length of each part. -/
def pageParts : Nat → Nat → Nat → List (Nat × Nat)
  | 0, _, _ => []
  | fuel + 1, va, n =>
    if n = 0 then []
    else
      let m := min n (65536 - va % 65536)
      (va, m) :: pageParts fuel (va + m) (n - m)

/-- Read a range of any length for hardware: the bytes, or the lowest failing part's fault and address; code 0 waits. -/
def readRange (s : State) (w va n : Nat) (ap : Aper) : Except (Nat × Nat) (List Byte) × State :=
  (pageParts (n / 65536 + 2) va n).foldl (fun acc part =>
    match acc with
    | (.error e, s) => (.error e, s)
    | (.ok bs, s) =>
      match checkNow s w part.1 part.2 .load ap with
      | (.wait, s) => (.error (0, part.1), s)
      | (.fail f a, s) => (.error (f, a), s)
      | (c, s) => match s.readAt (((s.wg w).map (·.part)).getD 0) part.2 c with
        | (.ok b, s) => (.ok (bs ++ b), s)
        | (.error (f, o), s) => (.error (f, part.1 + o), s)) (.ok [], s)

/-- Check every part of a range for writing: the places, or the fault. -/
def placeRange (s : State) (w va n : Nat) (ap : Aper) : Except (Nat × Nat) (List (Chk × Nat)) × State :=
  (pageParts (n / 65536 + 2) va n).foldl (fun acc part =>
    match acc with
    | (.error e, s) => (.error e, s)
    | (.ok cs, s) =>
      match checkNow s w part.1 part.2 .store ap with
      | (.wait, s) => (.error (0, part.1), s)
      | (.fail f a, s) => (.error (f, a), s)
      | (c, s) => (.ok (cs ++ [(c, part.2)]), s)) (.ok [], s)

/-- Write bytes over checked places. -/
def writeParts (s : State) (w t : Nat) : List (Chk × Nat) → List Byte → State
  | [], _ => s
  | (c, n) :: cs, bytes => writeParts (s.writeAt w t (bytes.take n) c) w t cs (bytes.drop n)

/-- A part of a hardware access at system level, translated at once; outside the global aperture it fails (R24, R25). -/
def sysPart (s : State) (part asid root va : Nat) (acc : Acc) : Except Nat Phys × State :=
  match place va with
  | .glob a => (match s.xnow part asid root a acc false false with
    | (.ok ph, s) => (.ok ph, s)
    | (.wait, s) => (.error 0, s)
    | (.fail f, s) => (.error f, s))
  | .bad => (.error 0x21, s)
  | _ => (.error 0x28, s)

/-- Read global memory for hardware at system level through an address space (R30, R180): the bytes, or the fault and the
lowest failing byte (R45); code 0 waits for the host. -/
def readSysAt (s : State) (part asid root va n : Nat) : Except (Nat × Nat) (List Byte) × State :=
  (pageParts (n / 65536 + 2) va n).foldl (fun acc p =>
    match acc with
    | (.error e, s) => (.error e, s)
    | (.ok bs, s) =>
      match sysPart s part asid root p.1 .load with
      | (.error f, s) => (.error (f, p.1), s)
      | (.ok ph, s) => (match s.fetch part ph p.1 p.2 with
        | (.ok b, s) => (.ok (bs ++ b), s)
        | (.error (f, o), s) => (.error (f, p.1 + o), s))) (.ok [], s)

/-- The places of a range that hardware at system level will write, or the fault and the lowest failing byte. -/
def placeSys (s : State) (part asid root va n : Nat) : Except (Nat × Nat) (List (Phys × Nat × Nat)) × State :=
  (pageParts (n / 65536 + 2) va n).foldl (fun acc p =>
    match acc with
    | (.error e, s) => (.error e, s)
    | (.ok l, s) =>
      match sysPart s part asid root p.1 .store with
      | (.error f, s) => (.error (f, p.1), s)
      | (.ok ph, s) => (.ok (l ++ [(ph, p.1, p.2)]), s)) (.ok [], s)

/-- Write global memory for hardware at system level; all parts are checked before any is written. -/
def writeSysAt (s : State) (part asid root va : Nat) (bytes : List Byte) : Except (Nat × Nat) Unit × State :=
  match placeSys s part asid root va bytes.length with
  | (.error e, s) => (.error e, s)
  | (.ok l, s) =>
    (.ok (), (l.foldl (fun (acc : State × List Byte) e =>
      (acc.1.store part e.1 e.2.1 (acc.2.take e.2.2) none none, acc.2.drop e.2.2)) (s, bytes)).1)

/-- The fault alone. -/
def codeOnly {α : Type} (r : Except (Nat × Nat) α × State) : Except Nat α × State :=
  (match r.1 with
    | .ok a => .ok a
    | .error e => .error e.1, r.2)

def readSys (s : State) (part asid root va n : Nat) : Except Nat (List Byte) × State := codeOnly (readSysAt s part asid root va n)
def writeSys (s : State) (part asid root va : Nat) (bytes : List Byte) : Except Nat Unit × State :=
  codeOnly (writeSysAt s part asid root va bytes)

end Sys2Proof.Machine
end

