-- ==== Sys2Proof/Machine/Operands.lean ====
section
/-!
DEFINITION. Register frames and operands: links and windows (spec/07_execution.md R167 to R169), special values
(spec/01_notation.md R12), sources, destinations, register groups and pending writes (R153).
-/

namespace Sys2Proof

/-! ## What an instruction names -/

/-- The operand fields of a word; call.f.h holds bits of H in TGT (R337). -/
def Parts.opnds (p : Parts) : List Opnd :=
  match p.body with
  | .f3 o => [o.d, o.a, o.b, o.c, o.e]
  | .fi o => [o.d, o.a]
  | .fm o => [o.data, o.base, o.index]
  | .fb o => if p.opc = 0x282 then [o.argb] else [o.argb, o.tgt]
  | .fx o => [o.d, o.a, o.b]

/-- The register group that a word names: the field and its length (R236, R279, R293, R333, R334, R346, R356, R370). -/
def Instr.group (i : Instr) : Option (Opnd × Nat) :=
  match i with
  | .bperm _ o => some (o.b, 6)
  | .topkIns _ o => some (o.d, o.sub.toNat % 16)
  | .mLd _ o => some (o.a, 3)
  | .mSt _ o => some (o.a, 3)
  | .wagSend _ o => some (o.b, 8)
  | .lqPush _ o => some (o.b, 2)
  | .digestRd _ o => some (o.d, 5)
  | _ => none

/-- Every v register that the word names, groups included. -/
def Instr.vregs (i : Instr) : List Nat :=
  let one := match i.parts with
    | some p => p.opnds.filterMap (fun o => match o with
      | .v j => some j.val
      | _ => none)
    | none => []
  match i.group with
  | some (.v j, n) => one ++ (List.range n).map (fun d => j.val + d)
  | _ => one

/-- Every v register that the instruction reads: groups that are sources included, destinations left out. -/
def Instr.readRegs (i : Instr) : List Nat :=
  let vs := fun (l : List Opnd) => l.filterMap (fun o => match o with
    | .v j => some j.val
    | _ => none)
  let one := match i.parts with
    | some p => (match p.body with
      | .f3 o => vs (match i with
        | .bfi .. => [o.a, o.b, o.c, o.e]
        | .gmax .. => [o.d, o.a, o.b, o.c]
        | _ => [o.a, o.b, o.c])
      | .fi o => vs [o.a]
      | .fm o => vs (match i with
        | .st .. | .atomCas .. => [o.data, o.base, o.index]
        | _ => [o.base, o.index])
      | .fb o => vs (match i with
        | .callFH .. => []
        | _ => [o.tgt])
      | .fx o => vs [o.a, o.b])
    | none => []
  match i, i.group with
  | .digestRd .., _ => one
  | _, some (.v j, n) => one ++ (List.range n).map (fun d => j.val + d)
  | _, _ => one

/-- Every k register that the word names. -/
def Instr.kregsOf (i : Instr) : List Nat :=
  match i.parts with
  | some p => p.opnds.filterMap (fun o => match o with
    | .k n => some n.val
    | _ => none)
  | none => []

/-- Every predicate that the word names: guards and destination, and the source of sel and vote (R268, R289). -/
def Instr.predsOf (i : Instr) : List Nat :=
  match i.parts with
  | some p => [p.c.gaI.val, p.c.gbI.val] ++ (match p.body with
    | .f3 o => (match i with
      | .sel .. | .vote .. => [o.pd.val, o.sub.toNat % 16]
      | _ => [o.pd.val])
    | .fi o => [o.pd.val]
    | .fx o => [o.pd.val]
    | _ => [])
  | none => []

/-- The destination field, where the word has one (R160, R303): a k register there makes the instruction uniform. -/
def Instr.dstOpnd (i : Instr) : Opnd :=
  match i with
  | .st .. | .pref .. | .rel .. | .cinv .. | .cwb .. => .vz
  | _ => match i.parts with
    | some p => (match p.body with
      | .f3 o => o.d
      | .fi o => o.d
      | .fm o => o.data
      | .fb _ => .vz
      | .fx o => o.d)
    | none => .vz

/-- The second destination field (R11): the scale of quant. -/
def Instr.dstOpnd2 (i : Instr) : Opnd :=
  match i with
  | .quant _ o => o.e
  | _ => .vz

def Opnd.isK : Opnd → Bool
  | .k _ => true
  | _ => false

/-- The instruction is uniform (R160). -/
def Instr.uniform (i : Instr) : Bool := i.dstOpnd.isK || i.dstOpnd2.isK

end Sys2Proof

namespace Sys2Proof.Machine

/-! ## Links (R169) -/

/-- The link register of a call (R169, R339). -/
def mkLink (ret caller win args : Nat) (hnd : Option Int) (spl : Bool) : Word :=
  ofN (ret % 2 ^ 24 * 2 ^ 40 + caller % 256 * 2 ^ 32 + win % 256 * 2 ^ 24 + args % 256 * 2 ^ 16 +
    (if hnd.isSome then 2 ^ 15 else 0) + (if spl then 2 ^ 14 else 0) + wrapN (hnd.getD 0) 14)

def Frame.ret (f : Frame) : Nat := bits f.link.toNat 63 40
def Frame.win (f : Frame) : Nat := bits f.link.toNat 31 24
def Frame.args (f : Frame) : Nat := bits f.link.toNat 23 16
def Frame.hnd (f : Frame) : Bool := bit f.link.toNat 15
def Frame.spl (f : Frame) : Bool := bit f.link.toNat 14
def Frame.hoff (f : Frame) : Int := signExt f.link.toNat 14
/-- The link with SPL set, or with HND cleared. -/
def Frame.setSpl (f : Frame) (b : Bool) : Frame :=
  { f with link := ofN (setBit f.link.toNat 14 b) }
where
  /-- Bit i of x set to b. -/
  setBit (x i : Nat) (b : Bool) : Nat := if x.testBit i == b then x else if b then x + 2 ^ i else x - 2 ^ i
def Frame.clearHnd (f : Frame) : Frame := { f with link := ofN (Frame.setSpl.setBit f.link.toNat 15 false) }

/-- Slot of a frame in which the link stands (R167); a base frame has none. -/
def Frame.regsHeld (f : Frame) : List Word :=
  if f.base then f.slots else f.slots.set f.decl f.link

/-! ## Registers -/

/-- The frame's name and slot that vj names, through the windows (R168); none beyond the declared size (R167). -/
def resolveReg : List Frame → Nat → Option (Nat × Nat)
  | [], _ => none
  | f :: fs, j =>
    if f.decl ≤ j then none
    else if !f.base && decide (j < f.args) && !f.spl then resolveReg fs (f.win + j)
    else some (f.id, j)

/-- Whether vj lies within the declared size of the top frame (R167). -/
def inFrame (fs : List Frame) (j : Nat) : Bool :=
  match fs with
  | [] => false
  | f :: _ => decide (j < f.decl)

/-- The word in a slot of the frame of a name. -/
def frameGet (fs : List Frame) (r : Nat × Nat) : Word :=
  match fs.find? (fun f => f.id == r.1) with
  | some f => (f.slots[r.2]?).getD 0
  | none => 0

/-- Write a slot of the frame of a name; a frame that is gone takes nothing (R177, R342). -/
def framePut (fs : List Frame) (r : Nat × Nat) (x : Word) : List Frame :=
  fs.map (fun f => if f.id == r.1 then { f with slots := f.slots.set r.2 x, bad := f.bad.filter (· != r.2) } else f)

/-- A register whose word holds an uncorrectable error (R411). -/
def frameBad (fs : List Frame) (r : Nat × Nat) : Bool :=
  fs.any (fun f => f.id == r.1 && f.bad.contains r.2)

/-- V(j) of a thread; 0 beyond the frame, which the frame check has excluded. -/
def Thread.reg (th : Thread) (j : Nat) : Word := ((resolveReg th.frames j).map (frameGet th.frames)).getD 0

def Thread.setReg (th : Thread) (j : Nat) (x : Word) : Thread :=
  match resolveReg th.frames j with
  | some r => { th with frames := framePut th.frames r x }
  | none => th

/-- P(n) of a thread; p15 is pt (R11). -/
def Thread.pred (th : Thread) (n : Nat) : Bool := (th.preds[n]?).getD true
def Thread.setPred (th : Thread) (n : Nat) (b : Bool) : Thread := { th with preds := th.preds.set n b }

/-- Uniform register n of a workgroup. -/
def Workgroup.k (g : Workgroup) (n : Nat) : Word := (g.kregs[n]?).getD 0

/-! ## Special values (R12) -/

/-- Threads of a launch's workgroups. -/
def Launch.nth (l : Launch) : Nat := l.wx * l.wy * l.wz

/-- The special value of code 0x0F0 + n for thread t of workgroup g. -/
def special (s : State) (g : Workgroup) (l : Launch) (t n : Nat) : Word :=
  match n with
  | 0 => 0
  | 1 => ofN t
  | 2 => ofN (t % 32)
  | 3 => ofN (t / 32)
  | 4 => ofN g.idx
  | 5 => ofN (g.idx % l.gx)
  | 6 => ofN (g.idx / l.gx % l.gy)
  | 7 => ofN (g.idx / l.gx / l.gy)
  | 8 => ofN (t % l.wx)
  | 9 => ofN (t / l.wx % l.wy)
  | 10 => ofN (t / l.wx / l.wy)
  | 11 => ofN l.nth
  | 12 => ofN (l.gx * l.gy * l.gz)
  | 13 => ofN g.core
  | 14 => ofN (s.now + Config.clockSkew g.core)
  | _ => BitVec.allOnes 64

/-- The value of a source operand (R22): registers, special values, inline immediates. -/
def State.src (s : State) (w t : Nat) (o : Opnd) : Word :=
  match s.wg w with
  | none => 0
  | some g =>
    match o with
    | .v j => ((g.threads[t]?).map (fun th => th.reg j.val)).getD 0
    | .k n => g.k n.val
    | .imm n => if n.val < 32 then ofN n.val else ofInt ((n.val : Int) - 64)
    | .sp n => match tget s.launches g.launch with
      | some l => special s g l t n.val
      | none => 0
    | .rsv _ => 0

/-- The place that a destination operand names, for a pending write. -/
def State.dst (s : State) (w t : Nat) (o : Opnd) : Option Dst :=
  match o with
  | .v j => ((s.thread w t).bind (fun th => resolveReg th.frames j.val)).map (fun r => .v r.1 r.2)
  | .k n => some (.k n.val)
  | _ => none

/-- A write to a register invalidates its latch entries (R165). -/
def State.unlatch (s : State) (w t : Nat) (r : Nat × Nat) : State :=
  match s.wg w with
  | some g =>
    if (s.core g.core).latches.isEmpty then s
    else s.modCore g.core (fun k => { k with
      latches := k.latches.filter (fun l => !(l.wg == w && l.tid == t && l.frame == r.1 && l.reg == r.2)) })
  | none => s

/-- Write a register result at once. vz and other kinds discard it. -/
def State.put (s : State) (w t : Nat) (o : Opnd) (x : Word) : State :=
  match o with
  | .v j =>
    let s := match (s.thread w t).bind (fun th => resolveReg th.frames j.val) with
      | some r => s.unlatch w t r
      | none => s
    s.modThread w t (fun th => th.setReg j.val x)
  | .k n => s.modWg w (fun g => { g with kregs := g.kregs.set n.val x })
  | _ => s

/-- Write a predicate in each of some threads (R160); pt discards it (R11). -/
def State.putPred (s : State) (w : Nat) (ts : List Nat) (n : Nat) (b : Bool) : State :=
  if n = 15 then s else ts.foldl (fun s t => s.modThread w t (fun th => th.setPred n b)) s

/-- Write a value where a pending write was directed. -/
def State.putDst (s : State) (w t : Nat) (d : Dst) (x : Word) : State :=
  match d with
  | .v f j => (s.unlatch w t (f, j)).modThread w t (fun th => { th with frames := framePut th.frames (f, j) x })
  | .k n => s.modWg w (fun g => { g with kregs := g.kregs.set n x })
  | .p n ts => s.putPred w ts n (x != 0)

/-- A pending write of an operation that is not yet performed. -/
def Op.writes (o : Op) (d : Dst) : Bool :=
  !o.done && o.dst.any (fun e => match e, d with
    | .p n ts, .p m us => n == m && us.any (ts.contains ·)
    | e, d => e == d)

/-- A write to one of some places is pending in a thread (R153). -/
def State.pendingAny (s : State) (w t : Nat) (ds : List Dst) : Bool :=
  s.ops.any (fun e => e.2.wg == w && ds.any (fun d => e.2.writes d &&
    (match d with
      | .v _ _ => e.2.tid == t
      | _ => true)))

/-- A predicate of the guard has a write pending: whether the thread executes is not yet known (R8, R153). -/
def State.guardBusy (s : State) (w t : Nat) (c : Ctl) : Bool :=
  s.pendingAny w t [.p c.gaI.val [t], .p c.gbI.val [t]]

/-- A register, uniform register or predicate that the instruction names has a write pending (R153). -/
def State.busy (s : State) (w t : Nat) (th : Thread) (i : Instr) : Bool :=
  let vs := i.vregs.filterMap (fun j => (resolveReg th.frames j).map (fun r => Dst.v r.1 r.2))
  s.pendingAny w t (vs ++ i.kregsOf.map Dst.k ++ i.predsOf.map (fun n => Dst.p n [t]))

/-- A source register of the word holds an uncorrectable error (R411). -/
def Thread.badSource (th : Thread) (i : Instr) : Bool :=
  i.readRegs.any (fun j => match resolveReg th.frames j with
    | some r => frameBad th.frames r
    | none => false)

/-- Both guard terms hold (R8, R234). -/
def Thread.guard (th : Thread) (c : Ctl) : Bool :=
  xor (th.pred c.gaI.val) c.gaN && xor (th.pred c.gbI.val) c.gbN

end Sys2Proof.Machine
end

