-- ==== Sys2Proof/Machine/Flags.lean ====
section
/-!
DEFINITION. Predicate results and comparisons: the flags of this hardware are the predicates p0 to p14
(spec/11_isa_compute.md R257, R267; spec/04_aggregate_regions.md R75).
-/

namespace Sys2Proof.Machine

/-- A register result of a comparison (R257). -/
def boolWord (b : Bool) : Word := if b then BitVec.allOnes 64 else 0

/-- The conditions of cmp, in the code order of R267: eq, ne, lt, le, gt, ge. -/
def condInt (c : Nat) (a b : Int) : Bool :=
  match c with
  | 0 => a == b
  | 1 => a != b
  | 2 => decide (a < b)
  | 3 => decide (a ≤ b)
  | 4 => decide (b < a)
  | _ => decide (b ≤ a)

/-- A sum of two signed 64-bit numbers that leaves the format (R75). -/
def overflows64 (x : Int) : Bool := decide (x < -(2 ^ 63)) || decide (2 ^ 63 ≤ x)

/-- TX stays within its 48-bit format (R134). -/
def txFits (x : Int) : Bool := decide (-(2 ^ 47) ≤ x) && decide (x < 2 ^ 47)

end Sys2Proof.Machine
end

