-- ==== Sys2Proof/Machine/Rcb.lean ====
section
/-!
DEFINITION. Region control blocks: reading a PARENT chain, effective fields and resolution of a launch
(spec/08_scheduling.md R180 to R184, R188, R191; spec/13_isa_control.md R338; spec/15_faults.md R399).
-/

namespace Sys2Proof.Machine

/-- A node of the RCB tree: its address and its 2,048 bits. -/
structure Node where
  addr : Nat
  r : Nat

def Node.f (n : Node) (hi lo : Nat) : Nat := bits n.r hi lo
def Node.kind (n : Node) : Nat := n.f 63 56
/-- The node sets field group g (R182). -/
def Node.sets (n : Node) (g : Nat) : Bool := bit n.r (32 + g)

/-- Read 256 bytes of a node, whose address translates through the partition root's tables (R455). -/
def readNode (s : State) (p addr : Nat) : Except Nat Node × State :=
  let q := s.part p
  if addr % 256 != 0 then (.error 0xB0, s)
  else match readSys s p q.rootAsid q.rootPt addr 256 with
    | (.ok b, s) => (.ok { addr := addr, r := leNat b }, s)
    | (.error f, s) => (.error f, s)

/-- Bits that must be zero in a node, by its KIND (R180). -/
def Node.badBits (n : Node) : Bool :=
  let z := fun (e : Nat × Nat) => n.f e.1 e.2 != 0
  [(1791, 1728), (1659, 1653), (1279, 1223), (1151, 1150), (1087, 1084), (895, 872), (767, 744), (543, 512),
    (454, 448), (364, 353), (243, 232), (55, 48), (47, 45)].any z ||
  n.kind == 0 || decide (4 < n.kind) || (n.kind == 1 && z (127, 64)) || n.f 368 367 == 3 ||
  (n.kind != 1 && z (1727, 1664)) ||
  (n.kind != 2 && [(2047, 1792), (1663, 1472)].any z) ||
  (n.kind != 3 && [(1407, 1024), (1023, 896), (366, 365), (23, 0)].any z) ||
  (n.kind != 2 && n.kind != 3 && z (1471, 1408))

/-- A field outside its limits (R180, R184). -/
def Node.badField (n : Node) : Bool :=
  (n.sets 2 && (n.f 319 256 % 64 != 0 || decide (2 ^ 32 < n.f 352 320))) ||
  (n.sets 7 && (n.f 383 376 == 0 || decide (240 < n.f 383 376))) ||
  (n.sets 8 && n.f 511 480 % 8 != 0) || (n.sets 9 && decide (256 < n.f 463 455)) ||
  (n.sets 11 && n.f 703 640 % 64 != 0) ||
  (n.sets 12 && (n.f 831 768 % 64 != 0 || n.f 871 832 % 64 != 0)) ||
  (n.kind == 2 && (decide (n.f 1652 1648 < 4) || decide (16 < n.f 1652 1648) || decide (63 < n.f 1647 1640) ||
    n.f 1535 1472 % 64 != 0)) ||
  (n.kind == 3 && (n.f 1407 1344 % 64 != 0 || n.f 1343 1280 % 4 != 0 || decide (64 < n.f 1222 1216) ||
    decide (2048 < n.f 1149 1138) || decide (32 < n.f 1137 1132) || n.f 1131 1124 == 0 || decide (240 < n.f 1131 1124) ||
    n.f 1099 1088 == 0 || n.f 1111 1100 == 0 || n.f 1123 1112 == 0 ||
    decide (2048 < n.f 1099 1088 * n.f 1111 1100 * n.f 1123 1112) || n.f 959 896 % 64 != 0))

/-- The chain from a node to the partition root, the node first; at most 16 links (R181). -/
def chain (s : State) (p : Nat) : Nat → Nat → Except Nat (List Node) × State
  | 0, _ => (.error 0xB0, s)
  | fuel + 1, addr =>
    match readNode s p addr with
    | (.error f, s) => (.error f, s)
    | (.ok n, s) =>
      if n.badBits || n.badField then (.error 0xB0, s)
      else if n.kind = 1 then
        if addr = (s.part p).rootRcb then (.ok [n], s) else (.error 0xB0, s)
      else match chain s p fuel (n.f 127 64) with
        | (.ok ns, s) => (.ok (n :: ns), s)
        | (.error f, s) => (.error f, s)

/-- The nearest setter of a field group (R182); the root sets all. -/
def nearest (ns : List Node) (g : Nat) : Node := (ns.find? (fun n => n.sets g)).getD { addr := 0, r := 0 }

/-- Effective fields of a chain, the leaf first (R182). -/
def effOf (ns : List Node) (hives : Nat) : Eff :=
  let up := ns.reverse
  { seed := (nearest ns 0).f 191 128
    asid := (nearest ns 1).f 255 244
    ptroot := (nearest ns 1).f 231 192 * 4096
    cbase := (nearest ns 2).f 319 256
    csize := (nearest ns 2).f 352 320
    prio := up.foldl (fun m n => if n.sets 3 then min m (n.f 375 372) else m) 15
    det := bit (nearest ns 4).r 371
    outlier := bit (nearest ns 5).r 370
    calleeq := up.all (fun n => !n.sets 6 || bit n.r 369)
    poolg := (nearest ns 7).f 383 376
    spbase := (nearest ns 8).f 447 384
    spsize := (nearest ns 8).f 511 480
    ncore := ns.foldl (fun m n => let c := n.f 463 455
      if n.sets 9 && c != 0 && (m == 0 || decide (c < m)) then c else m) 0
    hives := up.foldl (fun m n => if n.sets 9 then m &&& n.f 575 544 else m) hives
    wgmax := ns.filterMap (fun n => if n.sets 9 && n.f 479 464 != 0 then some (n.addr, n.f 479 464) else none)
    fmode := (nearest ns 10).f 368 367
    fhandler := (nearest ns 10).f 639 576
    savebase := (nearest ns 11).f 703 640
    savesize := (nearest ns 11).f 743 704 }

/-- Effective order log of a queue node: base and size, with its address space (R142, R182). -/
def logOf (ns : List Node) : Nat × Nat := ((nearest ns 12).f 831 768, (nearest ns 12).f 871 832)

/-- Hives of a partition as a mask. -/
def Partition.hiveMask (p : Partition) : Nat := mkBits 32 (fun h => p.hives.contains h)

/-- Size of a context slot in 64 KiB chunks (R399). -/
def slotChunks (threads poolg scrg : Nat) : Nat :=
  ceilDiv (65536 + 512 * threads + 256 * (8 * poolg) + 8192 * scrg + 787712) 65536

/-- Entries of a callee table (R338). -/
def calleeEntries (bs : List Byte) : Nat → Option (List (Option Nat))
  | 0 => some []
  | n + 1 =>
    let e := leNat (bs.take 8)
    if bits e 62 24 != 0 then none
    else (calleeEntries (bs.drop 8) n).map (fun t => (if bit e 63 then some (bits e 23 0) else none) :: t)

/-- What a resolution asks for. -/
structure Ask where
  part : Nat
  queue : Option Nat
  rcb : Nat
  lseq : Nat
  origin : Origin
  priv : Bool
  /-- Grid of a pushed child (R195), or the single workgroup of a handler. -/
  grid : Option (Nat × Nat × Nat) := none
  hiveOnly : Option Nat := none
  /-- Uniform registers set beside KARGS (R334, R203, R395); none keeps KARGS. -/
  ks : List (Nat × Word) := []
  handler : Bool := false

/-- Bytes read for the launch through its effective address space. -/
def readEff (s : State) (p : Nat) (e : Eff) (va n : Nat) : Except Nat (List Byte) × State :=
  readSys s p e.asid e.ptroot va n

/-- n doublewords of a list of bytes. -/
def dwords (bs : List Byte) : Nat → List Word
  | 0 => []
  | n + 1 => ofN (leNat (bs.take 8)) :: dwords (bs.drop 8) n

/-- The grid of a kernel node (R180, R188). -/
def gridOf (s : State) (a : Ask) (n : Node) (e : Eff) : Except Nat (Nat × Nat × Nat) × State :=
  match a.grid with
  | some g => (.ok g, s)
  | none =>
    if bit n.r 365 then
      match readEff s a.part e (n.f 1343 1280) 12 with
      | (.ok b, s) => (.ok (leNat (b.take 4), leNat ((b.drop 4).take 4), leNat (b.drop 8)), s)
      | (.error f, s) => (.error f, s)
    else (.ok (n.f 1051 1024, n.f 1067 1052, n.f 1083 1068), s)

/-- The first free launch tag after the one given out last (R188). -/
def nextTag (s : State) (p : Nat) : Nat :=
  let live := s.launches.filterMap (fun e => if e.2.part == p then some e.2.ltag else none)
  ((List.range (live.length + 1)).map (fun i => ((s.part p).lastTag + 1 + i) % 2 ^ 24)).find? (fun t => !live.contains t)
    |>.getD 0

/-- Write a hardware field of a node's RCB. -/
def putNode (s : State) (p addr off : Nat) (bytes : List Byte) : State :=
  let q := s.part p
  match writeSys s p q.rootAsid q.rootPt (addr + off) bytes with
  | (.error 0, s) => { s with blocked := true }
  | (_, s) => s

/-- The node is the RCB of a launch that has not completed; handler launches do not count (R452). -/
def State.nodeBusy (s : State) (p rcb : Nat) : Bool :=
  s.launches.any (fun e => e.2.part == p && e.2.node == rcb && (match e.2.origin with
    | .handler _ => false
    | .waggle => false
    | _ => true))

/-- The launch that a kernel node resolves to (R182 to R184, R188), or the fault of its resolution. -/
def buildLaunch (s : State) (a : Ask) : Except Nat Launch × State :=
  match chain s a.part 17 a.rcb with
  | (.error f, s) => (.error f, s)
  | (.ok [], s) => (.error 0xB0, s)
  | (.ok (n :: ns), s) =>
    if n.kind != 3 || (!a.handler && s.nodeBusy a.part a.rcb) then (.error 0xB0, s)
    else
      let e := effOf (n :: ns) (s.part a.part).hiveMask
      let e := if a.handler then { e with det := false } else e
      let e := match a.hiveOnly, a.origin with
        | some h, .waggle => { e with hives := 2 ^ h }
        | _, _ => e
      let th := n.f 1099 1088 * n.f 1111 1100 * n.f 1123 1112
      if e.hives == 0 || decide (8 * e.poolg < 8 * ceilDiv (n.f 1131 1124) 8 * ceilDiv th 32) ||
          decide (e.savesize < 32768 + 65536 * slotChunks th e.poolg (n.f 1137 1132)) then (.error 0xB0, s)
      else match gridOf s a n e with
        | (.error f, s) => (.error f, s)
        | (.ok (gx, gy, gz), s) =>
          if 2 ^ 28 < gx * gy * gz then (.error 0xB5, s)
          else
            let kn := if a.handler && a.origin != .waggle then 0 else n.f 1222 1216
            match readEff s a.part e (n.f 1215 1152) (8 * kn) with
            | (.error f, s) => (.error f, s)
            | (.ok kb, s) =>
              let callee := n.f 1023 960
              match (if callee = 0 then (.ok (List.replicate 128 0), s)
                else readEff s a.part e callee 128) with
              | (.error f, s) => (.error f, s)
              | (.ok cb, s) =>
                match calleeEntries cb 16 with
                | none => (.error 0xB0, s)
                | some cs =>
                  let ks := (dwords kb kn ++ List.replicate (64 - kn) 0)
                  (.ok {
                    part := a.part, origin := a.origin, queue := a.queue, ltag := nextTag s a.part, lseq := a.lseq,
                    node := a.rcb, eff := e, gx := gx, gy := gy, gz := gz, wx := n.f 1099 1088, wy := n.f 1111 1100,
                    wz := n.f 1123 1112, regs := n.f 1131 1124, scrg := n.f 1137 1132, nbars := n.f 1149 1138,
                    kcode := n.f 959 896, kargs := a.ks.foldl (fun l k => l.set k.1 k.2) ks, callees := cs,
                    memb := bit n.r 366, event := if a.handler then 0 else n.f 1407 1344, priv := a.priv,
                    resolvedAt := s.now, wmark := s.wlog.length, hiveOnly := a.hiveOnly }, s)

/-- LSEQ of the child of index i of a launch with sequence s (R195); a node of a graph counts likewise (R188, R331). -/
def childSeq (s i : Nat) : Nat := if s % 2 ^ 32 = 0 then s + (i + 1) * 2 ^ 16 else s + i + 1

/-- Live launches of a partition (R188). -/
def State.liveLaunches (s : State) (p : Nat) : Nat :=
  (s.launches.filter (fun e => e.2.part == p)).length

/-- Resolve a launch: give it a tag and enter it; its node takes STATE 1, LTAG and LSEQ unless it is a handler launch
(R188, R395). -/
def resolve (s : State) (a : Ask) : Except Nat Nat × State :=
  match buildLaunch s a with
  | (.error f, s) => (.error f, s)
  | (.ok l, s) =>
    let (id, s) := s.newId
    let s := s.modPart a.part (fun q => { q with lastTag := l.ltag })
    let s := { s with launches := tset s.launches id l }
    (.ok id, if a.handler then s
      else putNode (putNode s a.part a.rcb 0 (leBytes 4 (l.ltag + 2 ^ 24))) a.part a.rcb 176 (leBytes 8 l.lseq))

end Sys2Proof.Machine
end

