-- ==== Sys2Proof/Machine/Frames.lean ====
section
/-!
DEFINITION. Register pools and frames (spec/07_execution.md R166 to R178): allocation, the list of needs of a lane,
spill records and refills, return, unwind and exit.
-/

namespace Sys2Proof.Machine

/-- Registers of a frame, a whole number of granules (R166). -/
def Frame.size (f : Frame) : Nat := if f.base then roundUp f.decl 8 else roundUp (f.decl + 1) 8

/-- Granules of a lane of a core that frames hold. -/
def State.usedGrans (s : State) (c lane : Nat) : List Nat :=
  s.wgs.flatMap (fun e => if e.2.core == c && e.2.resid != .saved then
    e.2.threads.zipIdx.flatMap (fun p => if p.2 % 32 == lane then
      p.1.frames.flatMap (fun f => if f.spilled then [] else f.grans) else []) else [])

/-- Registers that a workgroup's frames hold in a lane (R166). -/
def Workgroup.laneRegs (g : Workgroup) (lane : Nat) : Nat :=
  (g.threads.zipIdx.map (fun p => if p.2 % 32 == lane then
    (p.1.frames.map (fun f => if f.spilled then 0 else f.size)).sum else 0)).sum

/-- The n lowest-numbered free granules of a lane among 0 to 239 (R166). -/
def State.freeGrans (s : State) (c lane n : Nat) : Option (List Nat) :=
  let used := s.usedGrans c lane
  let free := (List.range 240).filter (fun i => !used.contains i)
  if free.length < n then none else some (free.take n)

/-- Spill-stack base of thread t of workgroup w (R173, R180). -/
def State.spillBase (s : State) (w t : Nat) : Nat :=
  match s.wg w, s.launchOf w with
  | some g, some l => l.eff.spbase + l.eff.spsize * (g.idx * l.nth + t)
  | _, _ => 0

/-- Bytes of a frame's spill record (R173). -/
def Frame.recBytes (f : Frame) : Nat := 8 * f.size + 8

/-- Offset of the record of the frame above the frames `below` in a spill stack: all of them are spilled, those in the
Frames section aside. -/
def recOffset (below : List Frame) : Nat := (below.map (fun f => if f.stored then 0 else f.recBytes)).sum

/-- Header of a spill record (R173). -/
def spillHeader (depth t size : Nat) : Nat := depth % 2 ^ 16 * 2 ^ 24 + t % 2 ^ 11 * 2 ^ 8 + size / 8

/-- Write words of a frame from a slot up. -/
def Frame.putSlots (f : Frame) (at_ : Nat) (xs : List Word) : Frame :=
  { f with slots := xs.zipIdx.foldl (fun l e => l.set (at_ + e.2) e.1) f.slots }

/-- A part of one line that the Swarm engine reads for a thread, on the load-store path (R35, R47): an L1 hit, or what a request
of the engine has brought back; code 0 while that is on its way. -/
def State.lineLoad (s : State) (g : Workgroup) (w t : Nat) (ph : Phys) (va n : Nat) : Except (Nat × Nat) (List Byte) × State :=
  let keep := !ph.host && ph.cache == 0
  match (if keep then (s.core g.core).l1.find? (fun l => l.pa == lineOf ph.pa) else none) with
  | some l => (.ok ((l.data.drop (ph.pa % 64)).take n), s.modCore g.core (fun k => { k with l1 := insertLine .ls false l k.l1 }))
  | none =>
    match s.fetchAs (.swarm w t) (.engine g.core) g.part ph va n with
    | (.ok b, s) => (.ok b, s)
    | (.error (0, _), _) => (.error (0, 0), s.sendWants (.swarm w t)
        [{ src := .engine g.core, part := g.part, ph := ph, va := va, fill := if keep then some .ls else none }])
    | (.error e, _) => (.error e, s)

/-- Read the spill stack at system level, on the load-store path through the core's L1 (R30, R47): the bytes, or the fault and
the lowest failing byte (R45); code 0 waits. -/
def State.spillRead (s : State) (w off t n : Nat) : Except (Nat × Nat) (List Byte) × State :=
  match s.wg w with
  | some g =>
    let e := s.eff w
    let va := s.spillBase w t + off
    let r := s.askFor (.owner (.swarm w t)) (fun s => (lineParts (n / 64 + 2) va n).foldl (fun (acc : Except (Nat × Nat) (List Byte) × State) p =>
      match acc with
      | (.error (f + 1, a), s) => (.error (f + 1, a), s)
      | (got, s) => match sysPart s g.part e.asid e.ptroot p.1 .load, got with
        | (.error f, s), .ok _ => (.error (f, p.1), s)
        | (.error _, s), got => (got, s)
        | (.ok ph, s), got => match s.lineLoad g w t ph p.1 p.2, got with
          | (.ok b, s), .ok bs => (.ok (bs ++ b), s)
          | (.error (f, o), s), .ok _ => (.error (f, p.1 + o), s)
          | (_, s), got => (got, s)) (.ok [], s))
    match r with
    | (.error (0, a), s) => (.error (0, a), s)
    | (r, s) => (r, s.dropStage (.swarm w t))
  | none => (.error (0, 0), s)

/-- Write the spill stack at system level: the parts are checked, L1 takes them, and a request for each line leaves the core's
engine front end (R30, R47, R48). -/
def State.spillWrite (s : State) (w off t : Nat) (bytes : List Byte) : Except (Nat × Nat) Unit × State :=
  match s.wg w with
  | some g =>
    let e := s.eff w
    let va := s.spillBase w t + off
    match s.askFor (.owner (.swarm w t)) (fun s => placeSys s g.part e.asid e.ptroot va bytes.length) with
    | (.error e, s) => (.error e, s)
    | (.ok l, s) => (.ok (), l.foldl (fun (s : State) p =>
        (lineParts (p.2.2 / 64 + 2) p.1.pa p.2.2).foldl (fun (s : State) q =>
          let ph := { p.1 with pa := q.1 }
          let at_ := p.2.1 + (q.1 - p.1.pa)
          let d := (bytes.drop (at_ - va)).take q.2
          ((s.l1Store g.core ph d).send { src := .engine g.core, dst := s.home g.part ph.pa, part := g.part, kind := .store d, ph := ph,
                                          n := q.2, va := at_, by_ := some (w, t, 0) }).2) s) s)
  | none => (.error (0, 0), s)

/-- Drop the latched operands of a thread (R165). -/
def State.dropLatches (s : State) (w t : Nat) : State :=
  match s.wg w with
  | some g => s.modCore g.core (fun k => { k with latches := k.latches.filter (fun l => !(l.wg == w && l.tid == t)) })
  | none => s

/-- The conditions of R170 for a demand of S registers, apart from older needs. -/
def State.fits (s : State) (w t size : Nat) : Option (List Nat) :=
  match s.wg w with
  | none => none
  | some g =>
    if 8 * (s.eff w).poolg < g.laneRegs (t % 32) + size then none
    else s.freeGrans g.core (t % 32) (size / 8)

/-- A fault of the Swarm engine against a thread waits for its next issue (R30, R390). -/
def State.swarmFault (s : State) (w t code spc addr : Nat) : State :=
  s.modThread w t (fun th => { th with
    st := .run, call := none, faults := th.faults ++ [{ op := 0, code := code, spc := spc, addr := addr }] })

/-- The words of a spill record with those that had to wait. -/
def Frame.patched (f : Frame) (ws : List Word) : List Word :=
  f.late.foldl (fun ws e => e.2.zipIdx.foldl (fun ws x => ws.set (e.1 + x.2) x.1) ws) ws

/-- The window words that a new frame takes from a spilled caller (R172). -/
def State.windowOf (s : State) (w t : Nat) (top : Frame) (below : List Frame) (win args : Nat) :
    Except (Nat × Nat) (List Word × List Nat) × State :=
  let bad := top.bad.filterMap (fun i => if win ≤ i && decide (i < win + args) then some (i - win) else none)
  if top.stored then (.ok ((top.slots.drop win).take args, bad), s)
  else if !top.spilled || args = 0 then (.ok ([], []), s)
  else match s.spillRead w (recOffset below + 8 * win) t (8 * args) with
    | (.ok b, s) => (.ok (((top.patched (List.replicate win 0 ++ dwords b args)).drop win).take args, bad), s)
    | (.error e, s) => (.error e, s)

/-- A granted call takes effect (R339, R170, R172): done, or false while the window's page waits for the host. A window that
cannot be read is a fault of the thread, which calls again (R30). -/
def State.makeFrame (s : State) (w t : Nat) (c : PendCall) (grans : List Nat) : Bool × State :=
  match s.thread w t with
  | none => (true, s)
  | some th =>
    match th.frames with
    | [] => (true, s)
    | top :: below =>
      match s.windowOf w t top below c.window c.args with
      | (.error (0, _), r) => (false, s.asked r)
      | (.error (f, a), s) => (true, s.swarmFault w t f th.pc.toNat a)
      | (.ok (win, bad), s) =>
      let (id, s) := s.newId
      let size := roundUp (c.demand + 1) 8
      let link := mkLink (th.pc.toNat + 1) (grans0 top.grans) c.window c.args c.handler top.spilled
      let f : Frame := { id := id, decl := c.demand, grans := grans, link := link, fresh := true, bad := bad,
                         slots := win ++ List.replicate (size - win.length) 0 }
      let st := match c.queue with
        | some q => TState.parked (.calleeQ q s.now c.target)
        | none => .run
      (true, (s.modThread w t (fun th => { th with
        frames := f :: th.frames, call := none, st := st, readyAt := s.now,
        pc := if c.queue.isSome then th.pc else BitVec.ofNat 24 c.target })).dropLatches w t)
where
  /-- First granule of a frame. -/
  grans0 : List Nat → Nat
    | [] => 0
    | x :: _ => x

/-- Try to refill the frame that a thread waits for (R174): performed, or failed with a fault of the thread; false when it
does not fit, or its page waits for the host. -/
def State.refill (s : State) (w t : Nat) : Bool × State :=
  match s.thread w t with
  | none => (false, s)
  | some th =>
    let (above, rest) := if th.returning then (th.frames.take 1, th.frames.drop 1) else ([], th.frames)
    match rest with
    | [] => (false, s)
    | f :: below =>
      match s.fits w t f.size with
      | none => (false, s)
      | some grans =>
        let off := recOffset below
        match (if f.stored then (.ok (f.regsHeld.flatMap (fun x => leBytes 8 x.toNat) ++
            leBytes 8 (spillHeader below.length t f.size)), s) else s.spillRead w off t f.recBytes) with
        | (.error (0, _), r) => (false, s.asked r)
        | (.error (code, a), s) => (true, fail s th code a)
        | (.ok b, s) =>
          let h := leNat (b.drop (8 * f.size))
          if bits h 18 8 != t || bits h 39 24 != below.length % 2 ^ 16 || bits h 7 0 != f.size / 8 then
            (true, fail s th 0x77 (s.spillBase w t + off + 8 * f.size))
          else
            let ws := f.patched (dwords b f.size)
            let link := if f.base then f.link else (ws[f.decl]?).getD 0
            let ws := match above with
              | [c] => if c.spl then putWindow ws c.win (c.slots.take c.args) else ws
              | _ => ws
            let bad := match above with
              | [c] => if c.spl then f.bad.filter (fun i => !(c.win ≤ i && decide (i < c.win + c.args))) ++
                  c.bad.filterMap (fun i => if i < c.args then some (c.win + i) else none) else f.bad
              | _ => f.bad
            let g : Frame := { f with bad := bad, late := [], spilled := false, stored := false, grans := grans, slots := ws, link := link, fresh := true }
            (true, (s.modThread w t (fun th => { th with
              frames := g :: below, returning := false, st := .run, sptop := if f.stored then th.sptop else off, readyAt := s.now })).dropLatches w t)
where
  /-- The refill fails: a deferred fault waits for the thread's next issue. -/
  fail (s : State) (th : Thread) (code addr : Nat) : State :=
    let d : Deferred := { op := 0, code := code, spc := th.pc.toNat, addr := addr }
    s.modThread w t (fun th => { th with st := .run, faults := th.faults ++ [d] })
  /-- Write words from a slot up. -/
  putWindow (ws : List Word) (at_ : Nat) : List Word → List Word
    | [] => ws
    | x :: xs => putWindow (ws.set at_ x) (at_ + 1) xs

/-- Words of a frame's record that its refill will bring. -/
def State.keepLate (s : State) (w t : Nat) (f : Frame) (at_ : Nat) (ws : List Word) : State :=
  s.modThread w t (fun th => { th with
    frames := th.frames.map (fun g => if g.id == f.id then { g with late := g.late ++ [(at_, ws)] } else g) })

/-- Write words of a frame's spill record from a slot up. While the page waits for the host they are kept; a write that fails
is a fault of the thread whose record it is (R30). -/
def State.spillPut (s : State) (w t : Nat) (f : Frame) (below : List Frame) (at_ : Nat) (ws : List Word) : State :=
  match s.spillWrite w (recOffset below + 8 * at_) t (ws.flatMap (fun x => leBytes 8 x.toNat)) with
  | (.ok _, s) => s
  | (.error (0, _), r) => (s.asked r).keepLate w t f at_ ws
  | (.error (c, a), s) => s.modThread w t (fun th => { th with
      faults := th.faults ++ [{ op := 0, code := c, spc := th.pc.toNat, addr := a }] })

/-- A result that reaches a frame of a saved or spilled thread goes into its spill record too (R147). -/
def State.putRecord (s : State) (w t : Nat) (d : Dst) (x : Word) : State :=
  match d, s.thread w t with
  | .v f j, some th =>
    (match th.frames.dropWhile (fun g => g.id != f) with
    | g :: below => if g.spilled && !g.stored then s.spillPut w t g below j [x] else s
    | [] => s)
  | _, _ => s

/-- Take a need off the list of its core. -/
def State.dropNeed (s : State) (c w t : Nat) : State :=
  s.modCore c (fun k => { k with needs := k.needs.filter (fun n => !(n.2.1 == w && n.2.2 == t)) })

/-- The thread's top frame is spilled (R174). -/
def Thread.topSpilled (th : Thread) : Bool :=
  th.returning || (match th.frames with
    | f :: _ => f.spilled
    | [] => false)

/-- Grant the call or the refill that a thread waits for, if it fits: whether it has been granted. -/
def State.grantWait (s : State) (w t : Nat) (th : Thread) : Bool × State :=
  match th.st, th.call with
  | .frameWait, some c => (match s.fits w t (roundUp (c.demand + 1) 8) with
    | some grans => s.makeFrame w t c grans
    | none => (false, s))
  | .refillWait, _ => s.refill w t
  | _, _ => (true, s)

/-- Grant the need of a thread if it fits (R170): whether it has been granted. The top frame of a restored thread comes first, and the
thread goes on waiting as before; a fault of that refill is met where the thread waits (R178, R402, R456). -/
def State.grantOne (s : State) (w t : Nat) : Bool × State :=
  match s.thread w t with
  | none => (false, s)
  | some th =>
    if !(th.backTop && th.topSpilled) then s.grantWait w t th
    else match s.refill w t with
      | (false, s) => (false, s)
      | (true, s) =>
        let th' : Thread := { ((s.thread w t).getD th) with backTop := false, st := if th.st == .refillWait then .run else th.st }
        (s.modThread w t (fun _ => th')).grantWait w t th'

/-- Whenever registers of a lane are freed, grant its oldest needs in order while they fit (R170). -/
def State.grantLane (s : State) (c lane : Nat) : Nat → State
  | 0 => s
  | fuel + 1 =>
    match (s.core c).needs.find? (fun n => n.1 == lane) with
    | none => s
    | some n => match s.grantOne n.2.1 n.2.2 with
      | (true, s) => (s.dropNeed c n.2.1 n.2.2).grantLane c lane fuel
      | (false, s) => s

/-- Grant in every lane of a core that has needs. -/
def State.grantCore (s : State) (c : Nat) : State :=
  (((s.core c).needs.map (·.1)).eraseDups).foldl (fun (s : State) lane => s.grantLane c lane (s.core c).needs.length) s

/-- Grant in the lane of a thread. -/
def State.grantFor (s : State) (w t : Nat) : State :=
  match s.wg w with
  | some g => s.grantLane g.core (t % 32) (s.core g.core).needs.length
  | none => s

/-- Enter the list of needs of the lane (R170), and be granted at once when alone and fitting. -/
def State.need (s : State) (w t : Nat) (f : Thread → Thread) : State :=
  match s.wg w with
  | none => s
  | some g =>
    let s := s.modThread w t (fun th => { f th with needAt := s.now })
    (s.modCore g.core (fun k => { k with needs := k.needs ++ [(t % 32, w, t)] })).grantFor w t

/-- A call of a thread (R170, R339): granted at once, or FRAME-WAIT. -/
def State.callFrame (s : State) (w t : Nat) (c : PendCall) : State :=
  s.need w t (fun th => { th with st := .frameWait, call := some c })

/-- Free the top frame and resume at RET in the caller's frame, after its refill when it is spilled (R176, R174). -/
def State.retFrame (s : State) (w t : Nat) (top : Frame) (caller : Frame) : State :=
  let s := (s.modThread w t (fun th => { th with pc := BitVec.ofNat 24 top.ret })).dropLatches w t
  if caller.spilled then s.need w t (fun th => { th with st := .refillWait, returning := true })
  else (s.modThread w t (fun th => { th with frames := th.frames.drop 1 })).grantFor w t

/-- Position of the first frame whose link has HND = 1 (R177). -/
def handlerAt (fs : List Frame) : Option Nat := fs.findIdx? (fun f => !f.base && f.hnd)

/-- Unwind with value x (R177); none when there is no handler frame. The loop record is dropped (R345). -/
def State.unwind (s : State) (w t : Nat) (x : Word) : Option State :=
  match s.thread w t with
  | none => none
  | some th =>
    match handlerAt th.frames with
    | none => none
    | some i =>
      match th.frames.drop i with
      | [] => none
      | f :: below =>
        let off := recOffset below
        let f' := f.clearHnd
        let pc := BitVec.ofInt 24 (f.ret + f.hoff)
        let s := (s.modThread w t (fun th => { th with
          frames := f' :: below, pc := pc, loop := none, returning := false, hold := none, call := none, st := .run,
          readyAt := s.now
          sptop := if f.spilled && !f.stored then off + f.recBytes else recOffset (below.filter (fun b => b.spilled && !b.stored)) })).dropLatches w t
        if f.stored then
          some (((s.modThread w t (fun th => { th with frames := f'.putSlots 0 [x] :: below })).need w t
            (fun th => { th with st := .refillWait })).grantFor w t)
        else if f.spilled then
          let s := (s.spillPut w t f below f.decl [f'.link]).spillPut w t f below 0 [x]
          some ((s.need w t (fun th => { th with st := .refillWait })).grantFor w t)
        else some ((s.modThread w t (fun th => th.setReg 0 x)).grantFor w t)

/-- Free every frame of a thread; TOP becomes 0 (R178). -/
def State.freeFrames (s : State) (w t : Nat) : State :=
  let s := match s.wg w with
    | some g => s.dropNeed g.core w t
    | none => s
  ((s.modThread w t (fun th => { th with frames := [], sptop := 0, returning := false, call := none })).dropLatches w t)
    |>.grantFor w t

end Sys2Proof.Machine
end

