-- ==== Sys2Proof/Machine/Ops.lean ====
section
/-!
DEFINITION. Operations that every meaning shares: entries for the fault queue, TAKING AN EXCEPTION and the return from one
(spec/15_faults.md R390 to R398, R456), operations and their retirement (spec/06_ordering.md R131, R132), and the loop
over the threads of a bundle (R46, R158, R160, R255).
-/

namespace Sys2Proof.Machine

/-! ## Fault queue entries (R420) -/

/-- An entry waits for FAULT_QUEUE_POST. -/
def State.post (s : State) (p : Nat) (e : Post) : State := s.modPart p (fun q => { q with posts := q.posts ++ [e] })

/-- A kind-3 event (R421). -/
def State.event (s : State) (p cause info : Nat) (ltag wgidx : Nat := 0) : State :=
  s.post p { kind := 3, cause := cause, info := info, ltag := ltag, wgidx := wgidx }

/-- The fault of a host or inbound peer access, which goes to the fault queue (R46); R421 gives no INFO for it, so that is a
free value. -/
def State.accessFault (s : State) (p code : Nat) : State :=
  let (x, s) := s.draw
  s.event p code x.toNat

/-- Launch tag and linear index of a workgroup. -/
def State.wgName (s : State) (w : Nat) : Nat × Nat :=
  (((s.launchOf w).map (·.ltag)).getD 0, ((s.wg w).map (·.idx)).getD 0)

/-! ## Exceptions -/

/-- A fault on its way to a domain. -/
structure FaultCtx where
  w : Nat
  tids : List Nat
  code : Nat
  spc : Nat
  epc : Nat
  faddr : Nat
  tval : Nat
  deferred : Bool := false
  eng : Option Nat := none
  /-- The guard slot of 0xB6 (R420). -/
  info : Nat := 0

/-- The second line of a fault record (R392). -/
def FaultCtx.line (c : FaultCtx) (s : State) : List Byte :=
  let nm := s.wgName c.w
  let team := match c.tids with
    | t :: _ => t / 32
    | [] => 0
  leBytes 64 (c.tval % 2 ^ 64 * 2 ^ 128 + c.faddr % 2 ^ 64 * 2 ^ 192 +
    mkBits 32 (fun j => c.tids.contains (32 * team + j)) * 2 ^ 256 + (if c.deferred then 2 ^ 289 else 0) +
    (match c.eng with
      | some b => 2 ^ 290 + b % 8 * 2 ^ 291
      | none => 0) + team % 64 * 2 ^ 294 + nm.2 % 2 ^ 28 * 2 ^ 300 + nm.1 % 2 ^ 24 * 2 ^ 328 +
    ((s.wg c.w).map (·.core)).getD 0 % 256 * 2 ^ 352 + c.code % 256 * 2 ^ 360 + c.epc % 2 ^ 24 * 2 ^ 368 +
    c.spc % 2 ^ 24 * 2 ^ 392 + 3 * 2 ^ 416 + c.epc % 2 ^ 24 * 2 ^ 424)

/-- The lowest free record of a save area (R392). -/
def freeRecord (s : State) (p : Nat) (e : Eff) : Nat → Nat → Option Nat × State
  | 0, _ => (none, s)
  | fuel + 1, r =>
    if s.records.any (fun x => x.2.part == p && x.2.savebase == e.savebase && x.2.r == r) then freeRecord s p e fuel (r + 1)
    else match readSys s p e.asid e.ptroot (e.savebase + 128 * r) 8 with
      | (.ok b, s) => if leNat b = 0 then (some r, s) else freeRecord s p e fuel (r + 1)
      | (.error _, s) => (none, s)

/-- Write a record for a fault (R392): its number and address, or none when the array is full or cannot be used. -/
def newRecord (s : State) (c : FaultCtx) : Option (Nat × Nat) × State :=
  match s.wg c.w with
  | none => (none, s)
  | some g =>
    let e := s.eff c.w
    match freeRecord s g.part e 256 0 with
    | (none, s) => (none, s)
    | (some r, s) =>
      let va := e.savebase + 128 * r
      match s.xnow g.part e.asid e.ptroot va .store false false with
      | (.ok ph, s) =>
        (match writeSys s g.part e.asid e.ptroot (va + 64) (c.line s) with
        | (.ok _, s) =>
          let (id, s) := s.newId
          let rec_ : Record := { part := g.part, launch := g.launch, wg := c.w, r := r, savebase := e.savebase, va := va,
                                 pa := ph.pa, host := ph.host, tids := c.tids, eng := c.eng }
          (some (id, va), { s with records := tset s.records id rec_ })
        | (.error _, s) => (none, s))
      | (_, s) => (none, s)

/-- Park threads on a record or an entry. -/
def State.parkOn (s : State) (w : Nat) (ts : List Nat) (p : Park) : State :=
  ts.foldl (fun s t => s.modThread w t (fun th => { th with st := .parked p, hold := none })) s

/-- Clear a record's two lines and free it (R394, R396). -/
def State.clearRecord (s : State) (id : Nat) : State :=
  match tget s.records id with
  | none => s
  | some r =>
    let s := s.store r.part { pa := r.pa, host := r.host } r.va (List.replicate 64 0) none none
    let s := s.store r.part { pa := r.pa + 64, host := r.host } (r.va + 64) (List.replicate 64 0) none none
    { s with records := tdel s.records id }

/-- The fault queue of a partition can hold no further entry (R420). -/
def State.queueFull (s : State) (p : Nat) : Bool := decide (256 ≤ (s.part p).held.length + (s.part p).posts.length)

/-- Escalate (R396): a kind-2 entry, on which the threads park; a record that was written is cleared and freed. When the
entry cannot be held, both wait until it is posted (R420). -/
def State.escalate (s : State) (c : FaultCtx) (line : List Byte) (rc : Option Nat) : State :=
  match s.wg c.w with
  | none => s
  | some g =>
    let nm := s.wgName c.w
    let (id, s) := s.newId
    let k2 : Kind2 :=
      { part := g.part, launch := g.launch, wg := c.w, tids := c.tids, eng := c.eng, seqno := 2 ^ 64, line := leNat line }
    let s := { s with kind2s := tset s.kind2s id k2 }
    let e : Post := { kind := 2, cause := c.code, ltag := nm.1, wgidx := nm.2, second := line, ref := id }
    match rc with
    | none => match c.eng with
      | some _ => s.post g.part e
      | none => (s.post g.part e).parkOn c.w c.tids (.entry id)
    | some r =>
      if s.queueFull g.part then
        { s.post g.part { e with rc := some r } with records := tmod s.records r (fun x => { x with escalated := true }) }
      else match c.eng with
        | some _ => (s.post g.part e).clearRecord r
        | none => ((s.post g.part e).parkOn c.w c.tids (.entry id)).clearRecord r

/-- Faults of handler launches always go to the fault queue (R391). -/
def Launch.mode (l : Launch) : Nat :=
  match l.origin with
  | .handler _ => 0
  | .waggle => 0
  | _ => l.eff.fmode

/-- A record, with its copy or its handler launch (R391, R392, R395). -/
def State.recordFault (s : State) (c : FaultCtx) : State :=
  match s.wg c.w, s.launchOf c.w with
  | some g, some l =>
    match newRecord s c with
    | (none, s) => s.escalate c (c.line s) none
    | (some (id, va), s) =>
      let s := match c.eng with
        | some _ => s
        | none => s.parkOn c.w c.tids (.record id)
      if l.mode = 2 then
        match (if l.eff.fhandler = 0 then (.error 0xB0, s) else resolve s
          { part := g.part, queue := none, rcb := l.eff.fhandler, lseq := 0, origin := .handler id, priv := l.priv,
            grid := some (1, 1, 1), hiveOnly := some (hiveOf g.core), ks := [(0, ofN va)], handler := true }) with
        | (.ok _, s) => s
        | (.error _, s) =>
          let s := s.event g.part 0xB8 va l.ltag g.idx
          s.escalate c (c.line s) (some id)
      else
        s.post g.part { kind := if c.eng.isSome then 1 else 0, cause := c.code, recaddr := va, ltag := l.ltag,
                        wgidx := g.idx, second := c.line s, ref := id, info := c.info }
  | _, _ => s

/-- A fault of a thread would go to the fault queue with no record, and the queue can hold no entry: the thread waits at its
faulting instruction with nothing written (R420). -/
def State.mustWait (s : State) (w t : Nat) : Bool :=
  match s.wg w with
  | none => false
  | some g => s.queueFull g.part && (match (s.launchOf w).map Launch.mode with
    | some 1 => (s.unwind w t 0).isNone
    | _ => (newRecord s { w := w, tids := [t], code := 0, spc := 0, epc := 0, faddr := 0, tval := 0 }).1.isNone)

/-- TAKING AN EXCEPTION (R390 to R393): sr.CAUSE, sr.EPC, sr.FADDR and, where given, sr.TVAL are written in each thread
named (code, address and operand of each), then the fault goes to its domain. What stands for the address of 0xB6 is its
guard slot, which only the fault queue entry shows (R420). -/
def State.takeNow (s : State) (w code spc : Nat) (deferred : Bool) (ts : List (Nat × Nat × Option Word)) : State :=
  let s := ts.foldl (fun s e => s.modThread w e.1 (fun th => { th with
    cause := ofN code, epc := ofN th.pc.toNat, faddr := ofN (if code = 0xB6 then 0 else e.2.1), tval := e.2.2.getD th.tval, hold := none
    xfails := [] })) s
  let tids := ts.map (·.1)
  let pc := match tids with
    | t :: _ => ((s.thread w t).map (·.pc.toNat)).getD 0
    | [] => 0
  let tv := match tids with
    | t :: _ => ((s.thread w t).map (·.tval.toNat)).getD 0
    | [] => 0
  let low := ts.foldl (fun m e => min m e.2.1) (match ts with
    | e :: _ => e.2.1
    | [] => 0)
  let ctx : FaultCtx := { w := w, tids := tids, code := code, spc := spc, epc := pc, tval := tv, deferred := deferred
                          faddr := if code = 0xB6 then 0 else low, info := if code = 0xB6 then low else 0 }
  match (s.launchOf w).map Launch.mode with
  | some 1 => ts.foldl (fun s e =>
      let x := ofN ((if code = 0xB6 then 0 else e.2.1) % 2 ^ 32 * 2 ^ 32 + pc * 2 ^ 8 + code)
      match s.unwind w e.1 x with
      | some s => s
      | none =>
        let c := { ctx with tids := [e.1], faddr := if code = 0xB6 then 0 else e.2.1 }
        s.escalate c (c.line s) none) s
  | _ => s.recordFault ctx

/-- The claim of an instruction that a thread leaves goes with it (R366). -/
def State.dropClaim (s : State) (w t : Nat) : State :=
  match s.wg w with
  | none => s
  | some g =>
    let mine := fun (c : Claim) => c.wg == w && c.op == 0 && c.tid == t
    if (s.core g.core).claims.any mine then
      s.modCore g.core (fun k => { k with claims := k.claims.filter (fun c => !mine c) })
    else s

/-- An exception of threads for which the fault queue has room (R420). -/
def State.takeFault (s : State) (w code spc : Nat) (deferred : Bool) (ts : List (Nat × Nat × Option Word)) : State :=
  let ts := ts.filter (fun e => !s.mustWait w e.1)
  let s := ts.foldl (fun s e => s.dropClaim w e.1) s
  if ts.isEmpty then s else s.taking w (ts.map (·.1)) (fun s => s.takeNow w code spc deferred ts)

/-- THE RETURN FROM AN EXCEPTION with ACTION 0 (R394): each thread goes on at RPC with its registers unchanged; a loop
record is kept only when RPC is the index at which it faulted (R345). -/
def State.resumeAt (s : State) (w rpc : Nat) (ts : List Nat) : State :=
  ts.foldl (fun s t => s.modThread w t (fun th => { th with
    st := .run, hold := none, readyAt := s.now
    loop := if th.pc.toNat = rpc % 2 ^ 24 then th.loop else none
    pc := BitVec.ofNat 24 rpc })) s

/-- A precise fault that threads of one bundle have found: thread, code, address and operand of trap. -/
structure Hit where
  t : Nat
  code : Nat
  addr : Nat
  tval : Option Word := none

/-- Deliver precise faults: one record for the threads of one team with the same code (R392). -/
def State.deliver (s : State) (w spc : Nat) : Nat → List Hit → State
  | 0, _ => s
  | _, [] => s
  | fuel + 1, h :: hs =>
    let same := fun (x : Hit) => x.code == h.code && x.t / 32 == h.t / 32
    (s.takeFault w h.code spc false ((h :: hs.filter same).map (fun x => (x.t, x.addr, x.tval)))).deliver w spc fuel
      (hs.filter (fun x => !same x))

/-- Take a thread out of what it waits for, with no effect of the instruction (R456). -/
def State.unpark (s : State) (w t : Nat) : State :=
  match s.wg w, s.thread w t with
  | some g, some th =>
    let run := fun (s : State) => s.modThread w t (fun th => { th with st := .run, hold := none, call := none })
    match th.st with
    | .parked (.cell d c _) =>
      let mine := fun (r : CombWait) => r.wg == w && r.tid == t
      let ids := (((tget (s.dir d).cells c).map (·.definers)).getD []).filterMap (fun r => if mine r then r.id else none)
      let s := s.modDir d (fun x => { x with cells := tmod x.cells c (fun y => { y with
        readers := y.readers.filter (fun r => !mine r)
        definers := y.definers.filter (fun r => !mine r) }) })
      run (ids.foldl (fun s id => { s.modWg w (fun g => { g with mq := g.mq.filter (· != id) }) with ops := tdel s.ops id }) s)
    | .parked (.sync op) => run { s with waiters := s.waiters.filter (·.op != op), ops := tdel s.ops op }
    | .parked (.calleeQ _ _ _) => (run (s.modThread w t (fun th => { th with frames := th.frames.drop 1 }))).grantFor w t
    | .frameWait => run (s.dropNeed g.core w t)
    | _ => run s
  | _, _ => s

/-- Codes whose delivery class is deferred wherever they are found, a page walk or an access of the Swarm engine included (R388). -/
def lateCode (code : Nat) : Bool := [0xE1, 0xE2, 0xE4, 0xE5, 0xE6].contains code

/-- Deliver the deferred fault of the operation issued first (R390). -/
def State.deliverDeferred (s : State) (w t : Nat) : State :=
  match s.thread w t with
  | none => s
  | some th =>
    match th.faults with
    | [] => s
    | d :: ds =>
      if s.mustWait w t then s
      else
      let first := ds.foldl (fun (m x : Deferred) => if x.op < m.op then x else m) d
      let late := first.op != 0 || first.code == 0x77 || lateCode first.code
      s.taking w [t] (fun s => (s.modThread w t (fun th => { th with faults := th.faults.erase first })).takeNow w first.code first.spc late
        [(t, first.addr, if late then some (ofN first.spc) else none)])

/-- A thread that is not issuing leaves what it waits for, for a deferred fault that has reached it (R456); one that will issue,
or that waits on its own access, refill or fault, meets it later. -/
def State.meetFault (s : State) (w t : Nat) : State :=
  match s.thread w t with
  | none => s
  | some th =>
    if th.faults.isEmpty then s
    else match th.st with
      | .exited => s
      | .run => s
      | .refillWait => s
      | .parked .hostPage => s
      | .parked (.record _) => s
      | .parked (.entry _) => s
      | _ => (s.unpark w t).deliverDeferred w t

/-- A deferred fault reaches a thread (R390, R456), or nobody (R342). One that reaches a saved thread is met at its restore. -/
def State.deferTo (s : State) (w t : Nat) (d : Deferred) : State :=
  match s.wg w, s.thread w t with
  | some g, some th =>
    if th.st == .exited then
      let nm := s.wgName w
      (s.modWg w (fun g => { g with lostWork := true })).event g.part d.code d.addr nm.1 nm.2
    else
      let s := s.modThread w t (fun th => { th with faults := th.faults ++ [d] })
      if g.resid == .saved then s else s.meetFault w t
  | _, _ => s

/-! ## Outstanding operations (R131, R132) -/

/-- Operations of a thread in a class. -/
def State.countOps (s : State) (w t : Nat) (c : Cls) : Nat :=
  (s.ops.filter (fun e => e.2.wg == w && e.2.tid == t && e.2.cls == some c)).length

/-- The thread may issue one more (R131). -/
def State.room (s : State) (w t : Nat) (c : Cls) : Bool := decide (s.countOps w t c < 63)

/-- The counts of wait (R254): class and number of operations that may be left. -/
def waitCounts (imm : Nat) : List (Cls × Nat) :=
  [(.ld, bits imm 5 0), (.st, bits imm 11 6), (.cp, bits imm 17 12), (.tl, bits imm 23 18), (.ag, bits imm 29 24)]

/-- Each class has no more operations left than wait allows (R353). -/
def State.countedDown (s : State) (w t imm : Nat) : Bool :=
  (waitCounts imm).all (fun e => decide (s.countOps w t e.1 ≤ e.2))

/-- Issue an operation. -/
def State.newOp (s : State) (o : Op) : Nat × State :=
  let (id, s) := s.newId
  (id, { s with ops := tset s.ops id o })

/-- Operations of a class retire in issue order: those at the front that are done leave (R132). -/
def dropDone (w t : Nat) (c : Cls) : Tab Op → Tab Op
  | [] => []
  | e :: r =>
    if e.2.wg == w && e.2.tid == t && e.2.cls == some c then
      if e.2.done then dropDone w t c r else e :: r
    else e :: dropDone w t c r

/-- The program counter after an instruction, through a loop body (R345). -/
def Thread.advance (th : Thread) : Thread :=
  match th.loop with
  | none => { th with pc := th.pc + 1 }
  | some r =>
    if th.pc.toNat + 1 == r.b + r.len then
      if r.pass + 1 == r.trips then { th with pc := BitVec.ofNat 24 (r.b + r.len), loop := none }
      else { th with pc := BitVec.ofNat 24 r.b, loop := some { r with pass := r.pass + 1 } }
    else { th with pc := th.pc + 1 }

/-- A thread that waits at an instruction goes on to the next. -/
def State.release (s : State) (w t : Nat) : State :=
  s.modThread w t (fun th => { th.advance with hold := none, st := .run, readyAt := s.now })

/-- An operation has been performed: its results are written, threads that wait for it go on, and it retires in order. -/
def State.finish (s : State) (id : Nat) (vals : List (Dst × Word)) : State :=
  match tget s.ops id with
  | none => s
  | some o =>
    let s := vals.foldl (fun s v => (s.putDst o.wg o.tid v.1 v.2).putRecord o.wg o.tid v.1 v.2) s
    let s := o.waiters.foldl (fun s t => s.release o.wg t) s
    match o.cls with
    | none => { s with ops := tdel s.ops id }
    | some c => { s with ops := dropDone o.wg o.tid c (tmod s.ops id (fun o => { o with done := true, waiters := [] })) }

/-- An operation ends in a deferred fault: it has no effect (R390). -/
def State.failOp (s : State) (id code addr : Nat) : State :=
  match tget s.ops id with
  | none => s
  | some o =>
    let s := match o.cls with
      | none => { s with ops := tdel s.ops id }
      | some c => { s with ops := dropDone o.wg o.tid c (tmod s.ops id (fun o => { o with done := true, waiters := [] })) }
    s.deferTo o.wg o.tid { op := id, code := code, spc := o.pc, addr := addr }

/-- An operation whose threads wait for it ends in a precise fault (R93, R119, R149). -/
def State.trapOp (s : State) (id code addr : Nat) : State :=
  match tget s.ops id with
  | none => s
  | some o =>
    let s := { s with ops := tdel s.ops id }
    let s := o.waiters.foldl (fun s t => s.modThread o.wg t (fun th => { th with hold := none, st := .run })) s
    s.takeFault o.wg code o.pc false (o.waiters.map (fun t => (t, addr, none)))

/-! ## The threads of a bundle -/

/-- Which thread acts, and the threads that predicate results and waits reach (R160). -/
structure Ctx where
  w : Nat
  t : Nat
  ts : List Nat
  core : Nat
  pc : Nat
  uni : Bool
  /-- The cache hint of the instruction (R235). -/
  hint : Nat := 0

/-- What an instruction does in one thread. -/
inductive Act where
  /-- Its effect is taken and the thread goes on to the next instruction. -/
  | adv (s : State)
  /-- Its effect is taken, the program counter included. -/
  | jump (s : State)
  /-- A precise fault, with no effect of the instruction; the operand of trap goes to sr.TVAL. -/
  | trap (code addr : Nat) (tval : Option Word) (s : State)
  /-- The thread stays at the instruction. -/
  | wait (s : State)

/-- Privileged instructions, and accesses of system registers that user level does not allow (R355, R357, R358). -/
def Instr.needsSystem (i : Instr) : Bool :=
  match i with
  | .tlbInv .. => true
  | .halt .. => true
  | .rdsr _ o => decide (0x20 ≤ o.imm.toNat % 4096)
  | .wrsr _ o => o.imm.toNat % 4096 != 0x10
  | _ => false

/-- The class in which an instruction counts (R131). -/
def Instr.cls (i : Instr) : Option Cls :=
  match i with
  | .ld .. | .ldRo .. | .ldC .. | .ldTl .. | .smp .. | .combQ .. | .bktSel .. => some .ld
  | .st .. | .atom .. | .atomF .. | .atomCas .. | .atomOrd .. | .cwb .. | .cinv .. | .wagSend .. | .lqPush .. => some .st
  | .cpTensor .. | .cpGather .. | .cpScatter .. | .cpMcast .. | .cpFill .. | .cpResume .. | .dgNode .. | .dgGo ..
  | .engGuard .. => some .cp
  | .mLd .. | .mSt .. | .mZero .. | .mma .. | .mmaQ .. | .epi .. | .outlAdd .. | .accClr .. | .combDef .. | .combDefs ..
  | .combRd .. | .combRds .. => some .tl
  | .aggDecl .. | .aggFree .. | .aggRange .. | .aggPfx .. | .aggPick .. | .aggSync .. => some .ag
  | _ => none

/-- The thread has begun its instruction, past its operand checks. -/
def Thread.begun (th : Thread) : Bool :=
  match th.hold with
  | none => false
  | some (.group _) => false
  | some _ => true

/-- What is found before an instruction's own checks: 0 nothing, a precise fault, or a wait (R153, R255 steps 5 and 6,
R411). A thread that has begun the instruction has passed them. -/
def precheck (s : State) (w t : Nat) (th : Thread) (i : Instr) : Option (Option Nat) :=
  if th.begun then none
  else if Instr.needsSystem i && !s.priv w then some (some 0x05)
  else if i.vregs.any (fun j => !inFrame th.frames j) then some (some 0x70)
  else if s.busy w t th i then some none
  else if th.badSource i then some (some 0xE3)
  else match Instr.cls i with
    | some c => if s.room w t c then none else some none
    | none => none

/-- The issuing thread's own marks after an issue: stall count, frames no longer fresh (R153, R172). -/
def State.issued (s : State) (w t : Nat) (c : Ctl) : State :=
  s.modThread w t (fun th => { th with
    readyAt := s.now
    stallTo := if c.stall = 0 then none else some (s.now + c.stall.val)
    xfails := []
    frames := th.frames.map (fun f => { f with fresh := false }) })

/-- The same after an instruction that may have made or refilled a frame: frames that stood before are no longer fresh. -/
def State.issuedFrom (s : State) (w t : Nat) (c : Ctl) (old : List Frame) : State :=
  s.modThread w t (fun th => { th with
    readyAt := s.now
    stallTo := if c.stall = 0 then none else some (s.now + c.stall.val)
    xfails := []
    frames := th.frames.map (fun f => if old.any (fun o => o.id == f.id && !o.spilled) then { f with fresh := false } else f) })

/-- A fault of that class found as an instruction issues: the instruction has issued with no effect, and its thread stops before
its next issue (R390). -/
def State.lateFault (s : State) (w t pc code addr : Nat) (c : Ctl) : State :=
  let (id, s) := s.newId
  ((s.modThread w t (fun th => { th.advance with hold := none })).issued w t c).deferTo w t
    { op := id, code := code, spc := pc, addr := addr }

/-- The thread waits at its instruction until an operation has been performed. -/
def Thread.waitsOp (th : Thread) : Bool :=
  match th.hold with
  | some (.op _) => true
  | _ => false

/-- The instruction of a thread ends: what it has read by requests of its own is given up. -/
def Act.after (o : Owner) : Act → Act
  | .adv s => .adv (s.dropStage o)
  | .jump s => .jump (s.dropStage o)
  | .trap f a v s => .trap f a v (s.dropStage o)
  | .wait s => .wait s

/-- One thread of a bundle: a wait leaves it where it is. -/
def runThread (i : Instr) (c : Ctl) (f : State → Ctx → Act) (x : Ctx) (acc : State × List Hit) : State × List Hit :=
  let s := acc.1
  match s.thread x.w x.t with
  | none => acc
  | some th =>
    if !th.faults.isEmpty && !th.waitsOp then (s.deliverDeferred x.w x.t, acc.2)
    else if th.topSpilled then
      (s.need x.w x.t (fun th => { th with st := .refillWait }), acc.2)
    else if s.guardBusy x.w x.t c then acc
    else if !th.guard c then ((s.modThread x.w x.t Thread.advance).issued x.w x.t c, acc.2)
    else match precheck s x.w x.t th i with
      | some none => acc
      | some (some code) => (s, acc.2 ++ [{ t := x.t, code := code, addr := 0 }])
      | none => match f s x with
        | .adv s => ((s.modThread x.w x.t (fun th => { th.advance with hold := none })).issued x.w x.t c, acc.2)
        | .jump s => (s.issuedFrom x.w x.t c th.frames, acc.2)
        | .wait s => (s, acc.2)
        | .trap code addr tv s =>
          if lateCode code then (s.lateFault x.w x.t x.pc code addr c, acc.2)
          else (s, acc.2 ++ [{ t := x.t, code := code, addr := addr, tval := tv }])

/-- A thread that takes part in a uniform execution: its guard is true, or, with yes false, it is not. -/
def State.joins (s : State) (w t : Nat) (c : Ctl) (yes : Bool) : Bool :=
  ((s.thread w t).map (fun th => (th.guard c == yes) && th.faults.isEmpty && !th.topSpilled &&
    !s.guardBusy w t c)).getD false

/-- What precheck says of a thread; a thread that is not there waits. -/
def State.prechecked (s : State) (w t : Nat) (i : Instr) : Option (Option Nat) :=
  ((s.thread w t).map (fun th => precheck s w t th i)).getD (some none)

/-- The precise fault that precheck finds in a thread. -/
def State.preHit (s : State) (w t : Nat) (i : Instr) : Option Hit :=
  match s.prechecked w t i with
  | some (some code) => some { t := t, code := code, addr := 0 }
  | _ => none

/-- The one execution of a uniform instruction (R160): every thread of the bundle with a true guard that passes the
checks goes on together, faults together or waits together; the thread of lowest home lane is read. -/
def runUniform (i : Instr) (c : Ctl) (f : State → Ctx → Act) (u : Cur) (s : State) : State × List Hit :=
  let adv := fun (s : State) (ts : List Nat) =>
    ts.foldl (fun (s : State) t => (s.modThread u.wg t (fun th => { th.advance with hold := none })).issued u.wg t c) s
  let go := u.tids.filter (fun t => s.joins u.wg t c true)
  let off := u.tids.filter (fun t => s.joins u.wg t c false)
  let s0 := adv s off
  let s0 := (u.tids.filter (fun t => !go.contains t && !off.contains t)).foldl (fun (s : State) t =>
    (runThread i c (fun s _ => .wait s) { w := u.wg, t := t, ts := [], core := u.core, pc := u.pc, uni := false } (s, [])).1) s0
  let bad := go.filterMap (fun t => s.preHit u.wg t i)
  let ok := go.filter (fun t => !bad.any (fun h => h.t == t))
  if ok.any (fun t => s.prechecked u.wg t i == some none) then (s0, bad)
  else match ok with
    | [] => (s0, bad)
    | t :: _ =>
      match f s0 { w := u.wg, t := t, ts := ok, core := u.core, pc := u.pc, uni := true, hint := c.ch.val } with
      | .adv s => (adv s ok, bad)
      | .jump s => (s, bad)
      | .wait s => (s, bad)
      | .trap code addr tv s =>
        if lateCode code then (adv (s.lateFault u.wg t u.pc code addr c) (ok.filter (· != t)), bad)
        else (s, bad ++ ok.map (fun t => { t := t, code := code, addr := addr, tval := tv }))

/-- A hint h.x latches a source that is a v register (R165, R234). An entry serves the next two bundles of the pipe. Every
write of the register drops it, so that it holds what the register holds and a source may be read from either. -/
def State.latch (s : State) (u : Cur) (i : Instr) (c : Ctl) : State :=
  let src : Option Opnd := match i.parts with
    | some p => (match p.body, c.hold.val with
      | .f3 o, 1 => some o.a
      | .f3 o, 2 => some o.b
      | .f3 o, 3 => some o.c
      | .fi o, 1 => some o.a
      | .fm o, 1 => some o.base
      | .fm o, 2 => some o.index
      | .fx o, 1 => some o.a
      | .fx o, 2 => some o.b
      | _, _ => none)
    | none => none
  let new : List Latch := match src with
    | some (.v j) => u.tids.filterMap (fun t => (s.thread u.wg t).bind (fun th => (resolveReg th.frames j.val).map
        (fun r => { pipe := u.pipe, lane := t % 32, slot := c.hold.val, wg := u.wg, tid := t, frame := r.1, reg := r.2,
                    value := frameGet th.frames r, left := 2 })))
    | _ => []
  if new.isEmpty && (s.core u.core).latches.isEmpty then s
  else s.modCore u.core (fun k => { k with latches := new ++ k.latches.filterMap (fun l =>
    if l.pipe == u.pipe then
      (if l.left = 0 || new.any (fun n => n.lane == l.lane && n.slot == l.slot) then none else some { l with left := l.left - 1 })
    else some l) })

/-- An instruction over the bundle that is issuing: its threads in ascending home lane, once if uniform; then the precise
faults are delivered (R46, R160, R302). Outside an issue nothing happens. -/
def forThreads (i : Instr) (c : Ctl) (f : State → Ctx → Act) (s : State) : State :=
  match s.cur with
  | none => s
  | some u =>
    let s := ({ s with cur := none } : State).latch u i c
    let r := if i.uniform then runUniform i c f u s
      else u.tids.foldl (fun acc t =>
        runThread i c f { w := u.wg, t := t, ts := [t], core := u.core, pc := u.pc, uni := false, hint := c.ch.val } acc) (s, [])
    r.1.deliver u.wg u.pc r.2.length r.2

/-- The outcome of an instruction. -/
abbrev Out := Host.Outcome State Fault Refusal

/-- A meaning over the threads of the bundle. -/
def isa (i : Instr) (c : Ctl) (f : State → Ctx → Act) (s : State) : Out := .next (forThreads i c f s)

end Sys2Proof.Machine
end

