-- ==== Sys2Proof/Machine/Issue.lean ====
section
/-!
DEFINITION. The picker and bundle formation (spec/07_execution.md R153 to R157, R162), instruction fetch (R159, R231,
R232), the stepped words of a captured loop (R345) and the clock.
-/

namespace Sys2Proof.Machine

/-- Member mask of a cross-lane instruction: an operand or an immediate (R162, R288 to R292, R352). -/
def crossMask (i : Instr) : Option (Opnd ⊕ Nat) :=
  match i with
  | .shfl _ o => some (.inl o.c)
  | .vote _ o => some (.inl o.b)
  | .voteImm _ o => some (.inr o.imm.toNat)
  | .matchT _ o => some (.inl o.b)
  | .redTeam _ o => some (.inl o.b)
  | .redTeamImm _ o => some (.inr o.imm.toNat)
  | .scanTeam _ o => some (.inl o.b)
  | .scanTeamImm _ o => some (.inr o.imm.toNat)
  | .teamSync _ o => some (.inl o.a)
  | .teamSyncImm _ o => some (.inr o.imm.toNat)
  | _ => none

/-- The mask in a thread, its own lane treated as set (R162). -/
def maskIn (s : State) (w t : Nat) (m : Opnd ⊕ Nat) : Nat :=
  (match m with
    | .inl o => (s.src w t o).toNat % 2 ^ 32
    | .inr n => n % 2 ^ 32) ||| 2 ^ (t % 32)

/-! ## Code -/

/-- The value of a byte when the launch resolved: the oldest value overwritten since then. -/
def oldByte (log : List (Nat × Byte)) (a : Nat) (cur : Byte) : Byte :=
  log.foldl (fun b e => if e.1 = a then e.2 else b) cur

/-- One 32-bit word of code: its bytes now, or, where it was rewritten since the launch resolved, either the old word or
the new one (R232). -/
def codeWord (s : State) (mark : Nat) (addrs : List (Nat × Bool)) : List Byte :=
  let log := s.wlog.take (s.wlog.length - mark)
  let new := addrs.map (fun e => memGet (if e.2 then s.host else s.mem) e.1)
  if log.any (fun e => addrs.any (fun a => !a.2 && a.1 == e.1)) then
    let old := (addrs.zip new).map (fun p => if p.1.2 then p.2 else oldByte log p.1.1 p.2)
    if Config.fetchOld s.fresh ((addrs.head?.map (·.1)).getD 0) then old else new
  else new

/-! ### Stepped words (R343 to R345) -/

/-- First bit and width of a stepped field, by its code. -/
def stepField : Nat → Nat × Nat
  | 0 => (54, 9)
  | 1 => (45, 9)
  | 2 => (36, 9)
  | 3 => (27, 9)
  | 4 => (18, 9)
  | 5 => (21, 3)
  | 6 => (12, 24)
  | _ => (24, 12)

/-- A word with a field replaced. -/
def putField (w lo n x : Nat) : Nat := w - w / 2 ^ lo % 2 ^ n * 2 ^ lo + x % 2 ^ n * 2 ^ lo

/-- The word of body instruction j in a pass, with its stepped fields (R345). -/
def stepWord (w j pass : Nat) (steps : List (Nat × Nat × Int)) : Nat :=
  steps.foldl (fun w e =>
    if e.1 = j then
      let f := stepField e.2.1
      putField w f.1 f.2 (wrapN ((w / 2 ^ f.1 % 2 ^ f.2 : Nat) + (pass : Int) * e.2.2) f.2)
    else w) w

/-- The word that a thread executes at its program counter. -/
def Thread.word (th : Thread) (w : Nat) : Nat :=
  match th.loop with
  | none => w
  | some r => stepWord w (th.pc.toNat - r.b) r.pass r.steps

/-! ## Readiness (R152, R153) -/

/-- The thread is READY as far as its own state tells (R153). -/
def Thread.ready (th : Thread) (now : Nat) : Bool :=
  th.st == .run && !th.waitsOp &&
  (match th.stallTo with
    | some n => decide (n ≤ now)
    | none => true) &&
  (match th.yieldTo with
    | some n => decide (n ≤ now)
    | none => true)

/-- Memory instructions, which use the memory pipe (R38, R40). -/
def Instr.memory (i : Instr) : Bool :=
  match i with
  | .combQ .. | .wagSend .. | .lqPush .. => false
  | .acq .. | .acqGe .. | .acqX .. | .rel .. | .pref .. | .aggDecl .. | .syncBind .. => true
  | _ => Instr.cls i == some .ld || Instr.cls i == some .st

/-- The page of a code address, by the core's TLB or as its tables stand. -/
def State.codePage (s : State) (c part asid root a : Nat) : Option TlbEntry :=
  match (s.core c).tlb.find? (fun t => t.hits part asid a) with
  | some t => some t
  | none => match (walkFrom { s with net := none } none part asid a 5 0 root).1 with
    | .ok (t, _, _) => if t.host then (s.hostPage part t.base t.size).map (fun b => { t with base := b }) else some t
    | .error _ => none

/-- The addresses of a range of code whose pages allow the fetch. -/
def peekAddrs (s : State) (c part asid root : Nat) (user : Bool) (va n : Nat) : Option (List (Nat × Bool)) :=
  (pageParts 2 va n).foldl (fun acc p => acc.bind (fun l => match place p.1 with
    | .glob a => (s.codePage c part asid root a).bind (fun t =>
        if t.allows .fetch false user = 0 then
          some (l ++ (List.range p.2).map (fun i => ((t.phys a).pa + i, t.host))) else none)
    | _ => none)) (some [])

/-- A thread's next instruction word, where its page is mapped and the thread may fetch from it (R153). -/
def State.peek (s : State) (w : Nat) (th : Thread) : Option Nat :=
  match s.wg w, s.launchOf w with
  | some g, some l =>
    (peekAddrs s g.core g.part l.eff.asid l.eff.ptroot (!l.priv) ((l.kcode + 12 * th.pc.toNat) % 2 ^ 64) 12).map (fun as =>
      th.word (leNat (codeWord s l.wmark (as.take 4) ++ codeWord s l.wmark ((as.drop 4).take 4) ++
        codeWord s l.wmark (as.drop 8))))
  | _, _ => none

/-- The memory pipe of a workgroup's core holds a bundle at another instruction (R40). -/
def State.pipeTaken (s : State) (w pc : Nat) : Bool :=
  match (s.wg w).bind (fun g => (s.core g.core).held) with
  | some h => h != (w, pc)
  | none => false

/-- An instruction holds its thread WAITING: a write to what it names is pending, a counter is full, wait has not counted down, or the
memory pipe is taken (R40, R152, R153). -/
def State.heldAt (s : State) (w t : Nat) (th : Thread) (i : Instr) : Bool :=
  s.busy w t th i ||
  (match Instr.cls i with
    | some k => !s.room w t k
    | none => false) ||
  (match i with
    | .wait _ o => !s.countedDown w t o.imm.toNat
    | _ => false) ||
  (Instr.memory i && s.pipeTaken w th.pc.toNat)

/-- The thread is WAITING, whether its top frame is resident or not (R152, R153, R174). -/
def State.waits (s : State) (w t : Nat) (th : Thread) : Bool :=
  th.faults.isEmpty && (match th.hold with
    | some (.group ds) => s.pendingAny w t ds
    | _ => match s.peek w th with
      | none => false
      | some word =>
        let c := decodeCtl word
        s.guardBusy w t c || (th.guard c && !th.begun && (match decodeWord word with
          | .error _ => false
          | .ok i => s.heldAt w t th i)))

/-- The thread is READY (R153). -/
def State.isReady (s : State) (w t : Nat) : Bool :=
  match s.thread w t with
  | some th => th.ready s.now && !s.waits w t th
  | none => false

/-- Pass of a loop body that counts with the program counter for grouping (R345). -/
def Thread.passNo (th : Thread) : Option Nat := th.loop.map (·.pass)

/-- Workgroups of a core that issue, in placement order (R63, R401): under throttling, the first C of its resident workgroups of
memory-bound kernels. -/
def State.issuing (s : State) (c : Nat) : List (Nat × Workgroup) :=
  let here := s.wgs.filter (fun e => e.2.core == c && e.2.resid == .resident)
  let memb := fun (e : Nat × Workgroup) => ((tget s.launches e.2.launch).map (·.memb)).getD false
  (match (s.core c).throttle with
  | none => here
  | some n =>
    let m := here.filter memb
    let ahead := fun (e : Nat × Workgroup) => (m.filter (fun (x : Nat × Workgroup) => decide (x.2.placedAt < e.2.placedAt) ||
      (x.2.placedAt == e.2.placedAt && decide (x.1 < e.1)))).length
    here.filter (fun e => !memb e || decide (ahead e < n))).filter (fun e => e.2.saveFor == 0)

/-- Threads of a workgroup that satisfy a test, with their indices. -/
def Workgroup.which (g : Workgroup) (f : Thread → Bool) : List Nat :=
  (g.threads.zipIdx.filter (fun p => f p.1)).map (·.2)

/-! ## The PC-group table (R154, R157) -/

/-- The thread has a place in the table or in the serial set: it has not exited, and it stands in no callee queue (R163). -/
def Thread.grouped (th : Thread) : Bool :=
  match th.st with
  | .exited => false
  | .parked (.calleeQ _ _ _) => false
  | _ => true

/-- Threads that an entry of the PC-group table holds (R154). -/
def Group.members (e : Group) (g : Workgroup) : List Nat :=
  g.which (fun th => th.grouped && !th.serial && th.pc.toNat == e.pc && th.passNo == e.pass)

/-- Entries whose set has become empty are freed (R154). -/
def State.freeGroups (s : State) (c : Nat) : State :=
  s.modCore c (fun k => { k with groups := k.groups.filter (fun e => match s.wg e.wg with
    | some g => g.core == c && g.resid == .resident && !(e.members g).isEmpty
    | none => false) })

/-- A thread looks up its program counter: it joins or takes an entry, or becomes serial (R154, R157). DESIGN CHOICE
(notes/assumptions/103.md): the entry taken is the lowest free one. -/
def State.lookup (s : State) (c w t : Nat) : State :=
  match s.thread w t with
  | none => s
  | some th =>
    let k := s.core c
    if !th.grouped then s
    else if k.groups.any (fun e => e.wg == w && e.pc == th.pc.toNat && e.pass == th.passNo) then
      s.modThread w t (fun th => { th with serial := false })
    else
      match (List.range 64).find? (fun i => !k.groups.any (fun e => e.slot == i)) with
      | some i =>
        let e : Group := { slot := i, wg := w, pc := th.pc.toNat, pass := th.passNo }
        (s.modCore c (fun k => { k with groups := k.groups ++ [e] })).modThread w t (fun th => { th with serial := false })
      | none => s.modThread w t (fun th => { th with serial := true, looked := th.pc.toNat })

/-- The table after a step: empty entries are freed, the threads that have issued look up their program counters, then every
other thread that stands at one without an entry or, in the serial set, at a new one. -/
def State.regroup (s : State) (c : Nat) (issued : List (Nat × Nat)) : State :=
  let s := s.freeGroups c
  let s := issued.foldl (fun (s : State) e => s.lookup c e.1 e.2) s
  (s.wgs.flatMap (fun e => if e.2.core == c && e.2.resid == .resident then
    (e.2.which (fun th => th.grouped && (!th.serial || th.looked != th.pc.toNat))).map (fun t => (e.1, t)) else [])).foldl
    (fun (s : State) e => s.lookup c e.1 e.2) s

/-- The serial threads of a core that satisfy a test: since when each has been READY, workgroup, index, program counter. -/
def State.serials (s : State) (c : Nat) (f : Nat → Nat → Thread → Bool) : List (Nat × Nat × Nat × Nat) :=
  (s.issuing c).flatMap (fun e => (e.2.threads.zipIdx.filter (fun p => p.1.serial && p.1.grouped && f e.1 p.2 p.1)).map
    (fun p => (p.1.readyAt, e.1, p.2, p.1.pc.toNat)))

/-- The one that has waited longest. DESIGN CHOICE (notes/assumptions/103.md): a wait is measured from the cycle since which the thread has
been READY, and ties go to the workgroup placed first, then to the lower thread index. -/
def longest : List (Nat × Nat × Nat × Nat) → Option (Nat × Nat × Nat × Nat)
  | [] => none
  | x :: xs => some (xs.foldl (fun m y => if y.1 < m.1 then y else m) x)

/-! ## Gathered sets (R162) -/

/-- Members of a team that are gathering at an index, in one pass of a loop, with their masks (R162, R345). -/
def gathered (g : Workgroup) (team pc : Nat) (pass : Option Nat) : List (Nat × Nat) :=
  g.threads.zipIdx.filterMap (fun p => match p.1.st with
    | .gathering m => if p.2 / 32 == team && p.1.pc.toNat == pc && p.1.passNo == pass then some (p.2, m) else none
    | _ => none)

/-- A member that counts as absent (R162). -/
def absent (g : Workgroup) (t : Nat) : Bool :=
  match g.threads[t]? with
  | some th => th.st == .exited
  | none => true

/-- The gathered set of a thread: complete when every named member that is not absent gathers at the same index. -/
def completeSet (g : Workgroup) (t pc : Nat) (pass : Option Nat) (m : Nat) : Option (List Nat) :=
  let team := t / 32
  let there := gathered g team pc pass
  let named := ((List.range 32).filter (fun j => m.testBit j)).map (fun j => 32 * team + j)
  let live := named.filter (fun u => !absent g u)
  if live.all (fun u => there.any (fun e => e.1 == u)) then some live else none

/-- Complete gathered sets of a core: workgroup, program counter and members, found through any member (R155, R162). -/
def State.gatherSets (s : State) (c : Nat) : List (Nat × Nat × List Nat) :=
  (s.wgs.filter (fun e => e.2.core == c && e.2.resid == .resident)).flatMap (fun e =>
    (e.2.threads.zipIdx.filterMap (fun p => match p.1.st with
    | .gathering m => (completeSet e.2 p.2 p.1.pc.toNat p.1.passNo m).map (fun ts => (e.1, p.1.pc.toNat, ts))
    | _ => none)).eraseDups)

/-- The complete sets in order of completion: those that are no longer complete go, new ones come last with age 0 (R155). -/
def State.gatherUp (s : State) (c : Nat) : State :=
  let sets := s.gatherSets c
  let old := (s.core c).gathers.filter (fun e => sets.contains (e.wg, e.pc, e.tids))
  let new := sets.filter (fun x => !old.any (fun e => (e.wg, e.pc, e.tids) == x))
  if sets.isEmpty && (s.core c).gathers.isEmpty then s
  else s.modCore c (fun k => { k with gathers := old ++ new.map (fun x => { wg := x.1, pc := x.2.1, tids := x.2.2 }) })

/-! ## What follows every step -/

/-- A thread whose top frame is spilled and that would otherwise be READY enters REFILL-WAIT (R172, R174). -/
def State.needTops (s : State) (c : Nat) : State :=
  ((s.issuing c).flatMap (fun e => (e.2.which (fun th => th.st == .run && th.topSpilled && th.faults.isEmpty)).map
    (fun t => (e.1, t)))).foldl (fun (s : State) e =>
      if s.isReady e.1 e.2 then s.need e.1 e.2 (fun th => { th with st := .refillWait }) else s) s

/-- The memory pipe lets a bundle go of which no thread stands at its instruction any more (R40). -/
def State.unhold (s : State) (c : Nat) : State :=
  match (s.core c).held with
  | none => s
  | some (w, pc) =>
    if ((s.wg w).map (fun g => g.core == c && !(g.which (fun th => th.st == .run && th.pc.toNat == pc)).isEmpty)).getD false then s
    else s.modCore c (fun k => { k with held := none })

/-- Cores with a workgroup or with a state of their own. -/
def State.usedCores (s : State) : List Nat :=
  let cs := s.cores.map (·.1)
  cs ++ ((s.wgs.map (fun e => e.2.core)).eraseDups).filter (fun c => !cs.contains c)

/-- A thread that is WAITING will have been READY only since its wait ends (R155). -/
def State.markWaits (s : State) (c : Nat) : State :=
  let ok := (s.issuing c).map (·.1)
  { s with wgs := s.wgs.map (fun (e : Nat × Workgroup) =>
      if e.2.core != c then e
      else (e.1, { e.2 with threads := e.2.threads.zipIdx.map (fun p =>
        if p.1.st == .run && !(ok.contains e.1 && s.isReady e.1 p.2) then { p.1 with readyAt := s.now } else p.1) })) }

/-- Threads that wait, and that a fault has reached from the refill of their top frame, leave what they wait for (R178, R456). -/
def State.meetFaults (s : State) (c : Nat) : State :=
  (s.wgs.flatMap (fun e => if e.2.core == c && e.2.resid == .resident then
    (e.2.which (fun th => th.st != .run && !th.faults.isEmpty)).map (fun t => (e.1, t)) else [])).foldl
    (fun (s : State) e => s.meetFault e.1 e.2) s

/-- A core after a step: needs of spilled frames, grants whose record has been read (R170, R174), the PC-group table, the gathered
sets, the memory pipe, and who waits. -/
def State.tidyCore (s : State) (c : Nat) (issued : List (Nat × Nat)) : State :=
  ((((((s.needTops c).grantCore c).meetFaults c).regroup c issued).gatherUp c).unhold c).markWaits c

/-- Every core after a step in which the threads named have issued on a core. -/
def State.tidy (s : State) (core : Nat) (issued : List (Nat × Nat)) : State :=
  s.usedCores.foldl (fun (s : State) c => s.tidyCore c (if c = core then issued else [])) s

/-- The threads of a bundle after its issue: each counts as READY from now on, and one that its instruction has parked or holds
has issued, so that its frames are no longer fresh (R156, R172). -/
def State.afterIssue (s : State) (u : Cur) : State :=
  (u.tids.foldl (fun (s : State) t => s.modThread u.wg t (fun th => { th with
    readyAt := s.now
    frames := (match th.st, th.hold with
      | .parked (.calleeQ _ _ _), _ => th.frames
      | .parked _, _ => th.frames.map (fun f => { f with fresh := false })
      | _, some _ => th.frames.map (fun f => { f with fresh := false })
      | _, none => th.frames) })) s).tidy u.core (u.tids.map (fun t => (u.wg, t)))

/-- The hint y sets the age of the bundle's entry of the table to 0 after issue (R155). -/
def State.yielded (s : State) (u : Cur) (i : Instr) : State :=
  if (i.parts.map (fun p => p.c.yld)).getD false then
    s.modCore u.core (fun k => { k with groups := k.groups.map (fun e =>
      if e.wg == u.wg && e.pc == u.pc then { e with age := 0 } else e) })
  else s

/-- A thread that its instruction has parked, or holds until an operation is performed, has issued: its stall count runs (R153). -/
def State.stalled (s : State) (u : Cur) (i : Instr) : State :=
  let n := (i.parts.map (fun p => p.c.stall.val)).getD 0
  if n = 0 then s
  else u.tids.foldl (fun (s : State) t => s.modThread u.wg t (fun th => match th.st with
    | .parked .hostPage => th
    | .parked (.record _) => th
    | .parked (.entry _) => th
    | .parked _ => { th with stallTo := some (s.now + n) }
    | _ => if th.waitsOp then { th with stallTo := some (s.now + n) } else th)) s

/-- What a bundle's instruction has done, followed by what its issue brings with it. -/
def afterExec (u : Cur) (i : Instr) : Out → Out
  | .next s => .next (((s.yielded u i).stalled u i).afterIssue u)
  | o => o

/-- What an event has done, followed by the same of every core. -/
def afterEvent : Out → Out
  | .next s => .next (s.tidy 0 [])
  | o => o

/-! ## Picking (R155) -/

/-- The thread of each lane that has been READY longest, ties to the lower index, among lanes not excluded. -/
def laneThreads (g : Workgroup) (ts lanes : List Nat) : List Nat :=
  ((List.range 32).filter (fun l => !lanes.contains l)).filterMap (fun l =>
    (ts.filter (fun t => t % 32 == l)).foldl (fun (m : Option Nat) t => match m with
      | none => some t
      | some u => if ((g.threads[t]?).map (·.readyAt)).getD 0 < ((g.threads[u]?).map (·.readyAt)).getD 0 then some t else m) none)

/-- An entry of the table as a candidate, if it holds a READY thread. -/
def State.groupCand (s : State) (e : Group) : Option Cand :=
  match s.wg e.wg with
  | none => none
  | some g => match (e.members g).filter (s.isReady e.wg) with
    | [] => none
    | ts => some { age := e.age, pick := .group e.slot [], wg := e.wg, pc := e.pc, tids := ts }

/-- A gathered set may issue: no member waits for a pending write (R153, R155). -/
def State.setReady (s : State) (w : Nat) (ts : List Nat) : Bool :=
  ts.all (fun t => ((s.thread w t).map (fun th => !s.waits w t th)).getD false)

/-- All candidates of a core in the order of ties: table entries, the serial set, gathered sets. -/
def State.cands (s : State) (c : Nat) : List Cand :=
  let k := s.core c
  let ok := (s.issuing c).map (·.1)
  let gs := k.groups.filter (fun e => ok.contains e.wg)
  (List.range 64).filterMap (fun i => (gs.find? (fun e => e.slot == i)).bind s.groupCand) ++
  (match longest (s.serials c (fun w t _ => s.isReady w t)) with
    | none => []
    | some m => [{ age := k.serialAge, pick := .serial, wg := m.2.1, pc := m.2.2.2, tids := [m.2.2.1] }]) ++
  (k.gathers.filter (fun e => ok.contains e.wg && s.setReady e.wg e.tids)).map (fun e =>
    { age := e.age, pick := .gather e.wg e.pc e.tids, wg := e.wg, pc := e.pc, tids := e.tids })

/-- The candidates by greatest age; the order of ties stays. -/
def State.rank (s : State) (c : Nat) : List Cand := sortBy (fun a b => decide (b.age ≤ a.age)) (s.cands c)

/-- The one ranking of a cycle, made when its first pick is due. -/
def State.ranked (s : State) (c : Nat) : State :=
  match (s.core c).ranking with
  | some _ => s
  | none => let r := s.rank c; s.modCore c (fun k => { k with ranking := some r })

/-- The bundle that a candidate gives, with lanes left out: READY threads, one of each lane; the threads of a set. -/
def State.bundleOf (s : State) (x : Cand) (lanes : List Nat) : Option Cand :=
  let still := x.tids.filter (fun t => ((s.thread x.wg t).map (fun th => th.pc.toNat == x.pc)).getD false)
  let ts := match x.pick with
    | .group _ _ => (match s.wg x.wg with
      | some g => laneThreads g (still.filter (fun t => ((s.thread x.wg t).map (·.ready s.now)).getD false)) lanes
      | none => [])
    | .serial => still.filter (fun t => ((s.thread x.wg t).map (·.ready s.now)).getD false)
    | .gather _ _ _ => if still.length = x.tids.length && s.setReady x.wg x.tids then still else []
  if ts.isEmpty || !((s.issuing ((s.wg x.wg).elim 0 (·.core))).any (fun e => e.1 == x.wg)) then none
  else some { x with tids := ts, pick := match x.pick with
    | .group slot _ => .group slot (ts.map (· % 32))
    | p => p }

/-- What a pipe takes in this cycle, after pipe 0 for pipe 1 (R155). -/
def State.pick (s : State) (c pipe : Nat) : Option Cand :=
  let k := s.core c
  match pipe, k.ranking, k.picks with
  | 0, some (x :: _), [] => s.bundleOf x []
  | 1, some (x :: rest), [(0, p)] =>
    (match (match p with
        | .group _ lanes => s.bundleOf x lanes
        | _ => none) with
      | some y => some y
      | none => rest.head?.bind (fun y => s.bundleOf y []))
  | _, _, _ => none

/-- Record a pick: its age returns to 0. -/
def State.picked (s : State) (c pipe : Nat) (x : Cand) : State :=
  s.modCore c (fun k =>
    let k := { k with picks := k.picks ++ [(pipe, x.pick)] }
    match x.pick with
    | .group slot _ => { k with groups := k.groups.map (fun e => if e.slot == slot then { e with age := 0 } else e) }
    | .serial => { k with serialAge := 0 }
    | .gather w pc tids =>
      { k with gathers := k.gathers.filter (fun e => !(e.wg == w && e.pc == pc && e.tids == tids)) })

/-! ## Fetch (R159, R231, R232) -/

/-- Translate the bytes of a range one page at a time for a fetch by threads ts; one from the host needs its link (R424). -/
def fetchAddrs (s : State) (c w : Nat) (ts : List Nat) (part asid root : Nat) (user : Bool) (va n : Nat) :
    Except (Nat × Nat) (List (Nat × Bool)) × State :=
  (pageParts 2 va n).foldl (fun acc p =>
    match acc with
    | (.error e, s) => (.error e, s)
    | (.ok l, s) =>
      match place p.1 with
      | .glob a => (match s.xlate c w ts part asid root a .fetch false user with
        | (.ok ph, s) =>
          (match (if ph.host then (if s.link then none else some (ph.pa, 0xE6)) else s.poisonedIn ph.pa p.2) with
          | some (b, f) => (.error (f, a + (b - ph.pa)), s)
          | none => (.ok (l ++ (List.range p.2).map (fun i => (ph.pa + i, ph.host))), s))
        | (.wait, s) => (.error (0, a), s)
        | (.fail f, s) => (.error (f, a), s))
      | .bad => (.error (0x21, p.1), s)
      | _ => (.error (0x28, p.1), s)) (.ok [], s)

/-- Fetch the word at an instruction index for threads of a workgroup: the word, or the fault and its address; code 0
waits. -/
def fetchWord (s : State) (w : Nat) (ts : List Nat) (idx : Nat) : Except (Nat × Nat) Nat × State :=
  match s.wg w, s.launchOf w with
  | some g, some l =>
    let va := (l.kcode + 12 * idx) % 2 ^ 64
    (match fetchAddrs s g.core w ts g.part l.eff.asid l.eff.ptroot (!l.priv) va 12 with
    | (.ok as, s) =>
      let w0 := codeWord s l.wmark (as.take 4)
      let s := { s with fresh := s.fresh + 1 }
      let w1 := codeWord s l.wmark ((as.drop 4).take 4)
      let s := { s with fresh := s.fresh + 1 }
      let w2 := codeWord s l.wmark (as.drop 8)
      (.ok (leNat (w0 ++ w1 ++ w2)), { s with fresh := s.fresh + 1 })
    | (.error e, s) => (.error e, s))
  | _, _ => (.error (0, 0), s)

/-! ## Forming the bundle's instruction -/

/-- Threads with a deferred fault, which stop before they issue (R390). -/
def State.late (s : State) (w : Nat) (ts : List Nat) : List Nat :=
  ts.filter (fun t => ((s.thread w t).map (fun th => !th.faults.isEmpty)).getD false)

/-- Threads whose guard is known and has a value, and that have no deferred fault. -/
def State.guarded (s : State) (w : Nat) (ts : List Nat) (c : Ctl) (yes : Bool) : List Nat :=
  ts.filter (fun t => ((s.thread w t).map (fun th => (th.guard c == yes) && th.faults.isEmpty && !s.guardBusy w t c)).getD false)

/-- A fault found as the threads of a bundle fetch their instruction; one that counts as deferred stops them here (R159,
R390). -/
def State.fetchFault (s : State) (w pc : Nat) (ts : List Nat) (code addr : Nat) : State :=
  let late := s.late w ts
  let now := ts.filter (fun t => !late.contains t)
  let s := late.foldl (fun (s : State) t => s.deliverDeferred w t) s
  if lateCode code then
    now.foldl (fun (s : State) t => s.takeFault w code pc true [(t, addr, some (ofN pc))]) s
  else s.deliver w pc now.length (now.map (fun t => { t := t, code := code, addr := addr }))

/-- Threads that reach a cross-lane instruction gather, with a true or a false guard (R162). A true guard faults where the
word names a register beyond the frame (R167). Where the masks of two members that gather at the same index differ and one of them names
the other, each that has a true guard gets 0x06. DEDUCED (notes/assumptions/94.md): one with a false guard gets no fault and stays. -/
def State.gather (s : State) (w pc : Nat) (i : Instr) (c : Ctl) (m : Opnd ⊕ Nat) (ts : List Nat) : State :=
  let late := s.late w ts
  let ts := ts.filter (fun t => !late.contains t)
  let low := ts.filter (fun t => ((s.thread w t).map Thread.topSpilled).getD false)
  let ts := ts.filter (fun t => !low.contains t && !s.guardBusy w t c)
  let outside := fun (t : Nat) => ((s.thread w t).map (fun th => th.guard c && i.vregs.any (fun j => !inFrame th.frames j))).getD false
  let go := ts.filter (fun t => !outside t && ((s.thread w t).map (fun th => !s.busy w t th i)).getD false)
  let bad := ts.filter outside
  let s := late.foldl (fun s t => s.deliverDeferred w t) s
  let s := low.foldl (fun s t => s.need w t (fun th => { th with st := .refillWait })) s
  let s := s.deliver w pc bad.length (bad.map (fun t => { t := t, code := 0x70, addr := 0 }))
  let s := go.foldl (fun s t => s.modThread w t (fun th => { th with st := .gathering (maskIn s w t m) })) s
  match s.wg w with
  | none => s
  | some g =>
    let pass := (go.head?.bind (fun t => g.threads[t]?)).bind Thread.passNo
    let there := go.foldl (fun (l : List (Nat × Nat)) t => if l.any (fun e => e.1 == t) then l
      else l ++ (gathered g (t / 32) pc pass).filter (fun e => !l.any (fun x => x.1 == e.1))) []
    let on := there.filter (fun e => ((g.threads[e.1]?).map (fun th => th.guard c)).getD false)
    let wrong := on.filter (fun e => there.any (fun x => x.1 / 32 == e.1 / 32 && x.2 != e.2 &&
      (e.2.testBit (x.1 % 32) || x.2.testBit (e.1 % 32))))
    let s := wrong.foldl (fun s e => s.modThread w e.1 (fun th => { th with st := .run })) s
    s.deliver w pc wrong.length (wrong.map (fun e => { t := e.1, code := 0x06, addr := 0 }))

/-- What an issue turn leaves to execute: the state with the bundle named, and its instruction; or the state alone. -/
def State.form (s : State) (c pipe : Nat) : State × Option Instr :=
  let s := s.ranked c
  match s.pick c pipe with
  | none => (s, none)
  | some x =>
    let s := { s.picked c pipe x with issues := s.issues + 1 }
    match fetchWord s x.wg x.tids x.pc with
    | (.error (0, _), s) => ((s.late x.wg x.tids).foldl (fun (s : State) t => s.deliverDeferred x.wg t) s, none)
    | (.error (f, a), s) => (s.fetchFault x.wg x.pc x.tids f a, none)
    | (.ok word, s) =>
      let raw := word
      let word := match x.tids.head?.bind (fun t => s.thread x.wg t) with
        | some th => th.word raw
        | none => raw
      let x : Cand := { x with tids := x.tids.filter (fun t => (s.thread x.wg t).map (fun (th : Thread) => th.word raw) == some word) }
      let u : Cur := { core := c, pipe := pipe, wg := x.wg, pc := x.pc, tids := x.tids }
      match decodeWord word with
      | .error f =>
        let ctl := decodeCtl word
        let yes := s.guarded x.wg x.tids ctl true
        let no := s.guarded x.wg x.tids ctl false
        let s := (s.late x.wg x.tids).foldl (fun s t => s.deliverDeferred x.wg t) s
        let s := no.foldl (fun s t => (s.modThread x.wg t Thread.advance).issued x.wg t ctl) s
        (s.deliver x.wg x.pc yes.length (yes.map (fun t => { t := t, code := f, addr := 0 })), none)
      | .ok i =>
        match crossMask i, x.pick with
        | some _, .gather _ _ _ =>
          let low := x.tids.filter (fun t => ((s.thread x.wg t).map Thread.topSpilled).getD false)
          if !low.isEmpty then
            (low.foldl (fun s t => s.need x.wg t (fun th => { th with st := .refillWait })) s, none)
          else
          let s := x.tids.foldl (fun s t => s.modThread x.wg t (fun th => { th with st := .run })) s
          ({ s with cur := some u }, some i)
        | some m, _ => (s.gather x.wg x.pc i (decodeCtl word) m x.tids, none)
        | none, _ => ({ s with cur := some u }, some i)

/-- An issue turn: the bundle that the pipe takes executes its instruction. -/
def issueTurn (s : State) (c pipe : Nat) (exec : Instr → State → Out) : Out :=
  match s.form c pipe with
  | (s, none) => .next (s.tidy c [])
  | (s, some i) => match s.cur with
    | some u => afterExec u i (exec i s)
    | none => exec i s

/-! ## The clock -/

/-- Two picks name the same candidate. -/
def Pick.same (a b : Pick) : Bool :=
  match a, b with
  | .group a _, .group b _ => a == b
  | .serial, .serial => true
  | .gather a b d, .gather a' b' d' => a == a' && b == b' && d == d'
  | _, _ => false

/-- A cycle of a core ends: a candidate that was not picked gains an age step (R155), and while an entry is free the serial thread
that has waited longest takes it (R157). -/
def State.ageCore (s : State) (c : Nat) : State :=
  let s := s.ranked c
  let k := s.core c
  let waits := fun (p : Pick) => (k.ranking.getD []).any (fun x => x.pick.same p) && !k.picks.any (fun q => q.2.same p)
  let s := s.modCore c (fun k => { k with
    picks := []
    ranking := none
    drained := false
    groups := k.groups.map (fun e => if waits (.group e.slot []) then { e with age := min 65535 (e.age + 1) } else e)
    serialAge := if waits .serial then min 65535 (k.serialAge + 1) else k.serialAge
    gathers := k.gathers.map (fun e => if waits (.gather e.wg e.pc e.tids) then { e with age := min 65535 (e.age + 1) } else e) })
  match longest (s.serials c (fun _ _ _ => true)) with
  | some m => if (s.core c).groups.length < 64 then s.lookup c m.2.1 m.2.2.1 else s
  | none => s

/-- A rate word's RATE and BURST (R64). -/
def rateOf (w : Nat) : Nat := bits w 19 0
def burstOf (w : Nat) : Nat := max 1 (bits w 51 36)

/-- Requests that have arrived at a slice and wait there (R62). -/
def State.queuedAt (s : State) (n : Nat) : Nat :=
  (s.pkts.filter (fun e => !e.2.reply && e.2.arrived == e.2.flits && e.2.dst == n)).length

/-- One delivered cycle passes: ages, counts, buckets, and what follows every step (R12, R62, R64, R155). -/
def State.tick (s : State) : State :=
  let s := s.cores.foldl (fun s e => s.ageCore e.1) s
  let busy := (s.pkts.filterMap (fun e => if e.2.reply then none else some e.2.dst)).eraseDups
  let s := busy.foldl (fun s n => if 48 < s.queuedAt n then s.modSlice n (fun x => { x with full := x.full + 1 }) else s) s
  ({ s with
    now := s.now + 1
    buckets := s.buckets.map (fun e => (e.1, e.2.1, e.2.2.1, min (1024 * burstOf e.2.2.1) (e.2.2.2 + rateOf e.2.2.1))) } : State).tidy 0 []

end Sys2Proof.Machine
end

