-- ==== Sys2Proof/Machine/Float.lean ====
section
/-!
DEFINITION. Floating-point formats and arithmetic (spec/09_numbers.md R206 to R216): values are exact (a signed
magnitude times a power of two), computed exactly and rounded once.
-/

namespace Sys2Proof.Machine

/-- An exact value, an infinity or a NaN (R209, R210). fin s m e is (−1)^s · m · 2^e. -/
inductive FP where
  | nan
  | inf (neg : Bool)
  | fin (neg : Bool) (m : Nat) (e : Int)
deriving DecidableEq, Repr

/-- A format: exponent and fraction widths (R209). -/
structure Fmt where
  ew : Nat
  fw : Nat
deriving DecidableEq, Repr

def Fmt.f16 : Fmt := ⟨5, 10⟩
def Fmt.bf16 : Fmt := ⟨8, 7⟩
def Fmt.f32 : Fmt := ⟨8, 23⟩
def Fmt.f64 : Fmt := ⟨11, 52⟩
def Fmt.a56 : Fmt := ⟨10, 45⟩

/-- Format of a floating type. -/
def fmtOf : Ty → Fmt
  | .f16 => .f16
  | .bf16 => .bf16
  | .f64 => .f64
  | _ => .f32

def Fmt.width (f : Fmt) : Nat := 1 + f.ew + f.fw
def Fmt.bias (f : Fmt) : Nat := 2 ^ (f.ew - 1) - 1
/-- Exponent of the quantum of subnormals. -/
def Fmt.qmin (f : Fmt) : Int := 1 - (f.bias : Int) - (f.fw : Int)
def Fmt.infBits (f : Fmt) : Nat := (2 ^ f.ew - 1) * 2 ^ f.fw
def Fmt.signBit (f : Fmt) : Nat := 2 ^ (f.ew + f.fw)
/-- The canonical NaN (R210). -/
def Fmt.nanBits (f : Fmt) : Nat := f.infBits + 2 ^ (f.fw - 1)
def Fmt.maxBits (f : Fmt) : Nat := f.infBits - 1

/-- The value of a bit pattern (R209). -/
def decodeF (f : Fmt) (x : Nat) : FP :=
  let x := x % 2 ^ f.width
  let s := x.testBit (f.ew + f.fw)
  let e := x / 2 ^ f.fw % 2 ^ f.ew
  let m := x % 2 ^ f.fw
  if e = 2 ^ f.ew - 1 then (if m = 0 then .inf s else .nan)
  else if e = 0 then .fin s m f.qmin
  else .fin s (2 ^ f.fw + m) (f.qmin + (e : Int) - 1)

/-- Round a quotient up by one unit or not, by mode and sign: q is the truncated quotient, r the remainder of d. -/
def roundStep (mode : RM) (neg : Bool) (q r d : Nat) : Nat :=
  match mode with
  | .rn => if 2 * r > d || (2 * r == d && q % 2 == 1) then q + 1 else q
  | .rz => q
  | .ru => if r > 0 && !neg then q + 1 else q
  | .rd => if r > 0 && neg then q + 1 else q

/-- Magnitude bits on overflow (R211). -/
def overBits (f : Fmt) (mode : RM) (neg : Bool) : Nat :=
  match mode with
  | .rn => f.infBits
  | .rz => f.maxBits
  | .ru => if neg then f.maxBits else f.infBits
  | .rd => if neg then f.infBits else f.maxBits

/-- floor(log2(n/d)) for positive n and d. -/
def log2Q (n d : Nat) : Int :=
  let k : Int := (Nat.log2 n : Int) - (Nat.log2 d : Int)
  let ge := if 0 ≤ k then decide (d * 2 ^ k.toNat ≤ n) else decide (d ≤ n * 2 ^ (-k).toNat)
  if ge then k else k - 1

/-- Round the positive rational n/d (R211): the bits of the result. -/
def roundQ (f : Fmt) (mode : RM) (neg : Bool) (n d : Nat) : Nat :=
  let s := if neg then f.signBit else 0
  if n = 0 then s
  else
    let q := max (log2Q n d - f.fw) f.qmin
    let (n, d) := if 0 ≤ q then (n, d * 2 ^ q.toNat) else (n * 2 ^ (-q).toNat, d)
    let i := roundStep mode neg (n / d) (n % d) d
    let b := (q - f.qmin).toNat * 2 ^ f.fw + i
    s + if f.infBits ≤ b then overBits f mode neg else b

/-- Round an exact value to a format (R211). -/
def roundF (f : Fmt) (mode : RM) : FP → Nat
  | .nan => f.nanBits
  | .inf s => (if s then f.signBit else 0) + f.infBits
  | .fin s m e => if 0 ≤ e then roundQ f mode s (m * 2 ^ e.toNat) 1 else roundQ f mode s m (2 ^ (-e).toNat)

def FP.neg : FP → FP
  | .nan => .nan
  | .inf s => .inf (!s)
  | .fin s m e => .fin (!s) m e

/-- The signed integer of a value at exponent e0, at or below its own. -/
def scaleTo (e0 : Int) (s : Bool) (m : Nat) (e : Int) : Int :=
  let x : Int := (m * 2 ^ (e - e0).toNat : Nat)
  if s then -x else x

/-- Exact sum with the zero and infinity rules of R212 in a mode. -/
def FP.add (mode : RM) : FP → FP → FP
  | .nan, _ => .nan
  | _, .nan => .nan
  | .inf s, .inf t => if s == t then .inf s else .nan
  | .inf s, _ => .inf s
  | _, .inf t => .inf t
  | .fin s m e, .fin t n g =>
    let e0 := min e g
    let x := scaleTo e0 s m e + scaleTo e0 t n g
    if x = 0 then (if m = 0 && n = 0 && s == t then .fin s 0 e0 else .fin (mode == .rd) 0 e0)
    else .fin (decide (x < 0)) x.natAbs e0

/-- Exact product (R212). -/
def FP.mul : FP → FP → FP
  | .nan, _ => .nan
  | _, .nan => .nan
  | .inf s, .inf t => .inf (s != t)
  | .inf s, .fin t m _ => if m = 0 then .nan else .inf (s != t)
  | .fin s m _, .inf t => if m = 0 then .nan else .inf (s != t)
  | .fin s m e, .fin t n g => .fin (s != t) (m * n) (e + g)

def FP.isNan : FP → Bool
  | .nan => true
  | _ => false
def FP.isInf : FP → Bool
  | .inf _ => true
  | _ => false

/-- Compare two values that are no NaN, with −0 equal to +0 (R213). -/
def FP.cmp : FP → FP → Ordering
  | .nan, _ => .eq
  | _, .nan => .eq
  | .inf s, .inf t => if s == t then .eq else if s then .lt else .gt
  | .inf s, _ => if s then .lt else .gt
  | _, .inf t => if t then .gt else .lt
  | .fin s m e, .fin t n g =>
    let e0 := min e g
    compare (scaleTo e0 s m e) (scaleTo e0 t n g)

def FP.lt (a b : FP) : Bool := !a.isNan && !b.isNan && a.cmp b == .lt
def FP.eq (a b : FP) : Bool := !a.isNan && !b.isNan && a.cmp b == .eq

def FP.sign : FP → Bool
  | .nan => false
  | .inf s => s
  | .fin s _ _ => s

/-- fmin and fmax: −0 below +0, a NaN gives the canonical NaN (R213). -/
def FP.min (a b : FP) : FP :=
  if a.isNan || b.isNan then .nan
  else match a.cmp b with
    | .lt => a
    | .gt => b
    | .eq => if a.sign then a else b
def FP.max (a b : FP) : FP :=
  if a.isNan || b.isNan then .nan
  else match a.cmp b with
    | .lt => b
    | .gt => a
    | .eq => if a.sign then b else a

/-- An integer as an exact value. -/
def FP.ofInt (x : Int) : FP := .fin (decide (x < 0)) x.natAbs 0

/-- Round an exact finite value to an integer in a mode (R214, R284). -/
def roundInt (mode : RM) (s : Bool) (m : Nat) (e : Int) : Int :=
  let i : Nat := if 0 ≤ e then m * 2 ^ e.toNat else roundStep mode s (m / 2 ^ (-e).toNat) (m % 2 ^ (-e).toNat) (2 ^ (-e).toNat)
  if s then -(i : Int) else i

/-- Floor of a value, clamped; a NaN gives 0 (R308). -/
def FP.floor (lo hi : Int) : FP → Int
  | .nan => 0
  | .inf s => if s then lo else hi
  | .fin s m e => clampI (roundInt .rd s m e) lo hi

/-! ## Operations on bit patterns -/

def fAdd (f : Fmt) (mode : RM) (a b : Nat) : Nat := roundF f mode ((decodeF f a).add mode (decodeF f b))
def fSub (f : Fmt) (mode : RM) (a b : Nat) : Nat := roundF f mode ((decodeF f a).add mode (decodeF f b).neg)
def fMul (f : Fmt) (mode : RM) (a b : Nat) : Nat := roundF f mode ((decodeF f a).mul (decodeF f b))
def fFma (f : Fmt) (mode : RM) (a b c : Nat) : Nat :=
  roundF f mode (((decodeF f a).mul (decodeF f b)).add mode (decodeF f c))
def fMin (f : Fmt) (a b : Nat) : Nat := roundF f .rn ((decodeF f a).min (decodeF f b))
def fMax (f : Fmt) (a b : Nat) : Nat := roundF f .rn ((decodeF f a).max (decodeF f b))

/-- Convert between formats, with .sf as R214 gives it. -/
def fConv (src dst : Fmt) (mode : RM) (sf : Bool) (x : Nat) : Nat :=
  let r := roundF dst mode (decodeF src x)
  let s := r / dst.signBit * dst.signBit
  if sf && r - s == dst.infBits then s + dst.maxBits else r

/-- An integer type's range: least and greatest value (R206, R214). -/
def intRange (ty : Ty) : Int × Int :=
  let w := ty.width
  if ty.isS then (-((2 ^ (w - 1) : Nat) : Int), ((2 ^ (w - 1) : Nat) : Int) - 1) else (0, ((2 ^ w : Nat) : Int) - 1)

/-- Floating to integer (R214). -/
def fToInt (f : Fmt) (mode : RM) (ty : Ty) (x : Nat) : Int :=
  let r := intRange ty
  match decodeF f x with
  | .nan => 0
  | .inf s => if s then r.1 else r.2
  | .fin s m e => clampI (roundInt mode s m e) r.1 r.2

/-- Round to an integral value of the format (R284). -/
def fRound (f : Fmt) (mode : RM) (x : Nat) : Nat :=
  match decodeF f x with
  | .nan => f.nanBits
  | .inf s => (if s then f.signBit else 0) + f.infBits
  | .fin s m e => roundF f .rn (.fin s (roundInt mode s m e).natAbs 0)

/-- The class of R283, one-hot. -/
def fClass (f : Fmt) (x : Nat) : Nat :=
  let x := x % 2 ^ f.width
  let s := x.testBit (f.ew + f.fw)
  let e := x / 2 ^ f.fw % 2 ^ f.ew
  let m := x % 2 ^ f.fw
  let k := if e = 2 ^ f.ew - 1 then (if m = 0 then (if s then 0 else 7) else 8)
    else if e = 0 then (if m = 0 then (if s then 3 else 4) else (if s then 2 else 5))
    else (if s then 1 else 6)
  2 ^ k

/-- The conditions of fcmp (R282). -/
def condF (c : Nat) (a b : FP) : Bool :=
  let un := a.isNan || b.isNan
  match c with
  | 0 => a.eq b
  | 1 => un || !a.eq b
  | 2 => a.lt b
  | 3 => a.lt b || a.eq b
  | 4 => b.lt a
  | 5 => b.lt a || a.eq b
  | 6 => un
  | _ => !un

/-- The greatest r below 2^b above the bits chosen so far with r * r at most n. -/
def isqrtFrom (n : Nat) : Nat → Nat → Nat
  | 0, r => r
  | b + 1, r => isqrtFrom n b (if (r + 2 ^ b) * (r + 2 ^ b) ≤ n then r + 2 ^ b else r)

/-- floor(sqrt n). -/
def isqrt (n : Nat) : Nat := isqrtFrom n (Nat.log2 n / 2 + 1) 0

/-- sqrt, correctly rounded (R211, R212): the root of m·2^e is taken with enough bits and a sticky bit. -/
def fSqrt (f : Fmt) (mode : RM) (x : Nat) : Nat :=
  match decodeF f x with
  | .nan => f.nanBits
  | .inf s => if s then f.nanBits else f.infBits
  | .fin s m e =>
    if m = 0 then (if s then f.signBit else 0)
    else if s then f.nanBits
    else
      let sh := 2 * f.fw + 8 + (if (e - (2 * f.fw + 8 : Nat)) % 2 = 0 then 0 else 1)
      let n := m * 2 ^ sh
      let r := isqrt n
      let sticky := if r * r = n then 0 else 1
      roundF f mode (.fin false (2 * r + sticky) ((e - sh) / 2 - 1))

end Sys2Proof.Machine
end

