-- ==== Sys2Proof/Machine/Integer.lean ====
section
/-!
DEFINITION. Integer, logic, shift, comparison, move, packed and bit-field instructions (spec/11_isa_compute.md R260 to
R279): each a function of its operand values, applied to the threads of the bundle.
-/

namespace Sys2Proof.Machine

/-! ## Shared shapes -/

/-- D receives a function of A. -/
def alu1 (i : Instr) (c : Ctl) (o : F3) (f : Word → Word) (s : State) : Out :=
  isa i c (fun s x => .adv (s.put x.w x.t o.d (f (s.src x.w x.t o.a)))) s

/-- D receives a function of A and B. -/
def alu2 (i : Instr) (c : Ctl) (o : F3) (f : Word → Word → Word) (s : State) : Out :=
  isa i c (fun s x => .adv (s.put x.w x.t o.d (f (s.src x.w x.t o.a) (s.src x.w x.t o.b)))) s

/-- D receives a function of A, B and C. -/
def alu3 (i : Instr) (c : Ctl) (o : F3) (f : Word → Word → Word → Word) (s : State) : Out :=
  isa i c (fun s x => .adv (s.put x.w x.t o.d
    (f (s.src x.w x.t o.a) (s.src x.w x.t o.b) (s.src x.w x.t o.c)))) s

/-- D receives a function of A and the immediate. -/
def aluI (i : Instr) (c : Ctl) (o : FI) (imm : Word) (f : Word → Word → Word) (s : State) : Out :=
  isa i c (fun s x => .adv (s.put x.w x.t o.d (f (s.src x.w x.t o.a) imm))) s

/-- PD, and D where it is named, receive an outcome (R257). -/
def putBool (s : State) (x : Ctx) (d : Opnd) (pd : Nat) (b : Bool) : State :=
  (s.putPred x.w x.ts pd b).put x.w x.t d (boolWord b)

/-- The group register o + j. -/
def Opnd.plus (o : Opnd) (j : Nat) : Opnd :=
  match o with
  | .v n => if h : n.val + j < 240 then .v ⟨n.val + j, h⟩ else .vz
  | o => o

/-! ## Reading and writing at a type (R10, R13, R257) -/

/-- The low bits of a number, read under a type. -/
def readTy (ty : Ty) (x : Nat) : Int := if ty.isS then signExt x ty.width else ((x % 2 ^ ty.width : Nat) : Int)

/-- A w-bit result extended to a register under R10. -/
def widen (ty : Ty) (x : Nat) : Word := ofInt (readTy ty x)

/-- The 32-bit immediate of an integer instruction, extended under R13. -/
def immInt (ty : Ty) (imm : BitVec 32) : Word := if ty.isZ then ofN imm.toNat else ofInt (signExt imm.toNat 32)

/-- R261 on one element: the exact result saturated or taken modulo 2^w, as w bits. -/
def narrow (ty : Ty) (sat : Bool) (r : Int) : Nat :=
  let w := ty.width
  wrapN (if sat then (if ty.isS then satS w r else satZ w r) else r) w

/-- R261 and R262: scalar, or on each element with .pk; SUB bit 0 is .sat and bit 1 is .pk. -/
def intOp (ex : Int → Int → Int → Int) (ty : Ty) (sub : Nat) (a b c : Word) : Word :=
  let w := ty.width
  let one := fun (x y z : Nat) => narrow ty (bit sub 0) (ex (readTy ty x) (readTy ty y) (readTy ty z))
  if bit sub 1 then
    ofN (packElems w ((List.range (64 / w)).map (fun i => one (elem a.toNat w i) (elem b.toNat w i) (elem c.toNat w i))))
  else widen ty (one a.toNat b.toNat c.toNat)

/-! ## Integer arithmetic (R260 to R264) -/

/-- The exact quotient of R263, with its values for b = 0. -/
def divExact (ty : Ty) (a b : Int) : Int :=
  if b = 0 then
    (if ty.isS then (if 0 ≤ a then 2 ^ (ty.width - 1) - 1 else -(2 ^ (ty.width - 1))) else 2 ^ ty.width - 1)
  else a.tdiv b

/-- rem of R263. -/
def remExact (a b : Int) : Int := if b = 0 then a else a.tmod b

/-- sad (R264). -/
def sadOp (ty : Ty) (a b c : Word) : Word :=
  let w := ty.width
  ofN (c.toNat + ((List.range (64 / w)).map (fun i => (readTy ty (elem a.toNat w i) - readTy ty (elem b.toNat w i)).natAbs)).sum)

def execAdd (c : Ctl) (o : F3) (s : State) : Out :=
  alu2 (.add c o) c o (fun a b => intOp (fun x y _ => x + y) o.ty o.sub.toNat a b 0) s
def execAddImm (c : Ctl) (o : FI) (s : State) : Out :=
  aluI (.addImm c o) c o (immInt o.ty o.imm) (fun a b => intOp (fun x y _ => x + y) o.ty o.sub.toNat a b 0) s
def execSub (c : Ctl) (o : F3) (s : State) : Out :=
  alu2 (.sub c o) c o (fun a b => intOp (fun x y _ => x - y) o.ty o.sub.toNat a b 0) s
def execSubImm (c : Ctl) (o : FI) (s : State) : Out :=
  aluI (.subImm c o) c o (immInt o.ty o.imm) (fun a b => intOp (fun x y _ => x - y) o.ty o.sub.toNat a b 0) s
def execMul (c : Ctl) (o : F3) (s : State) : Out :=
  alu2 (.mul c o) c o (fun a b => intOp (fun x y _ => x * y) o.ty o.sub.toNat a b 0) s
def execMulImm (c : Ctl) (o : FI) (s : State) : Out :=
  aluI (.mulImm c o) c o (immInt o.ty o.imm) (fun a b => intOp (fun x y _ => x * y) o.ty o.sub.toNat a b 0) s
def execMulh (c : Ctl) (o : F3) (s : State) : Out :=
  alu2 (.mulh c o) c o (fun a b => intOp (fun x y _ => x * y / 2 ^ o.ty.width) o.ty o.sub.toNat a b 0) s
def execMad (c : Ctl) (o : F3) (s : State) : Out :=
  alu3 (.mad c o) c o (intOp (fun x y z => x * y + z) o.ty o.sub.toNat) s
def execDiv (c : Ctl) (o : F3) (s : State) : Out :=
  alu2 (.div c o) c o (fun a b => intOp (fun x y _ => divExact o.ty x y) o.ty o.sub.toNat a b 0) s
def execRem (c : Ctl) (o : F3) (s : State) : Out :=
  alu2 (.rem c o) c o (fun a b => intOp (fun x y _ => remExact x y) o.ty o.sub.toNat a b 0) s
def execNeg (c : Ctl) (o : F3) (s : State) : Out :=
  alu1 (.neg c o) c o (fun a => intOp (fun x _ _ => -x) o.ty o.sub.toNat a 0 0) s
def execAbs (c : Ctl) (o : F3) (s : State) : Out :=
  alu1 (.abs c o) c o (fun a => intOp (fun x _ _ => (x.natAbs : Int)) o.ty o.sub.toNat a 0 0) s
def execMin (c : Ctl) (o : F3) (s : State) : Out :=
  alu2 (.min c o) c o (fun a b => intOp (fun x y _ => min x y) o.ty o.sub.toNat a b 0) s
def execMinImm (c : Ctl) (o : FI) (s : State) : Out :=
  aluI (.minImm c o) c o (immInt o.ty o.imm) (fun a b => intOp (fun x y _ => min x y) o.ty o.sub.toNat a b 0) s
def execMax (c : Ctl) (o : F3) (s : State) : Out :=
  alu2 (.max c o) c o (fun a b => intOp (fun x y _ => max x y) o.ty o.sub.toNat a b 0) s
def execMaxImm (c : Ctl) (o : FI) (s : State) : Out :=
  aluI (.maxImm c o) c o (immInt o.ty o.imm) (fun a b => intOp (fun x y _ => max x y) o.ty o.sub.toNat a b 0) s
def execSad (c : Ctl) (o : F3) (s : State) : Out := alu3 (.sad c o) c o (sadOp o.ty) s

/-! ## Logic, shifts and counts (R265, R266) -/

/-- Count of leading zero bits of the low w bits. -/
def clzN : Nat → Nat → Nat
  | 0, _ => 0
  | w + 1, x => if x.testBit w then 0 else 1 + clzN w x

/-- Count of trailing zero bits of the low w bits, from bit i up. -/
def ctzN : Nat → Nat → Nat → Nat
  | 0, _, _ => 0
  | w + 1, i, x => if x.testBit i then 0 else 1 + ctzN w (i + 1) x

def logicOp (f : Nat → Nat → Nat) (ty : Ty) (a b : Word) : Word := ofN (f a.toNat b.toNat % 2 ^ ty.width)
def shlOp (ty : Ty) (a b : Word) : Word :=
  if ty.width ≤ b.toNat then 0 else ofN (a.toNat * 2 ^ b.toNat % 2 ^ ty.width)
def shrOp (ty : Ty) (a b : Word) : Word :=
  if ty.width ≤ b.toNat then 0 else ofN (a.toNat % 2 ^ ty.width / 2 ^ b.toNat)
def sarOp (ty : Ty) (a b : Word) : Word :=
  ofInt (signExt a.toNat ty.width / 2 ^ (min b.toNat (ty.width - 1)))
def rotOp (ty : Ty) (a b : Word) : Word :=
  let w := ty.width
  let n := b.toNat % w
  let x := a.toNat % 2 ^ w
  ofN (x * 2 ^ n % 2 ^ w + x / 2 ^ (w - n))

def execAnd (c : Ctl) (o : F3) (s : State) : Out := alu2 (.and c o) c o (logicOp (· &&& ·) o.ty) s
def execAndImm (c : Ctl) (o : FI) (s : State) : Out :=
  aluI (.andImm c o) c o (immInt o.ty o.imm) (logicOp (· &&& ·) o.ty) s
def execOr (c : Ctl) (o : F3) (s : State) : Out := alu2 (.or c o) c o (logicOp (· ||| ·) o.ty) s
def execOrImm (c : Ctl) (o : FI) (s : State) : Out :=
  aluI (.orImm c o) c o (immInt o.ty o.imm) (logicOp (· ||| ·) o.ty) s
def execXor (c : Ctl) (o : F3) (s : State) : Out := alu2 (.xor c o) c o (logicOp (· ^^^ ·) o.ty) s
def execXorImm (c : Ctl) (o : FI) (s : State) : Out :=
  aluI (.xorImm c o) c o (immInt o.ty o.imm) (logicOp (· ^^^ ·) o.ty) s
def execNot (c : Ctl) (o : F3) (s : State) : Out :=
  alu1 (.not c o) c o (fun a => ofN (2 ^ o.ty.width - 1 - a.toNat % 2 ^ o.ty.width)) s
def execShl (c : Ctl) (o : F3) (s : State) : Out := alu2 (.shl c o) c o (shlOp o.ty) s
def execShlImm (c : Ctl) (o : FI) (s : State) : Out := aluI (.shlImm c o) c o (immInt o.ty o.imm) (shlOp o.ty) s
def execShr (c : Ctl) (o : F3) (s : State) : Out := alu2 (.shr c o) c o (shrOp o.ty) s
def execShrImm (c : Ctl) (o : FI) (s : State) : Out := aluI (.shrImm c o) c o (immInt o.ty o.imm) (shrOp o.ty) s
def execSar (c : Ctl) (o : F3) (s : State) : Out := alu2 (.sar c o) c o (sarOp o.ty) s
def execSarImm (c : Ctl) (o : FI) (s : State) : Out := aluI (.sarImm c o) c o (immInt o.ty o.imm) (sarOp o.ty) s
def execRot (c : Ctl) (o : F3) (s : State) : Out := alu2 (.rot c o) c o (rotOp o.ty) s
def execRotImm (c : Ctl) (o : FI) (s : State) : Out := aluI (.rotImm c o) c o (immInt o.ty o.imm) (rotOp o.ty) s
def execClz (c : Ctl) (o : F3) (s : State) : Out := alu1 (.clz c o) c o (fun a => ofN (clzN o.ty.width a.toNat)) s
def execCtz (c : Ctl) (o : F3) (s : State) : Out := alu1 (.ctz c o) c o (fun a => ofN (ctzN o.ty.width 0 a.toNat)) s
def execPopc (c : Ctl) (o : F3) (s : State) : Out := alu1 (.popc c o) c o (fun a => ofN (popN o.ty.width a.toNat)) s
def execBrev (c : Ctl) (o : F3) (s : State) : Out :=
  alu1 (.brev c o) c o (fun a => ofN (mkBits o.ty.width (fun k => a.toNat.testBit (o.ty.width - 1 - k)))) s

/-! ## Comparison, selection and moves (R267 to R270) -/

/-- The outcome of cmp at a width and signedness. -/
def cmpOp (ty : Ty) (cc : Nat) (a b : Word) : Bool := condInt cc (readTy ty a.toNat) (readTy ty b.toNat)

/-- The predicate that SUB names, after any negation (R268). -/
def selPred (s : State) (x : Ctx) (sub : Nat) : Bool :=
  xor (((s.thread x.w x.t).map (fun th => th.pred (sub % 16))).getD true) (bit sub 4)

def execCmp (c : Ctl) (o : F3) (s : State) : Out :=
  isa (.cmp c o) c (fun s x => .adv (putBool s x o.d o.pd.val
    (cmpOp o.ty (o.sub.toNat % 8) (s.src x.w x.t o.a) (s.src x.w x.t o.b)))) s
def execCmpImm (c : Ctl) (o : FI) (s : State) : Out :=
  isa (.cmpImm c o) c (fun s x => .adv (putBool s x o.d o.pd.val
    (cmpOp o.ty (o.sub.toNat % 8) (s.src x.w x.t o.a) (immInt o.ty o.imm)))) s
def execSel (c : Ctl) (o : F3) (s : State) : Out :=
  isa (.sel c o) c (fun s x => .adv (s.put x.w x.t o.d
    (s.src x.w x.t (if selPred s x o.sub.toNat then o.a else o.b)))) s
def execMov (c : Ctl) (o : F3) (s : State) : Out := alu1 (.mov c o) c o id s
def execMovi (c : Ctl) (o : FI) (s : State) : Out :=
  isa (.movi c o) c (fun s x => .adv (s.put x.w x.t o.d (immInt o.ty o.imm))) s
def execMovh (c : Ctl) (o : FI) (s : State) : Out :=
  aluI (.movh c o) c o (ofN o.imm.toNat) (fun a b => ofN (b.toNat * 2 ^ 32 + a.toNat % 2 ^ 32)) s
def execExt (c : Ctl) (o : F3) (s : State) : Out := alu1 (.ext c o) c o (fun a => widen o.ty a.toNat) s
def execLea (c : Ctl) (o : F3) (s : State) : Out :=
  alu3 (.lea c o) c o (fun a b z => ofN (a.toNat + b.toNat * 2 ^ (o.sub.toNat % 8) + z.toNat)) s

/-! ## Packed sub-elements (R271 to R274) -/

/-- pack: elements of width 2w narrowed to w. -/
def packOp (ty : Ty) (sat : Bool) (a b : Word) : Word :=
  let w := ty.width
  let one := fun (x i : Nat) =>
    let e := elem x (2 * w) i
    if !sat then e % 2 ^ w
    else if ty.isS then wrapN (satS w (signExt e (2 * w))) w else wrapN (satZ w e) w
  let n := 32 / w
  ofN (packElems w ((List.range n).map (one a.toNat) ++ (List.range n).map (one b.toNat)))

/-- unpack: elements of width w of one half, extended to 2w. -/
def unpackOp (ty : Ty) (hi : Bool) (a : Word) : Word :=
  let w := ty.width
  let h := if hi then a.toNat / 2 ^ 32 else a.toNat % 2 ^ 32
  ofN (packElems (2 * w) ((List.range (32 / w)).map (fun i => wrapN (readTy ty (elem h w i)) (2 * w))))

/-- swz: each element of D selected from A's elements followed by B's. -/
def swzOp (ty : Ty) (a b c : Word) : Word :=
  let w := ty.width
  let n := 64 / w
  ofN (packElems w ((List.range n).map (fun i =>
    let j := elem c.toNat 4 i
    if j < n then elem a.toNat w j else if j < 2 * n then elem b.toNat w (j - n) else 0)))

/-- dot4 (R208, R274). -/
def dot4Op (ea eb : Ty) (sat : Bool) (a b c : Word) : Word :=
  let t := signExt c.toNat 32 +
    ((List.range 4).map (fun i => readTy ea (elem a.toNat 8 i) * readTy eb (elem b.toNat 8 i))).sum
  ofInt (if sat then satS 32 t else signExt (wrapN t 32) 32)

def execPack (c : Ctl) (o : F3) (s : State) : Out := alu2 (.pack c o) c o (packOp o.ty (bit o.sub.toNat 0)) s
def execUnpack (c : Ctl) (o : F3) (s : State) : Out := alu1 (.unpack c o) c o (unpackOp o.ty (bit o.sub.toNat 0)) s
def execSwz (c : Ctl) (o : F3) (s : State) : Out := alu3 (.swz c o) c o (swzOp o.ty) s
def execDot4 (c : Ctl) (o : F3) (s : State) : Out :=
  alu3 (.dot4 c o) c o (dot4Op (Ty.ofCode (o.sub.toNat / 16)) o.ty (bit o.sub.toNat 0)) s

/-! ## Bit fields and bit matrices (R275 to R279) -/

/-- bfx: the field of l bits at p, extended. -/
def bfxOp (ty : Ty) (a b c : Word) : Word :=
  let w := ty.width
  let p := min (b.toNat % 256) w
  let l := min (c.toNat % 256) w
  let f := wrapN (readTy ty a.toNat / 2 ^ p) l
  if ty.isS then ofInt (signExt f l) else ofN f

/-- bfi: B with its field replaced by the low bits of A. -/
def bfiOp (ty : Ty) (a b c e : Word) : Word :=
  let w := ty.width
  let p := min (c.toNat % 256) w
  let l := min (e.toNat % 256) w
  ofN (mkBits w (fun k => if p ≤ k && k < p + l then a.toNat.testBit (k - p) else b.toNat.testBit k))

/-- bmm8: the product of two 8 by 8 bit matrices. -/
def bmm8Op (orOp : Bool) (a b : Word) : Word :=
  ofN (mkBits 64 (fun n =>
    let hit := (List.range 8).map (fun k => a.toNat.testBit (n / 8 * 8 + k) && b.toNat.testBit (8 * k + n % 8))
    if orOp then hit.any id else hit.foldl xor false))

def pdepOp (ty : Ty) (a b : Word) : Word :=
  let ms := setBits ty.width b.toNat
  ofN (ms.zipIdx.foldl (fun r m => if a.toNat.testBit m.2 then r + 2 ^ m.1 else r) 0)
def pextOp (ty : Ty) (a b : Word) : Word :=
  let ms := setBits ty.width b.toNat
  ofN (ms.zipIdx.foldl (fun r m => if a.toNat.testBit m.1 then r + 2 ^ m.2 else r) 0)

/-- bperm: bit i of D is bit x_i of A. -/
def bpermOp (a : Word) (idx : List Word) : Word :=
  ofN (mkBits 64 (fun i => a.toNat.testBit (idx.zipIdx.foldl (fun r v => if v.1.toNat.testBit i then r + 2 ^ v.2 else r) 0)))

def execBfx (c : Ctl) (o : F3) (s : State) : Out := alu3 (.bfx c o) c o (bfxOp o.ty) s
def execBfi (c : Ctl) (o : F3) (s : State) : Out :=
  isa (.bfi c o) c (fun s x => .adv (s.put x.w x.t o.d
    (bfiOp o.ty (s.src x.w x.t o.a) (s.src x.w x.t o.b) (s.src x.w x.t o.c) (s.src x.w x.t o.e)))) s
def execBmm8 (c : Ctl) (o : F3) (s : State) : Out := alu2 (.bmm8 c o) c o (bmm8Op (bit o.sub.toNat 0)) s
def execPdep (c : Ctl) (o : F3) (s : State) : Out := alu2 (.pdep c o) c o (pdepOp o.ty) s
def execPext (c : Ctl) (o : F3) (s : State) : Out := alu2 (.pext c o) c o (pextOp o.ty) s
def execBperm (c : Ctl) (o : F3) (s : State) : Out :=
  isa (.bperm c o) c (fun s x => .adv (s.put x.w x.t o.d
    (bpermOp (s.src x.w x.t o.a) ((List.range 6).map (fun j => s.src x.w x.t (Opnd.plus o.b j)))))) s

end Sys2Proof.Machine
end

