-- ==== Sys2Proof/Machine/FloatOps.lean ====
section
/-!
DEFINITION. Floating-point arithmetic, comparison, classes and conversions (spec/11_isa_compute.md R280 to R285).
-/

namespace Sys2Proof.Machine

/-- The FP32 immediate in the operation's format (R240); where the format does not hold it, a free value. -/
def immF (ty : Ty) (imm : BitVec 32) : Word :=
  let f := fmtOf ty
  let v := decodeF .f32 imm.toNat
  let r := roundF f .rn v
  if v.isNan || (decodeF f r).eq v then ofN r else ofN (Config.inexactImm ty.code imm.toNat % 2 ^ f.width)

/-- A function of bit patterns on the scalar or, with .pk, on every element (R280). -/
def floatOp (f : Nat → Nat → Nat → Nat) (ty : Ty) (pk : Bool) (a b c : Word) : Word :=
  let w := ty.width
  if pk then
    ofN (packElems w ((List.range (64 / w)).map (fun i => f (elem a.toNat w i) (elem b.toNat w i) (elem c.toNat w i))))
  else ofN (f (a.toNat % 2 ^ w) (b.toNat % 2 ^ w) (c.toNat % 2 ^ w))

/-- The immediate as source B, repeated in every element under .pk (R280). -/
def immPk (ty : Ty) (pk : Bool) (imm : BitVec 32) : Word :=
  let x := immF ty imm
  if pk then ofN (packElems ty.width (List.replicate (64 / ty.width) x.toNat)) else x

def execFadd (c : Ctl) (o : F3) (s : State) : Out :=
  alu2 (.fadd c o) c o
    (fun a b => floatOp (fun x y _ => fAdd (fmtOf o.ty) o.rm x y) o.ty (bit o.sub.toNat 1) a b 0) s
def execFaddImm (c : Ctl) (o : FI) (s : State) : Out :=
  aluI (.faddImm c o) c o (immPk o.ty (bit o.sub.toNat 1) o.imm)
    (fun a b => floatOp (fun x y _ => fAdd (fmtOf o.ty) o.rm x y) o.ty (bit o.sub.toNat 1) a b 0) s
def execFsub (c : Ctl) (o : F3) (s : State) : Out :=
  alu2 (.fsub c o) c o
    (fun a b => floatOp (fun x y _ => fSub (fmtOf o.ty) o.rm x y) o.ty (bit o.sub.toNat 1) a b 0) s
def execFsubImm (c : Ctl) (o : FI) (s : State) : Out :=
  aluI (.fsubImm c o) c o (immPk o.ty (bit o.sub.toNat 1) o.imm)
    (fun a b => floatOp (fun x y _ => fSub (fmtOf o.ty) o.rm x y) o.ty (bit o.sub.toNat 1) a b 0) s
def execFmul (c : Ctl) (o : F3) (s : State) : Out :=
  alu2 (.fmul c o) c o
    (fun a b => floatOp (fun x y _ => fMul (fmtOf o.ty) o.rm x y) o.ty (bit o.sub.toNat 1) a b 0) s
def execFmulImm (c : Ctl) (o : FI) (s : State) : Out :=
  aluI (.fmulImm c o) c o (immPk o.ty (bit o.sub.toNat 1) o.imm)
    (fun a b => floatOp (fun x y _ => fMul (fmtOf o.ty) o.rm x y) o.ty (bit o.sub.toNat 1) a b 0) s
def execFfma (c : Ctl) (o : F3) (s : State) : Out :=
  alu3 (.ffma c o) c o (floatOp (fFma (fmtOf o.ty) o.rm) o.ty (bit o.sub.toNat 1)) s
def execFmin (c : Ctl) (o : F3) (s : State) : Out :=
  alu2 (.fmin c o) c o (fun a b => floatOp (fun x y _ => fMin (fmtOf o.ty) x y) o.ty (bit o.sub.toNat 1) a b 0) s
def execFminImm (c : Ctl) (o : FI) (s : State) : Out :=
  aluI (.fminImm c o) c o (immPk o.ty (bit o.sub.toNat 1) o.imm)
    (fun a b => floatOp (fun x y _ => fMin (fmtOf o.ty) x y) o.ty (bit o.sub.toNat 1) a b 0) s
def execFmax (c : Ctl) (o : F3) (s : State) : Out :=
  alu2 (.fmax c o) c o (fun a b => floatOp (fun x y _ => fMax (fmtOf o.ty) x y) o.ty (bit o.sub.toNat 1) a b 0) s
def execFmaxImm (c : Ctl) (o : FI) (s : State) : Out :=
  aluI (.fmaxImm c o) c o (immPk o.ty (bit o.sub.toNat 1) o.imm)
    (fun a b => floatOp (fun x y _ => fMax (fmtOf o.ty) x y) o.ty (bit o.sub.toNat 1) a b 0) s

/-- fdot2: a0·b0 + a1·b1 + c rounded once to FP32 (R281). -/
def fdot2Op (src : Ty) (mode : RM) (a b c : Word) : Word :=
  let f := fmtOf src
  let p := fun i => (decodeF f (elem a.toNat 16 i)).mul (decodeF f (elem b.toNat 16 i))
  ofN (roundF .f32 mode (((p 0).add mode (p 1)).add mode (decodeF .f32 c.toNat)))

/-- fcmp (R282). -/
def fcmpOp (ty : Ty) (cc : Nat) (a b : Word) : Bool :=
  condF cc (decodeF (fmtOf ty) a.toNat) (decodeF (fmtOf ty) b.toNat)

/-- cvt (R214, R285). .sf limits a narrowing conversion; FP16 to BF16 and back count as narrowing. DEDUCED (notes/assumptions/97.md): it
limits none from an integer, which R214 does not name beside .sf. -/
def cvtOp (src dst : Ty) (mode : RM) (lim : Bool) (a : Word) : Word :=
  let x := a.toNat % 2 ^ src.width
  if src.isF then
    if dst.isF then ofN (fConv (fmtOf src) (fmtOf dst) mode (lim && decide (dst.width ≤ src.width)) x) else widen dst (wrapN (fToInt (fmtOf src) mode dst x) dst.width)
  else
    let v := readTy src x
    if dst.isF then ofN (roundF (fmtOf dst) mode (FP.ofInt v))
    else widen dst (narrow dst lim v)

def execFcmp (c : Ctl) (o : F3) (s : State) : Out :=
  isa (.fcmp c o) c (fun s x => .adv (putBool s x o.d o.pd.val
    (fcmpOp o.ty (o.sub.toNat % 8) (s.src x.w x.t o.a) (s.src x.w x.t o.b)))) s
def execFcmpImm (c : Ctl) (o : FI) (s : State) : Out :=
  isa (.fcmpImm c o) c (fun s x => .adv (putBool s x o.d o.pd.val
    (fcmpOp o.ty (o.sub.toNat % 8) (s.src x.w x.t o.a) (immF o.ty o.imm)))) s
def execFclass (c : Ctl) (o : F3) (s : State) : Out :=
  isa (.fclass c o) c (fun s x =>
    let k := fClass (fmtOf o.ty) (s.src x.w x.t o.a).toNat
    let m := (s.src x.w x.t o.b).toNat % 512
    .adv ((s.putPred x.w x.ts o.pd.val ((k &&& m) != 0)).put x.w x.t o.d (ofN k))) s
def execFrnd (c : Ctl) (o : F3) (s : State) : Out :=
  alu1 (.frnd c o) c o (fun a => ofN (fRound (fmtOf o.ty) o.rm (a.toNat % 2 ^ o.ty.width))) s
def execCvt (c : Ctl) (o : F3) (s : State) : Out :=
  alu1 (.cvt c o) c o (cvtOp o.ty (Ty.ofCode (o.sub.toNat / 16)) o.rm (bit o.sub.toNat 0)) s
def execFdot2 (c : Ctl) (o : F3) (s : State) : Out :=
  alu3 (.fdot2 c o) c o (fdot2Op (Ty.ofCode (o.sub.toNat / 16)) o.rm) s

end Sys2Proof.Machine
end

