-- ==== Sys2Proof/Machine/Special.lean ====
section
/-!
DEFINITION. Special functions (spec/09_numbers.md R217, R218; spec/11_isa_compute.md R286): enclosures of the exact value
in fixed point, sharpened until the rounding is decided; correctly rounded in the 16-bit formats, one of the two
neighbours (a free choice per argument) in FP32 and FP64.
-/

namespace Sys2Proof.Machine

/-- floor(m · 2^(e+q)). -/
def fx (q m : Nat) (e : Int) : Nat := if 0 ≤ e + q then m * 2 ^ (e + q).toNat else m / 2 ^ (-(e + q)).toNat

/-- Terms taken of a series at precision q. -/
def seriesLen (q : Nat) : Nat := q / 3 + 60

/-- Σ t^k/k! from a term on. -/
def expSum (q t : Nat) : Nat → Nat → Nat → Nat
  | 0, _, _ => 0
  | n + 1, k, x => x + expSum q t n (k + 1) (x * t / 2 ^ q / (k + 1))

/-- Σ ±z^(2k+1)/(2k+1) from a term on, with alternating signs for the arc tangent. -/
def oddSum (alt : Bool) (q z2 : Nat) : Nat → Nat → Nat → Int
  | 0, _, _ => 0
  | n + 1, k, x => (if alt && k % 2 == 1 then -((x / (2 * k + 1) : Nat) : Int) else ((x / (2 * k + 1) : Nat) : Int)) +
      oddSum alt q z2 n (k + 1) (x * z2 / 2 ^ q)

/-- Σ (−1)^k t^(j+2k)/(j+2k)! from a term on. -/
def trigSum (q t2 : Nat) : Nat → Nat → Nat → Int
  | 0, _, _ => 0
  | n + 1, j, x => (x : Int) - trigSum q t2 n (j + 2) (x * t2 / 2 ^ q / ((j + 1) * (j + 2)))

/-- Σ (−1)^k x^(2k+1)/(k!(2k+1)) from a term on. -/
def erfSum (q x2 : Nat) : Nat → Nat → Nat → Int
  | 0, _, _ => 0
  | n + 1, k, x => ((x / (2 * k + 1) : Nat) : Int) - erfSum q x2 n (k + 1) (x * x2 / 2 ^ q / (k + 1))

/-- ln 2 and π at precision q. -/
def ln2Fix (q : Nat) : Nat := (2 * oddSum false q (2 ^ q / 9) (seriesLen q) 0 (2 ^ q / 3)).toNat
def piFix (q : Nat) : Nat :=
  (16 * oddSum true q (2 ^ q / 25) (seriesLen q) 0 (2 ^ q / 5) -
    4 * oddSum true q (2 ^ q / 57121) (seriesLen q) 0 (2 ^ q / 239)).toNat

/-- ln(v/2^q) for positive v. -/
def lnFix (q v : Nat) : Int :=
  let l := Nat.log2 v
  let m := fx q v (-(l : Int))
  let z := (m - 2 ^ q) * 2 ^ q / (m + 2 ^ q)
  2 * oddSum false q (z * z / 2 ^ q) (seriesLen q) 0 z + ((l : Int) - q) * ln2Fix q

/-- e^(−z/2^q). -/
def expNeg (q z : Nat) : Nat :=
  let k := z / ln2Fix q + 1
  expSum q (k * ln2Fix q - z) (seriesLen q) 0 (2 ^ q) / 2 ^ k

/-- An enclosure: low and high integers and the exponent of their unit. -/
abbrev Encl := Int × Int × Int

/-- A value at precision q, within 2^−p. -/
def around (q p : Nat) (x : Int) : Encl := (x - (2 ^ (q - p) : Nat), x + (2 ^ (q - p) : Nat), -(q : Int))

/-- Codes of the functions, as OPC − 0x08B. -/
def fnExp2 : Nat := 0
def fnLog2 : Nat := 1
def fnRcp : Nat := 2
def fnRsqrt : Nat := 3
def fnSin : Nat := 5
def fnCos : Nat := 6
def fnTanh : Nat := 7
def fnSigm : Nat := 8
def fnErf : Nat := 9

/-- exp2 of ±m·2^e. -/
def encExp2 (p : Nat) (s : Bool) (m : Nat) (e : Int) : Encl :=
  if decide (10 < e + Nat.log2 m) then (if s then (1, 1, -1200) else (1, 1, 1200))
  else
    let q := p + 64
    let i := roundInt .rd s m e
    let f := (if s then -(fx q m e : Int) - (if 0 ≤ e + q then 0 else 1) else (fx q m e : Int)) - i * (2 ^ q : Nat)
    let (lo, hi, x) := around q p (expSum q (f.toNat * ln2Fix q / 2 ^ q) (seriesLen q) 0 (2 ^ q))
    (lo, hi, x + i)

/-- log2 of m·2^e. -/
def encLog2 (p m : Nat) (e : Int) : Encl :=
  let q := p + 64
  let l := Nat.log2 m
  let v := fx q m (-(l : Int))
  around q p (lnFix q v * (2 ^ q : Nat) / ln2Fix q + (e + l) * (2 ^ q : Nat))

/-- sin or cos of m·2^e. -/
def encTrig (cosine : Bool) (p m : Nat) (e : Int) : Encl :=
  let q := p + 224
  let h := piFix q / 2
  let x := fx q m e
  let k := x / h
  let r := x % h
  let r2 := r * r / 2 ^ q
  let sn := trigSum q r2 (seriesLen q) 1 r
  let cs := trigSum q r2 (seriesLen q) 0 (2 ^ q)
  around q p (match (k + (if cosine then 1 else 0)) % 4 with
    | 0 => sn
    | 1 => cs
    | 2 => -sn
    | _ => -cs)

/-- tanh of m·2^e. -/
def encTanh (p m : Nat) (e : Int) : Encl :=
  if decide (6 < e + Nat.log2 m) then ((2 ^ 100 : Nat) - 2, (2 ^ 100 : Nat) - 1, -100)
  else
    let q := p + 64
    let x := expNeg q (2 * fx q m e)
    around q p ((((2 ^ q : Nat) : Int) - x) * (2 ^ q : Nat) / ((2 ^ q : Nat) + x))

/-- The logistic function of ±m·2^e. -/
def encSigm (p : Nat) (s : Bool) (m : Nat) (e : Int) : Encl :=
  if decide (6 < e + Nat.log2 m) then (if s then (1, 1, -400) else ((2 ^ 100 : Nat) - 2, (2 ^ 100 : Nat) - 1, -100))
  else
    let q := p + 64
    let x := expNeg q (fx q m e)
    around q p (if s then (x * 2 ^ q / (2 ^ q + x) : Nat) else (2 ^ q * 2 ^ q / (2 ^ q + x) : Nat))

/-- erf of m·2^e. -/
def encErf (p m : Nat) (e : Int) : Encl :=
  if decide (2 ≤ e + Nat.log2 m) then ((2 ^ 100 : Nat) - 2 ^ 75, (2 ^ 100 : Nat) - 1, -100)
  else
    let q := p + 64
    let x := fx q m e
    let r := erfSum q (x * x / 2 ^ q) (seriesLen q) 0 x
    around q p (r * 2 * (2 ^ q : Nat) / isqrt (piFix q * 2 ^ q))

/-- The enclosure of a function at ±m·2^e; odd functions take the sign apart. -/
def encl (fn p : Nat) (s : Bool) (m : Nat) (e : Int) : Encl :=
  if fn = fnExp2 then encExp2 p s m e
  else if fn = fnLog2 then encLog2 p m e
  else if fn = fnSin then encTrig false p m e
  else if fn = fnCos then encTrig true p m e
  else if fn = fnTanh then encTanh p m e
  else if fn = fnSigm then encSigm p s m e
  else encErf p m e

/-- Round an end of an enclosure. -/
def roundEnd (f : Fmt) (mode : RM) (x e : Int) : Nat := roundF f mode (.fin (decide (x < 0)) x.natAbs e)

/-- The bits on which both ends of an enclosure agree, at rising precision. -/
def decideRound (f : Fmt) (mode : RM) (g : Nat → Encl) : List Nat → Nat
  | [] => 0
  | p :: ps =>
    let (lo, hi, e) := g p
    let a := roundEnd f mode lo e
    if ps.isEmpty || (a == roundEnd f mode hi e && (decide (0 < lo) || decide (hi < 0))) then a else decideRound f mode g ps

/-- The precisions tried. -/
def precisions : List Nat := [64, 200, 700]

/-- Correct rounding applies (R217). -/
def Fmt.small (f : Fmt) : Bool := f.width == 16

/-- Correctly rounded, or one of the two neighbours of an exact value (R217). -/
def faithful (f : Fmt) (fn arg : Nat) (v : FP) : Nat :=
  if f.small then roundF f .rn v
  else
    let lo := roundF f .rz v
    let hi := roundF f (if v.sign then .rd else .ru) v
    if Config.roundUpwards fn f.width arg then hi else lo

/-- The same for a value known by its enclosures, which no number of the format equals. -/
def faithfulE (f : Fmt) (fn arg : Nat) (g : Nat → Encl) : Nat :=
  if f.small then decideRound f .rn g precisions
  else
    let lo := decideRound f .rz g precisions
    if Config.roundUpwards fn f.width arg then lo + 1 else lo

/-- 1/sqrt(m·2^e), with a sticky bit below its floor. -/
def rsqrtV (m : Nat) (e : Int) : FP :=
  let (m, e) := if e % 2 = 0 then (m, e) else (2 * m, e - 1)
  let k := 120 + Nat.log2 m
  let r := isqrt (2 ^ (2 * k) / m)
  .fin false (2 * r + (if r * r * m = 2 ^ (2 * k) then 0 else 1)) (-(k : Int) - 1 - e / 2)

/-- The bits of ±one, ±0 or ±∞. -/
def oneBits (f : Fmt) : Nat := f.bias * 2 ^ f.fw
def signed (f : Fmt) (s : Bool) (x : Nat) : Nat := if s then f.signBit + x else x

/-- Results for infinite arguments and zeros (R217). -/
def specialArg (f : Fmt) (fn : Nat) (s : Bool) (isInf : Bool) : Nat :=
  let half := (f.bias - 1) * 2 ^ f.fw
  if isInf then
    (if fn = fnExp2 then (if s then 0 else f.infBits)
    else if fn = fnLog2 then (if s then f.nanBits else f.infBits)
    else if fn = fnRcp then signed f s 0
    else if fn = fnRsqrt then (if s then f.nanBits else 0)
    else if fn = fnSin then f.nanBits
    else if fn = fnCos then f.nanBits
    else if fn = fnSigm then (if s then 0 else oneBits f)
    else signed f s (oneBits f))
  else
    (if fn = fnExp2 then oneBits f
    else if fn = fnLog2 then f.signBit + f.infBits
    else if fn = fnRcp then signed f s f.infBits
    else if fn = fnRsqrt then signed f s f.infBits
    else if fn = fnCos then oneBits f
    else if fn = fnSigm then half
    else signed f s 0)

/-- A special function other than sqrt on a bit pattern (R217). -/
def specialFn (f : Fmt) (fn x : Nat) : Nat :=
  match decodeF f x with
  | .nan => f.nanBits
  | .inf s => specialArg f fn s true
  | .fin s m e =>
    if m = 0 then specialArg f fn s false
    else if fn = fnRcp then
      (if f.small then roundQ f .rn s (2 ^ (max 0 (-e)).toNat) (m * 2 ^ (max 0 e).toNat)
      else
        let lo := roundQ f .rz s (2 ^ (max 0 (-e)).toNat) (m * 2 ^ (max 0 e).toNat)
        let hi := roundQ f (if s then .rd else .ru) s (2 ^ (max 0 (-e)).toNat) (m * 2 ^ (max 0 e).toNat)
        if Config.roundUpwards fn f.width x then hi else lo)
    else if (fn = fnRsqrt || fn = fnLog2) && s then f.nanBits
    else if fn = fnRsqrt then faithful f fn x (rsqrtV m e)
    else if fn = fnLog2 && m == 2 ^ Nat.log2 m then roundF f .rn (FP.ofInt (e + Nat.log2 m))
    else if fn = fnExp2 && decide (e + Nat.log2 m ≤ 12) && roundInt .rd s m e == roundInt .ru s m e then
      faithful f fn x (.fin false 1 (roundInt .rd s m e))
    else
      let odd := fn == fnSin || fn == fnTanh || fn == fnErf
      signed f (odd && s && true) (faithfulE f fn x (encl fn · s m e)) % (2 * f.signBit)

/-- The result of an instruction of R286 in its format; SQRT takes the mode. -/
def specialOp (fn : Nat) (fmt : Fin 16) (a : Word) : Word :=
  let f := [Fmt.f32, Fmt.f16, Fmt.bf16, Fmt.f64].getD fmt.val Fmt.f32
  ofN (specialFn f fn (a.toNat % 2 ^ f.width))

def execExp2 (c : Ctl) (fn : Fin 16) (o : F3) (s : State) : Out := alu1 (.exp2 c fn o) c o (specialOp fnExp2 fn) s
def execLog2 (c : Ctl) (fn : Fin 16) (o : F3) (s : State) : Out := alu1 (.log2 c fn o) c o (specialOp fnLog2 fn) s
def execRcp (c : Ctl) (fn : Fin 16) (o : F3) (s : State) : Out := alu1 (.rcp c fn o) c o (specialOp fnRcp fn) s
def execRsqrt (c : Ctl) (fn : Fin 16) (o : F3) (s : State) : Out := alu1 (.rsqrt c fn o) c o (specialOp fnRsqrt fn) s
def execSqrt (c : Ctl) (fn : Fin 16) (o : F3) (s : State) : Out :=
  alu1 (.sqrt c fn o) c o (fun a =>
    let f := [Fmt.f32, Fmt.f16, Fmt.bf16, Fmt.f64].getD fn.val Fmt.f32
    ofN (fSqrt f o.rm (a.toNat % 2 ^ f.width))) s
def execSin (c : Ctl) (fn : Fin 16) (o : F3) (s : State) : Out := alu1 (.sin c fn o) c o (specialOp fnSin fn) s
def execCos (c : Ctl) (fn : Fin 16) (o : F3) (s : State) : Out := alu1 (.cos c fn o) c o (specialOp fnCos fn) s
def execTanh (c : Ctl) (fn : Fin 16) (o : F3) (s : State) : Out := alu1 (.tanh c fn o) c o (specialOp fnTanh fn) s
def execSigm (c : Ctl) (fn : Fin 16) (o : F3) (s : State) : Out := alu1 (.sigm c fn o) c o (specialOp fnSigm fn) s
def execErf (c : Ctl) (fn : Fin 16) (o : F3) (s : State) : Out := alu1 (.erf c fn o) c o (specialOp fnErf fn) s

end Sys2Proof.Machine
end

