-- ==== Sys2Proof/Machine/LogDomain.lean ====
section
/-!
DEFINITION. The log-domain unit (spec/09_numbers.md R227 to R229): its 32-bit words, conversions in and out, its operations
with saturation, and the functions that it gives the epilogue engine and gmax (spec/14_isa_matrix.md R383;
spec/11_isa_compute.md R296).
-/

namespace Sys2Proof.Machine

/-! ## Log words (R227) -/

/-- A word: S in bit 31, LG in bits 30 to 0. -/
abbrev LogWord := BitVec 32

def LogWord.s (w : LogWord) : Bool := w.getLsbD 31
def LogWord.lg (w : LogWord) : Int := signExt w.toNat 31
def logZero : LogWord := 0x4000_0000
def logNan : LogWord := 0xC000_0000
def logInf (s : Bool) : LogWord := if s then 0xBFFF_FFFF else 0x3FFF_FFFF
def LogWord.isZero (w : LogWord) : Bool := w == logZero
def LogWord.isNan (w : LogWord) : Bool := w == logNan
def LogWord.isInf (w : LogWord) : Bool := w.lg == 2 ^ 30 - 1

/-- The word of a sign and an exact logarithm in 2^-23, saturated as an operation does (R228). -/
def satLog (s : Bool) (lg : Int) : LogWord :=
  if 2 ^ 30 - 1 ≤ lg then logInf s
  else if lg ≤ -(2 ^ 30) then logZero
  else BitVec.ofNat 32 ((if s then 2 ^ 31 else 0) + wrapN lg 31)

/-! ## Conversions (R228) -/

/-- RNE(log2(m·2^e) · 2^23), for a positive m. -/
def log2Round (m : Nat) (e : Int) : Int :=
  if m == 2 ^ Nat.log2 m then (e + Nat.log2 m) * 2 ^ 23 else go precisions
where
  /-- Both ends of an enclosure at rising precision, until they round alike. -/
  go : List Nat → Int
    | [] => 0
    | p :: ps =>
      let g := encLog2 p m e
      let a := roundInt .rn (decide (g.1 < 0)) g.1.natAbs (g.2.2 + 23)
      if ps.isEmpty || a == roundInt .rn (decide (g.2.1 < 0)) g.2.1.natAbs (g.2.2 + 23) then a else go ps

/-- Into the log domain. -/
def logIn : FP → LogWord
  | .nan => logNan
  | .inf s => logInf s
  | .fin s m e => if m = 0 then logZero else satLog s (min (log2Round m e) (2 ^ 30 - 2))

/-- The word of 6.0 times itself, which converts to exactly 36.0 (R228's example). -/
def squareOf6 : LogWord := 0x295_C01A

/-- Out of the log domain, to FP32: faithful (R217), subnormals included. No finite word lies above the FP32 range. -/
def logOut (w : LogWord) : Nat :=
  let f := Fmt.f32
  if w.isNan then f.nanBits
  else if w.isZero then 0
  else if w.isInf then signed f w.s f.infBits
  else if w.lg % 2 ^ 23 = 0 then roundF f .rn (.fin w.s 1 (w.lg / 2 ^ 23))
  else if w == squareOf6 then 0x4210_0000
  else signed f w.s (faithfulE f 16 (w.toNat % 2 ^ 31) (fun p => encExp2 p (decide (w.lg < 0)) w.lg.natAbs (-23)))

/-! ## Operations (R228) -/

def logMul (a b : LogWord) : LogWord :=
  if a.isNan || b.isNan || (a.isZero && b.isInf) || (a.isInf && b.isZero) then logNan
  else if a.isZero || b.isZero then logZero
  else if a.isInf || b.isInf then logInf (a.s != b.s)
  else satLog (a.s != b.s) (a.lg + b.lg)

def logDiv (a b : LogWord) : LogWord :=
  if a.isNan || b.isNan || (a.isZero && b.isZero) || (a.isInf && b.isInf) then logNan
  else if a.isInf || b.isZero then logInf (a.s != b.s)
  else if a.isZero || b.isInf then logZero
  else satLog (a.s != b.s) (a.lg - b.lg)

/-- What the unit gives where R228 states no result: a root or power of an infinity, a power of zero or with an infinite
exponent. -/
def logOpen (op : Nat) (a b : Nat) : LogWord := BitVec.ofNat 32 (Config.logPick (32 + op) a b)

def logSqrt (a : LogWord) : LogWord :=
  if a.isNan then logNan
  else if a.isZero then logZero
  else if a.s then logNan
  else if a.isInf then logOpen 0 a.toNat 0
  else satLog false (roundInt .rn (decide (a.lg < 0)) a.lg.natAbs (-1))

def logRsqrt (a : LogWord) : LogWord :=
  if a.isNan then logNan
  else if a.isZero then logInf false
  else if a.s then logNan
  else if a.isInf then logOpen 1 a.toNat 0
  else satLog false (roundInt .rn (decide (0 < a.lg)) a.lg.natAbs (-1))

/-- Power by an FP32 exponent. -/
def logPow (a : LogWord) (p : Nat) : LogWord :=
  match decodeF .f32 p with
  | .nan => logNan
  | .inf _ => if a.isNan || (a.s && !a.isZero) then logNan else logOpen 2 a.toNat p
  | .fin s m e =>
    if a.isNan || (a.s && !a.isZero) then logNan
    else if a.isZero || a.isInf then logOpen 2 a.toNat p
    else satLog false (roundInt .rn (decide (a.lg < 0) != s) (a.lg.natAbs * m) e)

/-! ## Functions within the bounds of R229 -/

/-- An integer times a power of 2. -/
def FP.scaled (x e : Int) : FP := .fin (decide (x < 0)) x.natAbs e

/-- The word nearest to the value that an enclosure gives. -/
def logNear (g : Encl) : LogWord := logIn (FP.scaled (g.1 + g.2.1) (g.2.2 - 1))

/-- The error that an exact result may carry: what a function's row gives, and 2^-125 below the FP32 normal range. -/
def logErr (g : Encl) (err : FP) : FP :=
  if FP.lt (FP.scaled (max g.1.natAbs g.2.1.natAbs) g.2.2) (.fin false 1 (-126)) then .fin false 1 (-125) else err

/-- The FP32 result of a function of the unit: some word, which the device picks, whose conversion lies within the bound of the
exact value; the nearest word where its pick does not. -/
def pickLog (fn a b : Nat) (g : Encl) (err : FP) : Nat :=
  let err := logErr g err
  let lo := (FP.scaled g.1 g.2.2).add .rn err.neg
  let hi := (FP.scaled g.2.1 g.2.2).add .rn err
  let r := logOut (BitVec.ofNat 32 (Config.logPick fn a b))
  let v := decodeF .f32 r
  if v.isNan || FP.lt v lo || FP.lt hi v then logOut (logNear g) else r

/-- exp2 of an FP32 value within 2 ULP (R229). -/
def logExp2 (x : Nat) : Nat :=
  match decodeF .f32 x with
  | .nan => Fmt.f32.nanBits
  | .inf s => if s then 0 else Fmt.f32.infBits
  | .fin s m e =>
    if m = 0 then pickLog 1 x 0 (1, 1, 0) (.fin false 1 (-22))
    else if !s && decide (7 ≤ e + Nat.log2 m) then Fmt.f32.infBits
    else
      let g := encExp2 128 s m e
      pickLog 1 x 0 g (.fin false 1 ((Nat.log2 g.1.toNat : Int) + g.2.2 - 22))

/-- The Gumbel transform −ln(−ln u) of u = (2d + 1)/2^25 within 2^−18 of the exact one (R229, R296). -/
def gumbel (d : Nat) : Nat :=
  let q := 128
  let l := (-(lnFix q ((2 * d + 1) * 2 ^ (q - 25)))).toNat
  pickLog 0 d 0 (-(lnFix q l), -(lnFix q l), -(q : Int)) (.fin false 1 (-18))

/-- e^(±m·2^e) for an exponent below 128 in magnitude. -/
def encExp (q : Nat) (s : Bool) (m : Nat) (e : Int) : Encl :=
  let x := fx q m e
  if s then let v := expNeg q x; ((v : Int) - 2 ^ 40, (v : Int) + 2 ^ 40, -(q : Int))
  else
    let k := x / ln2Fix q
    let v := expSum q (x - k * ln2Fix q) (seriesLen q) 0 (2 ^ q)
    ((v : Int) - 2 ^ 40, (v : Int) + 2 ^ 40, (k : Int) - q)

/-- tanh of the inner value of GELU at m·2^e, at precision q. -/
def geluTanh (q m : Nat) (e : Int) : Nat :=
  let c := isqrt (2 ^ (3 * q + 1) / piFix q)
  let x := fx q m e
  let u := c * (x + x * x / 2 ^ q * x / 2 ^ q * 44715 / 1000000) / 2 ^ q
  let t := expNeg q (2 * u)
  (2 ^ q - t) * 2 ^ q / (2 ^ q + t)

/-- Act(t) for codes 2 to 6 of R382 on an exact value, from enclosures narrow enough to tell which results lie below the normal range:
tanh of a value of at most 2^-126 does, and GELU of one at or below -32; arg names the value for the device's choice. R229 states no result of
x·logistic(x) and of GELU at −∞. -/
def activate (act arg : Nat) (t : FP) : Nat :=
  let f := Fmt.f32
  let unit : FP := .fin false 1 (-21)
  match t with
  | .nan => f.nanBits
  | .inf s =>
    (match act with
    | 2 => pickLog act arg 0 (if s then (0, 0, 0) else (1, 1, 0)) unit
    | 3 => pickLog act arg 0 (if s then (-1, -1, 0) else (1, 1, 0)) unit
    | 6 => if s then pickLog act arg 0 (0, 0, 0) unit else f.infBits
    | _ => if s then logOut (logOpen 3 act arg) else f.infBits)
  | .fin s m e =>
    let mag : FP := .fin false m e
    let wide := if FP.lt (.fin false 1 0) mag then (FP.fin false 1 (-21)).mul mag else unit
    (match act with
    | 2 => pickLog act arg 0 (if m = 0 then (1, 1, -1) else encSigm 256 s m e) unit
    | 3 =>
      let g := if m = 0 then (0, 0, 0)
        else if FP.lt (.fin false 1 (-126)) mag then encTanh 64 m e
        else ((m : Int) * 2 ^ 300 - 1, (m : Int) * 2 ^ 300 - 1, e - 300)
      pickLog act arg 0 (if s then (-g.2.1, -g.1, g.2.2) else g) unit
    | 4 =>
      let g := if m = 0 then (0, 0, 0) else encSigm 256 s m e
      pickLog act arg 0 (if s then (-((m : Int) * g.2.1), -((m : Int) * g.1), g.2.2 + e)
        else ((m : Int) * g.1, (m : Int) * g.2.1, g.2.2 + e)) wide
    | 5 =>
      let q := 200
      let th : Nat := if decide (4 < e + Nat.log2 m) then 2 ^ q else geluTanh q m e
      let g : Int := (m : Int) * (if s then (2 ^ q : Nat) - (th : Int) else (2 ^ q : Nat) + (th : Int))
      let d := (m : Int) * 2 ^ 60
      pickLog act arg 0 (if s && decide (4 < e + Nat.log2 m) then (-1, 0, -1000)
        else if s then (-g - d, -g + d, e - 1 - q) else (g - d, g + d, e - 1 - q)) wide
    | _ =>
      if m = 0 then pickLog act arg 0 (1, 1, 0) (.fin false 1 (-22))
      else if decide (7 ≤ e + Nat.log2 m) then (if s then pickLog act arg 0 (0, 0, 0) unit else f.infBits)
      else
        let g := encExp 256 s m e
        let top := (Nat.log2 g.1.toNat : Int) + g.2.2
        if (128 : Int) ≤ top then f.infBits else pickLog act arg 0 g (.fin false 1 (top - 22)))

end Sys2Proof.Machine
end

