-- ==== Sys2Proof/Machine/Lanes.lean ====
section
/-!
DEFINITION. Lane and team instructions, random numbers, sampling and quantisation (spec/11_isa_compute.md R287 to R298,
spec/09_numbers.md R216, R222, R226). A gathered set is one bundle; every operand is read before any member writes.
-/

namespace Sys2Proof.Machine

/-! ## Contributors (R287) -/

/-- Threads of the bundle with a true guard: the gathered set holds the members that the mask names and that are not
absent (R162). -/
def State.contributors (s : State) (c : Ctl) : List Nat :=
  match s.cur with
  | some u => u.tids.filter (fun t => ((s.thread u.wg t).map (fun th => th.guard c)).getD false)
  | none => []

/-- The contributor in a lane. -/
def inLane (ts : List Nat) (lane : Nat) : Option Nat := ts.find? (fun t => t % 32 == lane)

/-- The mask of the lanes of some threads. -/
def lanesOf (ts : List Nat) : Nat := mkBits 32 (fun j => ts.any (fun t => t % 32 == j))

/-! ## shfl (R288) -/

/-- Source lane (out of 0 to 31 for none) and element of element e. -/
def shflSource (mode n lane e : Nat) (b : Word) : Int × Nat :=
  match mode with
  | 0 => let x := elem b.toNat 8 e; (((x % 32 : Nat) : Int), x / 32 % n)
  | 1 => ((lane : Int) + b.toInt, e)
  | 2 => (((lane ^^^ (b.toNat % 32) : Nat) : Int), e)
  | _ => (((lane : Int) + b.toInt) % 32, e)

/-- Elements of D and whether all of them were found. -/
def shflOp (s : State) (w : Nat) (ts : List Nat) (t mode : Nat) (ty : Ty) (a b : Opnd) : Word × Bool :=
  let n := 64 / ty.width
  let own := (s.src w t a).toNat
  let es := (List.range n).map (fun e =>
    let (src, se) := shflSource mode n (t % 32) e (s.src w t b)
    match (if 0 ≤ src && src < 32 then inLane ts src.toNat else none) with
    | some u => (elem (s.src w u a).toNat ty.width se, true)
    | none => (elem own ty.width e, false))
  (ofN (packElems ty.width (es.map (·.1))), es.all (·.2))

def execShfl (c : Ctl) (o : F3) (s : State) : Out :=
  isa (.shfl c o) c (fun s' x =>
    let r := shflOp s x.w (s.contributors c) x.t (o.sub.toNat % 4) o.ty o.a o.b
    .adv ((s'.putPred x.w x.ts o.pd.val r.2).put x.w x.t o.d r.1)) s

/-! ## vote, match (R289, R290) -/

/-- The outcome of a mode over the contributors and those whose source is true. -/
def voteOp (mode n v : Nat) : Bool :=
  match mode with
  | 0 => v == n
  | 1 => v != 0
  | 2 => v == 0 || v == n
  | _ => v == 0

/-- vote with a test of a thread's source. -/
def voteBy (s : State) (c : Ctl) (x : Ctx) (mode : Nat) (d : Opnd) (pd : Nat) (src : Nat → Bool) (s' : State) : Act :=
  let ts := s.contributors c
  let v := ts.filter src
  .adv ((s'.putPred x.w x.ts pd (voteOp mode ts.length v.length)).put x.w x.t d (ofN (lanesOf v)))

def execVote (c : Ctl) (o : F3) (s : State) : Out :=
  isa (.vote c o) c (fun s' x => voteBy s c x (o.sub.toNat / 16 % 4) o.d o.pd.val
    (fun t => s.src x.w t o.a != 0 && ((s.thread x.w t).map (fun th => th.pred (o.sub.toNat % 16))).getD false) s') s
def execVoteImm (c : Ctl) (o : FI) (s : State) : Out :=
  isa (.voteImm c o) c (fun s' x => voteBy s c x (o.sub.toNat % 4) o.d o.pd.val (fun t => s.src x.w t o.a != 0) s') s

def execMatchT (c : Ctl) (o : F3) (s : State) : Out :=
  isa (.matchT c o) c (fun s' x =>
    let ts := s.contributors c
    let key := fun (t : Nat) => (s.src x.w t o.a).toNat % 2 ^ o.ty.width
    let same := ts.filter (fun t => key t == key x.t)
    .adv ((s'.putPred x.w x.ts o.pd.val (same.length == ts.length)).put x.w x.t o.d (ofN (lanesOf same)))) s

/-! ## Reductions and scans (R216, R291, R292) -/

/-- Combine two operands, as w-bit patterns. -/
def combOp (op : Nat) (ty : Ty) (a b : Nat) : Nat :=
  let pickMin := decide (readTy ty a ≤ readTy ty b)
  match op with
  | 0 => if ty.isF then fAdd (fmtOf ty) .rn a b else (a + b) % 2 ^ ty.width
  | 1 => if ty.isF then fMin (fmtOf ty) a b else if pickMin then a else b
  | 2 => if ty.isF then fMax (fmtOf ty) a b else if pickMin then b else a
  | 3 => a &&& b
  | 4 => a ||| b
  | _ => a ^^^ b

/-- Comb with ABSENT operands (R216). -/
def combAbs (op : Nat) (ty : Ty) : Option Nat → Option Nat → Option Nat
  | none, b => b
  | a, none => a
  | some a, some b => some (combOp op ty a b)

/-- One level of the tree. -/
def treeLevel (op : Nat) (ty : Ty) : List (Option Nat) → List (Option Nat)
  | a :: b :: t => combAbs op ty a b :: treeLevel op ty t
  | t => t

/-- n levels of the tree. -/
def tree (op : Nat) (ty : Ty) : Nat → List (Option Nat) → List (Option Nat)
  | 0, l => l
  | n + 1, l => tree op ty n (treeLevel op ty l)

/-- Operands by lane, ABSENT where no contributor stands. -/
def laneOperands (s : State) (w : Nat) (ts : List Nat) (a : Opnd) (ty : Ty) : List (Option Nat) :=
  (List.range 32).map (fun j => (inLane ts j).map (fun t => (s.src w t a).toNat % 2 ^ ty.width))

/-- A NaN that an operation returns is the canonical one, also where it took part in no sum (R210). -/
def canonNan (ty : Ty) (x : Nat) : Nat :=
  if ty.isF && (decodeF (fmtOf ty) x).isNan then (fmtOf ty).nanBits else x

/-- A reduction over all lanes: the fixed tree. -/
def reduceOp (s : State) (w : Nat) (ts : List Nat) (a : Opnd) (op : Nat) (ty : Ty) : Word :=
  widen ty (canonNan ty ((((tree op ty 5 (laneOperands s w ts a ty)).head?).bind id).getD 0))

/-- An inclusive scan up to a lane, in ascending lane order. -/
def scanOp (s : State) (w : Nat) (ts : List Nat) (a : Opnd) (op : Nat) (ty : Ty) (lane : Nat) : Word :=
  widen ty (canonNan ty ((((laneOperands s w ts a ty).take (lane + 1)).foldl (combAbs op ty) none).getD 0))

def execRedTeam (c : Ctl) (o : F3) (s : State) : Out :=
  isa (.redTeam c o) c (fun s' x => .adv (s'.put x.w x.t o.d
    (reduceOp s x.w (s.contributors c) o.a (o.sub.toNat % 8) o.ty))) s
def execRedTeamImm (c : Ctl) (o : FI) (s : State) : Out :=
  isa (.redTeamImm c o) c (fun s' x => .adv (s'.put x.w x.t o.d
    (reduceOp s x.w (s.contributors c) o.a (o.sub.toNat % 8) o.ty))) s
def execScanTeam (c : Ctl) (o : F3) (s : State) : Out :=
  isa (.scanTeam c o) c (fun s' x => .adv (s'.put x.w x.t o.d
    (scanOp s x.w (s.contributors c) o.a (o.sub.toNat % 8) o.ty (x.t % 32)))) s
def execScanTeamImm (c : Ctl) (o : FI) (s : State) : Out :=
  isa (.scanTeamImm c o) c (fun s' x => .adv (s'.put x.w x.t o.d
    (scanOp s x.w (s.contributors c) o.a (o.sub.toNat % 8) o.ty (x.t % 32)))) s

/-! ## topk.ins (R293) -/

/-- Key x lies strictly above key y in the list's order. -/
def betterKey (ty : Ty) (least : Bool) (x y : Nat) : Bool :=
  if ty.isF then
    let a := decodeF .f32 x
    let b := decodeF .f32 y
    if a.isNan then false else if b.isNan then true else if least then a.lt b else b.lt a
  else if least then decide (readTy ty x < readTy ty y) else decide (readTy ty y < readTy ty x)

/-- Entries k − 1 down to 0 after the insertion, given entries k − 2 down to 0. -/
def sinkKey (ty : Ty) (least : Bool) (e : Word) : List Word → List Word
  | [] => [e]
  | y :: ys => if betterKey ty least (e.toNat / 2 ^ 32) (y.toNat / 2 ^ 32) then y :: sinkKey ty least e ys else e :: y :: ys

/-- The list after the insertion, or none when the candidate is not better than the last entry. -/
def insertKey (ty : Ty) (least : Bool) (e : Word) (l : List Word) : Option (List Word) :=
  match l.reverse with
  | [] => none
  | y :: ys =>
    if betterKey ty least (e.toNat / 2 ^ 32) (y.toNat / 2 ^ 32) then some (sinkKey ty least e ys).reverse else none

/-- Write consecutive registers. -/
def State.putGroup (s : State) (w t : Nat) (d : Opnd) (xs : List Word) : State :=
  xs.zipIdx.foldl (fun s e => s.put w t (Opnd.plus d e.2) e.1) s

def execTopkIns (c : Ctl) (o : F3) (s : State) : Out :=
  isa (.topkIns c o) c (fun s x =>
    let k := o.sub.toNat % 16
    let least := bit o.sub.toNat 4
    let l := (List.range k).map (fun j => s.src x.w x.t (Opnd.plus o.d j))
    let e := ofN ((s.src x.w x.t o.a).toNat % 2 ^ 32 * 2 ^ 32 + (s.src x.w x.t o.b).toNat % 2 ^ 32)
    match insertKey o.ty least e l with
    | some r => .adv ((s.putPred x.w x.ts o.pd.val true).putGroup x.w x.t o.d r)
    | none => .adv (s.putPred x.w x.ts o.pd.val false)) s

/-! ## Random numbers (R294 to R296) -/

def drawRound (x y : Nat) : Nat :=
  let x := (x + y) % 2 ^ 64
  let x := x ^^^ (x / 2 ^ 31)
  let x := x * 0xD6E8_FEB8_6659_FD93 % 2 ^ 64
  x ^^^ (x / 2 ^ 27)

def drawRounds : Nat → Nat → Nat → Nat
  | 0, x, _ => x
  | n + 1, x, y => drawRounds n (drawRound x y) ((y + 0x6A09_E667_F3BC_C909) % 2 ^ 64)

/-- Draw(S, T, c) of R294. -/
def drawFn (seed t c : Nat) : Nat :=
  drawRounds 4 c ((seed ^^^ (t * 0x9E37_79B9_7F4A_7C15 % 2 ^ 64)) % 2 ^ 64)

/-- One draw of a thread. -/
def State.rngDraw (s : State) (w t : Nat) : Nat × State :=
  match s.wg w, s.thread w t with
  | some g, some th =>
    (drawFn (s.eff w).seed (g.idx * 2 ^ 11 + t) th.rngctr.toNat,
      s.modThread w t (fun th => { th with rngctr := th.rngctr + 1 }))
  | _, _ => (0, s)

/-- The draw at a type (R295). -/
def drawAs (ty : Ty) (x : Nat) : Word :=
  if ty.isF then ofN (roundF .f32 .rn (.fin false (x / 2 ^ 40) (-24)))
  else if ty.width = 64 then ofN x else ofN (x / 2 ^ 32)

def execRngDraw (c : Ctl) (o : F3) (s : State) : Out :=
  isa (.rngDraw c o) c (fun s x =>
    let (d, s) := s.rngDraw x.w x.t
    .adv (s.put x.w x.t o.d (drawAs o.ty d))) s

/-- gmax: the new running state, where the candidate replaces it. -/
def gmaxOp (v : Nat) (idx d : Word) : Option Word :=
  if (decodeF .f32 (d.toNat / 2 ^ 32)).lt (decodeF .f32 v) then some (ofN (v * 2 ^ 32 + idx.toNat % 2 ^ 32)) else none

def execGmax (c : Ctl) (o : F3) (s : State) : Out :=
  isa (.gmax c o) c (fun s x =>
    let score := decodeF (fmtOf o.ty) (s.src x.w x.t o.a).toNat
    let (v, s) := if bit o.sub.toNat 0 then (roundF .f32 .rn score, s)
      else
        let (d, s) := s.rngDraw x.w x.t
        (roundF .f32 .rn (score.add .rn (decodeF .f32 (gumbel (d / 2 ^ 40)))), s)
    match gmaxOp v (s.src x.w x.t o.b) (s.src x.w x.t o.d) with
    | some r => .adv ((s.putPred x.w x.ts o.pd.val true).put x.w x.t o.d r)
    | none => .adv (s.putPred x.w x.ts o.pd.val false)) s

/-! ## Quantisation (R222, R226, R297, R298) -/

/-- The scale of R226 for ring maximum M: an FP16 pattern. -/
def quantScale (b : Nat) (m : Nat) : Nat :=
  match decodeF .f32 (m % 2 ^ 31) with
  | .nan => 0x7BFF
  | .inf _ => 0x7BFF
  | .fin _ n e =>
    if n = 0 then 0x3C00
    else
      let q := 2 ^ (b - 1) - 1
      let r := roundQ .f16 .ru false (n * 2 ^ (max 0 e).toNat) (q * 2 ^ (max 0 (-e)).toNat)
      if r = 0x7C00 then 0x7BFF else r

/-- The exact quotient x / y rounded to an integer, ties to even. -/
def divRne (s : Bool) (m : Nat) (e : Int) (n : Nat) (g : Int) : Int :=
  let num := m * 2 ^ (max 0 (e - g)).toNat
  let den := n * 2 ^ (max 0 (g - e)).toNat
  let r := roundStep .rn s (num / den) (num % den) den
  if s then -(r : Int) else r

/-- Quantise(x) of R226 with scale s. -/
def quantise (b scale : Nat) (x : FP) : Nat :=
  let z : Nat := 2 ^ (b - 1)
  match x, decodeF .f16 scale with
  | .inf s, _ => if s then 0 else 2 ^ b - 1
  | .fin s m e, .fin _ n g => (satZ b (divRne s m e n g + (z : Int))).toNat
  | _, _ => z

/-- Code width of quant and dequant. -/
def codeWidth (sub : Nat) : Nat := if bit sub 0 then 4 else 8

def execQuant (c : Ctl) (o : F3) (s : State) : Out :=
  isa (.quant c o) c (fun s x =>
    let b := codeWidth o.sub.toNat
    let w := o.ty.width
    let sc := quantScale b (s.src x.w x.t o.b).toNat
    let a := (s.src x.w x.t o.a).toNat
    let d := packElems b ((List.range (64 / w)).map (fun i => quantise b sc (decodeF (fmtOf o.ty) (elem a w i))))
    .adv ((s.put x.w x.t o.d (ofN d)).put x.w x.t o.e (ofN sc))) s

/-- A malformed group word for codes of width b (R222). -/
def badGroup (b g : Nat) : Bool :=
  bits g 31 24 != 0 || (b == 4 && bits g 23 20 != 0) || bits g 14 10 == 31

/-- The element s · (q − z) of a group word and a code. -/
def groupElem (g q : Nat) : FP := (decodeF .f16 g).mul (FP.ofInt ((q : Int) - (bits g 23 16 : Nat)))

def execDequant (c : Ctl) (o : F3) (s : State) : Out :=
  isa (.dequant c o) c (fun s x =>
    let b := codeWidth o.sub.toNat
    let w := o.ty.width
    let g := (s.src x.w x.t o.b).toNat % 2 ^ 32
    let a := (s.src x.w x.t o.a).toNat
    if badGroup b g then .trap 0x85 0 none s
    else .adv (s.put x.w x.t o.d (ofN (packElems w
      ((List.range (64 / w)).map (fun i => roundF (fmtOf o.ty) .rn (groupElem g (elem a b i)))))))) s

end Sys2Proof.Machine
end

