-- ==== Sys2Proof/Machine/Net.lean ====
section
/-!
DEFINITION. Caches of a core and requests to home slices (spec/03_memory_paths.md R47 to R50, R57, R60), and how the pieces
of an operation end (spec/06_ordering.md R131).
-/

namespace Sys2Proof.Machine

/-! ## Requests of cores (R38, R57) -/

/-- Partition of a workgroup. -/
def State.partOf (s : State) (w : Nat) : Nat := ((s.wg w).map (·.part)).getD 0

/-- Loads merge with loads and stores with stores. -/
def ReqKind.merges : ReqKind → ReqKind → Bool
  | .load, .load => true
  | .store _, .store _ => true
  | _, _ => false

/-- The request of this bundle that already asks for the line, which the coalescer gives a further access to (R38). -/
def State.merged (s : State) (r : Req) : Option (Nat × Req) :=
  s.reqs.find? (fun e => e.2.bundle == s.issues && e.2.src == r.src && e.2.dst == r.dst && e.2.op.isSome &&
    e.2.launch == r.launch && e.2.fill == r.fill && e.2.hint == r.hint && e.2.tl == r.tl && e.2.ph.det == r.ph.det &&
    e.2.ph.cache == r.ph.cache && e.2.kind.merges r.kind && sameLine e.2.ph r.ph)

/-- An access joins a request: its data adds to the packet, which has not been injected. -/
def State.join (s : State) (id : Nat) (r : Req) (e : Share) : State :=
  let r := { r with shares := r.shares ++ [e] }
  { s with
    reqs := tset s.reqs id r
    pkts := s.pkts.map (fun (k : Nat × Pkt) =>
      if k.2.req == id && !k.2.reply then (k.1, { k.2 with flits := r.flits }) else k) }

/-- A request of a thread for one piece of its operation. -/
def State.ask (s : State) (x : Ctx) (id piece : Nat) (kind : ReqKind) (ph : Phys) (va n : Nat) (fill : Option Path)
    (key : Option (Nat × Nat)) (hint : Nat := 0) (tl : Bool := false) : Loc × State :=
  let p := s.partOf x.w
  let r : Req := { src := .core x.core, dst := s.home p ph.pa, part := p, kind := kind, ph := ph, n := n, va := va, op := some id,
                   piece := piece, launch := (s.wg x.w).map (·.launch), fill := fill, key := key, bundle := s.issues, hint := hint, tl := tl }
  match s.merged r with
  | some (i, q) =>
    (.net i, s.join i q { op := id, piece := piece, pa := ph.pa, va := va, n := n, data := (match kind with
      | .store d => d
      | _ => []) })
  | none => let (i, s) := s.send r; (.net i, s)

/-- A line is requested for no operation, into a cache of the core where one is given (R235, R309). -/
def State.fetchLine (s : State) (x : Ctx) (p : Path) (fill : Bool) (ph : Phys) (va hint : Nat) : State :=
  if ph.host || ph.cache != 0 || ((s.core x.core).cache p).any (fun l => l.pa == lineOf ph.pa) then s
  else
    let q := s.partOf x.w
    (s.send { src := .core x.core, dst := s.home q ph.pa, part := q, kind := .load, ph := ph, n := 1, va := va,
              launch := (s.wg x.w).map (·.launch), fill := if fill then some p else none, hint := hint }).2

/-- The line after an access's own, into the same cache (R235). -/
def State.fetchNext (s : State) (x : Ctx) (p : Path) (ph : Phys) (va : Nat) : State :=
  if ph.pa % 65536 < 65472 then s.fetchLine x p true { ph with pa := lineOf ph.pa + 64 } (lineOf va + 64) 6 else s

/-! ## Operations of threads -/

/-- Open an operation of an instruction. -/
def State.openOp (s : State) (x : Ctx) (i : Instr) (kind : OpKind) (d : Opnd) : Nat × State :=
  s.newOp { wg := x.w, tid := x.t, core := x.core, cls := Instr.cls i, pc := x.pc, kind := kind,
            dst := (s.dst x.w x.t d).toList, hint := (i.parts.map (fun p => p.c.ch.val)).getD 0 }

def State.modOp (s : State) (id : Nat) (f : Op → Op) : State := { s with ops := tmod s.ops id f }

/-- Give an operation its pieces. -/
def State.setPieces (s : State) (id : Nat) (ps : List Piece) : State := s.modOp id (fun o => { o with pieces := ps })

/-- The threads wait at the instruction until the operation is performed. -/
def State.holdFor (s : State) (x : Ctx) (id : Nat) : State :=
  x.ts.foldl (fun s t => s.modThread x.w t (fun th => { th with hold := some (.op id) }))
    (s.modOp id (fun o => { o with waiters := x.ts }))

/-- A cache hint as a path sees it: the constant path ignores it (R235). -/
def Path.hint (p : Path) (c : Ctl) : Nat := if p == .cst then 0 else c.ch.val

/-- A load on a path under a hint leaves its line in the path's cache: the load-store path not under 2 and 5 (R235). -/
def Path.fills (p : Path) (hint : Nat) : Bool := !(p == .ls && (hint == 2 || hint == 5))

/-- Where a load's piece is served (R35, R38, R47, R235): a hit is read at issue, anything else asks the home slice. No hint has an
effect on ld.tl (R306). -/
def State.loadLoc (s : State) (x : Ctx) (c : Ctl) (p : Path) (ph : Phys) (va n id piece : Nat) : Loc × State :=
  let h := p.hint c
  if p == .tile then s.ask x id piece .load ph va n none none 0 true
  else if ph.host || ph.cache != 0 then s.ask x id piece .load ph va n none none h
  else
    let r := match ((s.core x.core).cache p).find? (fun l => l.pa == lineOf ph.pa) with
      | some l => (Loc.hit ((l.data.drop (ph.pa - lineOf ph.pa)).take n),
          s.modCore x.core (fun k => k.setCache p (insertLine p false l (k.cache p))))
      | none => s.ask x id piece .load ph va n (if p.fills h then some p else none) none h
    if h = 6 then (r.1, r.2.fetchNext x p ph va) else r

/-! ## Ends of operations -/

/-- The datum of a type in little-endian bytes, extended (R305). -/
def dataOf (ty : Ty) (bytes : List Byte) : Word := widen ty (leNat bytes)

/-- Weighted sum of four texels (R308); weights are 256ths. -/
def linear (ty : Ty) (a b : Nat) (ts : List (List Byte)) : Word :=
  let t := fun (i : Nat) => decodeF (fmtOf ty) (leNat (ts.getD i []))
  let m := fun (k i : Nat) => (FP.fin false k (-16)).mul (t i)
  ofN (roundF .f32 .rn ((((m ((256 - a) * (256 - b)) 0).add .rn (m (a * (256 - b)) 1)).add .rn (m ((256 - a) * b) 2)).add .rn
    (m (a * b) 3)))

/-- The result of an operation on memory whose pieces are all there. -/
def memResult (f : Fin1) (ps : List (List Byte)) : Option Word :=
  match f with
  | .load ty => some (dataOf ty (ps.getD 0 []))
  | .atomic true ty => some (dataOf ty (ps.getD 0 []))
  | .lin ty a b => some (linear ty a b ps)
  | .acquire => some (ofN (leNat (ps.getD 0 [])))
  | _ => none

/-- An operation whose pieces have all been returned is performed. -/
def State.settle (s : State) (id : Nat) : State :=
  match tget s.ops id with
  | none => s
  | some o =>
    if o.done then s
    else match o.kind with
    | .mem f =>
      if o.pieces.all (fun p => p.got.isSome) then
        s.finish id (match memResult f (o.pieces.map (fun p => p.got.getD [])) with
          | some v => o.dst.map (fun d => (d, v))
          | none => [])
      else s
    | .hostRead => if o.pieces.all (fun p => p.got.isSome) then s.finish id [] else s
    | _ => s

/-- An operation of the order has been performed. -/
def State.endTile (s : State) (w id : Nat) : State :=
  (s.modWg w (fun g => { g with mq := g.mq.filter (· != id) })).finish id []

/-- A piece has been returned. -/
def State.gotPiece (s : State) (id piece : Nat) (bytes : List Byte) : State :=
  (s.modOp id (fun o => { o with pieces := o.pieces.modify piece (fun p => { p with got := some bytes }) })).settle id

/-- An operation ends in a fault: precise where threads wait for it, deferred otherwise (R93, R119, R390, R424). The codes of
a sync object's state concern no address (R45, R148). -/
def State.opFault (s : State) (id code addr : Nat) : State :=
  match tget s.ops id with
  | none => s
  | some o =>
    match o.kind with
    | .hostRead =>
      (o.waiters.foldl (fun s t => s.modThread o.wg t (fun th => { th with hold := none })) s).failOp id code addr
    | _ => if o.waiters.isEmpty then s.failOp id code addr else s.trapOp id code (if code / 4 = 0x30 then 0 else addr)

/-! ## Atomics on bytes (R311) -/

/-- The new value of an atomic, as w bits: OPC, FN, type, old value, operand, compare value. -/
def rmwNew (opc fn : Nat) (ty : Ty) (old x cmp : Nat) : Nat :=
  let w := ty.width
  let x := x % 2 ^ w
  if opc = 0x146 then (if old = cmp % 2 ^ w then x else old)
  else if opc = 0x147 then (if fn = 3 then x else combOp fn ty old x)
  else if fn = 6 then x
  else combOp fn ty old x

/-- New bytes of an atomic on old bytes. -/
def rmwBytes (opc fn ty x cmp : Nat) (old : List Byte) : List Byte :=
  leBytes old.length (rmwNew opc fn (Ty.ofCode ty) (leNat old) x cmp)

/-- Whether an atomic is order-sensitive (R137). -/
def orderSensitive (opc fn : Nat) (ret : Bool) : Bool :=
  ret || opc == 0x145 || opc == 0x146 || opc == 0x147 || fn == 6

end Sys2Proof.Machine
end

