-- ==== Sys2Proof/Machine/Memory.lean ====
section
/-!
DEFINITION. Loads, stores, the sampler, prefetch, cache maintenance, atomics, fences, acquires, releases and bindings
(spec/12_isa_memory.md R301 to R313, spec/06_ordering.md R119 to R125, R135).
-/

namespace Sys2Proof.Machine

/-- BASE + INDEX + OFF (R14); forms whose INDEX is an operand leave it out. -/
def memAddr (s : State) (x : Ctx) (o : FM) (index : Bool) : Nat :=
  wrapN ((s.src x.w x.t o.base).toNat + (if index then (s.src x.w x.t o.index).toNat else 0 : Nat) + signExt o.off.toNat 24) 64

/-- Size of a type in bytes (R301). -/
def Ty.bytes (ty : Ty) : Nat := ty.width / 8

/-! ## Loads and stores (R304 to R306) -/

/-- The first byte of a scratchpad range in a word that holds an uncorrectable error, and that no store on its way to the
array overwrites whole (R411). -/
def State.scratchBad (s : State) (w off n : Nat) : Option Nat :=
  let whole := fun (b : Nat) => s.ops.any (fun e => !e.2.done && e.2.pieces.any (fun p => p.got.isNone && p.loc == .scratch w (8 * b) &&
    (match p.act with
      | .store d => d.length == 8
      | _ => false)))
  (s.wg w).bind (fun g => ({ g with badScratch := g.badScratch.filter (fun b => !whole b) } : Workgroup).badIn off n)

/-- Read or change a scratchpad range at its array: a word with an uncorrectable error raises 0xE3 precisely (R388, R411). -/
def scratchAct (s : State) (w off n va : Nat) (go : State → Act) : Act :=
  match s.scratchBad w off n with
  | some o => .trap 0xE3 (va + o) none s
  | none => go s

/-- An ordered entry of the thread to a line has still to be applied: its later accesses to the line wait for it (R127,
notes/assumptions/99.md). -/
def State.entryAhead (s : State) (w t : Nat) (ph : Phys) : Bool :=
  s.reqs.any (fun r => r.2.key.isSome && sameLine r.2.ph ph &&
    (r.2.op.bind (tget s.ops)).any (fun (o : Op) => o.wg == w && o.tid == t)) ||
  s.slices.any (fun k => (k.2.buffer ++ k.2.arriving).any (fun e => e.wg == w && e.tid == t && sameLine e.ph ph))

/-- A load through a path. -/
def loadThrough (i : Instr) (c : Ctl) (o : FM) (p : Path) (ap : Aper) (ro : Bool) (s : State) : Out :=
  isa i c (fun s x =>
    let n := Ty.bytes o.ty
    let va := memAddr s x o true
    match check s x.w x.ts va n n .load ap ro with
    | (.wait, s) => .wait s
    | (.fail f a, s) => .trap f a none s
    | (.scratch w off, s) => scratchAct s w off n va (fun s =>
      let (id, s) := s.openOp x i (.mem (.load o.ty)) o.data
      .adv (s.setPieces id [{ va := va, n := n, loc := .scratch w off }]))
    | (.glob g ph, s) =>
      if (p == .ls || p == .tile) && s.entryAhead x.w x.t ph || p == .tile && decide (256 ≤ s.staged x.core) then .wait s
      else
      let (id, s) := s.openOp x i (.mem (.load o.ty)) o.data
      let (loc, s) := s.loadLoc x c p ph g n id 0
      .adv (s.setPieces id [{ va := g, n := n, loc := loc }])) s

def execLd (c : Ctl) (o : FM) (s : State) : Out := loadThrough (.ld c o) c o .ls Aper.ls false s
def execLdRo (c : Ctl) (o : FM) (s : State) : Out := loadThrough (.ldRo c o) c o .smp Aper.g true s
def execLdC (c : Ctl) (o : FM) (s : State) : Out := loadThrough (.ldC c o) c o .cst Aper.c true s
def execLdTl (c : Ctl) (o : FM) (s : State) : Out := loadThrough (.ldTl c o) c o .tile Aper.ls false s

def execSt (c : Ctl) (o : FM) (s : State) : Out :=
  isa (.st c o) c (fun s x =>
    let n := Ty.bytes o.ty
    let va := memAddr s x o true
    let bytes := leBytes n (s.src x.w x.t o.data).toNat
    match check s x.w x.ts va n n .store Aper.ls false with
    | (.wait, s) => .wait s
    | (.fail f a, s) => .trap f a none s
    | (.scratch w off, s) =>
      let (id, s) := s.openOp x (.st c o) (.mem .store) .vz
      .adv (s.setPieces id [{ va := va, n := n, loc := .scratch w off, act := .store bytes }])
    | (.glob g ph, s) =>
      if s.entryAhead x.w x.t ph then .wait s
      else
      let (id, s) := s.openOp x (.st c o) (.mem .store) .vz
      let (loc, s) := (s.l1Store x.core ph bytes).ask x id 0 (.store bytes) ph g n none none (Path.ls.hint c)
      .adv (s.setPieces id [{ va := g, n := n, loc := loc }])) s

/-- Cache that PATH names in pref and cinv (R309, R310). -/
def cacheNamed : Nat → Path
  | 0 => .ls
  | 1 => .smp
  | _ => .cst

def execPref (c : Ctl) (o : FM) (s : State) : Out :=
  isa (.pref c o) c (fun s x =>
    let va := memAddr s x o true
    let p := cacheNamed o.path.val
    match check s x.w x.ts va 1 1 .load Aper.ls (p != .ls) with
    | (.wait, s) => .wait s
    | (.glob g ph, s) =>
      let s := s.fetchLine x p (p.fills c.ch.val) ph g c.ch.val
      .adv (if c.ch.val = 6 then s.fetchNext x p ph g else s)
    | (_, s) => .adv s) s

/-! ## The sampler (R307, R308) -/

/-- The border rule: the texel index, or none outside the image. -/
def borderFix (bord : Nat) (i : Int) (n : Nat) : Option Nat :=
  match bord with
  | 0 => some (clampI i 0 ((n : Int) - 1)).toNat
  | 1 => some (i % (n : Int)).toNat
  | 2 => if 0 ≤ i && i < (n : Int) then some i.toNat else none
  | _ => let j := (i % (2 * (n : Int))).toNat; some (if j < n then j else 2 * n - 1 - j)

/-- Texel position and weight along one axis: x0 and a in 256ths. R308 states no weight for an infinite coordinate: it is the
free value Config.sampleWeight, of the coordinate alone (R218; notes/assumptions/2.md). -/
def linAxis (c : Nat) : Int × Nat :=
  let v := (decodeF .f32 c).add .rn (.fin true 1 (-1))
  match v with
  | .fin s m e =>
    let x0 := roundInt .rd s m e
    let d := (v.add .rn (FP.ofInt (-x0))).mul (FP.ofInt 256)
    (x0, (d.floor 0 255).toNat)
  | .nan => (0, 0)
  | .inf s => (if s then -(2 ^ 31) else 2 ^ 31 - 1, (Config.sampleWeight (BitVec.ofNat 32 c)).toNat)

/-- The texels that a sample reads, in the order t00, t10, t01, t11; one texel for the other modes. -/
def texels (mode : Nat) (b : Nat) : List (Int × Int) × Nat × Nat :=
  let u := b % 2 ^ 32
  let v := b / 2 ^ 32
  let lo : Int := -(2 ^ 31)
  let hi : Int := 2 ^ 31 - 1
  match mode with
  | 0 => ([(signExt u 32, signExt v 32)], 0, 0)
  | 1 => ([((decodeF .f32 u).floor lo hi, (decodeF .f32 v).floor lo hi)], 0, 0)
  | _ =>
    let (x0, a) := linAxis u
    let (y0, w) := linAxis v
    ([(x0, y0), (x0 + 1, y0), (x0, y0 + 1), (x0 + 1, y0 + 1)], a, w)

/-- Address of a texel, or none where the border rule gives 0. -/
def texelAddr (base c size : Nat) (t : Int × Int) : Option Nat :=
  let pitch := max 1 (bits c 47 32)
  match borderFix (bits c 57 56) t.1 (bits c 15 0 + 1), borderFix (bits c 57 56) t.2 (bits c 31 16 + 1) with
  | some x, some y => some ((base + y * 64 * pitch + x * size) % 2 ^ 64)
  | _, _ => none

/-- Check each texel: its place, none where it is not accessed; or a wait; or the failure at the lowest address. -/
def checkTexels (w : Nat) (ts : List Nat) (n : Nat) : List (Option Nat) → State → List (Option (Nat × Phys)) × Bool × Option (Nat × Nat) × State
  | [], s => ([], false, none, s)
  | none :: as, s =>
    let (ps, wt, f, s) := checkTexels w ts n as s
    (none :: ps, wt, f, s)
  | some a :: as, s =>
    let (r, s) := check s w ts a n n .load Aper.g true
    let (ps, wt, f, s) := checkTexels w ts n as s
    match r with
    | .glob g ph => (some (g, ph) :: ps, wt, f, s)
    | .fail code b =>
      (none :: ps, wt, (match f with
        | some (c', b') => if b' < b then some (c', b') else some (code, b)
        | none => some (code, b)), s)
    | _ => (none :: ps, true, f, s)

/-- Pieces of a sample. -/
def samplePieces (x : Ctx) (c : Ctl) (n id : Nat) : Nat → List (Option (Nat × Phys)) → State → List Piece × State
  | _, [], s => ([], s)
  | k, none :: ps, s =>
    let (l, s) := samplePieces x c n id (k + 1) ps s
    ({ va := 0, n := n, loc := .none, got := some [] } :: l, s)
  | k, some (g, ph) :: ps, s =>
    let (loc, s) := s.loadLoc x { c with ch := 0 } .smp ph g n id k
    let (l, s) := samplePieces x c n id (k + 1) ps s
    ({ va := g, n := n, loc := loc } :: l, s)

def execSmp (c : Ctl) (o : F3) (s : State) : Out :=
  isa (.smp c o) c (fun s x =>
    let mode := o.sub.toNat % 4
    let n := Ty.bytes o.ty
    let (ts, a, b) := texels mode (s.src x.w x.t o.b).toNat
    let addrs := ts.map (texelAddr (s.src x.w x.t o.a).toNat (s.src x.w x.t o.c).toNat n)
    match checkTexels x.w x.ts n addrs s with
    | (_, _, some (f, ad), s) => .trap f ad none s
    | (_, true, none, s) => .wait s
    | (ps, false, none, s) =>
      let (id, s) := s.openOp x (.smp c o) (.mem (if mode = 2 then .lin o.ty a b else .load o.ty)) o.d
      let (l, s) := samplePieces x c n id 0 ps s
      .adv ((s.setPieces id l))) s

/-! ## Cache maintenance (R310) -/

def execCinv (c : Ctl) (o : FM) (s : State) : Out :=
  isa (.cinv c o) c (fun s x =>
    let va := memAddr s x o true
    match check s x.w x.ts va 1 1 .load Aper.g false with
    | (.wait, s) => .wait s
    | (.fail f a, s) => .trap f a none s
    | (.glob g ph, s) =>
      let ps := if o.path.val = 3 then [Path.ls, .smp, .cst] else [cacheNamed o.path.val]
      let s := if ph.host then s else ps.foldl (fun s p => s.discard x.core p (fun l => l == lineOf ph.pa)) s
      let (id, s) := s.openOp x (.cinv c o) (.mem .plain) .vz
      .adv (s.setPieces id [{ va := g, n := 0, loc := .hit [] }])
    | (_, s) => .adv s) s

def execCwb (c : Ctl) (o : FM) (s : State) : Out :=
  isa (.cwb c o) c (fun s x =>
    let va := memAddr s x o true
    match check s x.w x.ts va 1 1 .load Aper.g false with
    | (.wait, s) => .wait s
    | (.fail f a, s) => .trap f a none s
    | (.glob g ph, s) =>
      let (id, s) := s.openOp x (.cwb c o) (.mem .plain) .vz
      let (loc, s) := s.ask x id 0 (.atomic .wb) ph g 0 none none
      .adv (s.setPieces id [{ va := g, n := 0, loc := loc }])
    | (_, s) => .adv s) s

/-! ## Atomics (R311, R312) -/

/-- An atomic at its place. -/
def atomThrough (i : Instr) (c : Ctl) (opc fn : Nat) (o : FM) (s : State) : Out :=
  isa i c (fun s x =>
    let n := Ty.bytes o.ty
    let va := memAddr s x o false
    let ret := bit o.sub.toNat 0
    let cmp := if opc = 0x146 then (s.src x.w x.t o.data).toNat else 0
    let kind : ReqKind := .atomic (.rmw opc fn o.ty.code (s.src x.w x.t o.index).toNat cmp)
    let d := if ret then o.data else .vz
    match check s x.w x.ts va n n .atomic Aper.ls false with
    | (.wait, s) => .wait s
    | (.fail f a, s) => .trap f a none s
    | (.scratch w off, s) => scratchAct s w off n va (fun s =>
      let (id, s) := s.openOp x i (.mem (.atomic ret o.ty)) d
      .adv (s.setPieces id [{ va := va, n := n, loc := .scratch w off, act := kind }]))
    | (.glob g ph, s) =>
      let ordered := ph.det && (s.eff x.w).det && orderSensitive opc fn ret
      if !ordered && s.entryAhead x.w x.t ph then .wait s
      else
      let (id, s) := s.openOp x i (.mem (.atomic ret o.ty)) d
      let s := if ph.host then s else s.discard x.core .ls (fun l => l == lineOf ph.pa)
      let key := if ordered then (s.thread x.w x.t).map (fun th => (th.epoch.toNat, th.opidx.toNat)) else none
      let s := if ordered then s.modThread x.w x.t (fun th => { th with opidx := th.opidx + 1 }) else s
      let (loc, s) := s.ask x id 0 kind ph g n none key (Path.ls.hint c)
      .adv (s.setPieces id [{ va := g, n := n, loc := loc }])
    ) s

def execAtom (c : Ctl) (fn : Fin 16) (o : FM) (s : State) : Out := atomThrough (.atom c fn o) c 0x144 fn.val o s
def execAtomF (c : Ctl) (fn : Fin 16) (o : FM) (s : State) : Out := atomThrough (.atomF c fn o) c 0x145 fn.val o s
def execAtomCas (c : Ctl) (o : FM) (s : State) : Out := atomThrough (.atomCas c o) c 0x146 0 o s
def execAtomOrd (c : Ctl) (fn : Fin 16) (o : FM) (s : State) : Out := atomThrough (.atomOrd c fn o) c 0x147 fn.val o s

/-! ## Fences (R124, R125, R135) -/

/-- The mark that a waiting instruction took when it began, taken now if it has not begun. -/
def State.markOf (s : State) (x : Ctx) : Nat :=
  match (s.thread x.w x.t).bind (·.hold) with
  | some (.mark n) => n
  | _ => s.nextId

/-- The threads have begun an instruction that looks at operations older than a mark. -/
def State.begun (s : State) (x : Ctx) (m : Nat) : State :=
  x.ts.foldl (fun s t => s.modThread x.w t (fun th => { th with hold := some (.mark m) })) s

/-- Every operation of the thread in a class older than a mark has completed. -/
def State.doneOwn (s : State) (w t : Nat) (c : Cls) (m : Nat) : Bool :=
  s.ops.all (fun e => !(e.2.wg == w && e.2.tid == t && e.2.cls == some c && !e.2.done && decide (e.1 < m)))

/-- Every store-class operation issued on a core before a mark has completed. -/
def State.doneStores (s : State) (core m : Nat) : Bool :=
  s.ops.all (fun e => !(e.2.core == core && e.2.cls == some .st && !e.2.done && decide (e.1 < m)))

/-- What a fence of a scope waits for (R125): 0 th, 1 team, 2 wg, 3 cg, 4 dev, 5 sys. -/
def State.fenceClear (s : State) (x : Ctx) (scope m : Nat) : Bool :=
  s.doneOwn x.w x.t .ld m && (if scope = 0 then s.doneOwn x.w x.t .st m else s.doneStores x.core m)

/-- The thread's later operations issue only after the fence; fence.sys ends with a zero-length host read (R424). -/
def execFence (c : Ctl) (fn : Fin 16) (o : F3) (s : State) : Out :=
  isa (.fence c fn o) c (fun s x =>
    let m := s.markOf x
    if !s.fenceClear x fn.val m then .wait (s.begun x m)
    else
      let s := if 3 ≤ fn.val then s.discard x.core .ls (fun _ => true) else s
      if fn.val = 5 then
        let (id, s) := s.openOp x (.fence c fn o) .hostRead .vz
        let (loc, s) := s.ask x id 0 .load { pa := 0, host := true, cache := 1 } 0 0 none none
        .wait ((s.setPieces id [{ va := 0, n := 0, loc := loc }]).holdFor x id)
      else .adv s) s

def execFencePath (c : Ctl) (o : F3) (s : State) : Out :=
  isa (.fencePath c o) c (fun s x =>
    let m := s.markOf x
    if !s.fenceClear x 0 m then .wait (s.begun x m)
    else .adv ((s.discard x.core .cst (fun _ => true)).discard x.core .smp (fun _ => true))) s

/-! ## Acquire and release (R121, R122, R313) -/

/-- Every update forwarded from a thread's stores older than a mark, to the region in a slot or to any, has been applied
(R84, R85). A store of an engine carries no mark: it counts as older than every one. -/
def State.forwardsDone (s : State) (w t : Nat) (slot : Option Nat) (m : Nat) : Bool :=
  (s.part (s.partOf w)).regions.all (fun r => (slot.isSome && slot != some r.1) || r.2.updates.all (fun u =>
    u.issuers.all (fun i => !(i.1 == w && i.2.1 == t && decide (i.2.2 < m)))))

/-- An acquire, or the request of a release, at the home slice of its object; the threads wait until it is performed. -/
def syncThrough (i : Instr) (c : Ctl) (o : FM) (a : State → Ctx → Aop) (f : Fin1) (d : Opnd) (s : State) (x : Ctx) : Act :=
  let va := memAddr s x o false
  match check s x.w x.ts va 64 64 .atomic Aper.g false with
  | (.wait, s) => .wait s
  | (.fail g ad, s) => .trap g ad none s
  | (.glob g ph, s) =>
    let (id, s) := s.openOp x i (.mem f) d
    let s := if ph.host then s else s.discard x.core .ls (fun l => l == lineOf ph.pa)
    let (loc, s) := s.ask x id 0 (.atomic (a s x)) ph g 64 none none (Path.ls.hint c)
    .wait ((s.setPieces id [{ va := g, n := 64, loc := loc }]).holdFor x id)
  | (_, s) => .wait s

/-- Self of R119: launch tag, workgroup index, thread index. -/
def State.selfOf (s : State) (x : Ctx) : Nat × Nat × Nat :=
  let nm := s.wgName x.w
  (nm.1, nm.2, x.t)

def execAcq (c : Ctl) (o : FM) (s : State) : Out :=
  isa (.acq c o) c (syncThrough (.acq c o) c o (fun _ _ => .acq) .acquire o.data) s
def execAcqGe (c : Ctl) (o : FM) (s : State) : Out :=
  isa (.acqGe c o) c (syncThrough (.acqGe c o) c o (fun s x => .acqGe (s.src x.w x.t o.index).toNat) .acquire o.data) s
def execAcqX (c : Ctl) (o : FM) (s : State) : Out :=
  isa (.acqX c o) c (syncThrough (.acqX c o) c o (fun s x => let h := s.selfOf x; .acqX h.1 h.2.1 h.2.2) .acquire o.data) s

def execRel (c : Ctl) (o : FM) (s : State) : Out :=
  isa (.rel c o) c (fun s x =>
    let m := s.markOf x
    let go := fun (s : State) => syncThrough (.rel c o) c o (fun s x => let h := s.selfOf x; .rel h.1 h.2.1 h.2.2) .plain .vz s x
    match check s x.w x.ts (memAddr s x o false) 64 64 .atomic Aper.g false with
    | (.wait, s) => .wait (s.begun x m)
    | (.fail g ad, s) => .trap g ad none s
    | (_, s) => if s.doneStores x.core m && s.forwardsDone x.w x.t none m then go s else .wait (s.begun x m)) s

/-! ## Bindings (R120) -/

/-- Physical parts of a binding: base, length and whether it lies in host memory. -/
def Binding.parts (b : Binding) : List (Nat × Nat × Bool) :=
  ((pageParts (b.size / 65536 + 2) b.base b.size).zip b.frames).map (fun p => (p.2.2.1 + p.1.1 % 65536, p.1.2, p.2.2.2))

/-- The lines of a binding in device memory, as a test on a line's address. -/
def Binding.holds (b : Binding) (line : Nat) : Bool :=
  b.parts.any (fun p => !p.2.2 && p.1 ≤ line && decide (line < p.1 + p.2.1))

/-- Two bindings share a line. -/
def Binding.meets (a b : Binding) : Bool :=
  a.parts.any (fun p => b.parts.any (fun q => p.2.2 == q.2.2 && overlaps p.1 p.2.1 q.1 q.2.1))

/-- A look-up of pages by an instruction of threads. -/
def Ctx.asks {α : Type} (x : Ctx) (s : State) (f : State → α × State) : α × State := s.askFor (.threads x.w x.ts) f

/-- The host is asked for a page that an instruction looks up: its threads are PARKED (R41, R152). -/
def Ctx.parks (x : Ctx) (s : State) : Act := .wait (s.parkHost x.w x.ts)

/-- Translate every page of a range as a load: virtual page, physical base and kind of each, a wait (code 0), or the failure. -/
def rangeFrames (s : State) (w : Nat) (va n : Nat) : Except (Nat × Nat) (List (Nat × Nat × Bool)) × State :=
  (pageParts (n / 65536 + 2) va n).foldl (fun acc p =>
    match acc with
    | (.error e, s) => (.error e, s)
    | (.ok l, s) => match checkNow s w p.1 p.2 .load Aper.g with
      | (.glob g ph, s) => (.ok (l ++ [(g / 65536 * 65536, ph.pa - g % 65536, ph.host)]), s)
      | (.fail f a, s) => (.error (f, a), s)
      | (_, s) => (.error (0, p.1), s)) (.ok [], s)

/-- Checks 2 to 6 of R120 for an object, base and size; the binding to be made. -/
def bindChecks (s : State) (w obj : Nat) (objPh : Phys) (base size : Nat) : Except (Nat × Nat) Binding × State :=
  let q := s.part (s.partOf w)
  if base % 64 != 0 || size % 64 != 0 || size == 0 || decide (2 ^ 40 < size) then (.error (0xC3, base), s)
  else
    match place base, place ((base + size - 1) % 2 ^ 64) with
    | .glob _, .glob _ =>
      (match rangeFrames s w base size with
      | (.error e, s) => (.error e, s)
      | (.ok fs, s) =>
        let b : Binding := { obj := obj, objPa := objPh.pa, objHost := objPh.host, base := base, size := size, asid := (s.eff w).asid, frames := fs }
        if q.bindings.any b.meets then (.error (0xC4, base), s)
        else if 1024 ≤ q.bindings.length then (.error (0xC5, 0), s)
        else (.ok b, s))
    | .glob _, _ => (.error (0x21, 2 ^ 57), s)
    | .bad, _ => (.error (0x21, base), s)
    | _, _ => (.error (0x28, base), s)

def execSyncBind (c : Ctl) (o : F3) (s : State) : Out :=
  isa (.syncBind c o) c (fun s x =>
    let obj := (s.src x.w x.t o.a).toNat
    match check s x.w x.ts obj 64 64 .atomic Aper.g false with
    | (.wait, s) => .wait s
    | (.fail g ad, s) => .trap g ad none s
    | (.glob _ ph, s) =>
      (match x.asks s (fun s => bindChecks s x.w obj ph (s.src x.w x.t o.b).toNat (s.src x.w x.t o.c).toNat) with
      | (.error (0, _), s) => x.parks s
      | (.error (f, ad), s) => .trap f ad none s
      | (.ok b, s) => .adv (s.modPart (s.partOf x.w) (fun q => { q with bindings := q.bindings ++ [b] })))
    | (_, s) => .wait s) s

def execSyncUnbind (c : Ctl) (o : F3) (s : State) : Out :=
  isa (.syncUnbind c o) c (fun s x =>
    let same := fun (b : Binding) => b.obj == (s.src x.w x.t o.a).toNat && b.base == (s.src x.w x.t o.b).toNat &&
      b.size == (s.src x.w x.t o.c).toNat && b.asid == (s.eff x.w).asid && b.region.isNone
    if ((s.part (s.partOf x.w)).bindings.any same) then
      .adv (s.modPart (s.partOf x.w) (fun q => { q with bindings := q.bindings.filter (fun b => !same b) }))
    else .trap 0xC6 0 none s) s

/-- An acquire is performed: its core discards every L1 line bound to the object (R122). -/
def State.acquireAt (s : State) (core part : Nat) (obj : Phys) : State :=
  let bs := (s.part part).bindings.filter (fun b => b.objPa == obj.pa && b.objHost == obj.host)
  if bs.isEmpty then s else s.discard core .ls (fun l => bs.any (fun b => b.holds l))

end Sys2Proof.Machine
end

