-- ==== Sys2Proof/Machine/Region.lean ====
section
/-!
DEFINITION. The tree of an aggregate region and its queries (spec/04_aggregate_regions.md R74 to R82).
-/

namespace Sys2Proof.Machine

/-! ## Nodes (R74, R78) -/

def Region.isFloat (r : Region) : Bool := decide (2 ≤ r.ty)
/-- Leaf count n. -/
def Region.n (r : Region) : Nat := 2 ^ r.logn
/-- Leaves per line. -/
def Region.perLine (r : Region) : Nat := 64 / leafBytes r.ty

/-- Node i as its raw register value; nodes of an all-zero tree are 0. -/
def Region.node (r : Region) (i : Nat) : Nat := ((tget r.nodes i).map (·.toNat)).getD 0

/-- An FP32 pattern with every NaN canonical. -/
def canonF (x : Nat) : Nat := if (decodeF .f32 x).isNan then Fmt.nanBits .f32 else x

/-- The leaf-level node of a leaf's bytes (R74, third column). -/
def leafNode (ty : Nat) (x : Nat) : Word :=
  match ty with
  | 0 => ofInt (signExt x 32)
  | 1 => ofN x
  | 2 => ofN (canonF x)
  | _ => ofN (canonF (x * 65536))

/-- Combine(a, b), with the exact sum leaving the format (R74, R75). -/
def Region.combine (r : Region) (a b : Nat) : Word × Bool :=
  if r.isFloat then
    let x := decodeF .f32 a
    let y := decodeF .f32 b
    (if x.isNan || y.isNan then ofN (Fmt.nanBits .f32)
      else match r.agg with
        | 0 => ofN (fAdd .f32 .rn a b)
        | 1 => ofN (fMax .f32 a b)
        | _ => ofN (fMin .f32 a b), false)
  else
    let x := signExt a 64
    let y := signExt b 64
    match r.agg with
    | 0 => (ofInt (x + y), r.ty == 1 && overflows64 (x + y))
    | 1 => (ofInt (max x y), false)
    | _ => (ofInt (min x y), false)

/-- Recompute node i from its two children. -/
def Region.recompute (r : Region) (i : Nat) : Region :=
  let c := r.combine (r.node (2 * i)) (r.node (2 * i + 1))
  let bad := r.badNodes.contains (2 * i) || r.badNodes.contains (2 * i + 1)
  { r with
    nodes := tset r.nodes i c.1
    ov := r.ov || c.2
    badNodes := if bad then i :: r.badNodes.filter (· != i) else r.badNodes.filter (· != i) }

/-- Recompute the ancestors of some nodes, level by level. -/
def Region.climb (r : Region) : Nat → List Nat → Region
  | 0, _ => r
  | n + 1, is =>
    let ps := (is.map (· / 2)).eraseDups
    (ps.foldl Region.recompute r).climb n ps

/-- Apply one update (R78, R410). -/
def Region.apply (r : Region) (u : Update) : Region :=
  let w := leafBytes r.ty
  let js := (List.range r.perLine).map (fun k => (u.line * r.perLine + k, leafNode r.ty (leNat ((u.bytes.drop (k * w)).take w))))
  let js := js.filter (fun e => decide (e.1 < r.n))
  let changed := js.filter (fun e => u.bad || r.badNodes.contains (r.n + e.1) || r.node (r.n + e.1) != e.2.toNat)
  let r' := changed.foldl (fun (r : Region) e =>
    if u.bad then { r with badNodes := (r.n + e.1) :: r.badNodes.filter (· != r.n + e.1) }
    else { r with nodes := tset r.nodes (r.n + e.1) e.2, badNodes := r.badNodes.filter (· != r.n + e.1) }) r
  r'.climb r.logn (changed.map (fun e => r.n + e.1))

/-! ## Queries (R80 to R82) -/

/-- A query's result, its predicate and the nodes it has read. -/
structure Answer where
  d : Word
  p : Bool
  read : List Nat

/-- The largest block that starts at p and ends by hi (R80). -/
def blockAt (p hi : Nat) : Nat → Nat
  | 0 => 0
  | k + 1 => if p % 2 ^ (k + 1) = 0 && p + 2 ^ (k + 1) ≤ hi then k + 1 else blockAt p hi k

/-- The nodes of the range [p, hi) from left to right. -/
def Region.blocks (r : Region) (hi : Nat) : Nat → Nat → List Nat
  | 0, _ => []
  | fuel + 1, p =>
    if hi ≤ p then [] else let k := blockAt p hi r.logn; ((r.n + p) / 2 ^ k) :: r.blocks hi fuel (p + 2 ^ k)

/-- Identity of the aggregate in its node format (R80). -/
def Region.identity (r : Region) : Word :=
  if r.isFloat then (match r.agg with
    | 0 => 0
    | 1 => ofN 0xFF80_0000
    | _ => ofN 0x7F80_0000)
  else match r.agg, r.ty with
    | 0, _ => 0
    | 1, 0 => ofInt (-(2 ^ 31))
    | 1, _ => ofInt (-(2 ^ 63))
    | _, 0 => ofInt (2 ^ 31 - 1)
    | _, _ => ofInt (2 ^ 63 - 1)

def Region.range (r : Region) (lo hi : Nat) : Answer :=
  if hi ≤ lo then { d := r.identity, p := false, read := [] }
  else
    let bs := r.blocks hi (2 * r.logn + 2) lo
    match bs with
    | [] => { d := r.identity, p := false, read := [] }
    | b :: rest => { d := rest.foldl (fun a i => (r.combine a.toNat (r.node i)).1) (ofN (r.node b)), p := true, read := bs }

/-- Go(x, a) of R81. -/
def Region.go (r : Region) (x a : Nat) : Bool :=
  if r.isFloat then
    (match r.agg with
    | 1 => (decodeF .f32 x).lt (decodeF .f32 a)
    | 2 => (decodeF .f32 a).lt (decodeF .f32 x)
    | _ => (decodeF .f32 x).lt (decodeF .f32 a))
  else match r.agg with
    | 2 => decide (signExt a 64 < signExt x 64)
    | _ => decide (signExt x 64 < signExt a 64)

/-- The step right of R81. -/
def Region.right (r : Region) (x a : Nat) : Nat :=
  if r.agg != 0 then x
  else if r.isFloat then fSub .f32 .rn x a
  else wrapN (signExt x 64 - signExt a 64) 64

/-- The descent below node i: the leaf-level node reached and the nodes read. -/
def Region.descend (r : Region) : Nat → Nat → Nat → Nat × List Nat
  | 0, i, _ => (i, [])
  | fuel + 1, i, x =>
    let l := r.node (2 * i)
    let d := if r.go x l then r.descend fuel (2 * i) x else r.descend fuel (2 * i + 1) (r.right x l)
    (d.1, 2 * i :: d.2)

def Region.pfx (r : Region) (x : Word) : Answer :=
  let x := if r.isFloat then x.toNat % 2 ^ 32 else x.toNat
  let root := r.node 1
  let none_ : Answer := { d := ofN r.n, p := false, read := [1] }
  if r.isFloat && ((decodeF .f32 x).isNan || (decodeF .f32 root).isNan) then none_
  else if !r.go x root then none_
  else let d := r.descend r.logn 1 x; { d := ofN (d.1 - r.n), p := true, read := 1 :: d.2 }

/-- pick with a draw (R82). -/
def Region.pickBy (r : Region) (draw : Nat) : Answer :=
  let root := r.node 1
  let none_ : Answer := { d := ofN r.n, p := false, read := [1] }
  let from_ := fun (x : Nat) => let d := r.descend r.logn 1 x; ({ d := ofN (d.1 - r.n), p := true, read := 1 :: d.2 } : Answer)
  if r.isFloat then
    let t := decodeF .f32 root
    if t.isNan || t.isInf || !(FP.lt (.fin false 0 0) t) then none_
    else
      let x := roundF .f32 .rn ((FP.fin false (draw / 2 ^ 40) (-24)).mul t)
      from_ (if (decodeF .f32 x).lt t then x else root - 1)
  else
    let t := signExt root 64
    if t ≤ 0 then none_ else from_ (draw * t.toNat / 2 ^ 64)

/-- What a query reads at one point of the region's application order (R83). -/
def Region.query (r : Region) : AggOp → Option Answer
  | .range _ lo hi => some (r.range lo hi)
  | .pfx _ x => some (r.pfx (ofN x))
  | .pick _ d => some (r.pickBy (d.getD 0))
  | _ => none

end Sys2Proof.Machine
end

