-- ==== Sys2Proof/Machine/Slice.lean ====
section
/-!
DEFINITION. Home slices, networks, walkers and the host steps of an access (spec/03_memory_paths.md R55 to R66,
spec/06_ordering.md R119 to R143, spec/02_address_spaces.md R33 to R41, spec/15_faults.md R407 to R410,
spec/16_device.md R424).
-/

namespace Sys2Proof.Machine

/-! ## Corrected errors (R407 to R409) -/

def unitCode : UnitKind → Nat
  | .core => 0
  | .slice => 1
  | .channel => 2
  | .port => 3
  | .controller => 4

/-- Units of a kind that the module has (R2, R56): cores, slices, HBM channels, Ethernet ports, the management controller. -/
def unitCount : UnitKind → Nat
  | .core => Config.cores
  | .slice => Config.slices
  | .channel => 256
  | .port => 18
  | .controller => 1

/-- ORIGIN coding of R414. -/
def originOf (k : UnitKind) (i : Nat) : Nat := i % 256 + 256 * unitCode k

/-- The partition holds a unit. -/
def Partition.holds (p : Partition) (k : UnitKind) (i : Nat) : Bool :=
  match k with
  | .core => p.hives.contains (hiveOf i)
  | .slice => p.slices.contains i
  | .channel => p.groups.contains (i / 16)
  | _ => false

/-- A corrected error counts against its unit; a 0xE0 record goes out at each multiple of 256. -/
def State.corrected (s : State) (k : UnitKind) (i : Nat) : State :=
  let n := (((s.ecc.find? (fun e => e.1 == unitCode k && e.2.1 == i)).map (·.2.2)).getD 0 + 1) % 2 ^ 32
  let s := { s with ecc := (unitCode k, i, n) :: s.ecc.filter (fun e => !(e.1 == unitCode k && e.2.1 == i)) }
  if n % 256 != 0 then s
  else s.parts.foldl (fun s p => if p.2.holds k i then s.event p.1 0xE0 (originOf k i + n * 2 ^ 32) else s) s

/-! ## Injection and arrival of flits (R57 to R64) -/

/-- The unit that sends a packet: a request's source, or the slice that replies. -/
def Pkt.from_ (k : Pkt) : Src := if k.reply then .slice k.dst else k.src

/-- A request is within its source's 64 sequence numbers (R60). -/
def State.inWindow (s : State) (k : Pkt) : Bool :=
  match tget s.reqs k.req with
  | some r => k.reply || decide (r.seq < s.lowSeq r.src r.dst + 64)
  | none => true

/-- Index of a request in HomeTable (R54, R73, R333). -/
def Req.homeIndex (r : Req) : Nat :=
  match r.kind with
  | .atomic (.waggle h n _) => (8 * h + n % 8) % 256
  | .atomic (.ring n _) => n % 256
  | .update slot _ => slot % 256
  | .query slot => slot % 256
  | _ => hashPa r.ph.pa

/-- While a resize is under way, the home of a request will change (R426). -/
def State.rehomed (s : State) (r : Req) : Bool :=
  let q := s.part r.part
  !q.moving.isEmpty && q.moving[r.homeIndex]? != q.home[r.homeIndex]?

/-- A request that waits at injection for a resize (R426 step 3). -/
def State.heldBack (s : State) (k : Pkt) : Bool :=
  match tget s.reqs k.req with
  | some r => !k.reply && !k.retry && !k.cancel && k.sent == 0 && s.rehomed r
  | none => false

/-- An earlier packet of the same source still waits to be injected. -/
def State.behind (s : State) (p : Nat) (k : Pkt) : Bool :=
  s.pkts.any (fun e => decide (e.1 < p) && decide (e.2.sent < e.2.flits) && e.2.part == k.part &&
    e.2.from_ == k.from_ && s.inWindow e.2 && !s.heldBack e.2)

/-- The wait after the nth send (R65). -/
def waitAfter (n : Nat) : Nat := 16384 * 2 ^ (min n 5 - 1)

/-- A packet leaves its injection point: its header takes the source's lowest unacknowledged number, and its age counts from
now; a copy of a request carries the age of the request, whose timer starts with it (R57, R58, R65). -/
def State.leaves (s : State) (k : Pkt) : Pkt × State :=
  if k.sent != 0 then (k, s)
  else
    ({ k with firstIn := some s.now, low := s.lowSeq k.src k.dst },
      if k.reply then s
      else { s with reqs := tmod s.reqs k.req (fun r => { r with
        firstIn := some (r.firstIn.getD s.now), deadline := s.now + waitAfter r.sends }) })

def execFlitInjection (p : Nat) (s : State) : Out :=
  .next (match tget s.pkts p with
    | none => s
    | some k =>
      if k.flits ≤ k.sent || !s.inWindow k || s.behind p k || s.heldBack k then s
      else
        let up := fun (s : State) =>
          let (k, s) := s.leaves k
          { s with pkts := tset s.pkts p { k with sent := k.sent + 1 } }
        match s.buckets.find? (fun b => b.1 == k.die && b.2.1 == k.part) with
        | none => up s
        | some b =>
          if rateOf b.2.2.1 = 0 then up s
          else if b.2.2.2 < 1024 then s
          else up { s with buckets := s.buckets.map (fun e =>
            if e.1 == k.die && e.2.1 == k.part then (e.1, e.2.1, e.2.2.1, e.2.2.2 - 1024) else e) })

/-- A packet of which no flit is left under way. -/
def Pkt.arrivedAll (k : Pkt) : Bool := k.arrived == k.flits

/-- The unit that receives a packet, as it counts corrected errors (R61, R408): the slice of a request; of a reply the core, the
slice or the port that asked. A walker group and the host port count at the slice that answers them: R408 counts cores,
slices, channels and ports alone (notes/assumptions/81.md). -/
def Pkt.receiver (k : Pkt) : UnitKind × Nat :=
  match k.reply, k.src with
  | true, .core c => (.core, c)
  | true, .engine c => (.core, c)
  | true, .slice n => (.slice, n)
  | true, .port n => (.port, n)
  | _, _ => (.slice, k.dst)

/-- A packet that has lost a flit goes. DESIGN CHOICE (notes/assumptions/15.md): the slice sends a lost reflection of a waggle again, as
no request of the hive is there to be sent again. -/
def execFlitArrival (p : Nat) (good : Bool) (s : State) : Out :=
  .next (match tget s.pkts p with
    | none => s
    | some k =>
      if k.sent ≤ k.arrived then s
      else
        let s := if good then s else s.corrected k.receiver.1 k.receiver.2
        let k := { k with arrived := k.arrived + 1, lost := k.lost || !good }
        let k := if k.arrivedAll then { k with arrivedAt := s.now } else k
        let s := if good then s else { s with reqs := tmod s.reqs k.req (fun r => { r with crc := true }) }
        if !(k.lost && k.arrivedAll) then { s with pkts := tset s.pkts p k }
        else if k.waggle.isSome then { s with pkts := tset s.pkts p { k with sent := 0, arrived := 0, lost := false } }
        else { s with pkts := tdel s.pkts p })

/-! ## Bits of a node and the order log (R141, R142) -/

/-- Bits of the node at an address; 0 when it cannot be read. -/
def State.nodeBits (s : State) (p addr : Nat) : Nat × State :=
  match readNode s p addr with
  | (.ok n, s) => (n.r, s)
  | (.error _, s) => (0, s)

/-- Set one of bits 1663 to 1656 of a node: 7 STOPPED, 6 BREACH, 5 LOGLOST, 4 REPLAY. -/
def State.setFlag (s : State) (p addr b : Nat) : State :=
  let (r, s) := s.nodeBits p addr
  putNode s p addr 207 [BitVec.ofNat 8 (bits r 1663 1656 ||| 2 ^ b)]

/-- Effective address space and order log of a queue node: ASID, root, base, size. -/
def logSpace (s : State) (p addr : Nat) : Option (Nat × Nat × Nat × Nat) × State :=
  match chain s p 17 addr with
  | (.ok ns, s) =>
    let e := effOf ns 0
    (some (e.asid, e.ptroot, (logOf ns).1, (logOf ns).2), s)
  | (.error _, s) => (none, s)

/-- The log is lost: 0xD1 once, LOGLOST, and no further entries (R142). -/
def logLost (s : State) (p q : Nat) (qu : Queue) : State :=
  let s := if qu.logFull then s else s.event p 0xD1 q
  (s.modPart p (fun x => { x with queues := tmod x.queues q (fun y => { y with logFull := true }) })).setFlag p qu.node 5

/-- Append an entry to a queue's order log (R142). While a page of it waits for the host, the step that logs is tried again. -/
def appendLog (s : State) (p q : Nat) (qu : Queue) (entry : List Byte) : State :=
  if qu.logFull then s
  else
    let (r, s) := s.nodeBits p qu.node
    let ptr := bits r 1639 1600
    match logSpace s p qu.node with
    | (none, s) => if s.blocked then s else logLost s p q qu
    | (some (asid, root, base, size), s) =>
      if size < ptr + 64 then logLost s p q qu
      else match writeSys s p asid root (base + ptr) entry with
        | (.error _, s) => if s.blocked then s else logLost s p q qu
        | (.ok _, s) => putNode s p qu.node 200 (leBytes 5 (ptr + 64))

/-- Key of an ordered entry (R138). -/
def OrdEntry.key (e : OrdEntry) : List Nat := [e.lseq, e.grp, e.epoch, e.tid, e.opidx]

/-- Comparison field by field from the left. -/
def keyLt : List Nat → List Nat → Bool
  | a :: as, b :: bs => decide (a < b) || (a == b && keyLt as bs)
  | _, _ => false

/-- The entry of the smallest key. -/
def leastEntry : List OrdEntry → Option OrdEntry
  | [] => none
  | e :: es => some (es.foldl (fun m x => if keyLt x.key m.key then x else m) e)

/-- The entry of the largest key. -/
def mostEntry : List OrdEntry → Option OrdEntry
  | [] => none
  | e :: es => some (es.foldl (fun m x => if keyLt m.key x.key then x else m) e)

/-- Entries of a line at a slice, admitted or not. -/
def Slice.heldFor (x : Slice) (ph : Phys) : List OrdEntry := (x.buffer ++ x.arriving).filter (fun e => sameLine e.ph ph)

/-- The determinism record is that of a line. -/
def OwnLine.is (o : OwnLine) (ph : Phys) : Bool := o.pa == lineOf ph.pa && o.host == ph.host

/-- The address that the owner's space gives the target of an atomic at its line (R142). -/
def OwnLine.target (o : OwnLine) (ph : Phys) : Nat := o.va + ph.pa % 64

/-- The 64 bytes of an order-log entry (R142). -/
def logEntry (va opc fn n x cmp : Nat) (key : Option (Nat × Nat × Nat × Nat × Nat)) (first : Nat) : List Byte :=
  let oper := opc * 64 + fn * 4 + Nat.log2 n
  leBytes 64 (va * 2 ^ 448 + (match key with
    | some (l, g, e, t, o) => l * 2 ^ 384 + g % 2 ^ 32 * 2 ^ 352 + e % 2 ^ 16 * 2 ^ 336 + t % 2 ^ 16 * 2 ^ 320 + o % 2 ^ 32 * 2 ^ 288
    | none => first * 2 ^ 384 + 2 ^ 128) +
    x % 2 ^ (8 * n) * 2 ^ 224 + (if opc = 0x146 then cmp % 2 ^ (8 * n) else 0) * 2 ^ 160 + oper * 2 ^ 144)

/-- An intrusion at a line with an owner: logged, and the breach flag is set (R141, R143). DESIGN CHOICE
(notes/assumptions/83.md): where the owner holds nothing there and has applied nothing, because its entries were rejected or
torn down, the entry is logged with FIRST set and KLAUNCH 0. -/
def State.intrude (s : State) (slice : Nat) (o : OwnLine) (ph : Phys) (opc fn n x cmp : Nat) : State :=
  match tget (s.part o.part).queues o.queue with
  | none => s
  | some qu =>
    let (r, s) := s.nodeBits o.part qu.node
    let s := s.setFlag o.part qu.node 6
    if bit r 1660 then s.setFlag o.part qu.node 5
    else
      let held := leastEntry ((s.slice slice).heldFor ph)
      let va := o.target ph
      match o.last, held with
      | none, some h => appendLog s o.part o.queue qu (logEntry va opc fn n x cmp none h.lseq)
      | last, _ => appendLog s o.part o.queue qu (logEntry va opc fn n x cmp last 0)

/-! ## Performing a request at its home slice -/

/-- What comes of it: a reply with fault, data and line; or none, where the requester is parked or its entry is held. -/
abbrev Perf := Option (Nat × List Byte × List Byte) × State

/-- Thread and operation that an operation's store follows. -/
def State.whoOf (s : State) (id : Nat) : Option (Nat × Nat × Nat) := (tget s.ops id).map (fun o => (o.wg, o.tid, id))

/-- Thread and operation that a request's store follows. -/
def State.who (s : State) (r : Req) : Option (Nat × Nat × Nat) :=
  match r.op with
  | some id => s.whoOf id
  | none => r.by_

/-- The atomic read, modify and write (R312). -/
def State.rmwAt (s : State) (part : Nat) (ph : Phys) (va n opc fn ty x cmp : Nat) (launch : Option Nat)
    (who : Option (Nat × Nat × Nat)) : Perf :=
  match s.load ph n with
  | .error f => (some (f, [], []), s)
  | .ok old => (some (0, old, []), s.store part ph va (rmwBytes opc fn ty x cmp old) launch who)

/-- Whether the operation of a request writes its destination; an atomic of no thread is a peer's, which has its old value sent back. -/
def State.returning (s : State) (r : Req) : Bool :=
  r.op.isNone || match r.op.bind (fun o => (tget s.ops o).map (fun (o : Op) => o.kind)) with
  | some (.mem (.atomic ret _)) => ret
  | _ => false

/-- An atomic at a line of a DET page, or anywhere else (R137, R141). DESIGN CHOICE (notes/assumptions/83.md): a queue whose entry
arrives again at a line that it owns, and where none of its entries is held any more, goes on owning it: an intrusion is still
placed after the entry that it applied last. -/
def State.atomicAt (s : State) (r : Req) (opc fn ty x cmp : Nat) : Perf :=
  let own := (s.slice r.dst).owners.find? (fun o => o.is r.ph)
  let plain := s.rmwAt r.part r.ph r.va r.n opc fn ty x cmp r.launch (s.who r)
  let intrusion : Perf := match own, plain.1 with
    | some o, some (0, _) => (plain.1, plain.2.intrude r.dst o r.ph opc fn r.n x cmp)
    | _, _ => plain
  if !r.ph.det || !orderSensitive opc fn (s.returning r) then plain
  else
    let l := r.launch.bind (fun l => tget s.launches l)
    match r.key, r.op, l, l.bind (·.queue) with
    | some (epoch, opidx), some op, some l, some q =>
      let same := (own.map (fun o => o.queue == q && o.part == r.part)).getD false
      if !((s.slice r.dst).heldFor r.ph).isEmpty && !same then intrusion
      else
        let (w, t) := ((s.whoOf op).map (fun e => (e.1, e.2.1))).getD (0, 0)
        if ((s.wg w).map (·.torn)).getD true then (some (0, List.replicate r.n 0, []), s)
        else
        let e : OrdEntry := { req := 0, op := op, queue := q, part := r.part, launch := r.launch.getD 0, lseq := l.lseq, wg := w,
                              grp := ((s.wg w).map (·.idx)).getD 0, epoch := epoch, tid := t, opidx := opidx, ph := r.ph,
                              va := r.va, n := r.n, a := .rmw opc fn ty x cmp }
        let mine : OwnLine := { pa := lineOf r.ph.pa, host := r.ph.host, va := lineOf r.va, queue := q, part := r.part }
        let s := s.modOp op (fun o => { o with ordered := true })
        (none, s.modSlice r.dst (fun k => { k with
          arriving := k.arriving ++ [e]
          owners := if same then k.owners.map (fun o => if o.is r.ph then { o with va := lineOf r.va } else o)
            else mine :: k.owners.filter (fun o => !o.is r.ph) }))
    | _, _, _, _ => intrusion

/-! ### Sync objects (R119, R121, R122, R129) -/

/-- An object whose reserved or holder fields are malformed. -/
def badObject (o : Nat) : Bool := bits o 511 128 != 0 || (!bit o 127 && bits o 126 64 != 0)

/-- The first 16 bytes of an object. -/
def objectBytes (seq : Nat) (holder : Option (Nat × Nat × Nat)) : List Byte :=
  leBytes 16 (seq % 2 ^ 64 + (match holder with
    | some (l, g, t) => 2 ^ 127 + l % 2 ^ 24 * 2 ^ 103 + g % 2 ^ 28 * 2 ^ 75 + t % 2 ^ 11 * 2 ^ 64
    | none => 0))

/-- An acquire that had been parked is performed: SEQ is written and the threads go on (R122, R147). -/
def State.grantAcquire (s : State) (w : Waiter) (seq : Nat) : State :=
  match tget s.ops w.op with
  | none => s
  | some o =>
    let core := ((s.wg o.wg).map (·.core)).getD o.core
    (s.acquireAt core w.part { pa := w.pa, host := w.host }).finish w.op (o.dst.map (fun d => (d, ofN seq)))

/-- Park the threads of an acquire; one whose workgroup has been torn down is dropped (R398). -/
def State.parkAcquire (s : State) (r : Req) (a : Aop) : State :=
  match r.op with
  | none => s
  | some id =>
    match tget s.ops id with
    | none => s
    | some o =>
      if o.waiters.isEmpty then { s with ops := tdel s.ops id }
      else
      let s := o.waiters.foldl (fun s t => s.modThread o.wg t (fun th => { th with st := .parked (.sync id) })) s
      { s with waiters := s.waiters ++ [{ pa := r.ph.pa, host := r.ph.host, op := id, a := a, part := r.part, va := r.va,
                                          launch := r.launch }] }

/-- The effect of rel at the object (R121): SEQ advances, the head of the exclusive queue is granted, waiters wake. -/
def State.relAt (s : State) (r : Req) (seq : Nat) (held : Bool) : State :=
  let mine := fun (w : Waiter) => w.pa == r.ph.pa && w.host == r.ph.host
  let head := if held then s.waiters.find? (fun w => mine w && (match w.a with
    | .acqX .. => true
    | _ => false)) else none
  let holder := match head.map (·.a) with
    | some (.acqX l g t) => some (l, g, t)
    | _ => none
  let s := s.store r.part r.ph r.va (objectBytes seq holder) r.launch (s.who r)
  let wake := fun (w : Waiter) => mine w && (match w.a with
    | .acqGe x => decide (x ≤ seq)
    | _ => (head.map (·.op)) == some w.op)
  let go := s.waiters.filter wake
  go.foldl (fun s w => s.grantAcquire w seq) { s with waiters := s.waiters.filter (fun w => !wake w) }

/-- An operation on a sync object. -/
def State.syncAt (s : State) (r : Req) (a : Aop) : Perf :=
  match s.load r.ph 64 with
  | .error f => (some (f, [], []), s)
  | .ok bytes =>
    let o := leNat bytes
    let seq := bits o 63 0
    let held := bit o 127
    let holder := (bits o 126 103, bits o 102 75, bits o 74 64)
    let perform := fun (s : State) => match r.src with
      | .core c => s.acquireAt c r.part r.ph
      | _ => s
    if badObject o then (some (0xC0, [], []), s)
    else match a with
      | .acq => (some (0, leBytes 8 seq, []), perform s)
      | .acqGe x => if x ≤ seq then (some (0, leBytes 8 seq, []), perform s) else (none, s.parkAcquire r a)
      | .acqX l g t =>
        if held then (if holder == (l, g, t) then (some (0xC1, [], []), s) else (none, s.parkAcquire r a))
        else (some (0, leBytes 8 seq, []),
          perform (s.store r.part r.ph r.va (objectBytes seq (some (l, g, t))) r.launch (s.who r)))
      | .rel l g t =>
        if held && holder != (l, g, t) then (some (0xC2, [], []), s)
        else (some (0, [], []), s.relAt r ((seq + 1) % 2 ^ 64) held)
      | _ => (some (0, [], []), s)

/-- A waggle is taken into the handler queue (R203), and its slice reflects it to the hive as a reply (R55). -/
def State.takeWaggle (s : State) (r : Req) (hive n : Nat) (regs : List Word) : Perf :=
  if 4096 ≤ (s.part r.part).waggles.length then (some (0xB7, [], []), s)
  else
    let tag := ((r.launch.bind (fun l => tget s.launches l)).map (·.ltag)).getD 0
    let (id, s) := s.newId
    let s := s.modPart r.part (fun q => { q with
      waggles := q.waggles ++ [{ id := id, here := false, hive := hive, n := n, regs := regs, ltag := tag, slice := r.dst }] })
    (some (0, [], []), s.inject { req := 0, src := .core (8 * hive), dst := r.dst, reply := true, flits := 3, die := dieOfSlice r.dst,
                                  part := r.part, waggle := some id })

/-- The reflection of a waggle has reached its hive. -/
def State.waggleHere (s : State) (p id : Nat) : State :=
  s.modPart p (fun q => { q with waggles := q.waggles.map (fun w => if w.id == id then { w with here := true } else w) })

/-- A slice ORs a walker's bits into a page-table entry (R36): the entry before, and the line after. -/
def State.orAt (s : State) (r : Req) (m : Nat) : Perf :=
  match s.load r.ph 8 with
  | .error f => (some (f, [], []), s)
  | .ok old =>
    let s := s.store r.part r.ph r.va (leBytes 8 (leNat old ||| m)) none none
    (some (0, old, memRead s.mem (lineOf r.ph.pa) 64), s)

/-- The update of a region has reached the region home, and stands after those that came before it (R77, R78). -/
def Region.arrive (r : Region) (uid : Nat) : Region :=
  { r with updates := r.updates.filter (fun u => u.uid != uid) ++
      (r.updates.filter (fun u => u.uid == uid)).map (fun u => { u with here := true }) }

/-- Change the region in a slot, if there is one. -/
def State.modRegion (s : State) (p slot : Nat) (f : Region → Region) : State :=
  s.modPart p (fun q => { q with regions := tmod q.regions slot f })

/-- The bytes that a store brings, with those of accesses merged into it, cover its line. -/
def Req.covers (r : Req) : Bool :=
  let parts := (r.ph.pa, r.dataSize - (r.shares.map (fun e => e.data.length)).sum) :: r.shares.map (fun e => (e.pa, e.data.length))
  (List.range 64).all (fun i => parts.any (fun p => p.1 ≤ lineOf r.ph.pa + i && decide (lineOf r.ph.pa + i < p.1 + p.2)))

/-- A store, and those merged into it, performed at the home slice as one write, which forwards one update (R77): one that covers its line clears its poison (R410), and leaves
an absent line present where its page and hint allow (R35, R53, R235). -/
def State.storeAt (s : State) (r : Req) (d : List Byte) : State :=
  let line := lineOf r.ph.pa
  let whole := r.covers && !r.ph.host
  let s : State := if whole then { s with poison := s.poison.filter (· != line), slicePoison := s.slicePoison.filter (· != line) } else s
  let s := s.write r.ph r.va d r.launch
  let s := r.shares.foldl (fun (s : State) e => s.write { r.ph with pa := e.pa } e.va e.data r.launch) s
  let s := if r.ph.host then s
    else s.forward r.part [line] ((s.who r).toList ++ r.shares.filterMap (fun e => s.whoOf e.op)) r.launch
  if !whole then s
  else
    if r.ph.cache == 2 || r.hint == 5 || s.inL2 line then s else s.l2Put { pa := line, slice := r.dst, dirty := true, hint := r.hint }

/-- A request leaves its line in the slice: its page and its hint allow it (R35, R235). -/
def Req.keeps (r : Req) : Bool := r.ph.cache != 2 && r.hint != 5

/-- A load at the home slice: its bytes, and the whole line where a cache, a merged access or an access of the hardware takes it. -/
def State.loadAt (s : State) (r : Req) : Perf :=
  match s.load r.ph r.n with
  | .error f => (some (f, [], []), s)
  | .ok d =>
    let line := if r.ph.host then memRead s.host (lineOf r.ph.pa) 64 else memRead s.mem (lineOf r.ph.pa) 64
    (some (0, d, if (r.fill.isSome && !r.ph.host) || !r.shares.isEmpty || r.owner.isSome then line else []), s)

/-- Checks of an aggregate operation where its region's home accepts it: 0, or the fault (R93). -/
def acceptCode (r : Option Region) (a : AggOp) : Nat :=
  match r, a with
  | none, _ => 0x41
  | some r, .pick .. => if r.agg != 0 then 0x46 else 0
  | some r, .range _ _ hi => if 2 ^ r.logn < hi then 0x42 else 0
  | _, _ => 0

/-- The slot and region of a handle that is not stale (R69). -/
def State.regionOf (s : State) (p h : Nat) : Option (Nat × Region) :=
  let q := s.part p
  let slot := bits h 11 0
  if bits h 63 36 != 0 || bits h 35 32 != p || bits h 31 12 != (tget q.gens slot).getD 0 then none
  else match tget q.regions slot with
    | some r => if r.freeing.isSome then none else some (slot, r)
    | none => none

/-- Handle of an aggregate operation that names one. -/
def AggOp.handle : AggOp → Nat
  | .free h => h
  | .range h _ _ => h
  | .pfx h _ => h
  | .pick h _ => h
  | .sync (some h) => h
  | _ => 0

/-- The home slice caches the lines of the nodes that it touches, and of the frame-map entries that it consults (R73). -/
def State.touchNodes (s : State) (p slot : Nat) (r : Region) (is pages : List Nat) : State :=
  ((is.map (fun i => lineOf (s.nodePa p r i)) ++ pages.map (fun j => lineOf (s.framePa p r j))).eraseDups).foldl (fun (s : State) l =>
    if s.inL2 l then s else s.l2Put { pa := l, slice := s.homeOfSlot p slot, node := true, dirty := true }) s

/-- A query reads its nodes at the point of the region's application order at which it is accepted (R78, R83, R93). -/
def State.readQuery (s : State) (p id slot : Nat) (r : Region) (a : AggOp) : State :=
  match r.query a with
  | none => s
  | some q => (s.modOp id (fun o => { o with answer := some (q.d, q.p, q.read.any r.badNodes.contains) })).touchNodes p slot r q.read []

/-- A query at the region that its handle names, where there is one. -/
def State.readsAt (s : State) (p id : Nat) (at_ : Option (Nat × Region)) (a : AggOp) : State :=
  match at_ with
  | some (slot, r) => s.readQuery p id slot r a
  | none => s

/-- An aggregate operation at its region's home (R87, R93): refused with its fault, or accepted. A query is read, a pick after its
draw, and a free removes the slot and its binding. DESIGN CHOICE (notes/assumptions/24.md): a handle that names the region before the build of
its agg.decl has completed is accepted. -/
def State.acceptAt (s : State) (r : Req) : Perf :=
  match r.op.bind (fun id => (tget s.ops id).map (fun o => (id, o))) with
  | none => (some (0, [], []), s)
  | some (id, o) =>
    match o.kind with
    | .agg a =>
      let at_ := s.regionOf r.part a.handle
      (match acceptCode (at_.map (·.2)) a with
      | 0 =>
        let s := s.modOp id (fun o => { o with accepted := true })
        let slot := (at_.map (·.1)).getD 0
        (some (0, [], []), match a with
          | .pick h _ =>
            let (d, s) := s.rngDraw o.wg o.tid
            (s.modOp id (fun o => { o with kind := .agg (.pick h (some d)) })).readsAt r.part id at_ (.pick h (some d))
          | .free _ => (s.modRegion r.part slot (fun x => { x with freeing := some id })).modPart r.part (fun q => { q with
              bindings := q.bindings.filter (fun b => b.region != some slot) })
          | a => s.readsAt r.part id at_ a)
      | f => (some (f, [], []), s))
    | _ => (some (0, [], []), s)

/-! ### Scaling rings (R225, R384) -/

/-- Store a value into a ring: the sign is cleared and a NaN stands as +∞. -/
def ringPush (r : List (BitVec 32) × Nat) (x : Nat) : List (BitVec 32) × Nat :=
  (r.1.set r.2 (BitVec.ofNat 32 (min (x % 2 ^ 31) 0x7F80_0000)), (r.2 + 1) % 16)

/-- Sixteen entries of +0. -/
def ringNew : List (BitVec 32) × Nat := (List.replicate 16 0, 0)

/-- The largest entry; none is negative. -/
def ringMax (r : List (BitVec 32) × Nat) : Nat := r.1.foldl (fun m e => max m e.toNat) 0

/-- A scaling ring of a partition. -/
def State.ring (s : State) (p n : Nat) : List (BitVec 32) × Nat := (tget (s.part p).rings n).getD ringNew

/-- A request at a scaling ring's slice: the push, then the maximum. -/
def State.ringAt (s : State) (p n : Nat) (v : Option Nat) : Perf :=
  let s := match v with
    | some x => s.modPart p (fun q => { q with rings := tset q.rings n (ringPush (s.ring p n) x) })
    | none => s
  (some (0, leBytes 4 (ringMax (s.ring p n)), []), s)

/-- Perform a request at its home slice or in host memory. -/
def State.perform (s : State) (r : Req) : Perf :=
  match r.kind with
  | .load => s.loadAt r
  | .store d => (some (0, [], []), s.storeAt r d)
  | .atomic (.rmw opc fn ty x cmp) => s.atomicAt r opc fn ty x cmp
  | .atomic (.waggle h n regs) => s.takeWaggle r h n regs
  | .atomic (.orWord m) => s.orAt r m
  | .atomic (.ring n v) => s.ringAt r.part n v
  | .atomic .wb =>
    (some (0, [], []), { s with l2 := s.l2.map (fun (l : L2Line) => if !r.ph.host && l.pa == lineOf r.ph.pa then { l with dirty := false } else l) })
  | .atomic a => s.syncAt r a
  | .update slot uid => (some (0, [], []), s.modRegion r.part slot (fun x => x.arrive uid))
  | .query _ => s.acceptAt r

/-- Whether the slice must first read the line from HBM (R35, R53, R410): not for a waggle, a write-back, an update, an aggregate
operation, a store of the full line, or one to a line that is not to be held. -/
def State.needsLine (s : State) (r : Req) : Bool :=
  !r.ph.host && !r.read && !s.inL2 r.ph.pa &&
  (match r.kind with
    | .store _ => !r.covers && r.keeps
    | .atomic .wb => false
    | .atomic (.waggle ..) => false
    | .atomic (.ring ..) => false
    | .update .. => false
    | .query _ => false
    | _ => true)

/-- The thread's earlier stores are acknowledged, and the updates forwarded from them to the region in a slot, or to any, have been
applied (R84). -/
def State.ownStoresIn (s : State) (o : Op) (id : Nat) (slot : Option Nat) : Bool :=
  s.doneOwn o.wg o.tid .st id && s.forwardsDone o.wg o.tid slot id

/-- An agg.sync of the thread of an operation, issued before it, has not completed (R85). -/
def State.syncAhead (s : State) (id : Nat) : Bool :=
  match tget s.ops id with
  | none => false
  | some o => s.ops.any (fun e => decide (e.1 < id) && !e.2.done && e.2.wg == o.wg && e.2.tid == o.tid && (match e.2.kind with
    | .agg (.sync _) => true
    | _ => false))

/-- What its home does not perform yet: a store or atomic of a thread behind its agg.sync, so that a flag written after it tells that
the updates have been applied (R85, notes/assumptions/99.md); a query before its thread's earlier stores are all applied (R84). -/
def State.notYet (s : State) (r : Req) : Bool :=
  match r.kind with
  | .store _ => (r.op.toList ++ r.shares.map (·.op)).any s.syncAhead
  | .atomic (.rmw ..) => r.op.any s.syncAhead
  | .query slot => r.op.any (fun id => (tget s.ops id).any (fun o => match o.kind with
    | .agg a => (match a with
      | .range .. => true
      | .pfx .. => true
      | .pick .. => true
      | _ => false) && acceptCode ((s.regionOf r.part a.handle).map (·.2)) a == 0 && !s.ownStoresIn o id (some slot)
    | _ => false))
  | _ => false

/-! ## The request window (R66) -/

/-- A slice's window for a source. -/
def State.windowFor (s : State) (slice : Nat) (src : Src) : Window :=
  (s.windows.find? (fun w => w.slice == slice && w.src == src)).getD { slice := slice, src := src }

def State.setWindow (s : State) (x : Window) : State :=
  { s with windows := x :: s.windows.filter (fun w => !(w.slice == x.slice && w.src == x.src)) }

/-- A header's lowest unacknowledged number moves the window, which drops the results below it. -/
def State.noteLow (s : State) (slice : Nat) (src : Src) (low : Nat) : State :=
  let w := s.windowFor slice src
  if low ≤ w.low then s else s.setWindow { w with low := low, ran := w.ran.filter (fun x => decide (low ≤ x.1)) }

/-- Record a result. -/
def State.record (s : State) (slice : Nat) (src : Src) (e : Nat × Nat × List Byte × List Byte) : State :=
  let w := s.windowFor slice src
  s.setWindow { w with ran := e :: w.ran }

/-- Executed(n): recorded, or below the window. -/
def State.executed (s : State) (slice : Nat) (src : Src) (n : Nat) : Bool :=
  let w := s.windowFor slice src
  decide (n < w.low) || w.ran.any (fun e => e.1 == n)

/-- The request waits for its predecessor (R60). -/
def State.heldFor (s : State) (r : Req) : Bool := !((r.pred.map (s.executed r.dst r.src)).getD true)

/-- The order of R130 among requests to one line that arrive in the same cycle: age as they arrive, die, core, home lane, sequence
number. DESIGN CHOICE (notes/assumptions/100.md): an engine front end ranks as its core, and a request of no thread as home lane 0. -/
def State.rankOf (s : State) (k : Pkt) (r : Req) : List Nat :=
  let core := match r.src with
    | .core c => c
    | .engine c => c
    | _ => 256
  let lane := match s.who r with
    | some (_, t, _) => t % 32
    | none => 0
  [65535 - min 65535 (k.arrivedAt - r.firstIn.getD k.arrivedAt), r.src.die, core, lane, r.seq]

/-- Another request to the line has been accepted before this one: it arrived in an earlier cycle, or R130 puts it first (R130).
One that waits for its predecessor is not accepted yet; and in the cycle in which a request arrives its rivals may still come. -/
def State.outranked (s : State) (p : Nat) (k : Pkt) (r : Req) : Bool :=
  r.kind.onLine && (decide (s.now ≤ k.arrivedAt) || s.pkts.any (fun e => e.1 != p && !e.2.reply && !e.2.lost && e.2.arrivedAll && e.2.dst == r.dst &&
    (match tget s.reqs e.2.req with
      | some q => q.kind.onLine && sameLine q.ph r.ph && !s.heldFor q &&
          (decide (e.2.arrivedAt < k.arrivedAt) || (e.2.arrivedAt == k.arrivedAt && keyLt (s.rankOf e.2 q) (s.rankOf k r)))
      | none => false)))

/-- Send the reply of a request. -/
def State.sendReply (s : State) (req : Nat) (r : Req) (fault : Nat) (data line : List Byte) : State :=
  s.inject { req := req, src := r.src, dst := r.dst, reply := true, flits := 1 + ceilDiv (max data.length line.length) 32,
             data := data, line := line, fault := fault, die := dieOfSlice r.dst, part := r.part }

/-- A request without a reply is acknowledged in the same step: its operation waits at the slice. -/
def State.acknowledge (s : State) (req : Nat) : State := { s with reqs := tdel s.reqs req }

/-- A hint to keep a line, or to give it up first, marks the line that is present (R235). -/
def State.hintLine (s : State) (r : Req) : State :=
  if r.hint == 3 || r.hint == 4 then
    { s with l2 := s.l2.map (fun (l : L2Line) => if l.pa == lineOf r.ph.pa && !r.ph.host then { l with hint := r.hint } else l) }
  else s

/-- Perform, record and reply. DEDUCED (notes/assumptions/16.md): a request that becomes an ordered entry, and an acquire that parks,
is acknowledged as it is admitted and counts from then on as executed for a later request's predecessor (R60); its result
reaches the core later, without a reply packet (R65, R122, R139). -/
def State.runRequest (s : State) (req : Nat) (r : Req) (pre : Option Nat) : State :=
  match (match pre with
    | some f => (some (f, [], []), s)
    | none => (s.hintLine r).perform r) with
  | (some (f, d, l), s) => (s.record r.dst r.src (r.seq, f, d, l)).sendReply req r f d l
  | (none, s) => (s.record r.dst r.src (r.seq, 0, [], [])).acknowledge req

/-- A cancel marks a request that has not executed as executed (R65); an update that it names is gone. -/
def State.cancelled (s : State) (req : Nat) (r : Req) : State :=
  let s := match r.kind with
    | .update slot uid => s.modRegion r.part slot (fun x => { x with updates := x.updates.filter (fun u => u.uid != uid) })
    | _ => s
  (s.record r.dst r.src (r.seq, 0xE1, [], [])).sendReply req r 0xE1 [] []

/-- A complete request at its slice. -/
def State.serve (s : State) (p : Nat) (k : Pkt) (r : Req) : State :=
  let drop := fun (s : State) => { s with pkts := tdel s.pkts p }
  let s := s.noteLow r.dst r.src k.low
  let w := s.windowFor r.dst r.src
  if r.seq < w.low then drop s
  else match w.ran.find? (fun e => e.1 == r.seq) with
  | some (_, f, d, l) => if k.retry || k.cancel then drop (s.sendReply k.req r f d l) else drop s
  | none =>
    if k.cancel then drop (s.cancelled k.req r)
    else if s.heldFor r || s.outranked p k r || s.notYet r then s
    else if r.ph.host then
      (if r.hostSt = 2 then drop (s.runRequest k.req r none)
      else if r.hostSt = 3 then drop (s.runRequest k.req r (some 0xE6))
      else if !s.link then drop (s.runRequest k.req r (some 0xE6))
      else if r.hostSt = 1 || s.linkFull then s
      else { s with reqs := tset s.reqs k.req { r with hostSt := 1, hostAt := s.now } })
    else if s.needsLine r then
      (if s.hbmReads.contains (lineOf r.ph.pa) then s else { s with hbmReads := lineOf r.ph.pa :: s.hbmReads })
    else drop (s.runRequest k.req r none)

/-- Serve a packet that has arrived whole, if a test on its request holds. -/
def State.serveAt (s : State) (p : Nat) (sel : Req → Bool) : State :=
  s.attempt (fun s => match tget s.pkts p with
    | none => s
    | some k =>
      if k.reply || k.lost || !k.arrivedAll then s
      else match tget s.reqs k.req with
        | some r => if sel r then s.serve p k r else s
        | none => { s with pkts := tdel s.pkts p })

def execSliceRequest (p : Nat) (s : State) : Out := .next (s.serveAt p (fun _ => true))

/-! ## Replies and retransmission (R60, R65) -/

/-- The core of a source. -/
def Src.core? : Src → Option Nat
  | .core c => some c
  | .engine c => some c
  | _ => none

/-- After the reply of a load, requests of its source to the line that executed before it fill nothing, and of one of another source it
is not known which executed first (R60, R127). -/
def Req.outdated (r : Req) (c : Nat) (e : Req) : Req :=
  if !e.src.ofCore c || e.fill.isNone || !sameLine e.ph r.ph then e
  else if e.src == r.src && e.dst == r.dst then (if e.seq < r.seq then { e with fill := none } else e)
  else { e with unsure := true }

/-- Fill a line that a reply carries; a load with CH = 1 leaves it as the first to be evicted from L1 (R235). An older reply replaces no
newer line (R127). -/
def State.fillLine (s : State) (r : Req) (line : List Byte) : State :=
  match r.src.core?, r.kind with
  | some c, .load =>
    let s : State := { s with reqs := s.reqs.map (fun (e : Nat × Req) => (e.1, r.outdated c e.2)) }
    (match r.fill with
    | none => s
    | some p =>
      if line.isEmpty then s
      else s.modCore c (fun k => k.setCache p (if r.unsure then (k.cache p).filter (fun l => l.pa != lineOf r.ph.pa)
        else insertLine p (p == .ls && r.hint == 1) { pa := lineOf r.ph.pa, data := line } (k.cache p))))
  | _, _ => s

/-- A core's grants are tried again, once what the Swarm engine has read for a thread is there. -/
def State.readBack (s : State) (o : Owner) : State :=
  match o with
  | .swarm w _ => (match s.wg w with
    | some g => s.grantCore g.core
    | none => s)
  | _ => s

/-- An access of the hardware has its request answered: a line it reads, or one of its stores or its atomic, whose line leaves the
L1 of the core whose engine wrote it (R133). -/
def State.owned (s : State) (req : Nat) (r : Req) (o : Owner) (fault : Nat) (data line : List Byte) : State :=
  let key := (lineOf r.ph.pa, r.ph.host)
  match s.stage o with
  | none => s
  | some st =>
    if st.writing then
      let s := match r.src with
        | .engine c => if r.ph.host then s else s.discard c .ls (fun l => l == key.1)
        | _ => s
      s.modStage o (fun e => { e with
        left := e.left - 1
        seen := [{ pa := r.ph.pa, host := r.ph.host, fault := fault, data := data }]
        out := if e.out.isNone && fault != 0 then some (fault, r.va) else e.out })
    else (s.modStage o (fun e =>
      if !e.asked.any (fun a => a.2.2 == req) then e
      else { e with
        asked := e.asked.filter (fun a => a.2.2 != req)
        seen := { pa := key.1, host := key.2, fault := fault, data := line } :: e.seen.filter (fun x => !(x.pa == key.1 && x.host == key.2)) })).readBack o

/-- A walker's read is answered: the walk of its miss goes on (R33). -/
def State.walked (s : State) (req : Nat) (core k : Nat) (fault : Nat) (data : List Byte) : State :=
  s.modCore core (fun c => { c with misses := tmod c.misses k (fun m =>
    if m.req == some req then { m with req := none, got := some (fault, leNat data) } else m) })

/-- An operation's access is answered. An aggregate operation has been accepted: its threads issue on (R93); a read of a scaling ring is
over, and so is an epilogue whose push has been made (R383, R384). -/
def State.opAnswered (s : State) (id piece va fault : Nat) (data : List Byte) : State :=
  if fault != 0 then (match tget s.ops id with
    | some o => s.modWg o.wg (fun g => { g with mq := g.mq.filter (· != id) })
    | none => s).opFault id fault va
  else match tget s.ops id with
    | some o => (match o.kind with
      | .agg _ => (o.waiters.foldl (fun s t => s.release o.wg t) s).modOp id (fun o => { o with waiters := [] })
      | .ring => s.finish id (o.dst.map (fun d => (d, ofN (leNat data))))
      | .tile _ => (s.modWg o.wg (fun g => { g with edone := (g.edone + 1) % 2 ^ 24 })).endTile o.wg id
      | _ => s.gotPiece id piece data)
    | none => s

/-- What a request's answer does at its source. -/
def State.answered (s : State) (req : Nat) (r : Req) (fault : Nat) (data line : List Byte) : State :=
  let s := if fault = 0 then s.fillLine r line else s
  let s := match r.owner with
    | some o => s.owned req r o fault data line
    | none => s
  let s := match r.walk with
    | some (c, k) => s.walked req c k fault data
    | none => s
  let s := match r.op with
    | some id => s.opAnswered id r.piece r.va fault data
    | none => (match r.owner, r.by_ with
      | none, some (w, t, _) =>
        if fault = 0 then s
        else s.deferTo w t { op := 0, code := fault, spc := ((s.thread w t).map (fun th => th.pc.toNat)).getD 0, addr := r.va }
      | _, _ => s)
  r.shares.foldl (fun (s : State) e =>
    s.opAnswered e.op e.piece e.va fault ((line.drop (e.pa - lineOf e.pa)).take e.n)) s

def execReplyArrival (p : Nat) (s : State) : Out :=
  .next (match tget s.pkts p with
    | none => s
    | some k =>
      if !k.reply || k.lost || !k.arrivedAll then s
      else
        let s := { s with pkts := tdel s.pkts p }
        match k.waggle, tget s.reqs k.req with
        | some id, _ => s.waggleHere k.part id
        | none, none => s
        | none, some r =>
          let s := { s with reqs := tdel s.reqs k.req }
          if r.dead then s else s.answered k.req r k.fault k.data k.line)

/-! ## Local accesses (R131, R52) -/

/-- Do a piece at a scratchpad array: the bytes returned, or the fault. -/
def State.scratchDo (s : State) (w off n : Nat) (a : ReqKind) : Except Nat (List Byte) × State :=
  match s.wg w with
  | none => (.error 0x27, s)
  | some g =>
    let put := fun (d : List Byte) => s.modWg w (fun g => { g with
      scratch := memWrite g.scratch off d
      badScratch := g.badScratch.filter (fun b => !(off ≤ 8 * b && 8 * b + 8 ≤ off + d.length)) })
    let bad := g.badScratch.any (fun b => overlaps off n (8 * b) 8)
    match a with
    | .store d => (.ok [], put d)
    | .load => if bad then (.error 0xE3, s) else (.ok (memRead g.scratch off n), s)
    | .atomic (.rmw opc fn ty x cmp) =>
      if bad then (.error 0xE3, s)
      else let old := memRead g.scratch off n; (.ok old, put (rmwBytes opc fn ty x cmp old))
    | _ => (.ok [], s)

/-- Scratchpad allocation that an operation's pieces still touch. -/
def Op.scratchOf (o : Op) : Option Nat :=
  o.pieces.findSome? (fun p => match p.loc, p.got with
    | .scratch w _, none => some w
    | _, _ => none)

/-- A copy of a cell into scratchpad that an operation's thread issued before it is still to be performed. DEDUCED
(notes/assumptions/105.md): an access of the thread to its own scratchpad is performed behind it. -/
def State.copyBefore (s : State) (id : Nat) (o : Op) : Bool :=
  s.ops.any (fun e => decide (e.1 < id) && !e.2.done && e.2.wg == o.wg && e.2.tid == o.tid && (match e.2.kind with
    | .tile (.combRds ..) => true
    | _ => false))

/-- Pieces of an operation that are served at the core are done, in issue order at each array; those at a saved peer wait for its
restore (R117). DESIGN CHOICE (notes/assumptions/84.md): where the peer is torn down without one, they never complete. -/
def execLocalAccessComplete (op : Nat) (s : State) : Out :=
  .next (match tget s.ops op with
    | none => s
    | some o =>
      if o.done then s
      else match o.kind with
        | .local ws => s.finish op ws
        | .mem _ =>
          let mine := o.scratchOf
          let late := o.pieces.any (fun p => p.act != .load) && s.syncAhead op
          let early := mine.isSome && s.ops.any (fun e => decide (e.1 < op) && !e.2.done && e.2.scratchOf == mine)
          let away := (mine.bind s.wg).map (fun g => g.resid == .saved)
          if early || late || away == some true || (mine == some o.wg && s.copyBefore op o) then s
          else
            let r := o.pieces.zipIdx.foldl (fun (acc : Option (Nat × Nat) × State) e =>
              match acc.1, e.1.got, e.1.loc with
              | none, none, .hit b => (none, acc.2.gotPiece op e.2 b)
              | none, none, .scratch w off =>
                (match acc.2.scratchDo w off e.1.n e.1.act with
                | (.ok b, s) => (none, s.gotPiece op e.2 b)
                | (.error f, s) => (some (f, e.1.va), s))
              | _, _, _ => acc) (none, s)
            match r with
            | (some (f, a), s) => s.opFault op f a
            | (none, s) => s.settle op
        | _ => s)

/-! ## HBM and host completions (R410, R424) -/

/-- The requests that wait at a slice for a line have it: their packets have arrived whole. -/
def State.lineRead (s : State) (line : Nat) : State :=
  let waits := fun (id : Nat) => s.pkts.any (fun k => k.2.req == id && !k.2.reply && k.2.arrivedAll)
  { s with reqs := s.reqs.map (fun (e : Nat × Req) =>
      if !e.2.ph.host && lineOf e.2.ph.pa == line && e.2.kind.onLine && waits e.1 then (e.1, { e.2 with read := true }) else e) }

/-- The line enters its slice, by the hint of a request that waits for it and may keep it (R35, R53, R235); which line its set gives up
is free. -/
def execHbmReadComplete (line : Nat) (good : Bool) (victim : Nat) (s : State) : Out :=
  .next (if !s.hbmReads.contains line then s
    else
      let s : State := { s with
        hbmReads := s.hbmReads.filter (· != line)
        poison := if good then s.poison else line :: s.poison.filter (· != line)
        slicePoison := if good then s.slicePoison else s.slicePoison.filter (· != line) }
      let s := s.lineRead line
      match s.reqs.find? (fun e => e.2.read && e.2.keeps && lineOf e.2.ph.pa == line) with
      | some (_, r) => s.l2Insert { pa := line, slice := r.dst, hint := r.hint } victim
      | none => s)

def execHostCompletion (r : Nat) (good : Bool) (s : State) : Out :=
  .next (match tget s.reqs r with
    | some q => if q.hostSt = 1 then { s with reqs := tset s.reqs r { q with hostSt := if good then 2 else 3 } } else s
    | none => s)

/-! ## Walkers and host translation (R33, R36 to R41) -/

/-- Fill a TLB of 512 entries. -/
def Core.fillTlb (k : Core) (t : TlbEntry) (victim : Nat) : Core :=
  let l := k.tlb.filter (fun x => !(x.part == t.part && x.asid == t.asid && x.vpn == t.vpn && x.size == t.size))
  { k with tlb := t :: (if 512 ≤ l.length then l.eraseIdx (victim % 512) else l) }

/-- Two misses of a die share one walk (R39), whose page is not known before its leaf (notes/assumptions/98.md). -/
def Miss.sameWalk (a b : Miss) : Bool := a.part == b.part && a.asid == b.asid && a.root == b.root && a.page == b.page

/-- The misses of a die, by core and number, that satisfy a test. -/
def State.dieMisses (s : State) (die : Nat) (f : Miss → Bool) : List (Nat × Nat × Miss) :=
  s.cores.flatMap (fun e => if dieOf e.1 != die then [] else
    e.2.misses.filterMap (fun x => if f x.2 then some (e.1, x.1, x.2) else none))

/-- The misses of a die that share a walk, by core and number (R39). -/
def State.mates (s : State) (core : Nat) (m : Miss) : List (Nat × Nat × Miss) := s.dieMisses (dieOf core) m.sameWalk

/-- A miss lies on the page of a leaf. -/
def Miss.on (m : Miss) (root : Nat) (t : TlbEntry) : Bool := m.root == root && t.hits m.part m.asid m.page

/-- The misses of a die that the leaf of a walk serves: all of its page, whatever its size (R39). -/
def State.sharers (s : State) (core : Nat) (m : Miss) (t : TlbEntry) : List (Nat × Nat × Miss) :=
  s.dieMisses (dieOf core) (fun x => x.on m.root t)

def State.modMiss (s : State) (c k : Nat) (f : Miss → Miss) : State :=
  s.modCore c (fun e => { e with misses := tmod e.misses k f })

/-- Misses end in a fault: every access that waits for one is told (R37, R39). -/
def State.failMisses (s : State) (code : Nat) (l : List (Nat × Nat × Miss)) : State :=
  l.foldl (fun (s : State) e =>
    e.2.2.asks.foldl (fun s q => s.tellFail code q) (s.modCore e.1 (fun c => { c with misses := tdel c.misses e.2.1 }))) s

/-- A walk ends in a fault. -/
def State.failWalk (s : State) (core : Nat) (m : Miss) (code : Nat) : State := s.failMisses code (s.mates core m)

/-- The host step of a leaf fails (R41). -/
def State.failHost (s : State) (core : Nat) (m : Miss) (t : TlbEntry) : State := s.failMisses 0x2E (s.sharers core m t)

/-- The accesses that the rights of a leaf refuse are told so before the host step (R45); a miss that is left with none is over. -/
def State.refuse (s : State) (t : TlbEntry) (l : List (Nat × Nat × Miss)) : State :=
  l.foldl (fun (s : State) e =>
    let ok := e.2.2.asks.filter (fun q => t.allows q.acc q.ro q.user == 0)
    let s := s.modCore e.1 (fun c => { c with
      misses := if ok.isEmpty then tdel c.misses e.2.1 else tmod c.misses e.2.1 (fun m => { m with asks := ok }) })
    e.2.2.asks.foldl (fun s q => match t.allows q.acc q.ro q.user with
      | 0 => s
      | f => s.tellFail f q) s) s

/-- A walk ends in a leaf: it fills every TLB of the die that waits for it and has an access that its rights allow; the others are
told their fault (R34, R37, R39). Which entry a full TLB gives up is free. -/
def State.endWalk (s : State) (core : Nat) (m : Miss) (t : TlbEntry) (victim : Nat) : State :=
  (s.sharers core m t).foldl (fun (s : State) e =>
    let (x, s) := s.draw
    let serves := e.2.2.asks.any (fun q => t.allows q.acc q.ro q.user == 0)
    let s := s.modCore e.1 (fun c =>
      let c := { c with misses := tdel c.misses e.2.1 }
      if serves then c.fillTlb t (victim + x.toNat) else c)
    e.2.2.asks.foldl (fun s q => match t.allows q.acc q.ro q.user with
      | 0 => s.wakeAsk q
      | f => s.tellFail f q) s) s

/-- The accesses that wait for a leaf's page wait for the host. -/
def State.awaitPage (s : State) (core : Nat) (m : Miss) (t : TlbEntry) : State :=
  (s.sharers core m t).foldl (fun (s : State) e =>
    e.2.2.asks.foldl (fun s q => s.parkHost q.wg q.tids)
      (s.modMiss e.1 e.2.1 (fun x => if x.ats.isSome then x else { x with ats := some t, since := s.now, req := none }))) s

/-- The host's address of a leaf's page is there, is awaited by every access of the walk that its rights allow, or cannot come
(R41, R45). -/
def State.leafFound (s : State) (core : Nat) (m : Miss) (t : TlbEntry) (victim : Nat) : State :=
  if !t.host then s.endWalk core m t victim
  else match s.hostPage t.part t.base t.size with
    | some b => s.endWalk core m { t with base := b } victim
    | none =>
      let s := s.refuse t (s.sharers core m t)
      if !s.link then s.failHost core m t
      else if s.linkFull && !(s.sharers core m t).any (fun e => e.2.2.ats.isSome) then s
      else s.awaitPage core m t

/-- A request of a walker for a miss. -/
def State.walkSend (s : State) (core k : Nat) (m : Miss) (a : Nat) (kind : ReqKind) : State :=
  let (id, s) := s.send { src := .walker (dieOf core), dst := s.home m.part a, part := m.part, kind := kind, ph := { pa := a }, n := 8,
                          va := m.page, walk := some (core, k) }
  s.modMiss core k (fun _ => { m with req := some id, got := none })

/-- A walk goes down through its die's walk cache, and reads the first entry that is not there at its home slice (R33, R37). -/
def State.descend (s : State) (core k : Nat) : Nat → Miss → State
  | 0, m => s.failWalk core m 0x2B
  | fuel + 1, m =>
    match s.walkHit (some (dieOf core)) m.part m.asid m.page m.level with
    | some e => s.descend core k fuel { m with level := m.level + 1, table := some (bits e 51 8 * 256) }
    | none => s.walkSend core k m (m.table.getD m.root + 8 * vaIndex m.page m.level) .load

/-- A walk looks at the entry it has read (R33, R34, R36). -/
def State.examined (s : State) (core k : Nat) (m : Miss) (e victim : Nat) : State :=
  match s.examine m.part m.asid m.page m.level e with
  | .error f => s.failWalk core m f
  | .ok none =>
    (s.walkKeep (some (dieOf core)) m.part m.asid m.page m.level e).descend core k (5 - m.level)
      { m with level := m.level + 1, table := some (bits e 51 8 * 256), got := none }
  | .ok (some t) =>
    let ok := ((s.sharers core m t).flatMap (fun x => x.2.2.asks)).filter (fun q => t.allows q.acc q.ro q.user == 0)
    let fl := ok.foldl (fun f q => f ||| q.acc.flags) 0
    let t := { t with mod := bit (e ||| fl) 10 }
    if e ||| fl = e then s.leafFound core m t victim
    else s.walkSend core k { m with leaf := some t } (m.table.getD m.root + 8 * vaIndex m.page m.level) (.atomic (.orWord fl))

/-- A walk of a miss has begun. -/
def Miss.walking (m : Miss) : Bool := m.req.isSome || m.got.isSome || m.level != 0 || m.leaf.isSome

/-- Walks that the walkers of a die make: it has 32 (R39). -/
def State.walksOn (s : State) (die : Nat) : Nat := (s.dieMisses die (fun m => m.walking && m.ats.isNone)).length

/-- A core has a miss that no walk serves yet. -/
def State.wantsWalk (s : State) (c : Nat) : Bool :=
  (s.core c).misses.any (fun e => !e.2.walking && e.2.ats.isNone &&
    !(s.mates c e.2).any (fun x => x.2.2.walking || x.2.2.ats.isSome))

/-- Walkers take the misses of their die's 64 cores round-robin: the first core after the last one served (R39). -/
def State.walkTurn (s : State) (core : Nat) : Bool :=
  let last := (tget s.walkLast (dieOf core)).getD 63
  let far := fun (c : Nat) => (c % 64 + 127 - last) % 64
  !s.cores.any (fun e => dieOf e.1 == dieOf core && decide (far e.1 < far core) && s.wantsWalk e.1)

/-- A walker goes on with a walk, or a free one takes up a miss in its turn (R39); one whose page is being walked already for its
die waits for that walk. -/
def execTlbMissWalk (core k victim : Nat) (s : State) : Out :=
  .next (match tget (s.core core).misses k with
    | none => s
    | some m =>
      if m.ats.isSome || m.req.isSome then s
      else match m.leaf, m.got with
        | some t, some (0, _) => s.leafFound core m t victim
        | _, some (f + 1, _) => s.failWalk core m (f + 1)
        | none, some (0, e) => s.examined core k m e victim
        | _, none =>
          if m.walking then s
          else
            let mates := s.mates core m
            match (s.dieMisses (dieOf core) (fun _ => true)).findSome? (fun x => x.2.2.ats.filter (fun t => m.on x.2.2.root t)) with
            | some t => s.leafFound core m t victim
            | none =>
              if mates.any (fun x => x.2.2.walking) || decide (32 ≤ s.walksOn (dieOf core)) || !s.walkTurn core then s
              else ({ s with walkLast := tset s.walkLast (dieOf core) (core % 64) } : State).descend core k 5 m)

/-- The host has answered a request for a page that hardware asked for and that is with it, with the host address or a failure: who asked goes on, and
frames that wait for it are tried again. -/
def State.hostAnswered (s : State) (k : Nat) (f : HostAsk → State → State) (bad : Bool) : State :=
  match (if s.askSent k then s.atsAsk[k]? else none) with
  | none => s
  | some e =>
    let s := (f e { s with atsAsk := s.atsAsk.eraseIdx k }).askEnds bad e
    s.cores.foldl (fun (s : State) c => s.grantCore c.1) s

/-- A page that the host has translated. -/
def State.hostSays (s : State) (part base size ha : Nat) : State :=
  { s with ats := { part := part, base := base, size := size, ha := ha / 2 ^ size * 2 ^ size } ::
      s.ats.filter (fun e => !(e.part == part && e.base == base && e.size == size)) }

/-- The host's answer to an ATS or page request; core 256 names requests of engines and other hardware. -/
def execHostTranslationResponse (core k : Nat) (ok : Bool) (ha : Nat) (s : State) : Out :=
  .next (if core = 256 then s.hostAnswered k (fun e s => if ok then s.hostSays e.part e.base e.size ha else s) (!ok)
    else match tget (s.core core).misses k with
      | none => s
      | some m => match m.ats with
        | none => s
        | some t =>
          if ok then (s.hostSays t.part t.base t.size ha).endWalk core m { t with base := ha / 2 ^ t.size * 2 ^ t.size } 0
          else s.failHost core m t)

def execHostRequestTimeout (core k : Nat) (req : Option Nat) (s : State) : Out :=
  let late := fun (t : Nat) => decide (t + 2 ^ 27 < s.now)
  .next (match req with
    | some r => (match tget s.reqs r with
      | some q => if q.hostSt = 1 && late q.hostAt then { s with reqs := tset s.reqs r { q with hostSt := 3 } } else s
      | none => s)
    | none =>
      if core = 256 then
        (if (s.atsAsk[k]?).any (fun e => late e.since) then s.hostAnswered k (fun _ s => s) true else s)
      else match tget (s.core core).misses k with
        | some m => (match m.ats with
          | some t => if late m.since then s.failHost core m t else s
          | none => s)
        | none => s)

/-- Removal of host translations is reported only after every access that used them, ordered entries among them (R41). What an access of the hardware has
read there, and not yet used, it reads anew. -/
def execAtsInvalidation (part ha size : Nat) (s : State) : Out :=
  let hit := fun (t : TlbEntry) => t.host && t.part == part && overlaps t.base (2 ^ t.size) ha size
  let late := fun (e : OrdEntry) => e.ph.host && e.part == part && overlaps e.ph.pa (max 1 e.n) ha size
  .next (if s.reqs.any (fun r => r.2.ph.host && r.2.part == part && overlaps r.2.ph.pa (max 1 r.2.n) ha size) ||
        s.slices.any (fun x => (x.2.buffer ++ x.2.arriving).any late) then s
    else { s with
      cores := s.cores.map (fun (e : Nat × Core) => (e.1, { e.2 with tlb := e.2.tlb.filter (fun t => !hit t) }))
      stages := s.stages.map (fun e => { e with seen := e.seen.filter (fun x => !(x.host && overlaps x.pa 64 ha size)) })
      ats := s.ats.filter (fun e => !(e.part == part && overlaps e.ha (2 ^ e.size) ha size)) })

/-! ## Congestion windows (R62, R63) -/

/-- Level of a window. -/
def congLevel (n : Nat) : Nat := if n < 256 then 0 else if n < 512 then 1 else if n < 768 then 2 else 3

/-- The published word of R62. -/
def congWord (slice full defl : Nat) : Word :=
  ofN (slice * 2 ^ 34 + congLevel full * 2 ^ 32 + min defl 0xFFFF * 2 ^ 16 + min full 1024)

/-- Workgroups considered at a level (R63). -/
def throttleOf (l m : Nat) : Option Nat :=
  match l with
  | 0 => none
  | 1 => some (ceilDiv (3 * m) 4)
  | 2 => some (ceilDiv m 2)
  | _ => some (max 1 (ceilDiv m 4))

/-- Every slice publishes and clears its counts (R62), and every core takes the level of its partition (R63). -/
def execCongestionWindowEnd (s : State) : Out :=
  .next (if s.now / 1024 ≤ s.windowAt / 1024 then s
    else
      let s := (List.range Config.slices).foldl (fun (s : State) n => s.modSlice n (fun x => { x with
        cong := congWord n x.full (Config.deflections n s.now), full := 0 })) { s with windowAt := s.now }
      let level := fun (q : Partition) => q.slices.foldl (fun m n => max m (bits (s.slice n).cong.toNat 33 32)) 0
      let memb := fun (c : Nat) => (s.wgs.filter (fun e => e.2.core == c && e.2.resid == .resident &&
        ((tget s.launches e.2.launch).map (·.memb)).getD false)).length
      s.parts.foldl (fun (s : State) p => p.2.hives.foldl (fun (s : State) h => (List.range 8).foldl (fun (s : State) i =>
        s.modCore (8 * h + i) (fun k => { k with throttle := throttleOf (level p.2) (memb (8 * h + i)) })) s) s) s)

def execEccCorrected (kind : UnitKind) (index : Nat) (s : State) : Out :=
  .next (if index < unitCount kind then s.corrected kind index else s)

/-! ## Ordered entries (R138 to R143) -/

/-- An ordered entry stands at a line. -/
def OrdEntry.isAt (e : OrdEntry) (line : Nat) : Bool := lineOf e.ph.pa == line

def execOrderedEntryArrival (slice : Nat) (s : State) : Out :=
  .next (match (s.slice slice).arriving with
    | [] => s
    | e :: rest =>
      let k := s.slice slice
      let inBuf := k.buffer.filter (fun x => !x.spilt)
      let ovf := k.buffer.filter (fun x => x.spilt)
      let (inBuf, ovf) :=
        if inBuf.length < 1024 then (inBuf ++ [e], ovf)
        else match mostEntry inBuf with
          | some m =>
            if keyLt e.key m.key then
              (inBuf.filter (fun x => x.op != m.op) ++ [e], ovf ++ [{ m with spilt := true }])
            else (inBuf, ovf ++ [{ e with spilt := true }])
          | none => (inBuf ++ [e], ovf)
      let out := if 65536 < ovf.length then mostEntry ovf else none
      let ovf := match out with
        | some m => ovf.filter (fun x => x.op != m.op)
        | none => ovf
      let s := s.modSlice slice (fun k => { k with arriving := rest, buffer := inBuf ++ ovf })
      match out with
      | some m => s.opFault m.op 0xD2 m.va
      | none => s)

/-- The lower of a floor and a key. -/
def lowFloor (f : Option (Nat × Nat × Nat)) (k : Nat × Nat × Nat) : Option (Nat × Nat × Nat) :=
  match f with
  | none => some k
  | some g => if keyLt [k.1, k.2.1, k.2.2] [g.1, g.2.1, g.2.2] then some k else some g

/-- The floor of a thread (R138); none is infinity. -/
def floorOf (t : Nat) (th : Thread) : Option (Nat × Nat × Nat) :=
  match th.st with
  | .exited => none
  | .parked (.barrier _ _ true) => some (th.epoch.toNat + 1, t, 0)
  | _ => some (th.epoch.toNat, t, th.opidx.toNat)

/-- What a core reports of a thread to a slice: its floor, and the keys of its ordered requests that are still under way to there. -/
def State.floorAt (s : State) (slice w t : Nat) (th : Thread) : Option (Nat × Nat × Nat) :=
  s.reqs.foldl (fun f e => match e.2.key, s.who e.2 with
    | some (epoch, opidx), some (v, u, _) => if e.2.dst == slice && v == w && u == t then lowFloor f (epoch, t, opidx) else f
    | _, _ => f) (floorOf t th)

def execFloorReport (core slice : Nat) (s : State) : Out :=
  .next (let here := s.wgs.filter (fun e => e.2.core == core && e.2.resid != .saved)
    s.modSlice slice (fun k => { k with
      floors := here.foldl (fun m e => tset m e.1 (e.2.threads.zipIdx.map (fun p => s.floorAt slice e.1 p.2 p.1))) k.floors }))

/-- A reported floor lies above the key of an entry. -/
def floorAbove (e : OrdEntry) (f : Option (Nat × Nat × Nat)) : Bool :=
  match f with
  | none => true
  | some (a, b, c) => keyLt [e.epoch, e.tid, e.opidx] [a, b, c]

/-- A launch of lower LSEQ of a queue has not completed, or can still come: live, pushed but not taken, being pushed, or a
compute node of a graph that has not ended (R189). -/
def State.earlierLive (s : State) (p q lseq : Nat) : Bool :=
  s.launches.any (fun l => l.2.part == p && l.2.queue == some q && decide (l.2.lseq < lseq)) ||
  s.lqs.any (fun e => e.2.any (fun c => c.part == p && c.queue == some q && decide (c.lseq < lseq))) ||
  s.ops.any (fun e => match e.2.kind with
    | .push _ l i _ _ _ => (match tget s.launches l with
      | some x => x.part == p && x.queue == some q && decide (childSeq x.lseq i < lseq)
      | none => false)
    | _ => false) ||
  s.runs.any (fun r => r.2.part == p && r.2.queue == some q && r.2.computes.any (fun j =>
    !r.2.ended.contains j && decide (childSeq r.2.seq (r.2.i0 + j) < lseq)))

/-- Conditions 1 to 3 of R138. -/
def State.mayApply (s : State) (slice : Nat) (e : OrdEntry) : Bool :=
  let earlier := s.earlierLive e.part e.queue e.lseq
  let lower := s.wgs.any (fun g => g.2.launch == e.launch && decide (g.2.idx < e.grp) && g.2.threads.any (fun th => th.st != .exited))
  let floors := match tget (s.slice slice).floors e.wg with
    | some fs => fs.zipIdx.all (fun f => f.2 == e.tid || floorAbove e f.1)
    | none => false
  !earlier && !lower && floors

/-- Types that a logged operation may have had, from its operation and size: the log keeps no type (R142). -/
def logTypes (opc fn size : Nat) : List Ty :=
  let i := if size = 3 then [Ty.s64, .z64] else [Ty.s32, .z32]
  let f := if size = 1 then [Ty.f16, .bf16] else if size = 3 then [.f64] else [.f32]
  if opc = 0x145 then f else if opc = 0x144 then i else if opc = 0x147 && fn < 3 then i ++ f else [if size = 3 then .b64 else .b32]

/-- Entries of an order log, by offset. DESIGN CHOICE (notes/assumptions/83.md): R143 gives the log no end mark once DIGEST-RESET has
zeroed LOGPTR; it ends at the first entry whose OPC is no atomic, or at LOGSIZE. -/
def readLog (s : State) (p asid root base : Nat) : Nat → Nat → List (Nat × Nat) × State
  | 0, _ => ([], s)
  | n + 1, off =>
    match readSys s p asid root (base + off) 64 with
    | (.ok b, s) =>
      let e := leNat b
      let opc := bits e 159 150
      if opc < 0x144 || 0x147 < opc then ([], s)
      else
        let (l, s) := readLog s p asid root base n (off + 64)
        ((off, e) :: l, s)
    | (.error _, s) => ([], s)

/-- Apply a logged atomic (R143); its result is discarded. -/
def applyLogged (s : State) (p : Nat) (l : Launch) (e : Nat) : State :=
  let opc := bits e 159 150
  let fn := bits e 149 146
  let size := bits e 145 144
  let n := 2 ^ size
  let tys := logTypes opc fn size
  let (free, s) := s.draw
  let ty := (tys[free.toNat % tys.length]?).getD .b32
  let va := bits e 511 448
  match s.xnow p l.eff.asid l.eff.ptroot va .atomic false false with
  | (.ok ph, s) => (match s.load ph n with
    | .ok old => s.store p ph va (rmwBytes opc fn ty.code (bits e 287 224) (bits e 223 160) old) none none
    | .error _ => s)
  | (_, s) => s

/-- The logged atomics that a test selects, not yet applied, in log order. -/
def State.replay (s : State) (p q lid : Nat) (sel : Nat → Bool) : State :=
  match tget (s.part p).queues q, tget s.launches lid with
  | some qu, some l =>
    let (r, s) := s.nodeBits p qu.node
    if !bit r 1660 then s
    else match logSpace s p qu.node with
      | (none, s) => s
      | (some (asid, root, base, size), s) =>
        let (es, s) := readLog s p asid root base (size / 64) 0
        es.foldl (fun s e =>
          let done := ((tget (s.part p).queues q).map (fun y => y.replayed.contains e.1)).getD true
          if done || !sel e.2 then s
          else (applyLogged s p l e.2).modPart p (fun x => { x with
            queues := tmod x.queues q (fun y => { y with replayed := y.replayed ++ [e.1] }) })) s
  | _, _ => s

/-- The position key of a log entry is this one, or FIRST of this launch. -/
def logAt (key : Nat × Nat × Nat × Nat × Nat) (e : Nat) : Bool :=
  !bit e 128 && bits e 447 384 == key.1 && bits e 383 352 == key.2.1 && bits e 351 336 == key.2.2.1 % 65536 &&
  bits e 335 320 == key.2.2.2.1 && bits e 319 288 == key.2.2.2.2 % 2 ^ 32
def logFirst (lseq : Nat) (e : Nat) : Bool := bit e 128 && bits e 447 384 == lseq

/-- Whether a log entry's target lies on a line, through the launch's address space. -/
def logOnLine (s : State) (p : Nat) (l : Launch) (at_ : Phys) (e : Nat) : Bool :=
  match (s.xnow p l.eff.asid l.eff.ptroot (bits e 511 448) .atomic false false).1 with
  | .ok ph => sameLine ph at_
  | _ => false

/-- The entry of the smallest key at a line, apart for device and host memory, if it may be applied (R138). -/
def State.applicable (s : State) (slice line : Nat) : Option OrdEntry :=
  [false, true].findSome? (fun host =>
    match leastEntry ((s.slice slice).buffer.filter (fun e => e.isAt line && e.ph.host == host)) with
    | none => none
    | some e =>
      if !s.mayApply slice e || ((s.slice slice).arriving.any (fun x => sameLine x.ph e.ph && keyLt x.key e.key)) then none else some e)

def execOrderedEntryApply (slice line : Nat) (s : State) : Out :=
  .next (match s.applicable slice line with
    | none => s
    | some e =>
      match e.a, tget s.launches e.launch with
      | .rmw opc fn ty x cmp, some l => s.attempt (fun s =>
          let key := (e.lseq, e.grp, e.epoch, e.tid, e.opidx)
          let s := s.replay e.part e.queue e.launch (fun g => logFirst e.lseq g && logOnLine s e.part l e.ph g)
          let r := s.rmwAt e.part e.ph e.va e.n opc fn ty x cmp (some e.launch) (some (e.wg, e.tid, e.op))
          let s := if e.ph.host then r.2
            else r.2.discard (((s.wg e.wg).map (·.core)).getD 0) .ls (fun l => l == lineOf e.ph.pa)
          let s := s.modSlice slice (fun k =>
            let b := k.buffer.filter (fun y => y.op != e.op)
            let back := if (b.filter (fun y => !y.spilt)).length < 1024 then leastEntry (b.filter (fun y => y.spilt)) else none
            { k with
              buffer := match back with
                | some m => b.map (fun y => if y.op == m.op then { y with spilt := false } else y)
                | none => b
              owners := k.owners.map (fun (o : OwnLine) => if o.is e.ph then { o with last := some key } else o) })
          let s := match r.1 with
            | some (0, d, _) => s.gotPiece e.op 0 d
            | some (f, _, _) => s.opFault e.op f e.va
            | none => s
          s.replay e.part e.queue e.launch (fun g => logAt key g && logOnLine s e.part l e.ph g))
      | _, _ => s)

end Sys2Proof.Machine
end

