-- ==== Sys2Proof/Machine/Aggregate.lean ====
section
/-!
DEFINITION. Aggregate regions (spec/04_aggregate_regions.md R67 to R93, spec/12_isa_memory.md R314): declaration, the tree
and its updates, queries and freeing.
-/

namespace Sys2Proof.Machine

/-! ## Declaration (R67 to R73, R88) -/

/-- Chunks of 64 KiB of a region's shadow footprint (R72). -/
def footprint (agg ty logn : Nat) : Nat :=
  ceilDiv (2 * 2 ^ logn * nodeWidth agg ty + 8 * ceilDiv (2 ^ logn * leafBytes ty) 65536) 65536

/-- The lowest free run of chunks of a length below a limit, apart from the runs in use. -/
def freeRun (limit len : Nat) (used : List (Nat × Nat)) : Option Nat :=
  let starts := sortBy (fun a b => decide (a ≤ b)) (0 :: used.map (fun u => u.1 + u.2))
  starts.find? (fun a => decide (a + len ≤ limit) && used.all (fun u => !overlaps a len u.1 u.2))

/-- A page of a range as translated: virtual address, length, physical place. -/
abbrev Pages := List (Nat × Nat × Phys)

/-- Translate every page of a leaf range for a store at the issuer's level (R68 check 3). -/
def leafPages (s : State) (w va n : Nat) : Except (Nat × Nat) Pages × State :=
  (pageParts (n / 65536 + 2) va n).foldl (fun acc p =>
    match acc with
    | (.error e, s) => (.error e, s)
    | (.ok l, s) => match checkNow s w p.1 p.2 .store Aper.g with
      | (.glob g ph, s) => (.ok (l ++ [(g, p.2, ph)]), s)
      | (.fail f a, s) => (.error (f, a), s)
      | (_, s) => (.error (0, p.1), s)) (.ok [], s)

/-- Physical parts of a region's leaf range. -/
def Region.parts (r : Region) : List (Nat × Nat) :=
  ((pageParts (r.n * leafBytes r.ty / 65536 + 2) r.lbase (r.n * leafBytes r.ty)).zip r.frames).map
    (fun p => (p.2.2 + p.1.1 % 65536, p.1.2))

/-- A malformed descriptor (R67, R68 check 2). -/
def badDescriptor (d : Nat) : Bool :=
  bits d 255 192 != 0 || bits d 191 140 != 0 || bits d 135 133 != 0 || bits d 132 128 == 0 || decide (26 < bits d 132 128) ||
  bits d 139 138 == 3 || bits d 5 0 != 0 || bits d 69 64 != 0

/-- Aperture of a leaf range: the fault and the byte, if not global throughout. -/
def leafAperture (lbase n : Nat) : Option (Nat × Nat) :=
  match place lbase with
  | .glob _ => if lbase + n ≤ 2 ^ 57 then none else some (0x21, 2 ^ 57)
  | .bad => some (0x21, lbase)
  | _ => some (0x28, lbase)

/-- The object of SYNC as R120 check 1 sees it: its place. -/
def syncObject (s : State) (w obj : Nat) : Except (Nat × Nat) Phys × State :=
  match checkNow s w obj 64 .atomic Aper.g with
  | (.glob _ ph, s) => (.ok ph, s)
  | (.fail f a, s) => (.error (f, a), s)
  | (_, s) => (.error (0, obj), s)

/-- Checks 2 to 7 of R68: the region and its binding, or the first failure. DESIGN CHOICE (notes/assumptions/24.md): a region that an
agg.free has removed counts as declared for 0x44 and 0x43 until its updates have drained and its slot is free. -/
def declChecks (s : State) (w d : Nat) : Except (Nat × Nat) (Region × Option Binding) × State :=
  let q := s.part (s.partOf w)
  let lbase := bits d 63 0
  let ty := bits d 137 136
  let agg := bits d 139 138
  let logn := bits d 132 128
  let size := 2 ^ logn * leafBytes ty
  if badDescriptor d then (.error (0x40, 0), s)
  else match leafAperture lbase size with
    | some e => (.error e, s)
    | none =>
      match leafPages s w lbase size with
      | (.error e, s) => (.error e, s)
      | (.ok ps, s) =>
        match ps.find? (fun p => p.2.2.host) with
        | some p => (.error (0x45, p.1), s)
        | none =>
          let hits := ps.flatMap (fun p => (q.regions.flatMap (fun (r : Nat × Region) => r.2.parts)).filterMap (fun x =>
            if overlaps p.2.2.pa p.2.1 x.1 x.2 then some (p.1 + (x.1 - p.2.2.pa)) else none))
          match hits.min? with
          | some a => (.error (0x44, a), s)
          | none =>
            let run := freeRun (q.shadow / 65536) (footprint agg ty logn) (q.regions.map (fun r => r.2.run))
            match run with
            | none => (.error (0x43, 0), s)
            | some a =>
              if 4096 ≤ q.regions.length then (.error (0x43, 0), s)
              else
                let frames := ps.map (fun p => (p.1 / 65536 * 65536, p.2.2.pa - p.1 % 65536))
                let r : Region := { agg := agg, ty := ty, logn := logn, lbase := lbase, sync := bits d 127 64,
                                    frames := frames, run := (a, footprint agg ty logn) }
                if bits d 127 64 = 0 then (.ok (r, none), s)
                else match syncObject s w (bits d 127 64) with
                  | (.error e, s) => (.error e, s)
                  | (.ok ph, s) =>
                    match bindChecks s w (bits d 127 64) ph lbase (roundUp size 64) with
                    | (.error e, s) => (.error e, s)
                    | (.ok b, s) => (.ok (r, some b), s)

/-- Build updates: every leaf line as it stands at its home (R88). -/
def State.buildUpdates (s : State) (r : Region) : List Update :=
  (List.range (ceilDiv (r.n * leafBytes r.ty) 64)).map (fun k =>
    let va := r.lbase + 64 * k
    let pa := ((r.frames.find? (fun f => f.1 == va / 65536 * 65536)).map (·.2)).getD 0 + va % 65536
    { line := k, bytes := memRead s.mem pa 64, bad := s.poison.contains pa, here := true, build := true })

/-- Destination of a register and, where it is not pt, a predicate. -/
def dstsOf (s : State) (x : Ctx) (d : Opnd) (pd : Nat) : List Dst :=
  (s.dst x.w x.t d).toList ++ (if pd = 15 then [] else [.p pd x.ts])

/-- Open an aggregate operation. -/
def State.openAgg (s : State) (x : Ctx) (a : AggOp) (d : Opnd) (pd : Nat) : Nat × State :=
  s.newOp { wg := x.w, tid := x.t, core := x.core, cls := some .ag, pc := x.pc, kind := .agg a, dst := dstsOf s x d pd }

/-- Bytes of one line through the load-store path (R67, R318): an L1 hit, or what a load request of the core brings back
(R60: after the core's own stores to the line); code 0 while it is on its way. A hit makes the line the most recent; a miss fills as
the instruction's hint says (R47, R235). -/
def readThroughL1 (s : State) (x : Ctx) (va n : Nat) (ph : Phys) : Except (Nat × Nat) (List Byte) × State :=
  let keep := !ph.host && ph.cache == 0
  match (if keep then ((s.core x.core).l1).find? (fun l => l.pa == lineOf ph.pa) else none) with
  | some l => (.ok ((l.data.drop (ph.pa - lineOf ph.pa)).take n), s.modCore x.core (fun k => { k with l1 := touchLine l.pa k.l1 }))
  | none =>
    let o := Owner.thread x.w x.t
    match s.fetchAs o (.core x.core) (s.partOf x.w) ph va n with
    | (.error (0, _), _) => (.error (0, 0), s.sendWants o
        [{ src := .core x.core, part := s.partOf x.w, ph := ph, va := va, fill := if keep && Path.ls.fills x.hint then some .ls else none, hint := x.hint }])
    | (r, s) => (r, s)

/-- The line after the last one that an instruction has so read, under the hint that asks for it (R235). -/
def State.readAhead (s : State) (x : Ctx) (va : Nat) (ph : Phys) : State :=
  if x.hint = 6 && !ph.host && ph.cache == 0 then s.fetchNext x .ls ph va else s

def execAggDecl (c : Ctl) (o : F3) (s : State) : Out :=
  isa (.aggDecl c o) c (fun s x => Act.after (.thread x.w x.t) <|
    match check s x.w x.ts (s.src x.w x.t o.a).toNat 32 32 .load Aper.g false with
    | (.wait, s) => .wait s
    | (.fail f a, s) => .trap f a none s
    | (.glob g ph, s) =>
      (match readThroughL1 s x g 32 ph with
      | (.error (0, _), s) => .wait s
      | (.error (f, a), s) => .trap f (g + a) none s
      | (.ok bs, s) =>
        match x.asks s (fun s => declChecks s x.w (leNat bs)) with
        | (.error (0, _), s) => x.parks s
        | (.error (f, a), s) => .trap f a none s
        | (.ok (r, b), s) =>
          let p := s.partOf x.w
          let slot := tfree (s.part p).regions
          let (id, s) := s.openAgg x (.decl slot) o.d 15
          let r := { r with updates := s.buildUpdates r, build := some id }
          .adv ((s.readAhead x g ph).modPart p (fun q => { q with
            regions := tset q.regions slot r
            bindings := match b with
              | some b => q.bindings ++ [{ b with region := some slot }]
              | none => q.bindings })))
    | (_, s) => .wait s) s

/-- Issue an aggregate operation. One that names a handle goes to the home of the slot's region and holds its threads until it is
accepted there; agg.sync without one holds nothing (R49, R73, R93). -/
def aggThrough (c : Ctl) (i : Instr) (d : Opnd) (pd : Nat) (named : Bool) (a : State → Ctx → AggOp) (s : State) : Out :=
  isa i c (fun s x =>
    let (id, s') := s.openAgg x (a s x) d pd
    if named then
      let p := s'.partOf x.w
      let slot := bits (a s x).handle 11 0
      let (r, s') := s'.send { src := .core x.core, dst := s'.homeOfSlot p slot, part := p, kind := .query slot, ph := { pa := 0 },
                               n := 0, va := 0, op := some id, launch := (s'.wg x.w).map (·.launch) }
      .wait ((s'.setPieces id [{ va := 0, n := 0, loc := .net r }]).holdFor x id)
    else .adv s') s

def execAggFree (c : Ctl) (o : F3) (s : State) : Out :=
  aggThrough c (.aggFree c o) .vz 15 true (fun s x => .free (s.src x.w x.t o.a).toNat) s
def execAggRange (c : Ctl) (o : F3) (s : State) : Out :=
  aggThrough c (.aggRange c o) o.d o.pd.val true
    (fun s x => .range (s.src x.w x.t o.a).toNat (s.src x.w x.t o.b).toNat (s.src x.w x.t o.c).toNat) s
def execAggPfx (c : Ctl) (o : F3) (s : State) : Out :=
  aggThrough c (.aggPfx c o) o.d o.pd.val true (fun s x => .pfx (s.src x.w x.t o.a).toNat (s.src x.w x.t o.b).toNat) s
def execAggPick (c : Ctl) (o : F3) (s : State) : Out :=
  aggThrough c (.aggPick c o) o.d o.pd.val true (fun s x => .pick (s.src x.w x.t o.a).toNat none) s
def execAggSync (c : Ctl) (o : F3) (s : State) : Out :=
  aggThrough c (.aggSync c o) .vz o.pd.val (o.a != .vz)
    (fun s x => .sync (if o.a = .vz then none else some (s.src x.w x.t o.a).toNat)) s

/-! ## Events at the region home -/

/-- The handle of a slot. -/
def handleOf (p gen slot : Nat) : Word := ofN (p * 2 ^ 32 + gen * 2 ^ 12 + slot)

/-- Results of an operation: its register, then its predicate. -/
def answerWrites (o : Op) (d : Word) (p : Bool) : List (Dst × Word) :=
  o.dst.map (fun e => match e with
    | .p n ts => (.p n ts, if p then 1 else 0)
    | e => (e, d))

/-- The nodes on the way from some leaves to the root. -/
def Region.above (r : Region) : Nat → List Nat → List Nat
  | 0, is => is
  | n + 1, is => is ++ r.above n ((is.map (· / 2)).eraseDups)

/-- One forwarded update that has reached the region home, of a line that may overtake those of other lines, is applied
(R77, R78). -/
def execAggUpdateApply (part slot : Nat) (s : State) : Out :=
  .next (match tget (s.part part).regions slot with
    | none => s
    | some r =>
      let (f, s') := s.draw
      let here := r.updates.filter (·.here)
      match here[f.toNat % here.length]? with
      | none => s
      | some x => match here.find? (fun u => u.line == x.line) with
        | none => s
        | some u =>
          let r' := { r.apply u with updates := r.updates.eraseIdx (r.updates.findIdx (fun e => e.here && e.line == u.line)) }
          (s'.modPart part (fun q => { q with regions := tset q.regions slot r' })).touchNodes part slot r
            (r.above r.logn ((List.range r.perLine).map (fun k => r.n + u.line * r.perLine + k))) [u.line * 64 / 65536])

/-- The result of an operation that its region's home has accepted: what a query read there, or 0xE4 where it met a poisoned node
(R410); agg.sync, once its thread's updates have been applied (R80 to R84). -/
def State.resultOf (s : State) (id : Nat) (o : Op) (a : AggOp) : State :=
  match a, tget (s.part (s.partOf o.wg)).regions (bits a.handle 11 0) with
  | .sync _, some r => if s.ownStoresIn o id none then s.finish id (answerWrites o 0 r.ov) else s
  | _, _ => match o.answer with
    | some (_, _, true) => s.opFault id 0xE4 0
    | some (d, p, false) => s.finish id (answerWrites o d p)
    | none => s

/-- The region home accepts or refuses an operation whose request has arrived, or gives the result of one that it has accepted;
agg.sync without a handle completes once its thread's updates have been applied (R84, R93). -/
def execAggQueryAccept (op : Nat) (s : State) : Out :=
  .next (match tget s.ops op with
    | none => s
    | some o =>
      match o.kind with
      | .agg a =>
        if o.done then s
        else (match a with
        | .decl _ => s
        | .sync none => if s.ownStoresIn o op none then s.finish op (answerWrites o 0 false) else s
        | a =>
          if o.accepted then s.resultOf op o a
          else s.pkts.foldl (fun (s : State) e => s.serveAt e.1 (fun r => r.op == some op)) s)
      | _ => s)

/-- The build's updates have been applied: the handle is written (R88). -/
def execAggBuildComplete (op : Nat) (s : State) : Out :=
  .next (match tget s.ops op with
    | some o =>
      (match o.kind with
      | .agg (.decl slot) =>
        let q := s.part (s.partOf o.wg)
        (match tget q.regions slot with
        | some r =>
          if r.build == some op && !r.updates.any (·.build) then
            (s.modRegion (s.partOf o.wg) slot (fun r => { r with build := none })).finish op
              (answerWrites o (handleOf (s.partOf o.wg) ((tget q.gens slot).getD 0) slot) false)
          else s
        | none => s)
      | _ => s)
    | none => s)

/-- The slot of a partition whose region an operation is freeing. -/
def State.freedBy (s : State) (op : Nat) : Option (Nat × Nat) :=
  s.parts.findSome? (fun p => (p.2.regions.find? (fun r => r.2.freeing == some op)).map (fun r => (p.1, r.1)))

/-- An operation that the home has accepted has still to give its result from the region in a slot. -/
def State.owes (s : State) (p slot : Nat) : Bool :=
  s.ops.any (fun e => !e.2.done && e.2.accepted && s.partOf e.2.wg == p && (match e.2.kind with
    | .agg (.free _) => false
    | .agg (.decl _) => false
    | .agg a => bits a.handle 11 0 == slot
    | _ => false))

/-- The updates forwarded before the removal have reached the region home, and the operations accepted before it have given their
results: the updates are discarded, and footprint and slot are released (R87). DESIGN CHOICE (notes/assumptions/24.md): where the build of
its agg.decl is under way, the slot goes on until it has ended and the handle is written. -/
def execAggFreeDrain (op : Nat) (s : State) : Out :=
  .next (match s.freedBy op with
    | none => s
    | some (p, slot) => match tget (s.part p).regions slot with
      | none => s
      | some r =>
        if !r.updates.all (·.here) || s.owes p slot || r.build.isSome then s
        else
          let lo := lineOf (s.nodePa p r 0)
          let hi := lo + r.run.2 * 65536
          let s : State := { s with l2 := s.l2.filter (fun l => !(l.node && lo ≤ l.pa && decide (l.pa < hi))) }
          (s.modPart p (fun q => { q with
            regions := tdel q.regions slot
            gens := tset q.gens slot (((tget q.gens slot).getD 0 + 1) % 2 ^ 20) })).finish op [])

end Sys2Proof.Machine
end

