-- ==== Sys2Proof/Machine/Tile.lean ====
section
/-!
DEFINITION. Shape words, tile registers, the matrix order, and claims on a core's matrix storage (spec/14_isa_matrix.md R360
to R367).
-/

namespace Sys2Proof.Machine

/-! ## Shapes (R361, R362) -/

/-- A well-formed shape word. -/
def shapeOk (w : Nat) : Bool :=
  w / 2 ^ 18 == 0 && shapeRows w != 0 && decide (shapeRows w ≤ 128) && shapeCols w != 0 && decide (shapeCols w ≤ 128) &&
  decide (shapeBytes w ≤ 32768)

/-- The shape register of tile k. -/
def Workgroup.shape (g : Workgroup) (k : Nat) : Nat := ((g.ms[k]?).map (·.toNat)).getD 0

/-- Element of a row-major dense value (R362). -/
def elemOf (bs : List Byte) (ew i : Nat) : Nat :=
  leNat ((bs.drop (i * ew / 8)).take (ceilDiv (i * ew % 8 + ew) 8)) / 2 ^ (i * ew % 8) % 2 ^ ew

/-- The bytes of a tile register. -/
def Workgroup.tileBytes (g : Workgroup) (k : Nat) : List Byte :=
  memRead (((tget g.tiles k).map (·.bytes)).getD []) 0 (shapeBytes (g.shape k))

/-- Replace a tile's bytes. -/
def Workgroup.putTile (g : Workgroup) (k : Nat) (bs : List Byte) : Workgroup :=
  { g with tiles := tset g.tiles k { bytes := memWrite [] 0 bs } }

/-- Give a tile register a new shape, its storage filled with zero bits (R369). -/
def Workgroup.reshape (g : Workgroup) (k shape : Nat) : Workgroup :=
  { g with
    ms := g.ms.set k (ofN shape)
    tiles := if shape = 0 then tdel g.tiles k else tset g.tiles k {} }

/-! ## The matrix order (R363) -/

/-- Issue a tile-class operation. -/
def State.openTile (s : State) (w t pc : Nat) (o : TileOp) : Nat × State :=
  let (id, s) := s.newOp { wg := w, tid := t, core := ((s.wg w).map (·.core)).getD 0, cls := some .tl, pc := pc, kind := .tile o }
  (id, s.modWg w (fun g => { g with mq := g.mq ++ [id] }))

/-- The operation at the head of a workgroup's matrix order. -/
def State.headTile (s : State) (w : Nat) : Option (Nat × Op × TileOp) :=
  ((s.wg w).bind (fun g => g.mq.head?)).bind (fun id => (tget s.ops id).bind (fun o => match o.kind with
    | .tile t => some (id, o, t)
    | _ => none))

/-- Tile registers that an operation names. -/
def TileOp.tiles : TileOp → List Nat
  | .mld mt _ _ _ => [mt]
  | .mst mt _ _ => [mt]
  | .mzero mt => [mt]
  | .mma outl pb _ =>
    (if outl then [] else [bits pb 2 0]) ++ [bits pb 5 3] ++ (if bit pb 9 then [bits pb 8 6] else [])
  | .combDef _ _ mt _ => [mt]
  | .combRd _ _ mt => [mt]
  | _ => []

/-- Accumulators that an operation names. -/
def TileOp.accs : TileOp → List Nat
  | .mma _ pb _ => [bits pb 12 11]
  | .epi pb _ _ _ _ => [bits pb 1 0]
  | .accClr a => (List.range 4).filter (fun n => a.testBit n || a.testBit (4 + n))
  | _ => []

/-- Reservation records that an operation names. -/
def TileOp.recs : TileOp → List Nat
  | .mma outl pb _ => (if outl then [] else [bits pb 35 32]) ++ [bits pb 39 36] ++ (if bit pb 9 then [bits pb 43 40] else [])
  | _ => []

/-- Tile operations of a workgroup that are not yet performed, with those older than a mark. -/
def State.tileOps (s : State) (w m : Nat) : List TileOp :=
  match s.wg w with
  | none => []
  | some g => (g.mq.filter (fun id => decide (id < m))).filterMap (fun id => (tget s.ops id).bind (fun o => match o.kind with
    | .tile t => some t
    | _ => none))

/-- A pending comb.rd will write a shape register (R364). -/
def State.shapePending (s : State) (w k : Nat) : Bool :=
  (s.tileOps w s.nextId).any (fun t => match t with
    | .combRd _ _ mt => mt == k
    | _ => false)

/-- Each 8-byte word of a source that may have changed between issue and performance takes either value (R103, R365). -/
def mixWords (s : State) : List Byte → List Byte → Nat → List Byte × State
  | _, _, 0 => ([], s)
  | old, new, n + 1 =>
    let a := old.take 8
    let b := new.take 8
    if a == b then let r := mixWords s (old.drop 8) (new.drop 8) n; (b ++ r.1, r.2)
    else
      let (f, s) := s.draw
      let r := mixWords s (old.drop 8) (new.drop 8) n
      ((if bit f.toNat 0 then a else b) ++ r.1, r.2)

/-! ## Claims (R366, R367) -/

def blocksOf (shape : Nat) : Nat := ceilDiv (shapeBytes shape) 4096
def unitsOf (r : RsvRec) : Nat := ceilDiv r.bytes.length 256

/-- What a workgroup holds on its core: tile blocks, accumulators, records, buffer units. -/
def Workgroup.holds (g : Workgroup) : Nat × Nat × Nat × Nat :=
  (if g.evicted.contains 0 then 0 else (g.ms.map (fun m => blocksOf m.toNat)).sum,
    if g.evicted.contains 1 then 0 else g.accs.length,
    if g.evicted.contains 2 then 0 else g.rsvs.length,
    if g.evicted.contains 2 then 0 else (g.rsvs.map (fun r => unitsOf r.2)).sum)

/-- What is in use on a core, granted claims included. -/
def State.matrixUse (s : State) (core : Nat) : Nat × Nat × Nat × Nat :=
  let add := fun (a b : Nat × Nat × Nat × Nat) => (a.1 + b.1, a.2.1 + b.2.1, a.2.2.1 + b.2.2.1, a.2.2.2 + b.2.2.2)
  let held := s.wgs.foldl (fun a e => if e.2.core == core && e.2.resid != .saved then add a e.2.holds else a) (0, 0, 0, 0)
  (s.core core).claims.foldl (fun a c => if c.granted then add a (c.tiles, c.accs, c.recs, c.units) else a) held

/-- A claim fits on its core now. -/
def State.claimFits (s : State) (core : Nat) (c : Claim) : Bool :=
  let u := s.matrixUse core
  let back := match c.reg, s.wg c.wg with
    | some k, some g => if g.evicted.contains 0 then 0 else blocksOf (g.shape k)
    | _, _ => 0
  decide (u.1 + c.tiles ≤ 64 + back) && decide (u.2.1 + c.accs ≤ 4) && decide (u.2.2.1 + c.recs ≤ 16) &&
    decide (u.2.2.2 + c.units ≤ 256)

/-! ## Comb cells and their places (R101, R112 to R114) -/

def State.cell (s : State) (d c : Nat) : Cell := (tget (s.dir d).cells c).getD {}
def State.modCell (s : State) (d c : Nat) (f : Cell → Cell) : State :=
  s.modDir d (fun x => { x with cells := tset x.cells c (f ((tget x.cells c).getD {})) })

/-- Scratchpad granules of a core that workgroups hold. -/
def State.granulesUsed (s : State) (core : Nat) : List Nat :=
  s.wgs.flatMap (fun e => if e.2.core == core && e.2.resid != .saved then e.2.grans else [])

/-- A place has room for a value of a directory (R112): tile space or scratchpad of the hive's cores, L2 of the partition's
slices, or the backing area. DESIGN CHOICE (notes/assumptions/32.md): the room of the first two is pooled over the hive's eight
cores, so that a value may count as placed where no single core has room for it. -/
def State.roomAt (s : State) (d size : Nat) : Nat → Bool
  | 0 =>
    let cores := (List.range 8).map (fun i => 8 * (d / 4) + i)
    decide ((cores.map (fun c => (s.matrixUse c).1)).sum + ((s.placed (fun x => x / 4 == d / 4) 0).map (ceilDiv · 4096)).sum +
      ceilDiv size 4096 ≤ 8 * 64)
  | 1 =>
    let cores := (List.range 8).map (fun i => 8 * (d / 4) + i)
    decide ((cores.map (fun c => (s.granulesUsed c).length)).sum + ((s.placed (fun x => x / 4 == d / 4) 1).map (ceilDiv · 8192)).sum +
      ceilDiv size 8192 ≤ 8 * 32)
  | 2 => decide (s.combLines (s.dirPart d) + ceilDiv size 64 ≤ (s.part (s.dirPart d)).slices.length * (2048 * 4))
  | _ =>
    let p := s.dirPart d
    decide (((s.placed (fun x => s.dirPart x == p) 3).map (roundUp · 64)).sum + roundUp size 64 ≤ (s.part p).combbk)

/-- The preferred place with room; none when the value would need the backing store and has no room there. -/
def State.findPlace (s : State) (d size : Nat) (from_ : Nat) : Option Nat :=
  ((List.range 4).drop from_).find? (s.roomAt d size)

/-- The place of a value that must leave a core's storage (R97, R113): L2, or the backing store. DESIGN CHOICE
(notes/assumptions/85.md): where neither has room, the backing store takes it beyond its size. -/
def State.forcedPlace (s : State) (d size : Nat) : Nat := (s.findPlace d size 2).getD 3

/-- A cell's value moves to a place; in L2 it takes ways from lines (R53, R112). -/
def State.setPlace (s : State) (d c place : Nat) : State := (s.modCell d c (fun y => { y with place := place })).l2Trim

/-- The Comb moves values out of a place that workgroups have outgrown (R113): 0 tile space, 1 scratchpad of a hive. -/
def State.vacate (s : State) (hive place : Nat) : State :=
  let cells := s.dirs.flatMap (fun (d : Nat × Dir) => if d.1 / 4 == hive then
    (d.2.cells.filter (fun (c : Nat × Cell) => c.2.st != .free && c.2.place == place)).map (fun c => (d.1, c.1)) else [])
  cells.foldl (fun (s : State) e =>
    if s.roomAt (4 * hive) 0 place then s
    else
      s.setPlace e.1 e.2 (s.forcedPlace e.1 (s.cell e.1 e.2).size)) s

/-- Grant the oldest waiting claim of a core, if it fits. -/
def State.grantClaim (s : State) (core : Nat) : State :=
  match (s.core core).claims.find? (fun c => !c.granted) with
  | none => s
  | some c =>
    if s.claimFits core c then
      (s.modCore core (fun k => { k with
        claims := k.claims.map (fun x => if x == c then { x with granted := true } else x) })).vacate (hiveOf core) 0
    else s

/-- Two claims are made by the same waiting party. -/
def Claim.same (a b : Claim) : Bool := a.wg == b.wg && a.op == b.op && a.tid == b.tid && a.back == b.back

/-- Make a claim, or look at the one made: whether it is granted. -/
def State.claim (s : State) (core : Nat) (c : Claim) : Bool × State :=
  if c.tiles + c.accs + c.recs + c.units = 0 then (true, s)
  else match (s.core core).claims.find? c.same with
    | some x => (x.granted, s)
    | none =>
      let s := (s.modCore core (fun k => { k with claims := k.claims ++ [{ c with since := s.now }] })).grantClaim core
      ((((s.core core).claims.find? c.same).map (·.granted)).getD false, s)

/-- A claim has been taken up by its party. -/
def State.unclaim (s : State) (core : Nat) (c : Claim) : State :=
  s.modCore core (fun k => { k with claims := k.claims.filter (fun x => !c.same x) })

/-- Bring back the evicted kinds that an operation needs, one claim a kind: whether all stand on the core (R367). -/
def State.bringBack (s : State) (core w op tid : Nat) : List Nat → Bool × State
  | [] => (true, s)
  | k :: ks =>
    match s.wg w with
    | none => (false, s)
    | some g =>
      if !g.evicted.contains k then s.bringBack core w op tid ks
      else
        let h := ({ g with evicted := [] } : Workgroup).holds
        let c : Claim := { wg := w, op := op, tid := tid, back := some k, tiles := if k = 0 then h.1 else 0,
                           accs := if k = 1 then h.2.1 else 0, recs := if k = 2 then h.2.2.1 else 0,
                           units := if k = 2 then h.2.2.2 else 0 }
        match s.claim core c with
        | (false, s) => (false, s)
        | (true, s) =>
          ((s.unclaim core c).modWg w (fun g => { g with evicted := g.evicted.filter (· != k) })).bringBack core w op tid ks

/-- Storage for an operation at the head of the order: evicted kinds back, then its own claim. -/
def State.storage (s : State) (core w op tid : Nat) (kinds : List Nat) (c : Claim) : Bool × State :=
  match s.bringBack core w op tid kinds with
  | (false, s) => (false, s)
  | (true, s) =>
    match s.claim core c with
    | (false, s) => (false, s)
    | (true, s) => (true, s.unclaim core c)

def execMatrixClaimGrant (core : Nat) (s : State) : Out := .next (s.grantClaim core)

/-- Address of a workgroup's context slot (R399, R401). -/
def State.slotBase (s : State) (w : Nat) : Nat :=
  match s.wg w with
  | some g => (s.eff w).savebase + 32768 + 65536 * g.slot.1
  | none => 0

/-- Sections of a context slot: offset and size, trailer included (R400): Workgroup, Threads, Frames, Scratchpad, Matrix. -/
def slotSections (threads poolg scrg : Nat) : List (Nat × Nat) :=
  let f := 65536 + 512 * threads + 64
  let p := f + 256 * (8 * poolg) + 64
  let m := p + 8192 * scrg + 64
  [(0, 65536), (65536, 512 * threads + 64), (f, 256 * (8 * poolg) + 64), (p, 8192 * scrg + 64), (m, 787520)]

/-- Sections of a workgroup's slot. -/
def State.sections (s : State) (w : Nat) : List (Nat × Nat) :=
  match s.wg w with
  | some g => slotSections g.threads.length (s.eff w).poolg g.grans.length
  | none => []

/-- Bytes whose encoding belongs to the device (R400). -/
def deviceBytes (k n : Nat) : List Byte := (List.range n).map (Config.sectionByte k)

/-- Write the payload of a section, in the device's encoding. -/
def State.writePayload (s : State) (w : Nat) (sec : Nat × Nat) : State :=
  match s.wg w with
  | none => s
  | some g =>
    let e := s.eff w
    (writeSys { s with fresh := s.fresh + 1 } g.part e.asid e.ptroot (s.slotBase w + sec.1) (deviceBytes s.fresh (sec.2 - 64))).2

/-- The kinds that a claim lacks. -/
def Claim.kinds (c : Claim) : List Nat :=
  (if c.tiles != 0 then [0] else []) ++ (if c.accs != 0 then [1] else []) ++ (if c.recs + c.units != 0 then [2] else [])

/-- A workgroup holds storage of a kind on its core. -/
def Workgroup.holdsKind (g : Workgroup) (k : Nat) : Bool :=
  [g.holds.1, g.holds.2.1, g.holds.2.2.1][k]?.any (· != 0)

/-- Evict other workgroups' holdings of the needed kinds, the most recently placed workgroup first, until the claim fits. -/
def State.evictFor (s : State) (core : Nat) (c : Claim) (victims : List Nat) : State :=
  victims.foldl (fun s w =>
    let ks := c.kinds.filter (fun k => ((s.wg w).map (fun g => g.holdsKind k)).getD false)
    if s.claimFits core c || ks.isEmpty then s
    else
      let s := ((s.sections w)[4]?.map (s.writePayload w)).getD s
      s.modWg w (fun g => { g with evicted := (ks ++ g.evicted).eraseDups })) s

/-- The oldest claim has waited 4,096 cycles (R367). -/
def execMatrixEviction (core : Nat) (s : State) : Out :=
  .next (match (s.core core).claims.find? (fun c => !c.granted) with
    | none => s
    | some c =>
      if s.now < c.since + 4096 || s.claimFits core c then s
      else
        let others := sortBy (fun a b => decide (b.2.placedAt < a.2.placedAt) || (a.2.placedAt == b.2.placedAt && decide (b.1 ≤ a.1)))
          (s.wgs.filter (fun e => e.2.core == core && e.1 != c.wg && e.2.resid != .saved))
        (s.evictFor core c (others.map (·.1))).grantClaim core)

end Sys2Proof.Machine
end

