-- ==== Sys2Proof/Machine/Comb.lean ====
section
/-!
DEFINITION. The Comb: membership, cells and their order, snapshot copies, placement and leaving (spec/05_comb.md R94 to R118,
spec/12_isa_memory.md R315, R316).
-/

namespace Sys2Proof.Machine

/-! ## Cells (R100, R101, R107) -/

/-- The state word of R111. -/
def Cell.word (x : Cell) : Word :=
  ofN (x.gen * 2 ^ 48 + (match x.st with
      | .free => 0
      | .defined => 1
      | .draining => 2) * 2 ^ 46 + x.ew * 2 ^ 42 + x.rows * 2 ^ 34 + x.cols * 2 ^ 26 + min 255 x.definers.length * 2 ^ 8 +
    min 255 x.readers.length)

/-! ## Snapshot copies and definitions -/

/-- A precise fault reaches a thread that was parked: at once, or when it is restored (R116), or when the fault queue can hold its
entry (R420) and the host has answered for the pages of its save area (R41). -/
def State.faultParked (s : State) (w t code addr : Nat) : State :=
  match s.wg w, s.thread w t with
  | some g, some _ =>
    let s := s.modThread w t (fun th => { th with
      st := .run, hold := none, faults := th.faults ++ [{ op := 0, code := code, spc := th.pc.toNat, addr := addr }] })
    if g.resid == .saved then s else s.deliverDeferred w t
  | _, _ => s

/-- The whole range of a scratchpad destination (R102). -/
def State.rdsFails (s : State) (w off size : Nat) : Bool :=
  match s.wg w with
  | some g => decide (g.scrSize < off + size)
  | none => true

/-- Address of the first byte at or beyond an offset that lies outside the allocation (R26, R45). -/
def State.scrPast (s : State) (w off : Nat) : Nat :=
  0xFF00_0000_0000_0000 + max off (((s.wg w).map (·.scrSize)).getD 0)

/-- Start a snapshot copy for a reader and let its thread go on (R106, R108). -/
def State.startCopy (s : State) (d c : Nat) (x : CombWait) (go : Bool) : State :=
  let off := match x.op with
    | .combRds _ _ off => some off
    | _ => none
  match off with
  | some off =>
    if s.rdsFails x.wg off (s.cell d c).size then s.faultParked x.wg x.tid 0x24 (s.scrPast x.wg off)
    else begin_ s
  | none => begin_ s
where
  begin_ (s : State) : State :=
    let (id, s) := s.openTile x.wg x.tid x.pc x.op
    let s := s.modCell d c (fun y => { y with copies := y.copies ++ [id] })
    if go then s.release x.wg x.tid else s

/-- A definition succeeds (R107): the cell takes the next generation and every parked reader is woken; none when the value
would need the backing store and it has no room. -/
def State.define (s : State) (d c w shape id : Nat) : Option State :=
  match s.findPlace d (shapeBytes shape) 0 with
  | none => none
  | some pl =>
    let rs := (s.cell d c).readers
    let s := s.modCell d c (fun y => { y with
      st := .defined, gen := (y.gen + 1) % 2 ^ 16, ew := bits shape 17 16, rows := shapeRows shape, cols := shapeCols shape
      value := [], pend := some id, definer := w, copies := [], readers := [], place := pl, bad := false })
    let s := s.l2Trim
    some (rs.foldl (fun s r => s.startCopy d c r true) s)

/-- Source bytes of a scratchpad definition at this moment. -/
def State.scratchBytes (s : State) (w off n : Nat) : List Byte :=
  match s.wg w with
  | some g => memRead g.scratch off n
  | none => []

/-- Source bytes of a tile register, n of them, at this moment. -/
def State.tileSource (s : State) (w k n : Nat) : List Byte :=
  memRead (((s.wg w).bind (fun g => (tget g.tiles k).map (·.bytes))).getD []) 0 n

/-- Source bytes of a definition of a shape at this moment. -/
def State.defSource (s : State) (w shape : Nat) : TileOp → List Byte
  | .combDef _ _ k _ => s.tileSource w k (shapeBytes shape)
  | .combDefs _ _ off _ _ => s.scratchBytes w off (shapeBytes shape)
  | _ => []

/-- Issue the operation of a definition with the source bytes of this moment, or of its workgroup's save (R103, R116). -/
def State.openDef (s : State) (w t pc shape : Nat) (o : TileOp) (src : Option (List Byte)) : Nat × State :=
  let old := src.getD (s.defSource w shape o)
  s.openTile w t pc (match o with
    | .combDefs d c off shape _ => .combDefs d c off shape old
    | .combDef d c k _ => .combDef d c k old
    | o => o)

/-- The storage of a drained value has been released: the head definer is admitted; one that finds no room gets 0x66 and the next
is considered (R107, R114). -/
def State.letDefine (s : State) (d c : Nat) : List CombWait → State
  | [] => s.modCell d c (fun y => { y with st := .free, value := [], pend := none, copies := [], definers := [] })
  | x :: xs =>
    let (id, s') := match x.id with
      | some id => (id, s)
      | none => s.openDef x.wg x.tid x.pc x.shape x.op x.src
    match s'.define d c x.wg x.shape id with
    | some s => (s.modCell d c (fun y => { y with definers := xs })).release x.wg x.tid
    | none =>
      let s := match x.id with
        | some id => { s.modWg x.wg (fun g => { g with mq := g.mq.filter (· != id) }) with ops := tdel s.ops id }
        | none => s
      (s.faultParked x.wg x.tid 0x66 0).letDefine d c xs

/-- A draining cell whose copies are done (R107). -/
def State.drained (s : State) (d c : Nat) : State :=
  let y := s.cell d c
  if y.st == .draining && y.copies.isEmpty then (s.modCell d c (fun y => { y with st := .free, value := [], pend := none })).letDefine d c y.definers else s

/-! ## Instructions (R315, R316) -/

/-- The directory of a workgroup that is a member and not leaving (R95, R97). -/
def State.member (s : State) (w : Nat) : Option Nat :=
  (s.wg w).bind (fun g => if g.leaving then none else g.group)

/-- The cell that an instruction names: NUM, or B[11:0]. -/
def cellOf (s : State) (x : Ctx) (o : FX) : Nat :=
  if bit o.xsub.toNat 0 then bits (s.src x.w x.t o.b).toNat 11 0 else o.num.toNat

/-- An instruction of a member on a cell. -/
def onCell (o : FX) (f : State → Ctx → Nat → Nat → Act) (s : State) (x : Ctx) : Act :=
  match s.member x.w with
  | none => .trap 0x60 0 none s
  | some d => f s x d (cellOf s x o)

/-- Park a thread on a cell. -/
def State.parkCell (s : State) (x : Ctx) (d c : Nat) (reads : Bool) (o : TileOp) (shape : Nat) (id : Option Nat) : State :=
  let wt : CombWait := { wg := x.w, tid := x.t, pc := x.pc, op := o, shape := shape, id := id }
  let s := s.modThread x.w x.t (fun th => { th with st := .parked (.cell d c reads), hold := none })
  s.modCell d c (fun y => if reads then { y with readers := y.readers ++ [wt] } else { y with definers := y.definers ++ [wt] })

/-- A definition finds a source word in error at issue; a tile that an operation before it may still write is read at its turn (R411). -/
def State.defBad (s : State) (w shape : Nat) (o : TileOp) : Bool :=
  (s.wg w).any (fun g => match o with
    | .combDef _ _ k _ => g.mq.isEmpty && (((tget g.tiles k).map (·.bad)).getD []).any (fun b => decide (8 * b < shapeBytes shape))
    | .combDefs _ _ off _ _ => (g.badIn off (shapeBytes shape)).isSome
    | _ => false)

/-- A definition reaches the directory (R107). -/
def defineThrough (s : State) (x : Ctx) (d c : Nat) (o : TileOp) (shape : Nat) : Act :=
  match (s.cell d c).st with
  | .defined => .trap 0x61 0 none s
  | .draining => .wait (s.parkCell x d c false o shape none)
  | .free =>
    if s.defBad x.w shape o then .trap 0xE3 0 none s else
    let (id, s') := s.openDef x.w x.t x.pc shape o none
    match s'.define d c x.w shape id with
    | some s => .adv s
    | none => .trap 0x66 0 none s

/-- DESIGN CHOICE (notes/assumptions/85.md): while all of the member numbers 0 to 255 are held, a join waits for one. -/
def execCombJoin (c : Ctl) (o : FX) (s : State) : Out :=
  isa (.combJoin c o) c (fun s x =>
    match s.wg x.w with
    | none => .wait s
    | some g =>
      let a := (s.src x.w x.t o.a).toNat
      if g.leaving then .trap 0x60 0 none s
      else if g.group.isSome || decide (3 < a) then .trap 0x64 0 none s
      else
        let d := 4 * hiveOf g.core + a
        let m := tfree (s.dir d).members
        if 255 < m then .wait s
        else
          let s := s.modDir d (fun y => { y with members := tset y.members m x.w })
          .adv ((s.modWg x.w (fun g => { g with group := some d, member := m })).put x.w x.t o.d (ofN m))) s

def execCombLeave (c : Ctl) (o : FX) (s : State) : Out :=
  isa (.combLeave c o) c (fun s x =>
    match s.member x.w with
    | none => .trap 0x60 0 none s
    | some _ =>
      let (id, s) := s.newOp { wg := x.w, tid := x.t, core := x.core, cls := none, pc := x.pc, kind := .leave }
      .wait ((s.modWg x.w (fun g => { g with leaving := true })).holdFor x id)) s

def execCombDef (c : Ctl) (o : FX) (s : State) : Out :=
  isa (.combDef c o) c (onCell o (fun s x d n =>
    let k := o.mt.val
    let shape := ((s.wg x.w).map (fun g => g.shape k)).getD 0
    if s.shapePending x.w k then .wait s
    else if !shapeOk shape then .trap 0x65 0 none s
    else defineThrough s x d n (.combDef d n k []) shape)) s

/-- DESIGN CHOICE (notes/assumptions/85.md): the address of a value of 0 bytes (an unshaped msK) is checked as one byte, before 0x65. -/
def execCombDefs (c : Ctl) (o : FX) (s : State) : Out :=
  isa (.combDefs c o) c (onCell o (fun s x d n =>
    let shape := ((s.wg x.w).map (fun g => g.shape o.mt.val)).getD 0
    if s.shapePending x.w o.mt.val then .wait s
    else match check s x.w x.ts (s.src x.w x.t o.a).toNat (max 1 (shapeBytes shape)) 8 .load Aper.s false with
      | (.scratch _ off, s) =>
        if !shapeOk shape then .trap 0x65 0 none s else defineThrough s x d n (.combDefs d n off shape []) shape
      | (.fail f a, s) => .trap f a none s
      | (_, s) => .wait s)) s

/-- A read reaches the directory (R107). -/
def readThrough (s : State) (x : Ctx) (d c : Nat) (o : TileOp) : Act :=
  match (s.cell d c).st with
  | .defined =>
    (match o with
    | .combRds _ _ off =>
      if s.rdsFails x.w off (s.cell d c).size then .trap 0x24 (s.scrPast x.w off) none s
      else .adv (s.startCopy d c { wg := x.w, tid := x.t, pc := x.pc, op := o } false)
    | _ => .adv (s.startCopy d c { wg := x.w, tid := x.t, pc := x.pc, op := o } false))
  | _ => .wait (s.parkCell x d c true o 0 none)

def execCombRd (c : Ctl) (o : FX) (s : State) : Out :=
  isa (.combRd c o) c (onCell o (fun s x d n => readThrough s x d n (.combRd d n o.mt.val))) s

def execCombRds (c : Ctl) (o : FX) (s : State) : Out :=
  isa (.combRds c o) c (onCell o (fun s x d n =>
    match check s x.w x.ts (s.src x.w x.t o.a).toNat 1 8 .store Aper.s false with
    | (.scratch _ off, s) => readThrough s x d n (.combRds d n off)
    | (.fail f a, s) => .trap f a none s
    | (_, s) => .wait s)) s

def execCombKill (c : Ctl) (o : FX) (s : State) : Out :=
  isa (.combKill c o) c (onCell o (fun s _ d n =>
    match (s.cell d n).st with
    | .free => .trap 0x62 0 none s
    | .draining => .trap 0x63 0 none s
    | .defined => .adv ((s.modCell d n (fun y => { y with st := .draining })).drained d n))) s

def execCombQ (c : Ctl) (o : FX) (s : State) : Out :=
  isa (.combQ c o) c (onCell o (fun s x d n =>
    let w := (s.cell d n).word
    let ds := (s.dst x.w x.t o.d).toList
    .adv (s.newOp { wg := x.w, tid := x.t, core := x.core, cls := some .ld, pc := x.pc, dst := ds,
                    kind := .local (ds.map (fun (d : Dst) => (d, w))) }).2)) s

def execCombMap (c : Ctl) (o : FX) (s : State) : Out :=
  isa (.combMap c o) c (fun s x =>
    match s.member x.w with
    | none => .trap 0x60 0 none s
    | some d =>
      let m := bits (s.src x.w x.t o.b).toNat 7 0
      let w := bits (s.src x.w x.t o.a).toNat 5 0
      match tget (s.dir d).members m with
      | none => .trap 0x68 0 none s
      | some p => .adv (s.modWg x.w (fun g => { g with windows := tset g.windows w { peer := p } }))) s

/-! ## Events -/

/-- A definition finishes capturing its source, in the shape that it was accepted with; a word in error spoils the value (R101,
R103, R363, R411). While its workgroup is saved, the source is that of the save (R116). -/
def execCombDefinitionComplete (op : Nat) (s : State) : Out :=
  .next (match tget s.ops op with
    | none => s
    | some o =>
      match s.headTile o.wg, s.wg o.wg with
      | some (id, _, t), some g =>
        if id != op then s
        else
          let put := fun (s : State) (d c : Nat) (bs : List Byte) =>
            (s.modCell d c (fun y => if y.pend == some op then { y with value := bs, pend := none } else y)).endTile o.wg op
          let spoilt := fun (s : State) (d c : Nat) =>
            ((s.modCell d c (fun y => if y.pend == some op then { y with pend := none, bad := true } else y)).modWg o.wg
              (fun g => { g with mq := g.mq.filter (· != op) })).opFault op 0xE3 0
          let capture := fun (s : State) (d c : Nat) (old new : List Byte) =>
            if g.resid == .saved then put s d c old
            else let (bs, s) := mixWords s old new (ceilDiv old.length 8); put s d c bs
          (match t with
          | .combDef d c k old =>
            (match (if g.resid == .saved then (true, s) else s.storage g.core o.wg op o.tid [0] { wg := o.wg, op := op }) with
            | (true, s) =>
              if (((tget g.tiles k).map (·.bad)).getD []).any (fun b => decide (8 * b < old.length)) then spoilt s d c
              else capture s d c old (s.tileSource o.wg k old.length)
            | (false, s) => s)
          | .combDefs d c off shape old =>
            if g.badScratch.any (fun b => overlaps off (shapeBytes shape) (8 * b) 8) then spoilt s d c
            else capture s d c old (s.scratchBytes o.wg off (shapeBytes shape))
          | _ => s)
      | _, _ => s)

/-- Code of a value whose storage holds an uncorrectable error, by its place (R410, R411). -/
def Cell.badCode (y : Cell) : Nat := if y.place < 2 then 0xE3 else 0xE4

/-- A copy of a value that holds an uncorrectable error ends with its destination as it was: in core storage it faults on the engine path,
which stops no thread (R388, R390, R411); in L2 or shadow space its thread has a deferred fault (R410). -/
def State.copyFails (s : State) (id : Nat) (o : Op) (code : Nat) : State :=
  if code = 0xE3 then s else (s.modWg o.wg (fun g => { g with mq := g.mq.filter (· != id) })).opFault id code 0

/-- Accesses of an operation's thread to its own scratchpad that issued before it and are still to be performed. DEDUCED
(notes/assumptions/105.md): a copy into scratchpad writes behind them. -/
def State.scratchBefore (s : State) (id : Nat) (o : Op) : Bool :=
  s.ops.any (fun e => decide (e.1 < id) && !e.2.done && e.2.wg == o.wg && e.2.tid == o.tid && e.2.scratchOf == some o.wg)

/-- A snapshot copy has read the value and written its destination (R103, R106, R107). -/
def execCombCopyComplete (op : Nat) (s : State) : Out :=
  .next (match tget s.ops op with
    | none => s
    | some o =>
      match s.headTile o.wg, s.wg o.wg with
      | some (id, _, t), some g =>
        if id != op then s
        else
          let fin := fun (s : State) (d c : Nat) =>
            ((s.endTile o.wg op).modCell d c (fun y => { y with copies := y.copies.filter (· != op) })).drained d c
          (match t with
          | .combRd d c k =>
            let y := s.cell d c
            if y.pend.isSome then s
            else if y.bad then fin (s.copyFails op o y.badCode) d c
            else (match (if g.resid == .saved then (true, s) else s.storage g.core o.wg op o.tid [0]
                { wg := o.wg, op := op, reg := some k, tiles := blocksOf y.shape }) with
              | (true, s) => fin (s.modWg o.wg (fun g => (g.reshape k y.shape).putTile k y.value)) d c
              | (false, s) => s)
          | .combRds d c off =>
            let y := s.cell d c
            if y.pend.isSome || s.scratchBefore op o then s
            else if y.bad then fin (s.copyFails op o y.badCode) d c
            else fin (s.writeAt o.wg o.tid y.value (.scratch o.wg off)) d c
          | _ => s)
      | _, _ => s)

/-- Steps 3 to 5 of R97: windows are revoked, values leave the core (State.forcedPlace), the membership ends. -/
def State.endMembership (s : State) (w : Nat) : State :=
  match (s.wg w).bind (·.group), s.wg w with
  | some d, some g =>
    let s := { s with wgs := s.wgs.map (fun (e : Nat × Workgroup) => (e.1, { e.2 with
      windows := e.2.windows.map (fun (h : Nat × HiveWin) => (h.1, if e.1 == w || h.2.peer == w then { h.2 with revoked := true } else h.2)) })) }
    let mine := ((s.dir d).cells.filter (fun (c : Nat × Cell) => c.2.st == .defined && c.2.definer == w && decide (c.2.place < 2))).map (·.1)
    let s := mine.foldl (fun (s : State) c =>
      s.setPlace d c (s.forcedPlace d (s.cell d c).size)) s
    let s := s.modDir d (fun y => { y with members := tdel y.members g.member })
    s.modWg w (fun g => { g with group := none, member := 0, leaving := false })
  | _, _ => s

/-- Definitions and copies that a workgroup has issued and that are not complete (R97 step 1). -/
def State.combPending (s : State) (w : Nat) : Bool :=
  s.ops.any (fun e => e.2.wg == w && !e.2.done && (match e.2.kind with
    | .tile (.combDef ..) => true
    | .tile (.combDefs ..) => true
    | .tile (.combRd ..) => true
    | .tile (.combRds ..) => true
    | .tile (.epi _ _ _ _ (some (d, c))) => !((s.cell d c).definers.any (fun x => x.id == some e.1))
    | _ => false))

/-- Accesses through windows of a workgroup, or onto it from others, that are still to complete (R97 step 3). DESIGN CHOICE
(notes/assumptions/85.md): an access that issues after comb.leave is accepted and before this step completes too, and the step waits
for it as well. -/
def State.windowPending (s : State) (w : Nat) : Bool :=
  s.ops.any (fun e => !e.2.done && e.2.pieces.any (fun p => p.got.isNone && (match p.loc with
    | .scratch v _ => (v == w) != (e.2.wg == w)
    | _ => false)) || !e.2.done && (match e.2.kind with
    | .tile (.mld _ _ v _) => (v == w) != (e.2.wg == w)
    | .tile (.mst _ _ v) => (v == w) != (e.2.wg == w)
    | _ => false))

/-- Threads of a workgroup that are parked on cells get 0x67 (R97 step 2). -/
def State.expel (s : State) (w : Nat) : State :=
  match s.wg w with
  | none => s
  | some g =>
    let ts := g.which (fun th => match th.st with
      | .parked (.cell _ _ _) => true
      | _ => false)
    ts.foldl (fun s t => (s.unpark w t).faultParked w t 0x67 0) s

def execCombLeaveComplete (wg : Nat) (s : State) : Out :=
  .next (match s.ops.find? (fun e => e.2.wg == wg && e.2.kind == .leave) with
    | none => s
    | some e =>
      if s.combPending wg then s
      else
        let s := s.expel wg
        if s.windowPending wg then s else (s.endMembership wg).finish e.1 [])

/-- Hardware moves a value (R112). -/
def execCombPlacementMove (dir cell place : Nat) (s : State) : Out :=
  .next (let y := s.cell dir cell
    if y.st != .free && decide (place < 4) && y.place != place && s.roomAt dir y.size place then
      s.setPlace dir cell place
    else s)

end Sys2Proof.Machine
end

