-- ==== Sys2Proof/Machine/Control.lean ====
section
/-!
DEFINITION. Branches, calls, loops, buckets, election, barriers, team synchronisation, traps, system registers and the
remaining control instructions (spec/13_isa_control.md R336 to R358), with the events of parked threads (R153, R163, R347,
R358).
-/

namespace Sys2Proof.Machine

/-- Set a thread's program counter. -/
def State.goto (s : State) (w t pc : Nat) : State := s.modThread w t (fun th => { th with pc := BitVec.ofNat 24 pc })

/-- PC + SignExt(OFF, 24), modulo 2^24. -/
def relative (pc off : Nat) : Nat := wrapN ((pc : Int) + signExt off 24) 24

/-! ## Branches (R336) -/

def execBra (c : Ctl) (o : FB) (s : State) : Out :=
  isa (.bra c o) c (fun s x => .jump (s.goto x.w x.t (relative x.pc o.off.toNat))) s
def execBraI (c : Ctl) (o : FB) (s : State) : Out :=
  isa (.braI c o) c (fun s x => .jump (s.goto x.w x.t (bits (s.src x.w x.t o.tgt).toNat 23 0))) s

/-! ## Calls (R337 to R340, R163) -/

/-- Declared size of the thread's top frame. -/
def State.declared (s : State) (w t : Nat) : Nat :=
  (((s.thread w t).bind (fun th => th.frames.head?)).map (·.decl)).getD 0

/-- The window base that ARGB names. -/
def winBase (o : FB) : Nat :=
  match o.argb with
  | .v n => n.val
  | _ => 0

/-- The checks of R339 in their order, then the frame. -/
def callThrough (o : FB) (target : State → Ctx → Option Nat) (h : Option Int) (q : Option Nat) (s : State) (x : Ctx) : Act :=
  let n := o.dem.toNat
  let a := o.argc.toNat
  if n == 0 || decide (224 < n) || decide (n < a) || (a != 0 && decide (s.declared x.w x.t < winBase o + a)) ||
      (match h with
        | some h => decide (h - 1 < -8192)
        | none => false) then .trap 0x71 0 none s
  else match target s x with
    | none => .trap 0x76 0 none s
    | some dest =>
      if 8 * (s.eff x.w).poolg < roundUp (n + 1) 8 then .trap 0x73 0 none s
      else .jump (s.callFrame x.w x.t
        { demand := n, window := winBase o, args := a, target := dest, handler := h.map (· - 1), queue := q })

/-- H of call.f.h: TGT holds H[13:5], FLG holds H[4:0]. -/
def offsetF (o : FB) : Int := signExt (o.tgt.code * 32 + o.flg.toNat) 14
/-- H of call.i.h. -/
def offsetI (o : FB) : Int := signExt o.off.toNat 14

def execCallF (c : Ctl) (o : FB) (s : State) : Out :=
  isa (.callF c o) c (callThrough o (fun _ x => some (relative x.pc o.off.toNat)) none none) s
def execCallFH (c : Ctl) (o : FB) (s : State) : Out :=
  isa (.callFH c o) c (callThrough o (fun _ x => some (relative x.pc o.off.toNat)) (some (offsetF o)) none) s
def execCallI (c : Ctl) (o : FB) (s : State) : Out :=
  isa (.callI c o) c (callThrough o (fun s x => some (bits (s.src x.w x.t o.tgt).toNat 23 0)) none none) s
def execCallIH (c : Ctl) (o : FB) (s : State) : Out :=
  isa (.callIH c o) c (callThrough o (fun s x => some (bits (s.src x.w x.t o.tgt).toNat 23 0)) (some (offsetI o)) none) s

/-- The callee of a queue slot: none without the privilege or when the slot is not registered (R338). -/
def State.callee (s : State) (w q : Nat) : Option Nat :=
  match s.launchOf w with
  | some l => if l.eff.calleeq then (l.callees[q]?).join else none
  | none => none

def execCallQ (c : Ctl) (o : FB) (s : State) : Out :=
  isa (.callQ c o) c (callThrough o (fun s x => s.callee x.w (o.flg.toNat % 16)) none (some (o.flg.toNat % 16))) s

/-! ## Return, unwind, exit (R341, R342) -/

def execRet (c : Ctl) (o : F3) (s : State) : Out :=
  isa (.ret c o) c (fun s x =>
    match (s.thread x.w x.t).map (·.frames) with
    | some (top :: caller :: _) =>
      if top.base then .trap 0x74 0 none s else .jump (s.retFrame x.w x.t top caller)
    | _ => .trap 0x74 0 none s) s

def execUnwind (c : Ctl) (o : F3) (s : State) : Out :=
  isa (.unwind c o) c (fun s x =>
    match s.unwind x.w x.t (s.src x.w x.t o.a) with
    | some s => .jump s
    | none => .trap 0x75 0 none s) s

def execExit (c : Ctl) (o : F3) (s : State) : Out :=
  isa (.exit c o) c (fun s x =>
    .jump ((s.freeFrames x.w x.t).modThread x.w x.t (fun th => { th with
      st := .exited, hold := none, loop := none, call := none, serial := false }))) s

/-! ## The loop buffer (R343 to R345) -/

/-- Fetch n words from an index up: the words, or the first failure. -/
def fetchWords (s : State) (w : Nat) (ts : List Nat) : Nat → Nat → Except (Nat × Nat) (List Nat) × State
  | _, 0 => (.ok [], s)
  | idx, n + 1 =>
    match fetchWord s w ts idx with
    | (.error e, s) => (.error e, s)
    | (.ok a, s) => match fetchWords s w ts (idx + 1) n with
      | (.ok as, s) => (.ok (a :: as), s)
      | (.error e, s) => (.error e, s)

/-- OPC of a word. -/
def opcOf (w : Nat) : Nat := bits w 95 86

/-- A step word: body index, field, increment. -/
def stepOf (w : Nat) : Nat × Nat × Int :=
  let imm := w / 2 ^ 13 % 2 ^ 32
  (bits imm 4 0, bits imm 7 5, signExt (imm / 256) 24)

/-- A body word that may not stand in a loop (R344 check 4). -/
def noBody (w : Nat) : Bool :=
  let opc := opcOf w
  (0x280 ≤ opc && opc ≤ 0x28B) || (0x2E4 ≤ opc && opc ≤ 0x2E7)

/-- The format of a word has a stepped field (R344 check 5). -/
def hasField (w f : Nat) : Bool :=
  match (Map.rowOf (opcOf w) (bits w 85 82)).map (fun _ => Map.form (opcOf w) (bits w 85 82)) with
  | none => false
  | some .f3 => f ≤ 4
  | some .fi => f ≤ 1
  | some .fm => f ≤ 2 || f == 6
  | some .fx => f ≤ 2 || f == 5 || f == 7
  | some .fb => false

/-- The range of operand codes that holds a code (R344 check 6). -/
def operandRange (c : Nat) : Option (Int × Int) :=
  if c ≤ 0x0EF then some (0, 0x0EF)
  else if 0x100 ≤ c && c ≤ 0x13F then some (0x100, 0x13F)
  else if 0x1C0 ≤ c && c ≤ 0x1DF then some (0x1C0, 0x1DF)
  else if 0x1E0 ≤ c then some (0x1E0, 0x1FF)
  else none

/-- A stepped field stays in its range at passes 0 and last. -/
def stepFits (w : Nat) (last : Nat) (st : Nat × Nat × Int) : Bool :=
  let f := stepField st.2.1
  let v := w / 2 ^ f.1 % 2 ^ f.2
  let within := fun (lo hi x : Int) => lo ≤ x && x ≤ hi
  let far := fun (x : Int) => x + (last : Int) * st.2.2
  match st.2.1 with
  | 5 => within 0 7 (far v)
  | 6 => within (-(2 ^ 23)) (2 ^ 23 - 1) (far (signExt v 24))
  | 7 => within 0 4095 (far v)
  | _ => match operandRange v with
    | some (lo, hi) => within lo hi (far v)
    | none => false

/-- Two steps name the same body index and field. -/
def stepsClash : List (Nat × Nat × Int) → Bool
  | [] => false
  | e :: es => es.any (fun x => x.1 == e.1 && x.2.1 == e.2.1) || stepsClash es

/-- The capture is malformed (R344 checks 2 to 6). -/
def badCapture (stepWords body : List Nat) (trips : Nat) : Bool :=
  let sts := stepWords.map stepOf
  stepWords.any (fun w => opcOf w != 0x289) || sts.any (fun e => decide (body.length ≤ e.1)) || stepsClash sts ||
  body.any noBody || sts.any (fun e => !hasField ((body[e.1]?).getD 0) e.2.1) ||
  sts.any (fun e => !stepFits ((body[e.1]?).getD 0) (trips - 1) e)

def execLoopCap (c : Ctl) (o : FI) (s : State) : Out :=
  isa (.loopCap c o) c (fun s x =>
    let len := bits o.imm.toNat 5 0
    let ns := bits o.imm.toNat 10 6
    let trips := bits (s.src x.w x.t o.a).toNat 31 0
    let b := x.pc + 1 + ns
    match fetchWords s x.w x.ts (x.pc + 1) (ns + len) with
    | (.error (0, _), s) => .wait s
    | (.error (f, a), s) => .trap f a none s
    | (.ok ws, s) =>
      let body := ws.drop ns
      if badCapture (ws.take ns) body trips then .trap 0x07 0 none s
      else if trips = 0 then .jump (s.goto x.w x.t (b + len))
      else .jump (s.modThread x.w x.t (fun th => { th with
        pc := BitVec.ofNat 24 b
        loop := some { b := b, len := len, trips := trips, pass := 0, steps := (ws.take ns).map stepOf } }))) s

/-- A step word reached other than through capture (R345). -/
def execLoopStep (c : Ctl) (o : FI) (s : State) : Out := isa (.loopStep c o) c (fun s _ => .trap 0x07 0 none s) s

/-! ## Buckets (R346, R201, R202) -/

/-- One doubleword of constant space, through the constant path: a hit, or what a load request of the core brings back; its value,
or the fault and its address; 0 waits. -/
def cstWord (s : State) (x : Ctx) (va : Nat) : Except (Nat × Nat) Nat × State :=
  match check s x.w x.ts va 8 8 .load Aper.c true with
  | (.wait, s) => (.error (0, va), s)
  | (.fail f a, s) => (.error (f, a), s)
  | (.glob g ph, s) =>
    (match ((s.core x.core).cst).find? (fun l => !ph.host && ph.cache == 0 && l.pa == lineOf ph.pa) with
    | some l => (.ok (leNat ((l.data.drop (ph.pa - lineOf ph.pa)).take 8)), s)
    | none => match s.fetchAs (.thread x.w x.t) (.core x.core) (s.partOf x.w) ph g 8 with
      | (.error (0, _), _) => (.error (0, va), s.sendWants (.thread x.w x.t) [{
          src := .core x.core, part := s.partOf x.w, ph := ph, va := g, fill := if ph.host || ph.cache != 0 then none else some .cst }])
      | (.error (f, o), s) => (.error (f, g + o), s)
      | (.ok b, s) => (.ok (leNat b), s))
  | (_, s) => (.error (0x28, va), s)

/-- n doublewords of constant space. -/
def cstWords (s : State) (x : Ctx) : Nat → Nat → Except (Nat × Nat) (List Nat) × State
  | _, 0 => (.ok [], s)
  | va, n + 1 =>
    match cstWord s x va with
    | (.error e, s) => (.error e, s)
    | (.ok a, s) => match cstWords s x (va + 8) n with
      | (.ok as, s) => (.ok (a :: as), s)
      | (.error e, s) => (.error e, s)

/-- A bucket record outside its limits (R201). -/
def badBucket (nd : Nat) (r : List Nat) : Bool :=
  let h := r.headD 0
  h / 2 ^ (16 + 4 * nd) != 0 || (List.range nd).any (fun d => decide (6 < bits h (19 + 4 * d) (16 + 4 * d))) ||
  r.tail.any (fun w => decide (w / 2 ^ 32 < w % 2 ^ 32))

/-- The record holds every shape value. -/
def bucketHolds (r vs : List Nat) : Bool :=
  (r.tail.zip vs).all (fun p => p.1 % 2 ^ 32 ≤ p.2 && decide (p.2 ≤ p.1 / 2 ^ 32))

/-- Pad mask of a dimension. -/
def padMask (tw v : Nat) : Nat :=
  let n := 2 ^ tw
  let r := v % n
  if r = 0 then 0 else 2 ^ n - 2 ^ r

/-- The first record that matches, reading no further; none when none does. -/
def findBucket (s : State) (x : Ctx) (nd : Nat) (vs : List Nat) : Nat → Nat → Except (Nat × Nat) (Option (List Nat)) × State
  | _, 0 => (.ok none, s)
  | va, n + 1 =>
    match cstWords s x va (1 + nd) with
    | (.error e, s) => (.error e, s)
    | (.ok r, s) =>
      if badBucket nd r then (.error (0xB0, va), s)
      else if bucketHolds r vs then (.ok (some r), s)
      else findBucket s x nd vs (va + 8 + 8 * nd) n

def execBktSel (c : Ctl) (o : F3) (s : State) : Out :=
  isa (.bktSel c o) c (fun s x => Act.after (.thread x.w x.t) <|
    let va := (s.src x.w x.t o.a).toNat
    let k0 := match o.b with
      | .k n => n.val
      | _ => 0
    match cstWord s x va with
    | (.error (0, _), s) => .wait s
    | (.error (f, a), s) => .trap f a none s
    | (.ok h, s) =>
      let nd := bits h 10 8
      let nb := bits h 7 0
      let es := (List.range nd).map (fun d => Opnd.plus o.e d)
      let beyond := match o.e with
        | .v j => decide (240 < j.val + nd) || (match s.thread x.w x.t with
          | some th => !inFrame th.frames (j.val + nd - 1)
          | none => false)
        | _ => false
      if h / 2 ^ 11 != 0 || nd == 0 || decide (4 < nd) || nb == 0 || decide (64 < nb) || decide (64 < k0 + nd) then .trap 0xB0 va none s
      else if beyond then .trap 0x70 0 none s
      else
        let names := (List.range nd).map (fun d => Dst.k (k0 + d)) ++ es.flatMap (fun (e : Opnd) => (s.dst x.w x.t e).toList)
        if s.pendingAny x.w x.t names then
          .wait (x.ts.foldl (fun (s : State) t => s.modThread x.w t (fun th => { th with hold := some (.group names) })) s)
        else
        let vs := (List.range nd).map (fun d => bits (((s.wg x.w).map (fun g => (g.k (k0 + d)).toNat)).getD 0) 31 0)
        match findBucket s x nd vs (va + 8) nb with
        | (.error (0, _), s) => .wait s
        | (.error (f, a), s) => .trap f a none s
        | (.ok r, s) =>
          let (sched, masks, hit) := match r with
            | some r => (bits (r.headD 0) 15 0,
                vs.zipIdx.map (fun (p : Nat × Nat) => padMask (bits (r.headD 0) (19 + 4 * p.2) (16 + 4 * p.2)) p.1), true)
            | none => (0xFFFF, List.replicate nd 0, false)
          let ws := (s.dst x.w x.t o.d).toList.map (fun (d : Dst) => (d, ofN sched)) ++
            ((es.zip masks).filterMap (fun (p : Opnd × Nat) => (s.dst x.w x.t p.1).map (fun d => (d, ofN p.2)))) ++
            (if o.pd.val = 15 then [] else [(Dst.p o.pd.val x.ts, if hit then (1 : Word) else 0)])
          let (_, s) := s.newOp { wg := x.w, tid := x.t, core := x.core, cls := some .ld, pc := x.pc, dst := ws.map (fun (p : Dst × Word) => p.1),
                                  kind := .local ws }
          .adv s) s

/-! ## Election and idling (R161, R347) -/

/-- Free the occurrences that every thread has left behind or executed. -/
def Workgroup.freeElections (g : Workgroup) : Workgroup :=
  let live := g.which (fun th => th.st != .exited)
  { g with elections := g.elections.filter (fun e =>
      !(live.all (fun t => decide (e.epoch < ((g.threads[t]?).map (·.epoch.toNat)).getD 0)) || live.all (e.seen.contains ·))) }

def execElect (c : Ctl) (o : F3) (s : State) : Out :=
  let s0 := match s.cur with
    | some u => s.modWg u.wg Workgroup.freeElections
    | none => s
  isa (.elect c o) c (fun s x =>
    match s.wg x.w, s.thread x.w x.t with
    | some g, some th =>
      let mine := fun (e : Election) => e.index == x.pc && e.epoch == th.epoch.toNat
      if g.elections.any mine then
        .adv ((s.modWg x.w (fun g => { g with elections := g.elections.map (fun e =>
          if mine e then { e with seen := x.t :: e.seen.filter (· != x.t) } else e) })).putPred x.w [x.t] o.pd.val false)
      else if 64 ≤ g.elections.length then .wait s
      else .adv ((s.modWg x.w (fun g => { g with
        elections := g.elections ++ [{ index := x.pc, epoch := th.epoch.toNat, seen := [x.t] }] })).putPred x.w [x.t] o.pd.val true)
    | _, _ => .wait s) s0

def execYield (c : Ctl) (o : F3) (s : State) : Out :=
  isa (.yield c o) c (fun s x => .adv (s.modThread x.w x.t (fun th => { th with yieldTo := some (s.now + 16) }))) s
def execNop (c : Ctl) (o : F3) (s : State) : Out := isa (.nop c o) c (fun s _ => .adv s) s

/-! ## Named barriers (R134, R348 to R351) -/

/-- The barrier opens: threads in bar.wait go on, threads in bar.arrive repeat the arrival. -/
def State.openBarrier (s : State) (w n : Nat) : State :=
  match s.wg w with
  | none => s
  | some g =>
    let s := s.modWg w (fun g => { g with bars := tmod g.bars n (fun b => { b with ph := (b.ph + 1) % 2 ^ 32, arr := 0 }) })
    g.threads.zipIdx.foldl (fun s p => match p.1.st with
      | .parked (.barrier m _ waits) =>
        if m != n then s
        else if waits then (s.modThread w p.2 (fun th => { th with epoch := th.epoch + 1 })).release w p.2
        else s.modThread w p.2 (fun th => { th with st := .run, readyAt := s.now })
      | _ => s) s

/-- Open a barrier at the moment when every arrival and byte is in (R134). -/
def State.settleBarrier (s : State) (w n : Nat) : State :=
  match (s.wg w).bind (fun g => tget g.bars n) with
  | some b => if b.arr == b.exp && b.tx == 0 then s.openBarrier w n else s
  | none => s

/-- The barrier of a number below BARS; initialised or not. -/
def State.barrier (s : State) (w n : Nat) : Option (Option Barrier) :=
  match s.wg w, s.launchOf w with
  | some g, some l => if l.nbars ≤ n then none else some (tget g.bars n)
  | _, _ => none

/-- A barrier instruction on an initialised barrier (R148). -/
def onBarrier (o : FI) (f : State → Ctx → Nat → Barrier → Act) (s : State) (x : Ctx) : Act :=
  let n := bits o.imm.toNat 10 0
  match s.barrier x.w n with
  | some (some b) => f s x n b
  | _ => .trap 0xC8 0 none s

def setBarrier (s : State) (w n : Nat) (b : Barrier) : State := s.modWg w (fun g => { g with bars := tset g.bars n b })

def execBarInit (c : Ctl) (o : FI) (s : State) : Out :=
  isa (.barInit c o) c (fun s x =>
    let n := bits o.imm.toNat 10 0
    let k := (s.src x.w x.t o.a).toNat
    match s.barrier x.w n with
    | none => .trap 0xC8 0 none s
    | some b0 =>
      if k == 0 || decide (((s.wg x.w).map (·.threads.length)).getD 0 < k) then .trap 0xC9 0 none s
      else match b0 with
        | none => .adv (setBarrier s x.w n { exp := k })
        | some b =>
          if k = b.exp then .adv s
          else
            let waits := ((s.wg x.w).map (fun g => g.threads.any (fun th => match th.st with
              | .parked (.barrier m _ true) => m == n
              | _ => false))).getD false
            if waits || decide (k < b.arr) then .trap 0xC9 0 none s
            else .adv ((setBarrier s x.w n { b with exp := k }).settleBarrier x.w n)) s

/-- bar.arrive acts first as a fence of workgroup scope (R125, R350). -/
def execBarArrive (c : Ctl) (o : FI) (s : State) : Out :=
  isa (.barArrive c o) c (onBarrier o (fun s x n b =>
    let m := s.markOf x
    if !s.fenceClear x 2 m then .wait (s.begun x m)
    else if b.arr == b.exp then
      .wait (s.modThread x.w x.t (fun th => { th with st := .parked (.barrier n b.ph false), hold := none }))
    else
      let s := s.modThread x.w x.t (fun th => { th with arrival := some (n, b.ph) })
      .adv ((setBarrier s x.w n { b with arr := b.arr + 1 }).settleBarrier x.w n))) s

def execBarWait (c : Ctl) (o : FI) (s : State) : Out :=
  isa (.barWait c o) c (onBarrier o (fun s x n b =>
    let left := match (s.thread x.w x.t).bind (·.arrival) with
      | some (m, ph) => m == n && ph != b.ph
      | none => false
    if left then .adv (s.modThread x.w x.t (fun th => { th with epoch := th.epoch + 1 }))
    else .wait (s.modThread x.w x.t (fun th => { th with st := .parked (.barrier n b.ph true), hold := none })))) s

def execBarTx (c : Ctl) (o : FI) (s : State) : Out :=
  isa (.barTx c o) c (onBarrier o (fun s x n b =>
    let tx := b.tx + (s.src x.w x.t o.a).toInt
    if txFits tx then .adv ((setBarrier s x.w n { b with tx := tx }).settleBarrier x.w n)
    else .trap 0xC7 0 none s)) s

/-! ## Team synchronisation and wait (R352, R353) -/

/-- The gathered set issues once the fence of every contributor is done; until then it stays gathered. -/
def teamFence (i : Instr) (c : Ctl) (m : Opnd ⊕ Nat) (s : State) : Out :=
  match s.cur with
  | none => .next s
  | some u =>
    let ctx := fun (t : Nat) => ({ w := u.wg, t := t, ts := [t], core := u.core, pc := u.pc, uni := false } : Ctx)
    let ts := s.contributors c
    if ts.all (fun t => s.fenceClear (ctx t) 1 (s.markOf (ctx t))) then isa i c (fun s _ => .adv s) s
    else
      let s := ts.foldl (fun s t => s.begun (ctx t) (s.markOf (ctx t))) s
      .next { u.tids.foldl (fun (s : State) t => s.modThread u.wg t (fun th => { th with st := .gathering (maskIn s u.wg t m) })) s with cur := none }

def execTeamSync (c : Ctl) (o : F3) (s : State) : Out := teamFence (.teamSync c o) c (.inl o.a) s
def execTeamSyncImm (c : Ctl) (o : FI) (s : State) : Out := teamFence (.teamSyncImm c o) c (.inr o.imm.toNat) s

def execWait (c : Ctl) (o : FI) (s : State) : Out :=
  isa (.wait c o) c (fun s x =>
    if s.countedDown x.w x.t o.imm.toNat then .adv s else .wait s) s

/-! ## Traps (R354) -/

def execTrap (c : Ctl) (o : FI) (s : State) : Out :=
  isa (.trap c o) c (fun s x => .trap (0xF0 + bits o.imm.toNat 3 0) 0 (some (s.src x.w x.t o.a)) s) s
def execBrk (c : Ctl) (o : F3) (s : State) : Out := isa (.brk c o) c (fun s _ => .trap 0xFF 0 none s) s

/-! ## System registers (R355, R62) -/

/-- sr.CNT. -/
def State.counts (s : State) (w t : Nat) : Word :=
  ofN (s.countOps w t .ld + s.countOps w t .st * 2 ^ 6 + s.countOps w t .cp * 2 ^ 12 + s.countOps w t .tl * 2 ^ 18 +
    s.countOps w t .ag * 2 ^ 24)

/-- A register's value for a thread. -/
def State.readSr (s : State) (w t n : Nat) : Word :=
  match s.thread w t, s.launchOf w with
  | some th, some l =>
    (match n with
    | 0x000 => th.cause
    | 0x001 => th.epc
    | 0x002 => th.faddr
    | 0x003 => th.tval
    | 0x010 => th.rngctr
    | 0x011 => ofN th.sptop
    | 0x012 => th.epoch
    | 0x013 => th.opidx
    | 0x014 => ofN l.ltag
    | 0x015 => ofN l.lseq
    | 0x016 => s.counts w t
    | 0x017 => (match th.loop with
      | some r => ofN (r.trips - r.pass)
      | none => 0)
    | 0x018 => if l.priv then 1 else 0
    | 0x020 => ofN th.congsel.toNat
    | 0x021 => if (s.part l.part).slices.contains th.congsel.toNat then (s.slice th.congsel.toNat).cong else 0
    | 0x022 => ofN l.part
    | _ => 0)
  | _, _ => 0

/-- Write a register of a thread. -/
def Thread.writeSr (th : Thread) (n : Nat) (x : Word) : Thread :=
  match n with
  | 0x000 => { th with cause := ofN (x.toNat % 256) }
  | 0x001 => { th with epc := x }
  | 0x002 => { th with faddr := x }
  | 0x003 => { th with tval := x }
  | 0x010 => { th with rngctr := x }
  | 0x020 => { th with congsel := BitVec.ofNat 7 x.toNat }
  | _ => th

def execRdsr (c : Ctl) (o : FI) (s : State) : Out :=
  isa (.rdsr c o) c (fun s x => .adv (s.put x.w x.t o.d (s.readSr x.w x.t (bits o.imm.toNat 11 0)))) s
def execWrsr (c : Ctl) (o : FI) (s : State) : Out :=
  isa (.wrsr c o) c (fun s x =>
    let v := s.src x.w x.t o.a
    .adv (s.modThread x.w x.t (fun th => th.writeSr (bits o.imm.toNat 11 0) v))) s

/-! ## Digest, TLB, sleep, halt (R356 to R358) -/

/-- The running hash of the launch's queue as four doublewords, and the flag word; none for a thread of no queue. -/
def State.digestOf (s : State) (w : Nat) : Option (List Word) × State :=
  match s.launchOf w with
  | none => (none, s)
  | some l =>
    match l.queue.bind (fun q => tget (s.part l.part).queues q) with
    | none => (none, s)
    | some qu =>
      let (r, s) := s.nodeBits l.part qu.node
      let flags := (if bit r 1660 then 4 else 0) + (if bit r 1661 then 2 else 0) + (if bit r 1662 then 1 else 0)
      (some ((List.range 4).map (fun i => ofN (bits r (1855 + 64 * i) (1792 + 64 * i))) ++ [ofN flags]), s)

def execDigestRd (c : Ctl) (o : F3) (s : State) : Out :=
  isa (.digestRd c o) c (fun s x =>
    let m := s.markOf x
    if !s.fenceClear x 4 m then .wait (s.begun x m)
    else
      let s := s.discard x.core .ls (fun _ => true)
      let (h, s) := s.digestOf x.w
      let ws := h.getD (List.replicate 5 0)
      let s := ws.zipIdx.foldl (fun (s : State) p => s.put x.w x.t (Opnd.plus o.d p.2) p.1) s
      .adv (s.putPred x.w x.ts o.pd.val h.isSome)) s

/-- An entry that tlb.inv names (R357). -/
def TlbEntry.named (t : TlbEntry) (part a b : Nat) : Bool :=
  t.part == part && (bit b 14 || (t.asid == bits b 11 0 && (match bits b 13 12 with
    | 0 => t.size == 16 && t.vpn == bits a 56 16
    | 1 => t.size == 21 && t.vpn == bits a 56 21
    | 2 => t.size == 30 && t.vpn == bits a 56 30
    | _ => true)))

/-- The first address and the size of what tlb.inv names; none names every page. -/
def namedRange (a b : Nat) : Option (Nat × Nat) :=
  if bit b 14 then none
  else match bits b 13 12 with
    | 0 => some (bits a 56 16 * 2 ^ 16, 2 ^ 16)
    | 1 => some (bits a 56 21 * 2 ^ 21, 2 ^ 21)
    | 2 => some (bits a 56 30 * 2 ^ 30, 2 ^ 30)
    | _ => none

/-- log2 of what an entry of a level spans (R31). -/
def levelSpan : Nat → Nat
  | 0 => 48
  | 1 => 39
  | 2 => 30
  | _ => 21

/-- A walk-cache entry that lies on the path to a named page (R357). -/
def WalkEnt.named (e : WalkEnt) (part a b : Nat) : Bool :=
  e.part == part && (bit b 14 || e.asid == bits b 11 0) && (match namedRange a b with
    | some (va, n) => overlaps (e.pfx * 2 ^ levelSpan e.level) (2 ^ levelSpan e.level) va n
    | none => true)

/-- A walk in progress begins again. -/
def Miss.restart (m : Miss) : Miss := { m with level := 0, table := none, req := none, got := none, leaf := none, ats := none }

/-- Lines that an access has read, or asked for, it asks for anew; the Swarm engine keeps what it has, in which no page table is
looked up. -/
def Stage.anew (e : Stage) : Stage :=
  match e.owner with
  | .swarm .. => e
  | _ => if e.writing then e else { e with seen := [], asked := [] }

/-- Remove the entries that tlb.inv names from every TLB and walk cache of the partition; walks under way begin again, and so do
accesses of the hardware that have not taken effect (R42, R357). -/
def State.tlbDrop (s : State) (part a b : Nat) : State :=
  { s with
    cores := s.cores.map (fun (e : Nat × Core) => (e.1, { e.2 with
      tlb := e.2.tlb.filter (fun t => !t.named part a b)
      misses := e.2.misses.map (fun (m : Nat × Miss) =>
        (m.1, if m.2.part == part && (bit b 14 || m.2.asid == bits b 11 0) then m.2.restart else m.2)) }))
    walks := s.walks.map (fun (e : Nat × List WalkEnt) => (e.1, e.2.filter (fun x => !x.named part a b)))
    stages := s.stages.map Stage.anew }

/-- Every access older than a mark that may have used a named page of the partition has completed (R42). -/
def State.accessesDone (s : State) (part a b m : Nat) : Bool :=
  let on := fun (va n : Nat) => match namedRange a b with
    | some (v, k) => overlaps va (max 1 n) v k
    | none => true
  let space := fun (l : Option Nat) => bit b 14 || ((l.bind (fun l => tget s.launches l)).map (fun l => l.eff.asid == bits b 11 0)).getD true
  s.reqs.all (fun r => r.2.part != part || decide (m ≤ r.1) || !on r.2.va r.2.n || !space r.2.launch) &&
  s.ops.all (fun o => o.2.done || s.partOf o.2.wg != part || decide (m ≤ o.1) || !space ((s.wg o.2.wg).map (·.launch)) ||
    o.2.pieces.all (fun p => p.got.isSome || !on p.va p.n))

def execTlbInv (c : Ctl) (o : F3) (s : State) : Out :=
  isa (.tlbInv c o) c (fun s x =>
    let p := s.partOf x.w
    match (s.thread x.w x.t).bind (·.hold) with
    | some (.inval m a b) => if s.accessesDone p a b m then .adv s else .wait s
    | _ =>
      let m := s.markOf x
      if !s.fenceClear x 4 m then .wait (s.begun x m)
      else
        let a := (s.src x.w x.t o.a).toNat
        let b := (s.src x.w x.t o.b).toNat
        let s := (s.discard x.core .ls (fun _ => true)).tlbDrop p a b
        if s.accessesDone p a b s.nextId then .adv s
        else .wait (s.modThread x.w x.t (fun th => { th with hold := some (.inval s.nextId a b) }))) s

def execSleep (c : Ctl) (o : FI) (s : State) : Out :=
  isa (.sleep c o) c (fun s x =>
    if o.imm.toNat = 0 then .adv s
    else .wait (s.modThread x.w x.t (fun th => { th with st := .parked (.sleep (s.now + o.imm.toNat)) }))) s

/-- The workgroup stops and waits for its save, which posts the halt record (R358, R401). -/
def execHalt (c : Ctl) (o : F3) (s : State) : Out :=
  isa (.halt c o) c (fun s x => .adv (s.modWg x.w (fun g => { g with saveFor := 3 }))) s

/-! ## Events of waiting threads -/

def execStallCountExpire (wg tid : Nat) (s : State) : Out :=
  .next (s.modThread wg tid (fun th => match th.stallTo with
    | some n => if n ≤ s.now then { th with stallTo := none } else th
    | none => th))

def execYieldHoldExpire (wg tid : Nat) (s : State) : Out :=
  .next (s.modThread wg tid (fun th => match th.yieldTo with
    | some n => if n ≤ s.now then { th with yieldTo := none } else th
    | none => th))

def execSleepExpire (wg tid : Nat) (s : State) : Out :=
  .next (match (s.thread wg tid).map (fun (th : Thread) => th.st), (s.wg wg).map (fun (g : Workgroup) => g.resid) with
    | some (.parked (.sleep n)), some .resident => if n ≤ s.now then s.release wg tid else s
    | _, _ => s)

/-- Threads of a core parked in a callee queue: since when, workgroup, thread, callee. -/
def State.queued (s : State) (core q : Nat) : List (Nat × Nat × Nat × Nat) :=
  (s.issuing core).flatMap (fun e => e.2.threads.zipIdx.filterMap (fun p => match p.1.st with
    | .parked (.calleeQ n since target) => if n == q then some (since, e.1, p.2, target) else none
    | _ => none))

/-- The entry with the greatest measure, the first of equals. -/
def mostOf {α : Type} (f : α → Nat) : List α → Option α
  | [] => none
  | x :: xs => some (xs.foldl (fun m y => if f m < f y then y else m) x)

/-- The queue that the picker drains in this cycle: the fullest of those that may be drained, then the lowest (R163). -/
def State.drainQueue (s : State) (core : Nat) : Option Nat :=
  match mostOf (fun q => (s.queued core q).length) (List.range 16) with
  | none => none
  | some q =>
    let es := s.queued core q
    let full := es.any (fun e => decide (32 ≤ (es.filter (fun x => x.2.1 == e.2.1)).length))
    if full || es.any (fun e => decide (e.1 + 256 ≤ s.now)) then some q else none

/-- One thread per lane, the oldest first. -/
def perLane (es : List (Nat × Nat × Nat × Nat)) : List (Nat × Nat × Nat × Nat) :=
  (List.range 32).filterMap (fun l => (es.filter (fun e => e.2.2.1 % 32 == l)).foldl
    (fun (m : Option (Nat × Nat × Nat × Nat)) e => match m with
      | none => some e
      | some x => if e.1 < x.1 then some e else m) none)

/-- The picker drains at most one callee queue in a cycle (R163). -/
def execCalleeQueueDrain (core : Nat) (s : State) : Out :=
  .next (if (s.core core).drained then s else match s.drainQueue core with
    | none => s
    | some q =>
      let es := s.queued core q
      let s := s.modCore core (fun k => { k with drained := true })
      let ws := sortBy (fun a b => decide (a ≤ b)) ((s.issuing core).map (·.1))
      match mostOf (fun w => (es.filter (fun e => e.2.1 == w)).length) ws with
      | none => s
      | some w =>
        (perLane (es.filter (fun e => e.2.1 == w))).foldl (fun (s : State) e => s.modThread w e.2.2.1 (fun th => { th with
          st := .run, readyAt := s.now, pc := BitVec.ofNat 24 e.2.2.2 })) s)

end Sys2Proof.Machine
end

