-- ==== Sys2Proof/Machine/Matrix.lean ====
section
/-!
DEFINITION. Tiles, reservation records, the array, the epilogue engine and scaling rings (spec/14_isa_matrix.md R368 to R387;
spec/09_numbers.md R219 to R226).
-/

namespace Sys2Proof.Machine

/-! ## Shapes and tiles (R369 to R372) -/

/-- An earlier operation that names a register or record is not yet performed (R363). -/
def State.named (s : State) (w m : Nat) (f : TileOp → List Nat) (n : Nat) : Bool :=
  (s.tileOps w m).any (fun t => (f t).contains n)

def execMsSet (c : Ctl) (o : FX) (s : State) : Out :=
  isa (.msSet c o) c (fun s x =>
    let k := o.mt.val
    let shape := (s.src x.w x.t o.a).toNat
    let m := s.markOf x
    if shape != 0 && !shapeOk shape then .trap 0x80 0 none s
    else if s.named x.w m TileOp.tiles k then .wait (s.begun x m)
    else
      let old := ((s.wg x.w).map (fun g => g.shape k)).getD 0
      match s.storage x.core x.w 0 x.t (if shape = 0 then [] else [0])
          { wg := x.w, tid := x.t, reg := some k, tiles := blocksOf shape } with
      | (false, s) => .wait (s.begun x m)
      | (true, s) => .adv ((s.modWg x.w (fun g => g.reshape k shape)).put x.w x.t o.d (ofN old))) s

/-- The layout word (R370): bits 31:0 of three registers. -/
def layoutWord (s : State) (x : Ctx) (a : Opnd) : Nat :=
  let r := fun (j : Nat) => (s.src x.w x.t (Opnd.plus a j)).toNat % 2 ^ 32
  r 0 + r 1 * 2 ^ 32 + r 2 * 2 ^ 64

/-- Chunks in a row of a shape. -/
def chunksOf (shape : Nat) : Nat := shapeCols shape * shapeEw shape / 64

/-- A malformed layout word for a shape. -/
def badLayout (lay shape : Nat) : Bool :=
  let m := bits lay 95 92
  decide (5 < m) || bits lay 91 88 != 0 || bits lay 31 25 != 0 || (!bit lay 24 && bits lay 23 18 != 0) ||
  bits lay 17 0 % 8 != 0 || bits lay 51 32 % 8 != 0 || bits lay 71 52 % 8 != 0 || bits lay 87 72 % 8 != 0 ||
  shapeCols shape * shapeEw shape % 64 != 0 || (decide (0 < m) && chunksOf shape % 2 ^ m != 0)

/-- Window offset of chunk c of row i. -/
def chunkOff (lay i c : Nat) : Int :=
  ((bits lay 17 0 : Nat) : Int) + ((i % 8 : Nat) : Int) * signExt (bits lay 51 32) 20 +
    ((i / 8 : Nat) : Int) * signExt (bits lay 71 52) 20 +
    ((c ^^^ (i % 2 ^ bits lay 95 92) : Nat) : Int) * signExt (bits lay 87 72) 16

/-- The offsets of all chunks, rows first. -/
def chunkOffs (lay shape : Nat) : List Int :=
  (List.range (shapeRows shape)).flatMap (fun i => (List.range (chunksOf shape)).map (chunkOff lay i))

/-- The window of a layout word: the workgroup whose scratchpad it reaches, a wait, or the fault. -/
def layoutWindow (s : State) (x : Ctx) (lay : Nat) (low : Int) : Chk :=
  match s.wg x.w with
  | none => .wait
  | some g =>
    let n := bits lay 23 18
    if bit lay 24 then
      checkWin s g n 0 0 (wrapN (0xFF01_0000_0000_0000 + ((n * 2 ^ 18 : Nat) : Int) + low) 64)
    else .scratch x.w 0

/-- The checks of m.ld and m.st at issue: the workgroup of the window. -/
def tileAccess (s : State) (x : Ctx) (k lay : Nat) : Except (Option (Nat × Nat)) Nat :=
  let shape := ((s.wg x.w).map (fun g => g.shape k)).getD 0
  if s.shapePending x.w k then .error none
  else if shape = 0 then .error (some (0x82, 0))
  else if badLayout lay shape then .error (some (0x81, 0))
  else
    let offs := chunkOffs lay shape
    let low := offs.foldl min (chunkOff lay 0 0)
    match layoutWindow s x lay low with
    | .scratch p _ =>
      let size := ((s.wg p).map (·.scrSize)).getD 0
      let bad := offs.filter (fun f => decide (f < 0) || decide ((size : Int) < f + 8))
      (match bad with
      | [] => .ok p
      | f :: fs =>
        let base : Nat := if bit lay 24 then 0xFF01_0000_0000_0000 + bits lay 23 18 * 2 ^ 18 else 0xFF00_0000_0000_0000
        .error (some (0x24, wrapN ((base : Int) + fs.foldl min f) 64)))
    | .fail f a => .error (some (f, a))
    | _ => .error none

/-- Bytes of a workgroup's scratchpad, or the offset of the first that lies in a word with an uncorrectable error (R411). -/
def State.scratchAt (s : State) (w off n : Nat) : Except Nat (List Byte) :=
  match (s.wg w).bind (fun g => g.badIn off n) with
  | some o => .error o
  | none => .ok (s.scratchBytes w off n)

/-- Bytes of all chunks of a workgroup's scratchpad, or none if a word holds an uncorrectable error. -/
def State.chunkBytes (s : State) (w : Nat) (offs : List Int) : Option (List Byte) :=
  offs.foldl (fun a f => a.bind (fun bs => match s.scratchAt w f.toNat 8 with
    | .ok b => some (bs ++ b)
    | .error _ => none)) (some [])

/-- Window address of an offset that a layout reaches (R370). -/
def layoutAddr (lay off : Nat) : Nat :=
  (if bit lay 24 then 0xFF01_0000_0000_0000 + bits lay 23 18 * 2 ^ 18 else 0xFF00_0000_0000_0000) + off

/-- The first chunk of a source that holds an uncorrectable error. -/
def State.badChunk (s : State) (w : Nat) (offs : List Int) : Option Nat :=
  (offs.map Int.toNat).find? (fun f => ((s.wg w).bind (fun g => g.badIn f 8)).isSome)

/-- A source word in error at issue raises 0xE3 precisely (R364, R388, R411). -/
def execMLd (c : Ctl) (o : FX) (s : State) : Out :=
  isa (.mLd c o) c (fun s x =>
    let lay := layoutWord s x o.a
    let offs := chunkOffs lay (((s.wg x.w).map (fun g => g.shape o.mt.val)).getD 0)
    match tileAccess s x o.mt.val lay with
    | .ok p => (match s.badChunk p offs with
      | some f => .trap 0xE3 (layoutAddr lay f) none s
      | none => .adv (s.openTile x.w x.t x.pc (.mld o.mt.val lay p ((s.chunkBytes p offs).getD []))).2)
    | .error none => .wait s
    | .error (some (f, a)) => .trap f a none s) s

/-- A tile register holds an uncorrectable error in a word of its shape (R411). -/
def Workgroup.tileBad (g : Workgroup) (k : Nat) : Bool :=
  (((tget g.tiles k).map (·.bad)).getD []).any (fun b => decide (8 * b < shapeBytes (g.shape k)))

/-- Whether the matrix storage of a workgroup stands as an operation that issues now will find it: none of its operations is before it
in the order (R363). -/
def State.orderClear (s : State) (w : Nat) : Bool := ((s.wg w).map (fun g => g.mq.isEmpty)).getD true

/-- A tile that holds an error at issue raises 0xE3 precisely, where no operation before this one can mend it (R364, R411). -/
def execMSt (c : Ctl) (o : FX) (s : State) : Out :=
  isa (.mSt c o) c (fun s x =>
    let lay := layoutWord s x o.a
    match tileAccess s x o.mt.val lay with
    | .ok p =>
      if s.orderClear x.w && ((s.wg x.w).map (fun g => g.tileBad o.mt.val)).getD false then .trap 0xE3 0 none s
      else .adv (s.openTile x.w x.t x.pc (.mst o.mt.val lay p)).2
    | .error none => .wait s
    | .error (some (f, a)) => .trap f a none s) s

def execMZero (c : Ctl) (o : FX) (s : State) : Out :=
  isa (.mZero c o) c (fun s x =>
    let k := o.mt.val
    if s.shapePending x.w k then .wait s
    else if ((s.wg x.w).map (fun g => g.shape k)).getD 0 = 0 then .trap 0x82 0 none s
    else .adv (s.openTile x.w x.t x.pc (.mzero k)).2) s

/-- Accumulators are cleared and released (R385). -/
def execAccClr (c : Ctl) (o : FX) (s : State) : Out :=
  isa (.accClr c o) c (fun s x => .adv (s.openTile x.w x.t x.pc (.accClr ((s.src x.w x.t o.a).toNat % 256))).2) s

/-- An operation of the order meets an uncorrectable error at its turn: its thread, which has gone on, has a deferred fault
(notes/assumptions/86.md). -/
def State.failTile (s : State) (w id code : Nat) : State :=
  (s.modWg w (fun g => { g with mq := g.mq.filter (· != id) })).opFault id code 0

/-- Claim of an operation for accumulators that its workgroup does not hold (R366). -/
def Workgroup.newAccs (g : Workgroup) (ns : List Nat) : List Nat := ns.filter (fun n => !thas g.accs n)

/-- Accumulators are claimed: zero bits in every entry. -/
def Workgroup.takeAccs (g : Workgroup) (ns : List Nat) : Workgroup :=
  { g with accs := (g.newAccs ns).foldl (fun a n => tset a n {}) g.accs }

/-- The storage that a tile-class operation needs stands on the core (R366, R367). -/
def State.tileStorage (s : State) (g : Workgroup) (id : Nat) (o : Op) (t : TileOp) : Bool × State :=
  let kinds := (if t.tiles.isEmpty then [] else [0]) ++ (if t.accs.isEmpty then [] else [1]) ++
    (if t.recs.isEmpty then [] else [2])
  match s.storage g.core o.wg id o.tid kinds { wg := o.wg, op := id, accs := (g.newAccs t.accs).length } with
  | (true, s) => (true, s.modWg o.wg (fun g => g.takeAccs t.accs))
  | (false, s) => (false, s)

/-- The peer of m.ld or m.st is saved: the access waits for its restore (R117). -/
def State.peerAway (s : State) (w : Nat) : TileOp → Bool
  | .mld _ _ p _ => p != w && (s.wg p).any (fun g => g.resid == .saved)
  | .mst _ _ p => p != w && (s.wg p).any (fun g => g.resid == .saved)
  | _ => false

/-- The effect of m.ld, m.st, m.zero or acc.clr at the head of the order (R371, R372, R385). -/
def moveTile (s : State) (g : Workgroup) (id : Nat) (o : Op) : TileOp → State
  | .mld k lay p old =>
    let offs := chunkOffs lay (g.shape k)
    (match s.chunkBytes p offs with
    | none => s.failTile o.wg id 0xE3
    | some new =>
      let (bs, s) := mixWords s old new offs.length
      (s.modWg o.wg (fun g => g.putTile k bs)).endTile o.wg id)
  | .mst k lay p =>
    if g.tileBad k then s.failTile o.wg id 0xE3 else
    let bs := g.tileBytes k
    let s := (chunkOffs lay (g.shape k)).zipIdx.foldl (fun s e =>
      s.writeAt o.wg o.tid ((bs.drop (8 * e.2)).take 8) (.scratch p e.1.toNat)) s
    s.endTile o.wg id
  | .mzero k => (s.modWg o.wg (fun g => g.putTile k [])).endTile o.wg id
  | .accClr a =>
    let s := s.modWg o.wg (fun g => { g with
      accs := (g.accs.filter (fun (e : Nat × Accum) => !a.testBit (4 + e.1))).map
        (fun (e : Nat × Accum) => if a.testBit e.1 then (e.1, {}) else e) })
    s.endTile o.wg id
  | _ => s

def execTileTransferComplete (wg : Nat) (s : State) : Out :=
  .next (match s.headTile wg, s.wg wg with
    | some (id, o, t), some g =>
      let mine := match t with
        | .mld .. => true
        | .mst .. => true
        | .mzero _ => true
        | .accClr _ => true
        | _ => false
      if !mine || s.peerAway wg t then s
      else match s.tileStorage g id o t with
        | (true, s) => moveTile s ((s.wg wg).getD g) id o t
        | (false, s) => s
    | _, _ => s)

/-! ## Reservation records (R373 to R375) -/

/-- Width of a format's elements and whether it is grouped. -/
def fmtWidth (f : Nat) : Nat := [16, 16, 32, 8, 4, 8, 4].getD f 0
def grouped (f : Nat) : Bool := f == 5 || f == 6

def RsvRec.fmt (r : RsvRec) : Nat := bits r.desc 3 0
/-- Group length of a grouped record. -/
def RsvRec.glen (r : RsvRec) : Nat := 32 * 2 ^ bits r.desc 5 4
/-- Group word at a byte offset of the record. -/
def RsvRec.word (r : RsvRec) (at_ : Nat) : Nat := leNat ((r.bytes.drop at_).take 4)

def badRecord (d : Nat) : Bool :=
  d / 2 ^ 50 != 0 || bits d 15 6 != 0 || bits d 5 4 == 3 || decide (6 < bits d 3 0) || bits d 31 16 % 4 != 0 ||
  bits d 49 32 % 4 != 0 || decide (16384 < bits d 31 16) || (bits d 31 16 != 0 && !grouped (bits d 3 0))

/-- Read a block of the own scratchpad window: its bits, a wait, or the fault (R364). -/
def readBlock (s : State) (x : Ctx) (va n : Nat) : Except (Option (Nat × Nat)) Nat × State :=
  match check s x.w x.ts va n n .load Aper.s false with
  | (.scratch w off, s) =>
    (match s.scratchAt w off n with
    | .ok b => .ok (leNat b)
    | .error o => .error (some (0xE3, va + o)), s)
  | (.fail f a, s) => (.error (some (f, a)), s)
  | (_, s) => (.error none, s)

/-- Read a range of window offsets, or its fault (R26). -/
def readOffsets (s : State) (x : Ctx) (off n : Nat) : Except (Option (Nat × Nat)) (List Byte) :=
  if n = 0 then .ok []
  else if s.rdsFails x.w off n then .error (some (0x24, s.scrPast x.w off))
  else match s.scratchAt x.w off n with
    | .ok b => .ok b
    | .error o => .error (some (0xE3, 0xFF00_0000_0000_0000 + off + o))

/-- What a check answers. -/
def Act.ofError (s : State) : Option (Nat × Nat) → Act
  | none => .wait s
  | some (f, a) => .trap f a none s

def execRsvAlloc (c : Ctl) (o : FX) (s : State) : Out :=
  isa (.rsvAlloc c o) c (fun s x =>
    match readBlock s x (s.src x.w x.t o.a).toNat 8, s.wg x.w with
    | (.error e, s), _ => Act.ofError s e
    | (.ok d, s), some g =>
      let len := bits d 31 16
      if badRecord d then .trap 0x87 0 none s
      else match readOffsets s x (bits d 49 32) len with
        | .error e => Act.ofError s e
        | .ok bs =>
          if 16 ≤ g.rsvs.length || decide (256 < (g.rsvs.map (fun r => unitsOf r.2)).sum + ceilDiv len 256) then
            .trap 0x87 0 none s
          else match s.storage x.core x.w 0 x.t [2] { wg := x.w, tid := x.t, recs := 1, units := ceilDiv len 256 } with
            | (false, s) => .wait s
            | (true, s) =>
              let n := tfree g.rsvs
              .adv ((s.modWg x.w (fun g => { g with rsvs := tset g.rsvs n { desc := d, bytes := bs } })).put x.w x.t o.d (ofN n))
    | (_, s), none => .wait s) s

def execRsvFree (c : Ctl) (o : FX) (s : State) : Out :=
  isa (.rsvFree c o) c (fun s x =>
    let n := (s.src x.w x.t o.a).toNat % 16
    let m := s.markOf x
    if ((s.wg x.w).map (fun g => thas g.rsvs n)).getD false then
      (if s.named x.w m TileOp.recs n then .wait (s.begun x m)
      else .adv (s.modWg x.w (fun g => { g with rsvs := tdel g.rsvs n })))
    else .trap 0x83 0 none s) s

/-! ## The array: checks (R376, R377, R379, R380) -/

/-- Reserved or unused fields of a parameter block that are not zero, and values outside their range. -/
def badParam (outl : Bool) (d : Nat) : Bool :=
  [(255, 173), (159, 146), (127, 112), (63, 44), (15, 13)].any (fun e => bits d e.1 e.2 != 0) ||
  decide (4096 < bits d 172 160) || decide (128 < bits d 31 24) || decide (128 < bits d 23 16) ||
  bits d 145 128 % 8 != 0 || bits d 79 64 % 4 != 0 || bits d 95 80 % 4 != 0 || bits d 111 96 % 4 != 0 ||
  (!bit d 9 && (bits d 8 6 != 0 || bits d 43 40 != 0 || bits d 111 96 != 0 || bits d 23 16 != 0)) ||
  (bits d 172 160 == 0 && bits d 145 128 != 0) || (outl && bits d 2 0 != 0)

/-- Two formats may meet in a mode (R377 step 4). -/
def formatsMeet (outlier : Bool) (a b : RsvRec) : Bool :=
  (a.fmt == b.fmt && (!grouped a.fmt || a.glen == b.glen)) ||
  (outlier && grouped a.fmt && grouped b.fmt && a.glen == b.glen)

/-- A malformed outlier entry for M rows and K columns (R380). -/
def badOutlier (m k e : Nat) : Bool :=
  e / 2 ^ 30 != 0 || decide (k ≤ bits e 29 23) || decide (m ≤ bits e 22 16) || bits e 14 10 == 31

/-- Byte offsets of the group words that a block reads: record and offset (R377 step 6); outl.add reads those of the records
that its entries name, each by its own group length (R222, R379). -/
def groupWords (outl : Bool) (d m k n glen k2 n2 glen2 : Nat) (list : List Nat) : List (Nat × Nat) :=
  let b2 := bit d 9
  let rb := bits d 23 16
  let ng := k / glen
  let all := fun (r base rows : Nat) => (List.range (rows * ng)).map (fun i => (r, base + 4 * i))
  if outl then
    list.flatMap (fun e =>
      let two := b2 && decide (rb ≤ bits e 22 16)
      let gl := if two then glen2 else glen
      (List.range (if two then n2 else n)).map (fun j => (if two then bits d 43 40 else bits d 39 36,
        (if two then bits d 111 96 else bits d 95 80) + 4 * (j * ((if two then k2 else k) / gl) + bits e 29 23 / gl))))
  else
    all (bits d 35 32) (bits d 79 64) m ++ (if !b2 || decide (0 < rb) then all (bits d 39 36) (bits d 95 80) n else []) ++
      (if b2 && decide (rb < m) then all (bits d 43 40) (bits d 111 96) n else [])

/-- What a parameter block works on: M, K, N and the record of B, and those of B2, whose shape outl.add does not compare with
B's (notes/assumptions/36.md). -/
structure Params where
  m : Nat
  k : Nat
  n : Nat
  rb : RsvRec
  k2 : Nat
  n2 : Nat
  rc : RsvRec

/-- Checks 2 to 5 of R377 up to the outlier list; outl.add makes none of those of shapes, widths and formats beyond checks 1 and 3,
and takes M = 128 (R379). -/
def paramChecks (g : Workgroup) (outlier outl : Bool) (d : Nat) : Except Nat Params :=
  let b2 := bit d 9
  let sa := if outl then 128 * 2 ^ 8 else g.shape (bits d 2 0)
  let sb := g.shape (bits d 5 3)
  let sc := g.shape (bits d 8 6)
  if sa == 0 || sb == 0 || (b2 && sc == 0) then .error 0x82
  else if !outl && (shapeCols sa != shapeRows sb || (b2 && sc != sb)) then .error 0x86
  else
    let ra := if outl then some { desc := 0, bytes := [] } else tget g.rsvs (bits d 35 32)
    let rb := tget g.rsvs (bits d 39 36)
    match ra, rb, (if b2 then tget g.rsvs (bits d 43 40) else rb) with
    | some ra, some rb, some rc =>
      if !outl && (shapeEw sa != fmtWidth ra.fmt || shapeEw sb != fmtWidth rb.fmt || shapeEw sb != fmtWidth rc.fmt) then
        .error 0x86
      else if !outl && (!formatsMeet outlier ra rb || !formatsMeet outlier ra rc) then .error 0x84
      else if bits d 172 160 != 0 && (!outlier || !grouped rb.fmt || !grouped rc.fmt) then .error 0x84
      else .ok { m := shapeRows sa, k := shapeRows sb, n := shapeCols sb, rb := rb, k2 := if b2 then shapeRows sc else shapeRows sb,
                  n2 := if b2 then shapeCols sc else shapeCols sb, rc := rc }
    | _, _, _ => .error 0x83

/-- The reservation record of a number. -/
def Workgroup.rsv (g : Workgroup) (n : Nat) : RsvRec := (tget g.rsvs n).getD { desc := 0, bytes := [] }

/-- A group word of a record is not in its operand buffer, or an uncorrectable error lies in it (R411). -/
def RsvRec.spoilt (r : RsvRec) (at_ : Nat) : Bool := r.bad.contains (at_ / 8)

/-- K and the group length of B, and of B2 where a block has one, each where its format is grouped. -/
def Params.groups (p : Params) (d : Nat) : List (Nat × Nat) :=
  (if grouped p.rb.fmt then [(p.k, p.rb.glen)] else []) ++ (if bit d 9 && grouped p.rc.fmt then [(p.k2, p.rc.glen)] else [])

/-- The group words that a block reads. -/
def Params.words (p : Params) (outl : Bool) (d : Nat) (list : List Nat) : List (Nat × Nat) :=
  if grouped p.rb.fmt then groupWords outl d p.m p.k p.n p.rb.glen p.k2 p.n2 p.rc.glen list else []

/-- The checks of the outlier entries and of the groups (R377 steps 5 and 6): 0 for none. -/
def listChecks (g : Workgroup) (outl : Bool) (d : Nat) (p : Params) (list : List Nat) : Nat :=
  if list.any (fun e => badOutlier p.m (if bit d 9 && decide (bits d 23 16 ≤ bits e 22 16) then p.k2 else p.k) e) then 0x89
  else if (p.groups d).any (fun r => r.1 % r.2 != 0 || bits d 31 24 % r.2 != 0) then 0x86
  else
    let ws := p.words outl d list
    if ws.any (fun e => decide ((g.rsv e.1).bytes.length < e.2 + 4)) then 0x86
    else if ws.any (fun e => badGroup (fmtWidth (g.rsv e.1).fmt) ((g.rsv e.1).word e.2)) then 0x85
    else 0

/-- The outlier list of a block, read at issue. -/
def readOutliers (s : State) (x : Ctx) (d : Nat) : Except (Option (Nat × Nat)) (List Nat) :=
  (readOffsets s x (bits d 145 128) (8 * bits d 172 160)).map (fun bs => (dwords bs (bits d 172 160)).map (·.toNat))

/-- Entries of an accumulator that an array operation reads or writes (R378, R379): rows 0 to M - 1, all of its columns. -/
def arrayRegion (g : Workgroup) (outl : Bool) (d n : Nat) : Bool :=
  let two := bit d 9 && decide (bits d 23 16 ≤ n / 128)
  decide (n / 128 < (if outl then 128 else shapeRows (g.shape (bits d 2 0)))) &&
    decide (n % 128 < shapeCols (g.shape (if two then bits d 8 6 else bits d 5 3)))

/-- An array operation reads a word with an uncorrectable error: of a tile, of a group word, or of an entry that it adds to
(R411). -/
def arrayBad (g : Workgroup) (outlier outl : Bool) (d : Nat) (list : List Nat) : Bool :=
  (TileOp.tiles (.mma outl d list)).any g.tileBad ||
  (match paramChecks g outlier outl d with
    | .ok p => (p.words outl d list).any (fun e => (g.rsv e.1).spoilt e.2)
    | .error _ => false) ||
  (!bit d 10 && (((tget g.accs (bits d 12 11)).map (·.bad)).getD []).any (fun n =>
    arrayRegion g outl d n && (!outl || list.any (fun e => bits e 22 16 == n / 128))))

/-- mma and outl.add at issue. -/
def arrayThrough (outl : Bool) (a : Opnd) (s : State) (x : Ctx) : Act :=
  match readBlock s x (s.src x.w x.t a).toNat 32, s.wg x.w with
  | (.error e, s), _ => Act.ofError s e
  | (.ok d, s), some g =>
    let ks := (if outl then [] else [bits d 2 0]) ++ [bits d 5 3] ++ (if bit d 9 then [bits d 8 6] else [])
    if badParam outl d then .trap 0x86 0 none s
    else if ks.any (s.shapePending x.w) then .wait s
    else match paramChecks g (s.eff x.w).outlier outl d with
      | .error f => .trap f 0 none s
      | .ok p => match readOutliers s x d with
        | .error e => Act.ofError s e
        | .ok list => match listChecks g outl d p list with
          | 0 =>
            if s.orderClear x.w && arrayBad g (s.eff x.w).outlier outl d list then .trap 0xE3 0 none s
            else .adv (s.openTile x.w x.t x.pc (.mma outl d list)).2
          | f => .trap f 0 none s
  | (_, s), none => .wait s

def execMma (c : Ctl) (o : FX) (s : State) : Out := isa (.mma c o) c (arrayThrough false o.a) s
def execOutlAdd (c : Ctl) (o : FX) (s : State) : Out := isa (.outlAdd c o) c (arrayThrough true o.a) s

/-! ## The array: effect (R220 to R224, R378, R379) -/

/-- All elements of a value, in row-major order. -/
def elems (bs : List Byte) (shape : Nat) : List Nat :=
  (List.range (shapeRows shape * shapeCols shape)).map (elemOf bs (shapeEw shape))

/-- Rows and columns of a value. -/
def rowsOf (shape : Nat) (l : List Nat) : List (List Nat) :=
  (List.range (shapeRows shape)).map (fun i => (l.drop (i * shapeCols shape)).take (shapeCols shape))
def colsOf (shape : Nat) (l : List Nat) : List (List Nat) :=
  let rs := rowsOf shape l
  (List.range (shapeCols shape)).map (fun j => rs.map (fun r => r.getD j 0))

/-- Add a contribution to an A56 entry (R221). -/
def addA56 (acc : Nat) (x : FP) : Nat := roundF .a56 .rn ((decodeF .a56 acc).add .rn x)

/-- The product of two floating operands as the array forms it (R220). -/
def productOf (fmt a b : Nat) : FP :=
  let f := [Fmt.bf16, Fmt.f16, Fmt.f32].getD fmt .f32
  let p := (decodeF f a).mul (decodeF f b)
  if fmt = 2 then decodeF .a56 (roundF .a56 .rn p) else p

/-- The exact integer of a group (R223). -/
def groupInt (wa wb : Nat) (as bs : List Nat) : Int :=
  (as.zip bs).foldl (fun (x : Int) e =>
    x + ((e.1 : Int) - (bits wa 23 16 : Nat)) * ((e.2 : Int) - (bits wb 23 16 : Nat))) 0

/-- The contribution of a group. -/
def groupTerm (wa wb : Nat) (as bs : List Nat) : FP :=
  ((decodeF .f16 wa).mul (decodeF .f16 wb)).mul (FP.ofInt (groupInt wa wb as bs))

/-- Accumulate the groups of a row and a column. -/
def addGroups (glen : Nat) : List Nat → List Nat → Nat → List Nat → List Nat → Nat
  | wa :: was, wb :: wbs, acc, as, bs =>
    addGroups glen was wbs (addA56 acc (groupTerm wa wb (as.take glen) (bs.take glen))) (as.drop glen) (bs.drop glen)
  | _, _, acc, _, _ => acc

/-- The terms of the outliers of a row, for a column (R224). -/
def addOutliers (rb : RsvRec) (off j i : Nat) (bs : List Nat) (list : List Nat) (acc : Nat) : Nat :=
  list.foldl (fun acc e =>
    if bits e 22 16 = i then
      let k := bits e 29 23
      addA56 acc ((decodeF .f16 e).mul (groupElem (rb.word (off + 4 * (j * (bs.length / rb.glen) + k / rb.glen))) (bs.getD k 0)))
    else acc) acc

/-- One entry of an mma (R378): old bits to new bits and whether the mode is integer. -/
def mmaEntry (d : Nat) (ra rw : RsvRec) (woff i j : Nat) (as bs : List Nat) (list : List Nat) (old : Nat) : Nat × Bool :=
  let z := if bit d 10 then 0 else old
  let plain := fun (f : Nat) => f == 3 || f == 4
  if plain ra.fmt && plain rw.fmt then
    let w := fmtWidth ra.fmt
    (wrapN ((as.zip bs).foldl (fun (x : Int) e => x + signExt e.1 w * signExt e.2 w) (z : Int)) 56, true)
  else
    let acc := if grouped ra.fmt then
        let ng := as.length / ra.glen
        addGroups ra.glen ((List.range ng).map (fun g => ra.word (bits d 79 64 + 4 * (i * ng + g))))
          ((List.range ng).map (fun g => rw.word (woff + 4 * (j * ng + g)))) z as bs
      else (as.zip bs).foldl (fun acc e => addA56 acc (productOf ra.fmt e.1 e.2)) z
    (addOutliers rw woff j i bs list acc, false)

/-- One entry of an outl.add (R379); an entry to which nothing is added keeps its bits. -/
def outlEntry (d : Nat) (rw : RsvRec) (woff i j : Nat) (bs : List Nat) (list : List Nat) (old : Nat × Bool) : Nat × Bool :=
  let z := if bit d 10 then (0, false) else old
  if list.any (fun e => bits e 22 16 == i) then (addOutliers rw woff j i bs list z.1, false) else z

/-- New entries of an accumulator. -/
def arrayEffect (g : Workgroup) (outl : Bool) (d : Nat) (list : List Nat) (a : Accum) : Accum :=
  let recd := g.rsv
  let sa := g.shape (bits d 2 0)
  let cols := fun (k : Nat) => colsOf (g.shape k) (elems (g.tileBytes k) (g.shape k))
  let bs := cols (bits d 5 3)
  let cs := if bit d 9 then cols (bits d 8 6) else bs
  let rows := if outl then List.replicate 128 [] else rowsOf sa (elems (g.tileBytes (bits d 2 0)) sa)
  rows.zipIdx.foldl (fun a r =>
    let i := r.2
    let two := bit d 9 && decide (bits d 23 16 ≤ i)
    let rw := if two then recd (bits d 43 40) else recd (bits d 39 36)
    let woff := if two then bits d 111 96 else bits d 95 80
    (if two then cs else bs).zipIdx.foldl (fun a q =>
      let n := 128 * i + q.2
      let old := ((tget a.entries n).map (fun e => (e.1.toNat, e.2))).getD (0, false)
      let v := if outl then outlEntry d rw woff i q.2 q.1 list old
        else mmaEntry d (recd (bits d 35 32)) rw woff i q.2 r.1 q.1 list old.1
      { a with entries := if v.1 = 0 then tdel a.entries n else tset a.entries n (BitVec.ofNat 56 v.1, v.2)
               bad := if bit d 10 then a.bad.filter (· != n) else a.bad }) a) a

def execMmaComplete (wg : Nat) (s : State) : Out :=
  .next (match s.headTile wg, s.wg wg with
    | some (id, o, .mma outl d list), some g =>
      (match s.tileStorage g id o (.mma outl d list) with
      | (false, s) => s
      | (true, s) =>
        let n := bits d 12 11
        if arrayBad ((s.wg wg).getD g) (s.eff wg).outlier outl d list then s.failTile wg id 0xE3
        else (s.modWg wg (fun g => { g with
          mdone := (g.mdone + 1) % 2 ^ 24
          accs := tset g.accs n (arrayEffect g outl d list ((tget g.accs n).getD {})) })).endTile wg id)
    | _, _ => s)

/-! ## Polling (R381) -/

/-- The status word of mma.q. -/
def mmaStatus (s : State) (w : Nat) : Word :=
  match s.wg w with
  | none => 0
  | some g =>
    let pend := (s.ops.filter (fun e => e.2.wg == w && e.2.cls == some .tl && !e.2.done)).length
    let busy := mkBits 4 (fun n => (s.tileOps w s.nextId).any (fun t => t.accs.contains n))
    ofN (min pend 255 * 2 ^ 56 + busy * 2 ^ 52 + g.edone * 2 ^ 24 + g.mdone)

def execMmaQ (c : Ctl) (o : FX) (s : State) : Out :=
  isa (.mmaQ c o) c (fun s x =>
    let v := mmaStatus s x.w
    let (id, s) := s.newOp { wg := x.w, tid := x.t, core := x.core, cls := some .tl, pc := x.pc, kind := .local [] }
    .adv ((s.finish id []).put x.w x.t o.d v)) s

/-! ## Scaling rings (R225, R384) -/

/-- A request to the slice of a scaling ring: a push, or none, and a read (R225). -/
def State.askRing (s : State) (src : Src) (p n : Nat) (v : Option Nat) (id : Nat) : State :=
  let (r, s) := s.send { src := src, dst := s.homeOfSlot p n, part := p, kind := .atomic (.ring n v), ph := ringPlace n, n := 0, va := 0,
                         op := some id }
  s.setPieces id [{ va := 0, n := 0, loc := .net r }]

def execAmaxRd (c : Ctl) (o : FX) (s : State) : Out :=
  isa (.amaxRd c o) c (fun s x =>
    let n := (s.src x.w x.t o.a).toNat % 64
    let v := if bit o.xsub.toNat 0 then some ((s.src x.w x.t o.b).toNat % 2 ^ 31) else none
    let (id, s) := s.openOp x (.amaxRd c o) .ring o.d
    .wait ((s.askRing (.core x.core) (s.partOf x.w) n v id).holdFor x id)) s

/-- The first request of a partition's rings whose turn it is at its slice is performed (R225). -/
def execScalingRingPush (part : Nat) (s : State) : Out :=
  .next (s.pkts.foldl (fun (s : State) e => s.serveAt e.1 (fun r => r.part == part && (match r.kind with
    | .atomic (.ring ..) => true
    | _ => false))) s)

/-! ## The epilogue engine (R382, R383) -/

/-- Output width of OFMT. -/
def epiWidth (d : Nat) : Nat := [32, 16, 16, 8, 4, 32].getD (bits d 7 4) 32
def epiRows (d : Nat) : Nat := bits d 31 24
def epiCols (d : Nat) : Nat := bits d 39 32
/-- Output is quantised. -/
def epiQuant (d : Nat) : Bool := bits d 7 4 == 3 || bits d 7 4 == 4
/-- Bytes of an output row. -/
def epiRowBytes (d : Nat) : Nat := epiCols d * epiWidth d / 8
/-- Shape word of the output. -/
def epiShape (d : Nat) : Nat :=
  [3, 2, 2, 1, 0, 3].getD (bits d 7 4) 3 * 2 ^ 16 + epiRows d * 2 ^ 8 + epiCols d

/-- A malformed epilogue block (R382); named says that the word names a cell. -/
def badEpi (d : Nat) (named : Bool) : Bool :=
  let dest := bit d 3
  [(255, 180), (159, 146), (127, 114), (95, 82), (63, 58), (23, 22)].any (fun e => bits d e.1 e.2 != 0) ||
  decide (5 < bits d 7 4) || decide (6 < bits d 11 8) || bits d 13 12 == 3 || epiRows d == 0 || decide (128 < epiRows d) ||
  epiCols d == 0 || decide (128 < epiCols d) || bits d 179 160 % 8 != 0 || bits d 57 40 % 8 != 0 || bits d 145 128 % 4 != 0 ||
  (!epiQuant d && bits d 145 128 != 0) || (!bit d 14 && bits d 113 96 != 0) || (bits d 13 12 == 0 && bits d 81 64 != 0) ||
  (dest && bits d 57 40 != 0) || epiCols d * epiWidth d % 8 != 0 ||
  (!dest && (decide (bits d 179 160 < epiRowBytes d) || named))

/-- Every byte that the output and the group word go to lies in the allocation: the fault of the lowest that does not. -/
def epiOut (s : State) (w d : Nat) : Option (Nat × Nat) :=
  let rows := if bit d 3 then [] else (List.range (epiRows d)).map (fun i => (bits d 57 40 + i * bits d 179 160, epiRowBytes d))
  let gw := if epiQuant d then [(bits d 145 128, 4)] else []
  match (gw.find? (fun e => s.rdsFails w e.1 e.2)), rows.find? (fun e => s.rdsFails w e.1 e.2) with
  | some e, some f => some (0x24, s.scrPast w (min e.1 f.1))
  | some e, none => some (0x24, s.scrPast w e.1)
  | none, some f => some (0x24, s.scrPast w f.1)
  | none, none => none

/-- 32-bit words of a list of bytes. -/
def words32 : Nat → List Byte → List Nat
  | 0, _ => []
  | n + 1, bs => leNat (bs.take 4) :: words32 n (bs.drop 4)

/-- An epi into a cell (R382, R107, R118). -/
def epiCell (s : State) (x : Ctx) (o : FX) (d : Nat) (t : Option (Nat × Nat) → TileOp) : Act :=
  match s.member x.w with
  | none => .trap 0x60 0 none s
  | some dir =>
    let n := cellOf s x o
    if !shapeOk (epiShape d) then .trap 0x65 0 none s
    else
      let (id, s') := s.openTile x.w x.t x.pc (t (some (dir, n)))
      match (s.cell dir n).st with
      | .defined => .trap 0x61 0 none s
      | .draining => .wait (s'.parkCell x dir n false (t (some (dir, n))) (epiShape d) (some id))
      | .free => match s'.define dir n x.w (epiShape d) id with
        | some s => .adv s
        | none => .trap 0x66 0 none s

def execEpi (c : Ctl) (o : FX) (s : State) : Out :=
  isa (.epi c o) c (fun s x =>
    match readBlock s x (s.src x.w x.t o.a).toNat 32 with
    | (.error e, s) => Act.ofError s e
    | (.ok d, s) =>
      let n := epiCols d
      let ns := if bits d 13 12 = 2 then n else bits d 13 12
      if badEpi d (o.num.toNat != 0 || bit o.xsub.toNat 0) then .trap 0x88 0 none s
      else match readOffsets s x (bits d 81 64) (4 * ns), readOffsets s x (bits d 113 96) (if bit d 14 then 4 * n else 0),
          epiOut s x.w d with
        | .error e, _, _ => Act.ofError s e
        | _, .error e, _ => Act.ofError s e
        | _, _, some e => Act.ofError s (some e)
        | .ok sb, .ok bb, none =>
          let m0 := if epiQuant d then ringMax (s.ring (s.partOf x.w) (bits d 21 16)) else 0
          let t := TileOp.epi d (words32 ns sb) (words32 (bb.length / 4) bb) m0
          if bit d 3 then epiCell s x o d t else .adv (s.openTile x.w x.t x.pc (t none)).2) s

/-- A value of the epilogue: an exact integer or FP32 bits. -/
inductive EpiVal where
  | int (x : Int)
  | flt (b : Nat)

def EpiVal.exact : EpiVal → FP
  | .int x => FP.ofInt x
  | .flt b => decodeF .f32 b

/-- t of R383 for an entry in column j. -/
def epiScaled (d : Nat) (scale bias : List Nat) (j : Nat) (e : Nat × Bool) : EpiVal :=
  let x : FP := if e.2 then FP.ofInt (signExt e.1 56) else decodeF .a56 e.1
  if e.2 && bits d 13 12 == 0 && !bit d 14 then .int (signExt e.1 56)
  else
    let sj := if bits d 13 12 = 0 then FP.fin false 1 0 else decodeF .f32 (scale.getD (if bits d 13 12 = 2 then j else 0) 0)
    let bj := if bit d 14 then decodeF .f32 (bias.getD j 0) else .fin false 0 0
    .flt (roundF .f32 .rn ((x.mul sj).add .rn bj))

/-- Act(t) of R383. -/
def epiAct (act : Nat) (t : EpiVal) : EpiVal :=
  match act, t with
  | 0, t => t
  | 1, .int x => .int (max x 0)
  | 1, .flt b =>
    let v := decodeF .f32 b
    if v.isNan || FP.lt (.fin false 0 0) v then .flt b else .flt 0
  | n, t => .flt (activate n (match t with
      | .int x => 2 ^ 32 + wrapN x 56
      | .flt b => b) t.exact)

/-- Convert of R383. -/
def epiConvert (d m0 : Nat) (a : EpiVal) : Nat :=
  match bits d 7 4 with
  | 0 => roundF .f32 .rn a.exact
  | 1 => roundF .bf16 .rn a.exact
  | 2 => roundF .f16 .rn a.exact
  | 3 => quantise 8 (quantScale 8 m0) a.exact
  | 4 => quantise 4 (quantScale 4 m0) a.exact
  | _ => match a with
    | .int x => wrapN (satS 32 x) 32
    | .flt b => wrapN (fToInt .f32 .rz .s32 b) 32

/-- |a| as it enters the maximum (R225, R383). -/
def epiMag (a : EpiVal) : Nat := min (roundF .f32 .rn a.exact % 2 ^ 31) 0x7F80_0000

/-- Rows of values a of the region. -/
def epiRegion (acc : Accum) (d : Nat) (scale bias : List Nat) : List (List EpiVal) :=
  (List.range (epiRows d)).map (fun i => (List.range (epiCols d)).map (fun j =>
    epiAct (bits d 11 8) (epiScaled d scale bias j (((tget acc.entries (128 * i + j)).map (fun e => (e.1.toNat, e.2))).getD (0, false)))))

/-- Bytes of the output rows. -/
def epiBytes (d m0 : Nat) (a : List (List EpiVal)) : List (List Byte) :=
  a.map (fun r => leBytes (epiRowBytes d) (packElems (epiWidth d) (r.map (epiConvert d m0))))

/-- The group word of a quantised output (R222, R226). -/
def epiGroup (d m0 : Nat) : Nat := if bits d 7 4 = 3 then 128 * 2 ^ 16 + quantScale 8 m0 else 8 * 2 ^ 16 + quantScale 4 m0

/-- The entries of the region take zero bits. -/
def Accum.clearRegion (a : Accum) (rows cols : Nat) : Accum :=
  { entries := a.entries.filter (fun e => !(decide (e.1 / 128 < rows) && decide (e.1 % 128 < cols)))
    bad := a.bad.filter (fun n => !(decide (n / 128 < rows) && decide (n % 128 < cols))) }

/-- An entry of the region holds an uncorrectable error (R411). -/
def Accum.badRegion (a : Accum) (rows cols : Nat) : Bool :=
  a.bad.any (fun n => decide (n / 128 < rows) && decide (n % 128 < cols))

/-- An epilogue that met an uncorrectable error: its cell's value is spoilt, its thread gets 0xE3 (R411). -/
def epiFails (s : State) (id : Nat) (o : Op) (cell : Option (Nat × Nat)) : State :=
  (match cell with
  | some (dir, c) => s.modCell dir c (fun y => if y.pend == some id then { y with pend := none, bad := true } else y)
  | none => s).failTile o.wg id 0xE3

/-- The effect of an epilogue (R383). -/
def epiEffect (s : State) (g : Workgroup) (id : Nat) (o : Op) (d : Nat) (scale bias : List Nat) (m0 : Nat)
    (cell : Option (Nat × Nat)) : State :=
  let n := bits d 1 0
  let acc := (tget g.accs n).getD {}
  let a := epiRegion acc d scale bias
  let out := epiBytes d m0 a
  let s := match cell with
    | some (dir, c) => s.modCell dir c (fun y => if y.pend == some id then { y with value := out.flatten, pend := none } else y)
    | none => out.zipIdx.foldl (fun (s : State) (r : List Byte × Nat) => s.writeAt o.wg o.tid r.1 (.scratch o.wg (bits d 57 40 + r.2 * bits d 179 160))) s
  let s := if epiQuant d then s.writeAt o.wg o.tid (leBytes 4 (epiGroup d m0)) (.scratch o.wg (bits d 145 128)) else s
  let s := if bit d 2 then s.modWg o.wg (fun g => { g with accs := tmod g.accs n (fun a => a.clearRegion (epiRows d) (epiCols d)) })
    else s
  if bit d 15 then
    s.askRing (.engine g.core) g.part (bits d 21 16) (some (a.flatten.foldl (fun m v => max m (epiMag v)) 0)) id
  else (s.modWg o.wg (fun g => { g with edone := (g.edone + 1) % 2 ^ 24 })).endTile o.wg id

/-- The epilogue at the head of the order; one whose push is on its way has had its effect, and one whose definition is not
admitted waits. -/
def execEpiComplete (wg : Nat) (s : State) : Out :=
  .next (match s.headTile wg with
    | some (id, o, .epi d scale bias m0 cell) =>
      let parked := match cell with
        | some (dir, c) => (s.cell dir c).definers.any (fun x => x.id == some id)
        | none => false
      (match s.wg wg with
      | none => s
      | some g =>
        if parked || !o.pieces.isEmpty then s
        else match s.tileStorage g id o (.epi d scale bias m0 cell) with
          | (false, s) => s
          | (true, s) =>
            if (((tget g.accs (bits d 1 0)).map (fun a => a.badRegion (epiRows d) (epiCols d)))).getD false then epiFails s id o cell
            else epiEffect s ((s.wg wg).getD g) id o d scale bias m0 cell)
    | _ => s)

end Sys2Proof.Machine
end

