-- ==== Sys2Proof/Machine/Engine.lean ====
section
/-!
DEFINITION. Engine commands, their units and completion bitmaps (spec/12_isa_memory.md R317 to R329, R335;
spec/06_ordering.md R133, R134; spec/08_scheduling.md R194).
-/

namespace Sys2Proof.Machine

/-! ## Descriptors (R322, R324, R326, R328); OPK of R320: 0 tensor, 1 gather, 2 scatter, 3 multicast, 4 fill -/

/-- Bytes of a descriptor, and what its address must be a multiple of. -/
def descSize (opk : Nat) : Nat := if opk = 1 || opk = 2 then 64 else if opk = 4 then 32 else 256
def descAlign (opk : Nat) : Nat := if opk = 4 then 32 else 64

/-- Extent and strides of a dimension of a tensor descriptor. -/
def dimOf (d k : Nat) : Nat × Int × Int :=
  let r := bits d (383 + 128 * k) (256 + 128 * k)
  (bits r 31 0, signExt (bits r 79 32) 48, signExt (bits r 127 80) 48)

def dimsOf (d : Nat) : List (Nat × Int × Int) := (List.range (bits d 131 128)).map (dimOf d)

/-- A multiple of n. -/
def multOf (x : Int) (n : Nat) : Bool := x % (n : Int) == 0

/-- A malformed descriptor (0xA0). -/
def badDesc (opk d : Nat) : Bool :=
  if opk = 1 || opk = 2 then
    bits d 511 355 != 0 || bit d 353 || bits d 255 224 % 8 != 0 || decide (bits d 255 224 < 8) ||
    decide (2 ^ 20 < bits d 255 224) || decide (4096 < bits d 223 192) || bits d 63 0 % 8 != 0 || bits d 127 64 % 8 != 0 ||
    bits d 191 128 % 8 != 0 || !multOf (signExt (bits d 351 304) 48) 8 || !multOf (signExt (bits d 303 256) 48) 8
  else if opk = 4 then
    bits d 255 192 != 0 || bits d 127 64 % 8 != 0 || decide (2 ^ 40 < bits d 127 64) || bits d 63 0 % 8 != 0
  else
    let n := bits d 131 128
    let e := 2 ^ bits d 134 132
    bits d 255 135 != 0 || bits d 134 132 == 7 || n == 0 || n == 15 || d / 2 ^ (256 + 128 * n) != 0 ||
    bits d 63 0 % e != 0 || bits d 127 64 % e != 0 || (dimsOf d).any (fun m => !multOf m.2.1 e || !multOf m.2.2 e) ||
    (opk == 3 && (match place (bits d 127 64) with
      | .scr _ => false
      | _ => true))

/-- Elements of a tensor, multicast or fill; rows of the others. -/
def descCount (opk d : Nat) : Nat :=
  if opk = 1 || opk = 2 then bits d 223 192
  else if opk = 4 then bits d 127 64 / 8
  else (dimsOf d).foldl (fun n m => n * m.1) 1

/-- Elements of a unit (R323). -/
def perUnit (opk d : Nat) : Nat := if opk = 1 || opk = 2 then 1 else ceilDiv (descCount opk d) 4096

/-- UNITS of a command. -/
def descUnits (opk d : Nat) : Nat :=
  let n := descCount opk d
  if n = 0 then 0 else ceilDiv n (perUnit opk d)

/-- Bytes of an element or row. -/
def elemBytes (opk d : Nat) : Nat :=
  if opk = 1 || opk = 2 then bits d 255 224 else if opk = 4 then 8 else 2 ^ bits d 134 132

/-- Elements from first to last, the last excluded, of unit u. -/
def unitRange (opk d u : Nat) : Nat × Nat :=
  let l := perUnit opk d
  (u * l, min ((u + 1) * l) (descCount opk d))

/-- Destination base: DST, LBASE or TBASE. -/
def destBase (opk d : Nat) : Nat := if opk = 2 || opk = 4 then bits d 63 0 else bits d 127 64

/-- Bytes that a unit is directed to write into the issuer's own scratchpad. -/
def unitCharge (opk d u : Nat) : Nat :=
  match place (destBase opk d) with
  | .scr _ => let r := unitRange opk d u; (r.2 - r.1) * elemBytes opk d
  | _ => 0

/-- The charge of the units whose bits are clear: of all of them at issue. -/
def unitsCharge (opk d marked : Nat) : Nat :=
  ((List.range (descUnits opk d)).map (fun u => if marked.testBit u then 0 else unitCharge opk d u)).sum

/-- Source and destination of element e of a tensor (R323): dimension 0 is fastest. -/
def tensorAddr : List (Nat × Int × Int) → Nat → Int → Int → Nat × Nat
  | [], _, s, t => (wrapN s 64, wrapN t 64)
  | (n, ss, ds) :: r, e, s, t =>
    tensorAddr r (e / n) (s + ((e % n : Nat) : Int) * ss) (t + ((e % n : Nat) : Int) * ds)

/-! ## Barriers (R134) -/

def txMax : Int := 2 ^ 47

/-- Bytes written lower TX, one by one: the barrier opens as TX passes through 0 with every arrival in; a subtraction out of
range leaves −2^47 and reports it. -/
def State.lowerTx (s : State) (w m n : Nat) : State × Bool :=
  match (s.wg w).bind (fun g => tget g.bars m) with
  | none => (s, false)
  | some b =>
    let put := fun (s : State) (x : Int) => s.modWg w (fun g => { g with bars := tmod g.bars m (fun b => { b with tx := x }) })
    let s := if b.arr == b.exp && decide (0 < b.tx) && decide (b.tx ≤ (n : Int)) then (put s 0).openBarrier w m else s
    let tx := b.tx - (n : Int)
    if tx < -txMax then (put s (-txMax), true) else (put s tx, false)

/-- Change TX by a charge or its removal in one step. -/
def State.addTx (s : State) (w m : Nat) (n : Int) : State :=
  (s.modWg w (fun g => { g with bars := tmod g.bars m (fun b => { b with tx := b.tx + n }) })).settleBarrier w m

/-- The barrier that NUM names (R317): an error when it is not initialised. -/
def namedBarrier (s : State) (w : Nat) (o : FX) : Except Nat (Option (Nat × Barrier)) :=
  if !bit o.num.toNat 11 then .ok none
  else match s.barrier w (bits o.num.toNat 10 0) with
    | some (some b) => .ok (some (bits o.num.toNat 10 0, b))
    | _ => .error 0xC8

/-! ## Bitmaps (R320, R321) -/

def State.bitmap (s : State) (w c : Nat) : Bitmap := ((s.wg w).bind (fun g => tget g.bitmaps c)).getD {}
def State.modBitmap (s : State) (w c : Nat) (f : Bitmap → Bitmap) : State :=
  s.modWg w (fun g => { g with bitmaps := tset g.bitmaps c (f ((tget g.bitmaps c).getD {})) })

/-- The status word. -/
def Bitmap.status (b : Bitmap) : Word :=
  ofN (b.st * 2 ^ 60 + b.code * 2 ^ 52 + b.funit * 2 ^ 40 + b.opk * 2 ^ 37 + popN b.units b.bits * 2 ^ 13 + b.units)

def execCbRd (c : Ctl) (o : F3) (s : State) : Out :=
  isa (.cbRd c o) c (fun s x =>
    let b := s.bitmap x.w (o.sub.toNat % 8)
    let j := (s.src x.w x.t o.a).toNat % 128
    .adv (s.put x.w x.t o.d (if j < 64 then ofN (b.bits / 2 ^ (64 * j)) else if j = 64 then b.status else 0))) s

/-! ## Commands (R318, R326, R335) -/

/-- Windows of a multicast, ascending: the receivers, or the fault. -/
def receivers (g : Workgroup) : List Nat → Except Nat (List (Option Nat × Nat))
  | [] => .ok []
  | k :: ks => match tget g.windows k with
    | none => .error 0x26
    | some h => if h.revoked then .error 0x27 else (receivers g ks).map (fun l => (some k, h.peer) :: l)

/-- The receivers, each workgroup once. -/
def distinctRecv : List (Option Nat × Nat) → List (Option Nat × Nat) → List (Option Nat × Nat)
  | acc, [] => acc
  | acc, r :: rs => distinctRecv (if acc.any (fun a => a.2 == r.2) then acc else acc ++ [r]) rs

/-- A descriptor in a scratchpad allocation, checked as a whole (R26). -/
def descLocal (s : State) (x : Ctx) (va n : Nat) : Except (Nat × Nat) (List Byte) × State :=
  match check s x.w x.ts va n 1 .load Aper.ls false with
  | (.fail f a, s) => (.error (f, a), s)
  | (.scratch w off, s) => (match s.scratchAt w off n with
    | .ok b => (.ok b, s)
    | .error o => (.error (0xE3, va + o), s))
  | (_, s) => (.error (0, 0), s)

/-- A descriptor in global memory, line by line. -/
def descGlobal (s : State) (x : Ctx) (va n : Nat) : Except (Nat × Nat) (List Byte) × State :=
  (lineParts (n / 64 + 2) va n).foldl (fun acc p =>
    match acc with
    | (.error e, s) => (.error e, s)
    | (.ok bs, s) =>
      match check s x.w x.ts p.1 p.2 1 .load Aper.ls false with
      | (.wait, s) => (.error (0, 0), s)
      | (.fail f a, s) => (.error (f, a), s)
      | (.scratch _ _, s) => (.error (0, 0), s)
      | (.glob g ph, s) => match readThroughL1 s x g p.2 ph with
        | (.ok b, s) => (.ok (bs ++ b), if p.1 + p.2 = va + n then s.readAhead x g ph else s)
        | (.error (0, _), s) => (.error (0, 0), s)
        | (.error (f, o), s) => (.error (f, g + o), s)) (.ok [], s)

/-- A descriptor, read as a load on the load-store path reads (R25, R26, R45, R318): its bytes, or its fault; code 0 waits. -/
def readDesc (s : State) (x : Ctx) (va n : Nat) : Except (Nat × Nat) (List Byte) × State :=
  match place va with
  | .glob _ => descGlobal s x va n
  | _ => descLocal s x va n

/-- A barrier cannot take a charge: TX would leave its range (R134). -/
def State.overCharged (s : State) (w : Nat) (bar : Option Nat) (n : Nat) : Bool :=
  match (bar.bind (fun m => (s.wg w).bind (fun g => tget g.bars m))) with
  | some b => decide (txMax - 1 < b.tx + (n : Int))
  | none => false

/-- Steps 1 to 5 of R318: the descriptor, the barrier and the receivers, or the fault; code 0 waits. -/
def engineChecks (opk : Nat) (o : FX) (s : State) (x : Ctx) :
    Except (Nat × Nat) (List Byte × Option Nat × List (Option Nat × Nat)) × State :=
  let va := (s.src x.w x.t o.a).toNat
  if va % descAlign opk != 0 then (.error (0x2D, va), s)
  else match readDesc s x va (descSize opk), s.wg x.w with
    | (.error e, s), _ => (.error e, s)
    | (_, s), none => (.error (0, 0), s)
    | (.ok bs, s), some g =>
      let d := leNat bs
      if badDesc opk d then (.error (0xA0, 0), s)
      else match namedBarrier s x.w o with
        | .error f => (.error (f, 0), s)
        | .ok bar =>
          if (match bar with
            | some (_, b) => decide (txMax - 1 < b.tx + (unitsCharge opk d 0 : Int))
            | none => false) then (.error (0xC7, 0), s)
          else match (if opk = 3 then receivers g (setBits 64 (s.src x.w x.t o.b).toNat) else .ok []) with
            | .error f => (.error (f, 0), s)
            | .ok rs => (.ok (bs, bar.map (·.1), if opk = 3 then distinctRecv [(none, x.w)] rs else []), s)

/-- Steps 6 and 7 of R318: the thread waits while cbN holds a command that is running or held; then the record is written, the
charge is added, within its range, and the command is counted (R134). -/
def engineIssue (i : Instr) (opk : Nat) (o : FX) (s : State) (x : Ctx) (bs : List Byte) (bar : Option Nat)
    (recv : List (Option Nat × Nat)) : Act :=
  let c := o.cb.val
  let st := (s.bitmap x.w c).st
  if st == 1 || st == 5 then
    .wait ((s.modThread x.w x.t (fun th => { th with hold := some (.command bs bar recv) })).dropStage (.thread x.w x.t))
  else if s.overCharged x.w bar (unitsCharge opk (leNat bs) 0) then
    .trap 0xC7 0 none (s.modThread x.w x.t (fun th => { th with hold := none }))
  else
    let d := leNat bs
    let (id, s) := s.openOp x i (.engine c) .vz
    let guard := if bit o.xsub.toNat 13 then some (bits o.xsub.toNat 11 0) else none
    let b : Bitmap := {
      st := if guard.isSome then 5 else 1, opk := opk, units := descUnits opk d, desc := bs, barrier := bar, guard := guard
      recv := recv, tid := x.t, pc := x.pc, op := id, hint := x.hint }
    let s := (s.modBitmap x.w c (fun _ => b)).modWg x.w (fun g => { g with eq := g.eq ++ [id] })
    .adv (match bar with
      | some m => s.addTx x.w m (unitsCharge opk d 0 : Int)
      | none => s)

/-- An engine command (R318). One that waits in step 6 keeps what steps 1 to 5 found. -/
def engineThrough (i : Instr) (opk : Nat) (o : FX) (s : State) (x : Ctx) : Act :=
  Act.after (.thread x.w x.t) <| match (s.thread x.w x.t).bind (·.hold) with
    | some (.command bs bar recv) => engineIssue i opk o s x bs bar recv
    | _ => match engineChecks opk o s x with
      | (.error (0, _), s) => .wait s
      | (.error (f, a), s) => .trap f a none s
      | (.ok (bs, bar, recv), s) => engineIssue i opk o s x bs bar recv

def execCpTensor (c : Ctl) (o : FX) (s : State) : Out := isa (.cpTensor c o) c (engineThrough (.cpTensor c o) 0 o) s
def execCpGather (c : Ctl) (o : FX) (s : State) : Out := isa (.cpGather c o) c (engineThrough (.cpGather c o) 1 o) s
def execCpScatter (c : Ctl) (o : FX) (s : State) : Out := isa (.cpScatter c o) c (engineThrough (.cpScatter c o) 2 o) s
def execCpMcast (c : Ctl) (o : FX) (s : State) : Out := isa (.cpMcast c o) c (engineThrough (.cpMcast c o) 3 o) s
def execCpFill (c : Ctl) (o : FX) (s : State) : Out := isa (.cpFill c o) c (engineThrough (.cpFill c o) 4 o) s

/-! ## Resuming (R329) -/

/-- The bytes still owed move from the original barrier to another. -/
def moveCharge (s : State) (w c : Nat) (m : Option Nat) : Except Nat State :=
  let b := s.bitmap w c
  match m with
  | none => .ok s
  | some m =>
    if b.barrier == some m then .ok s
    else
      let owed : Int := unitsCharge b.opk (leNat b.desc) b.bits
      let tx := fun (k : Nat) => (((s.wg w).bind (fun g => tget g.bars k)).map (·.tx)).getD 0
      if txMax - 1 < tx m + owed || (b.barrier.map (fun k => decide (tx k - owed < -txMax))).getD false then .error 0xC7
      else
        let s := match b.barrier with
          | some k => s.addTx w k (-owed)
          | none => s
        .ok ((s.addTx w m owed).modBitmap w c (fun b => { b with barrier := some m }))

/-- Units whose bit is clear run again. -/
def State.rerun (s : State) (w t c pc : Nat) : State :=
  let (id, s) := s.newOp { wg := w, tid := t, core := ((s.wg w).map (·.core)).getD 0, cls := some .cp, pc := pc, kind := .engine c, hint := (s.bitmap w c).hint }
  (s.modBitmap w c (fun b => { b with st := 1, code := 0, funit := 0, failed := 0, guard := none, op := id, started := false })).modWg w
    (fun g => { g with eq := g.eq ++ [id] })

/-- ACTION 0 of an engine record acts as cp.resume by the issuing thread (R394). -/
def State.resumeEngine (s : State) (w c : Nat) : State :=
  let b := s.bitmap w c
  if b.st = 3 then s.rerun w b.tid c b.pc else s

def execCpResume (c : Ctl) (o : FX) (s : State) : Out :=
  isa (.cpResume c o) c (fun s x =>
    let n := o.cb.val
    let st := (s.bitmap x.w n).st
    if st = 0 then .trap 0xA1 0 none s
    else match namedBarrier s x.w o with
      | .error f => .trap f 0 none s
      | .ok m =>
        if st = 1 || st = 5 then .wait s
        else if st = 3 then
          (match moveCharge s x.w n (m.map (·.1)) with
          | .error f => .trap f 0 none s
          | .ok s => .adv (s.rerun x.w x.t n x.pc))
        else
          let (id, s) := s.openOp x (.cpResume c o) (.local []) .vz
          .adv (s.finish id [])) s

/-! ## The front end (R194, R318) -/

/-- A command completes. -/
def State.endCommand (s : State) (w c st : Nat) : State :=
  let b := s.bitmap w c
  (s.modBitmap w c (fun b => { b with st := st })).finish b.op []

/-- Every unit is marked or has faulted: the command completes (R319). -/
def State.checkCommand (s : State) (w c : Nat) : State :=
  let b := s.bitmap w c
  if b.st == 1 && b.started && (List.range b.units).all (fun u => b.bits.testBit u || b.failed.testBit u) then
    s.endCommand w c (if b.code = 0 then 2 else 3)
  else s

/-- The command at the head starts, is discarded, or holds itself and those behind it. -/
def execEngineCommandDispatch (wg : Nat) (s : State) : Out :=
  .next (match s.wg wg with
    | none => s
    | some g =>
      match g.eq with
      | [] => s
      | id :: rest =>
        match tget s.ops id with
        | none => s.modWg wg (fun g => { g with eq := rest })
        | some o =>
          match o.kind with
          | .engine c =>
            let b := s.bitmap wg c
            let pop := fun (s : State) => s.modWg wg (fun g => { g with eq := rest })
            let start := fun (s : State) => ((pop s).modBitmap wg c (fun b => { b with st := 1, started := true })).checkCommand wg c
            if g.resid == .saved && b.opk != 3 && !g.torn then s
            else (match b.guard with
              | none => start s
              | some k => match tget (s.part g.part).guards k with
                | none => s
                | some true => start s
                | some false =>
                  let s := (pop s).endCommand wg c 4
                  match b.barrier with
                  | some m => s.addTx wg m (-(unitsCharge b.opk (leNat b.desc) 0 : Int))
                  | none => s)
          | _ => s.modWg wg (fun g => { g with eq := rest }))

/-! ## Units (R319, R323, R325, R327) -/

/-- One element: source address or pattern, destination, bytes. -/
structure Move where
  src : Except (List Byte) Nat
  dst : Nat
  n : Nat

/-- The elements of a unit of a tensor, multicast or fill. -/
def unitMoves (opk d u : Nat) : List Move :=
  let r := unitRange opk d u
  (List.range (r.2 - r.1)).map (fun i =>
    let e := r.1 + i
    if opk = 4 then { src := .error (leBytes 8 (bits d 191 128)), dst := (bits d 63 0 + 8 * e) % 2 ^ 64, n := 8 }
    else
      let a := tensorAddr (dimsOf d) e (bits d 63 0 : Nat) (bits d 127 64 : Nat)
      { src := .ok a.1, dst := a.2, n := 2 ^ bits d 134 132 })

/-- The 8-byte words of a row from an address to another. -/
def rowMoves (src dst n : Nat) : List Move :=
  (List.range (n / 8)).map (fun i => { src := .ok ((src + 8 * i) % 2 ^ 64), dst := (dst + 8 * i) % 2 ^ 64, n := 8 })

/-- What a unit moves: none for a skipped row; or the fault of its index; code 0 waits. -/
def movesOf (s : State) (w opk d u : Nat) : Except (Nat × Nat) (Option (List Move)) × State :=
  if opk = 1 || opk = 2 then
    let isz := if bit d 352 then 8 else 4
    let ia := (bits d 191 128 + u * isz) % 2 ^ 64
    match readRange s w ia isz Aper.ls with
    | (.error e, s) => (.error e, s)
    | (.ok b, s) =>
      let idx := leNat b
      if bit d 354 && idx == 2 ^ (8 * isz) - 1 then (.ok none, s)
      else
        let t := wrapN ((bits d 63 0 : Nat) + (idx : Int) * signExt (bits d 303 256) 48) 64
        let l := wrapN ((bits d 127 64 : Nat) + (u : Int) * signExt (bits d 351 304) 48) 64
        (.ok (some (if opk = 1 then rowMoves t l (bits d 255 224) else rowMoves l t (bits d 255 224))), s)
  else (.ok (some (unitMoves opk d u)), s)

/-- The places of a multicast element at its receivers: workgroup and offset, or the fault there (R326). -/
def recvPlace (s : State) (g : Workgroup) (r : Option Nat × Nat) (off n va : Nat) : Except (Nat × Nat) Chk :=
  let gone : Bool := match r.1 with
    | some k => (tget g.windows k).any (fun h => h.peer == r.2 && h.revoked)
    | none => false
  match s.wg r.2 with
  | none => .error (0x27, va)
  | some p =>
    if gone then .error (0x27, va)
    else if p.scrSize < off + n then .error (0x24, va + (p.scrSize - off))
    else .ok (.scratch r.2 off)

/-- Where an element goes: a place for each receiver. DESIGN CHOICE (notes/assumptions/102.md): an element of a multicast whose destination
leaves the scratchpad window has no window offset (R326), and faults with 0x28 also where its address lies in an aperture that R25 allows
to engines. -/
def movePlaces (s : State) (w : Nat) (g : Workgroup) (b : Bitmap) (m : Move) :
    Except (Nat × Nat) (List (Except (Nat × Nat) Chk)) × State :=
  if b.opk = 3 then
    match checkNow s w m.dst 1 .store Aper.s with
    | (.scratch _ off, s) => (.ok (b.recv.map (fun r => recvPlace s g r off m.n m.dst)), s)
    | (.fail 0x24 a, s) => (.ok (b.recv.map (fun r => match place m.dst with
        | .scr off => recvPlace s g r off m.n m.dst
        | _ => .error (0x24, a))), s)
    | (.fail f a, s) => (.error (f, a), s)
    | (_, s) => (.error (0, 0), s)
  else match checkNow s w m.dst m.n .store Aper.ls with
    | (.fail f a, s) => (.error (f, a), s)
    | (.wait, s) => (.error (0, 0), s)
    | (c, s) => (.ok [.ok c], s)

/-- Bytes of an element's source. -/
def moveBytes (s : State) (w : Nat) (m : Move) : Except (Nat × Nat) (List Byte) × State :=
  match m.src with
  | .error b => (.ok b, s)
  | .ok va => match checkNow s w va m.n .load Aper.ls with
    | (.fail f a, s) => (.error (f, a), s)
    | (.wait, s) => (.error (0, 0), s)
    | (c, s) => match s.readAt (s.partOf w) m.n c with
      | (.ok b, s) => (.ok b, s)
      | (.error (0, _), s) => (.error (0, 0), s)
      | (.error (f, o), s) => (.error (f, va + o), s)

/-- An element ready to be written: bytes and places; or its fault. -/
abbrev Ready := Except (Nat × Nat) (List Byte × List (Except (Nat × Nat) Chk))

/-- Check every element of a unit and read its source; true when something must be waited for. -/
def readyMoves (w : Nat) (g : Workgroup) (b : Bitmap) : List Move → State → List Ready × Bool × State
  | [], s => ([], false, s)
  | m :: ms, s =>
    let (d, s) := moveBytes s w m
    let (p, s) := movePlaces s w g b m
    let one : Ready := match d, p with
      | .error e, _ => .error e
      | _, .error e => .error e
      | .ok d, .ok p => .ok (d, p)
    let wait := match d, p with
      | .error (0, _), _ => true
      | _, .error (0, _) => true
      | _, _ => false
    let (l, wt, s) := readyMoves w g b ms s
    (one :: l, wait || wt, s)

/-- The first fault of a unit's elements. -/
def firstFault (l : List Ready) : Option (Nat × Nat) :=
  l.findSome? (fun r => match r with
    | .error e => some e
    | .ok (_, ps) => ps.findSome? (fun p => match p with
      | .error e => some e
      | .ok _ => none))

/-- Bytes written into a workgroup's scratchpad by ready elements that pass a test. -/
def bytesInto (v : Nat) (l : List Ready) : Nat :=
  (l.map (fun r => match r with
    | .ok (d, ps) => (ps.map (fun p => match p with
      | .ok (.scratch u _) => if u == v then d.length else 0
      | _ => 0)).sum
    | .error _ => 0)).sum

/-- A unit faults: only the first fault of a command is recorded, and a record is written unless one awaits its release
(R319, R392). EPC of an engine record is not stated. -/
def State.unitFault (s : State) (w c u code addr : Nat) : State :=
  let b := s.bitmap w c
  let s := if b.code = 0 then s.modBitmap w c (fun b => { b with code := code, funit := u }) else s
  if s.records.any (fun r => r.2.wg == w && r.2.eng == some c) then s
  else
    let (e, s) := s.draw
    s.recordFault { w := w, tids := [b.tid], code := code, spc := b.pc, epc := e.toNat % 2 ^ 24, faddr := addr, tval := u,
                    eng := some c }

/-- Lower barrier M of the workgroups that received bytes; whether TX went out of range at one (R134). -/
def State.lowerAll (s : State) (m : Nat) : List (Nat × Nat) → Bool × State
  | [] => (false, s)
  | (v, n) :: r =>
    if n = 0 then s.lowerAll m r
    else
      let (s, over_) := s.lowerTx v m n
      let (more, s) := s.lowerAll m r
      (over_ || more, s)

/-- The same for a command's barrier, where it names one: the code of a unit that has been written (R134). -/
def State.lowerFor (s : State) (b : Bitmap) (l : List (Nat × Nat)) : Option (Nat × Nat) × State :=
  match b.barrier with
  | none => (none, s)
  | some m => match s.lowerAll m l with
    | (true, s) => (some (0xC7, 0), s)
    | (false, s) => (none, s)

/-- What a unit moves (R319, R323, R325, R326): what it reads, what it writes and how TX falls, with its fault; the elements that
mask names are those that a faulting unit has written. -/
def State.unitMove (s : State) (w c u mask : Nat) (g : Workgroup) : Option (Nat × Nat) × State :=
  let b := s.bitmap w c
  let d := leNat b.desc
  let others := (b.recv.map (·.2)).filter (· != w)
  let wait := fun (s : State) => (none, { s with blocked := true })
  match movesOf s w b.opk d u with
  | (.error (0, _), s) => wait s
  | (.error e, s) => (some e, s)
  | (.ok none, s) => s.lowerFor b [(w, unitCharge b.opk d u)]
  | (.ok (some ms), s) =>
    match readyMoves w g b ms s with
    | (_, true, s) => wait s
    | (l, false, s) =>
      let writeOne := fun (s : State) (r : Ready) => match r with
        | .ok (bs, ps) => ps.foldl (fun (s : State) p => match p with
          | .ok c => s.writeAt w b.tid bs c
          | .error _ => s) s
        | .error _ => s
      match firstFault l with
      | none => (l.foldl writeOne s).lowerFor b ((w :: others).map (fun v => (v, bytesInto v l)))
      | some e =>
        if b.opk = 3 then (some e, ((l.foldl writeOne s).lowerFor b (others.map (fun v => (v, bytesInto v l)))).2)
        else (some e, (l.zipIdx.filter (fun r => mask.testBit r.2)).foldl (fun (s : State) r => writeOne s r.1) s)

/-- A unit has been written: it is marked, also where it took TX out of range; or it has faulted (R319). -/
def State.unitEnd (s : State) (w c u : Nat) : Option (Nat × Nat) → State
  | none => (s.modBitmap w c (fun b => { b with bits := b.bits + 2 ^ u })).checkCommand w c
  | some (0xC7, a) => ((s.modBitmap w c (fun b => { b with bits := b.bits + 2 ^ u })).unitFault w c u 0xC7 a).checkCommand w c
  | some (f, a) => ((s.modBitmap w c (fun b => { b with failed := b.failed + 2 ^ u })).unitFault w c u f a).checkCommand w c

/-- Run a unit through the networks, with its engine's front end as the source (R3, R57, R64, R65, R133). -/
def State.runUnit (s : State) (w c u mask : Nat) (g : Workgroup) : State :=
  s.viaNet (.unit (s.bitmap w c).op u) (.engine g.core) (fun s => s.unitMove w c u mask g) (fun e s => s.unitEnd w c u e)

/-- The writes of a unit are on their way. -/
def State.unitWriting (s : State) (w c u : Nat) : Bool :=
  ((s.stage (.unit (s.bitmap w c).op u)).map (·.writing)).getD false

/-- A unit of a running command runs; part names the elements that a faulting unit still writes (R319). Commands of a saved
workgroup do not run, but for a multicast (R327, R401). -/
def execEngineUnitComplete (wg cb unit : Nat) (part : Option Nat) (s : State) : Out :=
  .next (match s.wg wg with
    | none => s
    | some g =>
      let b := s.bitmap wg cb
      if b.st != 1 || !b.started || decide (b.units ≤ unit) || b.bits.testBit unit || b.failed.testBit unit ||
          (b.opk != 3 && !g.torn && (g.resid == .saved || g.saveFor != 0) && !s.unitWriting wg cb unit) then s
      else s.runUnit wg cb unit (part.getD 0) g)

end Sys2Proof.Machine
end

