-- ==== Sys2Proof/Machine/Hash.lean ====
section
/-!
DEFINITION. SHA3-256 of FIPS 202 (spec/06_ordering.md R144, R145; spec/15_faults.md R414) and the CRC-32 of IEEE 802.3
(spec/15_faults.md R400), over lists of bytes.
-/

namespace Sys2Proof.Machine

/-! ## The permutation. Its state is five planes of five 64-bit lanes: plane y holds the lanes (0, y) to (4, y). -/

/-- A lane rotated towards its higher bits, n from 0 to 63. -/
def spinLane (n x : Nat) : Nat := (x <<< n ||| x >>> (64 - n)) % 2 ^ 64

/-- Two planes added lane by lane. -/
def addPlanes (p q : List Nat) : List Nat := List.zipWith (· ^^^ ·) p q

/-- Each lane of the planes takes in the parity of the column before its own, and that of the column after its own one bit
lower. -/
def mixColumns (ps : List (List Nat)) : List (List Nat) :=
  let sum := ps.foldl addPlanes [0, 0, 0, 0, 0]
  let d := addPlanes (sum.drop 4 ++ sum.take 4) ((sum.drop 1 ++ sum.take 1).map (spinLane 1))
  ps.map (addPlanes d)

/-- How far lane (x, y) turns: the walk from (1, 0) by (x, y) ↦ (y, 2x + 3y) comes to it after t steps, and it turns
(t + 1)(t + 2)/2 places; (0, 0) stands still. -/
def turnOf (x y : Nat) : Nat :=
  let rec walk : Nat → Nat → Nat → Nat → Nat
    | 0, _, _, _ => 0
    | n + 1, t, i, j => if i = x ∧ j = y then (t + 1) * (t + 2) / 2 % 64 else walk n (t + 1) j ((2 * i + 3 * j) % 5)
  walk 24 0 1 0

/-- The turns of all lanes, plane by plane. -/
def turnTable : List (List Nat) := (List.range 5).map (fun y => (List.range 5).map (fun x => turnOf x y))

/-- Lane (x, y) turned goes to (y, 2x + 3y): plane j gathers lane (i + 3j, i) at its place i. -/
def scatter (turns ps : List (List Nat)) : List (List Nat) :=
  let turned := List.zipWith (List.zipWith spinLane) turns ps
  (List.range 5).map (fun j => turned.mapIdx (fun i p => p.getD ((i + 3 * j) % 5) 0))

/-- Each lane of a plane is changed where the next lane is 0 and the one after it is 1. -/
def bend (p : List Nat) : List Nat :=
  addPlanes p (List.zipWith (fun u v => v ^^^ (u &&& v)) (p.drop 1 ++ p.take 1) (p.drop 2 ++ p.take 2))

/-- The shift register of the round constants: x^8 + x^6 + x^5 + x^4 + 1. -/
def stepLfsr (r : Nat) : Nat := if r < 128 then 2 * r else (2 * r) % 256 ^^^ 0x71

/-- The next seven bits of the register, at positions 2^j - 1, and the register after them. -/
def roundWord (r : Nat) : Nat × Nat :=
  (List.range 7).foldl (fun (k, r) j => (k + r % 2 * 2 ^ (2 ^ j - 1), stepLfsr r)) (0, r)

/-- The given number of rounds, from a register. -/
def permute (turns : List (List Nat)) : Nat → Nat → List (List Nat) → List (List Nat)
  | 0, _, ps => ps
  | n + 1, r, ps =>
    let (k, r) := roundWord r
    let ps := (scatter turns (mixColumns ps)).map bend
    permute turns n r (ps.modifyHead (addPlanes [k, 0, 0, 0, 0]))

/-- The planes that a list of bytes stands in, eight bytes a lane. -/
def planesOf (bs : List Byte) : List (List Nat) :=
  (List.range 5).map (fun y => (List.range 5).map (fun x => leNat ((bs.drop (8 * (5 * y + x))).take 8)))

/-- Take in the blocks of 136 bytes of a padded message, of which n are left. -/
def soak : Nat → List (List Nat) → List Byte → List (List Nat)
  | 0, ps, _ => ps
  | n + 1, ps, bs => soak n (permute turnTable 24 1 (List.zipWith addPlanes ps (planesOf (bs.take 136)))) (bs.drop 136)

/-- Padding of SHA-3: bits 01 and then 10*1. -/
def sha3Pad (bs : List Byte) : List Byte :=
  let z := 135 - bs.length % 136
  if z = 0 then bs ++ [0x86] else bs ++ [0x06] ++ List.replicate (z - 1) 0 ++ [0x80]

/-- SHA3-256: 32 bytes. -/
def sha3 (bs : List Byte) : List Byte :=
  let p := sha3Pad bs
  ((soak (p.length / 136) (planesOf []) p).flatten.take 4).flatMap (leBytes 8)

/-- One bit of the reflected CRC-32. -/
def crcBit : Nat → Nat → Nat
  | 0, c => c
  | n + 1, c => crcBit n (if c % 2 = 1 then c / 2 ^^^ 0xEDB88320 else c / 2)

/-- CRC-32 of IEEE 802.3. -/
def crc32 (bs : List Byte) : Nat :=
  (2 ^ 32 - 1) ^^^ bs.foldl (fun c b => crcBit 8 (c ^^^ b.toNat)) (2 ^ 32 - 1)

end Sys2Proof.Machine
end

