-- ==== Sys2Proof/Machine/Launch.lean ====
section
/-!
DEFINITION. Completion of launches, graph nodes and ring commands, the dependence graph, guards, device-side launches and
waggles (spec/08_scheduling.md R185 to R196, R203; spec/12_isa_memory.md R330 to R334; spec/06_ordering.md R143 to R145;
spec/16_device.md R417, R419, R430).
-/

namespace Sys2Proof.Machine

/-! ## MSI-X (R417, R418) -/

/-- A doubleword of the MSI-X table; an entry is masked until the host writes it. -/
def Partition.msixWord (q : Partition) (i : Nat) : Word := (tget q.msix i).getD (if i % 2 = 1 then ofN (2 ^ 32) else 0)

/-- Signal a vector: a message, or its pending bit while it is masked. -/
def State.signal (s : State) (p v : Nat) : State :=
  if bit ((s.part p).msixWord (2 * v + 1)).toNat 32 then s.modPart p (fun q => { q with pba := q.pba ||| ofN (2 ^ v) })
  else { s with msis := (p, v) :: s.msis }

/-! ## Events of completion (R189 step 2, R193) -/

/-- Increment the SEQ of a sync object under R121 without the holder checks; a failure posts an event (R421). -/
def State.increment (s : State) (p asid root va ltag wgidx : Nat) : State :=
  let bad := fun (s : State) (code : Nat) => s.event p code va ltag wgidx
  if va = 0 then s
  else if va % 64 != 0 then bad s 0x2D
  else match place va with
    | .bad => bad s 0x21
    | .glob a =>
      (match s.xnow p asid root a .atomic false false with
      | (.wait, s) => { s with blocked := true }
      | (.fail f, s) => bad s f
      | (.ok ph, s) =>
        match s.load ph 64 with
        | .error f => bad s f
        | .ok bytes =>
          let o := leNat bytes
          if badObject o then bad s 0xC0
          else s.relAt { src := .host, dst := s.home p ph.pa, part := p, kind := .load, ph := ph, n := 64, va := a }
            ((bits o 63 0 + 1) % 2 ^ 64) (bit o 127))
    | _ => bad s 0x28

/-! ## Ring commands and graph runs (R186, R187, R193) -/

/-- A ring command of a queue completes; its vector is signalled (R419). -/
def State.commandDone (s : State) (p q index : Nat) : State :=
  let s := s.modPart p (fun x => { x with queues := tmod x.queues q (fun y => { y with
    cmds := y.cmds.map (fun (c : Command) => if c.index == index then { c with done := true } else c) }) })
  let v := bits ((tget (s.part p).qtab q).getD 0).toNat 6 2
  if v = 0 then s else s.signal p v

/-- The command of a queue that started a graph run. -/
def State.commandOf (s : State) (p run : Nat) : Option (Nat × Nat) :=
  (s.part p).queues.findSome? (fun e => (e.2.cmds.find? (fun c => c.run == some run)).map (fun c => (e.1, c.index)))

/-- The ring index of the command that started a graph run, 0 where a dg.go did (R421). -/
def State.ringIndex (s : State) (p run : Nat) : Nat := ((s.commandOf p run).map (·.2)).getD 0

/-- A graph run all of whose nodes have ended completes its command or its dg.go (R187, R331). -/
def State.endRun (s : State) (id : Nat) : State :=
  match tget s.runs id with
  | none => s
  | some r =>
    if r.ended.length < r.count then s
    else
      let s := { s with runs := tdel s.runs id }
      match r.issuer, s.commandOf r.part id with
      | some (_, op), _ => s.finish op []
      | none, some (q, index) => s.commandDone r.part q index
      | none, none => s

/-- Index of a node in a run. -/
def GraphRun.index (r : GraphRun) (node : Nat) : Option Nat :=
  if r.base ≤ node && node < r.base + 64 * r.count && (node - r.base) % 64 == 0 then some ((node - r.base) / 64) else none

/-- Read a graph node (R192). -/
def State.graphNode (s : State) (r : GraphRun) (node : Nat) : Except Nat Nat × State :=
  match readSys s r.part r.asid r.root node 64 with
  | (.ok b, s) => (.ok (leNat b), s)
  | (.error f, s) => (.error f, s)

/-- Write bytes of a graph node. -/
def State.putGraph (s : State) (r : GraphRun) (node off : Nat) (bytes : List Byte) : State :=
  (writeSys s r.part r.asid r.root (node + off) bytes).2

/-- NSTATE of a node whose other bits are known. -/
def State.setNState (s : State) (r : GraphRun) (node n st : Nat) : State :=
  s.putGraph r node 41 [BitVec.ofNat 8 (bits n 335 332 * 16 + st)]

/-- Decrements of the successors of a node, in SUCC order (R193). -/
def State.decrementAll (s : State) (id : Nat) (r : GraphRun) (n : Nat) : State :=
  match readSys s r.part r.asid r.root (bits n 447 384) (8 * bits n 383 368) with
  | (.ok b, s) => s.modPart r.part (fun q => { q with preds := q.preds ++ (dwords b (bits n 383 368)).map (fun a =>
      ({ node := a.toNat, asid := r.asid, root := r.root, queue := r.queue, priv := r.priv, run := some id } : Pred)) })
  | (.error f, s) => s.event r.part f (bits n 447 384)

/-- A node ends: completed, or faulted, in which case its successors are not released (R189 step 3, R193). NEVENT lies in the
given address space; ltag names the launch of a compute node, 0 where there is none (R421). -/
def State.endNode (s : State) (id node asid root ltag : Nat) (ok : Bool) : State :=
  match tget s.runs id with
  | none => s
  | some r =>
    match s.graphNode r node with
    | (.error f, s) => s.event r.part f node
    | (.ok n, s) =>
      let s := s.setNState r node n (if ok then 2 else 3)
      let s := if ok then (s.increment r.part asid root (bits n 319 256) ltag 0).decrementAll id r n else s
      let s := { s with runs := tmod s.runs id (fun r => { r with
        ended := (r.index node).toList ++ r.ended, bad := r.bad || !ok }) }
      s.endRun id

/-! ## Completion of a launch (R189, R190, R398) -/

/-- Workgroups of a launch's grid. -/
def Launch.total (l : Launch) : Nat := l.gx * l.gy * l.gz

/-- The launch belongs to a queue, writes its node and has an event: it is no handler (R203, R395). -/
def Launch.named (l : Launch) : Bool :=
  match l.origin with
  | .handler _ => false
  | .waggle => false
  | _ => true

/-- Digest of a launch (R144). -/
def State.launchDigest (s : State) (l : Launch) : List Byte :=
  if l.faulted then List.replicate 32 0xFF
  else
    let ls := sortBy (fun (a b : Nat × Nat × Bool) => decide (a.1 ≤ b.1)) l.lines
    sha3 (ls.flatMap (fun e => leBytes 8 e.1 ++ memRead (if e.2.2 then s.host else s.mem) e.2.1 64))

/-- Logged atomics of the launch that were never applied are applied now, each with 0xD0 (R143). -/
def State.replayRest (s : State) (lid : Nat) (l : Launch) : State :=
  match l.queue with
  | none => s
  | some q =>
    let before := ((tget (s.part l.part).queues q).map (·.replayed)).getD []
    let s := s.replay l.part q lid (fun e => bits e 447 384 == l.lseq)
    let after := ((tget (s.part l.part).queues q).map (·.replayed)).getD []
    (after.filter (fun x => !before.contains x)).foldl (fun s x => s.event l.part 0xD0 x l.ltag) s

/-- The queue of a launch stops taking commands (R191, R398). -/
def State.stopQueue (s : State) (p : Nat) (q : Option Nat) : State :=
  match q.bind (fun q => tget (s.part p).queues q) with
  | some qu => (s.setFlag p qu.node 7).modPart p (fun x => { x with
      queues := x.queues.map (fun (e : Nat × Queue) => if some e.1 == q then (e.1, { e.2 with halted := true }) else e) })
  | none => s

/-- A launch whose workgroups have all retired completes: EVENT, node or command, tag; its link waits its turn. -/
def State.completeLaunch (s : State) (lid : Nat) : State :=
  match tget s.launches lid with
  | none => s
  | some l =>
    if !l.named then { s with launches := tdel s.launches lid }
    else
      let s := s.replayRest lid l
      let digest := s.launchDigest l
      let s := putNode s l.part l.node 3 [if l.faulted then 4 else 3]
      let s := if l.faulted then s.stopQueue l.part l.queue
        else s.increment l.part l.eff.asid l.eff.ptroot l.event l.ltag 0
      let s := match l.origin with
        | .command q index => s.commandDone l.part q index
        | .node run node => s.endNode run node l.eff.asid l.eff.ptroot l.ltag (!l.faulted)
        | _ => s
      let s := match l.queue with
        | some q => s.modPart l.part (fun x => { x with
            queues := tmod x.queues q (fun y => { y with links := y.links ++ [(({ lseq := l.lseq, digest := digest }) : LinkWait)] }) })
        | none => s
      { s with launches := tdel s.launches lid }

/-- A launch of zero workgroups completes as it resolves (R190). -/
def State.completeEmpty (s : State) (lid : Nat) : State :=
  match tget s.launches lid with
  | some l => if l.total = 0 then s.completeLaunch lid else s
  | none => s

/-- A failed resolution (R191): an event, STATE 4 of a node that can be written, and the queue stops. -/
def State.failResolution (s : State) (p : Nat) (q : Option Nat) (rcb : Option Nat) (code index : Nat) : State :=
  let s := s.event p code (q.getD 0 % 256 + index % 2 ^ 32 * 2 ^ 32)
  let s := match rcb with
    | some a => putNode s p a 3 [4]
    | none => s
  s.stopQueue p q

/-- The link that H takes next: the lowest waiting, once every launch of lower LSEQ has completed (R145). -/
def State.nextLink (s : State) (p q : Nat) (qu : Queue) : Option LinkWait :=
  match qu.links with
  | [] => none
  | x :: xs =>
    let l := xs.foldl (fun (m y : LinkWait) => if y.lseq < m.lseq then y else m) x
    if s.earlierLive p q l.lseq then none else some l

/-- Append the link of the lowest waiting launch of a queue once every launch of lower LSEQ has completed (R145). -/
def execDigestLinkAppend (part q : Nat) (s : State) : Out :=
  .next (match tget (s.part part).queues q with
    | none => s
    | some qu =>
      match s.nextLink part q qu with
      | none => s
      | some l => s.attempt (fun s =>
          let (r, s) := s.nodeBits part qu.node
          let h := sha3 (leBytes 32 (bits r 2047 1792) ++ leBytes 8 l.lseq ++ l.digest)
          (putNode s part qu.node 224 h).modPart part (fun p => { p with
            queues := tmod p.queues q (fun y => { y with links := y.links.erase l }) })))

/-! ## Starting graph nodes (R193) -/

/-- A new graph run for a node that lies in none: its sequence is not given by the spec. -/
def State.looseRun (s : State) (p : Nat) (e : Pred) : Nat × State :=
  let (x, s) := s.draw
  let (id, s) := s.newId
  (id, { s with runs := tset s.runs id { part := p, queue := e.queue, priv := e.priv, asid := e.asid, root := e.root,
                                         seq := x.toNat, base := e.node, count := 1 } })

/-- The run whose array holds a node: the one named, another of the same address space, or a new one. -/
def State.runOf (s : State) (p : Nat) (e : Pred) : Nat × State :=
  let fits := fun (x : Nat × GraphRun) => x.2.part == p && x.2.asid == e.asid && x.2.root == e.root && (x.2.index e.node).isSome
  match s.runs.find? (fun x => some x.1 == e.run && fits x) with
  | some x => (x.1, s)
  | none => match s.runs.find? fits with
    | some x => (x.1, s)
    | none => s.looseRun p e

/-- A partition takes no further resolution now (R188). -/
def State.launchesFull (s : State) (p : Nat) : Bool := decide (65536 ≤ s.liveLaunches p)

/-- Start a node (R193): a kernel resolves, a join completes, a copy starts. -/
def State.startNode (s : State) (p : Nat) (e : Pred) : State :=
  let (id, s) := s.runOf p e
  match tget s.runs id with
  | none => s
  | some r =>
    match s.graphNode r e.node with
    | (.error f, s) => s.event p f e.node
    | (.ok n, s) =>
      let j := r.i0 + (r.index e.node).getD 0
      match bits n 335 332 with
      | 1 =>
        if s.launchesFull p then s.modPart p (fun q => { q with preds := q.preds ++ [{ e with start := true }] })
        else
          let s := s.setNState r e.node n 1
          (match resolve s { part := p, queue := r.queue, rcb := bits n 511 448, lseq := childSeq r.seq j % 2 ^ 64,
                             origin := .node id e.node, priv := r.priv } with
          | (.ok l, s) => s.completeEmpty l
          | (.error f, s) => (s.failResolution p r.queue (some (bits n 511 448)) f (s.ringIndex p id)).endNode id e.node r.asid r.root 0 false)
      | 2 =>
        let s := s.setNState r e.node n 1
        { s with runs := tmod s.runs id (fun r => { r with copies := r.copies ++ [e.node] }) }
      | 3 => (s.setNState r e.node n 1).endNode id e.node r.asid r.root 0 true
      | _ => (s.failResolution p r.queue none 0xB0 (s.ringIndex p id)).endNode id e.node r.asid r.root 0 false

/-- The elements of a copy: bytes, and the places that they go to; or the first fault (code 0 waits). -/
def copyMoves (part asid root : Nat) : List Move → State →
    Except (Nat × Nat) (List (List Byte × List (Phys × Nat × Nat))) × State
  | [], s => (.ok [], s)
  | m :: ms, s =>
    let r : Except (Nat × Nat) (List Byte) × State := match m.src with
      | .error b => (.ok b, s)
      | .ok va => readSysAt s part asid root va m.n
    match r with
    | (.error e, s) => (.error e, s)
    | (.ok b, s) =>
      match placeSys s part asid root m.dst m.n with
      | (.error e, s) => (.error e, s)
      | (.ok ps, s) =>
        match copyMoves part asid root ms s with
        | (.error e, s) => (.error e, s)
        | (.ok l, s) => (.ok ((b, ps) :: l), s)

/-- The moves of a copy node's command. DESIGN CHOICE (notes/assumptions/44.md): the spec gives a copy command no format of its
own; TARGET is taken to address a tensor descriptor (R322), whose elements move in the address space of the node's run. -/
def State.copyMove (s : State) (r : GraphRun) (node : Nat) : Option (Nat × Nat) × State :=
  let fail := fun (e : Nat × Nat) (s : State) => if e.1 = 0 then (none, { s with blocked := true }) else (some e, s)
  match readSysAt s r.part r.asid r.root node 64 with
  | (.error e, s) => fail e s
  | (.ok nb, s) =>
    let a := bits (leNat nb) 511 448
    if a % 64 != 0 then (some (0x2D, a), s)
    else match readSysAt s r.part r.asid r.root a 256 with
      | (.error e, s) => fail e s
      | (.ok db, s) =>
        let d := leNat db
        if badDesc 0 d then (some (0xA0, a), s)
        else
          let ms := (List.range (descUnits 0 d)).flatMap (unitMoves 0 d)
          match copyMoves r.part r.asid r.root ms s with
          | (.error e, s) => fail e s
          | (.ok l, s) => (none, l.foldl (fun (s : State) e =>
              (e.2.foldl (fun (acc : State × List Byte) p =>
                (acc.1.store r.part p.1 p.2.1 (acc.2.take p.2.2) none none, acc.2.drop p.2.2)) (s, e.1)).1) s)

/-- A started copy node goes on: its command runs through the networks from the host port's die; when its writes are over, the
node completes, or it has faulted, which a kind-3 event tells (R192, R193). -/
def State.runCopy (s : State) (run node : Nat) : State :=
  match tget s.runs run with
  | none => s
  | some r =>
    if !r.copies.contains node then s
    else s.viaNet (.copy run node) .host (fun s => s.copyMove r node) (fun e s =>
      let s := match e with
        | some (f, a) => s.event r.part f a
        | none => s
      ({ s with runs := tmod s.runs run (fun r => { r with copies := r.copies.filter (· != node) }) } : State).endNode
        run node r.asid r.root 0 e.isNone)

/-- The nodes of an array: address and bits of each, or the fault. -/
def graphArray (s : State) (r : GraphRun) : Nat → Nat → Except Nat (List (Nat × Nat)) × State
  | 0, _ => (.ok [], s)
  | n + 1, a => match s.graphNode r a with
    | (.error f, s) => (.error f, s)
    | (.ok x, s) => match graphArray s r n (a + 64) with
      | (.ok l, s) => (.ok ((a, x) :: l), s)
      | (.error f, s) => (.error f, s)

/-- Start the nodes of an array that have no predecessors, in index order. -/
def State.startArray (s : State) (id : Nat) (r : GraphRun) (nodes : List (Nat × Nat)) : State :=
  let comp := nodes.zipIdx.filterMap (fun e => if bits e.1.2 335 332 == 1 then some e.2 else none)
  let s := { s with runs := tset s.runs id { r with computes := comp } }
  nodes.foldl (fun s e =>
    if bits e.2 367 336 == 0 then
      s.startNode r.part { node := e.1, asid := r.asid, root := r.root, queue := r.queue, priv := r.priv, run := some id }
    else s) s

/-- The atomic decrement of the PRED of a node: its value before, or the fault, where nothing is written (R193). -/
def State.decrement (s : State) (part : Nat) (e : Pred) : Except Nat Nat × State :=
  match readSys s part e.asid e.root e.node 64 with
  | (.error f, s) => (.error f, s)
  | (.ok b, s) =>
    let k := bits (leNat b) 367 336
    match sysPart s part e.asid e.root (e.node + 42) .atomic with
    | (.error f, s) => (.error f, s)
    | (.ok _, s) =>
      if k = 0 then (.ok 0, s)
      else match writeSys s part e.asid e.root (e.node + 42) (leBytes 4 (k - 1)) with
        | (.error f, s) => (.error f, s)
        | (.ok _, s) => (.ok k, s)

/-- A decrement of PRED at its home slice, or a start that had to wait (R193, R330). -/
def execGraphPredDecrement (part : Nat) (s : State) : Out :=
  .next (match (s.part part).preds with
    | [] => s
    | e :: rest =>
      if e.start && s.launchesFull part then s
      else s.attempt (fun s =>
        let s := s.modPart part (fun q => { q with preds := rest })
        let fin := fun (s : State) => match e.op with
          | some op => s.finish op []
          | none => s
        if e.start then s.startNode part e
        else match s.decrement part e with
          | (.error 0, s) => { s with blocked := true }
          | (.error f, s) => (match e.op with
            | some op => s.failOp op f e.node
            | none => s.event part f e.node)
          | (.ok 0, s) => (fin s).event part 0xB4 e.node
          | (.ok 1, s) => (fin s).startNode part e
          | (.ok _, s) => fin s))

/-! ## Engine instructions of the graph (R330 to R334) -/

/-- Launch of a workgroup, with its queue and level. -/
def predOf (s : State) (w node : Nat) (op : Option Nat) : Pred :=
  let e := s.eff w
  { node := node, asid := e.asid, root := e.ptroot, queue := (s.launchOf w).bind (·.queue), priv := s.priv w, op := op }

def execDgNode (c : Ctl) (o : FX) (s : State) : Out :=
  isa (.dgNode c o) c (fun s x =>
    let a := (s.src x.w x.t o.a).toNat
    let m := s.markOf x
    match check s x.w x.ts a 64 64 .atomic Aper.g false with
    | (.fail f ad, s) => .trap f ad none s
    | (.glob g _, s) =>
      if !s.doneOwn x.w x.t .st m then .wait (s.begun x m)
      else
        let p := s.partOf x.w
        let (id, s) := s.openOp x (.dgNode c o) (.node p) .vz
        .adv (s.modPart p (fun q => { q with preds := q.preds ++ [predOf s x.w g (some id)] }))
    | (_, s) => .wait s) s

/-- Every page of an array passes the checks of an atomic: the failure with its address (code 0 waits). -/
def arrayChecks (s : State) (w va n : Nat) : Option (Nat × Nat) × State :=
  (pageParts (n / 65536 + 2) va n).foldl (fun (acc : Option (Nat × Nat) × State) p =>
    match acc with
    | (some e, s) => (some e, s)
    | (none, s) => match checkNow s w p.1 p.2 .atomic Aper.g with
      | (.fail f a, s) => (some (f, a), s)
      | (.wait, s) => (some (0, p.1), s)
      | (_, s) => (none, s)) (none, s)

def execDgGo (c : Ctl) (o : FX) (s : State) : Out :=
  isa (.dgGo c o) c (fun s x =>
    let a := (s.src x.w x.t o.a).toNat
    let b := (s.src x.w x.t o.b).toNat
    let n := bits b 15 0
    let i0 := bits b 47 32
    let m := s.markOf x
    match s.wg x.w, s.launchOf x.w with
    | some g, some l =>
      if n = 0 then .adv s
      else if a % 64 != 0 then .trap 0x2D a none s
      else match x.asks s (fun s => arrayChecks s x.w a (64 * n)) with
        | (some (0, _), s) => x.parks s
        | (some (f, ad), s) => .trap f ad none s
        | (none, s) =>
          if l.lseq % 65536 != 0 then .trap 0xB2 0 none s
          else if 65535 < i0 + n || l.children.any (fun i => i0 ≤ i && decide (i < i0 + n)) then .trap 0xB3 0 none s
          else if !s.doneOwn x.w x.t .st m then .wait (s.begun x m)
          else
            let s0 := s.begun x m
            let s := { s with blocked := false }.modLaunch g.launch (fun l => { l with children := (List.range n).map (i0 + ·) ++ l.children })
            let (run, s) := s.newId
            let (op, s) := s.openOp x (.dgGo c o) (.graphGo run) .vz
            let r : GraphRun := { part := g.part, queue := l.queue, priv := l.priv, asid := l.eff.asid, root := l.eff.ptroot,
                                  seq := l.lseq, base := a, count := n, issuer := some (g.launch, op), i0 := i0 }
            (match x.asks s (fun s => graphArray s r n a) with
            | (.error 0, s) => x.parks (s0.asked s)
            | (.error f, s) => .adv (s.failOp op f a)
            | (.ok ns, s) =>
              let s' := (x.asks s (fun s => ((), s.startArray run r ns))).2
              if s'.blocked then x.parks (s0.asked s') else .adv s')
    | _, _ => .wait s) s

def execEngGuard (c : Ctl) (o : FX) (s : State) : Out :=
  isa (.engGuard c o) c (fun s x =>
    let slot := bits (s.src x.w x.t o.a).toNat 11 0
    let v := bits o.xsub.toNat 1 0
    let p := s.partOf x.w
    let m := s.markOf x
    if !s.doneOwn x.w x.t .st m then .wait (s.begun x m)
    else if v < 2 && ((tget (s.part p).guards slot).map (fun b => b != (v == 1))).getD false then .trap 0xB6 slot none s
    else
      let (id, s) := s.openOp x (.engGuard c o) (.guard p slot v) .vz
      .adv ((s.modPart p (fun q => { q with
        guards := if v = 2 then tdel q.guards slot else tset q.guards slot (v == 1) })).finish id [])) s

/-- Parent sequences that may have no device-side child (R195). -/
def tooDeep (l : Launch) : Bool := l.lseq % 65536 != 0

/-- A child enters its die's queue (R195). -/
def State.enterChild (s : State) (die : Nat) (c : Child) : State :=
  { s with lqs := tset s.lqs die ((tget s.lqs die).getD [] ++ [c]), lqPlaced := tset s.lqPlaced die 0 }

/-- Entries of a die's queue. -/
def State.lq (s : State) (die : Nat) : List Child := (tget s.lqs die).getD []

/-- The oldest push that waits for a die's queue enters it. -/
def State.admitPush (s : State) (die : Nat) : State :=
  if 1024 ≤ (s.lq die).length then s
  else match s.ops.find? (fun e => match e.2.kind with
      | .push d .. => d == die && !e.2.done
      | _ => false) with
    | some (id, o) =>
      (match o.kind with
      | .push _ launch index rcb grid k63 =>
        (match tget s.launches launch with
        | some l => (s.enterChild die { part := l.part, launch := launch, queue := l.queue, priv := l.priv, rcb := rcb,
                                        lseq := childSeq l.lseq index, grid := grid, k63 := k63, die := die }).finish id []
        | none => s.finish id [])
      | _ => s)
    | none => s

/-- The i-th register from a first one. -/
def regFrom (s : State) (x : Ctx) (o : Opnd) (i : Nat) : Word := s.src x.w x.t (Opnd.plus o i)

def execLqPush (c : Ctl) (o : FX) (s : State) : Out :=
  isa (.lqPush c o) c (fun s x =>
    let g := (regFrom s x o.b 0).toNat
    let b := (regFrom s x o.b 1).toNat
    let i := bits b 15 0
    match s.wg x.w, s.launchOf x.w with
    | some wg, some l =>
      if tooDeep l then .trap 0xB2 0 none s
      else if i = 65535 || l.children.contains i then .trap 0xB3 0 none s
      else
        let die := dieOf x.core
        let s := s.modLaunch wg.launch (fun l => { l with children := i :: l.children })
        let k : OpKind := .push die wg.launch i (s.src x.w x.t o.a).toNat (bits g 27 0, bits g 43 28, bits g 59 44)
          (ofN (bits b 63 16))
        let (_, s) := s.openOp x (.lqPush c o) k .vz
        .adv (s.admitPush die)
    | _, _ => .wait s) s

/-- Entry NODE of the partition's peer table (R428): its 64 bytes as a number, 0 where it cannot be read; none waits for the
host. -/
def State.peer (s : State) (p node : Nat) : Option Nat × State :=
  let q := s.part p
  match readSys s p q.rootAsid q.rootPt (((tget q.regs 0x1050).getD 0).toNat + 64 * node) 64 with
  | (.ok b, s) => (some (leNat b), s)
  | (.error 0, s) => (none, s)
  | (.error _, s) => (some 0, s)

/-- The packet of a remote waggle is sent. -/
def State.sendWaggle (s : State) (r : Remote) : State :=
  { s with encaps := { part := r.part, node := r.node, peer := r.rpart, seq := r.seq, op := 0, info := r.hive + 256 * r.n
                       data := r.regs.flatMap (fun x => leBytes 8 x.toNat), retry := decide (1 < r.sends) } :: s.encaps }

/-- A remote waggle takes the next sequence number of its pair and is sent (R428). -/
def State.sendRemote (s : State) (r : Remote) : State :=
  let mine := fun (w : PeerWin) => w.part == r.part && w.node == r.node && w.peer == r.rpart
  let w := (s.peers.find? mine).getD { part := r.part, node := r.node, peer := r.rpart }
  let (id, s) := s.newId
  ({ s with
    remotes := tset s.remotes id { r with seq := w.next }
    peers := { w with next := (w.next + 1) % 65536 } :: s.peers.filter (fun w => !mine w) } : State).sendWaggle { r with seq := w.next }

/-- k8 of a waggle's handler (R333). -/
def senderWord (s : State) (x : Ctx) : Nat := x.core % 256 + (s.wgName x.w).1 % 2 ^ 24 * 2 ^ 8 + x.t % 2 ^ 11 * 2 ^ 32

def execWagSend (c : Ctl) (o : FX) (s : State) : Out :=
  isa (.wagSend c o) c (fun s x =>
    let a := (s.src x.w x.t o.a).toNat
    let p := s.partOf x.w
    let h := bits a 4 0
    let n := bits a 15 8
    let regs := (List.range 8).map (regFrom s x o.b)
    if bit a 63 then
      match x.asks s (fun s => s.peer p (bits a 62 51)) with
      | (none, s) => x.parks s
      | (some e, s) =>
      if bits a 46 16 != 0 || !bit e 0 then .trap 0xB7 0 none s
      else
        let (id, s) := s.openOp x (.wagSend c o) .remote .vz
        let r : Remote := { part := p, node := bits a 62 51, rpart := bits a 50 47, hive := h, n := n
                            regs := regs ++ [ofN (senderWord s x)], op := id, deadline := s.now + 2 ^ 24 }
        .adv (s.sendRemote r)
    else if !((s.part p).hives.contains h) then .trap 0xB7 0 none s
    else
      let (id, s) := s.openOp x (.wagSend c o) (.mem .store) .vz
      let dst := ((s.part p).home[(8 * h + n % 8) % 256]?).getD 0
      let (r, s) := s.send { src := .core x.core, dst := dst, part := p, n := 64, va := 0, op := some id
                             kind := .atomic (.waggle h n (regs ++ [ofN (senderWord s x)]))
                             ph := { pa := 64 * id, cache := 2 }, launch := (s.wg x.w).map (·.launch) }
      .adv (s.setPieces id [{ va := 0, n := 0, loc := .net r }])) s

end Sys2Proof.Machine
end

