-- ==== Sys2Proof/Machine/Distributor.lean ====
section
/-!
DEFINITION. Doorbells and ring commands, device launch queues, waggle handlers, the distributor, and retirement of workgroups
(spec/08_scheduling.md R185 to R203; spec/15_faults.md R395, R398, R399; spec/16_device.md R417, R419).
-/

namespace Sys2Proof.Machine

/-! ## Doorbells (R185, R419) -/

/-- The queue table registers a queue. -/
def Partition.registered (p : Partition) (q : Nat) : Bool := bit ((tget p.qtab q).getD 0).toNat 0

/-- A queue node that a doorbell may ring. -/
def Node.rings (n : Node) (q : Nat) : Bool :=
  n.kind == 2 && n.f 1647 1640 == q && decide (4 ≤ n.f 1652 1648) && decide (n.f 1652 1648 ≤ 16) && n.f 1659 1653 == 0

/-- Writes of the function that the host has posted, or updates forwarded from them, are under way (R85, R417): they carry
workgroup 0 and the function's number. -/
def State.hostForwards (s : State) (p : Nat) : Bool :=
  s.parts.any (fun q => q.2.regions.any (fun r => r.2.updates.any (fun u => u.issuers.any (fun i => i.1 == 0 && i.2.1 == p)))) ||
  s.stages.any (fun e => match e.owner with
    | .host p' _ _ (some _) => p' == p
    | _ => false)

def execDoorbell (part q value : Nat) (s : State) : Out :=
  .next (if !(s.part part).vf || s.hostForwards part then s
    else s.attempt (fun s =>
      let refuse := fun (s : State) (code : Nat) => s.event part code (q % 256 + (if code = 0xB1 then value % 2 ^ 32 * 2 ^ 32 else 0))
      match tget (s.part part).queues q with
      | none => refuse s 0xB0
      | some qu =>
        if !(s.part part).registered q then refuse s 0xB0
        else match readNode s part qu.node with
          | (.error _, s) => refuse s 0xB0
          | (.ok n, s) =>
            if !n.rings q then refuse s 0xB0
            else if 2 ^ n.f 1652 1648 < wrapN ((value : Int) - (n.f 1567 1536 : Nat)) 32 then refuse s 0xB1
            else
              let s := putNode s part qu.node 196 (leBytes 4 value)
              if bit n.r 1663 then s
              else s.modPart part (fun x => { x with queues := tmod x.queues q (fun y => { y with halted := false }) })))

/-! ## Ring commands (R186, R187, R194) -/

/-- What stands at the head of a queue: its number of commands taken, the node, and the command or the fault of its read. -/
structure HeadCmd where
  qu : Queue
  node : Node
  index : Nat
  cmd : Except Nat Nat

/-- The command that the queue may look at: registered, not stopped, not switched out, not empty (R191). -/
def State.headCmd (s : State) (p q : Nat) : Option HeadCmd × State :=
  match tget (s.part p).queues q with
  | none => (none, s)
  | some qu =>
    if !(s.part p).registered q || qu.switched || qu.halted then (none, s)
    else match readNode s p qu.node with
      | (.error _, s) => (none, s)
      | (.ok n, s) =>
        if bit n.r 1663 || n.f 1567 1536 == n.f 1599 1568 then (none, s)
        else
          let x := s.part p
          let a := n.f 1535 1472 + 64 * (n.f 1567 1536 % 2 ^ n.f 1652 1648)
          match readSys s p x.rootAsid x.rootPt a 64 with
          | (.ok b, s) => (some { qu := qu, node := n, index := n.f 1567 1536, cmd := .ok (leNat b) }, s)
          | (.error 0, s) => (none, s)
          | (.error f, s) => (some { qu := qu, node := n, index := n.f 1567 1536, cmd := .error f }, s)

/-- A malformed ring command (R186). -/
def badCommand (c : Nat) : Bool :=
  c / 2 ^ 160 != 0 || bit c 53 || bits c 39 0 != 0 || decide (3 < bits c 63 56) ||
  (bits c 63 56 == 2 && (bits c 159 128 == 0 || decide (65535 < bits c 159 128) || bits c 127 64 % 64 != 0))

/-- The command may start after those before it, a DIGEST-RESET after their links too (R187, R145). -/
def HeadCmd.mayStart (h : HeadCmd) (s : State) (p q c : Nat) : Bool :=
  if bits c 63 56 == 3 then h.qu.cmds.all (·.done) && (s.nextLink p q h.qu).isNone
  else bit c 55 || (match h.qu.cmds.getLast? with
    | some x => x.done
    | none => true)

/-- Take the command: HEAD advances and the command is entered; those completed before it are forgotten. -/
def State.takeCmd (s : State) (p q : Nat) (h : HeadCmd) (run : Option Nat) : State :=
  let s := putNode s p h.qu.node 192 (leBytes 4 (h.index + 1))
  s.modPart p (fun x => { x with queues := tmod x.queues q (fun y => { y with
    cmds := y.cmds.filter (fun c => !c.done) ++ [{ index := h.index, started := true, run := run }] }) })

/-- A command that fails as a failed resolution counts as completed (R191). -/
def State.failCmd (s : State) (p q : Nat) (h : HeadCmd) (rcb : Option Nat) (code : Nat) : State :=
  (s.failResolution p (some q) rcb code h.index).commandDone p q h.index

/-- Value of the guard of a command: none while it holds the queue. -/
def State.guardOf (s : State) (p c : Nat) : Option Bool :=
  if bit c 52 then tget (s.part p).guards (bits c 51 40) else some true

/-- A ring command of a kind at the head of its queue: f runs it, g is its discard under a FALSE guard (R194). A command
that cannot be read or is malformed fails. -/
def State.ringCommand (s : State) (p q opk : Nat) (run discard : State → HeadCmd → Nat → State) : State :=
  s.attempt (fun s =>
    match s.headCmd p q with
    | (none, s) => s
    | (some h, s) =>
      match h.cmd with
      | .error f =>
        if opk = 0 && h.mayStart s p q 0 then (s.takeCmd p q h none).failCmd p q h none f else s
      | .ok c =>
        let mine := bits c 63 56 == opk || (opk == 0 && decide (3 < bits c 63 56))
        if !mine || !h.mayStart s p q c then s
        else if badCommand c then (s.takeCmd p q h none).failCmd p q h none 0xB0
        else match s.guardOf p c with
          | none => s
          | some true => run s h c
          | some false => discard s h c)

/-- Take a command that completes at once. -/
def endAtOnce (p q : Nat) (s : State) (h : HeadCmd) (_ : Nat) : State := (s.takeCmd p q h none).commandDone p q h.index

def execRingCommandNop (part q : Nat) (s : State) : Out := .next (s.ringCommand part q 0 (endAtOnce part q) (endAtOnce part q))

/-- NSEQ of a queue advances (R188). -/
def State.nextNseq (s : State) (p : Nat) (h : HeadCmd) : State :=
  putNode s p h.qu.node 176 (leBytes 8 (h.node.f 1471 1408 + 2 ^ 32))

/-- Resolve the kernel of a LAUNCH command; a discarded one has no workgroups (R188, R190, R194). -/
def launchCommand (p q : Nat) (grid : Option (Nat × Nat × Nat)) (s : State) (h : HeadCmd) (c : Nat) : State :=
  if s.launchesFull p then s
  else
    let s := s.takeCmd p q h none
    match resolve s { part := p, queue := some q, rcb := bits c 127 64, lseq := h.node.f 1471 1408,
                      origin := .command q h.index, priv := h.qu.priv, grid := grid } with
    | (.ok l, s) => (s.nextNseq p h).completeEmpty l
    | (.error f, s) => s.failCmd p q h (some (bits c 127 64)) f

def execRingCommandLaunch (part q : Nat) (s : State) : Out :=
  .next (s.ringCommand part q 1 (launchCommand part q none) (launchCommand part q (some (0, 0, 0))))

/-- Address space of a queue node (R193). -/
def nodeSpace (s : State) (p node : Nat) : Except Nat (Nat × Nat) × State :=
  match chain s p 17 node with
  | (.ok ns, s) => let e := effOf ns 0; (.ok (e.asid, e.ptroot), s)
  | (.error f, s) => (.error f, s)

/-- Start the array of a GRAPH command (R193). -/
def graphCommand (p q : Nat) (s : State) (h : HeadCmd) (c : Nat) : State :=
  let (run, s) := s.newId
  let s := s.takeCmd p q h (some run)
  match nodeSpace s p h.qu.node with
  | (.error f, s) => s.failCmd p q h none f
  | (.ok (asid, root), s) =>
    let r : GraphRun := { part := p, queue := some q, priv := h.qu.priv, asid := asid, root := root,
                          seq := h.node.f 1471 1408, base := bits c 127 64, count := bits c 159 128 }
    match graphArray s r r.count r.base with
    | (.error f, s) => s.failCmd p q h none f
    | (.ok ns, s) => (s.nextNseq p h).startArray run r ns

def execRingCommandGraph (part q : Nat) (s : State) : Out :=
  .next (s.ringCommand part q 2 (graphCommand part q) (endAtOnce part q))

/-- Zero HASH, LOGPTR, BREACH and LOGLOST; REPLAY becomes RPL (R187). -/
def digestReset (p q : Nat) (s : State) (h : HeadCmd) (c : Nat) : State :=
  let s := s.takeCmd p q h none
  let s := putNode s p h.qu.node 224 (List.replicate 32 0)
  let s := putNode s p h.qu.node 200 (List.replicate 5 0)
  let s := putNode s p h.qu.node 207 [if bit c 54 then 0x10 else 0]
  let s := s.modPart p (fun x => { x with queues := tmod x.queues q (fun y => { y with logFull := false, replayed := [] }) })
  s.commandDone p q h.index

def execRingCommandDigestReset (part q : Nat) (s : State) : Out :=
  .next (s.ringCommand part q 3 (digestReset part q) (endAtOnce part q))

/-! ## Device launch queues (R195, R196) -/

/-- The die whose queue a die takes from: its own, or the fullest when it may steal. -/
def State.takeFrom (s : State) (die : Nat) : Option Nat :=
  if !(s.lq die).isEmpty then some die
  else if ((tget s.lqPlaced die).getD 0) < 64 then none
  else
    let v := (List.range Config.dies).foldl (fun m d => if (s.lq m).length < (s.lq d).length then d else m) 0
    if (s.lq v).isEmpty then none else some v

def execLaunchQueueTake (part die : Nat) (s : State) : Out :=
  .next (match s.takeFrom die with
    | none => s
    | some d =>
      match s.lq d with
      | [] => s
      | e :: rest =>
        if e.part != part || s.launchesFull part then s
        else s.attempt (fun s =>
          let s := { s with lqs := tset s.lqs d rest, lqPlaced := tset s.lqPlaced die 0 }
          match resolve s { part := e.part, queue := e.queue, rcb := e.rcb, lseq := e.lseq % 2 ^ 64, origin := .child e.launch,
                            priv := e.priv, grid := some e.grid, ks := [(63, e.k63)] } with
          | (.ok l, s) => ((s.modLaunch l (fun x => { x with die := some die })).completeEmpty l).admitPush d
          | (.error f, s) => (s.failResolution e.part e.queue (some e.rcb) f 0).admitPush d))

/-! ## Waggle handlers (R203) -/

/-- The earliest waggle whose reflection has reached its hive starts its handler (R55, R203). -/
def execWaggleHandlerLaunch (part : Nat) (s : State) : Out :=
  .next (match (s.part part).waggles.find? (·.here) with
    | none => s
    | some w => s.attempt (fun s =>
      let s := s.modPart part (fun q => { q with waggles := q.waggles.filter (fun e => e.id != w.id) })
      let q := s.part part
      let bad := fun (s : State) => s.event part 0xB7 (w.n % 256 + w.hive % 32 * 256) w.ltag
      match readNode s part q.rootRcb with
      | (.error _, s) => bad s
      | (.ok n, s) =>
        match readSys s part q.rootAsid q.rootPt (n.f 1727 1664 + 8 * w.n) 8 with
        | (.error _, s) => bad s
        | (.ok b, s) =>
          let e := leNat b
          if !bit e 0 then bad s
          else match resolve s { part := part, queue := none, rcb := e / 256 * 256, lseq := 0, origin := .waggle, priv := false,
                                 grid := some (1, 1, 1), hiveOnly := some w.hive, handler := true
                                 ks := w.regs.zipIdx.map (fun p => (p.2, p.1)) } with
            | (.ok _, s) => s
            | (.error f, s) => s.event part f 0))

/-! ## The distributor (R197 to R199) -/

/-- Threads of lane L among n. -/
def inLaneOf (n l : Nat) : Nat := (n + 31 - l) / 32

/-- Threads of a workgroup of a launch, and registers of its base frame. -/
def Launch.threads (l : Launch) : Nat := l.wx * l.wy * l.wz
def Launch.frame (l : Launch) : Nat := roundUp l.regs 8

/-- Cores that a launch may use (R182, R196, R197, R395, R426). -/
def State.eligible (s : State) (l : Launch) : List Nat :=
  let q := s.part l.part
  let on := fun (c : Nat) => q.hives.contains (hiveOf c) && !q.leavingHives.contains (hiveOf c)
  match l.origin with
  | .handler _ => (List.range Config.cores).filter on
  | _ =>
    let cs := (List.range Config.cores).filter (fun c => l.eff.hives.testBit (hiveOf c))
    let cs := (if l.eff.ncore = 0 then cs else cs.take l.eff.ncore).filter on
    match l.die with
    | some d => let own := cs.filter (fun c => dieOf c == d); if own.isEmpty then cs else own
    | none => cs

/-- Workgroups that stand on a core. -/
def State.onCore (s : State) (c : Nat) : List (Nat × Workgroup) := s.wgs.filter (fun e => e.2.core == c && e.2.resid != .saved)

/-- Resident workgroups in the subtree of a node that sets WGMAX. -/
def State.inSubtree (s : State) (p addr : Nat) : Nat :=
  (s.wgs.filter (fun e => e.2.resid != .saved && e.2.part == p &&
    ((tget s.launches e.2.launch).map (fun l => l.eff.wgmax.any (fun x => x.1 == addr))).getD false)).length

/-- Registers of a lane that the base frames of a workgroup's threads hold: those of an exited thread, and a base frame that the Swarm engine has spilled, hold
none (R172, R178, R197). -/
def Workgroup.baseRegs (g : Workgroup) (lane : Nat) : Nat :=
  (g.threads.zipIdx.map (fun e => if e.2 % 32 = lane && e.1.st != .exited then
    ((e.1.frames.filter (fun f => f.base && !f.spilled)).map (fun f => roundUp f.decl 8)).sum else 0)).sum

/-- A workgroup of a launch fits on a core, its context slot aside (R197). -/
def State.fitsCore (s : State) (l : Launch) (c : Nat) : Bool :=
  let here := s.onCore c
  let of := fun (f : Launch → Nat) => (here.map (fun e => ((tget s.launches e.2.launch).map f).getD 0)).sum
  decide (here.length < 32) && decide ((here.map (fun e => e.2.grans.length)).sum + l.scrg ≤ 32) &&
  decide (of (·.nbars) + l.nbars ≤ 2048) &&
  (List.range 32).all (fun i =>
    decide ((here.map (fun e => e.2.baseRegs i)).sum + l.frame * inLaneOf l.threads i ≤ 1920) &&
    decide (of (fun x => inLaneOf x.threads i) + inLaneOf l.threads i ≤ 64)) &&
  l.eff.wgmax.all (fun x => decide (s.inSubtree l.part x.1 < x.2))

/-- Chunks of a save area that live workgroups hold: first chunk and count of each (R399). -/
def State.chunksHeld (s : State) (p savebase : Nat) : List (Nat × Nat) :=
  s.wgs.filterMap (fun e => match tget s.launches e.2.launch with
    | some l => if l.part == p && l.eff.savebase == savebase then some e.2.slot else none
    | none => none)

/-- The lowest free run of a launch's save area. -/
def State.slotFor (s : State) (l : Launch) : Option (Nat × Nat) :=
  let n := slotChunks l.threads l.eff.poolg l.scrg
  (freeRun ((l.eff.savesize - 32768) / 65536) n (s.chunksHeld l.part l.eff.savebase)).map (fun i => (i, n))

/-- Order of R198: fault handlers, effective priority, earliest resolution, lower QNUM. -/
def State.placeRank (s : State) (lid : Nat) (l : Launch) : List Nat :=
  [match l.origin with
    | .handler _ => 0
    | _ => 1,
   15 - min 15 (l.eff.prio + (s.now - l.resolvedAt) / 65536), l.resolvedAt, l.queue.getD 0, lid]

/-- The queue of a launch is switched out (R423). -/
def State.switchedOut (s : State) (l : Launch) : Bool :=
  ((l.queue.bind (fun q => tget (s.part l.part).queues q)).map (·.switched)).getD false

/-- A core is reserved for another launch (R198). Of two launches that have reserved it, the first in the order of R198 places
first (R204; notes/assumptions/88.md), and one that is switched out keeps none. -/
def State.reservedFrom (s : State) (lid : Nat) (l : Launch) (c : Nat) : Bool :=
  s.launches.any (fun e => e.1 != lid && e.2.reserved && !s.switchedOut e.2 && (s.eligible e.2).contains c &&
    !(l.reserved && keyLt (s.placeRank lid l) (s.placeRank e.1 e.2)))

/-- The core of least cost, the lower core on ties. -/
def leastCore (cost : Nat → Nat) : List Nat → Option Nat
  | [] => none
  | c :: cs => some (cs.foldl (fun m x => if cost x < cost m || (cost x == cost m && decide (x < m)) then x else m) c)

/-- The core to which the next workgroup of a launch goes (R199, R203, R395). -/
def State.target (s : State) (lid : Nat) (l : Launch) : Option Nat :=
  if (s.slotFor l).isNone then none
  else
    let cs := (s.eligible l).filter (fun c => !s.reservedFrom lid l c && s.fitsCore l c)
    match l.origin with
    | .handler _ => leastCore (fun c => if some (hiveOf c) == l.hiveOnly then 0 else 1) cs
    | .waggle => leastCore (fun c => (s.onCore c).length) cs
    | _ => leastCore (fun c => ((s.onCore c).filter (fun e => e.2.launch == lid)).length) cs

/-- The placement that a die makes next: launch and core. -/
def State.nextPlacement (s : State) (die : Nat) : Option (Nat × Launch × Nat) :=
  let cs := s.launches.filterMap (fun e =>
    if e.2.total ≤ e.2.placed || s.switchedOut e.2 then none
    else (s.target e.1 e.2).bind (fun c => if dieOf c == die then some (e.1, e.2, c) else none))
  match cs with
  | [] => none
  | x :: xs => some (xs.foldl (fun (m y : Nat × Launch × Nat) => if keyLt (s.placeRank y.1 y.2.1) (s.placeRank m.1 m.2.1) then y else m) x)

/-- Add threads with their base frames; none while granules of a lane are not free (R166, R170). -/
def State.addThreads (s : State) (w c regs : Nat) : Nat → Nat → Option State
  | 0, _ => some s
  | n + 1, t =>
    match s.freeGrans c (t % 32) (roundUp regs 8 / 8) with
    | none => none
    | some gs =>
      let (id, s) := s.newId
      let f : Frame := { id := id, base := true, decl := regs, grans := gs, slots := List.replicate (roundUp regs 8) 0 }
      (s.modWg w (fun g => { g with threads := g.threads ++ [{ frames := [f], readyAt := s.now }] })).addThreads w c regs n (t + 1)

/-- Granules for a workgroup of those that none holds on a core (R51). DESIGN CHOICE (notes/assumptions/87.md): which free granules it
is given the spec leaves open; the lowest. -/
def State.freeScratch (s : State) (c n : Nat) : List Nat :=
  let used := s.granulesUsed c
  ((List.range 32).filter (fun i => !used.contains i)).take n

/-- Cycle at which a core's granules of earlier placements are clear. -/
def State.clearFrom (s : State) (c : Nat) : Nat := (s.onCore c).foldl (fun m e => max m e.2.clearAt) s.now

/-- Place the next workgroup of a launch on a core (R51, R113, R151, R199). -/
def State.place (s : State) (lid : Nat) (l : Launch) (c : Nat) : Option State :=
  match s.slotFor l with
  | none => none
  | some slot =>
    let (w, s) := s.newId
    let g : Workgroup := { launch := lid, part := l.part, idx := l.placed, core := c, placedAt := s.now, kregs := l.kargs,
                           grans := s.freeScratch c l.scrg, slot := slot, clearAt := if l.scrg = 0 then s.now else s.clearFrom c + 64 * l.scrg }
    match ({ s with wgs := tset s.wgs w g } : State).addThreads w c l.regs l.threads 0 with
    | none => none
    | some s =>
      let s := s.modLaunch lid (fun l => { l with placed := l.placed + 1, lastPlaced := s.now, reserved := false })
      let s := if l.placed = 0 && l.named then putNode s l.part l.node 3 [2] else s
      let d := dieOf c
      let n := if (s.lq d).isEmpty then (tget s.lqPlaced d).getD 0 + 1 else 0
      some (({ s with lqPlaced := tset s.lqPlaced d n, placeAt := tset s.placeAt d (s.now + 1) }).vacate (hiveOf c) 1)

def execWorkgroupPlace (die : Nat) (s : State) : Out :=
  .next (if s.now < (tget s.placeAt die).getD 0 then s
    else match s.nextPlacement die with
      | none => s
      | some (lid, l, c) => (s.place lid l c).getD s)

/-- A launch that has stood at priority 15 for 65,536 cycles without a placement reserves its cores (R198). -/
def execPriorityReserve (launch : Nat) (s : State) : Out :=
  .next (match tget s.launches launch with
    | none => s
    | some l =>
      let top := l.resolvedAt + (15 - l.eff.prio) * 65536
      if l.placed < l.total && decide (max top l.lastPlaced + 65536 ≤ s.now) then
        s.modLaunch launch (fun l => { l with reserved := true })
      else s)

/-- The granules of a placed workgroup are clear and it starts (R51, R199); a waggle handler starts with an acquire at device
scope (R333). -/
def execGranuleClearComplete (wg : Nat) (s : State) : Out :=
  .next (match s.wg wg with
    | none => s
    | some g =>
      if g.resid != .clearing || s.now < g.clearAt ||
          (!g.grans.isEmpty && (s.onCore g.core).any (fun e => e.2.resid == .clearing && decide (e.2.clearAt < g.clearAt))) then s
      else
        let s := s.modWg wg (fun g => { g with
          resid := .resident
          threads := g.threads.map (fun th => { th with readyAt := s.now }) })
        if (tget s.launches g.launch).any (fun l => l.origin == .waggle) then s.discard g.core .ls (fun _ => true) else s)

/-! ## Retirement (R98, R189) -/

/-- Every thread has exited and every operation of the workgroup has ended. -/
def State.spent (s : State) (w : Nat) (g : Workgroup) : Bool :=
  g.threads.all (fun th => th.st == .exited) && !s.ops.any (fun e => e.2.wg == w && !e.2.done) && g.mq.isEmpty && g.eq.isEmpty &&
  !s.reqs.any (fun e => !e.2.dead && e.2.by_.any (fun b => b.1 == w))

/-- BUSY of HSTAT clears, with RESULT done, once nothing that a switch asked for remains (R418, R423). -/
def State.settleHost (s : State) (p : Nat) : State :=
  if bit (s.part p).hstat.toNat 0 && !s.wgs.any (fun e => e.2.part == p &&
      ((e.2.saveFor == 2 && e.2.resid != .saved) || (e.2.wantBack && e.2.saveFor != 1))) then
    s.modPart p (fun q => { q with hstat := 0 })
  else s

/-- Updates forwarded from a launch's stores are still to be applied: its release waits for them (R85, R121, R189). -/
def State.launchForwards (s : State) (lid : Nat) : Bool :=
  s.parts.any (fun q => q.2.regions.any (fun r => r.2.updates.any (fun u => u.launch == some lid)))

/-- Grant the claims of a core in order while they fit (R366). -/
def State.grantClaims (s : State) (c : Nat) : Nat → State
  | 0 => s
  | n + 1 => (s.grantClaim c).grantClaims c n

def execWorkgroupRetire (wg : Nat) (s : State) : Out :=
  .next (match s.wg wg with
    | none => s
    | some g =>
      let last := (tget s.launches g.launch).any (fun l => l.retired + 1 == l.total)
      if !s.spent wg g || s.combPending wg || s.windowPending wg || (last && s.launchForwards g.launch) then s
      else s.attempt (fun s =>
        let s := s.endMembership wg
        let lost := g.lostWork || g.torn
        let s := { s with wgs := tdel s.wgs wg, ops := s.ops.filter (fun e => e.2.wg != wg) }
        let s := s.modCore g.core (fun k => { k with
          claims := k.claims.filter (fun c => c.wg != wg), needs := k.needs.filter (fun n => n.2.1 != wg)
          latches := k.latches.filter (fun l => l.wg != wg) })
        let s := s.grantClaims g.core (s.core g.core).claims.length
        let s := s.modLaunch g.launch (fun l => { l with retired := l.retired + 1, faulted := l.faulted || lost })
        (match tget s.launches g.launch with
        | some l => if l.retired == l.total then s.completeLaunch g.launch else s
        | none => s).settleHost g.part))

end Sys2Proof.Machine
end

