-- ==== Sys2Proof/Machine/Swarm.lean ====
section
/-!
DEFINITION. The Swarm engine: its triggers, the order of its victims, and spilling a frame (spec/07_execution.md R171 to R174).
-/

namespace Sys2Proof.Machine

/-- A resident frame that may be spilled: rank of R172, its name, workgroup and thread. -/
structure Victim where
  rank : Nat
  frame : Nat
  w : Nat
  t : Nat

/-- A pending write will target the frame. -/
def State.awaited (s : State) (f : Nat) : Bool :=
  s.ops.any (fun e => !e.2.done && e.2.dst.any (fun d => match d with
    | .v g _ => g == f
    | _ => false))

/-- The deepest resident frame of a stack, with the number of frames above it. -/
def deepest (fs : List Frame) : Option (Frame × Nat) :=
  (fs.zipIdx.filter (fun e => !e.1.spilled)).getLast?

/-- Rank of a thread's top frame for the need of another (R172). DESIGN CHOICE (notes/assumptions/104.md): the top frame of another thread in
REFILL-WAIT, which stands in none of the five orders, counts as that of one in FRAME-WAIT; a returning callee is given up without a record. -/
def topRank (own : Bool) (th : Thread) : Nat :=
  if own then 5
  else match th.st with
    | .parked _ => 2
    | .gathering _ => 2
    | .frameWait => 3
    | .refillWait => 3
    | _ => 4

/-- The victim that a thread offers: its deepest resident frame, unless a write is on its way to it or it is fresh. -/
def State.victimOf (s : State) (w t : Nat) (th : Thread) (nw nt : Nat) : Option Victim :=
  match deepest th.frames with
  | none => none
  | some (f, i) =>
    if f.fresh || s.awaited f.id then none
    else some { rank := if i = 0 then topRank (w == nw && t == nt) th else 1, frame := f.id, w := w, t := t }

/-- The first victim for a need, among frames not given up in this run: lowest rank, then oldest. DESIGN CHOICE
(notes/assumptions/104.md): the age of a frame counts from its first allocation, a refill aside. -/
def State.victim (s : State) (core nw nt size : Nat) (skip : List Nat) : Option Victim :=
  let lane := nt % 32
  let poolOnly := match s.wg nw with
    | some g => decide (8 * (s.eff nw).poolg < g.laneRegs lane + size) && (s.freeGrans core lane (size / 8)).isSome
    | none => false
  let vs := s.wgs.flatMap (fun e =>
    if e.2.core != core || e.2.resid == .saved || (poolOnly && e.1 != nw) then []
    else e.2.threads.zipIdx.filterMap (fun p => if p.2 % 32 == lane then s.victimOf e.1 p.2 p.1 nw nt else none))
  (vs.filter (fun v => !skip.contains v.frame)).foldl (fun (m : Option Victim) v => match m with
    | none => some v
    | some b => if v.rank < b.rank || (v.rank == b.rank && v.frame < b.frame) then some v else m) none

/-- The window words go into the frame above, which then holds them itself, with the marks of words in error (R172 step 1,
R411). -/
def hoist (f : Frame) : Frame → Frame := fun g =>
  if g.base || g.args = 0 || g.spl then g
  else ({ g with
    slots := (f.slots.drop g.win).take g.args ++ g.slots.drop g.args
    bad := g.bad.filter (fun i => g.args ≤ i) ++ f.bad.filterMap (fun i =>
      if g.win ≤ i && decide (i < g.win + g.args) then some (i - g.win) else none) } : Frame).setSpl true

/-- Spill the deepest resident frame of a thread: done, or the fault that its thread gets, with its address; code 0 waits for the
host (R30, R172, R173). -/
def State.spill (s : State) (w t : Nat) : Except (Nat × Nat) Unit × State :=
  match s.thread w t with
  | none => (.ok (), s)
  | some th =>
    match deepest th.frames with
    | none => (.ok (), s)
    | some (f, i) =>
      let top := th.sptop
      let size := (s.eff w).spsize
      if size < top + f.recBytes then (.error (0x72, s.spillBase w t + top), s)
      else
        let depth := th.frames.length - 1 - i
        let rec_ := (f.regsHeld.flatMap (fun x => leBytes 8 x.toNat)) ++ leBytes 8 (spillHeader depth t f.size)
        match s.spillWrite w top t rec_ with
        | (.error (0, a), r) => (.error (0, a), s.asked r)
        | (.error e, s) => (.error e, s)
        | (.ok _, s) =>
          let above := th.frames.take i
          let above := match above.reverse with
            | g :: gs => (hoist f g :: gs).reverse
            | [] => []
          (.ok (), (s.modThread w t (fun th => { th with
            frames := above ++ { f with spilled := true, grans := [] } :: th.frames.drop (i + 1), sptop := top + f.recBytes })).dropLatches w t)

/-- A returning callee is freed, its marks of words in error with the caller; what its record does not hold yet the caller's refill brings
(R174). -/
def State.leaveCallee (s : State) (w t : Nat) (late : Bool) : State :=
  match (s.thread w t).map (·.frames) with
  | some (f :: caller :: _) =>
    let ws := f.slots.take f.args
    let marks := fun (g : Frame) => { g with
      bad := g.bad.filter (fun i => !(f.win ≤ i && decide (i < f.win + f.args))) ++
        f.bad.filterMap (fun i => if i < f.args then some (f.win + i) else none) }
    let s := if !f.spl then s else s.modThread w t (fun th => { th with
      frames := th.frames.map (fun g => if g.id != caller.id then g else marks (if g.stored then g.putSlots f.win ws else g)) })
    let s := if late then s.keepLate w t caller f.win ws else s
    (s.modThread w t (fun th => { th with frames := th.frames.drop 1, returning := false })).dropLatches w t
  | _ => s

/-- A returning callee is not spilled: its arguments go into the caller's record and it is freed (R174); or the fault of that write,
after which the frame stays where it was (R30). -/
def State.takeCallee (s : State) (w t : Nat) : Option (Nat × Nat) × State :=
  match (s.thread w t).map (·.frames) with
  | some (f :: caller :: below) =>
    if !f.spl || f.args = 0 || caller.stored then (none, s.leaveCallee w t false)
    else match s.spillWrite w (recOffset below + 8 * f.win) t ((f.slots.take f.args).flatMap (fun x => leBytes 8 x.toNat)) with
      | (.ok _, s) => (none, s.leaveCallee w t false)
      | (.error (0, _), r) => (none, (s.asked r).leaveCallee w t true)
      | (.error e, s) => (some e, s)
  | _ => (none, s)

/-- Serve a victim: nothing more, or a frame given up for this run. A returning callee that cannot be taken ends the wait of its thread
with the fault (R30), as a refill that fails does. -/
def State.evict (s : State) (core : Nat) (v : Victim) : Option Nat × State :=
  match s.thread v.w v.t with
  | none => (none, s)
  | some th =>
    if th.returning && v.rank != 1 then
      match s.takeCallee v.w v.t with
      | (none, s) => (none, s)
      | (some (code, addr), s) => (some v.frame, (s.swarmFault v.w v.t code th.pc.toNat addr).dropNeed core v.w v.t)
    else match s.spill v.w v.t with
      | (.ok _, s) => (none, s)
      | (.error (0, _), s) => (some v.frame, s.modCore core (fun k => { k with swarming := true }))
      | (.error (code, addr), s) =>
        (some v.frame, s.deferTo v.w v.t { op := 0, code := code, spc := th.pc.toNat, addr := addr })

/-- Size of a need. -/
def Thread.needSize (th : Thread) : Nat :=
  match th.st, th.call with
  | .frameWait, some c => roundUp (c.demand + 1) 8
  | _, _ => ((if th.returning then th.frames.drop 1 else th.frames).head?.map (·.size)).getD 0

/-- The run of the engine: the oldest need of the core is granted, or a victim is taken for it, whose registers serve every need of
the lane that then fits (R170); it stops when no need remains or the oldest has no victim. Where the record of a need that fits, or a page
of a victim, is on its way, the run goes on when it has come. -/
def State.swarm (s : State) (core : Nat) : Nat → List Nat → State
  | 0, _ => s
  | fuel + 1, skip =>
    match (s.core core).needs with
    | [] => s
    | n :: _ =>
      match s.grantOne n.2.1 n.2.2 with
      | (true, s) => (s.dropNeed core n.2.1 n.2.2).swarm core fuel skip
      | (false, s) =>
        match s.thread n.2.1 n.2.2 with
        | none => s
        | some th =>
          if (s.fits n.2.1 n.2.2 th.needSize).isSome then s.modCore core (fun k => { k with swarming := true })
          else match s.victim core n.2.1 n.2.2 th.needSize skip with
            | none => s
            | some v =>
              match s.evict core v with
              | (none, s) => (s.grantCore core).swarm core fuel skip
              | (some f, s) => s.swarm core fuel (f :: skip)

/-- The engine's triggers, and that it has not stopped (R171, R152). -/
def State.swarmTrigger (s : State) (core : Nat) : Bool :=
  let k := s.core core
  let late := k.needs.any (fun n => ((s.thread n.2.1 n.2.2).map (fun th => decide (th.needAt + 4096 ≤ s.now))).getD false)
  let stuck := s.wgs.all (fun e => e.2.core != core || e.2.resid != .resident || e.2.threads.all (fun th => match th.st with
    | .run => false
    | _ => true))
  !k.needs.isEmpty && (late || stuck || k.swarming)

def execSwarmStart (core : Nat) (s : State) : Out :=
  .next (if s.swarmTrigger core then
      (s.modCore core (fun k => { k with swarming := false })).swarm core ((s.wgs.map (fun e => (e.2.threads.map (fun th => th.frames.length)).sum)).sum + 2 * (s.core core).needs.length + 1) []
    else s)

end Sys2Proof.Machine
end

