-- ==== Sys2Proof/Machine/Context.lean ====
section
/-!
DEFINITION. Teardown, the actions of a released fault record, and saving and restoring a workgroup (spec/15_faults.md R394 to
R405; spec/16_device.md R422; spec/05_comb.md R115 to R117; spec/06_ordering.md R147).
-/

namespace Sys2Proof.Machine

/-! ## Teardown (R398) -/

/-- Ordered entries of a workgroup that have not been applied are discarded, and their operations end without effect. -/
def State.dropOrdered (s : State) (w : Nat) : State :=
  let ids := s.slices.flatMap (fun (e : Nat × Slice) =>
    (e.2.buffer ++ e.2.arriving).filterMap (fun x => if x.wg == w then some x.op else none))
  { s with
    slices := s.slices.map (fun (e : Nat × Slice) => (e.1, { e.2 with
      buffer := e.2.buffer.filter (fun x => x.wg != w), arriving := e.2.arriving.filter (fun x => x.wg != w)
      floors := tdel e.2.floors w }))
    ops := s.ops.filter (fun e => !ids.contains e.1) }

/-- A thread of a torn-down workgroup exits. -/
def State.killThread (s : State) (w t : Nat) : State :=
  ((s.unpark w t).freeFrames w t).modThread w t (fun th => { th with
    st := .exited, hold := none, call := none, loop := none, faults := [], xfails := [], unwindX := none, serial := false })

/-- The workgroup for which an access of the hardware is made. -/
def State.ownerWg (s : State) : Owner → Option Nat
  | .unit op _ => (tget s.ops op).map (·.wg)
  | .tile op => (tget s.ops op).map (·.wg)
  | .thread w _ => some w
  | .swarm w _ => some w
  | _ => none

/-- Who asks the host for a page is a thread of the workgroup, or its hardware, whose access has not ended but for its stores. -/
def State.askerOf (s : State) (w : Nat) : Asker → Bool
  | .threads v _ => v == w
  | .owner o => s.ownerWg o == some w && !((s.stage o).map (·.writing)).getD false
  | .turn _ => false

/-- Stores of an access of the workgroup's hardware, or of its Swarm engine, are on their way. -/
def State.storesOut (s : State) (w : Nat) : Bool :=
  s.stages.any (fun e => e.writing && s.ownerWg e.owner == some w) || s.reqs.any (fun r => !r.2.dead && r.2.by_.any (fun b => b.1 == w))

/-- What the hardware has read for a workgroup, and what its threads ask of translations, is given up. -/
def State.dropReads (s : State) (w core : Nat) : State :=
  ({ s with
      stages := s.stages.filter (fun e => e.writing || s.ownerWg e.owner != some w)
      atsAsk := s.atsAsk.filter (fun e => !s.askerOf w e.asker)
      atsBad := s.atsBad.filter (fun e => !s.askerOf w e.1) } : State).modCore core (fun k => { k with
    misses := k.misses.map (fun (m : Nat × Miss) => (m.1, { m.2 with asks := m.2.asks.filter (fun q => q.wg != w) }))
    held := if k.held.any (fun h => h.1 == w) then none else k.held })

/-- Tear a workgroup down, resident or saved: its threads exit, what they are parked on forgets them, its operations and
engine commands run on, and WORKGROUP_RETIRE releases the rest. -/
def State.teardown (s : State) (w : Nat) : State :=
  match s.wg w with
  | none => s
  | some g =>
    let s := (List.range g.threads.length).foldl (fun (s : State) t => s.killThread w t) s
    let s := s.dropOrdered w
    let s := { s with
      ops := s.ops.map (fun (e : Nat × Op) => if e.2.wg == w then (e.1, { e.2 with waiters := [] }) else e)
      kind2s := s.kind2s.filter (fun e => !(e.2.wg == w && e.2.eng.isNone)) }
    let s := s.dropReads w g.core
    let ids := s.records.filterMap (fun e => if e.2.wg == w && e.2.eng.isNone then some e.1 else none)
    let s := ids.foldl State.clearRecord s
    ((s.modCore g.core (fun k => { k with claims := k.claims.filter (fun c => !(c.wg == w && c.op == 0)) })).modWg w
      (fun g => { g with torn := true, saveFor := 0, wantBack := false, elections := [] })).settleHost g.part

/-! ## The actions of a response (R394, R396, R397, R422) -/

/-- Threads named that are still parked on a place. -/
def State.stillParked (s : State) (w : Nat) (tids : List Nat) (p : Park) : List Nat :=
  tids.filter (fun t => ((s.thread w t).map (fun (th : Thread) => th.st == .parked p)).getD false)

/-- ACTION 1: unwind now, or at the restore of a saved workgroup, which keeps the record's second line for that; the threads without
a handler frame are left. -/
def State.unwindAll (s : State) (w line : Nat) (x : Word) (ts : List Nat) : List Nat × State :=
  let saved := ((s.wg w).map (fun g => g.resid == .saved)).getD false
  ts.foldl (fun (acc : List Nat × State) t =>
    if saved then (acc.1, acc.2.modThread w t (fun th => { th with st := .run, unwindX := some (x, line) }))
    else match acc.2.unwind w t x with
      | some s => (acc.1, s)
      | none => (acc.1 ++ [t], acc.2)) ([], s)

/-- Every line of a workgroup's core's L1 is discarded before its next issue. -/
def State.wakeAcquire (s : State) (w : Nat) : State :=
  match s.wg w with
  | some g => if g.resid == .saved then s else s.discard g.core .ls (fun _ => true)
  | none => s

/-- Fault context of a second line, for its escalation. -/
def lineCtx (w line : Nat) (tids : List Nat) (eng : Option Nat) : FaultCtx :=
  { w := w, tids := tids, code := bits line 367 360, spc := bits line 415 392, epc := bits line 391 368,
    faddr := bits line 255 192, tval := bits line 191 128, deferred := bit line 289, eng := eng }

/-- Act on the threads or the command of a response; ACTION 3 and above is the caller's. The threads whose unwind meets no handler frame are
escalated, with the record that they are parked on. -/
def State.respond (s : State) (w line action rpc : Nat) (value : Word) (ts : List Nat) (eng rc : Option Nat) : State :=
  match eng, action with
  | some c, 0 => s.resumeEngine w c
  | _, 2 => s.teardown w
  | none, 0 => (s.wakeAcquire w).resumeAt w rpc ts
  | none, 1 =>
    let (left, s) := (s.wakeAcquire w).unwindAll w line value ts
    if left.isEmpty then s
    else
      let c := lineCtx w line left none
      s.escalate c (c.line s) rc
  | _, _ => s

/-- A released record acts on the threads that it names and that are still parked on it, or on its command; then it is
cleared and free (R394), unless it waits with threads that were escalated (R420). -/
def execFaultRecordRelease (rec : Nat) (s : State) : Out :=
  .next (match tget s.records rec with
    | none => s
    | some r =>
      match r.answer with
      | none => s
      | some line =>
        if r.escalated then s
        else
        let action := bits line 423 416
        let ts := s.stillParked r.wg r.tids (.record rec)
        if (s.wg r.wg).isNone then s.clearRecord rec
        else if 3 ≤ action || (r.eng.isSome && action == 1) then
          let c := lineCtx r.wg line (if r.eng.isSome then r.tids else ts) r.eng
          s.escalate c (leBytes 64 line) (some rec)
        else
          let s := s.respond r.wg line action (bits line 447 424) (ofN (bits line 511 448)) ts r.eng (some rec)
          if action == 1 && (tget s.records rec).any (·.escalated) then s else s.clearRecord rec)

/-- The host's response to entry n of the fault queue (R422). -/
def State.respondEntry (s : State) (part value : Nat) : State :=
  match s.kind2s.find? (fun e => e.2.part == part && e.2.seqno == bits value 31 0) with
  | none => s
  | some (id, k) =>
    let action := bits value 39 32
    if 3 ≤ action || (k.eng.isSome && action == 1) then s
    else
      let ts := s.stillParked k.wg k.tids (.entry id)
      let s := { s with kind2s := tdel s.kind2s id }
      s.respond k.wg k.line action (bits value 63 40) (s.part part).fqresp0 ts k.eng none

/-! ## Saving (R401) -/

/-- A resident frame goes to the Frames section (R178). -/
def State.storeFrame (s : State) (w t : Nat) : State :=
  s.modThread w t (fun th => match deepest th.frames with
    | none => th
    | some (f, i) =>
      let above := match (th.frames.take i).reverse with
        | g :: gs => (hoist f g :: gs).reverse
        | [] => []
      { th with frames := above ++ { f with spilled := true, stored := true, grans := [] } :: th.frames.drop (i + 1) })

/-- Spill every frame of a thread, deepest first; a frame that does not fit its spill stack is stored (R178). False while a page
of the stack waits for the host. -/
def State.spillAll (s : State) (w t : Nat) : Nat → Bool × State
  | 0 => (true, s)
  | n + 1 =>
    match ((s.thread w t).map (·.frames)).bind deepest with
    | none => (true, s)
    | some _ =>
      match s.spill w t with
      | (.ok _, s) => s.spillAll w t n
      | (.error (0, _), s) => (false, s)
      | (.error _, s) => (s.storeFrame w t).spillAll w t n

/-- The call that a thread parked in a callee queue has made: it is pending again, and the frame it was granted is free (R339,
R401). -/
def State.unqueue (s : State) (w t : Nat) : State :=
  match s.thread w t with
  | none => s
  | some th =>
    match th.st, th.frames with
    | .parked (.calleeQ q _ target), f :: below =>
      s.modThread w t (fun th => { th with
        frames := below, st := .frameWait
        call := some { demand := f.decl, window := f.win, args := f.args, target := target
                       handler := if f.hnd then some f.hoff else none, queue := some q } })
    | _, _ => s

/-- Step 4 of R401: every frame of a thread leaves the core; false while the host is waited for. -/
def spillThread (w n : Nat) (acc : Bool × State) (t : Nat) : Bool × State :=
  if !acc.1 then acc
  else
    let s := acc.2.unqueue w t
    let ret := ((s.thread w t).map (fun (th : Thread) => th.returning)).getD false
    (if ret then (match s.takeCallee w t with
      | (none, s) => s
      | (some _, s) => s.leaveCallee w t true) else s).spillAll w t n

/-- An epi that waits for its cell (R382). -/
def State.parkedEpi (s : State) (id : Nat) : Bool := s.dirs.any (fun d => d.2.cells.any (fun c => c.2.definers.any (fun x => x.id == some id)))

/-- What must end before the sections are written: operations of the load, store and aggregate classes, tile operations, forwarded
updates and requests under way. An epi that waits for its cell stays, once nothing stands behind it in the matrix order (R115). -/
def State.quiet (s : State) (w : Nat) (g : Workgroup) : Bool :=
  !s.ops.any (fun e => e.2.wg == w && !e.2.done && !e.2.ordered &&
    (e.2.cls == some .ld || e.2.cls == some .st || e.2.cls == some .ag || e.2.kind == .leave || e.2.kind == .ring)) &&
  !s.reqs.any (fun r => !r.2.dead && ((r.2.op.bind (fun o => tget s.ops o)).map (fun (o : Op) => o.wg == w)).getD false) &&
  !(s.part g.part).regions.any (fun r => r.2.updates.any (fun u => u.issuers.any (fun i => i.1 == w))) &&
  !s.storesOut w &&
  (match g.mq with
    | [] => true
    | [id] => s.parkedEpi id
    | _ => false)

/-- Write a section: its payload in the device's encoding, and the trailer with its CRC-32 (R400). -/
def State.writeSection (s : State) (w : Nat) (sec : Nat × Nat) : State :=
  match s.wg w with
  | none => s
  | some g =>
    let e := s.eff w
    let pay := deviceBytes s.fresh (sec.2 - 64)
    (writeSys { s with fresh := s.fresh + 1 } g.part e.asid e.ptroot (s.slotBase w + sec.1)
      (pay ++ leBytes 64 (crc32 pay))).2

/-- Grant the needs of every lane of a core (R170). -/
def State.grantLanes (s : State) (c : Nat) : State :=
  (List.range 32).foldl (fun (s : State) l => s.grantLane c l (s.core c).needs.length) s

/-- A thread as its context holds it: a sleep keeps the cycles that remain (R358); one that waits for the host will make its
access again. -/
def Thread.saved (now : Nat) (th : Thread) : Thread :=
  { th with stallTo := none, yieldTo := none, serial := false, backTop := false, xfails := []
            st := match th.st with
              | .parked (.sleep n) => .parked (.sleep (n - now))
              | .parked .hostPage => .run
              | st => st }

/-- Definers of a workgroup that wait for a cell: f on the bytes kept for each. -/
def State.modSources (s : State) (w : Nat) (f : CombWait → Option (List Byte)) : State :=
  { s with dirs := s.dirs.map (fun (d : Nat × Dir) => (d.1, { d.2 with cells := d.2.cells.map (fun (c : Nat × Cell) =>
      (c.1, { c.2 with definers := c.2.definers.map (fun (x : CombWait) => if x.wg == w then { x with src := f x } else x) })) })) }

/-- The source bytes of parked definers are those that stand at the save (R116). -/
def State.keepSources (s : State) (w : Nat) : State :=
  s.modSources w (fun x => if x.id.isSome then none else some (s.defSource w x.shape x.op))

def execWorkgroupSave (wg : Nat) (s : State) : Out :=
  .next (match s.wg wg with
    | none => s
    | some g =>
      if g.saveFor = 0 || g.resid != .resident then s
      else
        let late := g.which (fun th => th.st == .run && !th.faults.isEmpty && !th.waitsOp)
        if !late.isEmpty then late.foldl (fun (s : State) t => s.deliverDeferred wg t) s
        else if !s.quiet wg g then s
        else
          let n := (g.threads.map (fun th => th.frames.length)).sum + 1
          match (List.range g.threads.length).foldl (spillThread wg n) (true, s) with
          | (false, s) => s
          | (true, s) =>
          if s.storesOut wg then s
          else s.attempt (fun s =>
          let s := (s.keepSources wg).dropReads wg g.core
          let s := (s.sections wg).foldl (fun (s : State) x => s.writeSection wg x) s
          let (id, s) := s.newId
          let s := s.modWg wg (fun g => { g with
            resid := .saved, savedAt := id, evicted := [], threads := g.threads.map (Thread.saved s.now) })
          let s := s.modCore g.core (fun k => { k with
            claims := k.claims.filter (fun c => c.wg != wg), needs := k.needs.filter (fun x => x.2.1 != wg)
            latches := k.latches.filter (fun l => l.wg != wg) })
          let s := (s.grantClaims g.core (s.core g.core).claims.length).grantLanes g.core
          let nm := s.wgName wg
          let s := if g.saveFor = 3 then s.post g.part { kind := 4, cause := 0, ltag := nm.1, wgidx := nm.2 } else s
          s.settleHost g.part))

/-! ## Restoring (R402, R405) -/

/-- Cores on which a saved workgroup may be restored: its own hive while it is a member of a comb group. -/
def State.homeCores (s : State) (g : Workgroup) (l : Launch) : List Nat :=
  match g.group with
  | some d => (s.eligible { l with die := none }).filter (fun c => hiveOf c == d / 4)
  | none => s.eligible { l with die := none }

/-- The next to be restored of those saved for one reason in one queue, in the order of their saves (R423). -/
def State.firstBack (s : State) (g : Workgroup) : Bool :=
  let q := fun (g : Workgroup) => (tget s.launches g.launch).bind (·.queue)
  !s.wgs.any (fun e => e.2.wantBack && e.2.part == g.part && e.2.saveFor == g.saveFor && q e.2 == q g &&
    decide (e.2.savedAt < g.savedAt))

/-- Faults that reached a thread while it was saved are delivered (R116, R426, R456). -/
def State.backFaults (s : State) (w t : Nat) : State :=
  match s.thread w t with
  | some th => if th.faults.isEmpty then s else if th.st == .run then s.deliverDeferred w t else s.meetFault w t
  | none => s

/-- The first section whose CRC-32 differs from its trailer (R405). -/
def State.badSection (s : State) (w : Nat) : Option Nat × State :=
  match s.wg w with
  | none => (none, s)
  | some g =>
    let e := s.eff w
    let base := s.slotBase w
    (s.sections w).zipIdx.foldl (fun (acc : Option Nat × State) x =>
      match acc with
      | (some i, s) => (some i, s)
      | (none, s) => match readSys s g.part e.asid e.ptroot (base + x.1.1) x.1.2 with
        | (.ok b, s) => (if crc32 (b.take (x.1.2 - 64)) == leNat ((b.drop (x.1.2 - 64)).take 4) then none else some x.2, s)
        | (.error _, s) => (some x.2, s)) (none, s)

/-- The top frame of a thread comes back as a need of its lane, and the thread stays in its state (R178, R402). -/
def State.backThread (s : State) (w t : Nat) : State :=
  match s.thread w t with
  | none => s
  | some th =>
    match th.st with
    | .exited => s
    | .frameWait => s.need w t (fun x => { x with backTop := th.topSpilled })
    | .run => if th.topSpilled then s.need w t (fun x => { x with st := .refillWait }) else s
    | .refillWait => s.need w t (fun x => x)
    | _ => if th.topSpilled then s.need w t (fun x => { x with backTop := true }) else s

/-- The unwind that a release left to the restore; with no handler frame the fault is escalated as its record held it (R396,
R397). -/
def State.backUnwind (s : State) (w t : Nat) : State :=
  match (s.thread w t).bind (·.unwindX) with
  | none => s
  | some (x, line) =>
    let s := s.modThread w t (fun th => { th with unwindX := none })
    match s.unwind w t x with
    | some s => s
    | none =>
      let c := lineCtx w line [t] none
      s.escalate c (c.line s) none

/-- A restore waits for the entry of kind 4 of its workgroup's halt to be posted, and for room for the entries of kind 2 that its unwinds
will need (R420). -/
def State.entriesDue (s : State) (w : Nat) (g : Workgroup) : Bool :=
  let q := s.part g.part
  let nm := s.wgName w
  (q.posts ++ q.held).any (fun e => e.kind == 4 && e.ltag == nm.1 && e.wgidx == nm.2) ||
  (s.queueFull g.part && (List.range g.threads.length).any (fun t =>
    match (s.thread w t).bind (·.unwindX) with
    | some (x, _) => (s.unwind w t x).isNone
    | none => false))

/-- A saved workgroup is placed on a core that fits, checked and resumed, once what the directory has begun for it is done (R116);
its granules are cleared before it issues (R51). bad names a section whose stored bytes fail. -/
def execWorkgroupRestore (wg core : Nat) (bad : Option Nat) (s : State) : Out :=
  .next (match s.wg wg, s.launchOf wg with
    | some g, some l =>
      if g.resid != .saved || !g.wantBack || !s.firstBack g || !(s.homeCores g l).contains core || !s.fitsCore l core ||
          s.reservedFrom g.launch l core || !g.mq.all s.parkedEpi || s.entriesDue wg g then s
      else s.attempt (fun s =>
        match (match bad with
          | some i => (some (min i 4), s)
          | none => s.badSection wg) with
        | (some i, s) =>
          let nm := s.wgName wg
          ((s.teardown wg).event g.part 0xB9 i nm.1 nm.2).settleHost g.part
        | (none, s) =>
          let grans := s.freeScratch core g.grans.length
          let s := (s.modWg wg (fun g => { g with
            resid := .clearing, core := core, grans := grans, wantBack := false, saveFor := 0, placedAt := s.now
            clearAt := if grans.isEmpty then s.now else s.clearFrom core + 64 * grans.length
            evicted := [0, 1, 2]
            threads := g.threads.map (fun (th : Thread) => { th with
              readyAt := s.now
              st := match th.st with
                | .parked (.sleep n) => .parked (.sleep (s.now + n))
                | st => st }) })).vacate (hiveOf core) 1
          let s := s.discard core .ls (fun _ => true)
          let s := s.modSources wg (fun _ => none)
          let s := (List.range g.threads.length).foldl (fun (s : State) t => s.backThread wg t) s
          let s := (List.range g.threads.length).foldl (fun (s : State) t => (s.backUnwind wg t).backFaults wg t) s
          let s := { s with ops := s.ops.map (fun (e : Nat × Op) => if e.2.wg == wg then (e.1, { e.2 with core := core }) else e) }
          s.settleHost g.part)
    | _, _ => s)

end Sys2Proof.Machine
end

