-- ==== Sys2Proof/Machine/FaultQueue.lean ====
section
/-!
DEFINITION. The fault queue, fatal errors and the dump, power, firmware and module reset (spec/15_faults.md R413, R414;
spec/16_device.md R417, R420, R421, R431 to R433).
-/

namespace Sys2Proof.Machine

/-! ## The fault queue (R420) -/

/-- A register of the page, 0 where nothing has been written (R418). -/
def Partition.reg (q : Partition) (off : Nat) : Nat := ((tget q.regs off).getD 0).toNat

/-- The host address of a host I/O virtual address that the device uses untranslated: the host's own translation of a page
that it has given by ATS, else the address itself (notes/assumptions/64.md). -/
def State.ioAddr (s : State) (p io : Nat) : Nat :=
  match s.ats.find? (fun e => e.part == p && e.base == io / 2 ^ e.size * 2 ^ e.size) with
  | some e => e.ha + io % 2 ^ e.size
  | none => io

/-- The ring is enabled and has room, and the host can be reached. -/
def State.ringRoom (s : State) (p : Nat) : Bool :=
  let q := s.part p
  s.link && bit (q.reg 0x1008) 8 && decide (wrapN ((q.fqtail : Int) - (q.reg 0x1010 : Nat)) 32 < 2 ^ bits (q.reg 0x1008) 4 0)

/-- The 128 bytes of an entry. -/
def entryBytes (s : State) (p : Nat) (e : Post) : List Byte :=
  leBytes 64 ((s.now + Config.clockSkew 0) % 2 ^ 64 * 2 ^ 256 + e.info % 2 ^ 64 * 2 ^ 192 + e.wgidx % 2 ^ 28 * 2 ^ 104 +
    e.ltag % 2 ^ 24 * 2 ^ 80 + p % 16 * 2 ^ 76 + e.kind % 16 * 2 ^ 72 + e.cause % 256 * 2 ^ 64 + e.recaddr % 2 ^ 64) ++
  (e.second ++ List.replicate 64 0).take 64

/-- An entry of kind 2 that could not be held has been posted: its threads park on it and its record is cleared. -/
def State.settleEntry (s : State) (e : Post) : State :=
  match e.rc, tget s.kind2s e.ref with
  | some r, some k =>
    let ts := if k.eng.isSome then [] else s.stillParked k.wg k.tids (.record r)
    (s.parkOn k.wg ts (.entry e.ref)).clearRecord r
  | some r, none => s.clearRecord r
  | none, _ => s

/-- Post an entry: it is written, FQTAIL advances, vector 0 is signalled. -/
def State.postNow (s : State) (p : Nat) (e : Post) : State :=
  let q := s.part p
  let a := s.ioAddr p (q.reg 0x1000 + 128 * (q.fqtail % 2 ^ bits (q.reg 0x1008) 4 0))
  let s := { s with
    host := memWrite s.host a (entryBytes s p e)
    kind2s := if e.kind = 2 then tmod s.kind2s e.ref (fun k => { k with seqno := q.fqtail }) else s.kind2s }
  ((s.modPart p (fun q => { q with fqtail := (q.fqtail + 1) % 2 ^ 32 })).settleEntry e).signal p 0

/-- The oldest entry goes into the ring, or is held; a discarded event is counted. -/
def execFaultQueuePost (part : Nat) (s : State) : Out :=
  .next (match (s.part part).posts with
    | [] => s
    | e :: rest =>
      let q := s.part part
      if q.held.isEmpty && s.ringRoom part then (s.modPart part (fun q => { q with posts := rest })).postNow part e
      else if q.held.length < 256 then s.modPart part (fun q => { q with posts := rest, held := q.held ++ [e] })
      else match q.posts.find? (fun e => e.kind == 3) with
        | some e => s.modPart part (fun q => { q with
            posts := q.posts.erase e, lost := (q.lost + 1) % 2 ^ 32, ovf := true })
        | none => s)

def execFaultQueueDrain (part : Nat) (s : State) : Out :=
  .next (match (s.part part).held with
    | [] => s
    | e :: rest => if s.ringRoom part then (s.modPart part (fun q => { q with held := rest })).postNow part e else s)

/-! ## Fatal errors (R413, R414) -/

/-- First byte of the dump area. -/
def dumpBase : Nat := 0x8_4000_0000

/-- Header of a dump. -/
def dumpHeader (origin time : Nat) (body : List Byte) : List Byte :=
  leBytes 64 (leNat (sha3 body) * 2 ^ 256 + body.length % 2 ^ 64 * 2 ^ 192 + time % 2 ^ 64 * 2 ^ 128 + origin % 2 ^ 64 * 2 ^ 64 +
    0xE7 * 2 ^ 56 + 1 * 2 ^ 48 + 0x435A_3944_4D50)

/-! ### The body of a dump: R400 and R414 leave its encoding to the device -/

/-- The payload of a section of a workgroup's slot, in the device's encoding. -/
opaque dumpPayload : Workgroup → Nat → List Byte
/-- A core's tables. -/
opaque dumpCore : Core → List Byte
/-- A slice's region, binding and guard tables, which it holds for its partition, its ordered-atomic buffer, window records and
congestion word. -/
opaque dumpSlice : Slice → Tab Region → List Binding → Tab Bool → List Window → List Byte
/-- A die's walker state, launch queue and rate words. -/
opaque dumpDie : List WalkEnt → List Miss → List Child → List Nat → List Byte

/-- A workgroup in the slot layout of R400. -/
def State.dumpSlot (s : State) (w : Nat) (g : Workgroup) : List Byte :=
  (s.sections w).zipIdx.flatMap (fun x =>
    let pay := (dumpPayload g x.2 ++ List.replicate (x.1.2 - 64) 0).take (x.1.2 - 64)
    pay ++ leBytes 64 (crc32 pay))

/-- The body of a dump in its order (R414): cores with their resident workgroups, slices, dies, the channels' error counts. -/
def State.dumpBody (s : State) : List Byte :=
  (List.range Config.cores).flatMap (fun c =>
    (s.onCore c).flatMap (fun e => s.dumpSlot e.1 e.2) ++ dumpCore (s.core c)) ++
  (List.range Config.slices).flatMap (fun n =>
    let q := ((s.parts.find? (fun e => e.2.slices.contains n)).map (·.2)).getD {}
    dumpSlice (s.slice n) q.regions q.bindings q.guards (s.windows.filter (fun w => w.slice == n))) ++
  (List.range Config.dies).flatMap (fun d =>
    dumpDie ((tget s.walks d).getD []) ((s.dieMisses d (fun _ => true)).map (·.2.2)) (s.lq d)
      ((s.buckets.filter (fun b => b.1 == d)).map (·.2.2.1))) ++
  (List.range (unitCount .channel)).flatMap (fun i =>
    leBytes 4 (((s.ecc.find? (fun e => e.1 == unitCode .channel && e.2.1 == i)).map (·.2.2)).getD 0))

/-- A fatal error: everything stops, an event goes to every partition, dirty lines are written back, the dump is made. -/
def State.fatalError (s : State) (origin : Nat) : State :=
  if s.fatal.isSome then s
  else
    let s := s.l2.foldl State.writeBack s
    let s := { s with fatal := some origin, l2 := s.l2.map (fun (l : L2Line) => { l with dirty := false }) }
    let s := if s.link then s.parts.foldl (fun (s : State) (e : Nat × Partition) => s.event e.1 0xE7 origin) s else s
    let body := s.dumpBody.take (15 * 2 ^ 30 - 64)
    { s with
      mem := memWrite s.mem dumpBase (dumpHeader origin (s.now + Config.clockSkew 256) body ++ body) }

/-- A copy of a request waits at its injection point. -/
def State.copyWaits (s : State) (r : Nat) : Bool := s.pkts.any (fun k => k.2.req == r && !k.2.reply && k.2.sent == 0)

/-- The timer of a request runs from the send of its last copy (R65). A walker's read of which flits have failed their CRC, and that the
sends have not recovered, is a fatal error (R413). DESIGN CHOICE (notes/assumptions/101.md): it names the slice that was asked. -/
def execRequestRetransmit (r : Nat) (s : State) : Out :=
  .next (match tget s.reqs r with
    | none => s
    | some q =>
      if q.firstIn.isNone || s.now < q.deadline || s.copyWaits r then s
      else
        let again := fun (q : Req) (cancel : Bool) => ({ s with reqs := tset s.reqs r q } : State).sendCopy r q true cancel
        if q.dead then again { q with sends := q.sends + 1 } true
        else if q.sends < 5 then again { q with sends := q.sends + 1 } false
        else if q.crc && (match q.src with
          | .walker _ => true
          | _ => false) then s.fatalError (originOf .slice q.dst)
        else (again { q with dead := true, sends := 1 } true).answered r q 0xE1 [] [])

def execFatalError (kind : UnitKind) (index : Nat) (s : State) : Out :=
  .next (if index < unitCount kind then s.fatalError (originOf kind index) else s)

/-- Loss of power stops all activity; a dump under way may be cut short, and what is missing of its body stays zero. -/
def execLossOfPower (s : State) : Out :=
  .next (let s := { s with power := false }
    if s.fatal.isNone then s
    else
      let (x, s) := s.draw
      let n := memNat s.mem (dumpBase + 24) 8
      let k := x.toNat % (n + 1)
      { s with mem := memWrite s.mem (dumpBase + 64 + k) (List.replicate (n - k) 0) })

/-! ## The current arbiter (R432) -/

def execPowerArbiterTick (avg100us avg1ms : Nat) (s : State) : Out :=
  .next (if 2400 < avg1ms && s.clock == 32 then s.fatalError (originOf .controller 0)
    else if 2400 < avg100us then { s with clock := max 32 (s.clock - 1) }
    else if avg100us < 2300 && decide (s.clock < 64) then { s with clock := s.clock + 1 }
    else s)

/-! ## Firmware and reset (R431, R433) -/

/-- The ROM's checks accept a firmware image. -/
def imageOk (image : List Byte) : Bool :=
  Config.headerOk image && sha3 (Config.imageKeys image) == Config.fusedKeys && Config.ed25519Ok image && Config.mlDsaOk image &&
  decide (Config.fusedMinimum ≤ Config.imageVersion image)

/-- A staged image enters the bank that does not run, once it has been checked. -/
def execFirmwareStage (bank : Nat) (image : List Byte) (s : State) : Out :=
  .next (if bank < 2 && bank != s.activeBank && imageOk image then { s with banks := tset s.banks bank image } else s)

/-- The bank that the ROM loads: one of the two, or the other when its image is rejected. -/
def State.bootBank (s : State) (first : Nat) : Option Nat :=
  let ok := fun (b : Nat) => imageOk ((tget s.banks b).getD [])
  if ok first then some first else if ok (1 - first) then some (1 - first) else none

/-- Reset and bring-up. The model's own fields, the host and the flash banks stay. -/
def execModuleReset (s : State) : Out :=
  .next (let (x, s) := s.draw
    let run := s.bootBank (x.toNat % 2)
    { State.reset with
      agenda := s.agenda, host := s.host, fresh := s.fresh, nextId := s.nextId, msis := s.msis, banks := s.banks
      activeBank := run.getD s.activeBank, running := run })

/-- What may happen: nothing but reset while no firmware runs or, but for the posting of records and reads of the dump,
after a fatal error (R413, R416, R431). -/
def State.allows (s : State) (i : Instr) : Bool :=
  if s.running.isNone then (match i with
    | .moduleReset => true
    | .lossOfPower => true
    | _ => false)
  else s.fatal.isNone || (match i with
    | .moduleReset => true
    | .lossOfPower => true
    | .faultQueuePost _ => true
    | .faultQueueDrain _ => true
    | .hostBar2Access p _ _ _ => p == 16
    | _ => false)

end Sys2Proof.Machine
end

