-- ==== Sys2Proof/Machine/HostLink.lean ====
section
/-!
DEFINITION. What the host does over the link: BAR2 accesses, the register page, host requests, function-level reset, loss of
the link (spec/16_device.md R416 to R419, R422 to R424, R427, R431).
-/

namespace Sys2Proof.Machine

/-! ## The function's capabilities (R415) -/

/-- Optional features of a function. -/
inductive Capability where
  | ats | pri | tenBitTags | msix
deriving DecidableEq, Repr

/-- The optional capabilities that configuration space lists, and no others. -/
def capabilities : List Capability := [.ats, .pri, .tenBitTags, .msix]

/-- How a request that the host addresses to the module completes. -/
inductive Completion where
  | successful | unsupportedRequest
deriving DecidableEq, Repr

/-- An AtomicOp addressed to the module is answered Unsupported Request and changes nothing (R415). -/
def State.atomicOp (s : State) : Completion × State := (.unsupportedRequest, s)

/-! ## BAR2 (R416) -/

/-- Write bytes as a source outside the cores, whose stores carry a name: all parts are checked before any is written. -/
def writeAs (s : State) (part asid root va : Nat) (bytes : List Byte) (who : Nat × Nat × Nat) : Except (Nat × Nat) Unit × State :=
  match placeSys s part asid root va bytes.length with
  | (.error e, s) => (.error e, s)
  | (.ok l, s) => (.ok (), (l.foldl (fun (acc : State × List Byte) e =>
      (acc.1.store part e.1 e.2.1 (acc.2.take e.2.2) none (some who), acc.2.drop e.2.2)) (s, bytes)).1)

/-- What an access of the hardware outside the cores answers to State.viaNet. -/
def netAnswer {α : Type} (f : α → State → State) (r : Except (Nat × Nat) α × State) : Option (Nat × Nat) × State :=
  match r with
  | (.ok x, s) => (none, f x s)
  | (.error (0, _), s) => (none, { s with blocked := true })
  | (.error e, s) => (some e, s)

/-- The part of a BAR2 access that goes through the networks, from the host port: a read leaves what it has read, a write is
posted. -/
def State.barMove (s : State) (part va n : Nat) (data : Option (List Byte)) : Option (Nat × Nat) × State :=
  let q := s.part part
  match data with
  | none => netAnswer (fun b s => { s with hostData := some b }) (readSysAt s part q.rootAsid q.rootPt va n)
  | some bytes => netAnswer (fun _ s => s) (writeAs s part q.rootAsid q.rootPt va bytes (0, part, 0))

/-- A BAR2 access ends; one that failed has its fault posted, and a read returns nothing. -/
def State.barEnd (s : State) (part : Nat) (data : Option (List Byte)) : Option (Nat × Nat) → State
  | none => s
  | some (f, _) => let s := s.accessFault part f; if data.isNone then { s with hostData := none } else s

/-- A read through the physical function's BAR2: the firmware region, of which only a dump shows. -/
def State.readFirmware (s : State) (off n : Nat) : List Byte :=
  (List.range n).map (fun i =>
    if s.fatal.isSome && decide (2 ^ 30 ≤ off + i) then memGet s.mem (0x8_0000_0000 + off + i) else 0)

/-- Part 16 stands for the physical function. A failed read returns nothing, a failed write writes nothing. -/
def execHostBar2Access (part va n : Nat) (data : Option (List Byte)) (s : State) : Out :=
  .next (if part = 16 then
      (match data with
      | none => if va + n ≤ 2 ^ 34 then { s with hostData := some (s.readFirmware va n) } else s
      | some _ => s)
    else if !(s.part part).vf then s
    else if 2 ^ 40 < va + (data.elim n List.length) then s
    else s.viaNet (.host part va n data) .host (fun s => s.barMove part va n data) (fun e s => s.barEnd part data e))

/-! ## The register page (R418, R419) -/

/-- A vector that is no longer masked sends the message that waited. -/
def State.unmask (s : State) (p v : Nat) : State :=
  if bit (s.part p).pba.toNat v && !bit ((s.part p).msixWord (2 * v + 1)).toNat 32 then
    { s.modPart p (fun q => { q with pba := q.pba &&& ~~~(ofN (2 ^ v)) }) with msis := (p, v) :: s.msis }
  else s

/-- Registers that hold what is written: FQBASE, FQCTL, FQHEAD, PEERTAB, NONCE, QSEL, REPADDR, MBADDR. -/
def plainReg (off : Nat) : Bool :=
  [0x1000, 0x1008, 0x1010, 0x1050, 0x1400, 0x1408, 0x1410, 0x1418, 0x1420, 0x1428, 0x1800].contains off

/-- Bits that a register holds. -/
def regMask (off value : Nat) : Nat :=
  match off with
  | 0x1008 => bits value 4 0 + (if bit value 8 then 256 else 0)
  | 0x1010 => bits value 31 0
  | _ => value % 2 ^ 64

/-- A write to MBGO (R429): the block at MBADDR is read and BUSY set; while BUSY is 1 the write is ignored and RESULT becomes 2. -/
def State.mailboxGo (s : State) (p : Nat) : State :=
  let q := s.part p
  if bit q.mbstat.toNat 0 then s.modPart p (fun q => { q with mbstat := ofN (bits q.mbstat.toNat 63 32 * 2 ^ 32 + 5) })
  else
    let a := s.ioAddr p (q.reg 0x1800)
    s.modPart p (fun q => { q with
      mbox := (List.range 32).map (fun i => memNat s.host (a + 8 * i) 8), mbstat := ofN (bits q.mbstat.toNat 63 1 * 2 + 1) })

def execRegisterWrite (part off value : Nat) (s : State) : Out :=
  .next (if !(s.part part).vf then s
    else if plainReg off then s.modPart part (fun q => { q with regs := tset q.regs off (ofN (regMask off value)) })
    else if off = 0x1030 then s.modPart part (fun q => { q with fqresp0 := ofN value })
    else if off = 0x1808 then s.mailboxGo part
    else if 0x2000 ≤ off && decide (off < 0x2200) && off % 8 == 0 then
      let i := (off - 0x2000) / 8
      (s.modPart part (fun q => { q with msix := tset q.msix i (ofN value) })).unmask part (i / 2)
    else s)

/-- What a read of a register of the page returns, with no effect (R418): a register that is only written and an offset that is not
listed give zero. DESIGN CHOICE (notes/assumptions/6.md): the former, of which the spec states no read. -/
def State.readRegister (s : State) (part off : Nat) : Word :=
  let q := s.part part
  if plainReg off then ofN (q.reg off)
  else if 0x1100 ≤ off && decide (off < 0x1300) && off % 8 == 0 then (tget q.qtab ((off - 0x1100) / 8)).getD 0
  else if 0x2000 ≤ off && decide (off < 0x2200) && off % 8 == 0 then q.msixWord ((off - 0x2000) / 8)
  else match off with
    | 0x1018 => ofN q.fqtail
    | 0x1020 => ofN ((if q.ovf then 1 else 0) + q.lost * 2 ^ 16)
    | 0x1048 => q.hstat
    | 0x1810 => q.mbstat
    | 0x3000 => q.pba
    | _ => 0

/-- A queue holds a command that has not completed (R419): one that is not registered holds none in its ring. -/
def State.queueBusy (s : State) (p q : Nat) : Bool × State :=
  match (if (s.part p).registered q then tget (s.part p).queues q else none) with
  | none => (((tget (s.part p).queues q).map (fun qu => qu.cmds.any (fun c => !c.done))).getD false, s)
  | some qu =>
    let (r, s) := s.nodeBits p qu.node
    (qu.cmds.any (fun c => !c.done) || bits r 1567 1536 != bits r 1599 1568, s)

def execQtabWrite (part q value : Nat) (s : State) : Out :=
  .next (if !(s.part part).vf || decide (64 ≤ q) then s
    else match s.queueBusy part q with
      | (true, s) => s.event part 0xB0 q
      | (false, s) => s.modPart part (fun x =>
          let y : Queue := (tget x.queues q).getD { node := 0, priv := false }
          { x with
            qtab := tset x.qtab q (ofN value)
            queues := tset x.queues q { y with node := bits value 63 8 * 256, priv := bit value 1 } }))

def execFqstatClear (part : Nat) (s : State) : Out := .next (s.modPart part (fun q => { q with ovf := false }))

/-- A response acts after the writes that its function posted before it (R417, R422). -/
def execFqresp1 (part value : Nat) (s : State) : Out :=
  .next (if (s.part part).vf && !s.hostForwards part then s.respondEntry part value else s)

/-! ## Host requests (R423) -/

/-- HSTAT with BUSY 0 and a result. -/
def State.hresult (s : State) (p r : Nat) : State := s.modPart p (fun q => { q with hstat := ofN (2 * r) })

/-- A write to HREQ: refused while BUSY, or for an operation that does not exist; each operation is an event of its own. -/
def State.hreq (s : State) (p value op : Nat) (f : State → State) : State :=
  if !(s.part p).vf then s
  else if bit (s.part p).hstat.toNat 0 then s.modPart p (fun q => { q with hstat := 5 })
  else if bits value 3 0 = 0 || decide (4 < bits value 3 0) || bits value 11 10 != 0 then s.hresult p 3
  else if bits value 3 0 != op then s
  else f s

/-- Workgroups of a queue's live launches. -/
def State.ofQueue (s : State) (p q : Nat) (g : Workgroup) : Bool :=
  g.part == p && (tget s.launches g.launch).bind (·.queue) == some q

/-- A queue is registered. -/
def State.hasQueue (s : State) (p q : Nat) : Bool := thas (s.part p).queues q && (s.part p).registered q

/-- Set a queue's switched mark. -/
def State.setSwitched (s : State) (p q : Nat) (b : Bool) : State :=
  s.modPart p (fun x => { x with queues := tmod x.queues q (fun y => { y with switched := b }), hstat := 1 })

def execSwitchOut (part value : Nat) (s : State) : Out :=
  .next (s.hreq part value 1 (fun s =>
    let q := bits value 9 4
    if !s.hasQueue part q then s.hresult part 1
    else
      let s := s.setSwitched part q true
      ({ s with wgs := s.wgs.map (fun (e : Nat × Workgroup) =>
          if s.ofQueue part q e.2 && !e.2.torn && e.2.saveFor != 3 then (e.1, { e.2 with saveFor := 2, wantBack := false })
          else e) } : State).settleHost part))

def execSwitchIn (part value : Nat) (s : State) : Out :=
  .next (s.hreq part value 2 (fun s =>
    let q := bits value 9 4
    if !s.hasQueue part q then s.hresult part 1
    else
      let s := s.setSwitched part q false
      ({ s with wgs := s.wgs.map (fun (e : Nat × Workgroup) =>
          if s.ofQueue part q e.2 && e.2.saveFor == 2 && e.2.resid == .saved then (e.1, { e.2 with wantBack := true })
          else e) } : State).settleHost part))

/-- A workgroup that the host names. -/
def State.findWg (s : State) (p ltag idx : Nat) : Option (Nat × Workgroup) :=
  s.wgs.find? (fun e => e.2.part == p && e.2.idx == idx && ((tget s.launches e.2.launch).map (·.ltag)) == some ltag)

def execRestore (part value : Nat) (s : State) : Out :=
  .next (s.hreq part value 3 (fun s =>
    match s.findWg part (bits value 35 12) (bits value 63 36) with
    | some (w, g) =>
      if g.resid == .saved && decide (2 ≤ g.saveFor) then
        (s.modWg w (fun g => { g with wantBack := true })).modPart part (fun q => { q with hstat := 1 })
      else s.hresult part 1
    | none => s.hresult part 1))

/-- H and the flags of the queues that QSEL selects (R356). -/
def State.digests (s : State) (p : Nat) (sel : Nat) : List Nat × State :=
  (s.part p).queues.foldl (fun (acc : List Nat × State) e =>
    if bit sel e.1 then
      let (r, s) := acc.2.nodeBits p e.2.node
      (acc.1 ++ [e.1, bits r 2047 1792, bits r 1663 1656], s)
    else acc) ([], s)

/-- What an attestation report holds (R431). -/
def State.reportOf (s : State) (p : Nat) : List Nat × State :=
  let q := s.part p
  let image := (s.running.bind (tget s.banks)).getD []
  let (d, s) := s.digests p (q.reg 0x1420)
  ([0x1400, 0x1408, 0x1410, 0x1418].map q.reg ++ [leNat (sha3 image), Config.imageVersion image, p, q.hives.length] ++ q.hives ++ [q.slices.length] ++ q.slices ++
    [q.groups.length] ++ q.groups ++ [q.shadow, q.combbk] ++
    (s.buckets.filter (fun b => b.2.1 == p)).map (fun b => b.2.2.1) ++ d, s)

def execAttest (part value : Nat) (s : State) : Out :=
  .next (s.hreq part value 4 (fun s =>
    let (r, s) := s.reportOf part
    ({ s with host := memWrite s.host (s.ioAddr part ((s.part part).reg 0x1428)) (Config.report r) } : State).hresult part 0))

/-! ## Loss of the link (R424) -/

def execHostLinkDown (s : State) : Out :=
  .next (let asks := s.atsAsk
    let s : State := { s with
      link := false
      reqs := s.reqs.map (fun (e : Nat × Req) => (e.1, if e.2.hostSt = 1 then { e.2 with hostSt := 3 } else e.2))
      atsAsk := [] }
    let s := asks.foldl (fun (s : State) e => s.askEnds true e) s
    s.cores.foldl (fun (s : State) c => c.2.misses.foldl (fun (s : State) m => match m.2.ats with
      | some t => s.failHost c.1 m.2 t
      | none => s) s) s)

/-! ## Function-level reset (R427) -/

/-- Empty a queue: no command is under way, and nothing stands between HEAD and TAIL of one that is registered. -/
def State.emptyQueue (s : State) (p q : Nat) : State :=
  match tget (s.part p).queues q with
  | none => s
  | some qu =>
    let (r, s) := if (s.part p).registered q then s.nodeBits p qu.node else (0, s)
    let s := if bits r 1567 1536 == bits r 1599 1568 then s else putNode s p qu.node 192 (leBytes 4 (bits r 1599 1568))
    s.modPart p (fun x => { x with queues := tmod x.queues q (fun y => { y with cmds := [] }) })

/-- Operations whose work waits in a queue that a reset empties: pushes, guarded nodes and graphs. -/
def Op.queuedIn (o : Op) (p : Nat) (s : State) : Bool :=
  !o.done && s.partOf o.wg == p && (match o.kind with
    | .push .. => true
    | .graphGo _ => true
    | .node _ => true
    | _ => false)

/-- No further workgroup of a launch is placed; it completes, faulted, when those placed have retired. -/
def State.cutLaunch (s : State) (lid : Nat) : State :=
  let s := s.modLaunch lid (fun l =>
    if l.placed < l.total then { l with gx := l.placed, gy := 1, gz := 1, faulted := true } else l)
  match tget s.launches lid with
  | some l => if l.retired == l.total && l.total == l.placed && l.faulted then s.completeLaunch lid else s
  | none => s

def execFlrVf (part : Nat) (s : State) : Out :=
  .next (if !(s.part part).vf then s
    else s.attempt (fun s =>
      let s := (s.wgs.filter (fun e => e.2.part == part)).foldl (fun (s : State) e => s.teardown e.1) s
      let ops := s.ops.filterMap (fun e => if e.2.queuedIn part s then some e.1 else none)
      let s := ops.foldl (fun (s : State) id => s.finish id []) s
      let s := { s with
        runs := s.runs.filter (fun r => r.2.part != part)
        lqs := s.lqs.map (fun e => (e.1, e.2.filter (fun (c : Child) => c.part != part))) }
      let s := (List.range 64).foldl (fun (s : State) q => s.emptyQueue part q) s
      let s := s.modPart part (fun q => { q with
        preds := [], waggles := []
        regs := tset q.regs 0x1008 (ofN (bits (q.reg 0x1008) 4 0)) })
      let ls := s.launches.filterMap (fun e => if e.2.part == part then some e.1 else none)
      (ls.foldl State.cutLaunch s).settleHost part))

end Sys2Proof.Machine
end

