-- ==== Sys2Proof/Machine/Roce.lean ====
section
/-!
DEFINITION. The Ethernet ports: RoCE objects made through the mailbox, work requests and completions, inbound packets, and the
Palnath encapsulation (spec/16_device.md R428 to R430; spec/03_memory_paths.md R66).
-/

namespace Sys2Proof.Machine

/-! ## The mailbox (R429) -/

/-- What a command answers: RESULT and the number or key it returns. -/
abbrev Answered := Nat × Nat × State

/-- Doublewords of a command block. -/
def Block := List Nat
def Block.d (b : Block) (i : Nat) : Nat := List.getD b i 0

/-- Carry out the command of the block that the mailbox has read, when it is this event's operation, write RESULT and clear BUSY; a block
with no operation of the table, or with bits set where zero is due, is refused. A command without RESULT 0 changes nothing. -/
def State.mailbox (s : State) (p op : Nat) (f : State → Block → Answered) : State :=
  let q := s.part p
  if !q.vf || !bit q.mbstat.toNat 0 then s
  else
    let b : Block := q.mbox
    let o := bits (b.d 0) 7 0
    let set := fun (s : State) (r v : Nat) => s.modPart p (fun q => { q with mbstat := ofN (v % 2 ^ 32 * 2 ^ 32 + 2 * r), mbox := [] })
    if o = 0 || 7 < o then (if op = 1 then set s 3 0 else s)
    else if o != op then s
    else if bits (b.d 0) 63 8 != 0 || (List.range 24).any (fun i => b.d (8 + i) != 0) then set s 3 0
    else match f s b with
      | (0, v, s) => set s 0 v
      | (r, _, _) => set s r 0

/-- A number below a limit that no key holds: which one is free. -/
def State.freeNumber {α : Type} (s : State) (t : Tab α) (limit : Nat) : Option Nat × State :=
  let (x, s) := s.draw
  if limit ≤ t.length then (none, s)
  else (((List.range (t.length + 1)).map (fun i => (x.toNat + i) % limit)).find? (fun n => !thas t n), s)

/-- A partition global virtual address. -/
def isGlobal (a : Nat) : Bool := decide (a < 2 ^ 57)

def execCreateCq (part : Nat) (s : State) : Out :=
  .next (s.mailbox part 1 (fun s b =>
    let log := bits (b.d 2) 4 0
    if !isGlobal (b.d 1) || b.d 1 % 64 != 0 || decide (log < 4) || decide (16 < log) || !isGlobal (b.d 3) then (3, 0, s)
    else match s.freeNumber (s.part part).cqs 16384 with
      | (none, s) => (3, 0, s)
      | (some n, s) => (0, n, s.modPart part (fun q => { q with
          cqs := tset q.cqs n { base := b.d 1, log := log, vec := bits (b.d 2) 12 8, sync := b.d 3 } }))))

def execDestroyCq (part : Nat) (s : State) : Out :=
  .next (s.mailbox part 2 (fun s b =>
    let q := s.part part
    if !thas q.cqs (b.d 1) then (1, 0, s)
    else if q.qps.any (fun e => e.2.scq == b.d 1 || e.2.rcq == b.d 1) then (3, 0, s)
    else (0, 0, s.modPart part (fun q => { q with cqs := tdel q.cqs (b.d 1) }))))

def execCreateQp (part : Nat) (s : State) : Out :=
  .next (s.mailbox part 3 (fun s b =>
    let sl := bits (b.d 3) 3 0
    let rl := bits (b.d 3) 11 8
    let sc := bits (b.d 4) 13 0
    let rc := bits (b.d 4) 29 16
    if !isGlobal (b.d 1) || !isGlobal (b.d 2) || decide (sl < 4) || decide (14 < sl) || decide (rl < 4) || decide (14 < rl) ||
        !isGlobal (b.d 5) then (3, 0, s)
    else if !thas (s.part part).cqs sc || !thas (s.part part).cqs rc then (1, 0, s)
    else match s.freeNumber (s.part part).qps 16384 with
      | (none, s) => (3, 0, s)
      | (some n, s) => (0, n, s.modPart part (fun q => { q with
          qps := tset q.qps n { sbase := b.d 1, rbase := b.d 2, slog := sl, rlog := rl, scq := sc, rcq := rc, sync := b.d 5 } }))))

/-! ## Completions (R429) -/

/-- Write a completion entry, increment the CQ's sync object and signal its vector. -/
def State.complete (s : State) (p cqn qpn opk index imm bytes status : Nat) : State :=
  match tget (s.part p).cqs cqn with
  | none => s
  | some c =>
    let q := s.part p
    let own := xor Config.firstOwn (c.tail / 2 ^ c.log % 2 == 1)
    let e := (if own then 2 ^ 255 else 0) + imm % 2 ^ 32 * 2 ^ 96 + bytes % 2 ^ 32 * 2 ^ 64 + index % 2 ^ 16 * 2 ^ 32 +
      opk % 16 * 2 ^ 20 + status % 16 * 2 ^ 16 + qpn % 2 ^ 14
    let s := (writeSys s p q.rootAsid q.rootPt (c.base + 32 * (c.tail % 2 ^ c.log)) (leBytes 32 e)).2
    let s := s.modPart p (fun q => { q with cqs := tset q.cqs cqn { c with tail := c.tail + 1 } })
    let s := s.increment p q.rootAsid q.rootPt c.sync 0 0
    if c.vec = 0 then s else s.signal p c.vec

/-- A work request of a ring, at a 16-bit index. -/
def State.workRequest (s : State) (p base log index : Nat) : Option Nat × State :=
  let q := s.part p
  match readSys s p q.rootAsid q.rootPt (base + 64 * (index % 2 ^ log)) 64 with
  | (.ok b, s) => (some (leNat b), s)
  | (.error _, s) => (none, s)

/-- Complete a send request; an entry is posted when it asks for one. -/
def State.sendDone (s : State) (p qpn : Nat) (q : Qp) (wr status bytes : Nat) : State :=
  if bit wr 7 then s.complete p q.scq qpn (bits wr 3 0) q.shead 0 bytes status else s

/-- Outstanding requests of a ring: indices from head to tail. -/
def outstanding (head tail : Nat) : List Nat :=
  (List.range (wrapN ((tail : Int) - head) 16)).map (fun i => (head + i) % 65536)

/-- A queue pair enters ERROR: every outstanding request completes with status 5. -/
def State.flush (s : State) (p qpn : Nat) (q : Qp) : State :=
  let s := (outstanding q.shead q.stail).foldl (fun (s : State) i =>
    let (w, s) := s.workRequest p q.sbase q.slog i
    s.sendDone p qpn { q with shead := i } (w.getD 128) 5 0) s
  (outstanding q.rhead q.rtail).foldl (fun (s : State) i => s.complete p q.rcq qpn 4 i 0 0 5) s

def State.setQp (s : State) (p qpn : Nat) (q : Qp) : State := s.modPart p (fun x => { x with qps := tset x.qps qpn q })

def execModifyQp (part : Nat) (s : State) : Out :=
  .next (s.mailbox part 4 (fun s b =>
    let n := b.d 1
    match tget (s.part part).qps n with
    | none => (1, 0, s)
    | some q =>
      match b.d 2, q.st with
      | 0, _ => (0, 0, s.setQp part n { q with st := 0, shead := 0, stail := 0, rhead := 0, rtail := 0, tries := 0 })
      | 4, _ => (0, 0, (s.flush part n q).setQp part n { q with st := 4, shead := q.stail, rhead := q.rtail, tries := 0 })
      | 1, 0 => (0, 0, s.setQp part n { q with st := 1 })
      | 2, 1 =>
        if 2 ^ 24 ≤ b.d 3 || 2 ^ 24 ≤ b.d 6 || 4 < b.d 7 || b.d 4 / 2 ^ 16 != 0 then (3, 0, s)
        else (0, 0, s.setQp part n { q with
          st := 2, rqpn := b.d 3, node := bits (b.d 4) 11 0, rpart := bits (b.d 4) 15 12, epsn := b.d 6, mtu := b.d 7 })
      | 3, 2 => if 2 ^ 24 ≤ b.d 5 then (3, 0, s) else (0, 0, s.setQp part n { q with st := 3, psn := b.d 5 })
      | x, _ => (if 4 < x then 3 else 4, 0, s)))

def execDestroyQp (part : Nat) (s : State) : Out :=
  .next (s.mailbox part 5 (fun s b =>
    if thas (s.part part).qps (b.d 1) then (0, 0, s.modPart part (fun q => { q with qps := tdel q.qps (b.d 1) })) else (1, 0, s)))

def execRegMr (part : Nat) (s : State) : Out :=
  .next (s.mailbox part 6 (fun s b =>
    if !isGlobal (b.d 1) || b.d 2 = 0 || 2 ^ 40 < b.d 2 || b.d 3 / 8 != 0 then (3, 0, s)
    else match s.freeNumber (s.part part).mrs (2 ^ 32) with
      | (none, s) => (3, 0, s)
      | (some k, s) => (0, k, s.modPart part (fun q => { q with mrs := tset q.mrs k { base := b.d 1, len := b.d 2, acc := b.d 3 } }))))

/-- Some outstanding request of a partition names a key. -/
def State.keyUsed (s : State) (p key : Nat) : Bool :=
  (s.part p).qps.any (fun e =>
    let uses := fun (base log i : Nat) => ((s.workRequest p base log i).1.map (fun w => bits w 319 288 == key)).getD false
    (outstanding e.2.shead e.2.stail).any (uses e.2.sbase e.2.slog) || (outstanding e.2.rhead e.2.rtail).any (uses e.2.rbase e.2.rlog))

def execDeregMr (part : Nat) (s : State) : Out :=
  .next (s.mailbox part 7 (fun s b =>
    if !thas (s.part part).mrs (b.d 1) then (1, 0, s)
    else if s.keyUsed part (b.d 1) then (3, 0, s)
    else (0, 0, s.modPart part (fun q => { q with mrs := tdel q.mrs (b.d 1) }))))

/-! ## Doorbells -/

def execSqdb (part value : Nat) (s : State) : Out :=
  .next (if !(s.part part).vf then s
    else s.modPart part (fun q => { q with qps := tmod q.qps (bits value 13 0) (fun y => { y with stail := bits value 47 32 }) }))

def execRqdb (part value : Nat) (s : State) : Out :=
  .next (if !(s.part part).vf then s
    else s.modPart part (fun q => { q with qps := tmod q.qps (bits value 13 0) (fun y => { y with rtail := bits value 47 32 }) }))

/-! ## Work requests -/

/-- A memory region covers a range and gives a right: bit 0 local write, 1 remote read, 2 remote write; none for a read. -/
def Partition.covers (q : Partition) (key a n : Nat) (right : Option Nat) : Bool :=
  match tget q.mrs key with
  | some m => decide (m.base ≤ a) && decide (a + n ≤ m.base + m.len) && (right.map (bit m.acc)).getD true
  | none => false

/-- Bytes of a path MTU, and packet numbers that a message takes. -/
def Qp.packets (q : Qp) (n : Nat) : Nat := max 1 (ceilDiv n (256 * 2 ^ q.mtu))

/-- The head of a send ring is done. -/
def State.advanceSend (s : State) (p qpn n : Nat) : State :=
  s.modPart p (fun x => { x with qps := tmod x.qps qpn (fun q => { q with
    shead := (q.shead + 1) % 65536, psn := (q.psn + q.packets n) % 2 ^ 24, tries := 0 }) })

/-- A reserved value in a send request. -/
def badSend (w : Nat) : Bool := bits w 255 8 != 0 || bits w 6 4 != 0 || decide (3 < bits w 3 0)

/-- Status of a send request at this end, and the bytes it moves. status is the peer's answer (0, or remote access); data is
what a READ returned. -/
def State.trySend (s : State) (p : Nat) (w status : Nat) (data : List Byte) : Option (Nat × Nat × State) :=
  let q := s.part p
  let len := bits w 287 256
  let a := bits w 383 320
  if badSend w then some (2, 0, s)
  else if 2 ^ 31 < len then some (1, 0, s)
  else if bits w 3 0 = 3 then
    if !q.covers (bits w 319 288) a len (some 0) then some (2, 0, s)
    else if status != 0 then some (3, 0, s)
    else if data.length != len then none
    else match writeAs s p q.rootAsid q.rootPt a data (0, 16, 0) with
      | (.ok _, s) => some (0, len, s)
      | (.error (0, _), s) => some (0, 0, { s with blocked := true })
      | (.error _, s) => some (2, 0, s)
  else if !q.covers (bits w 319 288) a len none then some (2, 0, s)
  else match readSys s p q.rootAsid q.rootPt a len with
    | (.ok _, s) => if status != 0 then some (3, 0, s) else some (0, len, s)
    | (.error 0, s) => some (0, 0, { s with blocked := true })
    | (.error _, s) => some (2, 0, s)

/-- The Ethernet port that acts for a queue pair or a peer: one of those that the peer's entry of the peer table names in its port mask
(R428); none while the entry waits for the host. DESIGN CHOICE (notes/assumptions/15.md): which of them, and where the mask is empty. -/
def State.portFor (s : State) (p node n : Nat) : Option Src × State :=
  match s.peer p node with
  | (none, s) => (none, s)
  | (some e, s) =>
    let ports := (List.range 18).filter (fun i => bit e (192 + i))
    (some (.port ((ports[n % ports.length]?).getD (n % 18))), s)

/-- What a port reads and writes for the request at the head of a send ring: its status and the bytes it moves; nothing is done
until the peer has answered. -/
def State.sendMove (s : State) (part : Nat) (q : Qp) (status : Nat) (data : List Byte) : Option (Nat × Nat) × State :=
  match s.workRequest part q.sbase q.slog q.shead with
  | (none, s) => (some (2, 0), s)
  | (some w, s) => match s.trySend part w status data with
    | none => (none, { s with blocked := true })
    | some (st, n, s) => (some (st, n), s)

/-- The request at the head of a send ring completes. -/
def State.sendEnd (s : State) (part qpn : Nat) (q : Qp) (e : Option (Nat × Nat)) : State :=
  let (st, n) := e.getD (0, 0)
  match s.workRequest part q.sbase q.slog q.shead with
  | (none, s) => (s.complete part q.scq qpn 0 q.shead 0 0 2).advanceSend part qpn 0
  | (some w, s) => (s.sendDone part qpn q w st n).advanceSend part qpn n

/-- A port takes the request at the head of a send ring; it completes with the peer's answer. -/
def execSendWorkRequest (part qpn : Nat) (status : Nat) (data : List Byte) (s : State) : Out :=
  .next (match tget (s.part part).qps qpn with
    | none => s
    | some q =>
      if q.st != 3 || q.shead == q.stail then s
      else match s.portFor part q.node qpn with
        | (none, s) => s
        | (some src, s) => s.viaNet (.inbound part [0, qpn, q.shead]) src (fun s => s.sendMove part q status data)
            (fun e s => s.sendEnd part qpn q e))

/-- A retransmission timer expires: the request goes out again, or completes with status 4. -/
def execRoceRetryTimeout (part qpn : Nat) (s : State) : Out :=
  .next (match tget (s.part part).qps qpn with
    | none => s
    | some q =>
      if q.st != 3 || q.shead == q.stail then s
      else if q.tries < Config.roceRetries then s.setQp part qpn { q with tries := q.tries + 1 }
      else
        let (w, s) := s.workRequest part q.sbase q.slog q.shead
        (s.sendDone part qpn q (w.getD 128) 4 0).advanceSend part qpn 0)

/-! ## Inbound packets (R428) -/

/-- Updates forwarded from a port's writes are still to be applied (R428). -/
def State.portForwards (s : State) (p : Nat) : Bool :=
  (s.part p).regions.any (fun r => r.2.freeing.isNone && r.2.updates.any (fun u => u.issuers.any (fun i => i.1 == 0 && i.2.1 == 16)))

/-- The receive sync object is incremented, once the updates forwarded from the writes have been applied. -/
def State.received (s : State) (p : Nat) (q : Qp) : State :=
  let x := s.part p
  if s.portForwards p then { s with blocked := true } else s.increment p x.rootAsid x.rootPt q.sync 0 0

/-- Packet numbers and the receive ring advance. -/
def State.advanceReceive (s : State) (p qpn n taken : Nat) : State :=
  s.modPart p (fun x => { x with qps := tmod x.qps qpn (fun q => { q with
    rhead := (q.rhead + taken) % 65536, epsn := (q.epsn + q.packets n) % 2 ^ 24 }) })

/-- A receive request whose other fields are not zero (R429). -/
def badReceive (w : Nat) : Bool := bits w 511 384 != 0 || bits w 255 0 != 0

/-- A SEND lands in the buffer of the receive request at the head: its status. -/
def State.landSend (s : State) (p : Nat) (w : Nat) (data : List Byte) : Nat × State :=
  let x := s.part p
  if badReceive w then (2, s)
  else if bits w 287 256 < data.length then (1, s)
  else if !x.covers (bits w 319 288) (bits w 383 320) (bits w 287 256) (some 0) then (2, s)
  else match writeAs s p x.rootAsid x.rootPt (bits w 383 320) data (0, 16, 0) with
    | (.ok _, s) => (0, s)
    | (.error (0, _), s) => (0, { s with blocked := true })
    | (.error (f, _), s) => (2, s.accessFault p f)

/-- The receive request at the head of a ring, as a number; one that cannot be read counts as one with a reserved value. -/
def State.receiveHead (s : State) (p : Nat) (q : Qp) : Nat × State :=
  let (w, s) := s.workRequest p q.rbase q.rlog q.rhead
  (w.getD 1, s)

/-- What a port writes and reads for an inbound packet, with the status of a SEND that its receive request refuses, and status 2 of a
WRITE with immediate whose receive request holds a reserved value (R429). -/
def State.inboundMove (s : State) (part : Nat) (q : Qp) (kind rva imm : Nat) (data : List Byte) : Option (Nat × Nat) × State :=
  let x := s.part part
  match kind with
  | 0 =>
    let (w, s) := s.receiveHead part q
    (match s.landSend part w data with
    | (0, s) => (none, s)
    | (st, s) => (some (st, 0), s))
  | 2 =>
    (match netAnswer (fun _ s => s) (writeAs s part x.rootAsid x.rootPt rva data (0, 16, 0)) with
    | (none, s) =>
      let (w, s) := s.receiveHead part q
      (if badReceive w then some (2, 0) else none, s)
    | r => r)
  | 3 => netAnswer (fun _ s => s) (readSysAt s part x.rootAsid x.rootPt rva imm)
  | _ => netAnswer (fun _ s => s) (writeAs s part x.rootAsid x.rootPt rva data (0, 16, 0))

/-- An inbound packet has been handled. -/
def State.inboundEnd (s : State) (part qpn : Nat) (q : Qp) (kind imm : Nat) (data : List Byte) (e : Option (Nat × Nat)) : State :=
  match kind, e with
  | 0, none => ((s.received part q).complete part q.rcq qpn 4 q.rhead 0 data.length 0).advanceReceive part qpn data.length 1
  | 0, some (st, _) => (s.complete part q.rcq qpn 4 q.rhead 0 0 (if st < 16 then st else 2)).advanceReceive part qpn data.length 1
  | 2, some (2, _) => ((s.received part q).complete part q.rcq qpn 4 q.rhead imm data.length 2).advanceReceive part qpn data.length 1
  | _, some (f, _) => s.accessFault part f
  | 1, none => s.advanceReceive part qpn data.length 0
  | 2, none => ((s.received part q).complete part q.rcq qpn 4 q.rhead imm data.length 0).advanceReceive part qpn data.length 1
  | _, none => s.advanceReceive part qpn imm 0

/-- A packet with an ECN mark is answered by a congestion notification (R428). -/
def State.notify (s : State) (p qpn : Nat) (mark : Bool) : State := if mark then { s with cnps := (p, qpn) :: s.cnps } else s

/-- An inbound packet: kind 0 SEND, 1 WRITE, 2 WRITE with immediate, 3 READ of imm bytes, each with 4 added where it carries an ECN
mark. -/
def execRoceInbound (part qpn kind : Nat) (rva rkey imm : Nat) (data : List Byte) (s : State) : Out :=
  .next (match tget (s.part part).qps qpn with
    | none => s
    | some q =>
      let mark := bit kind 2
      let kind := kind % 4
      let takes := kind == 0 || kind == 2
      let covered := match kind with
        | 0 => true
        | 1 => (s.part part).covers rkey rva data.length (some 2)
        | 2 => (s.part part).covers rkey rva data.length (some 2)
        | _ => (s.part part).covers rkey rva imm (some 1)
      if q.st != 2 && q.st != 3 then s
      else if (takes && q.rhead == q.rtail) || !covered then s.notify part qpn mark
      else match s.portFor part q.node qpn with
        | (none, s) => s
        | (some src, s) => s.viaNet (.inbound part [1, qpn, q.epsn, kind, rva, imm, data.length]) src
            (fun s => s.inboundMove part q kind rva imm data)
            (fun e s => (s.inboundEnd part qpn q kind imm data e).notify part qpn mark))

/-! ## The Palnath encapsulation (R66, R428, R430) -/

/-- The partition's window of a peer's partition. -/
def State.peerWin (s : State) (part node peer : Nat) : PeerWin :=
  (s.peers.find? (fun w => w.part == part && w.node == node && w.peer == peer)).getD { part := part, node := node, peer := peer }

/-- A request of the next sequence number has been handled with a result, which the window keeps. -/
def State.peerRan (s : State) (w : PeerWin) (code : Nat) (data : List Byte) : State :=
  { s with peers := { w with expect := (w.expect + 1) % 65536, ran := (((w.expect, code, data) :: w.ran).take 64) } ::
      s.peers.filter (fun x => !(x.part == w.part && x.node == w.node && x.peer == w.peer)) }

/-- k8 of the handler of a remote waggle. -/
def remoteWord (sender node spart : Nat) : Nat :=
  sender % 2 ^ 43 + spart % 16 * 2 ^ 47 + node % 4096 * 2 ^ 51 + 2 ^ 63

/-- A remote waggle enters the handler queue, or is rejected: the code and the state. -/
def State.remoteWaggle (s : State) (part node spart va : Nat) (args : List Word) : Nat × State :=
  let h := bits va 4 0
  let n := bits va 15 8
  let q := s.part part
  let sender := (args.getD 8 0).toNat
  if !q.hives.contains h || 4096 ≤ q.waggles.length then (0xB7, s)
  else
    let (id, s) := s.newId
    (0, s.modPart part (fun q => { q with waggles := q.waggles ++ [{
    id := id, here := true, hive := h, n := n, regs := args.take 8 ++ [ofN (remoteWord sender node spart)], ltag := bits sender 31 8
    slice := (q.home[(8 * h + n % 8) % 256]?).getD 0 }] }))

/-- Where a remote atomic goes, or its fault (R24, R25, R45). -/
def State.remotePlace (s : State) (part va n : Nat) : Except (Nat × Nat) (Nat × Phys) × State :=
  let q := s.part part
  if va % n != 0 then (.error (0x2D, va), s)
  else match sysPart s part q.rootAsid q.rootPt va .atomic with
    | (.ok ph, s) => (.ok (va, ph), s)
    | (.error f, s) => (.error (f, va), s)

/-- A remote atomic: operation code, function, type, operand and compare value. It goes to its home slice from a port, of die 4, as
a request that is no ordered entry; what the home answers is its result (R130, R137, R428). -/
def State.remoteAtomic (s : State) (part node : Nat) (o : Owner) (va : Nat) (args : List Word)
    (fin : State → Nat → List Byte → State) : State :=
  let a := fun (i : Nat) => (args.getD i 0).toNat
  let n := Ty.bytes (Ty.ofCode (a 2))
  let st := (s.stage o).getD { owner := o }
  if st.writing then
    if st.left != 0 then s
    else match st.out with
      | some (f, _) => fin ((s.dropStage o).accessFault part f) f []
      | none => fin (s.dropStage o) 0 ((st.seen.head?.map (·.data)).getD [])
  else match s.portFor part node node with
  | (none, s) => s
  | (some src, s) => match s.readNet o src (fun s => s.remotePlace part va n) with
    | (.error (0, _), s) => s
    | (.error (f, _), s) => fin (s.accessFault part f) f []
    | (.ok (va, ph), s) =>
      (s.modStage o (fun e => { e with writing := true, left := 1 })).send
        { src := src, dst := s.home part ph.pa, part := part, n := n, va := va, owner := some o, ph := ph
          kind := .atomic (.rmw (a 0) (a 1) (a 2) (a 3) (a 4)) } |>.2

/-- The answer to a request of a peer's partition is sent. -/
def State.sendAnswer (s : State) (part node peer seq code : Nat) (data : List Byte) : State :=
  { s with encaps := { part := part, node := node, peer := peer, seq := seq, op := if code = 0 then 2 else 3, info := code
                       data := data, ack := true } :: s.encaps }

/-- A request of the next sequence number has been handled: its result is kept and sent. -/
def State.answerPeer (s : State) (w : PeerWin) (code : Nat) (data : List Byte) : State :=
  (s.peerRan w code data).sendAnswer w.part w.node w.peer w.expect code data

/-- A packet of the encapsulation: 0 a waggle, 1 an atomic, 2 acceptance and 3 rejection of a request of this partition, 4 a
cancel, each with 8 added where its retry bit is set. Requests of a pair are taken in sequence order; one already handled has its
recorded result sent again if its retry bit is set, and is discarded otherwise as a late original; a cancel is acknowledged (R65, R66). -/
def execRemoteEncapRequest (part node spart seq op va : Nat) (args : List Word) (s : State) : Out :=
  .next (if !(s.part part).vf then s
    else
      let retry := bit op 3
      let op := op % 8
      let w := s.peerWin part node spart
      let mine := s.remotes.find? (fun r => r.2.part == part && r.2.node == node && r.2.rpart == spart && r.2.seq == seq)
      let drop := fun (s : State) (id : Nat) => { s with remotes := tdel s.remotes id }
      let repeats := op = 4 || retry
      let again := if !repeats then s
        else (w.ran.find? (fun r => r.1 == seq)).elim s (fun r => s.sendAnswer part node spart seq r.2.1 r.2.2)
      match op with
      | 2 => (match mine with
        | some (id, r) => if r.dead then drop s id else (drop s id).finish r.op []
        | none => s)
      | 3 => (match mine with
        | some (id, r) => if r.dead then drop s id else (drop s id).failOp r.op 0xB7 0
        | none => s)
      | 4 => if seq = w.expect then s.answerPeer w 0xE5 [] else again
      | 0 =>
        if seq != w.expect then again
        else let (code, s) := s.remoteWaggle part node spart va args; s.answerPeer w code []
      | 1 =>
        if seq != w.expect then again
        else s.remoteAtomic part node (.inbound part [2, node, spart, seq]) va args (fun s code d => s.answerPeer w code d)
      | _ => s)

/-- The cancel of a remote request is sent, the first time or again. -/
def State.sendCancel (s : State) (x : Remote) : State :=
  { s with encaps := { part := x.part, node := x.node, peer := x.rpart, seq := x.seq, op := 4, retry := decide (1 < x.sends) } :: s.encaps }

/-- A remote request's timer expires: it, or its cancel, is sent again with a doubled wait (the fifth wait stays for a cancel), and a
request is cancelled after its fifth send (R65, R428). -/
def execRemoteRetransmit (r : Nat) (s : State) : Out :=
  .next (match tget s.remotes r with
    | none => s
    | some x =>
      if s.now < x.deadline then s
      else
        let y := { x with sends := min 5 (x.sends + 1), deadline := s.now + 2 ^ 24 * 2 ^ min 4 x.sends }
        let dead := { x with dead := true, sends := 1, deadline := s.now + 2 ^ 24 }
        if x.dead then ({ s with remotes := tset s.remotes r y } : State).sendCancel y
        else if x.sends < 5 then ({ s with remotes := tset s.remotes r y } : State).sendWaggle y
        else (({ s with remotes := tset s.remotes r dead } : State).sendCancel dead).failOp x.op 0xE5 0)

end Sys2Proof.Machine
end

