-- ==== Sys2Proof/Machine/Partitions.lean ====
section
/-!
DEFINITION. Creating and resizing a partition (spec/16_device.md R425, R426; spec/03_memory_paths.md R54, R64;
spec/04_aggregate_regions.md R90; spec/05_comb.md R99).
-/

namespace Sys2Proof.Machine

/-! ## Composition (R425) -/

/-- Units named once each, below a limit, at least one. -/
def unitsOk (l : List Nat) (limit : Nat) : Bool := !l.isEmpty && l.all (fun x => decide (x < limit)) && l.eraseDups.length == l.length

/-- No unit is held by another partition. -/
def State.disjoint (s : State) (p : Nat) (f : Partition → List Nat) (l : List Nat) : Bool :=
  s.parts.all (fun e => e.1 == p || !e.2.vf || !(f e.2).any l.contains)

/-- Each byte of the reserved areas lies in a group of the partition and outside the firmware region. -/
def Partition.reservedFits (q : Partition) : Bool :=
  let size := q.slices.length * 2 ^ 22 + q.shadow + q.combbk
  let top := q.reserved.2
  decide (size ≤ top) &&
  (List.range 17).all (fun g => !(overlaps (top - size) size (g * Config.groupBytes) Config.groupBytes) || q.groups.contains g) &&
  !overlaps (top - size) size 0x8_0000_0000 0x4_0000_0000

/-- A composition that the limits allow. -/
def State.composes (s : State) (p : Nat) (q : Partition) : Bool :=
  decide (p < 16) && unitsOk q.hives Config.hives && unitsOk q.slices Config.slices && unitsOk q.groups 16 &&
  s.disjoint p (·.hives) q.hives && s.disjoint p (·.slices) q.slices && s.disjoint p (·.groups) q.groups &&
  q.shadow % 65536 == 0 && q.combbk % 65536 == 0 && q.reservedFits

/-- HomeTable: entry i names slice L[i mod S] (R54). -/
def homeTable (slices : List Nat) : List Nat :=
  let l := sortBy (fun a b => decide (a ≤ b)) slices
  (List.range 256).map (fun i => (l[i % l.length]?).getD 0)

/-- Rate words, one per die, each with a full bucket (R64). -/
def bucketsOf (p : Nat) (rates : List Nat) : List (Nat × Nat × Nat × Nat) :=
  (List.range Config.dies).map (fun d => (d, p, rates.getD d 0, 1024 * burstOf (rates.getD d 0)))

/-- Rewrite a partition's rate words. -/
def State.setRates (s : State) (p : Nat) (rates : List Nat) : State :=
  { s with buckets := bucketsOf p rates ++ s.buckets.filter (fun b => b.2.1 != p) }

/-- A byte of a channel group outside the firmware region. -/
def inGroups (groups : List Nat) (pa : Nat) : Bool :=
  groups.contains (pa / Config.groupBytes) && !(0x8_0000_0000 ≤ pa && decide (pa < 0xC_0000_0000))

/-- Clear channel groups to zero, apart from the firmware region (R426). -/
def State.clearGroups (s : State) (groups : List Nat) : State :=
  { s with
    mem := s.mem.filter (fun e => !inGroups groups e.1)
    poison := s.poison.filter (fun a => !inGroups groups a)
    l2 := s.l2.filter (fun l => !inGroups groups l.pa) }

/-! ## Creation (R426) -/

/-- The partition root is a partition node that sets groups 0 to 12. -/
def State.rootOk (s : State) (p : Nat) : Bool :=
  match readNode s p (s.part p).rootRcb with
  | (.ok n, _) => n.kind == 1 && !n.badBits && !n.badField && (List.range 13).all n.sets
  | (.error _, _) => false

/-- image holds the bytes that firmware and host put there before the function is enabled: the root and its page tables. -/
def execPartitionCreate (part : Nat) (hives slices groups : List Nat) (shadow combbk : Nat) (rates : List Nat)
    (rootPt asid rcb : Nat) (image : List (Nat × List Byte)) (s : State) : Out :=
  .next (let q : Partition := {
      hives := hives, slices := slices, groups := groups, shadow := shadow, combbk := combbk, home := homeTable slices
      rootPt := rootPt, rootAsid := asid, rootRcb := rcb, vf := true }
    let inside := fun (e : Nat × List Byte) => (List.range e.2.length).all (fun i =>
      inGroups groups (e.1 + i) && !(q.reserved.1 ≤ e.1 + i && decide (e.1 + i < q.reserved.2)))
    if (s.part part).vf || !s.composes part q || !image.all inside then s
    else
      let s' := s.clearGroups groups
      let s' := { s' with mem := image.foldl (fun (m : Mem) (e : Nat × List Byte) => memWrite m e.1 e.2) s'.mem, parts := tset s'.parts part q }
      let s' := s'.setRates part rates
      if s'.rootOk part then s' else s)

/-! ## Resizing (R426) -/

/-- Workgroups of a partition on hives that leave, still to be saved. -/
def State.draining (s : State) (p : Nat) (leaving : List Nat) : Bool :=
  s.wgs.any (fun e => e.2.part == p && leaving.contains (hiveOf e.2.core) && e.2.resid != .saved)

/-- A request whose home changes has left its source. -/
def State.underWay (s : State) (p : Nat) : Bool :=
  s.reqs.any (fun r => r.2.part == p && s.rehomed r.2 &&
    !s.pkts.any (fun k => k.2.req == r.1 && s.heldBack k.2))

/-- The parked threads of a saved workgroup that loses its membership leave their cells; 0x67 awaits its restore (R426). -/
def State.expelSaved (s : State) (w : Nat) : State :=
  match s.wg w with
  | none => s
  | some g =>
    let ts := g.which (fun th => match th.st with
      | .parked (.cell _ _ _) => true
      | _ => false)
    ts.foldl (fun (s : State) t => (s.unpark w t).modThread w t (fun th => { th with
      faults := th.faults ++ [{ op := 0, code := 0x67, spc := th.pc.toNat, addr := 0 }] })) s

/-- The members of the groups of hives that leave. -/
def State.membersOf (s : State) (leaving : List Nat) : List Nat :=
  s.wgs.filterMap (fun e => match e.2.group with
    | some d => if leaving.contains (d / 4) then some e.1 else none
    | none => none)

/-- Held ordered entries and owners of a partition move to the new homes of their lines (R426). -/
def State.moveOrdered (s : State) (p : Nat) : State :=
  let all := s.slices
  let buf := all.flatMap (fun (e : Nat × Slice) => e.2.buffer.filter (fun x => x.part == p))
  let arr := all.flatMap (fun (e : Nat × Slice) => e.2.arriving.filter (fun x => x.part == p))
  let own := all.flatMap (fun (e : Nat × Slice) => e.2.owners.filter (fun (x : OwnLine) => x.part == p))
  let fl := all.flatMap (fun (e : Nat × Slice) => e.2.floors)
  let s := { s with slices := all.map (fun (e : Nat × Slice) => (e.1, { e.2 with
    buffer := e.2.buffer.filter (fun x => x.part != p), arriving := e.2.arriving.filter (fun x => x.part != p)
    owners := e.2.owners.filter (fun x => x.part != p) })) }
  let s := buf.foldl (fun (s : State) x => s.modSlice (s.home p x.ph.pa) (fun k => { k with
    buffer := k.buffer ++ [x]
    floors := match fl.find? (fun f => f.1 == x.wg) with
      | some f => if thas k.floors x.wg then k.floors else tset k.floors f.1 f.2
      | none => k.floors })) s
  let s := arr.foldl (fun (s : State) x => s.modSlice (s.home p x.ph.pa) (fun k => { k with arriving := k.arriving ++ [x] })) s
  own.foldl (fun (s : State) x => s.modSlice (s.home p x.pa) (fun k => { k with owners := k.owners ++ [x] })) s

/-- A request that waited at injection takes its new home and a sequence number of the new pair, and so does its packet. -/
def State.redirect (s : State) (id : Nat) (r : Req) : State :=
  let dst := ((s.part r.part).home[r.homeIndex]?).getD 0
  let seq := s.nextSeq r.src dst
  { s with
    reqs := tset s.reqs id { r with dst := dst, seq := seq, pred := s.predOf { r with dst := dst } }
    pkts := s.pkts.map (fun (k : Nat × Pkt) =>
      if k.2.req == id && !k.2.reply then (k.1, { k.2 with dst := dst, die := r.src.entry dst }) else k)
    seqs := (r.src, dst, seq + 1) :: s.seqs.filter (fun e => !(e.1 == r.src && e.2.1 == dst)) }

/-- Firmware's steps (R426; R43: no TLB, walk cache or walk keeps an entry of the partition) once the departing hives are drained and the departing slices have completed their requests. -/
def State.finishResize (s : State) (p : Nat) (q' : Partition) (rates : List Nat) : State :=
  let q := s.part p
  let leaving := q.hives.filter (fun h => !q'.hives.contains h)
  let gone := q.slices.filter (fun n => !q'.slices.contains n)
  let late := s.reqs.filter (fun r => r.2.part == p && s.rehomed r.2)
  let s := (s.membersOf leaving).foldl State.endMembership s
  let s := (s.l2.filter (fun l => q.groups.contains (l.pa / Config.groupBytes))).foldl State.writeBack s
  let s := { s with
    dirs := s.dirs.filter (fun d => !leaving.contains (d.1 / 4))
    l2 := s.l2.filter (fun l => !(q.groups.contains (l.pa / Config.groupBytes) && (l.node || gone.contains l.slice ||
      q'.home[hashPa l.pa]? != some l.slice))) }
  let s := s.modPart p (fun x => { x with
    hives := q'.hives, slices := q'.slices, groups := q'.groups, home := q'.home, moving := [], leavingHives := [] })
  let s := s.moveOrdered p
  let s := s.clearGroups (q'.groups.filter (fun g => !q.groups.contains g))
  let s := s.setRates p rates
  let s := late.foldl (fun (s : State) r => s.redirect r.1 r.2) (s.tlbDrop p 0 (2 ^ 14))
  { s with
    wgs := s.wgs.map (fun (e : Nat × Workgroup) =>
      if e.2.part == p && e.2.saveFor == 1 && e.2.resid == .saved then (e.1, { e.2 with wantBack := true }) else e) }

/-- A resize begins by draining the hives that leave and ends, in a later event with the same composition, once they are
drained and no request is under way to a line whose home changes. -/
def execPartitionResize (part : Nat) (hives slices groups : List Nat) (rates : List Nat) (s : State) : Out :=
  .next (let q := s.part part
    let q' : Partition := { q with hives := hives, slices := slices, groups := groups, home := homeTable slices }
    if !q.vf || !s.composes part q' then s
    else
      let leaving := q.hives.filter (fun h => !hives.contains h)
      let s := s.modPart part (fun x => { x with leavingHives := leaving, moving := q'.home })
      let s := { s with wgs := s.wgs.map (fun (e : Nat × Workgroup) =>
        if e.2.part == part && leaving.contains (hiveOf e.2.core) && e.2.resid != .saved && e.2.saveFor == 0 && !e.2.torn then
          (e.1, { e.2 with saveFor := 1 })
        else e) }
      if s.draining part leaving then s
      else
        let s := (s.membersOf leaving).foldl State.expelSaved s
        if s.underWay part || (s.membersOf leaving).any s.combPending then s else s.finishResize part q' rates)

end Sys2Proof.Machine
end

