-- ==== Sys2Proof/Machine/Dispatch.lean ====
section
/-! DEFINITION. The meaning of each instruction and machine event, by constructor. -/

namespace Sys2Proof.Machine

/-- What an instruction or event does. -/
def exec (i : Instr) (s : State) : Host.Outcome State Fault Refusal :=
  match i with
  | .add c o => Sys2Proof.Machine.execAdd c o s
  | .addImm c o => Sys2Proof.Machine.execAddImm c o s
  | .sub c o => Sys2Proof.Machine.execSub c o s
  | .subImm c o => Sys2Proof.Machine.execSubImm c o s
  | .mul c o => Sys2Proof.Machine.execMul c o s
  | .mulImm c o => Sys2Proof.Machine.execMulImm c o s
  | .mulh c o => Sys2Proof.Machine.execMulh c o s
  | .mad c o => Sys2Proof.Machine.execMad c o s
  | .div c o => Sys2Proof.Machine.execDiv c o s
  | .rem c o => Sys2Proof.Machine.execRem c o s
  | .neg c o => Sys2Proof.Machine.execNeg c o s
  | .abs c o => Sys2Proof.Machine.execAbs c o s
  | .min c o => Sys2Proof.Machine.execMin c o s
  | .minImm c o => Sys2Proof.Machine.execMinImm c o s
  | .max c o => Sys2Proof.Machine.execMax c o s
  | .maxImm c o => Sys2Proof.Machine.execMaxImm c o s
  | .sad c o => Sys2Proof.Machine.execSad c o s
  | .and c o => Sys2Proof.Machine.execAnd c o s
  | .andImm c o => Sys2Proof.Machine.execAndImm c o s
  | .or c o => Sys2Proof.Machine.execOr c o s
  | .orImm c o => Sys2Proof.Machine.execOrImm c o s
  | .xor c o => Sys2Proof.Machine.execXor c o s
  | .xorImm c o => Sys2Proof.Machine.execXorImm c o s
  | .not c o => Sys2Proof.Machine.execNot c o s
  | .shl c o => Sys2Proof.Machine.execShl c o s
  | .shlImm c o => Sys2Proof.Machine.execShlImm c o s
  | .shr c o => Sys2Proof.Machine.execShr c o s
  | .shrImm c o => Sys2Proof.Machine.execShrImm c o s
  | .sar c o => Sys2Proof.Machine.execSar c o s
  | .sarImm c o => Sys2Proof.Machine.execSarImm c o s
  | .rot c o => Sys2Proof.Machine.execRot c o s
  | .rotImm c o => Sys2Proof.Machine.execRotImm c o s
  | .clz c o => Sys2Proof.Machine.execClz c o s
  | .ctz c o => Sys2Proof.Machine.execCtz c o s
  | .popc c o => Sys2Proof.Machine.execPopc c o s
  | .brev c o => Sys2Proof.Machine.execBrev c o s
  | .sel c o => Sys2Proof.Machine.execSel c o s
  | .cmp c o => Sys2Proof.Machine.execCmp c o s
  | .cmpImm c o => Sys2Proof.Machine.execCmpImm c o s
  | .mov c o => Sys2Proof.Machine.execMov c o s
  | .movi c o => Sys2Proof.Machine.execMovi c o s
  | .movh c o => Sys2Proof.Machine.execMovh c o s
  | .ext c o => Sys2Proof.Machine.execExt c o s
  | .lea c o => Sys2Proof.Machine.execLea c o s
  | .pack c o => Sys2Proof.Machine.execPack c o s
  | .unpack c o => Sys2Proof.Machine.execUnpack c o s
  | .swz c o => Sys2Proof.Machine.execSwz c o s
  | .dot4 c o => Sys2Proof.Machine.execDot4 c o s
  | .bfx c o => Sys2Proof.Machine.execBfx c o s
  | .bfi c o => Sys2Proof.Machine.execBfi c o s
  | .bmm8 c o => Sys2Proof.Machine.execBmm8 c o s
  | .pdep c o => Sys2Proof.Machine.execPdep c o s
  | .pext c o => Sys2Proof.Machine.execPext c o s
  | .bperm c o => Sys2Proof.Machine.execBperm c o s
  | .fadd c o => Sys2Proof.Machine.execFadd c o s
  | .faddImm c o => Sys2Proof.Machine.execFaddImm c o s
  | .fsub c o => Sys2Proof.Machine.execFsub c o s
  | .fsubImm c o => Sys2Proof.Machine.execFsubImm c o s
  | .fmul c o => Sys2Proof.Machine.execFmul c o s
  | .fmulImm c o => Sys2Proof.Machine.execFmulImm c o s
  | .ffma c o => Sys2Proof.Machine.execFfma c o s
  | .fmin c o => Sys2Proof.Machine.execFmin c o s
  | .fminImm c o => Sys2Proof.Machine.execFminImm c o s
  | .fmax c o => Sys2Proof.Machine.execFmax c o s
  | .fmaxImm c o => Sys2Proof.Machine.execFmaxImm c o s
  | .fcmp c o => Sys2Proof.Machine.execFcmp c o s
  | .fcmpImm c o => Sys2Proof.Machine.execFcmpImm c o s
  | .fclass c o => Sys2Proof.Machine.execFclass c o s
  | .frnd c o => Sys2Proof.Machine.execFrnd c o s
  | .cvt c o => Sys2Proof.Machine.execCvt c o s
  | .fdot2 c o => Sys2Proof.Machine.execFdot2 c o s
  | .exp2 c fn o => Sys2Proof.Machine.execExp2 c fn o s
  | .log2 c fn o => Sys2Proof.Machine.execLog2 c fn o s
  | .rcp c fn o => Sys2Proof.Machine.execRcp c fn o s
  | .rsqrt c fn o => Sys2Proof.Machine.execRsqrt c fn o s
  | .sqrt c fn o => Sys2Proof.Machine.execSqrt c fn o s
  | .sin c fn o => Sys2Proof.Machine.execSin c fn o s
  | .cos c fn o => Sys2Proof.Machine.execCos c fn o s
  | .tanh c fn o => Sys2Proof.Machine.execTanh c fn o s
  | .sigm c fn o => Sys2Proof.Machine.execSigm c fn o s
  | .erf c fn o => Sys2Proof.Machine.execErf c fn o s
  | .rngDraw c o => Sys2Proof.Machine.execRngDraw c o s
  | .gmax c o => Sys2Proof.Machine.execGmax c o s
  | .quant c o => Sys2Proof.Machine.execQuant c o s
  | .dequant c o => Sys2Proof.Machine.execDequant c o s
  | .shfl c o => Sys2Proof.Machine.execShfl c o s
  | .vote c o => Sys2Proof.Machine.execVote c o s
  | .voteImm c o => Sys2Proof.Machine.execVoteImm c o s
  | .matchT c o => Sys2Proof.Machine.execMatchT c o s
  | .redTeam c o => Sys2Proof.Machine.execRedTeam c o s
  | .redTeamImm c o => Sys2Proof.Machine.execRedTeamImm c o s
  | .scanTeam c o => Sys2Proof.Machine.execScanTeam c o s
  | .scanTeamImm c o => Sys2Proof.Machine.execScanTeamImm c o s
  | .topkIns c o => Sys2Proof.Machine.execTopkIns c o s
  | .ld c o => Sys2Proof.Machine.execLd c o s
  | .ldRo c o => Sys2Proof.Machine.execLdRo c o s
  | .ldC c o => Sys2Proof.Machine.execLdC c o s
  | .ldTl c o => Sys2Proof.Machine.execLdTl c o s
  | .st c o => Sys2Proof.Machine.execSt c o s
  | .pref c o => Sys2Proof.Machine.execPref c o s
  | .smp c o => Sys2Proof.Machine.execSmp c o s
  | .atom c fn o => Sys2Proof.Machine.execAtom c fn o s
  | .atomF c fn o => Sys2Proof.Machine.execAtomF c fn o s
  | .atomCas c o => Sys2Proof.Machine.execAtomCas c o s
  | .atomOrd c fn o => Sys2Proof.Machine.execAtomOrd c fn o s
  | .fence c fn o => Sys2Proof.Machine.execFence c fn o s
  | .fencePath c o => Sys2Proof.Machine.execFencePath c o s
  | .acq c o => Sys2Proof.Machine.execAcq c o s
  | .acqGe c o => Sys2Proof.Machine.execAcqGe c o s
  | .acqX c o => Sys2Proof.Machine.execAcqX c o s
  | .rel c o => Sys2Proof.Machine.execRel c o s
  | .syncBind c o => Sys2Proof.Machine.execSyncBind c o s
  | .syncUnbind c o => Sys2Proof.Machine.execSyncUnbind c o s
  | .cinv c o => Sys2Proof.Machine.execCinv c o s
  | .cwb c o => Sys2Proof.Machine.execCwb c o s
  | .aggDecl c o => Sys2Proof.Machine.execAggDecl c o s
  | .aggFree c o => Sys2Proof.Machine.execAggFree c o s
  | .aggRange c o => Sys2Proof.Machine.execAggRange c o s
  | .aggPfx c o => Sys2Proof.Machine.execAggPfx c o s
  | .aggPick c o => Sys2Proof.Machine.execAggPick c o s
  | .aggSync c o => Sys2Proof.Machine.execAggSync c o s
  | .combJoin c o => Sys2Proof.Machine.execCombJoin c o s
  | .combLeave c o => Sys2Proof.Machine.execCombLeave c o s
  | .combDef c o => Sys2Proof.Machine.execCombDef c o s
  | .combDefs c o => Sys2Proof.Machine.execCombDefs c o s
  | .combRd c o => Sys2Proof.Machine.execCombRd c o s
  | .combRds c o => Sys2Proof.Machine.execCombRds c o s
  | .combKill c o => Sys2Proof.Machine.execCombKill c o s
  | .combQ c o => Sys2Proof.Machine.execCombQ c o s
  | .combMap c o => Sys2Proof.Machine.execCombMap c o s
  | .cpTensor c o => Sys2Proof.Machine.execCpTensor c o s
  | .cpGather c o => Sys2Proof.Machine.execCpGather c o s
  | .cpScatter c o => Sys2Proof.Machine.execCpScatter c o s
  | .cpMcast c o => Sys2Proof.Machine.execCpMcast c o s
  | .cpFill c o => Sys2Proof.Machine.execCpFill c o s
  | .cpResume c o => Sys2Proof.Machine.execCpResume c o s
  | .cbRd c o => Sys2Proof.Machine.execCbRd c o s
  | .dgNode c o => Sys2Proof.Machine.execDgNode c o s
  | .dgGo c o => Sys2Proof.Machine.execDgGo c o s
  | .engGuard c o => Sys2Proof.Machine.execEngGuard c o s
  | .wagSend c o => Sys2Proof.Machine.execWagSend c o s
  | .lqPush c o => Sys2Proof.Machine.execLqPush c o s
  | .msSet c o => Sys2Proof.Machine.execMsSet c o s
  | .mLd c o => Sys2Proof.Machine.execMLd c o s
  | .mSt c o => Sys2Proof.Machine.execMSt c o s
  | .mZero c o => Sys2Proof.Machine.execMZero c o s
  | .rsvAlloc c o => Sys2Proof.Machine.execRsvAlloc c o s
  | .rsvFree c o => Sys2Proof.Machine.execRsvFree c o s
  | .mma c o => Sys2Proof.Machine.execMma c o s
  | .mmaQ c o => Sys2Proof.Machine.execMmaQ c o s
  | .epi c o => Sys2Proof.Machine.execEpi c o s
  | .outlAdd c o => Sys2Proof.Machine.execOutlAdd c o s
  | .amaxRd c o => Sys2Proof.Machine.execAmaxRd c o s
  | .accClr c o => Sys2Proof.Machine.execAccClr c o s
  | .bra c o => Sys2Proof.Machine.execBra c o s
  | .braI c o => Sys2Proof.Machine.execBraI c o s
  | .callF c o => Sys2Proof.Machine.execCallF c o s
  | .callFH c o => Sys2Proof.Machine.execCallFH c o s
  | .callI c o => Sys2Proof.Machine.execCallI c o s
  | .callIH c o => Sys2Proof.Machine.execCallIH c o s
  | .callQ c o => Sys2Proof.Machine.execCallQ c o s
  | .ret c o => Sys2Proof.Machine.execRet c o s
  | .unwind c o => Sys2Proof.Machine.execUnwind c o s
  | .exit c o => Sys2Proof.Machine.execExit c o s
  | .loopCap c o => Sys2Proof.Machine.execLoopCap c o s
  | .loopStep c o => Sys2Proof.Machine.execLoopStep c o s
  | .bktSel c o => Sys2Proof.Machine.execBktSel c o s
  | .elect c o => Sys2Proof.Machine.execElect c o s
  | .yield c o => Sys2Proof.Machine.execYield c o s
  | .nop c o => Sys2Proof.Machine.execNop c o s
  | .barInit c o => Sys2Proof.Machine.execBarInit c o s
  | .barArrive c o => Sys2Proof.Machine.execBarArrive c o s
  | .barWait c o => Sys2Proof.Machine.execBarWait c o s
  | .barTx c o => Sys2Proof.Machine.execBarTx c o s
  | .teamSync c o => Sys2Proof.Machine.execTeamSync c o s
  | .teamSyncImm c o => Sys2Proof.Machine.execTeamSyncImm c o s
  | .wait c o => Sys2Proof.Machine.execWait c o s
  | .trap c o => Sys2Proof.Machine.execTrap c o s
  | .brk c o => Sys2Proof.Machine.execBrk c o s
  | .rdsr c o => Sys2Proof.Machine.execRdsr c o s
  | .wrsr c o => Sys2Proof.Machine.execWrsr c o s
  | .digestRd c o => Sys2Proof.Machine.execDigestRd c o s
  | .tlbInv c o => Sys2Proof.Machine.execTlbInv c o s
  | .sleep c o => Sys2Proof.Machine.execSleep c o s
  | .halt c o => Sys2Proof.Machine.execHalt c o s
  | .tlbMissWalk core k victim => Sys2Proof.Machine.execTlbMissWalk core k victim s
  | .hostTranslationResponse core k ok ha => Sys2Proof.Machine.execHostTranslationResponse core k ok ha s
  | .hostRequestTimeout core k req => Sys2Proof.Machine.execHostRequestTimeout core k req s
  | .atsInvalidation part ha size => Sys2Proof.Machine.execAtsInvalidation part ha size s
  | .flitInjection p => Sys2Proof.Machine.execFlitInjection p s
  | .flitArrival p good => Sys2Proof.Machine.execFlitArrival p good s
  | .sliceRequest p => Sys2Proof.Machine.execSliceRequest p s
  | .replyArrival p => Sys2Proof.Machine.execReplyArrival p s
  | .requestRetransmit r => Sys2Proof.Machine.execRequestRetransmit r s
  | .congestionWindowEnd => Sys2Proof.Machine.execCongestionWindowEnd s
  | .aggUpdateApply part slot => Sys2Proof.Machine.execAggUpdateApply part slot s
  | .aggQueryAccept op => Sys2Proof.Machine.execAggQueryAccept op s
  | .aggBuildComplete op => Sys2Proof.Machine.execAggBuildComplete op s
  | .aggFreeDrain op => Sys2Proof.Machine.execAggFreeDrain op s
  | .orderedEntryArrival slice => Sys2Proof.Machine.execOrderedEntryArrival slice s
  | .floorReport core slice => Sys2Proof.Machine.execFloorReport core slice s
  | .orderedEntryApply slice line => Sys2Proof.Machine.execOrderedEntryApply slice line s
  | .scalingRingPush part => Sys2Proof.Machine.execScalingRingPush part s
  | .combCopyComplete op => Sys2Proof.Machine.execCombCopyComplete op s
  | .combLeaveComplete wg => Sys2Proof.Machine.execCombLeaveComplete wg s
  | .combPlacementMove dir cell place => Sys2Proof.Machine.execCombPlacementMove dir cell place s
  | .engineCommandDispatch wg => Sys2Proof.Machine.execEngineCommandDispatch wg s
  | .engineUnitComplete wg cb unit part => Sys2Proof.Machine.execEngineUnitComplete wg cb unit part s
  | .stallCountExpire wg tid => Sys2Proof.Machine.execStallCountExpire wg tid s
  | .sleepExpire wg tid => Sys2Proof.Machine.execSleepExpire wg tid s
  | .calleeQueueDrain core => Sys2Proof.Machine.execCalleeQueueDrain core s
  | .swarmStart core => Sys2Proof.Machine.execSwarmStart core s
  | .mmaComplete wg => Sys2Proof.Machine.execMmaComplete wg s
  | .epiComplete wg => Sys2Proof.Machine.execEpiComplete wg s
  | .tileTransferComplete wg => Sys2Proof.Machine.execTileTransferComplete wg s
  | .matrixClaimGrant core => Sys2Proof.Machine.execMatrixClaimGrant core s
  | .matrixEviction core => Sys2Proof.Machine.execMatrixEviction core s
  | .doorbell part q value => Sys2Proof.Machine.execDoorbell part q value s
  | .ringCommandNop part q => Sys2Proof.Machine.execRingCommandNop part q s
  | .ringCommandLaunch part q => Sys2Proof.Machine.execRingCommandLaunch part q s
  | .ringCommandGraph part q => Sys2Proof.Machine.execRingCommandGraph part q s
  | .ringCommandDigestReset part q => Sys2Proof.Machine.execRingCommandDigestReset part q s
  | .graphPredDecrement part => Sys2Proof.Machine.execGraphPredDecrement part s
  | .launchQueueTake part die => Sys2Proof.Machine.execLaunchQueueTake part die s
  | .workgroupPlace die => Sys2Proof.Machine.execWorkgroupPlace die s
  | .priorityReserve launch => Sys2Proof.Machine.execPriorityReserve launch s
  | .granuleClearComplete wg => Sys2Proof.Machine.execGranuleClearComplete wg s
  | .workgroupRetire wg => Sys2Proof.Machine.execWorkgroupRetire wg s
  | .digestLinkAppend part q => Sys2Proof.Machine.execDigestLinkAppend part q s
  | .waggleHandlerLaunch part => Sys2Proof.Machine.execWaggleHandlerLaunch part s
  | .faultRecordRelease rec => Sys2Proof.Machine.execFaultRecordRelease rec s
  | .workgroupSave wg => Sys2Proof.Machine.execWorkgroupSave wg s
  | .workgroupRestore wg core bad => Sys2Proof.Machine.execWorkgroupRestore wg core bad s
  | .eccCorrected kind index => Sys2Proof.Machine.execEccCorrected kind index s
  | .fatalError kind index => Sys2Proof.Machine.execFatalError kind index s
  | .powerArbiterTick avg100us avg1ms => Sys2Proof.Machine.execPowerArbiterTick avg100us avg1ms s
  | .hostBar2Access part va n data => Sys2Proof.Machine.execHostBar2Access part va n data s
  | .registerWrite part off value => Sys2Proof.Machine.execRegisterWrite part off value s
  | .qtabWrite part q value => Sys2Proof.Machine.execQtabWrite part q value s
  | .fqstatClear part => Sys2Proof.Machine.execFqstatClear part s
  | .fqresp1 part value => Sys2Proof.Machine.execFqresp1 part value s
  | .switchOut part value => Sys2Proof.Machine.execSwitchOut part value s
  | .switchIn part value => Sys2Proof.Machine.execSwitchIn part value s
  | .restore part value => Sys2Proof.Machine.execRestore part value s
  | .attest part value => Sys2Proof.Machine.execAttest part value s
  | .faultQueuePost part => Sys2Proof.Machine.execFaultQueuePost part s
  | .faultQueueDrain part => Sys2Proof.Machine.execFaultQueueDrain part s
  | .createCq part => Sys2Proof.Machine.execCreateCq part s
  | .destroyCq part => Sys2Proof.Machine.execDestroyCq part s
  | .createQp part => Sys2Proof.Machine.execCreateQp part s
  | .modifyQp part => Sys2Proof.Machine.execModifyQp part s
  | .destroyQp part => Sys2Proof.Machine.execDestroyQp part s
  | .regMr part => Sys2Proof.Machine.execRegMr part s
  | .deregMr part => Sys2Proof.Machine.execDeregMr part s
  | .sqdb part value => Sys2Proof.Machine.execSqdb part value s
  | .rqdb part value => Sys2Proof.Machine.execRqdb part value s
  | .sendWorkRequest part qpn status data => Sys2Proof.Machine.execSendWorkRequest part qpn status data s
  | .roceInbound part qpn kind rva rkey imm data => Sys2Proof.Machine.execRoceInbound part qpn kind rva rkey imm data s
  | .remoteEncapRequest part node spart seq op va args => Sys2Proof.Machine.execRemoteEncapRequest part node spart seq op va args s
  | .remoteRetransmit r => Sys2Proof.Machine.execRemoteRetransmit r s
  | .hostLinkDown => Sys2Proof.Machine.execHostLinkDown s
  | .flrVf part => Sys2Proof.Machine.execFlrVf part s
  | .partitionCreate part hives slices groups shadow combbk rates rootPt asid rcb image => Sys2Proof.Machine.execPartitionCreate part hives slices groups shadow combbk rates rootPt asid rcb image s
  | .partitionResize part hives slices groups rates => Sys2Proof.Machine.execPartitionResize part hives slices groups rates s
  | .firmwareStage bank image => Sys2Proof.Machine.execFirmwareStage bank image s
  | .moduleReset => Sys2Proof.Machine.execModuleReset s
  | .localAccessComplete op => Sys2Proof.Machine.execLocalAccessComplete op s
  | .hbmReadComplete line good victim => Sys2Proof.Machine.execHbmReadComplete line good victim s
  | .combDefinitionComplete op => Sys2Proof.Machine.execCombDefinitionComplete op s
  | .yieldHoldExpire wg tid => Sys2Proof.Machine.execYieldHoldExpire wg tid s
  | .hostCompletion r good => Sys2Proof.Machine.execHostCompletion r good s
  | .roceRetryTimeout part qpn => Sys2Proof.Machine.execRoceRetryTimeout part qpn s
  | .lossOfPower => Sys2Proof.Machine.execLossOfPower s

end Sys2Proof.Machine
end

