-- ==== Sys2Proof/Machine/Launcher.lean ====
section
/-!
DEFINITION. How the host's interface places an instruction: a partition, a launch of one workgroup of one thread, its code
in HBM behind a page table, and an issue turn (notes/assumptions/10.md).
-/

namespace Sys2Proof.Machine

/-- Physical addresses of the loader: page tables at 16 MiB, code at 32 MiB; the code lies at virtual 0x2_0000. -/
def ldRoot : Nat := 0x100_0000
def ldCode : Nat := 0x200_0000
def ldVa : Nat := 0x2_0000
def ldPage : Nat := 0x300_0000
def ldTab (a next : Nat) : List (Nat × List Byte) := [(a, leBytes 8 (next + 1))]

/-- The leaf of page i of the loader's table: code at index 2, data elsewhere. -/
def ldLeaf (i pfn flags : Nat) : List (Nat × List Byte) := [(0x104_0000 + 8 * i, leBytes 8 (2 ^ 52 + pfn + flags))]

/-- The launch of the loader (R455): user level would also do; the queue is privileged so that every form can run. -/
def ldLaunch : Launch :=
  { part := 0, origin := .command 0 0, queue := some 0, ltag := 1, lseq := 0, node := 0
    eff := { asid := 1, ptroot := ldRoot, poolg := 240, spbase := 0x3_0000, spsize := 4096, hives := 1, savebase := 0x4_0000,
             savesize := 2 ^ 30, csize := 65536, cbase := 0x3_0000, calleeq := true }
    gx := 1, gy := 1, gz := 1, wx := 1, wy := 1, wz := 1, regs := 240, scrg := 1, nbars := 8, kcode := ldVa
    kargs := List.replicate 64 0, callees := List.replicate 16 none, memb := false, event := 0, priv := true
    resolvedAt := 0, placed := 1 }

/-- Its thread: a base frame of 240 registers. -/
def ldThread : Thread :=
  { frames := [{ id := 1, base := true, decl := 240, grans := List.range 30, slots := List.replicate 240 0 }] }

/-- Code and page tables of the loader. -/
def ldImage (code : List Byte) : List (Nat × List Byte) :=
  ldTab ldRoot 0x101_0000 ++ ldTab 0x101_0000 0x102_0000 ++ ldTab 0x102_0000 0x103_0000 ++ ldTab 0x103_0000 0x104_0000 ++
  ldLeaf 0 ldPage 0x17 ++ ldLeaf 2 ldCode 0x1B ++ ldLeaf 3 (ldPage + 0x1_0000) 0x57 ++ ldLeaf 4 (ldPage + 0x2_0000) 0x17 ++
  [(ldCode, code)]

/-- The TLB entry of the code page. -/
def ldTlb : TlbEntry :=
  { asid := 1, part := 0, vpn := 2, size := 16, base := ldCode, host := false, cache := 0, rop := false, det := false,
    usr := true, x := true, w := false, r := true, mod := false }

/-- A machine whose next step fetches and runs the 12 bytes given. -/
def State.loadProgram (s : State) (code : List Byte) : State :=
  { s with
    mem := (ldImage code).foldl (fun m e => memWrite m e.1 e.2) s.mem
    wlog := []
    parts := tset s.parts 0 { hives := [0], slices := [0], groups := [1, 0], home := List.replicate 256 0, vf := true,
                              rootPt := ldRoot, rootAsid := 1, shadow := 2 ^ 20, combbk := 2 ^ 20 }
    launches := tset s.launches 1 ldLaunch
    wgs := tset s.wgs 1 { launch := 1, part := 0, idx := 0, core := 0, resid := .resident, threads := [ldThread], grans := [0],
                          group := none }
    cores := tset s.cores 0 { tlb := [ldTlb], groups := [{ slot := 0, wg := 1, pc := 0, pass := none }] }
    nextId := max s.nextId 2
    agenda := [.issue 0 0] }

end Sys2Proof.Machine
end

