-- ==== Sys2Proof/Machine/Upset.lean ====
section
/-!
DEFINITION. Uncorrectable errors of storage: what is marked, and what is dropped (spec/15_faults.md R407, R410, R411). The
readers of a marked word take its fault where they read it. Which words go bad is the agenda's (notes/assumptions/1.md).
-/

namespace Sys2Proof.Machine

/-- A mark added to a list of marks. -/
def mark (l : List Nat) (n : Nat) : List Nat := if l.contains n then l else n :: l

/-- A line of a core's caches is dropped, to be fetched again, and the core's count rises (R407). -/
def State.dropCached (s : State) (core line : Nat) : State :=
  let k := s.core core
  let has := fun (l : List CLine) => l.any (fun e => e.pa == line)
  let less := fun (l : List CLine) => l.filter (fun e => e.pa != line)
  if !has k.l1 && !has k.cst && !has k.smp then s
  else (s.modCore core (fun k => { k with l1 := less k.l1, cst := less k.cst, smp := less k.smp })).corrected .core core

/-- A dirty line of a slice is poisoned; one that holds nodes of a region marks those nodes (R410). -/
def State.dirtyBad (s : State) (line : Nat) : State :=
  if s.l2.any (fun l => l.pa == line && l.dirty && !l.node) then
    { s with poison := mark s.poison line, slicePoison := mark s.slicePoison line }
  else s

/-- A word of storage goes bad; a word that no storage holds is no error (R407, R410, R411). -/
def State.upset (s : State) : Upset → State
  | .register w t f i => s.modThread w t (fun th => { th with
      frames := th.frames.modify f (fun x => if i < x.slots.length && !x.spilled then { x with bad := mark x.bad i } else x) })
  | .scratch w n => s.modWg w (fun g =>
      if 8 * n < g.scrSize && g.resid == .resident then { g with badScratch := mark g.badScratch n } else g)
  | .tile w r n => s.modWg w (fun g => { g with tiles := tmod g.tiles r (fun t => { t with bad := mark t.bad n }) })
  | .accum w a n => s.modWg w (fun g => { g with accs := tmod g.accs a (fun x =>
      if n < 128 * 128 then { x with bad := mark x.bad n } else x) })
  | .operand w r n => s.modWg w (fun g => { g with rsvs := tmod g.rsvs r (fun x =>
      if 8 * n < x.bytes.length then { x with bad := mark x.bad n } else x) })
  | .slice line => s.dirtyBad line
  | .node p slot i => s.modRegion p slot (fun r =>
      if 1 ≤ i && i < 2 * r.n then { r with badNodes := mark r.badNodes i } else r)
  | .cell d c => if ((tget (s.dir d).cells c).map (fun y => !y.value.isEmpty)).getD false
      then s.modCell d c (fun y => { y with bad := true }) else s
  | .cache c line => s.dropCached c line

end Sys2Proof.Machine
end

