-- ==== Sys2Proof/Machine/Step.lean ====
section
/-!
DEFINITION. One step of the module: the turn that the agenda names (notes/assumptions/1.md). An issue turn fetches,
decodes and executes the bundle that the picker gives; an act turn is a machine event; a copy turn carries a copy node on, and an
upset turn is an uncorrectable error of storage; with nothing on the agenda a cycle passes.
-/

namespace Sys2Proof.Machine

/-- One step. -/
def step (s : State) : Host.Outcome State Fault Refusal :=
  match s.agenda with
  | [] => if s.power then .next s.tick else .fault .powerOff
  | u :: rest =>
    let s := { s with agenda := rest, turn := some u }
    match u with
    | .act i =>
      if !s.power && i != .moduleReset then .fault .powerOff
      else if i.isEvent && s.allows i then afterEvent (exec i s) else .next s
    | .tick => if s.power then .next s.tick else .fault .powerOff
    | .issue c p =>
      if !s.power then .fault .powerOff
      else if s.fatal.isSome || s.running.isNone then .next s
      else issueTurn s c p exec
    | .copy r n =>
      if !s.power then .fault .powerOff
      else if s.fatal.isSome || s.running.isNone then .next s
      else afterEvent (.next (s.runCopy r n))
    | .upset x =>
      if !s.power then .fault .powerOff
      else if s.fatal.isSome || s.running.isNone then .next s
      else afterEvent (.next (s.upset x))

/-- s with an instruction stored where the next step fetches it; where it is a cross-lane one, its thread already gathers there
(R162, notes/assumptions/10.md). -/
def State.withFetchWord (s : State) (nbits w : Nat) : State :=
  let s := s.loadProgram (leBytes 12 (w % 2 ^ nbits))
  match decodeWord (w % 2 ^ nbits) with
  | .ok i => (match crossMask i with
    | some m => (s.modThread 1 0 (fun th => { th with st := .gathering (maskIn s 1 0 m) })).gatherUp 0
    | none => s)
  | .error _ => s

end Sys2Proof.Machine
end

