-- ==== Sys2Proof/Laws/Tab.lean ====
section
/-!
SUPPORT. Laws of tables and memories: a read after a write to the same place gives the value written, a write leaves every
other place alone, and every memory operation keeps the canonical form.
-/

namespace Sys2Proof.Machine

/-! ## Tables -/

@[simp] theorem tget_tset_same {α : Type} (t : Tab α) (i : Nat) (y : α) : tget (tset t i y) i = some y := by
  induction t with
  | nil => simp [tset, tget]
  | cons e t ih =>
    obtain ⟨k, x⟩ := e
    simp only [tset]
    split
    · simp [tget]
    · split
      · simp [tget]
      · simp [tget, *]

theorem tget_tset_other {α : Type} (t : Tab α) {i j : Nat} (y : α) (h : j ≠ i) : tget (tset t i y) j = tget t j := by
  induction t with
  | nil => simp [tset, tget, h]
  | cons e t ih =>
    obtain ⟨k, x⟩ := e
    simp only [tset]
    split
    · simp [tget, h]
    · split
      · subst_vars; simp [tget, h]
      · simp [tget, ih]

theorem tget_tset {α : Type} (t : Tab α) (i j : Nat) (y : α) :
    tget (tset t i y) j = if j = i then some y else tget t j := by
  split
  · subst_vars; simp
  · exact tget_tset_other t y ‹_›

@[simp] theorem tget_tmod_same {α : Type} (t : Tab α) (i : Nat) (f : α → α) : tget (tmod t i f) i = (tget t i).map f := by
  unfold tmod
  cases h : tget t i <;> simp [h]

theorem tget_tmod_other {α : Type} (t : Tab α) {i j : Nat} (f : α → α) (h : j ≠ i) : tget (tmod t i f) j = tget t j := by
  unfold tmod
  cases tget t i with
  | none => rfl
  | some x => exact tget_tset_other t _ h

theorem tget_tmod {α : Type} (t : Tab α) (i j : Nat) (f : α → α) :
    tget (tmod t i f) j = if j = i then (tget t i).map f else tget t j := by
  split
  · subst_vars; simp
  · exact tget_tmod_other t f ‹_›

theorem tmod_of_get {α : Type} {t : Tab α} {i : Nat} {x : α} (f : α → α) (h : tget t i = some x) :
    tmod t i f = tset t i (f x) := by simp [tmod, h]

theorem tmod_of_none {α : Type} {t : Tab α} {i : Nat} (f : α → α) (h : tget t i = none) : tmod t i f = t := by
  simp [tmod, h]

@[simp] theorem tset_tset {α : Type} (t : Tab α) (i : Nat) (x y : α) : tset (tset t i x) i y = tset t i y := by
  induction t with
  | nil => simp [tset]
  | cons e t ih =>
    obtain ⟨k, z⟩ := e
    simp only [tset]
    split
    · simp [tset]
    · split
      · simp [tset]
      · simp [tset, *]

theorem tmod_tmod {α : Type} (t : Tab α) (i : Nat) (f g : α → α) : tmod (tmod t i f) i g = tmod t i (fun x => g (f x)) := by
  cases h : tget t i with
  | none => simp [tmod, h]
  | some x => rw [tmod_of_get f h, tmod_of_get _ (tget_tset_same t i (f x)), tset_tset, tmod_of_get _ h]

theorem tget_tdel_other {α : Type} (t : Tab α) {i j : Nat} (h : j ≠ i) : tget (tdel t i) j = tget t j := by
  induction t with
  | nil => rfl
  | cons e t ih =>
    obtain ⟨k, x⟩ := e
    simp only [tdel]
    split
    · subst_vars; simp [tget, h]
    · simp [tget, ih]

/-! ## Memory -/

theorem wfFrom_weaken {m : Mem} {lo hi : Nat} (hl : lo ≤ hi) (h : Memory.wfFrom hi m = true) : Memory.wfFrom lo m = true := by
  cases m with
  | nil => rfl
  | cons e m =>
    obtain ⟨a, b⟩ := e
    simp only [Memory.wfFrom, Bool.and_eq_true, decide_eq_true_eq] at h ⊢
    exact ⟨⟨by omega, h.1.2⟩, h.2⟩

/-- A byte below the bound of a canonical memory is not listed. -/
theorem memGet_below {m : Mem} {lo x : Nat} (h : Memory.wfFrom lo m = true) (hx : x < lo) : memGet m x = unlisted := by
  cases m with
  | nil => rfl
  | cons e m =>
    obtain ⟨a, b⟩ := e
    simp only [Memory.wfFrom, Bool.and_eq_true, decide_eq_true_eq] at h
    simp only [memGet]
    split
    · omega
    · split
      · rfl
      · omega

/-- A write of one byte keeps the canonical form. -/
theorem memSet_wfFrom {m : Mem} {lo a : Nat} {b : Byte} (h : Memory.wfFrom lo m = true) (ha : lo ≤ a) :
    Memory.wfFrom lo (memSet m a b) = true := by
  induction m generalizing lo with
  | nil =>
    simp only [memSet]
    split
    · rfl
    · simp [Memory.wfFrom, *]
  | cons e m ih =>
    obtain ⟨k, c⟩ := e
    have h0 := h
    simp only [Memory.wfFrom, Bool.and_eq_true, decide_eq_true_eq] at h
    obtain ⟨⟨h1, h2⟩, h3⟩ := h
    simp only [memSet]
    split
    · split
      · exact h0
      · rename_i hk hb
        simp only [Memory.wfFrom, Bool.and_eq_true, decide_eq_true_eq]
        exact ⟨⟨ha, by simpa using hb⟩, ⟨by omega, h2⟩, h3⟩
    · split
      · subst_vars
        split
        · exact wfFrom_weaken (by omega) h3
        · rename_i hb
          simp only [Memory.wfFrom, Bool.and_eq_true, decide_eq_true_eq]
          exact ⟨⟨h1, by simpa using hb⟩, h3⟩
      · simp only [Memory.wfFrom, Bool.and_eq_true, decide_eq_true_eq]
        exact ⟨⟨h1, h2⟩, ih h3 (by omega)⟩

theorem memSet_wf {m : Mem} (a : Nat) (b : Byte) (h : Memory.wf m = true) : Memory.wf (memSet m a b) = true :=
  memSet_wfFrom h (Nat.zero_le a)

/-- A write of any length keeps the canonical form. -/
theorem memWrite_wf {m : Mem} (a : Nat) (bs : List Byte) (h : Memory.wf m = true) : Memory.wf (memWrite m a bs) = true := by
  induction bs generalizing m a with
  | nil => exact h
  | cons b bs ih => exact ih (a + 1) (memSet_wf a b h)

theorem memGet_memSet_from {m : Mem} {lo a x : Nat} {b : Byte} (h : Memory.wfFrom lo m = true) :
    memGet (memSet m a b) x = if x = a then b else memGet m x := by
  induction m generalizing lo with
  | nil =>
    simp only [memSet]
    split
    · subst_vars; simp [memGet]
    · simp only [memGet]; split <;> simp_all
  | cons e m ih =>
    obtain ⟨k, c⟩ := e
    simp only [Memory.wfFrom, Bool.and_eq_true, decide_eq_true_eq] at h
    obtain ⟨⟨h1, h2⟩, h3⟩ := h
    simp only [memSet]
    split
    · split
      · subst_vars
        split
        · subst_vars; simp only [memGet]; split
          · omega
          · rfl
        · rfl
      · simp only [memGet]
        split
        · rfl
        · split
          · split
            · omega
            · split
              · rfl
              · omega
          · rfl
    · split
      · subst_vars
        split
        · subst_vars
          split
          · subst_vars; exact memGet_below h3 (by omega)
          · simp only [memGet]
            rename_i hx
            simp only [hx, if_false]
            split
            · exact memGet_below h3 (by omega)
            · rfl
        · simp only [memGet]
          split
          · rfl
          · split <;> rfl
      · simp only [memGet]
        split
        · split
          · omega
          · rfl
        · split
          · split
            · omega
            · rfl
          · rw [ih h3]

/-- A read after a write of one byte. -/
theorem memGet_memSet {m : Mem} (a x : Nat) (b : Byte) (h : Memory.wf m = true) :
    memGet (memSet m a b) x = if x = a then b else memGet m x := memGet_memSet_from h

/-- A write leaves every byte outside it alone. -/
theorem memGet_memWrite_out {m : Mem} {a x : Nat} {bs : List Byte} (h : Memory.wf m = true)
    (hx : x < a ∨ a + bs.length ≤ x) : memGet (memWrite m a bs) x = memGet m x := by
  induction bs generalizing m a with
  | nil => rfl
  | cons b bs ih =>
    simp only [List.length_cons] at hx
    simp only [memWrite]
    rw [ih (memSet_wf a b h) (by omega), memGet_memSet a x b h]
    simp; omega

/-- A byte inside a write reads as it was written. -/
theorem memGet_memWrite_in {m : Mem} {a i : Nat} {bs : List Byte} (h : Memory.wf m = true) (hi : i < bs.length) :
    memGet (memWrite m a bs) (a + i) = bs[i] := by
  induction bs generalizing m a i with
  | nil => simp at hi
  | cons b bs ih =>
    simp only [memWrite]
    cases i with
    | zero =>
      rw [memGet_memWrite_out (memSet_wf a b h) (by omega), memGet_memSet a (a + 0) b h]
      simp
    | succ i =>
      rw [show a + (i + 1) = a + 1 + i by omega, ih (memSet_wf a b h) (by simpa using hi)]
      simp

@[simp] theorem memRead_length (m : Mem) (a n : Nat) : (memRead m a n).length = n := by
  induction n generalizing a with
  | zero => rfl
  | succ n ih => simp [memRead, ih]

theorem memRead_getElem (m : Mem) (a n i : Nat) (h : i < n) : (memRead m a n)[i]'(by simpa using h) = memGet m (a + i) := by
  induction n generalizing a i with
  | zero => omega
  | succ n ih =>
    cases i with
    | zero => rfl
    | succ i =>
      simp only [memRead, List.getElem_cons_succ]
      rw [ih (a + 1) i (by omega)]
      congr 1
      omega

/-- A read after a write to the same place gives the bytes written. -/
theorem memRead_memWrite_same {m : Mem} (a : Nat) (bs : List Byte) (h : Memory.wf m = true) :
    memRead (memWrite m a bs) a bs.length = bs := by
  apply List.ext_getElem
  · simp
  · intro i h1 h2
    rw [memRead_getElem _ _ _ _ h2, memGet_memWrite_in h h2]

end Sys2Proof.Machine
end

