-- ==== Sys2Proof/Laws/State.lean ====
section
/-!
SUPPORT. Laws of the state: what each update of one table leaves of every field, and what each accessor gives after an update.
-/

namespace Sys2Proof.Machine

/-! ## Fields after updates -/

/-! ### modCore -/

@[simp] theorem State.modCore_agenda (s : State) (c : Nat) (f : Core → Core) : (s.modCore c f).agenda = s.agenda := rfl
@[simp] theorem State.modCore_cur (s : State) (c : Nat) (f : Core → Core) : (s.modCore c f).cur = s.cur := rfl
@[simp] theorem State.modCore_fresh (s : State) (c : Nat) (f : Core → Core) : (s.modCore c f).fresh = s.fresh := rfl
@[simp] theorem State.modCore_nextId (s : State) (c : Nat) (f : Core → Core) : (s.modCore c f).nextId = s.nextId := rfl
@[simp] theorem State.modCore_issues (s : State) (c : Nat) (f : Core → Core) : (s.modCore c f).issues = s.issues := rfl
@[simp] theorem State.modCore_now (s : State) (c : Nat) (f : Core → Core) : (s.modCore c f).now = s.now := rfl
@[simp] theorem State.modCore_mem (s : State) (c : Nat) (f : Core → Core) : (s.modCore c f).mem = s.mem := rfl
@[simp] theorem State.modCore_host (s : State) (c : Nat) (f : Core → Core) : (s.modCore c f).host = s.host := rfl
@[simp] theorem State.modCore_wlog (s : State) (c : Nat) (f : Core → Core) : (s.modCore c f).wlog = s.wlog := rfl
@[simp] theorem State.modCore_l2 (s : State) (c : Nat) (f : Core → Core) : (s.modCore c f).l2 = s.l2 := rfl
@[simp] theorem State.modCore_poison (s : State) (c : Nat) (f : Core → Core) : (s.modCore c f).poison = s.poison := rfl
@[simp] theorem State.modCore_slicePoison (s : State) (c : Nat) (f : Core → Core) : (s.modCore c f).slicePoison = s.slicePoison := rfl
@[simp] theorem State.modCore_hbmReads (s : State) (c : Nat) (f : Core → Core) : (s.modCore c f).hbmReads = s.hbmReads := rfl
@[simp] theorem State.modCore_walks (s : State) (c : Nat) (f : Core → Core) : (s.modCore c f).walks = s.walks := rfl
@[simp] theorem State.modCore_slices (s : State) (c : Nat) (f : Core → Core) : (s.modCore c f).slices = s.slices := rfl
@[simp] theorem State.modCore_wgs (s : State) (c : Nat) (f : Core → Core) : (s.modCore c f).wgs = s.wgs := rfl
@[simp] theorem State.modCore_launches (s : State) (c : Nat) (f : Core → Core) : (s.modCore c f).launches = s.launches := rfl
@[simp] theorem State.modCore_ops (s : State) (c : Nat) (f : Core → Core) : (s.modCore c f).ops = s.ops := rfl
@[simp] theorem State.modCore_reqs (s : State) (c : Nat) (f : Core → Core) : (s.modCore c f).reqs = s.reqs := rfl
@[simp] theorem State.modCore_pkts (s : State) (c : Nat) (f : Core → Core) : (s.modCore c f).pkts = s.pkts := rfl
@[simp] theorem State.modCore_windows (s : State) (c : Nat) (f : Core → Core) : (s.modCore c f).windows = s.windows := rfl
@[simp] theorem State.modCore_seqs (s : State) (c : Nat) (f : Core → Core) : (s.modCore c f).seqs = s.seqs := rfl
@[simp] theorem State.modCore_buckets (s : State) (c : Nat) (f : Core → Core) : (s.modCore c f).buckets = s.buckets := rfl
@[simp] theorem State.modCore_waiters (s : State) (c : Nat) (f : Core → Core) : (s.modCore c f).waiters = s.waiters := rfl
@[simp] theorem State.modCore_records (s : State) (c : Nat) (f : Core → Core) : (s.modCore c f).records = s.records := rfl
@[simp] theorem State.modCore_kind2s (s : State) (c : Nat) (f : Core → Core) : (s.modCore c f).kind2s = s.kind2s := rfl
@[simp] theorem State.modCore_dirs (s : State) (c : Nat) (f : Core → Core) : (s.modCore c f).dirs = s.dirs := rfl
@[simp] theorem State.modCore_parts (s : State) (c : Nat) (f : Core → Core) : (s.modCore c f).parts = s.parts := rfl
@[simp] theorem State.modCore_runs (s : State) (c : Nat) (f : Core → Core) : (s.modCore c f).runs = s.runs := rfl
@[simp] theorem State.modCore_lqs (s : State) (c : Nat) (f : Core → Core) : (s.modCore c f).lqs = s.lqs := rfl
@[simp] theorem State.modCore_lqPlaced (s : State) (c : Nat) (f : Core → Core) : (s.modCore c f).lqPlaced = s.lqPlaced := rfl
@[simp] theorem State.modCore_ecc (s : State) (c : Nat) (f : Core → Core) : (s.modCore c f).ecc = s.ecc := rfl
@[simp] theorem State.modCore_link (s : State) (c : Nat) (f : Core → Core) : (s.modCore c f).link = s.link := rfl
@[simp] theorem State.modCore_clock (s : State) (c : Nat) (f : Core → Core) : (s.modCore c f).clock = s.clock := rfl
@[simp] theorem State.modCore_ats (s : State) (c : Nat) (f : Core → Core) : (s.modCore c f).ats = s.ats := rfl
@[simp] theorem State.modCore_atsAsk (s : State) (c : Nat) (f : Core → Core) : (s.modCore c f).atsAsk = s.atsAsk := rfl
@[simp] theorem State.modCore_atsBad (s : State) (c : Nat) (f : Core → Core) : (s.modCore c f).atsBad = s.atsBad := rfl
@[simp] theorem State.modCore_windowAt (s : State) (c : Nat) (f : Core → Core) : (s.modCore c f).windowAt = s.windowAt := rfl
@[simp] theorem State.modCore_fatal (s : State) (c : Nat) (f : Core → Core) : (s.modCore c f).fatal = s.fatal := rfl
@[simp] theorem State.modCore_power (s : State) (c : Nat) (f : Core → Core) : (s.modCore c f).power = s.power := rfl
@[simp] theorem State.modCore_placeAt (s : State) (c : Nat) (f : Core → Core) : (s.modCore c f).placeAt = s.placeAt := rfl
@[simp] theorem State.modCore_msis (s : State) (c : Nat) (f : Core → Core) : (s.modCore c f).msis = s.msis := rfl
@[simp] theorem State.modCore_blocked (s : State) (c : Nat) (f : Core → Core) : (s.modCore c f).blocked = s.blocked := rfl
@[simp] theorem State.modCore_stages (s : State) (c : Nat) (f : Core → Core) : (s.modCore c f).stages = s.stages := rfl
@[simp] theorem State.modCore_net (s : State) (c : Nat) (f : Core → Core) : (s.modCore c f).net = s.net := rfl
@[simp] theorem State.modCore_wants (s : State) (c : Nat) (f : Core → Core) : (s.modCore c f).wants = s.wants := rfl
@[simp] theorem State.modCore_puts (s : State) (c : Nat) (f : Core → Core) : (s.modCore c f).puts = s.puts := rfl
@[simp] theorem State.modCore_remotes (s : State) (c : Nat) (f : Core → Core) : (s.modCore c f).remotes = s.remotes := rfl
@[simp] theorem State.modCore_peers (s : State) (c : Nat) (f : Core → Core) : (s.modCore c f).peers = s.peers := rfl
@[simp] theorem State.modCore_encaps (s : State) (c : Nat) (f : Core → Core) : (s.modCore c f).encaps = s.encaps := rfl
@[simp] theorem State.modCore_banks (s : State) (c : Nat) (f : Core → Core) : (s.modCore c f).banks = s.banks := rfl
@[simp] theorem State.modCore_activeBank (s : State) (c : Nat) (f : Core → Core) : (s.modCore c f).activeBank = s.activeBank := rfl
@[simp] theorem State.modCore_running (s : State) (c : Nat) (f : Core → Core) : (s.modCore c f).running = s.running := rfl
@[simp] theorem State.modCore_hostData (s : State) (c : Nat) (f : Core → Core) : (s.modCore c f).hostData = s.hostData := rfl
@[simp] theorem State.modCore_turn (s : State) (c : Nat) (f : Core → Core) : (s.modCore c f).turn = s.turn := rfl
@[simp] theorem State.modCore_asking (s : State) (c : Nat) (f : Core → Core) : (s.modCore c f).asking = s.asking := rfl
@[simp] theorem State.modCore_walkLast (s : State) (c : Nat) (f : Core → Core) : (s.modCore c f).walkLast = s.walkLast := rfl
@[simp] theorem State.modCore_cnps (s : State) (c : Nat) (f : Core → Core) : (s.modCore c f).cnps = s.cnps := rfl

/-! ### modSlice -/

@[simp] theorem State.modSlice_agenda (s : State) (n : Nat) (f : Slice → Slice) : (s.modSlice n f).agenda = s.agenda := rfl
@[simp] theorem State.modSlice_cur (s : State) (n : Nat) (f : Slice → Slice) : (s.modSlice n f).cur = s.cur := rfl
@[simp] theorem State.modSlice_fresh (s : State) (n : Nat) (f : Slice → Slice) : (s.modSlice n f).fresh = s.fresh := rfl
@[simp] theorem State.modSlice_nextId (s : State) (n : Nat) (f : Slice → Slice) : (s.modSlice n f).nextId = s.nextId := rfl
@[simp] theorem State.modSlice_issues (s : State) (n : Nat) (f : Slice → Slice) : (s.modSlice n f).issues = s.issues := rfl
@[simp] theorem State.modSlice_now (s : State) (n : Nat) (f : Slice → Slice) : (s.modSlice n f).now = s.now := rfl
@[simp] theorem State.modSlice_mem (s : State) (n : Nat) (f : Slice → Slice) : (s.modSlice n f).mem = s.mem := rfl
@[simp] theorem State.modSlice_host (s : State) (n : Nat) (f : Slice → Slice) : (s.modSlice n f).host = s.host := rfl
@[simp] theorem State.modSlice_wlog (s : State) (n : Nat) (f : Slice → Slice) : (s.modSlice n f).wlog = s.wlog := rfl
@[simp] theorem State.modSlice_l2 (s : State) (n : Nat) (f : Slice → Slice) : (s.modSlice n f).l2 = s.l2 := rfl
@[simp] theorem State.modSlice_poison (s : State) (n : Nat) (f : Slice → Slice) : (s.modSlice n f).poison = s.poison := rfl
@[simp] theorem State.modSlice_slicePoison (s : State) (n : Nat) (f : Slice → Slice) : (s.modSlice n f).slicePoison = s.slicePoison := rfl
@[simp] theorem State.modSlice_hbmReads (s : State) (n : Nat) (f : Slice → Slice) : (s.modSlice n f).hbmReads = s.hbmReads := rfl
@[simp] theorem State.modSlice_cores (s : State) (n : Nat) (f : Slice → Slice) : (s.modSlice n f).cores = s.cores := rfl
@[simp] theorem State.modSlice_walks (s : State) (n : Nat) (f : Slice → Slice) : (s.modSlice n f).walks = s.walks := rfl
@[simp] theorem State.modSlice_wgs (s : State) (n : Nat) (f : Slice → Slice) : (s.modSlice n f).wgs = s.wgs := rfl
@[simp] theorem State.modSlice_launches (s : State) (n : Nat) (f : Slice → Slice) : (s.modSlice n f).launches = s.launches := rfl
@[simp] theorem State.modSlice_ops (s : State) (n : Nat) (f : Slice → Slice) : (s.modSlice n f).ops = s.ops := rfl
@[simp] theorem State.modSlice_reqs (s : State) (n : Nat) (f : Slice → Slice) : (s.modSlice n f).reqs = s.reqs := rfl
@[simp] theorem State.modSlice_pkts (s : State) (n : Nat) (f : Slice → Slice) : (s.modSlice n f).pkts = s.pkts := rfl
@[simp] theorem State.modSlice_windows (s : State) (n : Nat) (f : Slice → Slice) : (s.modSlice n f).windows = s.windows := rfl
@[simp] theorem State.modSlice_seqs (s : State) (n : Nat) (f : Slice → Slice) : (s.modSlice n f).seqs = s.seqs := rfl
@[simp] theorem State.modSlice_buckets (s : State) (n : Nat) (f : Slice → Slice) : (s.modSlice n f).buckets = s.buckets := rfl
@[simp] theorem State.modSlice_waiters (s : State) (n : Nat) (f : Slice → Slice) : (s.modSlice n f).waiters = s.waiters := rfl
@[simp] theorem State.modSlice_records (s : State) (n : Nat) (f : Slice → Slice) : (s.modSlice n f).records = s.records := rfl
@[simp] theorem State.modSlice_kind2s (s : State) (n : Nat) (f : Slice → Slice) : (s.modSlice n f).kind2s = s.kind2s := rfl
@[simp] theorem State.modSlice_dirs (s : State) (n : Nat) (f : Slice → Slice) : (s.modSlice n f).dirs = s.dirs := rfl
@[simp] theorem State.modSlice_parts (s : State) (n : Nat) (f : Slice → Slice) : (s.modSlice n f).parts = s.parts := rfl
@[simp] theorem State.modSlice_runs (s : State) (n : Nat) (f : Slice → Slice) : (s.modSlice n f).runs = s.runs := rfl
@[simp] theorem State.modSlice_lqs (s : State) (n : Nat) (f : Slice → Slice) : (s.modSlice n f).lqs = s.lqs := rfl
@[simp] theorem State.modSlice_lqPlaced (s : State) (n : Nat) (f : Slice → Slice) : (s.modSlice n f).lqPlaced = s.lqPlaced := rfl
@[simp] theorem State.modSlice_ecc (s : State) (n : Nat) (f : Slice → Slice) : (s.modSlice n f).ecc = s.ecc := rfl
@[simp] theorem State.modSlice_link (s : State) (n : Nat) (f : Slice → Slice) : (s.modSlice n f).link = s.link := rfl
@[simp] theorem State.modSlice_clock (s : State) (n : Nat) (f : Slice → Slice) : (s.modSlice n f).clock = s.clock := rfl
@[simp] theorem State.modSlice_ats (s : State) (n : Nat) (f : Slice → Slice) : (s.modSlice n f).ats = s.ats := rfl
@[simp] theorem State.modSlice_atsAsk (s : State) (n : Nat) (f : Slice → Slice) : (s.modSlice n f).atsAsk = s.atsAsk := rfl
@[simp] theorem State.modSlice_atsBad (s : State) (n : Nat) (f : Slice → Slice) : (s.modSlice n f).atsBad = s.atsBad := rfl
@[simp] theorem State.modSlice_windowAt (s : State) (n : Nat) (f : Slice → Slice) : (s.modSlice n f).windowAt = s.windowAt := rfl
@[simp] theorem State.modSlice_fatal (s : State) (n : Nat) (f : Slice → Slice) : (s.modSlice n f).fatal = s.fatal := rfl
@[simp] theorem State.modSlice_power (s : State) (n : Nat) (f : Slice → Slice) : (s.modSlice n f).power = s.power := rfl
@[simp] theorem State.modSlice_placeAt (s : State) (n : Nat) (f : Slice → Slice) : (s.modSlice n f).placeAt = s.placeAt := rfl
@[simp] theorem State.modSlice_msis (s : State) (n : Nat) (f : Slice → Slice) : (s.modSlice n f).msis = s.msis := rfl
@[simp] theorem State.modSlice_blocked (s : State) (n : Nat) (f : Slice → Slice) : (s.modSlice n f).blocked = s.blocked := rfl
@[simp] theorem State.modSlice_stages (s : State) (n : Nat) (f : Slice → Slice) : (s.modSlice n f).stages = s.stages := rfl
@[simp] theorem State.modSlice_net (s : State) (n : Nat) (f : Slice → Slice) : (s.modSlice n f).net = s.net := rfl
@[simp] theorem State.modSlice_wants (s : State) (n : Nat) (f : Slice → Slice) : (s.modSlice n f).wants = s.wants := rfl
@[simp] theorem State.modSlice_puts (s : State) (n : Nat) (f : Slice → Slice) : (s.modSlice n f).puts = s.puts := rfl
@[simp] theorem State.modSlice_remotes (s : State) (n : Nat) (f : Slice → Slice) : (s.modSlice n f).remotes = s.remotes := rfl
@[simp] theorem State.modSlice_peers (s : State) (n : Nat) (f : Slice → Slice) : (s.modSlice n f).peers = s.peers := rfl
@[simp] theorem State.modSlice_encaps (s : State) (n : Nat) (f : Slice → Slice) : (s.modSlice n f).encaps = s.encaps := rfl
@[simp] theorem State.modSlice_banks (s : State) (n : Nat) (f : Slice → Slice) : (s.modSlice n f).banks = s.banks := rfl
@[simp] theorem State.modSlice_activeBank (s : State) (n : Nat) (f : Slice → Slice) : (s.modSlice n f).activeBank = s.activeBank := rfl
@[simp] theorem State.modSlice_running (s : State) (n : Nat) (f : Slice → Slice) : (s.modSlice n f).running = s.running := rfl
@[simp] theorem State.modSlice_hostData (s : State) (n : Nat) (f : Slice → Slice) : (s.modSlice n f).hostData = s.hostData := rfl
@[simp] theorem State.modSlice_turn (s : State) (n : Nat) (f : Slice → Slice) : (s.modSlice n f).turn = s.turn := rfl
@[simp] theorem State.modSlice_asking (s : State) (n : Nat) (f : Slice → Slice) : (s.modSlice n f).asking = s.asking := rfl
@[simp] theorem State.modSlice_walkLast (s : State) (n : Nat) (f : Slice → Slice) : (s.modSlice n f).walkLast = s.walkLast := rfl
@[simp] theorem State.modSlice_cnps (s : State) (n : Nat) (f : Slice → Slice) : (s.modSlice n f).cnps = s.cnps := rfl

/-! ### modWg -/

@[simp] theorem State.modWg_agenda (s : State) (w : Nat) (f : Workgroup → Workgroup) : (s.modWg w f).agenda = s.agenda := rfl
@[simp] theorem State.modWg_cur (s : State) (w : Nat) (f : Workgroup → Workgroup) : (s.modWg w f).cur = s.cur := rfl
@[simp] theorem State.modWg_fresh (s : State) (w : Nat) (f : Workgroup → Workgroup) : (s.modWg w f).fresh = s.fresh := rfl
@[simp] theorem State.modWg_nextId (s : State) (w : Nat) (f : Workgroup → Workgroup) : (s.modWg w f).nextId = s.nextId := rfl
@[simp] theorem State.modWg_issues (s : State) (w : Nat) (f : Workgroup → Workgroup) : (s.modWg w f).issues = s.issues := rfl
@[simp] theorem State.modWg_now (s : State) (w : Nat) (f : Workgroup → Workgroup) : (s.modWg w f).now = s.now := rfl
@[simp] theorem State.modWg_mem (s : State) (w : Nat) (f : Workgroup → Workgroup) : (s.modWg w f).mem = s.mem := rfl
@[simp] theorem State.modWg_host (s : State) (w : Nat) (f : Workgroup → Workgroup) : (s.modWg w f).host = s.host := rfl
@[simp] theorem State.modWg_wlog (s : State) (w : Nat) (f : Workgroup → Workgroup) : (s.modWg w f).wlog = s.wlog := rfl
@[simp] theorem State.modWg_l2 (s : State) (w : Nat) (f : Workgroup → Workgroup) : (s.modWg w f).l2 = s.l2 := rfl
@[simp] theorem State.modWg_poison (s : State) (w : Nat) (f : Workgroup → Workgroup) : (s.modWg w f).poison = s.poison := rfl
@[simp] theorem State.modWg_slicePoison (s : State) (w : Nat) (f : Workgroup → Workgroup) : (s.modWg w f).slicePoison = s.slicePoison := rfl
@[simp] theorem State.modWg_hbmReads (s : State) (w : Nat) (f : Workgroup → Workgroup) : (s.modWg w f).hbmReads = s.hbmReads := rfl
@[simp] theorem State.modWg_cores (s : State) (w : Nat) (f : Workgroup → Workgroup) : (s.modWg w f).cores = s.cores := rfl
@[simp] theorem State.modWg_walks (s : State) (w : Nat) (f : Workgroup → Workgroup) : (s.modWg w f).walks = s.walks := rfl
@[simp] theorem State.modWg_slices (s : State) (w : Nat) (f : Workgroup → Workgroup) : (s.modWg w f).slices = s.slices := rfl
@[simp] theorem State.modWg_launches (s : State) (w : Nat) (f : Workgroup → Workgroup) : (s.modWg w f).launches = s.launches := rfl
@[simp] theorem State.modWg_ops (s : State) (w : Nat) (f : Workgroup → Workgroup) : (s.modWg w f).ops = s.ops := rfl
@[simp] theorem State.modWg_reqs (s : State) (w : Nat) (f : Workgroup → Workgroup) : (s.modWg w f).reqs = s.reqs := rfl
@[simp] theorem State.modWg_pkts (s : State) (w : Nat) (f : Workgroup → Workgroup) : (s.modWg w f).pkts = s.pkts := rfl
@[simp] theorem State.modWg_windows (s : State) (w : Nat) (f : Workgroup → Workgroup) : (s.modWg w f).windows = s.windows := rfl
@[simp] theorem State.modWg_seqs (s : State) (w : Nat) (f : Workgroup → Workgroup) : (s.modWg w f).seqs = s.seqs := rfl
@[simp] theorem State.modWg_buckets (s : State) (w : Nat) (f : Workgroup → Workgroup) : (s.modWg w f).buckets = s.buckets := rfl
@[simp] theorem State.modWg_waiters (s : State) (w : Nat) (f : Workgroup → Workgroup) : (s.modWg w f).waiters = s.waiters := rfl
@[simp] theorem State.modWg_records (s : State) (w : Nat) (f : Workgroup → Workgroup) : (s.modWg w f).records = s.records := rfl
@[simp] theorem State.modWg_kind2s (s : State) (w : Nat) (f : Workgroup → Workgroup) : (s.modWg w f).kind2s = s.kind2s := rfl
@[simp] theorem State.modWg_dirs (s : State) (w : Nat) (f : Workgroup → Workgroup) : (s.modWg w f).dirs = s.dirs := rfl
@[simp] theorem State.modWg_parts (s : State) (w : Nat) (f : Workgroup → Workgroup) : (s.modWg w f).parts = s.parts := rfl
@[simp] theorem State.modWg_runs (s : State) (w : Nat) (f : Workgroup → Workgroup) : (s.modWg w f).runs = s.runs := rfl
@[simp] theorem State.modWg_lqs (s : State) (w : Nat) (f : Workgroup → Workgroup) : (s.modWg w f).lqs = s.lqs := rfl
@[simp] theorem State.modWg_lqPlaced (s : State) (w : Nat) (f : Workgroup → Workgroup) : (s.modWg w f).lqPlaced = s.lqPlaced := rfl
@[simp] theorem State.modWg_ecc (s : State) (w : Nat) (f : Workgroup → Workgroup) : (s.modWg w f).ecc = s.ecc := rfl
@[simp] theorem State.modWg_link (s : State) (w : Nat) (f : Workgroup → Workgroup) : (s.modWg w f).link = s.link := rfl
@[simp] theorem State.modWg_clock (s : State) (w : Nat) (f : Workgroup → Workgroup) : (s.modWg w f).clock = s.clock := rfl
@[simp] theorem State.modWg_ats (s : State) (w : Nat) (f : Workgroup → Workgroup) : (s.modWg w f).ats = s.ats := rfl
@[simp] theorem State.modWg_atsAsk (s : State) (w : Nat) (f : Workgroup → Workgroup) : (s.modWg w f).atsAsk = s.atsAsk := rfl
@[simp] theorem State.modWg_atsBad (s : State) (w : Nat) (f : Workgroup → Workgroup) : (s.modWg w f).atsBad = s.atsBad := rfl
@[simp] theorem State.modWg_windowAt (s : State) (w : Nat) (f : Workgroup → Workgroup) : (s.modWg w f).windowAt = s.windowAt := rfl
@[simp] theorem State.modWg_fatal (s : State) (w : Nat) (f : Workgroup → Workgroup) : (s.modWg w f).fatal = s.fatal := rfl
@[simp] theorem State.modWg_power (s : State) (w : Nat) (f : Workgroup → Workgroup) : (s.modWg w f).power = s.power := rfl
@[simp] theorem State.modWg_placeAt (s : State) (w : Nat) (f : Workgroup → Workgroup) : (s.modWg w f).placeAt = s.placeAt := rfl
@[simp] theorem State.modWg_msis (s : State) (w : Nat) (f : Workgroup → Workgroup) : (s.modWg w f).msis = s.msis := rfl
@[simp] theorem State.modWg_blocked (s : State) (w : Nat) (f : Workgroup → Workgroup) : (s.modWg w f).blocked = s.blocked := rfl
@[simp] theorem State.modWg_stages (s : State) (w : Nat) (f : Workgroup → Workgroup) : (s.modWg w f).stages = s.stages := rfl
@[simp] theorem State.modWg_net (s : State) (w : Nat) (f : Workgroup → Workgroup) : (s.modWg w f).net = s.net := rfl
@[simp] theorem State.modWg_wants (s : State) (w : Nat) (f : Workgroup → Workgroup) : (s.modWg w f).wants = s.wants := rfl
@[simp] theorem State.modWg_puts (s : State) (w : Nat) (f : Workgroup → Workgroup) : (s.modWg w f).puts = s.puts := rfl
@[simp] theorem State.modWg_remotes (s : State) (w : Nat) (f : Workgroup → Workgroup) : (s.modWg w f).remotes = s.remotes := rfl
@[simp] theorem State.modWg_peers (s : State) (w : Nat) (f : Workgroup → Workgroup) : (s.modWg w f).peers = s.peers := rfl
@[simp] theorem State.modWg_encaps (s : State) (w : Nat) (f : Workgroup → Workgroup) : (s.modWg w f).encaps = s.encaps := rfl
@[simp] theorem State.modWg_banks (s : State) (w : Nat) (f : Workgroup → Workgroup) : (s.modWg w f).banks = s.banks := rfl
@[simp] theorem State.modWg_activeBank (s : State) (w : Nat) (f : Workgroup → Workgroup) : (s.modWg w f).activeBank = s.activeBank := rfl
@[simp] theorem State.modWg_running (s : State) (w : Nat) (f : Workgroup → Workgroup) : (s.modWg w f).running = s.running := rfl
@[simp] theorem State.modWg_hostData (s : State) (w : Nat) (f : Workgroup → Workgroup) : (s.modWg w f).hostData = s.hostData := rfl
@[simp] theorem State.modWg_turn (s : State) (w : Nat) (f : Workgroup → Workgroup) : (s.modWg w f).turn = s.turn := rfl
@[simp] theorem State.modWg_asking (s : State) (w : Nat) (f : Workgroup → Workgroup) : (s.modWg w f).asking = s.asking := rfl
@[simp] theorem State.modWg_walkLast (s : State) (w : Nat) (f : Workgroup → Workgroup) : (s.modWg w f).walkLast = s.walkLast := rfl
@[simp] theorem State.modWg_cnps (s : State) (w : Nat) (f : Workgroup → Workgroup) : (s.modWg w f).cnps = s.cnps := rfl

/-! ### modThread -/

@[simp] theorem State.modThread_agenda (s : State) (w t : Nat) (f : Thread → Thread) : (s.modThread w t f).agenda = s.agenda := rfl
@[simp] theorem State.modThread_cur (s : State) (w t : Nat) (f : Thread → Thread) : (s.modThread w t f).cur = s.cur := rfl
@[simp] theorem State.modThread_fresh (s : State) (w t : Nat) (f : Thread → Thread) : (s.modThread w t f).fresh = s.fresh := rfl
@[simp] theorem State.modThread_nextId (s : State) (w t : Nat) (f : Thread → Thread) : (s.modThread w t f).nextId = s.nextId := rfl
@[simp] theorem State.modThread_issues (s : State) (w t : Nat) (f : Thread → Thread) : (s.modThread w t f).issues = s.issues := rfl
@[simp] theorem State.modThread_now (s : State) (w t : Nat) (f : Thread → Thread) : (s.modThread w t f).now = s.now := rfl
@[simp] theorem State.modThread_mem (s : State) (w t : Nat) (f : Thread → Thread) : (s.modThread w t f).mem = s.mem := rfl
@[simp] theorem State.modThread_host (s : State) (w t : Nat) (f : Thread → Thread) : (s.modThread w t f).host = s.host := rfl
@[simp] theorem State.modThread_wlog (s : State) (w t : Nat) (f : Thread → Thread) : (s.modThread w t f).wlog = s.wlog := rfl
@[simp] theorem State.modThread_l2 (s : State) (w t : Nat) (f : Thread → Thread) : (s.modThread w t f).l2 = s.l2 := rfl
@[simp] theorem State.modThread_poison (s : State) (w t : Nat) (f : Thread → Thread) : (s.modThread w t f).poison = s.poison := rfl
@[simp] theorem State.modThread_slicePoison (s : State) (w t : Nat) (f : Thread → Thread) : (s.modThread w t f).slicePoison = s.slicePoison := rfl
@[simp] theorem State.modThread_hbmReads (s : State) (w t : Nat) (f : Thread → Thread) : (s.modThread w t f).hbmReads = s.hbmReads := rfl
@[simp] theorem State.modThread_cores (s : State) (w t : Nat) (f : Thread → Thread) : (s.modThread w t f).cores = s.cores := rfl
@[simp] theorem State.modThread_walks (s : State) (w t : Nat) (f : Thread → Thread) : (s.modThread w t f).walks = s.walks := rfl
@[simp] theorem State.modThread_slices (s : State) (w t : Nat) (f : Thread → Thread) : (s.modThread w t f).slices = s.slices := rfl
@[simp] theorem State.modThread_launches (s : State) (w t : Nat) (f : Thread → Thread) : (s.modThread w t f).launches = s.launches := rfl
@[simp] theorem State.modThread_ops (s : State) (w t : Nat) (f : Thread → Thread) : (s.modThread w t f).ops = s.ops := rfl
@[simp] theorem State.modThread_reqs (s : State) (w t : Nat) (f : Thread → Thread) : (s.modThread w t f).reqs = s.reqs := rfl
@[simp] theorem State.modThread_pkts (s : State) (w t : Nat) (f : Thread → Thread) : (s.modThread w t f).pkts = s.pkts := rfl
@[simp] theorem State.modThread_windows (s : State) (w t : Nat) (f : Thread → Thread) : (s.modThread w t f).windows = s.windows := rfl
@[simp] theorem State.modThread_seqs (s : State) (w t : Nat) (f : Thread → Thread) : (s.modThread w t f).seqs = s.seqs := rfl
@[simp] theorem State.modThread_buckets (s : State) (w t : Nat) (f : Thread → Thread) : (s.modThread w t f).buckets = s.buckets := rfl
@[simp] theorem State.modThread_waiters (s : State) (w t : Nat) (f : Thread → Thread) : (s.modThread w t f).waiters = s.waiters := rfl
@[simp] theorem State.modThread_records (s : State) (w t : Nat) (f : Thread → Thread) : (s.modThread w t f).records = s.records := rfl
@[simp] theorem State.modThread_kind2s (s : State) (w t : Nat) (f : Thread → Thread) : (s.modThread w t f).kind2s = s.kind2s := rfl
@[simp] theorem State.modThread_dirs (s : State) (w t : Nat) (f : Thread → Thread) : (s.modThread w t f).dirs = s.dirs := rfl
@[simp] theorem State.modThread_parts (s : State) (w t : Nat) (f : Thread → Thread) : (s.modThread w t f).parts = s.parts := rfl
@[simp] theorem State.modThread_runs (s : State) (w t : Nat) (f : Thread → Thread) : (s.modThread w t f).runs = s.runs := rfl
@[simp] theorem State.modThread_lqs (s : State) (w t : Nat) (f : Thread → Thread) : (s.modThread w t f).lqs = s.lqs := rfl
@[simp] theorem State.modThread_lqPlaced (s : State) (w t : Nat) (f : Thread → Thread) : (s.modThread w t f).lqPlaced = s.lqPlaced := rfl
@[simp] theorem State.modThread_ecc (s : State) (w t : Nat) (f : Thread → Thread) : (s.modThread w t f).ecc = s.ecc := rfl
@[simp] theorem State.modThread_link (s : State) (w t : Nat) (f : Thread → Thread) : (s.modThread w t f).link = s.link := rfl
@[simp] theorem State.modThread_clock (s : State) (w t : Nat) (f : Thread → Thread) : (s.modThread w t f).clock = s.clock := rfl
@[simp] theorem State.modThread_ats (s : State) (w t : Nat) (f : Thread → Thread) : (s.modThread w t f).ats = s.ats := rfl
@[simp] theorem State.modThread_atsAsk (s : State) (w t : Nat) (f : Thread → Thread) : (s.modThread w t f).atsAsk = s.atsAsk := rfl
@[simp] theorem State.modThread_atsBad (s : State) (w t : Nat) (f : Thread → Thread) : (s.modThread w t f).atsBad = s.atsBad := rfl
@[simp] theorem State.modThread_windowAt (s : State) (w t : Nat) (f : Thread → Thread) : (s.modThread w t f).windowAt = s.windowAt := rfl
@[simp] theorem State.modThread_fatal (s : State) (w t : Nat) (f : Thread → Thread) : (s.modThread w t f).fatal = s.fatal := rfl
@[simp] theorem State.modThread_power (s : State) (w t : Nat) (f : Thread → Thread) : (s.modThread w t f).power = s.power := rfl
@[simp] theorem State.modThread_placeAt (s : State) (w t : Nat) (f : Thread → Thread) : (s.modThread w t f).placeAt = s.placeAt := rfl
@[simp] theorem State.modThread_msis (s : State) (w t : Nat) (f : Thread → Thread) : (s.modThread w t f).msis = s.msis := rfl
@[simp] theorem State.modThread_blocked (s : State) (w t : Nat) (f : Thread → Thread) : (s.modThread w t f).blocked = s.blocked := rfl
@[simp] theorem State.modThread_stages (s : State) (w t : Nat) (f : Thread → Thread) : (s.modThread w t f).stages = s.stages := rfl
@[simp] theorem State.modThread_net (s : State) (w t : Nat) (f : Thread → Thread) : (s.modThread w t f).net = s.net := rfl
@[simp] theorem State.modThread_wants (s : State) (w t : Nat) (f : Thread → Thread) : (s.modThread w t f).wants = s.wants := rfl
@[simp] theorem State.modThread_puts (s : State) (w t : Nat) (f : Thread → Thread) : (s.modThread w t f).puts = s.puts := rfl
@[simp] theorem State.modThread_remotes (s : State) (w t : Nat) (f : Thread → Thread) : (s.modThread w t f).remotes = s.remotes := rfl
@[simp] theorem State.modThread_peers (s : State) (w t : Nat) (f : Thread → Thread) : (s.modThread w t f).peers = s.peers := rfl
@[simp] theorem State.modThread_encaps (s : State) (w t : Nat) (f : Thread → Thread) : (s.modThread w t f).encaps = s.encaps := rfl
@[simp] theorem State.modThread_banks (s : State) (w t : Nat) (f : Thread → Thread) : (s.modThread w t f).banks = s.banks := rfl
@[simp] theorem State.modThread_activeBank (s : State) (w t : Nat) (f : Thread → Thread) : (s.modThread w t f).activeBank = s.activeBank := rfl
@[simp] theorem State.modThread_running (s : State) (w t : Nat) (f : Thread → Thread) : (s.modThread w t f).running = s.running := rfl
@[simp] theorem State.modThread_hostData (s : State) (w t : Nat) (f : Thread → Thread) : (s.modThread w t f).hostData = s.hostData := rfl
@[simp] theorem State.modThread_turn (s : State) (w t : Nat) (f : Thread → Thread) : (s.modThread w t f).turn = s.turn := rfl
@[simp] theorem State.modThread_asking (s : State) (w t : Nat) (f : Thread → Thread) : (s.modThread w t f).asking = s.asking := rfl
@[simp] theorem State.modThread_walkLast (s : State) (w t : Nat) (f : Thread → Thread) : (s.modThread w t f).walkLast = s.walkLast := rfl
@[simp] theorem State.modThread_cnps (s : State) (w t : Nat) (f : Thread → Thread) : (s.modThread w t f).cnps = s.cnps := rfl

/-! ### modPart -/

@[simp] theorem State.modPart_agenda (s : State) (p : Nat) (f : Partition → Partition) : (s.modPart p f).agenda = s.agenda := rfl
@[simp] theorem State.modPart_cur (s : State) (p : Nat) (f : Partition → Partition) : (s.modPart p f).cur = s.cur := rfl
@[simp] theorem State.modPart_fresh (s : State) (p : Nat) (f : Partition → Partition) : (s.modPart p f).fresh = s.fresh := rfl
@[simp] theorem State.modPart_nextId (s : State) (p : Nat) (f : Partition → Partition) : (s.modPart p f).nextId = s.nextId := rfl
@[simp] theorem State.modPart_issues (s : State) (p : Nat) (f : Partition → Partition) : (s.modPart p f).issues = s.issues := rfl
@[simp] theorem State.modPart_now (s : State) (p : Nat) (f : Partition → Partition) : (s.modPart p f).now = s.now := rfl
@[simp] theorem State.modPart_mem (s : State) (p : Nat) (f : Partition → Partition) : (s.modPart p f).mem = s.mem := rfl
@[simp] theorem State.modPart_host (s : State) (p : Nat) (f : Partition → Partition) : (s.modPart p f).host = s.host := rfl
@[simp] theorem State.modPart_wlog (s : State) (p : Nat) (f : Partition → Partition) : (s.modPart p f).wlog = s.wlog := rfl
@[simp] theorem State.modPart_l2 (s : State) (p : Nat) (f : Partition → Partition) : (s.modPart p f).l2 = s.l2 := rfl
@[simp] theorem State.modPart_poison (s : State) (p : Nat) (f : Partition → Partition) : (s.modPart p f).poison = s.poison := rfl
@[simp] theorem State.modPart_slicePoison (s : State) (p : Nat) (f : Partition → Partition) : (s.modPart p f).slicePoison = s.slicePoison := rfl
@[simp] theorem State.modPart_hbmReads (s : State) (p : Nat) (f : Partition → Partition) : (s.modPart p f).hbmReads = s.hbmReads := rfl
@[simp] theorem State.modPart_cores (s : State) (p : Nat) (f : Partition → Partition) : (s.modPart p f).cores = s.cores := rfl
@[simp] theorem State.modPart_walks (s : State) (p : Nat) (f : Partition → Partition) : (s.modPart p f).walks = s.walks := rfl
@[simp] theorem State.modPart_slices (s : State) (p : Nat) (f : Partition → Partition) : (s.modPart p f).slices = s.slices := rfl
@[simp] theorem State.modPart_wgs (s : State) (p : Nat) (f : Partition → Partition) : (s.modPart p f).wgs = s.wgs := rfl
@[simp] theorem State.modPart_launches (s : State) (p : Nat) (f : Partition → Partition) : (s.modPart p f).launches = s.launches := rfl
@[simp] theorem State.modPart_ops (s : State) (p : Nat) (f : Partition → Partition) : (s.modPart p f).ops = s.ops := rfl
@[simp] theorem State.modPart_reqs (s : State) (p : Nat) (f : Partition → Partition) : (s.modPart p f).reqs = s.reqs := rfl
@[simp] theorem State.modPart_pkts (s : State) (p : Nat) (f : Partition → Partition) : (s.modPart p f).pkts = s.pkts := rfl
@[simp] theorem State.modPart_windows (s : State) (p : Nat) (f : Partition → Partition) : (s.modPart p f).windows = s.windows := rfl
@[simp] theorem State.modPart_seqs (s : State) (p : Nat) (f : Partition → Partition) : (s.modPart p f).seqs = s.seqs := rfl
@[simp] theorem State.modPart_buckets (s : State) (p : Nat) (f : Partition → Partition) : (s.modPart p f).buckets = s.buckets := rfl
@[simp] theorem State.modPart_waiters (s : State) (p : Nat) (f : Partition → Partition) : (s.modPart p f).waiters = s.waiters := rfl
@[simp] theorem State.modPart_records (s : State) (p : Nat) (f : Partition → Partition) : (s.modPart p f).records = s.records := rfl
@[simp] theorem State.modPart_kind2s (s : State) (p : Nat) (f : Partition → Partition) : (s.modPart p f).kind2s = s.kind2s := rfl
@[simp] theorem State.modPart_dirs (s : State) (p : Nat) (f : Partition → Partition) : (s.modPart p f).dirs = s.dirs := rfl
@[simp] theorem State.modPart_runs (s : State) (p : Nat) (f : Partition → Partition) : (s.modPart p f).runs = s.runs := rfl
@[simp] theorem State.modPart_lqs (s : State) (p : Nat) (f : Partition → Partition) : (s.modPart p f).lqs = s.lqs := rfl
@[simp] theorem State.modPart_lqPlaced (s : State) (p : Nat) (f : Partition → Partition) : (s.modPart p f).lqPlaced = s.lqPlaced := rfl
@[simp] theorem State.modPart_ecc (s : State) (p : Nat) (f : Partition → Partition) : (s.modPart p f).ecc = s.ecc := rfl
@[simp] theorem State.modPart_link (s : State) (p : Nat) (f : Partition → Partition) : (s.modPart p f).link = s.link := rfl
@[simp] theorem State.modPart_clock (s : State) (p : Nat) (f : Partition → Partition) : (s.modPart p f).clock = s.clock := rfl
@[simp] theorem State.modPart_ats (s : State) (p : Nat) (f : Partition → Partition) : (s.modPart p f).ats = s.ats := rfl
@[simp] theorem State.modPart_atsAsk (s : State) (p : Nat) (f : Partition → Partition) : (s.modPart p f).atsAsk = s.atsAsk := rfl
@[simp] theorem State.modPart_atsBad (s : State) (p : Nat) (f : Partition → Partition) : (s.modPart p f).atsBad = s.atsBad := rfl
@[simp] theorem State.modPart_windowAt (s : State) (p : Nat) (f : Partition → Partition) : (s.modPart p f).windowAt = s.windowAt := rfl
@[simp] theorem State.modPart_fatal (s : State) (p : Nat) (f : Partition → Partition) : (s.modPart p f).fatal = s.fatal := rfl
@[simp] theorem State.modPart_power (s : State) (p : Nat) (f : Partition → Partition) : (s.modPart p f).power = s.power := rfl
@[simp] theorem State.modPart_placeAt (s : State) (p : Nat) (f : Partition → Partition) : (s.modPart p f).placeAt = s.placeAt := rfl
@[simp] theorem State.modPart_msis (s : State) (p : Nat) (f : Partition → Partition) : (s.modPart p f).msis = s.msis := rfl
@[simp] theorem State.modPart_blocked (s : State) (p : Nat) (f : Partition → Partition) : (s.modPart p f).blocked = s.blocked := rfl
@[simp] theorem State.modPart_stages (s : State) (p : Nat) (f : Partition → Partition) : (s.modPart p f).stages = s.stages := rfl
@[simp] theorem State.modPart_net (s : State) (p : Nat) (f : Partition → Partition) : (s.modPart p f).net = s.net := rfl
@[simp] theorem State.modPart_wants (s : State) (p : Nat) (f : Partition → Partition) : (s.modPart p f).wants = s.wants := rfl
@[simp] theorem State.modPart_puts (s : State) (p : Nat) (f : Partition → Partition) : (s.modPart p f).puts = s.puts := rfl
@[simp] theorem State.modPart_remotes (s : State) (p : Nat) (f : Partition → Partition) : (s.modPart p f).remotes = s.remotes := rfl
@[simp] theorem State.modPart_peers (s : State) (p : Nat) (f : Partition → Partition) : (s.modPart p f).peers = s.peers := rfl
@[simp] theorem State.modPart_encaps (s : State) (p : Nat) (f : Partition → Partition) : (s.modPart p f).encaps = s.encaps := rfl
@[simp] theorem State.modPart_banks (s : State) (p : Nat) (f : Partition → Partition) : (s.modPart p f).banks = s.banks := rfl
@[simp] theorem State.modPart_activeBank (s : State) (p : Nat) (f : Partition → Partition) : (s.modPart p f).activeBank = s.activeBank := rfl
@[simp] theorem State.modPart_running (s : State) (p : Nat) (f : Partition → Partition) : (s.modPart p f).running = s.running := rfl
@[simp] theorem State.modPart_hostData (s : State) (p : Nat) (f : Partition → Partition) : (s.modPart p f).hostData = s.hostData := rfl
@[simp] theorem State.modPart_turn (s : State) (p : Nat) (f : Partition → Partition) : (s.modPart p f).turn = s.turn := rfl
@[simp] theorem State.modPart_asking (s : State) (p : Nat) (f : Partition → Partition) : (s.modPart p f).asking = s.asking := rfl
@[simp] theorem State.modPart_walkLast (s : State) (p : Nat) (f : Partition → Partition) : (s.modPart p f).walkLast = s.walkLast := rfl
@[simp] theorem State.modPart_cnps (s : State) (p : Nat) (f : Partition → Partition) : (s.modPart p f).cnps = s.cnps := rfl

/-! ### modLaunch -/

@[simp] theorem State.modLaunch_agenda (s : State) (l : Nat) (f : Launch → Launch) : (s.modLaunch l f).agenda = s.agenda := rfl
@[simp] theorem State.modLaunch_cur (s : State) (l : Nat) (f : Launch → Launch) : (s.modLaunch l f).cur = s.cur := rfl
@[simp] theorem State.modLaunch_fresh (s : State) (l : Nat) (f : Launch → Launch) : (s.modLaunch l f).fresh = s.fresh := rfl
@[simp] theorem State.modLaunch_nextId (s : State) (l : Nat) (f : Launch → Launch) : (s.modLaunch l f).nextId = s.nextId := rfl
@[simp] theorem State.modLaunch_issues (s : State) (l : Nat) (f : Launch → Launch) : (s.modLaunch l f).issues = s.issues := rfl
@[simp] theorem State.modLaunch_now (s : State) (l : Nat) (f : Launch → Launch) : (s.modLaunch l f).now = s.now := rfl
@[simp] theorem State.modLaunch_mem (s : State) (l : Nat) (f : Launch → Launch) : (s.modLaunch l f).mem = s.mem := rfl
@[simp] theorem State.modLaunch_host (s : State) (l : Nat) (f : Launch → Launch) : (s.modLaunch l f).host = s.host := rfl
@[simp] theorem State.modLaunch_wlog (s : State) (l : Nat) (f : Launch → Launch) : (s.modLaunch l f).wlog = s.wlog := rfl
@[simp] theorem State.modLaunch_l2 (s : State) (l : Nat) (f : Launch → Launch) : (s.modLaunch l f).l2 = s.l2 := rfl
@[simp] theorem State.modLaunch_poison (s : State) (l : Nat) (f : Launch → Launch) : (s.modLaunch l f).poison = s.poison := rfl
@[simp] theorem State.modLaunch_slicePoison (s : State) (l : Nat) (f : Launch → Launch) : (s.modLaunch l f).slicePoison = s.slicePoison := rfl
@[simp] theorem State.modLaunch_hbmReads (s : State) (l : Nat) (f : Launch → Launch) : (s.modLaunch l f).hbmReads = s.hbmReads := rfl
@[simp] theorem State.modLaunch_cores (s : State) (l : Nat) (f : Launch → Launch) : (s.modLaunch l f).cores = s.cores := rfl
@[simp] theorem State.modLaunch_walks (s : State) (l : Nat) (f : Launch → Launch) : (s.modLaunch l f).walks = s.walks := rfl
@[simp] theorem State.modLaunch_slices (s : State) (l : Nat) (f : Launch → Launch) : (s.modLaunch l f).slices = s.slices := rfl
@[simp] theorem State.modLaunch_wgs (s : State) (l : Nat) (f : Launch → Launch) : (s.modLaunch l f).wgs = s.wgs := rfl
@[simp] theorem State.modLaunch_ops (s : State) (l : Nat) (f : Launch → Launch) : (s.modLaunch l f).ops = s.ops := rfl
@[simp] theorem State.modLaunch_reqs (s : State) (l : Nat) (f : Launch → Launch) : (s.modLaunch l f).reqs = s.reqs := rfl
@[simp] theorem State.modLaunch_pkts (s : State) (l : Nat) (f : Launch → Launch) : (s.modLaunch l f).pkts = s.pkts := rfl
@[simp] theorem State.modLaunch_windows (s : State) (l : Nat) (f : Launch → Launch) : (s.modLaunch l f).windows = s.windows := rfl
@[simp] theorem State.modLaunch_seqs (s : State) (l : Nat) (f : Launch → Launch) : (s.modLaunch l f).seqs = s.seqs := rfl
@[simp] theorem State.modLaunch_buckets (s : State) (l : Nat) (f : Launch → Launch) : (s.modLaunch l f).buckets = s.buckets := rfl
@[simp] theorem State.modLaunch_waiters (s : State) (l : Nat) (f : Launch → Launch) : (s.modLaunch l f).waiters = s.waiters := rfl
@[simp] theorem State.modLaunch_records (s : State) (l : Nat) (f : Launch → Launch) : (s.modLaunch l f).records = s.records := rfl
@[simp] theorem State.modLaunch_kind2s (s : State) (l : Nat) (f : Launch → Launch) : (s.modLaunch l f).kind2s = s.kind2s := rfl
@[simp] theorem State.modLaunch_dirs (s : State) (l : Nat) (f : Launch → Launch) : (s.modLaunch l f).dirs = s.dirs := rfl
@[simp] theorem State.modLaunch_parts (s : State) (l : Nat) (f : Launch → Launch) : (s.modLaunch l f).parts = s.parts := rfl
@[simp] theorem State.modLaunch_runs (s : State) (l : Nat) (f : Launch → Launch) : (s.modLaunch l f).runs = s.runs := rfl
@[simp] theorem State.modLaunch_lqs (s : State) (l : Nat) (f : Launch → Launch) : (s.modLaunch l f).lqs = s.lqs := rfl
@[simp] theorem State.modLaunch_lqPlaced (s : State) (l : Nat) (f : Launch → Launch) : (s.modLaunch l f).lqPlaced = s.lqPlaced := rfl
@[simp] theorem State.modLaunch_ecc (s : State) (l : Nat) (f : Launch → Launch) : (s.modLaunch l f).ecc = s.ecc := rfl
@[simp] theorem State.modLaunch_link (s : State) (l : Nat) (f : Launch → Launch) : (s.modLaunch l f).link = s.link := rfl
@[simp] theorem State.modLaunch_clock (s : State) (l : Nat) (f : Launch → Launch) : (s.modLaunch l f).clock = s.clock := rfl
@[simp] theorem State.modLaunch_ats (s : State) (l : Nat) (f : Launch → Launch) : (s.modLaunch l f).ats = s.ats := rfl
@[simp] theorem State.modLaunch_atsAsk (s : State) (l : Nat) (f : Launch → Launch) : (s.modLaunch l f).atsAsk = s.atsAsk := rfl
@[simp] theorem State.modLaunch_atsBad (s : State) (l : Nat) (f : Launch → Launch) : (s.modLaunch l f).atsBad = s.atsBad := rfl
@[simp] theorem State.modLaunch_windowAt (s : State) (l : Nat) (f : Launch → Launch) : (s.modLaunch l f).windowAt = s.windowAt := rfl
@[simp] theorem State.modLaunch_fatal (s : State) (l : Nat) (f : Launch → Launch) : (s.modLaunch l f).fatal = s.fatal := rfl
@[simp] theorem State.modLaunch_power (s : State) (l : Nat) (f : Launch → Launch) : (s.modLaunch l f).power = s.power := rfl
@[simp] theorem State.modLaunch_placeAt (s : State) (l : Nat) (f : Launch → Launch) : (s.modLaunch l f).placeAt = s.placeAt := rfl
@[simp] theorem State.modLaunch_msis (s : State) (l : Nat) (f : Launch → Launch) : (s.modLaunch l f).msis = s.msis := rfl
@[simp] theorem State.modLaunch_blocked (s : State) (l : Nat) (f : Launch → Launch) : (s.modLaunch l f).blocked = s.blocked := rfl
@[simp] theorem State.modLaunch_stages (s : State) (l : Nat) (f : Launch → Launch) : (s.modLaunch l f).stages = s.stages := rfl
@[simp] theorem State.modLaunch_net (s : State) (l : Nat) (f : Launch → Launch) : (s.modLaunch l f).net = s.net := rfl
@[simp] theorem State.modLaunch_wants (s : State) (l : Nat) (f : Launch → Launch) : (s.modLaunch l f).wants = s.wants := rfl
@[simp] theorem State.modLaunch_puts (s : State) (l : Nat) (f : Launch → Launch) : (s.modLaunch l f).puts = s.puts := rfl
@[simp] theorem State.modLaunch_remotes (s : State) (l : Nat) (f : Launch → Launch) : (s.modLaunch l f).remotes = s.remotes := rfl
@[simp] theorem State.modLaunch_peers (s : State) (l : Nat) (f : Launch → Launch) : (s.modLaunch l f).peers = s.peers := rfl
@[simp] theorem State.modLaunch_encaps (s : State) (l : Nat) (f : Launch → Launch) : (s.modLaunch l f).encaps = s.encaps := rfl
@[simp] theorem State.modLaunch_banks (s : State) (l : Nat) (f : Launch → Launch) : (s.modLaunch l f).banks = s.banks := rfl
@[simp] theorem State.modLaunch_activeBank (s : State) (l : Nat) (f : Launch → Launch) : (s.modLaunch l f).activeBank = s.activeBank := rfl
@[simp] theorem State.modLaunch_running (s : State) (l : Nat) (f : Launch → Launch) : (s.modLaunch l f).running = s.running := rfl
@[simp] theorem State.modLaunch_hostData (s : State) (l : Nat) (f : Launch → Launch) : (s.modLaunch l f).hostData = s.hostData := rfl
@[simp] theorem State.modLaunch_turn (s : State) (l : Nat) (f : Launch → Launch) : (s.modLaunch l f).turn = s.turn := rfl
@[simp] theorem State.modLaunch_asking (s : State) (l : Nat) (f : Launch → Launch) : (s.modLaunch l f).asking = s.asking := rfl
@[simp] theorem State.modLaunch_walkLast (s : State) (l : Nat) (f : Launch → Launch) : (s.modLaunch l f).walkLast = s.walkLast := rfl
@[simp] theorem State.modLaunch_cnps (s : State) (l : Nat) (f : Launch → Launch) : (s.modLaunch l f).cnps = s.cnps := rfl

/-! ### modDir -/

@[simp] theorem State.modDir_agenda (s : State) (d : Nat) (f : Dir → Dir) : (s.modDir d f).agenda = s.agenda := rfl
@[simp] theorem State.modDir_cur (s : State) (d : Nat) (f : Dir → Dir) : (s.modDir d f).cur = s.cur := rfl
@[simp] theorem State.modDir_fresh (s : State) (d : Nat) (f : Dir → Dir) : (s.modDir d f).fresh = s.fresh := rfl
@[simp] theorem State.modDir_nextId (s : State) (d : Nat) (f : Dir → Dir) : (s.modDir d f).nextId = s.nextId := rfl
@[simp] theorem State.modDir_issues (s : State) (d : Nat) (f : Dir → Dir) : (s.modDir d f).issues = s.issues := rfl
@[simp] theorem State.modDir_now (s : State) (d : Nat) (f : Dir → Dir) : (s.modDir d f).now = s.now := rfl
@[simp] theorem State.modDir_mem (s : State) (d : Nat) (f : Dir → Dir) : (s.modDir d f).mem = s.mem := rfl
@[simp] theorem State.modDir_host (s : State) (d : Nat) (f : Dir → Dir) : (s.modDir d f).host = s.host := rfl
@[simp] theorem State.modDir_wlog (s : State) (d : Nat) (f : Dir → Dir) : (s.modDir d f).wlog = s.wlog := rfl
@[simp] theorem State.modDir_l2 (s : State) (d : Nat) (f : Dir → Dir) : (s.modDir d f).l2 = s.l2 := rfl
@[simp] theorem State.modDir_poison (s : State) (d : Nat) (f : Dir → Dir) : (s.modDir d f).poison = s.poison := rfl
@[simp] theorem State.modDir_slicePoison (s : State) (d : Nat) (f : Dir → Dir) : (s.modDir d f).slicePoison = s.slicePoison := rfl
@[simp] theorem State.modDir_hbmReads (s : State) (d : Nat) (f : Dir → Dir) : (s.modDir d f).hbmReads = s.hbmReads := rfl
@[simp] theorem State.modDir_cores (s : State) (d : Nat) (f : Dir → Dir) : (s.modDir d f).cores = s.cores := rfl
@[simp] theorem State.modDir_walks (s : State) (d : Nat) (f : Dir → Dir) : (s.modDir d f).walks = s.walks := rfl
@[simp] theorem State.modDir_slices (s : State) (d : Nat) (f : Dir → Dir) : (s.modDir d f).slices = s.slices := rfl
@[simp] theorem State.modDir_wgs (s : State) (d : Nat) (f : Dir → Dir) : (s.modDir d f).wgs = s.wgs := rfl
@[simp] theorem State.modDir_launches (s : State) (d : Nat) (f : Dir → Dir) : (s.modDir d f).launches = s.launches := rfl
@[simp] theorem State.modDir_ops (s : State) (d : Nat) (f : Dir → Dir) : (s.modDir d f).ops = s.ops := rfl
@[simp] theorem State.modDir_reqs (s : State) (d : Nat) (f : Dir → Dir) : (s.modDir d f).reqs = s.reqs := rfl
@[simp] theorem State.modDir_pkts (s : State) (d : Nat) (f : Dir → Dir) : (s.modDir d f).pkts = s.pkts := rfl
@[simp] theorem State.modDir_windows (s : State) (d : Nat) (f : Dir → Dir) : (s.modDir d f).windows = s.windows := rfl
@[simp] theorem State.modDir_seqs (s : State) (d : Nat) (f : Dir → Dir) : (s.modDir d f).seqs = s.seqs := rfl
@[simp] theorem State.modDir_buckets (s : State) (d : Nat) (f : Dir → Dir) : (s.modDir d f).buckets = s.buckets := rfl
@[simp] theorem State.modDir_waiters (s : State) (d : Nat) (f : Dir → Dir) : (s.modDir d f).waiters = s.waiters := rfl
@[simp] theorem State.modDir_records (s : State) (d : Nat) (f : Dir → Dir) : (s.modDir d f).records = s.records := rfl
@[simp] theorem State.modDir_kind2s (s : State) (d : Nat) (f : Dir → Dir) : (s.modDir d f).kind2s = s.kind2s := rfl
@[simp] theorem State.modDir_parts (s : State) (d : Nat) (f : Dir → Dir) : (s.modDir d f).parts = s.parts := rfl
@[simp] theorem State.modDir_runs (s : State) (d : Nat) (f : Dir → Dir) : (s.modDir d f).runs = s.runs := rfl
@[simp] theorem State.modDir_lqs (s : State) (d : Nat) (f : Dir → Dir) : (s.modDir d f).lqs = s.lqs := rfl
@[simp] theorem State.modDir_lqPlaced (s : State) (d : Nat) (f : Dir → Dir) : (s.modDir d f).lqPlaced = s.lqPlaced := rfl
@[simp] theorem State.modDir_ecc (s : State) (d : Nat) (f : Dir → Dir) : (s.modDir d f).ecc = s.ecc := rfl
@[simp] theorem State.modDir_link (s : State) (d : Nat) (f : Dir → Dir) : (s.modDir d f).link = s.link := rfl
@[simp] theorem State.modDir_clock (s : State) (d : Nat) (f : Dir → Dir) : (s.modDir d f).clock = s.clock := rfl
@[simp] theorem State.modDir_ats (s : State) (d : Nat) (f : Dir → Dir) : (s.modDir d f).ats = s.ats := rfl
@[simp] theorem State.modDir_atsAsk (s : State) (d : Nat) (f : Dir → Dir) : (s.modDir d f).atsAsk = s.atsAsk := rfl
@[simp] theorem State.modDir_atsBad (s : State) (d : Nat) (f : Dir → Dir) : (s.modDir d f).atsBad = s.atsBad := rfl
@[simp] theorem State.modDir_windowAt (s : State) (d : Nat) (f : Dir → Dir) : (s.modDir d f).windowAt = s.windowAt := rfl
@[simp] theorem State.modDir_fatal (s : State) (d : Nat) (f : Dir → Dir) : (s.modDir d f).fatal = s.fatal := rfl
@[simp] theorem State.modDir_power (s : State) (d : Nat) (f : Dir → Dir) : (s.modDir d f).power = s.power := rfl
@[simp] theorem State.modDir_placeAt (s : State) (d : Nat) (f : Dir → Dir) : (s.modDir d f).placeAt = s.placeAt := rfl
@[simp] theorem State.modDir_msis (s : State) (d : Nat) (f : Dir → Dir) : (s.modDir d f).msis = s.msis := rfl
@[simp] theorem State.modDir_blocked (s : State) (d : Nat) (f : Dir → Dir) : (s.modDir d f).blocked = s.blocked := rfl
@[simp] theorem State.modDir_stages (s : State) (d : Nat) (f : Dir → Dir) : (s.modDir d f).stages = s.stages := rfl
@[simp] theorem State.modDir_net (s : State) (d : Nat) (f : Dir → Dir) : (s.modDir d f).net = s.net := rfl
@[simp] theorem State.modDir_wants (s : State) (d : Nat) (f : Dir → Dir) : (s.modDir d f).wants = s.wants := rfl
@[simp] theorem State.modDir_puts (s : State) (d : Nat) (f : Dir → Dir) : (s.modDir d f).puts = s.puts := rfl
@[simp] theorem State.modDir_remotes (s : State) (d : Nat) (f : Dir → Dir) : (s.modDir d f).remotes = s.remotes := rfl
@[simp] theorem State.modDir_peers (s : State) (d : Nat) (f : Dir → Dir) : (s.modDir d f).peers = s.peers := rfl
@[simp] theorem State.modDir_encaps (s : State) (d : Nat) (f : Dir → Dir) : (s.modDir d f).encaps = s.encaps := rfl
@[simp] theorem State.modDir_banks (s : State) (d : Nat) (f : Dir → Dir) : (s.modDir d f).banks = s.banks := rfl
@[simp] theorem State.modDir_activeBank (s : State) (d : Nat) (f : Dir → Dir) : (s.modDir d f).activeBank = s.activeBank := rfl
@[simp] theorem State.modDir_running (s : State) (d : Nat) (f : Dir → Dir) : (s.modDir d f).running = s.running := rfl
@[simp] theorem State.modDir_hostData (s : State) (d : Nat) (f : Dir → Dir) : (s.modDir d f).hostData = s.hostData := rfl
@[simp] theorem State.modDir_turn (s : State) (d : Nat) (f : Dir → Dir) : (s.modDir d f).turn = s.turn := rfl
@[simp] theorem State.modDir_asking (s : State) (d : Nat) (f : Dir → Dir) : (s.modDir d f).asking = s.asking := rfl
@[simp] theorem State.modDir_walkLast (s : State) (d : Nat) (f : Dir → Dir) : (s.modDir d f).walkLast = s.walkLast := rfl
@[simp] theorem State.modDir_cnps (s : State) (d : Nat) (f : Dir → Dir) : (s.modDir d f).cnps = s.cnps := rfl

/-! ### newId -/

@[simp] theorem State.newId_agenda (s : State) : s.newId.2.agenda = s.agenda := rfl
@[simp] theorem State.newId_cur (s : State) : s.newId.2.cur = s.cur := rfl
@[simp] theorem State.newId_fresh (s : State) : s.newId.2.fresh = s.fresh := rfl
@[simp] theorem State.newId_issues (s : State) : s.newId.2.issues = s.issues := rfl
@[simp] theorem State.newId_now (s : State) : s.newId.2.now = s.now := rfl
@[simp] theorem State.newId_mem (s : State) : s.newId.2.mem = s.mem := rfl
@[simp] theorem State.newId_host (s : State) : s.newId.2.host = s.host := rfl
@[simp] theorem State.newId_wlog (s : State) : s.newId.2.wlog = s.wlog := rfl
@[simp] theorem State.newId_l2 (s : State) : s.newId.2.l2 = s.l2 := rfl
@[simp] theorem State.newId_poison (s : State) : s.newId.2.poison = s.poison := rfl
@[simp] theorem State.newId_slicePoison (s : State) : s.newId.2.slicePoison = s.slicePoison := rfl
@[simp] theorem State.newId_hbmReads (s : State) : s.newId.2.hbmReads = s.hbmReads := rfl
@[simp] theorem State.newId_cores (s : State) : s.newId.2.cores = s.cores := rfl
@[simp] theorem State.newId_walks (s : State) : s.newId.2.walks = s.walks := rfl
@[simp] theorem State.newId_slices (s : State) : s.newId.2.slices = s.slices := rfl
@[simp] theorem State.newId_wgs (s : State) : s.newId.2.wgs = s.wgs := rfl
@[simp] theorem State.newId_launches (s : State) : s.newId.2.launches = s.launches := rfl
@[simp] theorem State.newId_ops (s : State) : s.newId.2.ops = s.ops := rfl
@[simp] theorem State.newId_reqs (s : State) : s.newId.2.reqs = s.reqs := rfl
@[simp] theorem State.newId_pkts (s : State) : s.newId.2.pkts = s.pkts := rfl
@[simp] theorem State.newId_windows (s : State) : s.newId.2.windows = s.windows := rfl
@[simp] theorem State.newId_seqs (s : State) : s.newId.2.seqs = s.seqs := rfl
@[simp] theorem State.newId_buckets (s : State) : s.newId.2.buckets = s.buckets := rfl
@[simp] theorem State.newId_waiters (s : State) : s.newId.2.waiters = s.waiters := rfl
@[simp] theorem State.newId_records (s : State) : s.newId.2.records = s.records := rfl
@[simp] theorem State.newId_kind2s (s : State) : s.newId.2.kind2s = s.kind2s := rfl
@[simp] theorem State.newId_dirs (s : State) : s.newId.2.dirs = s.dirs := rfl
@[simp] theorem State.newId_parts (s : State) : s.newId.2.parts = s.parts := rfl
@[simp] theorem State.newId_runs (s : State) : s.newId.2.runs = s.runs := rfl
@[simp] theorem State.newId_lqs (s : State) : s.newId.2.lqs = s.lqs := rfl
@[simp] theorem State.newId_lqPlaced (s : State) : s.newId.2.lqPlaced = s.lqPlaced := rfl
@[simp] theorem State.newId_ecc (s : State) : s.newId.2.ecc = s.ecc := rfl
@[simp] theorem State.newId_link (s : State) : s.newId.2.link = s.link := rfl
@[simp] theorem State.newId_clock (s : State) : s.newId.2.clock = s.clock := rfl
@[simp] theorem State.newId_ats (s : State) : s.newId.2.ats = s.ats := rfl
@[simp] theorem State.newId_atsAsk (s : State) : s.newId.2.atsAsk = s.atsAsk := rfl
@[simp] theorem State.newId_atsBad (s : State) : s.newId.2.atsBad = s.atsBad := rfl
@[simp] theorem State.newId_windowAt (s : State) : s.newId.2.windowAt = s.windowAt := rfl
@[simp] theorem State.newId_fatal (s : State) : s.newId.2.fatal = s.fatal := rfl
@[simp] theorem State.newId_power (s : State) : s.newId.2.power = s.power := rfl
@[simp] theorem State.newId_placeAt (s : State) : s.newId.2.placeAt = s.placeAt := rfl
@[simp] theorem State.newId_msis (s : State) : s.newId.2.msis = s.msis := rfl
@[simp] theorem State.newId_blocked (s : State) : s.newId.2.blocked = s.blocked := rfl
@[simp] theorem State.newId_stages (s : State) : s.newId.2.stages = s.stages := rfl
@[simp] theorem State.newId_net (s : State) : s.newId.2.net = s.net := rfl
@[simp] theorem State.newId_wants (s : State) : s.newId.2.wants = s.wants := rfl
@[simp] theorem State.newId_puts (s : State) : s.newId.2.puts = s.puts := rfl
@[simp] theorem State.newId_remotes (s : State) : s.newId.2.remotes = s.remotes := rfl
@[simp] theorem State.newId_peers (s : State) : s.newId.2.peers = s.peers := rfl
@[simp] theorem State.newId_encaps (s : State) : s.newId.2.encaps = s.encaps := rfl
@[simp] theorem State.newId_banks (s : State) : s.newId.2.banks = s.banks := rfl
@[simp] theorem State.newId_activeBank (s : State) : s.newId.2.activeBank = s.activeBank := rfl
@[simp] theorem State.newId_running (s : State) : s.newId.2.running = s.running := rfl
@[simp] theorem State.newId_hostData (s : State) : s.newId.2.hostData = s.hostData := rfl
@[simp] theorem State.newId_turn (s : State) : s.newId.2.turn = s.turn := rfl
@[simp] theorem State.newId_asking (s : State) : s.newId.2.asking = s.asking := rfl
@[simp] theorem State.newId_walkLast (s : State) : s.newId.2.walkLast = s.walkLast := rfl
@[simp] theorem State.newId_cnps (s : State) : s.newId.2.cnps = s.cnps := rfl

/-! ### draw -/

@[simp] theorem State.draw_agenda (s : State) : s.draw.2.agenda = s.agenda := rfl
@[simp] theorem State.draw_cur (s : State) : s.draw.2.cur = s.cur := rfl
@[simp] theorem State.draw_nextId (s : State) : s.draw.2.nextId = s.nextId := rfl
@[simp] theorem State.draw_issues (s : State) : s.draw.2.issues = s.issues := rfl
@[simp] theorem State.draw_now (s : State) : s.draw.2.now = s.now := rfl
@[simp] theorem State.draw_mem (s : State) : s.draw.2.mem = s.mem := rfl
@[simp] theorem State.draw_host (s : State) : s.draw.2.host = s.host := rfl
@[simp] theorem State.draw_wlog (s : State) : s.draw.2.wlog = s.wlog := rfl
@[simp] theorem State.draw_l2 (s : State) : s.draw.2.l2 = s.l2 := rfl
@[simp] theorem State.draw_poison (s : State) : s.draw.2.poison = s.poison := rfl
@[simp] theorem State.draw_slicePoison (s : State) : s.draw.2.slicePoison = s.slicePoison := rfl
@[simp] theorem State.draw_hbmReads (s : State) : s.draw.2.hbmReads = s.hbmReads := rfl
@[simp] theorem State.draw_cores (s : State) : s.draw.2.cores = s.cores := rfl
@[simp] theorem State.draw_walks (s : State) : s.draw.2.walks = s.walks := rfl
@[simp] theorem State.draw_slices (s : State) : s.draw.2.slices = s.slices := rfl
@[simp] theorem State.draw_wgs (s : State) : s.draw.2.wgs = s.wgs := rfl
@[simp] theorem State.draw_launches (s : State) : s.draw.2.launches = s.launches := rfl
@[simp] theorem State.draw_ops (s : State) : s.draw.2.ops = s.ops := rfl
@[simp] theorem State.draw_reqs (s : State) : s.draw.2.reqs = s.reqs := rfl
@[simp] theorem State.draw_pkts (s : State) : s.draw.2.pkts = s.pkts := rfl
@[simp] theorem State.draw_windows (s : State) : s.draw.2.windows = s.windows := rfl
@[simp] theorem State.draw_seqs (s : State) : s.draw.2.seqs = s.seqs := rfl
@[simp] theorem State.draw_buckets (s : State) : s.draw.2.buckets = s.buckets := rfl
@[simp] theorem State.draw_waiters (s : State) : s.draw.2.waiters = s.waiters := rfl
@[simp] theorem State.draw_records (s : State) : s.draw.2.records = s.records := rfl
@[simp] theorem State.draw_kind2s (s : State) : s.draw.2.kind2s = s.kind2s := rfl
@[simp] theorem State.draw_dirs (s : State) : s.draw.2.dirs = s.dirs := rfl
@[simp] theorem State.draw_parts (s : State) : s.draw.2.parts = s.parts := rfl
@[simp] theorem State.draw_runs (s : State) : s.draw.2.runs = s.runs := rfl
@[simp] theorem State.draw_lqs (s : State) : s.draw.2.lqs = s.lqs := rfl
@[simp] theorem State.draw_lqPlaced (s : State) : s.draw.2.lqPlaced = s.lqPlaced := rfl
@[simp] theorem State.draw_ecc (s : State) : s.draw.2.ecc = s.ecc := rfl
@[simp] theorem State.draw_link (s : State) : s.draw.2.link = s.link := rfl
@[simp] theorem State.draw_clock (s : State) : s.draw.2.clock = s.clock := rfl
@[simp] theorem State.draw_ats (s : State) : s.draw.2.ats = s.ats := rfl
@[simp] theorem State.draw_atsAsk (s : State) : s.draw.2.atsAsk = s.atsAsk := rfl
@[simp] theorem State.draw_atsBad (s : State) : s.draw.2.atsBad = s.atsBad := rfl
@[simp] theorem State.draw_windowAt (s : State) : s.draw.2.windowAt = s.windowAt := rfl
@[simp] theorem State.draw_fatal (s : State) : s.draw.2.fatal = s.fatal := rfl
@[simp] theorem State.draw_power (s : State) : s.draw.2.power = s.power := rfl
@[simp] theorem State.draw_placeAt (s : State) : s.draw.2.placeAt = s.placeAt := rfl
@[simp] theorem State.draw_msis (s : State) : s.draw.2.msis = s.msis := rfl
@[simp] theorem State.draw_blocked (s : State) : s.draw.2.blocked = s.blocked := rfl
@[simp] theorem State.draw_stages (s : State) : s.draw.2.stages = s.stages := rfl
@[simp] theorem State.draw_net (s : State) : s.draw.2.net = s.net := rfl
@[simp] theorem State.draw_wants (s : State) : s.draw.2.wants = s.wants := rfl
@[simp] theorem State.draw_puts (s : State) : s.draw.2.puts = s.puts := rfl
@[simp] theorem State.draw_remotes (s : State) : s.draw.2.remotes = s.remotes := rfl
@[simp] theorem State.draw_peers (s : State) : s.draw.2.peers = s.peers := rfl
@[simp] theorem State.draw_encaps (s : State) : s.draw.2.encaps = s.encaps := rfl
@[simp] theorem State.draw_banks (s : State) : s.draw.2.banks = s.banks := rfl
@[simp] theorem State.draw_activeBank (s : State) : s.draw.2.activeBank = s.activeBank := rfl
@[simp] theorem State.draw_running (s : State) : s.draw.2.running = s.running := rfl
@[simp] theorem State.draw_hostData (s : State) : s.draw.2.hostData = s.hostData := rfl
@[simp] theorem State.draw_turn (s : State) : s.draw.2.turn = s.turn := rfl
@[simp] theorem State.draw_asking (s : State) : s.draw.2.asking = s.asking := rfl
@[simp] theorem State.draw_walkLast (s : State) : s.draw.2.walkLast = s.walkLast := rfl
@[simp] theorem State.draw_cnps (s : State) : s.draw.2.cnps = s.cnps := rfl

/-! ### post -/

@[simp] theorem State.post_agenda (s : State) (p : Nat) (e : Post) : (s.post p e).agenda = s.agenda := rfl
@[simp] theorem State.post_cur (s : State) (p : Nat) (e : Post) : (s.post p e).cur = s.cur := rfl
@[simp] theorem State.post_fresh (s : State) (p : Nat) (e : Post) : (s.post p e).fresh = s.fresh := rfl
@[simp] theorem State.post_nextId (s : State) (p : Nat) (e : Post) : (s.post p e).nextId = s.nextId := rfl
@[simp] theorem State.post_issues (s : State) (p : Nat) (e : Post) : (s.post p e).issues = s.issues := rfl
@[simp] theorem State.post_now (s : State) (p : Nat) (e : Post) : (s.post p e).now = s.now := rfl
@[simp] theorem State.post_mem (s : State) (p : Nat) (e : Post) : (s.post p e).mem = s.mem := rfl
@[simp] theorem State.post_host (s : State) (p : Nat) (e : Post) : (s.post p e).host = s.host := rfl
@[simp] theorem State.post_wlog (s : State) (p : Nat) (e : Post) : (s.post p e).wlog = s.wlog := rfl
@[simp] theorem State.post_l2 (s : State) (p : Nat) (e : Post) : (s.post p e).l2 = s.l2 := rfl
@[simp] theorem State.post_poison (s : State) (p : Nat) (e : Post) : (s.post p e).poison = s.poison := rfl
@[simp] theorem State.post_slicePoison (s : State) (p : Nat) (e : Post) : (s.post p e).slicePoison = s.slicePoison := rfl
@[simp] theorem State.post_hbmReads (s : State) (p : Nat) (e : Post) : (s.post p e).hbmReads = s.hbmReads := rfl
@[simp] theorem State.post_cores (s : State) (p : Nat) (e : Post) : (s.post p e).cores = s.cores := rfl
@[simp] theorem State.post_walks (s : State) (p : Nat) (e : Post) : (s.post p e).walks = s.walks := rfl
@[simp] theorem State.post_slices (s : State) (p : Nat) (e : Post) : (s.post p e).slices = s.slices := rfl
@[simp] theorem State.post_wgs (s : State) (p : Nat) (e : Post) : (s.post p e).wgs = s.wgs := rfl
@[simp] theorem State.post_launches (s : State) (p : Nat) (e : Post) : (s.post p e).launches = s.launches := rfl
@[simp] theorem State.post_ops (s : State) (p : Nat) (e : Post) : (s.post p e).ops = s.ops := rfl
@[simp] theorem State.post_reqs (s : State) (p : Nat) (e : Post) : (s.post p e).reqs = s.reqs := rfl
@[simp] theorem State.post_pkts (s : State) (p : Nat) (e : Post) : (s.post p e).pkts = s.pkts := rfl
@[simp] theorem State.post_windows (s : State) (p : Nat) (e : Post) : (s.post p e).windows = s.windows := rfl
@[simp] theorem State.post_seqs (s : State) (p : Nat) (e : Post) : (s.post p e).seqs = s.seqs := rfl
@[simp] theorem State.post_buckets (s : State) (p : Nat) (e : Post) : (s.post p e).buckets = s.buckets := rfl
@[simp] theorem State.post_waiters (s : State) (p : Nat) (e : Post) : (s.post p e).waiters = s.waiters := rfl
@[simp] theorem State.post_records (s : State) (p : Nat) (e : Post) : (s.post p e).records = s.records := rfl
@[simp] theorem State.post_kind2s (s : State) (p : Nat) (e : Post) : (s.post p e).kind2s = s.kind2s := rfl
@[simp] theorem State.post_dirs (s : State) (p : Nat) (e : Post) : (s.post p e).dirs = s.dirs := rfl
@[simp] theorem State.post_runs (s : State) (p : Nat) (e : Post) : (s.post p e).runs = s.runs := rfl
@[simp] theorem State.post_lqs (s : State) (p : Nat) (e : Post) : (s.post p e).lqs = s.lqs := rfl
@[simp] theorem State.post_lqPlaced (s : State) (p : Nat) (e : Post) : (s.post p e).lqPlaced = s.lqPlaced := rfl
@[simp] theorem State.post_ecc (s : State) (p : Nat) (e : Post) : (s.post p e).ecc = s.ecc := rfl
@[simp] theorem State.post_link (s : State) (p : Nat) (e : Post) : (s.post p e).link = s.link := rfl
@[simp] theorem State.post_clock (s : State) (p : Nat) (e : Post) : (s.post p e).clock = s.clock := rfl
@[simp] theorem State.post_ats (s : State) (p : Nat) (e : Post) : (s.post p e).ats = s.ats := rfl
@[simp] theorem State.post_atsAsk (s : State) (p : Nat) (e : Post) : (s.post p e).atsAsk = s.atsAsk := rfl
@[simp] theorem State.post_atsBad (s : State) (p : Nat) (e : Post) : (s.post p e).atsBad = s.atsBad := rfl
@[simp] theorem State.post_windowAt (s : State) (p : Nat) (e : Post) : (s.post p e).windowAt = s.windowAt := rfl
@[simp] theorem State.post_fatal (s : State) (p : Nat) (e : Post) : (s.post p e).fatal = s.fatal := rfl
@[simp] theorem State.post_power (s : State) (p : Nat) (e : Post) : (s.post p e).power = s.power := rfl
@[simp] theorem State.post_placeAt (s : State) (p : Nat) (e : Post) : (s.post p e).placeAt = s.placeAt := rfl
@[simp] theorem State.post_msis (s : State) (p : Nat) (e : Post) : (s.post p e).msis = s.msis := rfl
@[simp] theorem State.post_blocked (s : State) (p : Nat) (e : Post) : (s.post p e).blocked = s.blocked := rfl
@[simp] theorem State.post_stages (s : State) (p : Nat) (e : Post) : (s.post p e).stages = s.stages := rfl
@[simp] theorem State.post_net (s : State) (p : Nat) (e : Post) : (s.post p e).net = s.net := rfl
@[simp] theorem State.post_wants (s : State) (p : Nat) (e : Post) : (s.post p e).wants = s.wants := rfl
@[simp] theorem State.post_puts (s : State) (p : Nat) (e : Post) : (s.post p e).puts = s.puts := rfl
@[simp] theorem State.post_remotes (s : State) (p : Nat) (e : Post) : (s.post p e).remotes = s.remotes := rfl
@[simp] theorem State.post_peers (s : State) (p : Nat) (e : Post) : (s.post p e).peers = s.peers := rfl
@[simp] theorem State.post_encaps (s : State) (p : Nat) (e : Post) : (s.post p e).encaps = s.encaps := rfl
@[simp] theorem State.post_banks (s : State) (p : Nat) (e : Post) : (s.post p e).banks = s.banks := rfl
@[simp] theorem State.post_activeBank (s : State) (p : Nat) (e : Post) : (s.post p e).activeBank = s.activeBank := rfl
@[simp] theorem State.post_running (s : State) (p : Nat) (e : Post) : (s.post p e).running = s.running := rfl
@[simp] theorem State.post_hostData (s : State) (p : Nat) (e : Post) : (s.post p e).hostData = s.hostData := rfl
@[simp] theorem State.post_turn (s : State) (p : Nat) (e : Post) : (s.post p e).turn = s.turn := rfl
@[simp] theorem State.post_asking (s : State) (p : Nat) (e : Post) : (s.post p e).asking = s.asking := rfl
@[simp] theorem State.post_walkLast (s : State) (p : Nat) (e : Post) : (s.post p e).walkLast = s.walkLast := rfl
@[simp] theorem State.post_cnps (s : State) (p : Nat) (e : Post) : (s.post p e).cnps = s.cnps := rfl

/-! ## Accessors after updates -/

@[simp] theorem State.core_modCore_same (s : State) (c : Nat) (f : Core → Core) : (s.modCore c f).core c = f (s.core c) := by
  simp [State.core, State.modCore]

theorem State.core_modCore_other (s : State) {c d : Nat} (f : Core → Core) (h : d ≠ c) : (s.modCore c f).core d = s.core d := by
  simp [State.core, State.modCore, tget_tset_other _ _ h]

@[simp] theorem State.slice_modSlice_same (s : State) (c : Nat) (f : Slice → Slice) :
    (s.modSlice c f).slice c = f (s.slice c) := by
  simp [State.slice, State.modSlice]

theorem State.slice_modSlice_other (s : State) {c d : Nat} (f : Slice → Slice) (h : d ≠ c) :
    (s.modSlice c f).slice d = s.slice d := by
  simp [State.slice, State.modSlice, tget_tset_other _ _ h]

@[simp] theorem State.part_modPart_same (s : State) (p : Nat) (f : Partition → Partition) :
    (s.modPart p f).part p = f (s.part p) := by
  simp [State.part, State.modPart]

theorem State.part_modPart_other (s : State) {p q : Nat} (f : Partition → Partition) (h : q ≠ p) :
    (s.modPart p f).part q = s.part q := by
  simp [State.part, State.modPart, tget_tset_other _ _ h]

@[simp] theorem State.dir_modDir_same (s : State) (d : Nat) (f : Dir → Dir) : (s.modDir d f).dir d = f (s.dir d) := by
  simp [State.dir, State.modDir]

theorem State.dir_modDir_other (s : State) {c d : Nat} (f : Dir → Dir) (h : d ≠ c) : (s.modDir c f).dir d = s.dir d := by
  simp [State.dir, State.modDir, tget_tset_other _ _ h]

@[simp] theorem State.wg_modWg_same (s : State) (w : Nat) (f : Workgroup → Workgroup) :
    (s.modWg w f).wg w = (s.wg w).map f := by
  simp [State.wg, State.modWg]

theorem State.wg_modWg_other (s : State) {w v : Nat} (f : Workgroup → Workgroup) (h : v ≠ w) :
    (s.modWg w f).wg v = s.wg v := by
  simp [State.wg, State.modWg, tget_tmod_other _ _ h]

@[simp] theorem State.thread_modWg_other (s : State) {w v t : Nat} (f : Workgroup → Workgroup) (h : v ≠ w) :
    (s.modWg w f).thread v t = s.thread v t := by
  simp [State.thread, State.modWg, tget_tmod_other _ _ h]

/-- A change of a workgroup that keeps its threads. -/
theorem State.thread_modWg_keep (s : State) (w v t : Nat) (f : Workgroup → Workgroup) (h : ∀ g, (f g).threads = g.threads) :
    (s.modWg w f).thread v t = s.thread v t := by
  by_cases hv : v = w
  · subst hv
    simp only [State.thread, State.modWg, tget_tmod_same]
    cases tget s.wgs v <;> simp [h]
  · exact State.thread_modWg_other s f hv

@[simp] theorem State.thread_modThread_same (s : State) (w t : Nat) (f : Thread → Thread) :
    (s.modThread w t f).thread w t = (s.thread w t).map f := by
  simp only [State.thread, State.modThread, State.modWg, tget_tmod_same]
  cases tget s.wgs w <;> simp

theorem State.thread_modThread_other (s : State) {w v t u : Nat} (f : Thread → Thread) (h : v ≠ w ∨ u ≠ t) :
    (s.modThread w t f).thread v u = s.thread v u := by
  by_cases hv : v = w
  · subst hv
    have hu : t ≠ u := by simpa [eq_comm] using h
    simp only [State.thread, State.modThread, State.modWg, tget_tmod_same]
    cases tget s.wgs v <;> simp [hu]
  · simp [State.thread, State.modThread, State.modWg, tget_tmod_other _ _ hv]

/-- A thread after an update of a thread. -/
theorem State.thread_modThread (s : State) (w t v u : Nat) (f : Thread → Thread) :
    (s.modThread w t f).thread v u = if v = w ∧ u = t then (s.thread w t).map f else s.thread v u := by
  by_cases h : v = w ∧ u = t
  · obtain ⟨rfl, rfl⟩ := h; simp
  · rw [if_neg h, State.thread_modThread_other]; tauto

/-- A workgroup after an update of a thread: only its threads differ. -/
theorem State.wg_modThread (s : State) (w t : Nat) (f : Thread → Thread) :
    (s.modThread w t f).wg w = (s.wg w).map (fun g => { g with threads := g.threads.modify t f }) := by
  simp [State.modThread]

theorem State.wg_modThread_other (s : State) {w v t : Nat} (f : Thread → Thread) (h : v ≠ w) :
    (s.modThread w t f).wg v = s.wg v := State.wg_modWg_other s _ h

theorem State.modThread_modThread (s : State) (w t : Nat) (f g : Thread → Thread) :
    (s.modThread w t f).modThread w t g = s.modThread w t (fun th => g (f th)) := by
  simp only [State.modThread, State.modWg, tmod_tmod, List.modify_modify_eq]
  rfl

/-- A launch is found through a workgroup's launch number, which no update of a thread changes. -/
theorem State.launchOf_modWg (s : State) (w v : Nat) (f : Workgroup → Workgroup) (h : ∀ g, (f g).launch = g.launch) :
    (s.modWg w f).launchOf v = s.launchOf v := by
  by_cases hv : v = w
  · subst hv
    simp only [State.launchOf, State.modWg, tget_tmod_same]
    cases tget s.wgs v <;> simp [h]
  · simp [State.launchOf, State.modWg, tget_tmod_other _ _ hv]

@[simp] theorem State.launchOf_modThread (s : State) (w t v : Nat) (f : Thread → Thread) :
    (s.modThread w t f).launchOf v = s.launchOf v := State.launchOf_modWg s w v _ (fun _ => rfl)
@[simp] theorem State.eff_modThread (s : State) (w t v : Nat) (f : Thread → Thread) :
    (s.modThread w t f).eff v = s.eff v := by simp [State.eff]
@[simp] theorem State.priv_modThread (s : State) (w t v : Nat) (f : Thread → Thread) :
    (s.modThread w t f).priv v = s.priv v := by simp [State.priv]

@[simp] theorem State.wg_modCore (s : State) (c w : Nat) (f : Core → Core) : (s.modCore c f).wg w = s.wg w := rfl
@[simp] theorem State.thread_modCore (s : State) (c w t : Nat) (f : Core → Core) :
    (s.modCore c f).thread w t = s.thread w t := rfl
@[simp] theorem State.launchOf_modCore (s : State) (c w : Nat) (f : Core → Core) :
    (s.modCore c f).launchOf w = s.launchOf w := rfl
@[simp] theorem State.part_modCore (s : State) (c p : Nat) (f : Core → Core) : (s.modCore c f).part p = s.part p := rfl
@[simp] theorem State.part_modWg (s : State) (w p : Nat) (f : Workgroup → Workgroup) : (s.modWg w f).part p = s.part p := rfl
@[simp] theorem State.part_modThread (s : State) (w t p : Nat) (f : Thread → Thread) :
    (s.modThread w t f).part p = s.part p := rfl
@[simp] theorem State.core_modWg (s : State) (w c : Nat) (f : Workgroup → Workgroup) : (s.modWg w f).core c = s.core c := rfl
@[simp] theorem State.core_modThread (s : State) (w t c : Nat) (f : Thread → Thread) :
    (s.modThread w t f).core c = s.core c := rfl
@[simp] theorem State.newId_fst (s : State) : s.newId.1 = s.nextId := rfl
@[simp] theorem State.newId_nextId (s : State) : s.newId.2.nextId = s.nextId + 1 := rfl
@[simp] theorem State.draw_fst (s : State) : s.draw.1 = Config.freeValue s.fresh := rfl
@[simp] theorem State.draw_fresh (s : State) : s.draw.2.fresh = s.fresh + 1 := rfl

end Sys2Proof.Machine
end

