-- ==== Sys2Proof/Safety.lean ====
section
/-!
DEFINITION. What a safe run is, and the terms in which statements speak of an issue: a bundle whose threads may execute its
instruction, and the state in which each has executed it (spec/07_execution.md R158 to R160, spec/11_isa_compute.md R255).
-/

namespace Sys2Proof.Safety

open Sys2Proof.Machine

/-- The step goes on. -/
def goesOn (s : State) : Prop := ∃ t, step s = .next t

/-- Every memory of a state is in the canonical form. -/
def memOk (s : State) : Bool :=
  Memory.wf s.mem && Memory.wf s.host && s.wgs.all (fun e => Memory.wf e.2.scratch)

/-! ## The threads of a bundle -/

/-- The guard of a thread is true. -/
def guardOf (s : State) (w t : Nat) (c : Ctl) : Bool := ((s.thread w t).map (fun th => th.guard c)).getD false

/-- A thread of the bundle that has no deferred fault, whose top frame stands in the register file and whose guard awaits no
write, and that has passed the checks of R153 and R255 if its guard is true: what it names is in its frame, free of pending
writes and of errors, its class has room, and its level allows the instruction. -/
def Able (s : State) (i : Instr) (c : Ctl) (u : Cur) (t : Nat) : Prop :=
  ∃ th, s.thread u.wg t = some th ∧ th.faults = [] ∧ th.topSpilled = false ∧
    s.guardBusy u.wg t c = false ∧ (th.guard c = true → precheck s u.wg t th i = none)

/-- The bundle u issues instruction i, and each of its threads may execute it. -/
structure Bundle (s : State) (i : Instr) (c : Ctl) (u : Cur) : Prop where
  cur : s.cur = some u
  nonempty : u.tids ≠ []
  once : u.tids.Nodup
  able : ∀ t ∈ u.tids, Able s i c u t

/-- The bundle u is the one thread t, which executes instruction i: its guard is true and it may. -/
structure Alone (s : State) (i : Instr) (c : Ctl) (u : Cur) (t : Nat) : Prop where
  cur : s.cur = some u
  tids : u.tids = [t]
  able : Able s i c u t
  guard : guardOf s u.wg t c = true

/-- The state as the first thread executes: the bundle taken, a hint h.x latched (R165, R234). -/
def start (s : State) (i : Instr) (c : Ctl) (u : Cur) : State := ({ s with cur := none } : State).latch u i c

/-- What the meaning of an instruction is told of the one thread of a bundle. -/
def ctx (i : Instr) (c : Ctl) (u : Cur) (t : Nat) : Ctx :=
  { w := u.wg, t := t, ts := [t], core := u.core, pc := u.pc, uni := i.uniform, hint := c.ch.val }

/-- A thread goes on to the next instruction after executing one. -/
def goOn (s : State) (w t : Nat) (c : Ctl) : State :=
  (s.modThread w t (fun th => { th.advance with hold := none })).issued w t c

/-- A thread with a false guard goes on, with no effect of the instruction. -/
def passBy (s : State) (w t : Nat) (c : Ctl) : State := (s.modThread w t Thread.advance).issued w t c

/-- The state in which each thread of the bundle has executed an instruction whose effect is act (of a thread, and of
the threads that a predicate result reaches); a uniform instruction acts once, in the thread of lowest home lane (R160). -/
def ran (s : State) (i : Instr) (c : Ctl) (u : Cur) (act : State → Nat → List Nat → State) : State :=
  let s := start s i c u
  if i.uniform then
    let on := u.tids.filter (fun t => guardOf s u.wg t c)
    let s0 := (u.tids.filter (fun t => !guardOf s u.wg t c)).foldl (fun s t => goOn s u.wg t c) s
    match on with
    | [] => s0
    | t :: ts => (t :: ts).foldl (fun s t => goOn s u.wg t c) (act s0 t (t :: ts))
  else u.tids.foldl (fun s t => if guardOf s u.wg t c then goOn (act s t [t]) u.wg t c else passBy s u.wg t c) s

/-- D receives a word in a thread. -/
def sets (u : Cur) (d : Opnd) (x : State → Nat → Word) (s : State) (t : Nat) (_ : List Nat) : State :=
  s.put u.wg t d (x s t)

/-- PD receives an outcome in the threads reached, and D receives it in the thread (R257). -/
def setsBool (u : Cur) (d : Opnd) (pd : Nat) (b : State → Nat → Bool) (s : State) (t : Nat) (ts : List Nat) : State :=
  (s.putPred u.wg ts pd (b s t)).put u.wg t d (boolWord (b s t))

/-- Over every bundle that may execute it, the instruction goes on, and its effect is act. -/
def Gives (i : Instr) (c : Ctl) (act : Cur → State → Nat → List Nat → State) : Prop :=
  ∀ s u, Bundle s i c u → exec i s = .next (ran s i c u (act u))

/-- D receives a function of A; of A and B; of A, B and C; of A and an immediate. -/
def dA (o : F3) (f : Word → Word) (u : Cur) : State → Nat → List Nat → State :=
  sets u o.d (fun s t => f (s.src u.wg t o.a))
def dAB (o : F3) (f : Word → Word → Word) (u : Cur) : State → Nat → List Nat → State :=
  sets u o.d (fun s t => f (s.src u.wg t o.a) (s.src u.wg t o.b))
def dABC (o : F3) (f : Word → Word → Word → Word) (u : Cur) : State → Nat → List Nat → State :=
  sets u o.d (fun s t => f (s.src u.wg t o.a) (s.src u.wg t o.b) (s.src u.wg t o.c))
def dAI (o : FI) (imm : Word) (f : Word → Word → Word) (u : Cur) : State → Nat → List Nat → State :=
  sets u o.d (fun s t => f (s.src u.wg t o.a) imm)

/-- What a thread alone in its bundle leaves, whichever way its instruction ends. -/
def ended (s : State) (i : Instr) (c : Ctl) (u : Cur) (t : Nat) : Act → State
  | .adv s' => goOn s' u.wg t c
  | .jump s' => if i.uniform then s' else s'.issuedFrom u.wg t c (((s.thread u.wg t).map (·.frames)).getD [])
  | .wait s' => s'
  | .trap code addr tv s' =>
    if lateCode code then s'.lateFault u.wg t u.pc code addr c
    else s'.deliver u.wg u.pc 1 [{ t := t, code := code, addr := addr, tval := tv }]

/-! ## Operations that an instruction opens -/

/-- The operation that instruction i of thread t opens: what it does, where its result goes, and its pieces. -/
def opOf (s : State) (i : Instr) (u : Cur) (t : Nat) (kind : OpKind) (d : Opnd) (pieces : List Piece) : Op :=
  { wg := u.wg, tid := t, core := u.core, cls := Instr.cls i, pc := u.pc, kind := kind, dst := (s.dst u.wg t d).toList,
    hint := (i.parts.map (fun p => p.c.ch.val)).getD 0, pieces := pieces }

/-- The same for an instruction that the cache hint does not concern (R235). -/
def plainOp (s : State) (i : Instr) (u : Cur) (t : Nat) (kind : OpKind) (d : Opnd) (pieces : List Piece) : Op :=
  { opOf s i u t kind d pieces with hint := 0 }

/-- The state with one more operation outstanding, under the next name. -/
def withOp (s : State) (o : Op) : State := { s with nextId := s.nextId + 1, ops := tset s.ops s.nextId o }

/-- The state with the named operation changed to o. -/
def setOp (s : State) (id : Nat) (o : Op) : State := { s with ops := tset s.ops id o }

/-- A precise fault of the one thread of a bundle (R46, R390). -/
def traps (s : State) (u : Cur) (t code addr : Nat) : State :=
  s.deliver u.wg u.pc 1 [{ t := t, code := code, addr := addr }]

/-- A fault found as the one thread of a bundle issues an instruction: precise, or deferred where its code always is (R388,
R390). -/
def faulted (s : State) (u : Cur) (t code addr : Nat) (c : Ctl) : State :=
  if lateCode code then s.lateFault u.wg t u.pc code addr c else traps s u t code addr

/-! ## Frames: what an instruction leaves as it was -/

/-- The places of the two memories hold what they held. -/
def sameBytes (s s' : State) : Prop :=
  (∀ a, memGet s'.mem a = memGet s.mem a) ∧ (∀ a, memGet s'.host a = memGet s.host a) ∧
  ∀ w a, (s'.wg w).map (fun g => memGet g.scratch a) = (s.wg w).map (fun g => memGet g.scratch a)

/-- A thread with the fields cleared that any issue may change: the program counter and the loop record that it moves, the
marks of readiness, the program's hold, the failed translations of the access that it waited for. -/
def threadFixed (th : Thread) : Thread :=
  { th with pc := 0, loop := none, hold := none, stallTo := none, readyAt := 0, xfails := [], preds := [], frames := [] }

/-- The frames of a thread without the words of their registers. -/
def frameShapes (th : Thread) : List Frame := th.frames.map (fun f => { f with slots := [], bad := [], fresh := false })

/-- A thread keeps every special register, every predicate but pd, its frames, and every register slot but those for which
a test holds. -/
def keepsThread (th th' : Thread) (pd : Option Nat) (d : Nat × Nat → Prop) : Prop :=
  threadFixed th' = threadFixed th ∧ frameShapes th' = frameShapes th ∧
  (∀ n, pd ≠ some n → th'.preds[n]? = th.preds[n]?) ∧ ∀ r, ¬d r → frameGet th'.frames r = frameGet th.frames r

end Sys2Proof.Safety
end

