-- ==== Sys2Proof/Laws/Bundle.lean ====
section
/-!
SUPPORT. What an issue leaves, said once: over the one thread of a bundle, and over every thread of a bundle for an
instruction whose effect stays within its own thread.
-/

namespace Sys2Proof.Laws

open Sys2Proof.Machine Sys2Proof.Safety

/-! ## The latch touches the cores only -/

theorem latch_cases (s : State) (u : Cur) (i : Instr) (c : Ctl) :
    s.latch u i c = s ∨ ∃ f, s.latch u i c = s.modCore u.core f := by
  unfold State.latch
  dsimp only
  exact (Classical.em _).elim (fun h => .inl (if_pos h)) (fun h => .inr ⟨_, if_neg h⟩)

theorem start_cases (s : State) (i : Instr) (c : Ctl) (u : Cur) :
    start s i c u = { s with cur := none } ∨ ∃ f, start s i c u = ({ s with cur := none } : State).modCore u.core f :=
  latch_cases _ u i c

@[simp] theorem start_wgs (s : State) (i : Instr) (c : Ctl) (u : Cur) : (start s i c u).wgs = s.wgs := by
  obtain h | ⟨f, h⟩ := start_cases s i c u
  · rw [h]
  · rw [h]; rfl
@[simp] theorem start_ops (s : State) (i : Instr) (c : Ctl) (u : Cur) : (start s i c u).ops = s.ops := by
  obtain h | ⟨f, h⟩ := start_cases s i c u
  · rw [h]
  · rw [h]; rfl
@[simp] theorem start_launches (s : State) (i : Instr) (c : Ctl) (u : Cur) : (start s i c u).launches = s.launches := by
  obtain h | ⟨f, h⟩ := start_cases s i c u
  · rw [h]
  · rw [h]; rfl
@[simp] theorem start_parts (s : State) (i : Instr) (c : Ctl) (u : Cur) : (start s i c u).parts = s.parts := by
  obtain h | ⟨f, h⟩ := start_cases s i c u
  · rw [h]
  · rw [h]; rfl
@[simp] theorem start_mem (s : State) (i : Instr) (c : Ctl) (u : Cur) : (start s i c u).mem = s.mem := by
  obtain h | ⟨f, h⟩ := start_cases s i c u
  · rw [h]
  · rw [h]; rfl
@[simp] theorem start_host (s : State) (i : Instr) (c : Ctl) (u : Cur) : (start s i c u).host = s.host := by
  obtain h | ⟨f, h⟩ := start_cases s i c u
  · rw [h]
  · rw [h]; rfl
@[simp] theorem start_now (s : State) (i : Instr) (c : Ctl) (u : Cur) : (start s i c u).now = s.now := by
  obtain h | ⟨f, h⟩ := start_cases s i c u
  · rw [h]
  · rw [h]; rfl
@[simp] theorem start_fresh (s : State) (i : Instr) (c : Ctl) (u : Cur) : (start s i c u).fresh = s.fresh := by
  obtain h | ⟨f, h⟩ := start_cases s i c u
  · rw [h]
  · rw [h]; rfl
@[simp] theorem start_nextId (s : State) (i : Instr) (c : Ctl) (u : Cur) : (start s i c u).nextId = s.nextId := by
  obtain h | ⟨f, h⟩ := start_cases s i c u
  · rw [h]
  · rw [h]; rfl
@[simp] theorem start_dirs (s : State) (i : Instr) (c : Ctl) (u : Cur) : (start s i c u).dirs = s.dirs := by
  obtain h | ⟨f, h⟩ := start_cases s i c u
  · rw [h]
  · rw [h]; rfl
@[simp] theorem start_cur (s : State) (i : Instr) (c : Ctl) (u : Cur) : (start s i c u).cur = none := by
  obtain h | ⟨f, h⟩ := start_cases s i c u
  · rw [h]
  · rw [h]; rfl

/-- As the first thread executes, only the bundle has been taken and the latches of its core may have changed. -/
theorem start_eq (s : State) (i : Instr) (c : Ctl) (u : Cur) :
    start s i c u = { s with cur := none, cores := (start s i c u).cores } := by
  obtain h | ⟨f, h⟩ := start_cases s i c u
  · rw [h]
  · rw [h]; rfl
@[simp] theorem start_partOf (s : State) (i : Instr) (c : Ctl) (u : Cur) (w : Nat) :
    (start s i c u).partOf w = s.partOf w := by
  rw [start_eq]; rfl
@[simp] theorem start_cell (s : State) (i : Instr) (c : Ctl) (u : Cur) (d n : Nat) :
    (start s i c u).cell d n = s.cell d n := by
  rw [start_eq]; rfl
@[simp] theorem start_dir (s : State) (i : Instr) (c : Ctl) (u : Cur) (d : Nat) : (start s i c u).dir d = s.dir d := by
  rw [start_eq]; rfl
@[simp] theorem start_shapePending (s : State) (i : Instr) (c : Ctl) (u : Cur) (w k : Nat) :
    (start s i c u).shapePending w k = s.shapePending w k := by
  rw [start_eq]; rfl
@[simp] theorem start_member (s : State) (i : Instr) (c : Ctl) (u : Cur) (w : Nat) :
    (start s i c u).member w = s.member w := by
  rw [start_eq]; rfl
@[simp] theorem start_wg (s : State) (i : Instr) (c : Ctl) (u : Cur) (w : Nat) : (start s i c u).wg w = s.wg w := by
  simp [State.wg]
@[simp] theorem start_thread (s : State) (i : Instr) (c : Ctl) (u : Cur) (w t : Nat) :
    (start s i c u).thread w t = s.thread w t := by
  simp [State.thread]
@[simp] theorem start_launchOf (s : State) (i : Instr) (c : Ctl) (u : Cur) (w : Nat) :
    (start s i c u).launchOf w = s.launchOf w := by
  simp [State.launchOf]
@[simp] theorem start_priv (s : State) (i : Instr) (c : Ctl) (u : Cur) (w : Nat) : (start s i c u).priv w = s.priv w := by
  simp [State.priv]
@[simp] theorem start_eff (s : State) (i : Instr) (c : Ctl) (u : Cur) (w : Nat) : (start s i c u).eff w = s.eff w := by
  simp [State.eff]
@[simp] theorem start_part (s : State) (i : Instr) (c : Ctl) (u : Cur) (p : Nat) : (start s i c u).part p = s.part p := by
  simp [State.part]
@[simp] theorem start_src (s : State) (i : Instr) (c : Ctl) (u : Cur) (w t : Nat) (o : Opnd) :
    (start s i c u).src w t o = s.src w t o := by
  unfold State.src
  simp only [start_wg, start_launches]
  cases s.wg w with
  | none => rfl
  | some g =>
    cases o <;> try rfl
    simp only
    cases tget s.launches g.launch with
    | none => rfl
    | some l => simp [special]
@[simp] theorem guardOf_start (s : State) (i : Instr) (c : Ctl) (u : Cur) (w t : Nat) (d : Ctl) :
    guardOf (start s i c u) w t d = guardOf s w t d := by simp [guardOf]

/-! ## What the checks before an instruction read -/

/-- What awaits a write is read from the operations. -/
theorem pendingAny_congr {s s' : State} (ho : s'.ops = s.ops) (w t : Nat) (ds : List Dst) :
    s'.pendingAny w t ds = s.pendingAny w t ds := by simp only [State.pendingAny, ho]

theorem guardBusy_congr {s s' : State} (ho : s'.ops = s.ops) (w t : Nat) (c : Ctl) :
    s'.guardBusy w t c = s.guardBusy w t c := pendingAny_congr ho ..

@[simp] theorem guardBusy_start (s : State) (i : Instr) (c d : Ctl) (u : Cur) (w t : Nat) :
    (start s i c u).guardBusy w t d = s.guardBusy w t d := guardBusy_congr (start_ops ..) ..

/-- precheck reads the thread, the operations and the level of its workgroup. -/
theorem precheck_congr {s s' : State} {w t : Nat} (th : Thread) (i : Instr) (ho : s'.ops = s.ops)
    (hp : s'.priv w = s.priv w) : precheck s' w t th i = precheck s w t th i := by
  have hb : s'.busy w t th i = s.busy w t th i := pendingAny_congr ho ..
  have hr : ∀ c, s'.room w t c = s.room w t c := fun c => by unfold State.room State.countOps; rw [ho]
  simp only [precheck, hp, hb, hr]

@[simp] theorem precheck_start (s : State) (i j : Instr) (c : Ctl) (u : Cur) (w t : Nat) (th : Thread) :
    precheck (start s i c u) w t th j = precheck s w t th j := precheck_congr th j (start_ops ..) (start_priv ..)

/-- An update that leaves the operations, the level of workgroup w and every thread of w but t as they are. -/
structure Keeps (w t : Nat) (s s' : State) : Prop where
  ops : s'.ops = s.ops
  priv : s'.priv w = s.priv w
  threads : ∀ v, v ≠ t → s'.thread w v = s.thread w v

theorem Keeps.refl (w t : Nat) (s : State) : Keeps w t s s := ⟨rfl, rfl, fun _ _ => rfl⟩

theorem Keeps.trans {w t : Nat} {a b c : State} (h : Keeps w t a b) (k : Keeps w t b c) : Keeps w t a c :=
  ⟨k.ops.trans h.ops, k.priv.trans h.priv, fun v hv => (k.threads v hv).trans (h.threads v hv)⟩

theorem keeps_modThread (s : State) (w t : Nat) (f : Thread → Thread) : Keeps w t s (s.modThread w t f) :=
  ⟨rfl, by simp, fun v hv => State.thread_modThread_other s f (.inr hv)⟩

theorem keeps_modCore (s : State) (w t k : Nat) (f : Core → Core) : Keeps w t s (s.modCore k f) := ⟨rfl, rfl, fun _ _ => rfl⟩

theorem keeps_unlatch (s : State) (w t : Nat) (r : Nat × Nat) : Keeps w t s (s.unlatch w t r) := by
  unfold State.unlatch
  split
  · split
    · exact .refl ..
    · exact keeps_modCore ..
  · exact .refl ..

theorem keeps_issued (s : State) (w t : Nat) (c : Ctl) : Keeps w t s (s.issued w t c) := keeps_modThread ..

theorem keeps_goOn (s : State) (w t : Nat) (c : Ctl) : Keeps w t s (goOn s w t c) :=
  (keeps_modThread ..).trans (keeps_issued ..)

theorem keeps_passBy (s : State) (w t : Nat) (c : Ctl) : Keeps w t s (passBy s w t c) :=
  (keeps_modThread ..).trans (keeps_issued ..)

theorem keeps_putPred_one (s : State) (w t n : Nat) (b : Bool) : Keeps w t s (s.putPred w [t] n b) := by
  unfold State.putPred
  split
  · exact .refl ..
  · exact keeps_modThread ..

/-- A write to a register stays within its thread, or in the uniform registers. -/
theorem keeps_put (s : State) (w t : Nat) (o : Opnd) (x : Word) : Keeps w t s (s.put w t o x) := by
  unfold State.put
  split
  · dsimp only
    split
    · exact (keeps_unlatch ..).trans (keeps_modThread ..)
    · exact keeps_modThread ..
  · refine ⟨rfl, ?_, fun v _ => State.thread_modWg_keep s w w v _ (fun _ => rfl)⟩
    simp only [State.priv]
    rw [State.launchOf_modWg]
    exact fun _ => rfl
  · exact .refl ..

/-! ## Over the threads of a bundle -/

theorem able_keeps {s s' : State} {i : Instr} {c : Ctl} {u : Cur} {t v : Nat} (h : Able s i c u v)
    (k : Keeps u.wg t s s') (hv : v ≠ t) : Able s' i c u v := by
  obtain ⟨th, h1, h2, h3, h5, h4⟩ := h
  exact ⟨th, (k.threads v hv).trans h1, h2, h3, (guardBusy_congr k.ops ..).trans h5, fun hg => by rw [precheck_congr th i k.ops k.priv]; exact h4 hg⟩

theorem able_start {s : State} {i : Instr} {c : Ctl} {u : Cur} {t : Nat} (h : Able s i c u t) :
    Able (start s i c u) i c u t := by
  obtain ⟨th, h1, h2, h3, h5, h4⟩ := h
  exact ⟨th, by simpa using h1, h2, h3, by simpa using h5, fun hg => by simpa using h4 hg⟩

/-- One thread that may execute: its effect, or nothing but going on. -/
theorem runThread_able {i : Instr} {c : Ctl} {f : State → Ctx → Act} {u : Cur} {s s' : State} {t : Nat} {hs : List Hit}
    (x : Ctx) (hw : x.w = u.wg) (ht : x.t = t) (ha : Able s i c u t) (hf : f s x = .adv s') :
    runThread i c f x (s, hs) = (if guardOf s u.wg t c then goOn s' u.wg t c else passBy s u.wg t c, hs) := by
  obtain ⟨th, h1, h2, h3, h5, h4⟩ := ha
  unfold runThread
  simp only [hw, ht, h1, h2, h3, h5, guardOf, Option.map_some, Option.getD_some]
  cases hg : th.guard c with
  | false => simp [passBy]
  | true => simp [h4 hg, hf, goOn]

theorem fold_able {i : Instr} {c : Ctl} {f : State → Ctx → Act} {u : Cur} {act : State → Nat → List Nat → State}
    (hf : ∀ s t, f s { w := u.wg, t := t, ts := [t], core := u.core, pc := u.pc, uni := false, hint := c.ch.val } = .adv (act s t [t]))
    (hk : ∀ s t, Keeps u.wg t s (act s t [t])) (ts : List Nat) (hn : ts.Nodup) (s : State) (hs : List Hit)
    (ha : ∀ t ∈ ts, Able s i c u t) :
    ts.foldl (fun acc t => runThread i c f { w := u.wg, t := t, ts := [t], core := u.core, pc := u.pc, uni := false, hint := c.ch.val } acc) (s, hs)
      = (ts.foldl (fun s t => if guardOf s u.wg t c then goOn (act s t [t]) u.wg t c else passBy s u.wg t c) s, hs) := by
  induction ts generalizing s with
  | nil => rfl
  | cons t ts ih =>
    simp only [List.foldl_cons]
    rw [runThread_able _ rfl rfl (ha t (by simp)) (hf s t)]
    have hn' := List.nodup_cons.mp hn
    apply ih hn'.2
    intro v hv
    have hne : v ≠ t := fun h => hn'.1 (h ▸ hv)
    split
    · exact able_keeps (ha v (by simp [hv])) ((hk s t).trans (keeps_goOn ..)) hne
    · exact able_keeps (ha v (by simp [hv])) (keeps_passBy ..) hne

theorem joins_able {s : State} {i : Instr} {c : Ctl} {u : Cur} {t : Nat} (ha : Able s i c u t) (b : Bool) :
    s.joins u.wg t c b = (guardOf s u.wg t c == b) := by
  obtain ⟨th, h1, h2, h3, h5, -⟩ := ha
  simp [State.joins, h1, h2, h3, h5, guardOf]

theorem prechecked_able {s : State} {i : Instr} {c : Ctl} {u : Cur} {t : Nat} (ha : Able s i c u t)
    (hg : guardOf s u.wg t c = true) : s.prechecked u.wg t i = none := by
  obtain ⟨th, h1, -, -, -, h4⟩ := ha
  have hg : th.guard c = true := by simpa [guardOf, h1] using hg
  simp [State.prechecked, h1, h4 hg]

theorem filter_joins {s : State} {i : Instr} {c : Ctl} {u : Cur} (ts : List Nat) (ha : ∀ t ∈ ts, Able s i c u t) (b : Bool) :
    ts.filter (fun t => s.joins u.wg t c b) = ts.filter (fun t => guardOf s u.wg t c == b) :=
  List.filter_congr fun t ht => joins_able (ha t ht) b

/-- What a uniform instruction leaves when every thread of its bundle may execute. -/
theorem runUniform_able {i : Instr} {c : Ctl} {f : State → Ctx → Act} {u : Cur} {s : State}
    (ha : ∀ t ∈ u.tids, Able s i c u t) :
    runUniform i c f u s =
      (let on := u.tids.filter (fun t => guardOf s u.wg t c)
       let s0 := (u.tids.filter (fun t => !guardOf s u.wg t c)).foldl (fun s t => goOn s u.wg t c) s
       match on with
       | [] => (s0, [])
       | t :: ts => match f s0 { w := u.wg, t := t, ts := t :: ts, core := u.core, pc := u.pc, uni := true, hint := c.ch.val } with
         | .adv s => ((t :: ts).foldl (fun s t => goOn s u.wg t c) s, [])
         | .jump s => (s, [])
         | .wait s => (s, [])
         | .trap code addr tv s =>
           if lateCode code then (((t :: ts).filter (· != t)).foldl (fun s t => goOn s u.wg t c) (s.lateFault u.wg t u.pc code addr c), [])
           else (s, (t :: ts).map (fun t => { t := t, code := code, addr := addr, tval := tv }))) := by
  have hgo : u.tids.filter (fun t => s.joins u.wg t c true) = u.tids.filter (fun t => guardOf s u.wg t c) := by
    simp [filter_joins u.tids ha]
  have hoff : u.tids.filter (fun t => s.joins u.wg t c false) = u.tids.filter (fun t => !guardOf s u.wg t c) := by
    simp [filter_joins u.tids ha]
  have hpre : ∀ t ∈ u.tids.filter (fun t => guardOf s u.wg t c), s.prechecked u.wg t i = none := fun t ht =>
    prechecked_able (ha t (List.mem_filter.mp ht).1) (List.mem_filter.mp ht).2
  have hrest : u.tids.filter (fun t => !(u.tids.filter (fun t => guardOf s u.wg t c)).contains t &&
      !(u.tids.filter (fun t => !guardOf s u.wg t c)).contains t) = [] := by
    rw [List.filter_eq_nil_iff]
    intro t ht
    cases hg : guardOf s u.wg t c <;> simp [ht, hg]
  have hbad : (u.tids.filter (fun t => guardOf s u.wg t c)).filterMap (fun t => s.preHit u.wg t i) = [] := by
    rw [List.filterMap_eq_nil_iff]
    intro t ht
    simp [State.preHit, hpre t ht]
  have hstuck : (u.tids.filter (fun t => guardOf s u.wg t c)).any (fun t => s.prechecked u.wg t i == some none) = false := by
    rw [List.any_eq_false]
    intro t ht
    simp [hpre t ht]
  have hok : ∀ l : List Nat, l.filter (fun t => !([] : List Hit).any (fun h => h.t == t)) = l := by
    intro l; simp
  unfold runUniform
  dsimp only
  rw [hgo, hoff, hrest, hbad, hok, hstuck]
  cases hon : u.tids.filter (fun t => guardOf s u.wg t c) with
  | nil => rfl
  | cons t ts =>
    simp only [List.foldl_nil, Bool.false_eq_true, if_false, List.nil_append]
    rfl

/-- The end of an issue: the precise faults of the bundle are delivered. -/
def settle (u : Cur) (r : State × List Hit) : State := r.1.deliver u.wg u.pc r.2.length r.2

theorem forThreads_cur {i : Instr} {c : Ctl} {f : State → Ctx → Act} {s : State} {u : Cur} (h : s.cur = some u) :
    forThreads i c f s = settle u (if i.uniform then runUniform i c f u (start s i c u)
      else u.tids.foldl (fun acc t =>
        runThread i c f { w := u.wg, t := t, ts := [t], core := u.core, pc := u.pc, uni := false, hint := c.ch.val } acc) (start s i c u, [])) := by
  unfold forThreads
  rw [h]
  rfl

@[simp] theorem settle_nil (u : Cur) (s : State) : settle u (s, []) = s := by
  simp [settle, State.deliver]

/-- An instruction whose effect stays within its thread, over a bundle whose threads may execute it: what it leaves. -/
theorem isa_ran {i : Instr} {c : Ctl} {f : State → Ctx → Act} {s : State} {u : Cur} {act : State → Nat → List Nat → State}
    (hb : Bundle s i c u) (hf : ∀ s x, x.w = u.wg → x.core = u.core → f s x = .adv (act s x.t x.ts))
    (hk : ∀ s t, Keeps u.wg t s (act s t [t])) :
    isa i c f s = .next (ran s i c u act) := by
  have ha : ∀ t ∈ u.tids, Able (start s i c u) i c u t := fun t ht => able_start (hb.able t ht)
  unfold isa
  rw [forThreads_cur hb.cur]
  unfold ran
  cases hu : i.uniform with
  | true =>
    simp only [if_true]
    rw [runUniform_able ha]
    dsimp only
    cases u.tids.filter (fun t => guardOf (start s i c u) u.wg t c) with
    | nil => simp
    | cons t ts =>
      dsimp only
      rw [hf _ _ rfl rfl]
      simp
  | false =>
    simp only [Bool.false_eq_true, if_false]
    rw [fold_able (fun s t => hf s _ rfl rfl) hk u.tids hb.once (start s i c u) [] ha]
    simp

/-- Any instruction over a bundle of one thread that executes it: what it leaves, whichever way it ends. -/
theorem isa_alone {i : Instr} {c : Ctl} {f : State → Ctx → Act} {s : State} {u : Cur} {t : Nat} (h : Alone s i c u t) :
    isa i c f s = .next (ended s i c u t (f (start s i c u) (ctx i c u t))) := by
  have ha : ∀ v ∈ u.tids, Able (start s i c u) i c u v := by
    intro v hv
    rw [h.tids, List.mem_singleton] at hv
    exact hv ▸ able_start h.able
  have hg : guardOf (start s i c u) u.wg t c = true := by simpa using h.guard
  obtain ⟨th, h1, h2, h3, h5, h4⟩ := h.able
  have hth : th.guard c = true := by simpa [guardOf, h1] using h.guard
  unfold isa
  rw [forThreads_cur h.cur]
  cases hu : i.uniform with
  | true =>
    simp only [if_true]
    rw [runUniform_able ha]
    simp only [h.tids, List.filter_cons, hg, List.filter_nil, if_true, Bool.not_true, Bool.false_eq_true, if_false,
      List.foldl_nil, ctx, hu]
    cases f (start s i c u) { w := u.wg, t := t, ts := [t], core := u.core, pc := u.pc, uni := true, hint := c.ch.val } with
    | adv s' => simp [ended]
    | jump s' => simp [ended, hu]
    | wait s' => simp [ended]
    | trap code addr tv s' => cases hl : lateCode code <;> simp [ended, settle, State.deliver, hl]
  | false =>
    simp only [Bool.false_eq_true, if_false, h.tids, List.foldl_cons, List.foldl_nil, ctx, hu]
    have hrun : runThread i c f { w := u.wg, t := t, ts := [t], core := u.core, pc := u.pc, uni := false, hint := c.ch.val }
        (start s i c u, []) =
        (match f (start s i c u) { w := u.wg, t := t, ts := [t], core := u.core, pc := u.pc, uni := false, hint := c.ch.val } with
          | .adv s => (goOn s u.wg t c, [])
          | .jump s => (s.issuedFrom u.wg t c th.frames, [])
          | .wait s => (s, [])
          | .trap code addr tv s =>
            if lateCode code then (s.lateFault u.wg t u.pc code addr c, [])
            else (s, [{ t := t, code := code, addr := addr, tval := tv }])) := by
      unfold runThread
      simp only [start_thread, h1, h2, h3, guardBusy_start, h5, hth, precheck_start, h4 hth]
      rfl
    rw [hrun]
    cases f (start s i c u) { w := u.wg, t := t, ts := [t], core := u.core, pc := u.pc, uni := false, hint := c.ch.val } with
    | adv s' => simp [ended]
    | jump s' => simp [ended, hu, h1]
    | wait s' => simp [ended]
    | trap code addr tv s' => cases hl : lateCode code <;> simp [ended, settle, State.deliver, hl]

/-! ## Shapes of register instructions -/

theorem keeps_sets (u : Cur) (d : Opnd) (x : State → Nat → Word) (s : State) (t : Nat) (ts : List Nat) :
    Keeps u.wg t s (sets u d x s t ts) := keeps_put ..

theorem keeps_setsBool (u : Cur) (d : Opnd) (pd : Nat) (b : State → Nat → Bool) (s : State) (t : Nat) :
    Keeps u.wg t s (setsBool u d pd b s t [t]) := (keeps_putPred_one ..).trans (keeps_put ..)

/-- D receives a function of the state and the thread. -/
theorem isa_sets {i : Instr} {c : Ctl} {d : Opnd} {s : State} {u : Cur} (g : State → Nat → Nat → Word) (hb : Bundle s i c u) :
    isa i c (fun s x => .adv (s.put x.w x.t d (g s x.w x.t))) s = .next (ran s i c u (sets u d (fun s t => g s u.wg t))) :=
  isa_ran hb (fun s x hw _ => by simp [sets, hw]) (fun s t => keeps_sets u d _ s t [t])

theorem alu1_ran {i : Instr} {c : Ctl} {o : F3} {s : State} {u : Cur} (f : Word → Word) (hb : Bundle s i c u) :
    alu1 i c o f s = .next (ran s i c u (sets u o.d (fun s t => f (s.src u.wg t o.a)))) :=
  isa_sets (fun s w t => f (s.src w t o.a)) hb

theorem alu2_ran {i : Instr} {c : Ctl} {o : F3} {s : State} {u : Cur} (f : Word → Word → Word) (hb : Bundle s i c u) :
    alu2 i c o f s = .next (ran s i c u (sets u o.d (fun s t => f (s.src u.wg t o.a) (s.src u.wg t o.b)))) :=
  isa_sets (fun s w t => f (s.src w t o.a) (s.src w t o.b)) hb

theorem alu3_ran {i : Instr} {c : Ctl} {o : F3} {s : State} {u : Cur} (f : Word → Word → Word → Word) (hb : Bundle s i c u) :
    alu3 i c o f s = .next (ran s i c u (sets u o.d
      (fun s t => f (s.src u.wg t o.a) (s.src u.wg t o.b) (s.src u.wg t o.c)))) :=
  isa_sets (fun s w t => f (s.src w t o.a) (s.src w t o.b) (s.src w t o.c)) hb

theorem aluI_ran {i : Instr} {c : Ctl} {o : FI} {s : State} {u : Cur} (imm : Word) (f : Word → Word → Word)
    (hb : Bundle s i c u) :
    aluI i c o imm f s = .next (ran s i c u (sets u o.d (fun s t => f (s.src u.wg t o.a) imm))) :=
  isa_sets (fun s w t => f (s.src w t o.a) imm) hb

/-- PD and D receive an outcome. -/
theorem isa_setsBool {i : Instr} {c : Ctl} {d : Opnd} {pd : Nat} {s : State} {u : Cur} (b : State → Nat → Nat → Bool)
    (hb : Bundle s i c u) :
    isa i c (fun s x => .adv (putBool s x d pd (b s x.w x.t))) s =
      .next (ran s i c u (setsBool u d pd (fun s t => b s u.wg t))) :=
  isa_ran hb (fun s x hw _ => by simp [setsBool, putBool, hw]) (fun s t => keeps_setsBool u d pd _ s t)

end Sys2Proof.Laws
end

