-- ==== Sys2Proof/Laws/Exec.lean ====
section
/-!
SUPPORT. One equation per constructor: exec of an instruction is its meaning. The provers rewrite with these and never
unfold exec.
-/

namespace Sys2Proof.Machine

theorem exec_add (c : Ctl) (o : F3) (s : State) : exec (.add c o) s = execAdd c o s := rfl
theorem exec_addImm (c : Ctl) (o : FI) (s : State) : exec (.addImm c o) s = execAddImm c o s := rfl
theorem exec_sub (c : Ctl) (o : F3) (s : State) : exec (.sub c o) s = execSub c o s := rfl
theorem exec_subImm (c : Ctl) (o : FI) (s : State) : exec (.subImm c o) s = execSubImm c o s := rfl
theorem exec_mul (c : Ctl) (o : F3) (s : State) : exec (.mul c o) s = execMul c o s := rfl
theorem exec_mulImm (c : Ctl) (o : FI) (s : State) : exec (.mulImm c o) s = execMulImm c o s := rfl
theorem exec_mulh (c : Ctl) (o : F3) (s : State) : exec (.mulh c o) s = execMulh c o s := rfl
theorem exec_mad (c : Ctl) (o : F3) (s : State) : exec (.mad c o) s = execMad c o s := rfl
theorem exec_div (c : Ctl) (o : F3) (s : State) : exec (.div c o) s = execDiv c o s := rfl
theorem exec_rem (c : Ctl) (o : F3) (s : State) : exec (.rem c o) s = execRem c o s := rfl
theorem exec_neg (c : Ctl) (o : F3) (s : State) : exec (.neg c o) s = execNeg c o s := rfl
theorem exec_abs (c : Ctl) (o : F3) (s : State) : exec (.abs c o) s = execAbs c o s := rfl
theorem exec_min (c : Ctl) (o : F3) (s : State) : exec (.min c o) s = execMin c o s := rfl
theorem exec_minImm (c : Ctl) (o : FI) (s : State) : exec (.minImm c o) s = execMinImm c o s := rfl
theorem exec_max (c : Ctl) (o : F3) (s : State) : exec (.max c o) s = execMax c o s := rfl
theorem exec_maxImm (c : Ctl) (o : FI) (s : State) : exec (.maxImm c o) s = execMaxImm c o s := rfl
theorem exec_sad (c : Ctl) (o : F3) (s : State) : exec (.sad c o) s = execSad c o s := rfl
theorem exec_and (c : Ctl) (o : F3) (s : State) : exec (.and c o) s = execAnd c o s := rfl
theorem exec_andImm (c : Ctl) (o : FI) (s : State) : exec (.andImm c o) s = execAndImm c o s := rfl
theorem exec_or (c : Ctl) (o : F3) (s : State) : exec (.or c o) s = execOr c o s := rfl
theorem exec_orImm (c : Ctl) (o : FI) (s : State) : exec (.orImm c o) s = execOrImm c o s := rfl
theorem exec_xor (c : Ctl) (o : F3) (s : State) : exec (.xor c o) s = execXor c o s := rfl
theorem exec_xorImm (c : Ctl) (o : FI) (s : State) : exec (.xorImm c o) s = execXorImm c o s := rfl
theorem exec_not (c : Ctl) (o : F3) (s : State) : exec (.not c o) s = execNot c o s := rfl
theorem exec_shl (c : Ctl) (o : F3) (s : State) : exec (.shl c o) s = execShl c o s := rfl
theorem exec_shlImm (c : Ctl) (o : FI) (s : State) : exec (.shlImm c o) s = execShlImm c o s := rfl
theorem exec_shr (c : Ctl) (o : F3) (s : State) : exec (.shr c o) s = execShr c o s := rfl
theorem exec_shrImm (c : Ctl) (o : FI) (s : State) : exec (.shrImm c o) s = execShrImm c o s := rfl
theorem exec_sar (c : Ctl) (o : F3) (s : State) : exec (.sar c o) s = execSar c o s := rfl
theorem exec_sarImm (c : Ctl) (o : FI) (s : State) : exec (.sarImm c o) s = execSarImm c o s := rfl
theorem exec_rot (c : Ctl) (o : F3) (s : State) : exec (.rot c o) s = execRot c o s := rfl
theorem exec_rotImm (c : Ctl) (o : FI) (s : State) : exec (.rotImm c o) s = execRotImm c o s := rfl
theorem exec_clz (c : Ctl) (o : F3) (s : State) : exec (.clz c o) s = execClz c o s := rfl
theorem exec_ctz (c : Ctl) (o : F3) (s : State) : exec (.ctz c o) s = execCtz c o s := rfl
theorem exec_popc (c : Ctl) (o : F3) (s : State) : exec (.popc c o) s = execPopc c o s := rfl
theorem exec_brev (c : Ctl) (o : F3) (s : State) : exec (.brev c o) s = execBrev c o s := rfl
theorem exec_sel (c : Ctl) (o : F3) (s : State) : exec (.sel c o) s = execSel c o s := rfl
theorem exec_cmp (c : Ctl) (o : F3) (s : State) : exec (.cmp c o) s = execCmp c o s := rfl
theorem exec_cmpImm (c : Ctl) (o : FI) (s : State) : exec (.cmpImm c o) s = execCmpImm c o s := rfl
theorem exec_mov (c : Ctl) (o : F3) (s : State) : exec (.mov c o) s = execMov c o s := rfl
theorem exec_movi (c : Ctl) (o : FI) (s : State) : exec (.movi c o) s = execMovi c o s := rfl
theorem exec_movh (c : Ctl) (o : FI) (s : State) : exec (.movh c o) s = execMovh c o s := rfl
theorem exec_ext (c : Ctl) (o : F3) (s : State) : exec (.ext c o) s = execExt c o s := rfl
theorem exec_lea (c : Ctl) (o : F3) (s : State) : exec (.lea c o) s = execLea c o s := rfl
theorem exec_pack (c : Ctl) (o : F3) (s : State) : exec (.pack c o) s = execPack c o s := rfl
theorem exec_unpack (c : Ctl) (o : F3) (s : State) : exec (.unpack c o) s = execUnpack c o s := rfl
theorem exec_swz (c : Ctl) (o : F3) (s : State) : exec (.swz c o) s = execSwz c o s := rfl
theorem exec_dot4 (c : Ctl) (o : F3) (s : State) : exec (.dot4 c o) s = execDot4 c o s := rfl
theorem exec_bfx (c : Ctl) (o : F3) (s : State) : exec (.bfx c o) s = execBfx c o s := rfl
theorem exec_bfi (c : Ctl) (o : F3) (s : State) : exec (.bfi c o) s = execBfi c o s := rfl
theorem exec_bmm8 (c : Ctl) (o : F3) (s : State) : exec (.bmm8 c o) s = execBmm8 c o s := rfl
theorem exec_pdep (c : Ctl) (o : F3) (s : State) : exec (.pdep c o) s = execPdep c o s := rfl
theorem exec_pext (c : Ctl) (o : F3) (s : State) : exec (.pext c o) s = execPext c o s := rfl
theorem exec_bperm (c : Ctl) (o : F3) (s : State) : exec (.bperm c o) s = execBperm c o s := rfl
theorem exec_fadd (c : Ctl) (o : F3) (s : State) : exec (.fadd c o) s = execFadd c o s := rfl
theorem exec_faddImm (c : Ctl) (o : FI) (s : State) : exec (.faddImm c o) s = execFaddImm c o s := rfl
theorem exec_fsub (c : Ctl) (o : F3) (s : State) : exec (.fsub c o) s = execFsub c o s := rfl
theorem exec_fsubImm (c : Ctl) (o : FI) (s : State) : exec (.fsubImm c o) s = execFsubImm c o s := rfl
theorem exec_fmul (c : Ctl) (o : F3) (s : State) : exec (.fmul c o) s = execFmul c o s := rfl
theorem exec_fmulImm (c : Ctl) (o : FI) (s : State) : exec (.fmulImm c o) s = execFmulImm c o s := rfl
theorem exec_ffma (c : Ctl) (o : F3) (s : State) : exec (.ffma c o) s = execFfma c o s := rfl
theorem exec_fmin (c : Ctl) (o : F3) (s : State) : exec (.fmin c o) s = execFmin c o s := rfl
theorem exec_fminImm (c : Ctl) (o : FI) (s : State) : exec (.fminImm c o) s = execFminImm c o s := rfl
theorem exec_fmax (c : Ctl) (o : F3) (s : State) : exec (.fmax c o) s = execFmax c o s := rfl
theorem exec_fmaxImm (c : Ctl) (o : FI) (s : State) : exec (.fmaxImm c o) s = execFmaxImm c o s := rfl
theorem exec_fcmp (c : Ctl) (o : F3) (s : State) : exec (.fcmp c o) s = execFcmp c o s := rfl
theorem exec_fcmpImm (c : Ctl) (o : FI) (s : State) : exec (.fcmpImm c o) s = execFcmpImm c o s := rfl
theorem exec_fclass (c : Ctl) (o : F3) (s : State) : exec (.fclass c o) s = execFclass c o s := rfl
theorem exec_frnd (c : Ctl) (o : F3) (s : State) : exec (.frnd c o) s = execFrnd c o s := rfl
theorem exec_cvt (c : Ctl) (o : F3) (s : State) : exec (.cvt c o) s = execCvt c o s := rfl
theorem exec_fdot2 (c : Ctl) (o : F3) (s : State) : exec (.fdot2 c o) s = execFdot2 c o s := rfl
theorem exec_exp2 (c : Ctl) (fn : Fin 16) (o : F3) (s : State) : exec (.exp2 c fn o) s = execExp2 c fn o s := rfl
theorem exec_log2 (c : Ctl) (fn : Fin 16) (o : F3) (s : State) : exec (.log2 c fn o) s = execLog2 c fn o s := rfl
theorem exec_rcp (c : Ctl) (fn : Fin 16) (o : F3) (s : State) : exec (.rcp c fn o) s = execRcp c fn o s := rfl
theorem exec_rsqrt (c : Ctl) (fn : Fin 16) (o : F3) (s : State) : exec (.rsqrt c fn o) s = execRsqrt c fn o s := rfl
theorem exec_sqrt (c : Ctl) (fn : Fin 16) (o : F3) (s : State) : exec (.sqrt c fn o) s = execSqrt c fn o s := rfl
theorem exec_sin (c : Ctl) (fn : Fin 16) (o : F3) (s : State) : exec (.sin c fn o) s = execSin c fn o s := rfl
theorem exec_cos (c : Ctl) (fn : Fin 16) (o : F3) (s : State) : exec (.cos c fn o) s = execCos c fn o s := rfl
theorem exec_tanh (c : Ctl) (fn : Fin 16) (o : F3) (s : State) : exec (.tanh c fn o) s = execTanh c fn o s := rfl
theorem exec_sigm (c : Ctl) (fn : Fin 16) (o : F3) (s : State) : exec (.sigm c fn o) s = execSigm c fn o s := rfl
theorem exec_erf (c : Ctl) (fn : Fin 16) (o : F3) (s : State) : exec (.erf c fn o) s = execErf c fn o s := rfl
theorem exec_rngDraw (c : Ctl) (o : F3) (s : State) : exec (.rngDraw c o) s = execRngDraw c o s := rfl
theorem exec_gmax (c : Ctl) (o : F3) (s : State) : exec (.gmax c o) s = execGmax c o s := rfl
theorem exec_quant (c : Ctl) (o : F3) (s : State) : exec (.quant c o) s = execQuant c o s := rfl
theorem exec_dequant (c : Ctl) (o : F3) (s : State) : exec (.dequant c o) s = execDequant c o s := rfl
theorem exec_shfl (c : Ctl) (o : F3) (s : State) : exec (.shfl c o) s = execShfl c o s := rfl
theorem exec_vote (c : Ctl) (o : F3) (s : State) : exec (.vote c o) s = execVote c o s := rfl
theorem exec_voteImm (c : Ctl) (o : FI) (s : State) : exec (.voteImm c o) s = execVoteImm c o s := rfl
theorem exec_matchT (c : Ctl) (o : F3) (s : State) : exec (.matchT c o) s = execMatchT c o s := rfl
theorem exec_redTeam (c : Ctl) (o : F3) (s : State) : exec (.redTeam c o) s = execRedTeam c o s := rfl
theorem exec_redTeamImm (c : Ctl) (o : FI) (s : State) : exec (.redTeamImm c o) s = execRedTeamImm c o s := rfl
theorem exec_scanTeam (c : Ctl) (o : F3) (s : State) : exec (.scanTeam c o) s = execScanTeam c o s := rfl
theorem exec_scanTeamImm (c : Ctl) (o : FI) (s : State) : exec (.scanTeamImm c o) s = execScanTeamImm c o s := rfl
theorem exec_topkIns (c : Ctl) (o : F3) (s : State) : exec (.topkIns c o) s = execTopkIns c o s := rfl
theorem exec_ld (c : Ctl) (o : FM) (s : State) : exec (.ld c o) s = execLd c o s := rfl
theorem exec_ldRo (c : Ctl) (o : FM) (s : State) : exec (.ldRo c o) s = execLdRo c o s := rfl
theorem exec_ldC (c : Ctl) (o : FM) (s : State) : exec (.ldC c o) s = execLdC c o s := rfl
theorem exec_ldTl (c : Ctl) (o : FM) (s : State) : exec (.ldTl c o) s = execLdTl c o s := rfl
theorem exec_st (c : Ctl) (o : FM) (s : State) : exec (.st c o) s = execSt c o s := rfl
theorem exec_pref (c : Ctl) (o : FM) (s : State) : exec (.pref c o) s = execPref c o s := rfl
theorem exec_smp (c : Ctl) (o : F3) (s : State) : exec (.smp c o) s = execSmp c o s := rfl
theorem exec_atom (c : Ctl) (fn : Fin 16) (o : FM) (s : State) : exec (.atom c fn o) s = execAtom c fn o s := rfl
theorem exec_atomF (c : Ctl) (fn : Fin 16) (o : FM) (s : State) : exec (.atomF c fn o) s = execAtomF c fn o s := rfl
theorem exec_atomCas (c : Ctl) (o : FM) (s : State) : exec (.atomCas c o) s = execAtomCas c o s := rfl
theorem exec_atomOrd (c : Ctl) (fn : Fin 16) (o : FM) (s : State) :
    exec (.atomOrd c fn o) s = execAtomOrd c fn o s := rfl
theorem exec_fence (c : Ctl) (fn : Fin 16) (o : F3) (s : State) : exec (.fence c fn o) s = execFence c fn o s := rfl
theorem exec_fencePath (c : Ctl) (o : F3) (s : State) : exec (.fencePath c o) s = execFencePath c o s := rfl
theorem exec_acq (c : Ctl) (o : FM) (s : State) : exec (.acq c o) s = execAcq c o s := rfl
theorem exec_acqGe (c : Ctl) (o : FM) (s : State) : exec (.acqGe c o) s = execAcqGe c o s := rfl
theorem exec_acqX (c : Ctl) (o : FM) (s : State) : exec (.acqX c o) s = execAcqX c o s := rfl
theorem exec_rel (c : Ctl) (o : FM) (s : State) : exec (.rel c o) s = execRel c o s := rfl
theorem exec_syncBind (c : Ctl) (o : F3) (s : State) : exec (.syncBind c o) s = execSyncBind c o s := rfl
theorem exec_syncUnbind (c : Ctl) (o : F3) (s : State) : exec (.syncUnbind c o) s = execSyncUnbind c o s := rfl
theorem exec_cinv (c : Ctl) (o : FM) (s : State) : exec (.cinv c o) s = execCinv c o s := rfl
theorem exec_cwb (c : Ctl) (o : FM) (s : State) : exec (.cwb c o) s = execCwb c o s := rfl
theorem exec_aggDecl (c : Ctl) (o : F3) (s : State) : exec (.aggDecl c o) s = execAggDecl c o s := rfl
theorem exec_aggFree (c : Ctl) (o : F3) (s : State) : exec (.aggFree c o) s = execAggFree c o s := rfl
theorem exec_aggRange (c : Ctl) (o : F3) (s : State) : exec (.aggRange c o) s = execAggRange c o s := rfl
theorem exec_aggPfx (c : Ctl) (o : F3) (s : State) : exec (.aggPfx c o) s = execAggPfx c o s := rfl
theorem exec_aggPick (c : Ctl) (o : F3) (s : State) : exec (.aggPick c o) s = execAggPick c o s := rfl
theorem exec_aggSync (c : Ctl) (o : F3) (s : State) : exec (.aggSync c o) s = execAggSync c o s := rfl
theorem exec_combJoin (c : Ctl) (o : FX) (s : State) : exec (.combJoin c o) s = execCombJoin c o s := rfl
theorem exec_combLeave (c : Ctl) (o : FX) (s : State) : exec (.combLeave c o) s = execCombLeave c o s := rfl
theorem exec_combDef (c : Ctl) (o : FX) (s : State) : exec (.combDef c o) s = execCombDef c o s := rfl
theorem exec_combDefs (c : Ctl) (o : FX) (s : State) : exec (.combDefs c o) s = execCombDefs c o s := rfl
theorem exec_combRd (c : Ctl) (o : FX) (s : State) : exec (.combRd c o) s = execCombRd c o s := rfl
theorem exec_combRds (c : Ctl) (o : FX) (s : State) : exec (.combRds c o) s = execCombRds c o s := rfl
theorem exec_combKill (c : Ctl) (o : FX) (s : State) : exec (.combKill c o) s = execCombKill c o s := rfl
theorem exec_combQ (c : Ctl) (o : FX) (s : State) : exec (.combQ c o) s = execCombQ c o s := rfl
theorem exec_combMap (c : Ctl) (o : FX) (s : State) : exec (.combMap c o) s = execCombMap c o s := rfl
theorem exec_cpTensor (c : Ctl) (o : FX) (s : State) : exec (.cpTensor c o) s = execCpTensor c o s := rfl
theorem exec_cpGather (c : Ctl) (o : FX) (s : State) : exec (.cpGather c o) s = execCpGather c o s := rfl
theorem exec_cpScatter (c : Ctl) (o : FX) (s : State) : exec (.cpScatter c o) s = execCpScatter c o s := rfl
theorem exec_cpMcast (c : Ctl) (o : FX) (s : State) : exec (.cpMcast c o) s = execCpMcast c o s := rfl
theorem exec_cpFill (c : Ctl) (o : FX) (s : State) : exec (.cpFill c o) s = execCpFill c o s := rfl
theorem exec_cpResume (c : Ctl) (o : FX) (s : State) : exec (.cpResume c o) s = execCpResume c o s := rfl
theorem exec_cbRd (c : Ctl) (o : F3) (s : State) : exec (.cbRd c o) s = execCbRd c o s := rfl
theorem exec_dgNode (c : Ctl) (o : FX) (s : State) : exec (.dgNode c o) s = execDgNode c o s := rfl
theorem exec_dgGo (c : Ctl) (o : FX) (s : State) : exec (.dgGo c o) s = execDgGo c o s := rfl
theorem exec_engGuard (c : Ctl) (o : FX) (s : State) : exec (.engGuard c o) s = execEngGuard c o s := rfl
theorem exec_wagSend (c : Ctl) (o : FX) (s : State) : exec (.wagSend c o) s = execWagSend c o s := rfl
theorem exec_lqPush (c : Ctl) (o : FX) (s : State) : exec (.lqPush c o) s = execLqPush c o s := rfl
theorem exec_msSet (c : Ctl) (o : FX) (s : State) : exec (.msSet c o) s = execMsSet c o s := rfl
theorem exec_mLd (c : Ctl) (o : FX) (s : State) : exec (.mLd c o) s = execMLd c o s := rfl
theorem exec_mSt (c : Ctl) (o : FX) (s : State) : exec (.mSt c o) s = execMSt c o s := rfl
theorem exec_mZero (c : Ctl) (o : FX) (s : State) : exec (.mZero c o) s = execMZero c o s := rfl
theorem exec_rsvAlloc (c : Ctl) (o : FX) (s : State) : exec (.rsvAlloc c o) s = execRsvAlloc c o s := rfl
theorem exec_rsvFree (c : Ctl) (o : FX) (s : State) : exec (.rsvFree c o) s = execRsvFree c o s := rfl
theorem exec_mma (c : Ctl) (o : FX) (s : State) : exec (.mma c o) s = execMma c o s := rfl
theorem exec_mmaQ (c : Ctl) (o : FX) (s : State) : exec (.mmaQ c o) s = execMmaQ c o s := rfl
theorem exec_epi (c : Ctl) (o : FX) (s : State) : exec (.epi c o) s = execEpi c o s := rfl
theorem exec_outlAdd (c : Ctl) (o : FX) (s : State) : exec (.outlAdd c o) s = execOutlAdd c o s := rfl
theorem exec_amaxRd (c : Ctl) (o : FX) (s : State) : exec (.amaxRd c o) s = execAmaxRd c o s := rfl
theorem exec_accClr (c : Ctl) (o : FX) (s : State) : exec (.accClr c o) s = execAccClr c o s := rfl
theorem exec_bra (c : Ctl) (o : FB) (s : State) : exec (.bra c o) s = execBra c o s := rfl
theorem exec_braI (c : Ctl) (o : FB) (s : State) : exec (.braI c o) s = execBraI c o s := rfl
theorem exec_callF (c : Ctl) (o : FB) (s : State) : exec (.callF c o) s = execCallF c o s := rfl
theorem exec_callFH (c : Ctl) (o : FB) (s : State) : exec (.callFH c o) s = execCallFH c o s := rfl
theorem exec_callI (c : Ctl) (o : FB) (s : State) : exec (.callI c o) s = execCallI c o s := rfl
theorem exec_callIH (c : Ctl) (o : FB) (s : State) : exec (.callIH c o) s = execCallIH c o s := rfl
theorem exec_callQ (c : Ctl) (o : FB) (s : State) : exec (.callQ c o) s = execCallQ c o s := rfl
theorem exec_ret (c : Ctl) (o : F3) (s : State) : exec (.ret c o) s = execRet c o s := rfl
theorem exec_unwind (c : Ctl) (o : F3) (s : State) : exec (.unwind c o) s = execUnwind c o s := rfl
theorem exec_exit (c : Ctl) (o : F3) (s : State) : exec (.exit c o) s = execExit c o s := rfl
theorem exec_loopCap (c : Ctl) (o : FI) (s : State) : exec (.loopCap c o) s = execLoopCap c o s := rfl
theorem exec_loopStep (c : Ctl) (o : FI) (s : State) : exec (.loopStep c o) s = execLoopStep c o s := rfl
theorem exec_bktSel (c : Ctl) (o : F3) (s : State) : exec (.bktSel c o) s = execBktSel c o s := rfl
theorem exec_elect (c : Ctl) (o : F3) (s : State) : exec (.elect c o) s = execElect c o s := rfl
theorem exec_yield (c : Ctl) (o : F3) (s : State) : exec (.yield c o) s = execYield c o s := rfl
theorem exec_nop (c : Ctl) (o : F3) (s : State) : exec (.nop c o) s = execNop c o s := rfl
theorem exec_barInit (c : Ctl) (o : FI) (s : State) : exec (.barInit c o) s = execBarInit c o s := rfl
theorem exec_barArrive (c : Ctl) (o : FI) (s : State) : exec (.barArrive c o) s = execBarArrive c o s := rfl
theorem exec_barWait (c : Ctl) (o : FI) (s : State) : exec (.barWait c o) s = execBarWait c o s := rfl
theorem exec_barTx (c : Ctl) (o : FI) (s : State) : exec (.barTx c o) s = execBarTx c o s := rfl
theorem exec_teamSync (c : Ctl) (o : F3) (s : State) : exec (.teamSync c o) s = execTeamSync c o s := rfl
theorem exec_teamSyncImm (c : Ctl) (o : FI) (s : State) : exec (.teamSyncImm c o) s = execTeamSyncImm c o s := rfl
theorem exec_wait (c : Ctl) (o : FI) (s : State) : exec (.wait c o) s = execWait c o s := rfl
theorem exec_trap (c : Ctl) (o : FI) (s : State) : exec (.trap c o) s = execTrap c o s := rfl
theorem exec_brk (c : Ctl) (o : F3) (s : State) : exec (.brk c o) s = execBrk c o s := rfl
theorem exec_rdsr (c : Ctl) (o : FI) (s : State) : exec (.rdsr c o) s = execRdsr c o s := rfl
theorem exec_wrsr (c : Ctl) (o : FI) (s : State) : exec (.wrsr c o) s = execWrsr c o s := rfl
theorem exec_digestRd (c : Ctl) (o : F3) (s : State) : exec (.digestRd c o) s = execDigestRd c o s := rfl
theorem exec_tlbInv (c : Ctl) (o : F3) (s : State) : exec (.tlbInv c o) s = execTlbInv c o s := rfl
theorem exec_sleep (c : Ctl) (o : FI) (s : State) : exec (.sleep c o) s = execSleep c o s := rfl
theorem exec_halt (c : Ctl) (o : F3) (s : State) : exec (.halt c o) s = execHalt c o s := rfl
theorem exec_tlbMissWalk (core k victim : Nat) (s : State) :
    exec (.tlbMissWalk core k victim) s = execTlbMissWalk core k victim s := rfl
theorem exec_hostTranslationResponse (core k : Nat) (ok : Bool) (ha : Nat) (s : State) :
    exec (.hostTranslationResponse core k ok ha) s = execHostTranslationResponse core k ok ha s := rfl
theorem exec_hostRequestTimeout (core k : Nat) (req : Option Nat) (s : State) :
    exec (.hostRequestTimeout core k req) s = execHostRequestTimeout core k req s := rfl
theorem exec_atsInvalidation (part ha size : Nat) (s : State) :
    exec (.atsInvalidation part ha size) s = execAtsInvalidation part ha size s := rfl
theorem exec_flitInjection (p : Nat) (s : State) : exec (.flitInjection p) s = execFlitInjection p s := rfl
theorem exec_flitArrival (p : Nat) (good : Bool) (s : State) :
    exec (.flitArrival p good) s = execFlitArrival p good s := rfl
theorem exec_sliceRequest (p : Nat) (s : State) : exec (.sliceRequest p) s = execSliceRequest p s := rfl
theorem exec_replyArrival (p : Nat) (s : State) : exec (.replyArrival p) s = execReplyArrival p s := rfl
theorem exec_requestRetransmit (r : Nat) (s : State) : exec (.requestRetransmit r) s = execRequestRetransmit r s := rfl
theorem exec_congestionWindowEnd (s : State) : exec (.congestionWindowEnd) s = execCongestionWindowEnd s := rfl
theorem exec_aggUpdateApply (part slot : Nat) (s : State) :
    exec (.aggUpdateApply part slot) s = execAggUpdateApply part slot s := rfl
theorem exec_aggQueryAccept (op : Nat) (s : State) : exec (.aggQueryAccept op) s = execAggQueryAccept op s := rfl
theorem exec_aggBuildComplete (op : Nat) (s : State) : exec (.aggBuildComplete op) s = execAggBuildComplete op s := rfl
theorem exec_aggFreeDrain (op : Nat) (s : State) : exec (.aggFreeDrain op) s = execAggFreeDrain op s := rfl
theorem exec_orderedEntryArrival (slice : Nat) (s : State) :
    exec (.orderedEntryArrival slice) s = execOrderedEntryArrival slice s := rfl
theorem exec_floorReport (core slice : Nat) (s : State) :
    exec (.floorReport core slice) s = execFloorReport core slice s := rfl
theorem exec_orderedEntryApply (slice line : Nat) (s : State) :
    exec (.orderedEntryApply slice line) s = execOrderedEntryApply slice line s := rfl
theorem exec_scalingRingPush (part : Nat) (s : State) :
    exec (.scalingRingPush part) s = execScalingRingPush part s := rfl
theorem exec_combCopyComplete (op : Nat) (s : State) : exec (.combCopyComplete op) s = execCombCopyComplete op s := rfl
theorem exec_combLeaveComplete (wg : Nat) (s : State) :
    exec (.combLeaveComplete wg) s = execCombLeaveComplete wg s := rfl
theorem exec_combPlacementMove (dir cell place : Nat) (s : State) :
    exec (.combPlacementMove dir cell place) s = execCombPlacementMove dir cell place s := rfl
theorem exec_engineCommandDispatch (wg : Nat) (s : State) :
    exec (.engineCommandDispatch wg) s = execEngineCommandDispatch wg s := rfl
theorem exec_engineUnitComplete (wg cb unit : Nat) (part : Option Nat) (s : State) :
    exec (.engineUnitComplete wg cb unit part) s = execEngineUnitComplete wg cb unit part s := rfl
theorem exec_stallCountExpire (wg tid : Nat) (s : State) :
    exec (.stallCountExpire wg tid) s = execStallCountExpire wg tid s := rfl
theorem exec_sleepExpire (wg tid : Nat) (s : State) : exec (.sleepExpire wg tid) s = execSleepExpire wg tid s := rfl
theorem exec_calleeQueueDrain (core : Nat) (s : State) :
    exec (.calleeQueueDrain core) s = execCalleeQueueDrain core s := rfl
theorem exec_swarmStart (core : Nat) (s : State) : exec (.swarmStart core) s = execSwarmStart core s := rfl
theorem exec_mmaComplete (wg : Nat) (s : State) : exec (.mmaComplete wg) s = execMmaComplete wg s := rfl
theorem exec_epiComplete (wg : Nat) (s : State) : exec (.epiComplete wg) s = execEpiComplete wg s := rfl
theorem exec_tileTransferComplete (wg : Nat) (s : State) :
    exec (.tileTransferComplete wg) s = execTileTransferComplete wg s := rfl
theorem exec_matrixClaimGrant (core : Nat) (s : State) :
    exec (.matrixClaimGrant core) s = execMatrixClaimGrant core s := rfl
theorem exec_matrixEviction (core : Nat) (s : State) : exec (.matrixEviction core) s = execMatrixEviction core s := rfl
theorem exec_doorbell (part q value : Nat) (s : State) :
    exec (.doorbell part q value) s = execDoorbell part q value s := rfl
theorem exec_ringCommandNop (part q : Nat) (s : State) :
    exec (.ringCommandNop part q) s = execRingCommandNop part q s := rfl
theorem exec_ringCommandLaunch (part q : Nat) (s : State) :
    exec (.ringCommandLaunch part q) s = execRingCommandLaunch part q s := rfl
theorem exec_ringCommandGraph (part q : Nat) (s : State) :
    exec (.ringCommandGraph part q) s = execRingCommandGraph part q s := rfl
theorem exec_ringCommandDigestReset (part q : Nat) (s : State) :
    exec (.ringCommandDigestReset part q) s = execRingCommandDigestReset part q s := rfl
theorem exec_graphPredDecrement (part : Nat) (s : State) :
    exec (.graphPredDecrement part) s = execGraphPredDecrement part s := rfl
theorem exec_launchQueueTake (part die : Nat) (s : State) :
    exec (.launchQueueTake part die) s = execLaunchQueueTake part die s := rfl
theorem exec_workgroupPlace (die : Nat) (s : State) : exec (.workgroupPlace die) s = execWorkgroupPlace die s := rfl
theorem exec_priorityReserve (launch : Nat) (s : State) :
    exec (.priorityReserve launch) s = execPriorityReserve launch s := rfl
theorem exec_granuleClearComplete (wg : Nat) (s : State) :
    exec (.granuleClearComplete wg) s = execGranuleClearComplete wg s := rfl
theorem exec_workgroupRetire (wg : Nat) (s : State) : exec (.workgroupRetire wg) s = execWorkgroupRetire wg s := rfl
theorem exec_digestLinkAppend (part q : Nat) (s : State) :
    exec (.digestLinkAppend part q) s = execDigestLinkAppend part q s := rfl
theorem exec_waggleHandlerLaunch (part : Nat) (s : State) :
    exec (.waggleHandlerLaunch part) s = execWaggleHandlerLaunch part s := rfl
theorem exec_faultRecordRelease (rec : Nat) (s : State) :
    exec (.faultRecordRelease rec) s = execFaultRecordRelease rec s := rfl
theorem exec_workgroupSave (wg : Nat) (s : State) : exec (.workgroupSave wg) s = execWorkgroupSave wg s := rfl
theorem exec_workgroupRestore (wg core : Nat) (bad : Option Nat) (s : State) :
    exec (.workgroupRestore wg core bad) s = execWorkgroupRestore wg core bad s := rfl
theorem exec_eccCorrected (kind : UnitKind) (index : Nat) (s : State) :
    exec (.eccCorrected kind index) s = execEccCorrected kind index s := rfl
theorem exec_fatalError (kind : UnitKind) (index : Nat) (s : State) :
    exec (.fatalError kind index) s = execFatalError kind index s := rfl
theorem exec_powerArbiterTick (avg100us avg1ms : Nat) (s : State) :
    exec (.powerArbiterTick avg100us avg1ms) s = execPowerArbiterTick avg100us avg1ms s := rfl
theorem exec_hostBar2Access (part va n : Nat) (data : Option (List Byte)) (s : State) :
    exec (.hostBar2Access part va n data) s = execHostBar2Access part va n data s := rfl
theorem exec_registerWrite (part off value : Nat) (s : State) :
    exec (.registerWrite part off value) s = execRegisterWrite part off value s := rfl
theorem exec_qtabWrite (part q value : Nat) (s : State) :
    exec (.qtabWrite part q value) s = execQtabWrite part q value s := rfl
theorem exec_fqstatClear (part : Nat) (s : State) : exec (.fqstatClear part) s = execFqstatClear part s := rfl
theorem exec_fqresp1 (part value : Nat) (s : State) : exec (.fqresp1 part value) s = execFqresp1 part value s := rfl
theorem exec_switchOut (part value : Nat) (s : State) :
    exec (.switchOut part value) s = execSwitchOut part value s := rfl
theorem exec_switchIn (part value : Nat) (s : State) : exec (.switchIn part value) s = execSwitchIn part value s := rfl
theorem exec_restore (part value : Nat) (s : State) : exec (.restore part value) s = execRestore part value s := rfl
theorem exec_attest (part value : Nat) (s : State) : exec (.attest part value) s = execAttest part value s := rfl
theorem exec_faultQueuePost (part : Nat) (s : State) : exec (.faultQueuePost part) s = execFaultQueuePost part s := rfl
theorem exec_faultQueueDrain (part : Nat) (s : State) :
    exec (.faultQueueDrain part) s = execFaultQueueDrain part s := rfl
theorem exec_createCq (part : Nat) (s : State) : exec (.createCq part) s = execCreateCq part s := rfl
theorem exec_destroyCq (part : Nat) (s : State) : exec (.destroyCq part) s = execDestroyCq part s := rfl
theorem exec_createQp (part : Nat) (s : State) : exec (.createQp part) s = execCreateQp part s := rfl
theorem exec_modifyQp (part : Nat) (s : State) : exec (.modifyQp part) s = execModifyQp part s := rfl
theorem exec_destroyQp (part : Nat) (s : State) : exec (.destroyQp part) s = execDestroyQp part s := rfl
theorem exec_regMr (part : Nat) (s : State) : exec (.regMr part) s = execRegMr part s := rfl
theorem exec_deregMr (part : Nat) (s : State) : exec (.deregMr part) s = execDeregMr part s := rfl
theorem exec_sqdb (part value : Nat) (s : State) : exec (.sqdb part value) s = execSqdb part value s := rfl
theorem exec_rqdb (part value : Nat) (s : State) : exec (.rqdb part value) s = execRqdb part value s := rfl
theorem exec_sendWorkRequest (part qpn : Nat) (status : Nat) (data : List Byte) (s : State) :
    exec (.sendWorkRequest part qpn status data) s = execSendWorkRequest part qpn status data s := rfl
theorem exec_roceInbound (part qpn kind : Nat) (rva rkey imm : Nat) (data : List Byte) (s : State) :
    exec (.roceInbound part qpn kind rva rkey imm data) s = execRoceInbound part qpn kind rva rkey imm data s := rfl
theorem exec_remoteEncapRequest (part node spart seq op va : Nat) (args : List Word) (s : State) :
    exec (.remoteEncapRequest part node spart seq op va args) s = execRemoteEncapRequest part node spart seq op va args s := rfl
theorem exec_remoteRetransmit (r : Nat) (s : State) : exec (.remoteRetransmit r) s = execRemoteRetransmit r s := rfl
theorem exec_hostLinkDown (s : State) : exec (.hostLinkDown) s = execHostLinkDown s := rfl
theorem exec_flrVf (part : Nat) (s : State) : exec (.flrVf part) s = execFlrVf part s := rfl
theorem exec_partitionCreate (part : Nat) (hives slices groups : List Nat) (shadow combbk : Nat) (rates : List Nat) (s : State) :
    exec (.partitionCreate part hives slices groups shadow combbk rates rootPt asid rcb image) s = execPartitionCreate part hives slices groups shadow combbk rates rootPt asid rcb image s := rfl
theorem exec_partitionResize (part : Nat) (hives slices groups : List Nat) (rates : List Nat) (s : State) :
    exec (.partitionResize part hives slices groups rates) s = execPartitionResize part hives slices groups rates s := rfl
theorem exec_firmwareStage (bank : Nat) (image : List Byte) (s : State) :
    exec (.firmwareStage bank image) s = execFirmwareStage bank image s := rfl
theorem exec_moduleReset (s : State) : exec (.moduleReset) s = execModuleReset s := rfl
theorem exec_localAccessComplete (op : Nat) (s : State) :
    exec (.localAccessComplete op) s = execLocalAccessComplete op s := rfl
theorem exec_hbmReadComplete (line : Nat) (good : Bool) (victim : Nat) (s : State) :
    exec (.hbmReadComplete line good victim) s = execHbmReadComplete line good victim s := rfl
theorem exec_combDefinitionComplete (op : Nat) (s : State) :
    exec (.combDefinitionComplete op) s = execCombDefinitionComplete op s := rfl
theorem exec_yieldHoldExpire (wg tid : Nat) (s : State) :
    exec (.yieldHoldExpire wg tid) s = execYieldHoldExpire wg tid s := rfl
theorem exec_hostCompletion (r : Nat) (good : Bool) (s : State) :
    exec (.hostCompletion r good) s = execHostCompletion r good s := rfl
theorem exec_roceRetryTimeout (part qpn : Nat) (s : State) :
    exec (.roceRetryTimeout part qpn) s = execRoceRetryTimeout part qpn s := rfl
theorem exec_lossOfPower (s : State) : exec (.lossOfPower) s = execLossOfPower s := rfl

end Sys2Proof.Machine
end

