-- ==== Sys2Proof/WellFormed.lean ====
section
/-!
DEFINITION. Well-formed instructions: those whose fields pass the decode checks of R255 steps 1 to 4
(spec/10_encoding.md), each by the row of its entry. Machine events carry no word; each is well formed.
-/

namespace Sys2Proof

/-- The decode fault that the word of i would raise, or 0. -/
def Instr.decodeFault (i : Instr) : Nat :=
  match i.parts with
  | some p => Map.dfault p.opc p.fn.val p.body
  | none => 0

/-- Every field of i holds a value its entry accepts. -/
def WellFormed (i : Instr) : Prop := i.decodeFault = 0 ∧ i.pathOk = true

/-- The check, as a Bool. -/
def wellFormed (i : Instr) : Bool := i.decodeFault == 0 && i.pathOk

end Sys2Proof
end

