-- ==== Sys2Proof/Certificates/Slice0/Obligations.lean ====
section
/-!
DEFINITION. The statements about the model, in the order of OBLIGATIONS.json. Their terms stand in Sys2Proof/Safety.lean:
a Bundle issues an instruction that each of its threads may execute, an Alone is a bundle of one such thread, Gives says
what every bundle leaves, ran is the state it leaves.
-/

open Sys2Proof Sys2Proof.Machine Sys2Proof.Safety

/-! ## Integer, logic, comparison and packed instructions -/

/-- R261 and R264: every integer arithmetic instruction of R260 gives D the exact result of its operands, read at the
type's width and signedness, and every thread of the bundle goes on. A scalar result is the exact one taken modulo 2^w,
or clamped to the type's range with .sat (SUB bit 0), and extended to 64 bits by sign for a signed type and by zeros for
the others; mulh is the upper half of the exact product. sad adds to C the exact distances of the elements of A and B,
modulo 2^64. -/
def Obligations.ScalarIntegerResult : Prop :=
  (
    ∀ (c : Ctl) (o : F3) (p : FI),
      Gives (.add c o) c (dAB o (fun a b => intOp (fun x y _ => x + y) o.ty o.sub.toNat a b 0)) ∧
      Gives (.addImm c p) c (dAI p (immInt p.ty p.imm) (fun a b => intOp (fun x y _ => x + y) p.ty p.sub.toNat a b 0)) ∧
      Gives (.sub c o) c (dAB o (fun a b => intOp (fun x y _ => x - y) o.ty o.sub.toNat a b 0)) ∧
      Gives (.subImm c p) c (dAI p (immInt p.ty p.imm) (fun a b => intOp (fun x y _ => x - y) p.ty p.sub.toNat a b 0)) ∧
      Gives (.mul c o) c (dAB o (fun a b => intOp (fun x y _ => x * y) o.ty o.sub.toNat a b 0)) ∧
      Gives (.mulImm c p) c (dAI p (immInt p.ty p.imm) (fun a b => intOp (fun x y _ => x * y) p.ty p.sub.toNat a b 0)) ∧
      Gives (.mulh c o) c (dAB o (fun a b => intOp (fun x y _ => x * y / 2 ^ o.ty.width) o.ty o.sub.toNat a b 0)) ∧
      Gives (.mad c o) c (dABC o (intOp (fun x y z => x * y + z) o.ty o.sub.toNat)) ∧
      Gives (.div c o) c (dAB o (fun a b => intOp (fun x y _ => divExact o.ty x y) o.ty o.sub.toNat a b 0)) ∧
      Gives (.rem c o) c (dAB o (fun a b => intOp (fun x y _ => remExact x y) o.ty o.sub.toNat a b 0)) ∧
      Gives (.neg c o) c (dA o (fun a => intOp (fun x _ _ => -x) o.ty o.sub.toNat a 0 0)) ∧
      Gives (.abs c o) c (dA o (fun a => intOp (fun x _ _ => if x < 0 then -x else x) o.ty o.sub.toNat a 0 0)) ∧
      Gives (.min c o) c (dAB o (fun a b => intOp (fun x y _ => if x ≤ y then x else y) o.ty o.sub.toNat a b 0)) ∧
      Gives (.minImm c p) c (dAI p (immInt p.ty p.imm)
        (fun a b => intOp (fun x y _ => if x ≤ y then x else y) p.ty p.sub.toNat a b 0)) ∧
      Gives (.max c o) c (dAB o (fun a b => intOp (fun x y _ => if x ≤ y then y else x) o.ty o.sub.toNat a b 0)) ∧
      Gives (.maxImm c p) c (dAI p (immInt p.ty p.imm)
        (fun a b => intOp (fun x y _ => if x ≤ y then y else x) p.ty p.sub.toNat a b 0)) ∧
      Gives (.sad c o) c (dABC o (fun a b z => ofN (z.toNat + ((List.range (64 / o.ty.width)).map (fun i =>
        (readTy o.ty (elem a.toNat o.ty.width i) - readTy o.ty (elem b.toNat o.ty.width i)).natAbs)).sum)))
  ) ∧
  (
    ∀ (ex : Int → Int → Int → Int) (ty : Ty) (a b c : Word),
      let w := ty.width
      let read := fun (x : Word) => if ty.isS then (x.setWidth w).toInt else ((x.setWidth w).toNat : Int)
      let r := ex (read a) (read b) (read c)
      (ty.isS = true → (intOp ex ty 0 a b c).toInt = r.bmod (2 ^ w)) ∧
      (ty.isS = false → ((intOp ex ty 0 a b c).toNat : Int) = r % (2 : Int) ^ w) ∧
      (ty.isS = true → (intOp ex ty 1 a b c).toInt = max (-((2 : Int) ^ (w - 1))) (min ((2 : Int) ^ (w - 1) - 1) r)) ∧
      (ty.isS = false → ((intOp ex ty 1 a b c).toNat : Int) = max 0 (min ((2 : Int) ^ w - 1) r))
  )

/-- R262: with .pk (SUB bit 1), element i of the result is the scalar result of elements i of the sources, and no element
carries into another; in the FI form the immediate is extended by zeros for a .z type and by sign otherwise, and its
elements are the second source; .pk with a width of 64 is the decode fault 0x03. -/
def Obligations.PackedElementsAreIndependent : Prop :=
  (∀ (ex : Int → Int → Int → Int) (ty : Ty) (sat : Bool) (a b c : Word) (i : Nat), i < 64 / ty.width →
    let e := fun (x : Word) => ofN (elem x.toNat ty.width i)
    elem (intOp ex ty (if sat then 3 else 2) a b c).toNat ty.width i =
      (intOp ex ty (if sat then 1 else 0) (e a) (e b) (e c)).toNat % 2 ^ ty.width) ∧
  (∀ (c : Ctl) (o : F3) (p : FI),
    let k : Word := if p.ty.isZ then p.imm.setWidth 64 else p.imm.signExtend 64
    Gives (.add c o) c (dAB o (fun a b => intOp (fun x y _ => x + y) o.ty o.sub.toNat a b 0)) ∧
    Gives (.addImm c p) c (dAI p k (fun a b => intOp (fun x y _ => x + y) p.ty p.sub.toNat a b 0)) ∧
    Gives (.sub c o) c (dAB o (fun a b => intOp (fun x y _ => x - y) o.ty o.sub.toNat a b 0)) ∧
    Gives (.subImm c p) c (dAI p k (fun a b => intOp (fun x y _ => x - y) p.ty p.sub.toNat a b 0)) ∧
    Gives (.neg c o) c (dA o (fun a => intOp (fun x _ _ => -x) o.ty o.sub.toNat a 0 0)) ∧
    Gives (.abs c o) c (dA o (fun a => intOp (fun x _ _ => if x < 0 then -x else x) o.ty o.sub.toNat a 0 0)) ∧
    Gives (.min c o) c (dAB o (fun a b => intOp (fun x y _ => if x ≤ y then x else y) o.ty o.sub.toNat a b 0)) ∧
    Gives (.minImm c p) c (dAI p k (fun a b => intOp (fun x y _ => if x ≤ y then x else y) p.ty p.sub.toNat a b 0)) ∧
    Gives (.max c o) c (dAB o (fun a b => intOp (fun x y _ => if x ≤ y then y else x) o.ty o.sub.toNat a b 0)) ∧
    Gives (.maxImm c p) c (dAI p k (fun a b => intOp (fun x y _ => if x ≤ y then y else x) p.ty p.sub.toNat a b 0))) ∧
  (∀ (c : Ctl) (o : F3) (p : FI),
    (o.ty.width = 64 → o.sub.getLsbD 1 = true → ∀ i ∈ [Instr.add c o, .sub c o, .neg c o, .abs c o, .min c o, .max c o],
      i.decodeFault = 3) ∧
    (p.ty.width = 64 → p.sub.getLsbD 1 = true → ∀ i ∈ [Instr.addImm c p, .subImm c p, .minImm c p, .maxImm c p],
      i.decodeFault = 3))

/-- R263: div truncates toward zero and rem returns what it leaves, with the sign of a; for a divisor of 0 the quotient is
the largest magnitude of the type with the sign of a and the remainder is a; the most negative number divided by −1 wraps,
or saturates under .sat, and leaves 0. The operands are the values read at width w. Neither instruction raises a fault: each
writes D and goes on. -/
def Obligations.DivisionAndRemainder : Prop :=
  ∀ (ty : Ty) (a b : Int),
    let w := ty.width
    (b ≠ 0 → divExact ty a b = a.tdiv b ∧ remExact a b = a - b * a.tdiv b) ∧
    (b = 0 → ty.isS = false → divExact ty a b = 2 ^ w - 1 ∧ remExact a b = a) ∧
    (b = 0 → ty.isS = true → 0 ≤ a → divExact ty a b = 2 ^ (w - 1) - 1 ∧ remExact a b = a) ∧
    (b = 0 → ty.isS = true → a < 0 → divExact ty a b = -(2 ^ (w - 1)) ∧ remExact a b = a) ∧
    (∀ (x y : Word), ty.isS = true → (x.setWidth w).toInt = -(2 ^ (w - 1)) → (y.setWidth w).toInt = -1 →
      (intOp (fun p q _ => divExact ty p q) ty 0 x y 0).toInt = -(2 ^ (w - 1)) ∧
      (intOp (fun p q _ => divExact ty p q) ty 1 x y 0).toInt = 2 ^ (w - 1) - 1 ∧
      intOp (fun p q _ => remExact p q) ty 0 x y 0 = 0) ∧
    (∀ (c : Ctl) (o : F3),
      Gives (.div c o) c (dAB o (fun a b => intOp (fun x y _ => divExact o.ty x y) o.ty o.sub.toNat a b 0)) ∧
      Gives (.rem c o) c (dAB o (fun a b => intOp (fun x y _ => remExact x y) o.ty o.sub.toNat a b 0)))

/-- Logic, shifts and counts (R265, R266): the effect on the low w bits, extended with zeros, or by sign for sar. The
shift count is the whole of B, unsigned and unmasked. -/
def Obligations.LogicShiftCountResults : Prop :=
  ∀ (c : Ctl) (o : F3) (p : FI),
    let lo := fun (w : Nat) (x : Word) => (x.setWidth w).setWidth 64
    let w := o.ty.width
    let v := p.ty.width
    let k := immInt p.ty p.imm
    let run := fun (l : List Nat) (f : Nat → Bool) => ofN (l.takeWhile f).length
    Gives (.and c o) c (dAB o (fun a b => lo w (a &&& b))) ∧
    Gives (.andImm c p) c (dAI p k (fun a b => lo v (a &&& b))) ∧
    Gives (.or c o) c (dAB o (fun a b => lo w (a ||| b))) ∧
    Gives (.orImm c p) c (dAI p k (fun a b => lo v (a ||| b))) ∧
    Gives (.xor c o) c (dAB o (fun a b => lo w (a ^^^ b))) ∧
    Gives (.xorImm c p) c (dAI p k (fun a b => lo v (a ^^^ b))) ∧
    Gives (.not c o) c (dA o (fun a => lo w (~~~a))) ∧
    Gives (.shl c o) c (dAB o (fun a b => if w ≤ b.toNat then 0 else lo w (a <<< b.toNat))) ∧
    Gives (.shlImm c p) c (dAI p k (fun a b => if v ≤ b.toNat then 0 else lo v (a <<< b.toNat))) ∧
    Gives (.shr c o) c (dAB o (fun a b => if w ≤ b.toNat then 0 else lo w a >>> b.toNat)) ∧
    Gives (.shrImm c p) c (dAI p k (fun a b => if v ≤ b.toNat then 0 else lo v a >>> b.toNat)) ∧
    Gives (.sar c o) c (dAB o (fun a b => ((a.setWidth w).sshiftRight b.toNat).signExtend 64)) ∧
    Gives (.sarImm c p) c (dAI p k (fun a b => ((a.setWidth v).sshiftRight b.toNat).signExtend 64)) ∧
    Gives (.rot c o) c (dAB o (fun a b => ((a.setWidth w).rotateLeft b.toNat).setWidth 64)) ∧
    Gives (.rotImm c p) c (dAI p k (fun a b => ((a.setWidth v).rotateLeft b.toNat).setWidth 64)) ∧
    Gives (.clz c o) c (dA o (fun a => run (List.range w).reverse (fun j => !a.getLsbD j))) ∧
    Gives (.ctz c o) c (dA o (fun a => run (List.range w) (fun j => !a.getLsbD j))) ∧
    Gives (.popc c o) c (dA o (fun a => ofN ((List.range w).countP (fun j => a.getLsbD j)))) ∧
    Gives (.brev c o) c (dA o (fun a => (a.setWidth w).reverse.setWidth 64))

/-- Comparison, selection and moves (R267 to R270, R257) and lea: cmp writes its outcome to PD and, as a mask of ones, to D;
sel copies A or B by the predicate that SUB names; movi, movh, ext and lea write what their entries give. -/
def Obligations.CompareSelectMoveResults : Prop :=
  ∀ (c : Ctl) (o : F3) (p : FI),
    let rd := fun (ty : Ty) (x : Word) => if ty.isS then (x.setWidth ty.width).toInt else ((x.setWidth ty.width).toNat : Int)
    let holds := fun (cc : Nat) (x y : Int) =>
      decide ((cc = 0 ∧ x = y) ∨ (cc = 1 ∧ x ≠ y) ∨ (cc = 2 ∧ x < y) ∨ (cc = 3 ∧ x ≤ y) ∨ (cc = 4 ∧ y < x) ∨ (5 ≤ cc ∧ y ≤ x))
    Gives (.cmp c o) c (fun u => setsBool u o.d o.pd.val (fun s t =>
      holds (o.sub.toNat % 8) (rd o.ty (s.src u.wg t o.a)) (rd o.ty (s.src u.wg t o.b)))) ∧
    Gives (.cmpImm c p) c (fun u => setsBool u p.d p.pd.val (fun s t =>
      holds (p.sub.toNat % 8) (rd p.ty (s.src u.wg t p.a)) (rd p.ty (immInt p.ty p.imm)))) ∧
    Gives (.sel c o) c (fun u => sets u o.d (fun s t =>
      let q := ((s.thread u.wg t).map (fun th => th.pred (o.sub.toNat % 16))).getD true
      if q != o.sub.getLsbD 4 then s.src u.wg t o.a else s.src u.wg t o.b)) ∧
    Gives (.mov c o) c (dA o (fun a => a)) ∧
    Gives (.movi c p) c (fun u => sets u p.d (fun _ _ => if p.ty.isZ then p.imm.setWidth 64 else p.imm.signExtend 64)) ∧
    Gives (.movh c p) c (dAI p 0 (fun a _ => (p.imm.setWidth 64 <<< 32) ||| ((a.setWidth 32).setWidth 64))) ∧
    Gives (.ext c o) c (dA o (fun a =>
      if o.ty.isS then (a.setWidth o.ty.width).signExtend 64 else (a.setWidth o.ty.width).setWidth 64)) ∧
    Gives (.lea c o) c (dABC o (fun a b z => a + (b <<< (o.sub.toNat % 8)) + z))

/-- Packed elements, bit fields and bit matrices complete (R271 to R279). The second and the third part say what
they write, bit by bit or element by element: pack, unpack and dot4 (R271, R272, R274, R208), then swz, the bit fields and the bit
matrices (R273, R275 to R279). -/
def Obligations.PackedAndBitFieldOperations : Prop :=
  (
    ∀ (c : Ctl) (o : F3),
      Gives (.pack c o) c (dAB o (packOp o.ty (o.sub.getLsbD 0))) ∧
      Gives (.unpack c o) c (dA o (unpackOp o.ty (o.sub.getLsbD 0))) ∧
      Gives (.swz c o) c (dABC o (swzOp o.ty)) ∧
      Gives (.dot4 c o) c (dABC o (dot4Op (Ty.ofCode (o.sub.toNat / 16)) o.ty (o.sub.getLsbD 0))) ∧
      Gives (.bfx c o) c (dABC o (bfxOp o.ty)) ∧
      Gives (.bfi c o) c (fun u => sets u o.d (fun s t =>
        bfiOp o.ty (s.src u.wg t o.a) (s.src u.wg t o.b) (s.src u.wg t o.c) (s.src u.wg t o.e))) ∧
      Gives (.bmm8 c o) c (dAB o (bmm8Op (o.sub.getLsbD 0))) ∧
      Gives (.pdep c o) c (dAB o (pdepOp o.ty)) ∧
      Gives (.pext c o) c (dAB o (pextOp o.ty)) ∧
      Gives (.bperm c o) c (fun u => sets u o.d (fun s t =>
        bpermOp (s.src u.wg t o.a) ((List.range 6).map (fun j => s.src u.wg t (Opnd.plus o.b j)))))
  ) ∧
  (
    ∀ (ty ea eb : Ty) (a b c : Word) (k : Nat) (hi : Bool),
      let w := ty.width
      let n := 32 / w
      let wide := elem (if k < n then a else b).toNat (2 * w) (k % n)
      let half := elem (if hi then a.toNat / 2 ^ 32 else a.toNat % 2 ^ 32) w k
      let byte := fun (ty : Ty) (x : Word) (i : Nat) =>
        if ty.isS then (BitVec.ofNat 8 (elem x.toNat 8 i)).toInt else (elem x.toNat 8 i : Int)
      let sum := (c.setWidth 32).toInt + ((List.range 4).map (fun i => byte ea a i * byte eb b i)).sum
      (w ≤ 32 → k < 2 * n →
        elem (packOp ty false a b).toNat w k = wide % 2 ^ w ∧
        (ty.isS = true → elem (packOp ty true a b).toNat w k =
          (max (-((2 : Int) ^ (w - 1))) (min ((2 : Int) ^ (w - 1) - 1) (BitVec.ofNat (2 * w) wide).toInt) % (2 : Int) ^ w).toNat) ∧
        (ty.isS = false → elem (packOp ty true a b).toNat w k = min wide (2 ^ w - 1))) ∧
      (w ≤ 32 → k < n → elem (unpackOp ty hi a).toNat (2 * w) k =
        if ty.isS then ((BitVec.ofNat w half).toInt % (2 : Int) ^ (2 * w)).toNat else half) ∧
      (ea.width = 8 → eb.width = 8 →
        (dot4Op ea eb false a b c).toInt = sum.bmod (2 ^ 32) ∧
        (dot4Op ea eb true a b c).toInt = max (-((2 : Int) ^ 31)) (min ((2 : Int) ^ 31 - 1) sum))
  ) ∧
  (
    ∀ (ty : Ty) (a b c e : Word) (k : Nat) (v : Nat → Word),
      let w := ty.width
      let p := min (c.toNat % 256) w
      let l := min (e.toNat % 256) w
      let from_ := min (b.toNat % 256) w
      let long := min (c.toNat % 256) w
      let bitAt := fun (j : Nat) => if j < w then a.getLsbD j else ty.isS && a.getLsbD (w - 1)
      let m := (List.range w).filter (fun j => b.getLsbD j)
      (k < 64 / w → elem (swzOp ty a b c).toNat w k =
        (let j := elem c.toNat 4 k
         if j < 64 / w then elem a.toNat w j else if j < 2 * (64 / w) then elem b.toNat w (j - 64 / w) else 0)) ∧
      ((bfiOp ty a b c e).getLsbD k =
        (decide (k < w) && (if p ≤ k ∧ k < p + l then a.getLsbD (k - p) else b.getLsbD k))) ∧
      (k < 64 → (bfxOp ty a b c).getLsbD k =
        (if k < long then bitAt (from_ + k) else decide (0 < long) && ty.isS && bitAt (from_ + long - 1))) ∧
      (k < 64 → (bpermOp a ((List.range 6).map v)).getLsbD k =
        a.getLsbD ((List.range 6).map (fun j => if (v j).getLsbD k then 2 ^ j else 0)).sum) ∧
      (k < 64 → (bmm8Op true a b).getLsbD k = (List.range 8).any (fun j => a.getLsbD (8 * (k / 8) + j) && b.getLsbD (8 * j + k % 8))) ∧
      (k < 64 → (bmm8Op false a b).getLsbD k =
        ((List.range 8).countP (fun j => a.getLsbD (8 * (k / 8) + j) && b.getLsbD (8 * j + k % 8)) % 2 == 1)) ∧
      (∀ h : k < m.length, (pdepOp ty a b).getLsbD (m[k]'h) = a.getLsbD k ∧ (pextOp ty a b).getLsbD k = a.getLsbD (m[k]'h)) ∧
      (k ∉ m → (pdepOp ty a b).getLsbD k = false) ∧
      (m.length ≤ k → (pextOp ty a b).getLsbD k = false)
  )

/-! ## Floating-point instructions and special functions -/

/-- Floating-point arithmetic, comparison, classes and conversions complete (R280 to R285): D receives the operation's one
rounding of its exact result at the format and mode, on the scalar or on every element under .pk. What the operations
give in the special cases stands in FloatSpecialCases and NansAndRounding. -/
def Obligations.FloatArithmeticCompletes : Prop :=
  ∀ (c : Ctl) (o : F3) (p : FI),
    let f := fmtOf o.ty
    let g := fmtOf p.ty
    let pk := o.sub.getLsbD 1
    let pi := p.sub.getLsbD 1
    Gives (.fadd c o) c (dAB o (fun a b => floatOp (fun x y _ => fAdd f o.rm x y) o.ty pk a b 0)) ∧
    Gives (.faddImm c p) c (dAI p (immPk p.ty pi p.imm) (fun a b => floatOp (fun x y _ => fAdd g p.rm x y) p.ty pi a b 0)) ∧
    Gives (.fsub c o) c (dAB o (fun a b => floatOp (fun x y _ => fSub f o.rm x y) o.ty pk a b 0)) ∧
    Gives (.fsubImm c p) c (dAI p (immPk p.ty pi p.imm) (fun a b => floatOp (fun x y _ => fSub g p.rm x y) p.ty pi a b 0)) ∧
    Gives (.fmul c o) c (dAB o (fun a b => floatOp (fun x y _ => fMul f o.rm x y) o.ty pk a b 0)) ∧
    Gives (.fmulImm c p) c (dAI p (immPk p.ty pi p.imm) (fun a b => floatOp (fun x y _ => fMul g p.rm x y) p.ty pi a b 0)) ∧
    Gives (.ffma c o) c (dABC o (floatOp (fFma f o.rm) o.ty pk)) ∧
    Gives (.fmin c o) c (dAB o (fun a b => floatOp (fun x y _ => fMin f x y) o.ty pk a b 0)) ∧
    Gives (.fminImm c p) c (dAI p (immPk p.ty pi p.imm) (fun a b => floatOp (fun x y _ => fMin g x y) p.ty pi a b 0)) ∧
    Gives (.fmax c o) c (dAB o (fun a b => floatOp (fun x y _ => fMax f x y) o.ty pk a b 0)) ∧
    Gives (.fmaxImm c p) c (dAI p (immPk p.ty pi p.imm) (fun a b => floatOp (fun x y _ => fMax g x y) p.ty pi a b 0)) ∧
    Gives (.fcmp c o) c (fun u => setsBool u o.d o.pd.val (fun s t =>
      condF (o.sub.toNat % 8) (decodeF f (s.src u.wg t o.a).toNat) (decodeF f (s.src u.wg t o.b).toNat))) ∧
    Gives (.fcmpImm c p) c (fun u => setsBool u p.d p.pd.val (fun s t =>
      condF (p.sub.toNat % 8) (decodeF g (s.src u.wg t p.a).toNat) (decodeF g (immF p.ty p.imm).toNat))) ∧
    Gives (.fclass c o) c (fun u s t ts =>
      let k := fClass f (s.src u.wg t o.a).toNat
      (s.putPred u.wg ts o.pd.val ((k &&& (s.src u.wg t o.b).toNat % 512) != 0)).put u.wg t o.d (ofN k)) ∧
    Gives (.frnd c o) c (dA o (fun a => ofN (fRound f o.rm (a.toNat % 2 ^ o.ty.width)))) ∧
    Gives (.cvt c o) c (dA o (cvtOp o.ty (Ty.ofCode (o.sub.toNat / 16)) o.rm (o.sub.getLsbD 0))) ∧
    Gives (.fdot2 c o) c (dABC o (fdot2Op (Ty.ofCode (o.sub.toNat / 16)) o.rm))

/-- R212, the special cases of an exact result, in each of the four formats of the vector units and every mode: ∞ − ∞ and
0 × ∞ (in a product of ffma too) give the canonical NaN; a number and its negation sum to +0, or −0 in .rd, and −0 + −0 is
−0; a product's sign is the XOR of the operands' signs; the square root of −0 is −0 and of a value below zero the
canonical NaN. -/
def Obligations.FloatSpecialCases : Prop :=
  ∀ (f : Fmt) (mode : RM) (x y z : Nat), f ∈ [Fmt.f16, Fmt.bf16, Fmt.f32, Fmt.f64] →
    (∀ s, decodeF f x = .inf s → decodeF f y = .inf (!s) → fAdd f mode x y = f.nanBits) ∧
    (∀ s, decodeF f x = .inf s → decodeF f y = .inf s → fSub f mode x y = f.nanBits) ∧
    (∀ s r e, decodeF f x = .fin s 0 e → decodeF f y = .inf r →
      fMul f mode x y = f.nanBits ∧ fMul f mode y x = f.nanBits ∧
      fFma f mode x y z = f.nanBits ∧ fFma f mode y x z = f.nanBits) ∧
    (∀ s r m e, decodeF f x = .inf s → decodeF f y = .fin r m e → 0 < m → decodeF f z = .inf (!(xor s r)) →
      fFma f mode x y z = f.nanBits) ∧
    (∀ s m e, decodeF f x = .fin s m e → decodeF f y = .fin (!s) m e →
      fAdd f mode x y = if mode = .rd then f.signBit else 0) ∧
    (∀ e, decodeF f x = .fin true 0 e → decodeF f y = .fin true 0 e → fAdd f mode x y = f.signBit) ∧
    (decodeF f x ≠ .nan → decodeF f y ≠ .nan → fMul f mode x y ≠ f.nanBits →
      (fMul f mode x y).testBit (f.width - 1) = xor (x.testBit (f.width - 1)) (y.testBit (f.width - 1))) ∧
    (∀ e, decodeF f x = .fin true 0 e → fSqrt f mode x = f.signBit) ∧
    (∀ m e, decodeF f x = .fin true m e → 0 < m → fSqrt f mode x = f.nanBits) ∧
    (decodeF f x = .inf true → fSqrt f mode x = f.nanBits)

/-- Every operation given a NaN returns the canonical NaN of its format (R210), and fmin and fmax order −0 below +0
(R213). A value that a format holds is not changed by rounding to that format, in any mode (R211): nothing is flushed. -/
def Obligations.NansAndRounding : Prop :=
  (
    ∀ (f g : Fmt) (mode : RM) (sf : Bool) (x y z : Nat), f ∈ [Fmt.f16, Fmt.bf16, Fmt.f32, Fmt.f64] →
      (decodeF f x = .nan →
        fAdd f mode x y = f.nanBits ∧ fAdd f mode y x = f.nanBits ∧ fSub f mode x y = f.nanBits ∧ fSub f mode y x = f.nanBits ∧
        fMul f mode x y = f.nanBits ∧ fMul f mode y x = f.nanBits ∧ fFma f mode x y z = f.nanBits ∧
        fFma f mode y x z = f.nanBits ∧ fFma f mode y z x = f.nanBits ∧ fMin f x y = f.nanBits ∧ fMin f y x = f.nanBits ∧
        fMax f x y = f.nanBits ∧ fMax f y x = f.nanBits ∧ fSqrt f mode x = f.nanBits ∧ fRound f mode x = f.nanBits ∧
        fConv f g mode sf x = g.nanBits ∧ fClass f x = 256) ∧
      fMin f 0 f.signBit = f.signBit ∧ fMin f f.signBit 0 = f.signBit ∧ fMax f 0 f.signBit = 0 ∧ fMax f f.signBit 0 = 0
  ) ∧
  (
    ∀ (f : Fmt) (mode : RM) (x : Nat), f ∈ [Fmt.f16, Fmt.bf16, Fmt.f32, Fmt.f64] → x < 2 ^ f.width →
      decodeF f x ≠ .nan → roundF f mode (decodeF f x) = x
  )

/-- The special functions complete (R286): D receives the function's value in the format that FN names. The special
arguments of R217: what each function gives for a NaN, −∞, −0, +0 and +∞, and for an argument below 0 of log2 and
rsqrt; for rcp in the FP64 format too. -/
def Obligations.SpecialFunctions : Prop :=
  (
    ∀ (c : Ctl) (fn : Fin 16) (o : F3),
      let f := [Fmt.f32, Fmt.f16, Fmt.bf16, Fmt.f64].getD fn.val Fmt.f32
      let of := fun (k : Nat) (a : Word) => ofN (specialFn f k (a.toNat % 2 ^ f.width))
      Gives (.exp2 c fn o) c (dA o (of fnExp2)) ∧
      Gives (.log2 c fn o) c (dA o (of fnLog2)) ∧
      Gives (.rcp c fn o) c (dA o (of fnRcp)) ∧
      Gives (.rsqrt c fn o) c (dA o (of fnRsqrt)) ∧
      Gives (.sqrt c fn o) c (dA o (fun a => ofN (fSqrt f o.rm (a.toNat % 2 ^ f.width)))) ∧
      Gives (.sin c fn o) c (dA o (of fnSin)) ∧
      Gives (.cos c fn o) c (dA o (of fnCos)) ∧
      Gives (.tanh c fn o) c (dA o (of fnTanh)) ∧
      Gives (.sigm c fn o) c (dA o (of fnSigm)) ∧
      Gives (.erf c fn o) c (dA o (of fnErf))
  ) ∧
  (
    ∀ (f : Fmt), f ∈ [Fmt.f16, Fmt.bf16, Fmt.f32] →
      let nan := f.nanBits
      let inf := f.infBits
      let neg := fun (x : Nat) => f.signBit + x
      let one := (2 ^ (f.ew - 1) - 1) * 2 ^ f.fw
      let half := (2 ^ (f.ew - 1) - 2) * 2 ^ f.fw
      let row := fun (fn mi mz pz pi : Nat) =>
        specialFn f fn (neg inf) = mi ∧ specialFn f fn (neg 0) = mz ∧ specialFn f fn 0 = pz ∧ specialFn f fn inf = pi ∧
        ∀ x, decodeF f x = .nan → specialFn f fn x = nan
      row fnExp2 0 one one inf ∧ row fnLog2 nan (neg inf) (neg inf) inf ∧ row fnRcp (neg 0) (neg inf) inf 0 ∧
      row fnRsqrt nan (neg inf) inf 0 ∧ row fnSin nan (neg 0) 0 nan ∧ row fnCos nan one one nan ∧
      row fnTanh (neg one) (neg 0) 0 one ∧ row fnErf (neg one) (neg 0) 0 one ∧ row fnSigm 0 half half one ∧
      (∀ x m e, decodeF f x = .fin true m e → 0 < m → specialFn f fnLog2 x = nan ∧ specialFn f fnRsqrt x = nan) ∧
      specialFn f fnLog2 one = 0
  ) ∧
  (
    let f := Fmt.f64
    specialFn f fnRcp (f.signBit + f.infBits) = f.signBit ∧ specialFn f fnRcp f.signBit = f.signBit + f.infBits ∧
    specialFn f fnRcp 0 = f.infBits ∧ specialFn f fnRcp f.infBits = 0 ∧ ∀ x, decodeF f x = .nan → specialFn f fnRcp x = f.nanBits
  )

/-! ## Random numbers, quantisation and lane instructions -/

/-- rng.draw, gmax, quant, topk.ins and dequant complete (R293 to R298): a draw is written and the thread's counter goes
up by 1; gmax replaces its running state where the candidate is larger and says so in PD; quant writes codes to D and
the scale to E; topk.ins keeps its list of keys; dequant writes the elements, or raises 0x85 for a malformed group
word. The generator of R294: a draw is four rounds of mixing keyed by the seed and the thread, and the counter goes up
by 1. -/
def Obligations.DrawSampleAndQuantise : Prop :=
  (
    ∀ (c : Ctl) (o : F3),
      Gives (.rngDraw c o) c (fun u s t _ => (s.rngDraw u.wg t).2.put u.wg t o.d (drawAs o.ty (s.rngDraw u.wg t).1)) ∧
      Gives (.gmax c o) c (fun u s t ts =>
        let score := decodeF (fmtOf o.ty) (s.src u.wg t o.a).toNat
        let noise := if o.sub.getLsbD 0 then FP.fin false 0 0 else decodeF .f32 (gumbel ((s.rngDraw u.wg t).1 / 2 ^ 40))
        let s' := if o.sub.getLsbD 0 then s else (s.rngDraw u.wg t).2
        let v := roundF .f32 .rn (if o.sub.getLsbD 0 then score else score.add .rn noise)
        let old := s'.src u.wg t o.d
        if (decodeF .f32 (old.toNat / 2 ^ 32)).lt (decodeF .f32 v) then
          (s'.putPred u.wg ts o.pd.val true).put u.wg t o.d (ofN (v * 2 ^ 32 + (s'.src u.wg t o.b).toNat % 2 ^ 32))
        else s'.putPred u.wg ts o.pd.val false) ∧
      Gives (.quant c o) c (fun u s t _ =>
        let b := if o.sub.getLsbD 0 then 4 else 8
        let sc := quantScale b (s.src u.wg t o.b).toNat
        let code := fun i => quantise b sc (decodeF (fmtOf o.ty) (elem (s.src u.wg t o.a).toNat o.ty.width i))
        (s.put u.wg t o.d (ofN (packElems b ((List.range (64 / o.ty.width)).map code)))).put u.wg t o.e (ofN sc)) ∧
      Gives (.topkIns c o) c (fun u s t ts =>
        let l := (List.range (o.sub.toNat % 16)).map (fun j => s.src u.wg t (Opnd.plus o.d j))
        let e := ofN ((s.src u.wg t o.a).toNat % 2 ^ 32 * 2 ^ 32 + (s.src u.wg t o.b).toNat % 2 ^ 32)
        match insertKey o.ty (o.sub.getLsbD 4) e l with
        | some r => (s.putPred u.wg ts o.pd.val true).putGroup u.wg t o.d r
        | none => s.putPred u.wg ts o.pd.val false) ∧
      (∀ s u t, Alone s (.dequant c o) c u t →
        let b := if o.sub.getLsbD 0 then 4 else 8
        let g := (s.src u.wg t o.b).toNat % 2 ^ 32
        let s1 := start s (.dequant c o) c u
        (badGroup b g = false → exec (.dequant c o) s = .next (goOn (s1.put u.wg t o.d (ofN (packElems o.ty.width
          ((List.range (64 / o.ty.width)).map (fun i =>
            roundF (fmtOf o.ty) .rn (groupElem g (elem (s.src u.wg t o.a).toNat b i))))))) u.wg t c)) ∧
        (badGroup b g = true → exec (.dequant c o) s = .next (s1.deliver u.wg u.pc 1 [{ t := t, code := 0x85, addr := 0 }])))
  ) ∧
  (
    ∀ (s : State) (w t : Nat) (g : Workgroup) (th : Thread), s.wg w = some g → s.thread w t = some th →
      (s.rngDraw w t).1 = drawFn (s.eff w).seed (g.idx * 2 ^ 11 + t) th.rngctr.toNat ∧
      (s.rngDraw w t).2.thread w t = some { th with rngctr := th.rngctr + 1 }
  )

/-- Lane instructions complete (R287 to R292): the contributors are the threads of the set with a true guard; every
operand is read before any member writes; each contributor takes its own destination. What shfl, red.team and
scan.team give (R288, R291, R292), over contributors that stand in distinct lanes: an element of shfl comes from the
source lane's contributor, and from the thread's own A with a false outcome where there is none; an integer sum, and
the last value of its scan, is the sum of the contributors' operands modulo 2^w. -/
def Obligations.LaneExchanges : Prop :=
  (
    ∀ (c : Ctl) (o : F3) (p : FI) (s : State) (u : Cur),
      let ts := u.tids.filter (fun t => guardOf s u.wg t c)
      let each := fun (d : Opnd) (pd : Nat) (r : Nat → Word × Bool) (s' : State) (t : Nat) (us : List Nat) =>
        (s'.putPred u.wg us pd (r t).2).put u.wg t d (r t).1
      let vote := fun (mode : Nat) (v : List Nat) =>
        (ofN (lanesOf v), if mode = 0 then decide (v.length = ts.length) else if mode = 1 then decide (v.length ≠ 0)
          else if mode = 2 then decide (v.length = 0 ∨ v.length = ts.length) else decide (v.length = 0))
      (Bundle s (.shfl c o) c u → exec (.shfl c o) s = .next (ran s (.shfl c o) c u
        (each o.d o.pd.val (fun t => shflOp s u.wg ts t (o.sub.toNat % 4) o.ty o.a o.b)))) ∧
      (Bundle s (.vote c o) c u → exec (.vote c o) s = .next (ran s (.vote c o) c u
        (each o.d o.pd.val (fun _ => vote (o.sub.toNat / 16 % 4) (ts.filter (fun t => s.src u.wg t o.a != 0 &&
          ((s.thread u.wg t).map (fun th => th.pred (o.sub.toNat % 16))).getD false)))))) ∧
      (Bundle s (.voteImm c p) c u → exec (.voteImm c p) s = .next (ran s (.voteImm c p) c u
        (each p.d p.pd.val (fun _ => vote (p.sub.toNat % 4) (ts.filter (fun t => s.src u.wg t p.a != 0)))))) ∧
      (Bundle s (.matchT c o) c u → exec (.matchT c o) s = .next (ran s (.matchT c o) c u
        (each o.d o.pd.val (fun t =>
          let same := ts.filter (fun v => (s.src u.wg v o.a).setWidth o.ty.width == (s.src u.wg t o.a).setWidth o.ty.width)
          (ofN (lanesOf same), decide (same.length = ts.length)))))) ∧
      (Bundle s (.redTeam c o) c u → exec (.redTeam c o) s = .next (ran s (.redTeam c o) c u
        (sets u o.d (fun _ _ => reduceOp s u.wg ts o.a (o.sub.toNat % 8) o.ty)))) ∧
      (Bundle s (.redTeamImm c p) c u → exec (.redTeamImm c p) s = .next (ran s (.redTeamImm c p) c u
        (sets u p.d (fun _ _ => reduceOp s u.wg ts p.a (p.sub.toNat % 8) p.ty)))) ∧
      (Bundle s (.scanTeam c o) c u → exec (.scanTeam c o) s = .next (ran s (.scanTeam c o) c u
        (sets u o.d (fun _ t => scanOp s u.wg ts o.a (o.sub.toNat % 8) o.ty (t % 32))))) ∧
      (Bundle s (.scanTeamImm c p) c u → exec (.scanTeamImm c p) s = .next (ran s (.scanTeamImm c p) c u
        (sets u p.d (fun _ t => scanOp s u.wg ts p.a (p.sub.toNat % 8) p.ty (t % 32)))))
  ) ∧
  (
    ∀ (s : State) (w : Nat) (ts : List Nat) (t v mode e : Nat) (ty : Ty) (a b : Opnd), (ts.map (· % 32)).Nodup →
      let n := 64 / ty.width
      let d := (s.src w t b).toInt
      let x := elem (s.src w t b).toNat 8 e
      let lane : Int := if mode = 0 then ((x % 32 : Nat) : Int) else if mode = 1 then ((t % 32 : Nat) : Int) + d
        else if mode = 2 then (((t % 32) ^^^ ((s.src w t b).toNat % 32) : Nat) : Int) else (((t % 32 : Nat) : Int) + d) % 32
      let from_ := if mode = 0 then x / 32 % n else e
      let r := shflOp s w ts t mode ty a b
      let sum := (ts.map (fun t => (s.src w t a).toNat)).sum
      (mode < 4 → e < n → v ∈ ts → ((v % 32 : Nat) : Int) = lane →
        elem r.1.toNat ty.width e = elem (s.src w v a).toNat ty.width from_) ∧
      (mode < 4 → e < n → (∀ v ∈ ts, ((v % 32 : Nat) : Int) ≠ lane) →
        elem r.1.toNat ty.width e = elem (s.src w t a).toNat ty.width e ∧ r.2 = false) ∧
      (ty.isF = false → (reduceOp s w ts a 0 ty).toNat % 2 ^ ty.width = sum % 2 ^ ty.width) ∧
      (ty.isF = false → (scanOp s w ts a 0 ty 31).toNat % 2 ^ ty.width = sum % 2 ^ ty.width)
  )

/-! ## Memory instructions -/

/-- The checks of an aligned access in the order of R45: the alignment (0x2D), the aperture (0x21, 0x28), the bounds of
the scratchpad (0x24) and of the constant segment (0x25), the hive window (0x26, 0x27, 0x24), and then the
translation. A window access beyond the peer's allocation raises 0x24 and waits for a saved peer (R27, R117); a constant
address that lies outside the global aperture raises 0x21. An access whose checks fail raises its fault in the thread, with the
address of R45: precisely, or as a deferred fault where the code is one of those (R388), which for a code found at issue is the
model's reading (notes/assumptions/91.md); one whose translation is awaited leaves the thread at the instruction (R38, R45). -/
def Obligations.AccessChecksAndTheirFaults : Prop :=
  (
    ∀ (s : State) (w : Nat) (ts : List Nat) (va n align : Nat) (acc : Acc) (ap : Aper) (ro : Bool) (g : Workgroup), s.wg w = some g →
      let e := s.eff w
      let k := fun (c : Chk) => check s w ts va n align acc ap ro = (c, s)
      (va % align ≠ 0 → k (.fail 0x2D va)) ∧
      (va % align = 0 → place va = .bad → k (.fail 0x21 va)) ∧
      (∀ a, va % align = 0 → place va = .glob a → ap.glob = false → k (.fail 0x28 a)) ∧
      (∀ a, va % align = 0 → place va = .glob a → ap.glob = true → check s w ts va n align acc ap ro = checkGlob s w ts a acc ro) ∧
      (∀ off, va % align = 0 → place va = .scr off → ap.scr = false → k (.fail 0x28 va)) ∧
      (∀ off, va % align = 0 → place va = .scr off → ap.scr = true → 8192 * g.grans.length < off + n →
        k (.fail 0x24 (va + (8192 * g.grans.length - off)))) ∧
      (∀ off, va % align = 0 → place va = .scr off → ap.scr = true → off + n ≤ 8192 * g.grans.length → k (.scratch w off)) ∧
      (∀ j off, va % align = 0 → place va = .win j off → ap.win = false → k (.fail 0x28 va)) ∧
      (∀ j off, va % align = 0 → place va = .win j off → ap.win = true → tget g.windows j = none → k (.fail 0x26 va)) ∧
      (∀ j off h, va % align = 0 → place va = .win j off → ap.win = true → tget g.windows j = some h → h.revoked = true →
        k (.fail 0x27 va)) ∧
      (∀ j off h q, va % align = 0 → place va = .win j off → ap.win = true → tget g.windows j = some h → h.revoked = false →
        s.wg h.peer = some q → off + n ≤ 8192 * q.grans.length → q.resid ≠ .saved → k (.scratch h.peer off)) ∧
      (∀ j off h q, va % align = 0 → place va = .win j off → ap.win = true → tget g.windows j = some h → h.revoked = false →
        s.wg h.peer = some q → 8192 * q.grans.length < off + n → k (.fail 0x24 (va + (8192 * q.grans.length - off)))) ∧
      (∀ j off h q, va % align = 0 → place va = .win j off → ap.win = true → tget g.windows j = some h → h.revoked = false →
        s.wg h.peer = some q → off + n ≤ 8192 * q.grans.length → q.resid = .saved → k .wait) ∧
      (∀ off, va % align = 0 → place va = .cst off → ap.cst = false → k (.fail 0x28 va)) ∧
      (∀ off, va % align = 0 → place va = .cst off → ap.cst = true → e.csize < off + n → k (.fail 0x25 (va + (e.csize - off)))) ∧
      (∀ off, va % align = 0 → place va = .cst off → ap.cst = true → off + n ≤ e.csize → (e.cbase + off) % 2 ^ 64 < 2 ^ 57 →
        check s w ts va n align acc ap ro = checkGlob s w ts ((e.cbase + off) % 2 ^ 64) acc true) ∧
      (∀ off, va % align = 0 → place va = .cst off → ap.cst = true → off + n ≤ e.csize → 2 ^ 57 ≤ (e.cbase + off) % 2 ^ 64 →
        k (.fail 0x21 ((e.cbase + off) % 2 ^ 64)))
  ) ∧
  (
    ∀ (c : Ctl) (fn : Fin 16) (o : FM) (s : State) (u : Cur) (t f a : Nat) (s1 : State),
      let n := o.ty.width / 8
      let ea := (((s.src u.wg t o.base).toNat + (s.src u.wg t o.index).toNat + signExt o.off.toNat 24) % 2 ^ 64).toNat
      let eb := (((s.src u.wg t o.base).toNat + signExt o.off.toNat 24) % 2 ^ 64).toNat
      let ends := fun (i : Instr) (va n : Nat) (acc : Acc) (ap : Aper) (ro : Bool) =>
        Alone s i c u t →
        (check (start s i c u) u.wg [t] va n n acc ap ro = (.fail f a, s1) → exec i s = .next (faulted s1 u t f a c)) ∧
        (check (start s i c u) u.wg [t] va n n acc ap ro = (.wait, s1) → exec i s = .next s1)
      ends (.ld c o) ea n .load Aper.ls false ∧ ends (.ldRo c o) ea n .load Aper.g true ∧
      ends (.ldC c o) ea n .load Aper.c true ∧ ends (.ldTl c o) ea n .load Aper.ls false ∧
      ends (.st c o) ea n .store Aper.ls false ∧ ends (.atom c fn o) eb n .atomic Aper.ls false ∧
      ends (.atomF c fn o) eb n .atomic Aper.ls false ∧ ends (.atomCas c o) eb n .atomic Aper.ls false ∧
      ends (.atomOrd c fn o) eb n .atomic Aper.ls false ∧ ends (.cinv c o) ea 1 .load Aper.g false ∧
      ends (.cwb c o) ea 1 .load Aper.g false ∧ ends (.acq c o) eb 64 .atomic Aper.g false ∧
      ends (.acqGe c o) eb 64 .atomic Aper.g false ∧ ends (.acqX c o) eb 64 .atomic Aper.g false
  )

/-- Translation at a core (R34, R37): a TLB entry that serves the access gives the page's byte, or the fault of its
rights: 0x23 for a user access of a system page, 0x22 where the right is missing, 0x29 for a read-only access of a
page without ROP. Without an entry the access waits, and one miss is entered for its page, which a second access of the page
joins; an access whose walk has failed takes the failure, and one whose page has a leaf that awaits the host takes at once the fault
of that leaf's rights (R45). One level of a page walk (R31 to R34, R410): a table word on a poisoned
line, not present, malformed, or of another partition stops the walk with 0xE2 or 0xE4, 0x20, 0x2B or 0x2C; a leaf outside the
partition's frames or in a reserved area with 0x2C or 0x2A; another leaf ends it; a pointer leads to the next level, and is
taken from the die's walk cache where it stands there. The leaf's rights decide (R34), and ACC (and MOD for a write) is set
in memory (R36). The events of translation complete (R33, R39 to R41, R424): a walk begins, with a read of its table at the
home slice, while one of its die's 32 walkers is free and its core is next in turn, with no second walk for a page that its
die is walking; its end fills the TLBs of the die that wait for its page, or tells its failure to the accesses; a leaf in host
memory takes what the host has answered for it before, or asks the host, once the accesses that its rights refuse have their
faults (R45), and with the link down the others fail with 0x2E; the host's answer fills the entries or fails the accesses with
0x2E, as does the end of the time limit; an ATS invalidation removes the entries of its range once no access, an ordered entry
among them, uses them. That the entries it removes are those whose host address overlaps its range is the model's reading of
R41's "matching" (notes/assumptions/93.md), and that misses are told apart by the 64 KiB page until a leaf gives the size is
its choice (log 98). -/
def Obligations.TranslationAndPageWalks : Prop :=
  (
    ∀ (s : State) (c w tid part asid root va : Nat) (acc : Acc) (ro user : Bool) (t : TlbEntry) (th : Thread),
      s.thread w tid = some th →
      let k := s.core c
      let wr := acc = .store ∨ acc = .atomic
      let lacks := (acc = .fetch ∧ t.x = false) ∨ (acc = .load ∧ t.r = false) ∨ (acc = .store ∧ t.w = false) ∨
        (acc = .atomic ∧ (t.r = false ∨ t.w = false))
      let x := s.xlate c w [tid] part asid root va acc ro user
      let me : XAsk := { wg := w, tids := [tid], va := va, acc := acc, ro := ro, user := user }
      (∀ f, th.xfails = [{ va := va, acc := acc, ro := ro, user := user, code := f }] → x = (.fail f, s)) ∧
      (th.xfails = [] → k.tlb = [t] → t.part = part → t.asid = asid → t.vpn = va / 2 ^ t.size → (wr → t.mod = true) →
        x.2 = s ∧ (user = true → t.usr = false → x.1 = .fail 0x23) ∧
        ((user = false ∨ t.usr = true) → lacks → x.1 = .fail 0x22) ∧
        ((user = false ∨ t.usr = true) → ¬lacks → ro = true → t.rop = false → x.1 = .fail 0x29) ∧
        ((user = false ∨ t.usr = true) → ¬lacks → (ro = false ∨ t.rop = true) →
          x.1 = .ok { pa := t.base + va % 2 ^ t.size, host := t.host, cache := t.cache, rop := t.rop, det := t.det })) ∧
      (th.xfails = [] → k.tlb = [] → k.misses = [] → k.held = none →
        x.1 = .wait ∧ ∃ j m, tget (x.2.core c).misses j = some m ∧
          m.part = part ∧ m.asid = asid ∧ m.page = va / 65536 * 65536 ∧ m.asks = [me]) ∧
      (∀ j m, th.xfails = [] → k.tlb = [] → k.misses = [(j, m)] → m.part = part → m.asid = asid → m.root = root →
        m.page = va / 65536 * 65536 → m.ats = none → me ∉ m.asks →
        x.1 = .wait ∧ (x.2.core c).misses = [(j, { m with asks := m.asks ++ [me] })]) ∧
      (∀ j m, th.xfails = [] → k.tlb = [] → k.misses = [(j, m)] → m.ats = some t → t.part = part → t.asid = asid →
        t.vpn = va / 2 ^ t.size → rights t.usr t.x t.w t.r t.rop acc ro user ≠ 0 →
        x = (.fail (rights t.usr t.x t.w t.r t.rop acc ro user), s))
  ) ∧
  (
    ∀ (s : State) (part asid va fuel level table : Nat), s.net = none → table % 8 = 0 →
      let a := table + 8 * vaIndex va level
      let e := memNat s.mem a 8
      let size := leafSize level
      let t := leafEntry part asid va e level
      let w := walkFrom s none part asid va (fuel + 1) level table
      let poisoned := s.poison.contains (lineOf a) = true
      let mine := e.testBit 0 = true ∧ malformedPte e level = false ∧ e / 2 ^ 60 % 16 = part
      let leaf := e.testBit 52 = true
      let inside := t.host = true ∨ (frameOutside (s.part part) t.base (2 ^ size) = false ∧
        frameReserved (s.part part) t.base (2 ^ size) = false)
      (poisoned → s.slicePoison.contains (lineOf a) = false → w = (.error 0xE2, s)) ∧
      (poisoned → s.slicePoison.contains (lineOf a) = true → w = (.error 0xE4, s)) ∧
      (¬poisoned → e.testBit 0 = false → w = (.error 0x20, s)) ∧
      (¬poisoned → e.testBit 0 = true → malformedPte e level = true → w = (.error 0x2B, s)) ∧
      (¬poisoned → e.testBit 0 = true → malformedPte e level = false → e / 2 ^ 60 % 16 ≠ part → w = (.error 0x2C, s)) ∧
      (¬poisoned → mine → leaf → t.host = false → frameOutside (s.part part) t.base (2 ^ size) = true → w = (.error 0x2C, s)) ∧
      (¬poisoned → mine → leaf → t.host = false → frameOutside (s.part part) t.base (2 ^ size) = false →
        frameReserved (s.part part) t.base (2 ^ size) = true → w = (.error 0x2A, s)) ∧
      (¬poisoned → mine → leaf → inside → w = (.ok (t, a, e), s)) ∧
      (¬poisoned → mine → ¬leaf → w = walkFrom s none part asid va fuel (level + 1) (e / 2 ^ 8 % 2 ^ 44 * 256)) ∧
      (∀ d p, s.walkHit (some d) part asid va level = some p →
        walkFrom s (some d) part asid va (fuel + 1) level table =
          walkFrom s (some d) part asid va fuel (level + 1) (p / 2 ^ 8 % 2 ^ 44 * 256))
  ) ∧
  (
    ∀ (s s1 : State) (part asid root va a e f : Nat) (t : TlbEntry) (acc : Acc) (ro user : Bool),
      s.net = none → s1.net = none →
      let w := walk s part asid root va acc ro user
      let right := rights t.usr t.x t.w t.r t.rop acc ro user
      let flags := if acc = .store ∨ acc = .atomic then 0x600 else 0x200
      let t' := { t with mod := t.mod || decide (acc = .store ∨ acc = .atomic) }
      let found := walkFrom s none part asid va 5 0 root
      (found = (.error f, s1) → w = (.error f, s1)) ∧
      (found = (.ok (t, a, e), s1) → right ≠ 0 → w = (.error right, s1)) ∧
      (found = (.ok (t, a, e), s1) → right = 0 → e ||| flags = e → w = (.ok t', s1)) ∧
      (found = (.ok (t, a, e), s1) → right = 0 → e ||| flags ≠ e →
        w = (.ok t', s1.store part { pa := a } 0 (leBytes 8 (e ||| flags)) none none))
  ) ∧
  (
    ∀ (s : State) (core k victim ha part size : Nat) (m : Miss) (t : TlbEntry) (f e : Nat),
      let miss := tget (s.core core).misses k = some m
      let idle := m.ats = none ∧ m.req = none
      let runs := fun (s' : State) => exec (.tlbMissWalk core k victim) s = .next s'
      let base := ha / 2 ^ t.size * 2 ^ t.size
      let near := fun (p : Nat) (ph : Phys) (n : Nat) => ph.host && p == part && overlaps ph.pa (max 1 n) ha size
      let used := s.reqs.any (fun r => near r.2.part r.2.ph r.2.n) ||
        s.slices.any (fun x => (x.2.buffer ++ x.2.arriving).any (fun e => near e.part e.ph e.n))
      let gone := fun (t : TlbEntry) => t.host && t.part == part && overlaps t.base (2 ^ t.size) ha size
      let known : HostPage := { part := t.part, base := t.base, size := t.size, ha := base }
      let fresh := m.level = 0 ∧ m.leaf = none ∧ m.got = none ∧
        ∀ x ∈ s.dieMisses (dieOf core) (fun _ => true), ∀ u, x.2.2.ats = some u → m.on x.2.2.root u = false
      let mine := (s.mates core m).any (fun x => x.2.2.walking)
      (miss → (m.ats.isSome ∨ m.req.isSome) → runs s) ∧
      (miss → idle → fresh → mine = false → s.walksOn (dieOf core) < 32 → s.walkTurn core = true →
        m.table = none → s.walkHit (some (dieOf core)) m.part m.asid m.page 0 = none →
        runs (({ s with walkLast := tset s.walkLast (dieOf core) (core % 64) } : State).walkSend core k m
          (m.root + 8 * vaIndex m.page 0) .load)) ∧
      (miss → idle → fresh → (mine = true ∨ 32 ≤ s.walksOn (dieOf core) ∨ s.walkTurn core = false) → runs s) ∧
      (miss → idle → m.got = some (f + 1, e) → runs (s.failWalk core m (f + 1))) ∧
      (miss → idle → m.leaf = none → m.got = some (0, e) →
        (∀ f, s.examine m.part m.asid m.page m.level e = .error f → runs (s.failWalk core m f)) ∧
        (s.examine m.part m.asid m.page m.level e = .ok none →
          runs ((s.walkKeep (some (dieOf core)) m.part m.asid m.page m.level e).descend core k (5 - m.level)
            { m with level := m.level + 1, table := some (e / 2 ^ 8 % 2 ^ 44 * 256), got := none }))) ∧
      (miss → idle → m.leaf = some t → m.got = some (0, e) → t.host = false → runs (s.endWalk core m t victim)) ∧
      (∀ b, miss → idle → m.leaf = some t → m.got = some (0, e) → t.host = true → s.hostPage t.part t.base t.size = some b →
        runs (s.endWalk core m { t with base := b } victim)) ∧
      (miss → idle → m.leaf = some t → m.got = some (0, e) → t.host = true → s.hostPage t.part t.base t.size = none →
        s.link = false → runs ((s.refuse t (s.sharers core m t)).failHost core m t)) ∧
      (miss → s.sharers core m t = [(core, k, m)] → m.asks.any (fun q => t.allows q.acc q.ro q.user == 0) = true →
        (∀ q ∈ m.asks, t.allows q.acc q.ro q.user = 0) →
        ∃ l, ((s.endWalk core m t victim).core core).tlb = t :: l ∧
          tget ((s.endWalk core m t victim).core core).misses k = none) ∧
      (core < 256 → miss → m.ats = some t → exec (.hostTranslationResponse core k true ha) s =
        .next (({ s with ats := known :: s.ats.filter (fun e => !(e.part == t.part && e.base == t.base && e.size == t.size)) } : State).endWalk
          core m { t with base := base } 0)) ∧
      (core < 256 → miss → m.ats = some t →
        exec (.hostTranslationResponse core k false ha) s = .next (s.failHost core m t)) ∧
      (core < 256 → miss → m.ats = some t → m.since + 2 ^ 27 < s.now →
        exec (.hostRequestTimeout core k none) s = .next (s.failHost core m t)) ∧
      (used = true → exec (.atsInvalidation part ha size) s = .next s) ∧
      (used = false → ∃ s', exec (.atsInvalidation part ha size) s = .next s' ∧
        s'.cores = s.cores.map (fun (e : Nat × Core) => (e.1, { e.2 with tlb := e.2.tlb.filter (fun t => !gone t) })) ∧
        s'.ats = s.ats.filter (fun e => !(e.part == part && overlaps e.ha (2 ^ e.size) ha size)))
  )

/-- Loads, stores and atomics on a scratchpad or a hive window (R26, R27, R304, R306, R311): the thread goes on, and an
operation is outstanding whose one piece acts at the array: it reads, writes the low bytes of DATA, or does the
atomic. Loads from global and constant memory (R304, R305, R47): the thread goes on, and an operation is outstanding
whose one piece is served as the path says. A load or an atomic of a scratchpad word that holds an uncorrectable error raises
0xE3 precisely (R388, R411). How a load is served (R47, R48, R35, R235): a line in the path's cache gives its bytes at issue,
with no request; otherwise one request for the bytes goes to the home slice of the physical address, with the next
sequence number of the pair, to fill the cache unless the page, or CH 2 or 5 at the L1, says otherwise; a request that the
bundle has already made for the line takes the access in (R38). A load of a line for which an ordered entry of the thread is still to
be applied waits at the instruction, which is the model's reading of R127 (notes/assumptions/99.md), and so does one of the
tile-layout path while its staging buffer is full (R47). -/
def Obligations.ScratchpadAccessesAndLoads : Prop :=
  (
    ∀ (c : Ctl) (fn : Fin 16) (o : FM) (s : State) (u : Cur) (t w off : Nat) (s1 : State),
      let n := o.ty.width / 8
      let goes := fun (i : Instr) (acc : Acc) (va : Nat) (kind : OpKind) (d : Opnd) (act : ReqKind) =>
        Alone s i c u t → check (start s i c u) u.wg [t] va n n acc Aper.ls false = (.scratch w off, s1) →
        ((acc = .store ∨ s1.scratchBad w off n = none) →
          exec i s = .next (goOn (withOp s1 (opOf s1 i u t kind d [{ va := va, n := n, loc := .scratch w off, act := act }]))
            u.wg t c)) ∧
        (∀ j, acc ≠ .store → s1.scratchBad w off n = some j → exec i s = .next (traps s1 u t 0xE3 (va + j)))
      let ea := ((s.src u.wg t o.base).toNat + (s.src u.wg t o.index).toNat + signExt o.off.toNat 24) % 2 ^ 64
      let eb := ((s.src u.wg t o.base).toNat + signExt o.off.toNat 24) % 2 ^ 64
      let ret := o.sub.getLsbD 0
      let old := if ret then o.data else .vz
      let arg := (s.src u.wg t o.index).toNat
      let rmw := fun (opc f cmp : Nat) => ReqKind.atomic (.rmw opc f o.ty.code arg cmp)
      goes (.ld c o) .load ea.toNat (.mem (.load o.ty)) o.data .load ∧
      goes (.ldTl c o) .load ea.toNat (.mem (.load o.ty)) o.data .load ∧
      goes (.st c o) .store ea.toNat (.mem .store) .vz (.store (leBytes n (s.src u.wg t o.data).toNat)) ∧
      goes (.atom c fn o) .atomic eb.toNat (.mem (.atomic ret o.ty)) old (rmw 0x144 fn.val 0) ∧
      goes (.atomF c fn o) .atomic eb.toNat (.mem (.atomic ret o.ty)) old (rmw 0x145 fn.val 0) ∧
      goes (.atomCas c o) .atomic eb.toNat (.mem (.atomic ret o.ty)) old (rmw 0x146 0 (s.src u.wg t o.data).toNat) ∧
      goes (.atomOrd c fn o) .atomic eb.toNat (.mem (.atomic ret o.ty)) old (rmw 0x147 fn.val 0)
  ) ∧
  (
    ∀ (c : Ctl) (o : FM) (s : State) (u : Cur) (t g : Nat) (ph : Phys) (s1 : State),
      let n := o.ty.width / 8
      let va := ((s.src u.wg t o.base).toNat + (s.src u.wg t o.index).toNat + signExt o.off.toNat 24) % 2 ^ 64
      let goes := fun (i : Instr) (p : Path) (ap : Aper) (ro : Bool) =>
        Alone s i c u t → check (start s i c u) u.wg [t] va.toNat n n .load ap ro = (.glob g ph, s1) →
        let s2 := withOp s1 (opOf s1 i u t (.mem (.load o.ty)) o.data [])
        let r := s2.loadLoc (ctx i c u t) c p ph g n s1.nextId 0
        let held := ((p = .ls ∨ p = .tile) ∧ s1.entryAhead u.wg t ph = true) ∨ (p = .tile ∧ 256 ≤ s1.staged u.core)
        (held → exec i s = .next s1) ∧
        (¬held → exec i s = .next (goOn (r.2.setPieces s1.nextId [{ va := g, n := n, loc := r.1 }]) u.wg t c))
      goes (.ld c o) .ls Aper.ls false ∧ goes (.ldRo c o) .smp Aper.g true ∧ goes (.ldC c o) .cst Aper.c true ∧
      goes (.ldTl c o) .tile Aper.ls false
  ) ∧
  (
    ∀ (s : State) (i : Instr) (u : Cur) (t : Nat) (c : Ctl) (p : Path) (ph : Phys) (va n id : Nat),
      let x := ctx i c u t
      let r := s.loadLoc x c p ph va n id 0
      let hit := ((s.core u.core).cache p).find? (fun l => l.pa == lineOf ph.pa)
      c.ch.val ≠ 6 →
      (ph.host = false → ph.cache = 0 → p ≠ .tile → ∀ l, hit = some l →
        r.1 = .hit ((l.data.drop (ph.pa - lineOf ph.pa)).take n) ∧ r.2.reqs = s.reqs ∧ r.2.mem = s.mem) ∧
      ((∀ e ∈ s.reqs, e.2.bundle ≠ s.issues) → ph.host = false → ph.cache = 0 → hit = none →
        r.1 = .net s.nextId ∧ ∃ q, tget r.2.reqs s.nextId = some q ∧ q.kind = .load ∧ q.ph = ph ∧ q.n = n ∧ q.op = some id ∧
          q.src = .core u.core ∧ q.dst = s.home (s.partOf u.wg) ph.pa ∧ q.seq = s.nextSeq (.core u.core) q.dst ∧
          q.bundle = s.issues ∧
          q.fill = (if p = .tile ∨ (p = .ls ∧ (c.ch.val = 2 ∨ c.ch.val = 5)) then none else some p)) ∧
      (∀ j q, s.reqs = [(j, q)] → q.bundle = s.issues → q.src = .core u.core → q.dst = s.home (s.partOf u.wg) ph.pa →
        q.kind = .load → q.op.isSome = true → q.launch = (s.wg u.wg).map (·.launch) → q.hint = c.ch.val → q.tl = false →
        q.ph.host = false → q.ph.cache = 0 → q.ph.det = ph.det → lineOf q.ph.pa = lineOf ph.pa →
        q.fill = (if c.ch.val = 2 ∨ c.ch.val = 5 then none else some .ls) →
        p = .ls → ph.host = false → ph.cache = 0 → hit = none →
        r.1 = .net j ∧ r.2.seqs = s.seqs ∧
          r.2.reqs = [(j, { q with shares := q.shares ++ [{ op := id, piece := 0, pa := ph.pa, va := va, n := n }] })]) ∧
      ((∀ e ∈ s.reqs, e.2.bundle ≠ s.issues) → (ph.host = true ∨ ph.cache ≠ 0) →
        r.1 = .net s.nextId ∧ ∃ q, tget r.2.reqs s.nextId = some q ∧ q.kind = .load ∧ q.ph = ph ∧ q.fill = none)
  )

/-- Stores and atomics to global memory (R304, R311, R48): the thread goes on; a store updates the core's copy of the line,
an atomic discards it; the request goes to the home slice; an order-sensitive atomic of a DET launch on a DET page takes
the thread's epoch and operation index with it, and the index goes up by 1 (R137, R138). An access to a line for which an ordered
entry of the thread is still to be applied waits at the instruction, unless it is an ordered one itself: the model's reading of R127
(notes/assumptions/99.md). -/
def Obligations.GlobalStoresAndAtomicsIssue : Prop :=
  ∀ (c : Ctl) (fn : Fin 16) (o : FM) (s : State) (u : Cur) (t g : Nat) (ph : Phys) (s1 : State),
    let n := o.ty.width / 8
    let ea := ((s.src u.wg t o.base).toNat + (s.src u.wg t o.index).toNat + signExt o.off.toNat 24) % 2 ^ 64
    let eb := ((s.src u.wg t o.base).toNat + signExt o.off.toNat 24) % 2 ^ 64
    let ret := o.sub.getLsbD 0
    let bytes := leBytes n (s.src u.wg t o.data).toNat
    let id := s1.nextId
    let done := fun (i : Instr) (r : Loc × State) =>
      exec i s = .next (goOn (r.2.setPieces id [{ va := g, n := n, loc := r.1 }]) u.wg t c)
    let atom := fun (i : Instr) (opc f cmp : Nat) =>
      Alone s i c u t → check (start s i c u) u.wg [t] eb.toNat n n .atomic Aper.ls false = (.glob g ph, s1) →
      let x := ctx i c u t
      let s2 := withOp s1 (opOf s1 i u t (.mem (.atomic ret o.ty)) (if ret then o.data else .vz) [])
      let s3 := if ph.host then s2 else s2.discard u.core .ls (fun l => l == lineOf ph.pa)
      let ordered := ph.det && (s1.eff u.wg).det && orderSensitive opc f ret
      let key := if ordered then (s3.thread u.wg t).map (fun th => (th.epoch.toNat, th.opidx.toNat)) else none
      let s4 := if ordered then s3.modThread u.wg t (fun th => { th with opidx := th.opidx + 1 }) else s3
      let held := ordered = false ∧ s1.entryAhead u.wg t ph = true
      (held → exec i s = .next s1) ∧
      (¬held → done i (s4.ask x id 0 (.atomic (.rmw opc f o.ty.code (s.src u.wg t o.index).toNat cmp)) ph g n none key c.ch.val))
    (Alone s (.st c o) c u t →
      check (start s (.st c o) c u) u.wg [t] ea.toNat n n .store Aper.ls false = (.glob g ph, s1) →
      let s2 := withOp s1 (opOf s1 (.st c o) u t (.mem .store) .vz [])
      (s1.entryAhead u.wg t ph = true → exec (.st c o) s = .next s1) ∧
      (s1.entryAhead u.wg t ph = false →
        done (.st c o) ((s2.l1Store u.core ph bytes).ask (ctx (.st c o) c u t) id 0 (.store bytes) ph g n none none c.ch.val))) ∧
    atom (.atom c fn o) 0x144 fn.val 0 ∧ atom (.atomF c fn o) 0x145 fn.val 0 ∧
    atom (.atomCas c o) 0x146 0 (s.src u.wg t o.data).toNat ∧ atom (.atomOrd c fn o) 0x147 fn.val 0

/-- The sampler, prefetch and cache maintenance complete (R307 to R310): smp opens an operation of one piece per texel;
pref fetches the line into the cache that PATH names, and does nothing where the checks fail; cinv discards the line;
cwb asks the home slice to write it back. Fences (R124, R125, R135, R424): a fence whose earlier operations have
completed goes on, and from cg scope up it discards the core's L1; fence.sys ends with a host read of no bytes, for
which the thread waits; a fence with an operation still outstanding stays, and remembers which operations it looks at.
fence.path empties the constant and sampler caches. -/
def Obligations.SamplerCacheAndFences : Prop :=
  (
    ∀ (c : Ctl) (o : FM) (q : F3) (s : State) (u : Cur) (t g : Nat) (ph : Phys) (s1 : State),
      let ea := (((s.src u.wg t o.base).toNat + (s.src u.wg t o.index).toNat + signExt o.off.toNat 24) % 2 ^ 64).toNat
      let cache := fun (k : Nat) => if k = 0 then Path.ls else if k = 1 then .smp else .cst
      (∀ ps, Alone s (.smp c q) c u t →
        let i := Instr.smp c q
        let n := q.ty.width / 8
        let tx := texels (q.sub.toNat % 4) (s.src u.wg t q.b).toNat
        let addrs := tx.1.map (texelAddr (s.src u.wg t q.a).toNat (s.src u.wg t q.c).toNat n)
        checkTexels u.wg [t] n addrs (start s i c u) = (ps, false, none, s1) →
        let kind := OpKind.mem (if q.sub.toNat % 4 = 2 then .lin q.ty tx.2.1 tx.2.2 else .load q.ty)
        let l := samplePieces (ctx i c u t) c n s1.nextId 0 ps (withOp s1 (opOf s1 i u t kind q.d []))
        exec i s = .next (goOn (l.2.setPieces s1.nextId l.1) u.wg t c)) ∧
      (Alone s (.pref c o) c u t →
        let p := cache o.path.val
        let x := ctx (.pref c o) c u t
        let k := check (start s (.pref c o) c u) u.wg [t] ea 1 1 .load Aper.ls (decide (o.path.val ≠ 0))
        let fetch := s1.fetchLine x p (!decide (o.path.val = 0 ∧ (c.ch.val = 2 ∨ c.ch.val = 5))) ph g c.ch.val
        (∀ f a, k = (.fail f a, s1) → exec (.pref c o) s = .next (goOn s1 u.wg t c)) ∧
        (∀ w off, k = (.scratch w off, s1) → exec (.pref c o) s = .next (goOn s1 u.wg t c)) ∧
        (k = (.wait, s1) → exec (.pref c o) s = .next s1) ∧
        (c.ch.val ≠ 6 → k = (.glob g ph, s1) → exec (.pref c o) s = .next (goOn fetch u.wg t c)) ∧
        (c.ch.val = 6 → k = (.glob g ph, s1) → exec (.pref c o) s = .next (goOn (fetch.fetchNext x p ph g) u.wg t c))) ∧
      (Alone s (.cinv c o) c u t → o.path.val < 3 → ph.host = false →
        check (start s (.cinv c o) c u) u.wg [t] ea 1 1 .load Aper.g false = (.glob g ph, s1) →
        let s2 := s1.discard u.core (cache o.path.val) (fun l => l == lineOf ph.pa)
        exec (.cinv c o) s = .next (goOn (withOp s2 (opOf s2 (.cinv c o) u t (.mem .plain) .vz
          [{ va := g, n := 0, loc := .hit [] }])) u.wg t c)) ∧
      (Alone s (.cwb c o) c u t →
        check (start s (.cwb c o) c u) u.wg [t] ea 1 1 .load Aper.g false = (.glob g ph, s1) →
        let r := (withOp s1 (opOf s1 (.cwb c o) u t (.mem .plain) .vz [])).ask (ctx (.cwb c o) c u t) s1.nextId 0 (.atomic .wb) ph g 0
          none none
        exec (.cwb c o) s = .next (goOn (r.2.setPieces s1.nextId [{ va := g, n := 0, loc := r.1 }]) u.wg t c))
  ) ∧
  (
    ∀ (c : Ctl) (fn : Fin 16) (o : F3) (s : State) (u : Cur) (t : Nat),
      let i := Instr.fence c fn o
      let j := Instr.fencePath c o
      let s1 := start s i c u
      let empty := fun (s : State) => s.discard u.core .ls (fun _ => true)
      let clear := fun (k : Instr) (scope : Nat) => (start s k c u).fenceClear (ctx k c u t) scope ((start s k c u).markOf (ctx k c u t)) = true
      (Alone s i c u t → clear i fn.val → fn.val < 3 → exec i s = .next (goOn s1 u.wg t c)) ∧
      (Alone s i c u t → clear i fn.val → 3 ≤ fn.val → fn.val ≠ 5 → exec i s = .next (goOn (empty s1) u.wg t c)) ∧
      (Alone s i c u t → clear i fn.val → fn.val = 5 →
        let s2 := empty s1
        let r := (withOp s2 (opOf s2 i u t .hostRead .vz [])).ask (ctx i c u t) s2.nextId 0 .load { pa := 0, host := true, cache := 1 } 0 0
          none none
        exec i s = .next ((r.2.setPieces s2.nextId [{ va := 0, n := 0, loc := r.1 }]).holdFor (ctx i c u t) s2.nextId)) ∧
      (Alone s i c u t → ¬clear i fn.val → exec i s = .next (s1.begun (ctx i c u t) (s1.markOf (ctx i c u t)))) ∧
      (Alone s j c u t → clear j 0 →
        exec j s = .next (goOn (((start s j c u).discard u.core .cst (fun _ => true)).discard u.core .smp (fun _ => true)) u.wg t c))
  )

/-- Acquires and the release issue (R121, R122, R313): a request of the kind goes to the object's home slice and the
thread waits at the instruction until it is performed; rel first waits for the core's stores and the thread's
forwarded updates. What a home slice does with an operation on a sync object (R119, R121, R122): SEQ is bits 63:0,
HELD bit 127 and the holder bits 126:64. A malformed object answers 0xC0. acq answers SEQ. acq.ge answers SEQ once it
has reached the operand, and parks until then. acq.x takes a free object for its thread and answers SEQ, parks behind
another holder, and answers 0xC1 to its own. rel by another than the holder answers 0xC2. Bindings (R120): sync.bind
adds the binding of object, base and size, or raises the fault of its first failing check, or parks its thread while a page that it
looks up awaits the host (R41, R152); sync.unbind removes it, or
raises 0xC6 where there is none. -/
def Obligations.SynchronisationObjects : Prop :=
  (
    ∀ (c : Ctl) (o : FM) (s : State) (u : Cur) (t g : Nat) (ph : Phys) (s1 : State),
      let va := (((s.src u.wg t o.base).toNat + signExt o.off.toNat 24) % 2 ^ 64).toNat
      let sends := fun (i : Instr) (a : Aop) (f : Fin1) (d : Opnd) =>
        let id := s1.nextId
        let s2 := withOp s1 (opOf s1 i u t (.mem f) d [])
        let s3 := if ph.host then s2 else s2.discard u.core .ls (fun l => l == lineOf ph.pa)
        let r := s3.ask (ctx i c u t) id 0 (.atomic a) ph g 64 none none c.ch.val
        exec i s = .next ((r.2.setPieces id [{ va := g, n := 64, loc := r.1 }]).holdFor (ctx i c u t) id)
      let goes := fun (i : Instr) (a : Aop) => Alone s i c u t →
        check (start s i c u) u.wg [t] va 64 64 .atomic Aper.g false = (.glob g ph, s1) → sends i a .acquire o.data
      let me := ((s1.wgName u.wg).1, (s1.wgName u.wg).2, t)
      let self := Aop.acqX me.1 me.2.1 me.2.2
      goes (.acq c o) .acq ∧ goes (.acqGe c o) (.acqGe (s1.src u.wg t o.index).toNat) ∧ goes (.acqX c o) self ∧
      (Alone s (.rel c o) c u t →
        check (start s (.rel c o) c u) u.wg [t] va 64 64 .atomic Aper.g false = (.glob g ph, s1) →
        let m := (start s (.rel c o) c u).markOf (ctx (.rel c o) c u t)
        (s1.doneStores u.core m = true → s1.forwardsDone u.wg t none m = true →
          check s1 u.wg [t] va 64 64 .atomic Aper.g false = (.glob g ph, s1) → memAddr s1 (ctx (.rel c o) c u t) o false = va →
          sends (.rel c o) (.rel me.1 me.2.1 me.2.2) .plain .vz) ∧
        ((s1.doneStores u.core m && s1.forwardsDone u.wg t none m) = false →
          exec (.rel c o) s = .next (s1.begun (ctx (.rel c o) c u t) m)))
  ) ∧
  (
    ∀ (s : State) (r : Req) (bytes : List Byte) (l g t x : Nat), s.load r.ph 64 = .ok bytes →
      let o := leNat bytes
      let seq := o % 2 ^ 64
      let held := o.testBit 127
      let holder := (o / 2 ^ 103 % 2 ^ 24, o / 2 ^ 75 % 2 ^ 28, o / 2 ^ 64 % 2 ^ 11)
      let good := badObject o = false
      (∀ a, badObject o = true → s.syncAt r a = (some (0xC0, [], []), s)) ∧
      (good → (s.syncAt r .acq).1 = some (0, leBytes 8 seq, [])) ∧
      (good → x ≤ seq → (s.syncAt r (.acqGe x)).1 = some (0, leBytes 8 seq, [])) ∧
      (good → seq < x → s.syncAt r (.acqGe x) = (none, s.parkAcquire r (.acqGe x))) ∧
      (good → held = true → holder = (l, g, t) → s.syncAt r (.acqX l g t) = (some (0xC1, [], []), s)) ∧
      (good → held = true → holder ≠ (l, g, t) → s.syncAt r (.acqX l g t) = (none, s.parkAcquire r (.acqX l g t))) ∧
      (good → held = false → (s.syncAt r (.acqX l g t)).1 = some (0, leBytes 8 seq, [])) ∧
      (good → held = true → holder ≠ (l, g, t) → s.syncAt r (.rel l g t) = (some (0xC2, [], []), s)) ∧
      (good → (held = false ∨ holder = (l, g, t)) → s.syncAt r (.rel l g t) = (some (0, [], []), s.relAt r ((seq + 1) % 2 ^ 64) held))
  ) ∧
  (
    ∀ (c : Ctl) (o : F3) (s : State) (u : Cur) (t g : Nat) (ph : Phys) (s1 s2 : State),
      let obj := (s.src u.wg t o.a).toNat
      let p := fun (s : State) => s.partOf u.wg
      let i := Instr.syncBind c o
      let j := Instr.syncUnbind c o
      let same := fun (s : State) (b : Binding) => b.obj = obj ∧ b.base = (s.src u.wg t o.b).toNat ∧ b.size = (s.src u.wg t o.c).toNat ∧
        b.asid = (s.eff u.wg).asid ∧ b.region = none
      let looks := (ctx i c u t).asks s1 (fun s => bindChecks s u.wg obj ph (s.src u.wg t o.b).toNat (s.src u.wg t o.c).toNat)
      (∀ b, Alone s i c u t → check (start s i c u) u.wg [t] obj 64 64 .atomic Aper.g false = (.glob g ph, s1) →
        looks = (.ok b, s2) →
        exec i s = .next (goOn (s2.modPart (p s2) (fun q => { q with bindings := q.bindings ++ [b] })) u.wg t c)) ∧
      (∀ f a, Alone s i c u t → check (start s i c u) u.wg [t] obj 64 64 .atomic Aper.g false = (.glob g ph, s1) → f ≠ 0 →
        looks = (.error (f, a), s2) → exec i s = .next (faulted s2 u t f a c)) ∧
      (∀ a, Alone s i c u t → check (start s i c u) u.wg [t] obj 64 64 .atomic Aper.g false = (.glob g ph, s1) →
        looks = (.error (0, a), s2) → exec i s = .next (s2.parkHost u.wg [t])) ∧
      (Alone s j c u t → (∃ b ∈ (s.part (p s)).bindings, same s b) →
        ∃ s', exec j s = .next s' ∧
          (s'.part (p s)).bindings = (s.part (p s)).bindings.filter (fun b => !decide (same s b))) ∧
      (Alone s j c u t → (∀ b ∈ (s.part (p s)).bindings, ¬same s b) →
        exec j s = .next (traps (start s j c u) u t 0xC6 0))
  )

/-! ## Translation, the networks and the home slices -/

/-- The networks (R57, R60, R61, R64): a flit leaves when its packet is within the source's 64 numbers, first of its
partition there, and the bucket holds a flit, of which it takes 1,024 units; the first takes the source's lowest
unacknowledged number and starts the request's age and its timer (R57, R58, R65); a good flit arrives; a flit with
a bad CRC loses its packet and counts a corrected error; a lost reflection of a waggle is sent again, the model's choice (log 15). Replies, retransmissions and completions (R60, R65, R131,
R410, R424): a reply ends its request, fills its line and gives its piece of the operation, and the accesses merged into it, their
bytes, or its fault; a
request unanswered at its deadline, which its send set, is sent again, and after five sends is abandoned with 0xE1 and
a cancel, which is sent again until it is answered; a walker's that has lost flits to their CRC is then a fatal error (R413) of the
slice that it asked, the model's choice (log 101); an HBM read answers the requests that wait for the
line, and makes it present where one of them may keep it, poisoned if it was bad; a host completion answers its request. The reply of a load fills no line that a later request of the core may have read (R127). A line enters its set of its slice, which
gives up at most one line of it, and keeps, with the ways that Comb values take, 16 lines and 4 of nodes at most (R53);
how Comb values lie over the sets is the model's choice (log 82). Accesses served at the core complete (R48, R131): a hit gives its bytes; a scratchpad read gives the bytes of the
array, a write stores its own, an atomic does both, in the order in which the accesses of the array were issued; and behind a copy of
a cell that its thread issued before, which the model deduces (log 105). The
last piece of a load ends its operation (R131, R305):
the destination register holds the datum, extended by its type, no other one of the thread changes, and no
write of it is pending any more. -/
def Obligations.AccessEventsComplete : Prop :=
  (
    ∀ (s : State) (p : Nat) (k : Pkt), tget s.pkts p = some k →
      let go := fun (s : State) => { (s.leaves k).2 with pkts := tset (s.leaves k).2.pkts p { (s.leaves k).1 with sent := (s.leaves k).1.sent + 1 } }
      let ready := k.sent < k.flits ∧ s.inWindow k = true ∧ s.behind p k = false ∧ s.heldBack k = false
      let mine := fun (b : Nat × Nat × Nat × Nat) => b.1 == k.die && b.2.1 == k.part
      let whole := k.arrived + 1 = k.flits
      let counted := s.corrected k.receiver.1 k.receiver.2
      let bad : State := { counted with reqs := tmod counted.reqs k.req (fun r => { r with crc := true }) }
      (k.sent ≠ 0 → s.leaves k = (k, s)) ∧
      (k.sent = 0 → (s.leaves k).1 = { k with firstIn := some s.now, low := s.lowSeq k.src k.dst }) ∧
      (∀ r, k.sent = 0 → k.reply = false → tget s.reqs k.req = some r →
        tget (s.leaves k).2.reqs k.req = some { r with
          firstIn := some (r.firstIn.getD s.now), deadline := s.now + 16384 * 2 ^ (min r.sends 5 - 1) }) ∧
      (ready → s.buckets.find? mine = none → exec (.flitInjection p) s = .next (go s)) ∧
      (∀ b, ready → s.buckets.find? mine = some b → b.2.2.1 % 2 ^ 20 = 0 → exec (.flitInjection p) s = .next (go s)) ∧
      (∀ b, ready → s.buckets.find? mine = some b → b.2.2.1 % 2 ^ 20 ≠ 0 → 1024 ≤ b.2.2.2 →
        exec (.flitInjection p) s = .next (go { s with
          buckets := s.buckets.map (fun e => if mine e then (e.1, e.2.1, e.2.2.1, e.2.2.2 - 1024) else e) })) ∧
      (∀ b, ready → s.buckets.find? mine = some b → b.2.2.1 % 2 ^ 20 ≠ 0 → b.2.2.2 < 1024 →
        exec (.flitInjection p) s = .next s) ∧
      (k.arrived < k.sent → ¬whole →
        exec (.flitArrival p true) s = .next { s with pkts := tset s.pkts p { k with arrived := k.arrived + 1 } }) ∧
      (k.arrived < k.sent → whole → k.lost = false →
        exec (.flitArrival p true) s = .next { s with pkts := tset s.pkts p { k with arrived := k.arrived + 1, arrivedAt := s.now } }) ∧
      (k.arrived < k.sent → whole → k.lost = true → k.waggle = none →
        exec (.flitArrival p true) s = .next { s with pkts := tdel s.pkts p }) ∧
      (k.arrived < k.sent → ¬whole →
        exec (.flitArrival p false) s = .next { bad with pkts := tset bad.pkts p { k with arrived := k.arrived + 1, lost := true } }) ∧
      (k.arrived < k.sent → whole → k.waggle = none →
        exec (.flitArrival p false) s = .next { bad with pkts := tdel bad.pkts p }) ∧
      (k.arrived < k.sent → whole → k.waggle.isSome = true → exec (.flitArrival p false) s = .next { bad with
        pkts := tset bad.pkts p { k with sent := 0, arrived := 0, arrivedAt := s.now, lost := false } })
  ) ∧
  (
    ∀ (s : State) (p n line victim id : Nat) (k : Pkt) (r : Req) (good : Bool) (o : Op) (f : Fin1),
      let here := tget s.pkts p = some k ∧ tget s.reqs k.req = some r ∧ k.reply = true ∧ k.lost = false ∧ k.arrived = k.flits ∧
        k.waggle = none
      let own := r.op = some id ∧ r.owner = none ∧ r.walk = none
      let leaves := fun (s : State) => s.modWg o.wg (fun g => { g with mq := g.mq.filter (· != id) })
      let s1 : State := { s with pkts := tdel s.pkts p, reqs := tdel s.reqs k.req }
      let others := fun (s : State) => r.shares.foldl (fun (s : State) e =>
        s.opAnswered e.op e.piece e.va k.fault ((k.line.drop (e.pa - lineOf e.pa)).take e.n)) s
      let again := fun (s : State) (q : Req) (cancel : Bool) => ({ s with reqs := tset s.reqs n q } : State).inject
        { req := n, src := q.src, dst := q.dst, reply := false, retry := true, cancel := cancel,
          flits := if cancel then 1 else q.flits, die := if q.src.die < 4 then q.src.die else dieOfSlice q.dst, part := q.part }
      let late := tget s.reqs n = some r ∧ r.firstIn.isSome = true ∧ r.deadline ≤ s.now ∧ s.copyWaits n = false
      let broken := r.crc = true ∧ ∃ d, r.src = .walker d
      let read : State := State.lineRead { s with
        hbmReads := s.hbmReads.filter (· != line)
        poison := if good then s.poison else line :: s.poison.filter (· != line)
        slicePoison := if good then s.slicePoison else s.slicePoison.filter (· != line) } line
      let enters := read.reqs.find? (fun e => e.2.read && e.2.keeps && lineOf e.2.ph.pa == line)
      (here → own → r.dead = false → k.fault = 0 → tget s.ops id = some o → o.kind = .mem f →
        exec (.replyArrival p) s = .next (others ((s1.fillLine r k.line).gotPiece id r.piece k.data))) ∧
      (here → own → r.dead = false → k.fault ≠ 0 → tget s.ops id = some o →
        exec (.replyArrival p) s = .next (others ((leaves s1).opFault id k.fault r.va))) ∧
      (here → r.dead = true → exec (.replyArrival p) s = .next s1) ∧
      (late → r.dead = true → exec (.requestRetransmit n) s = .next (again s { r with sends := r.sends + 1 } true)) ∧
      (late → r.dead = false → r.sends < 5 →
        exec (.requestRetransmit n) s = .next (again s { r with sends := r.sends + 1 } false)) ∧
      (late → r.dead = false → 5 ≤ r.sends → ¬broken → own → r.shares = [] → tget s.ops id = some o →
        exec (.requestRetransmit n) s =
          .next ((leaves (again s { r with dead := true, sends := 1 } true)).opFault id 0xE1 r.va)) ∧
      (late → r.dead = false → 5 ≤ r.sends → broken →
        exec (.requestRetransmit n) s = .next (s.fatalError (r.dst % 256 + 256))) ∧
      (tget s.reqs n = some r → (r.firstIn = none ∨ s.now < r.deadline ∨ s.copyWaits n = true) →
        exec (.requestRetransmit n) s = .next s) ∧
      (s.hbmReads.contains line = true → enters = some (n, r) →
        exec (.hbmReadComplete line good victim) s = .next (read.l2Insert { pa := line, slice := r.dst, hint := r.hint } victim)) ∧
      (s.hbmReads.contains line = true → enters = none → exec (.hbmReadComplete line good victim) s = .next read) ∧
      (tget s.reqs n = some r → r.ph.host = false → lineOf r.ph.pa = line → r.kind.onLine = true →
        (s.pkts.any (fun k => k.2.req == n && !k.2.reply && k.2.arrivedAll)) = true →
        tget (s.lineRead line).reqs n = some { r with read := true }) ∧
      (tget s.reqs n = some r → r.hostSt = 1 →
        exec (.hostCompletion n good) s = .next { s with reqs := tset s.reqs n { r with hostSt := if good then 2 else 3 } })
  ) ∧
  (
    ∀ (s : State) (c j : Nat) (p : Path) (r e : Req) (line : List Byte), r.kind = .load → r.src = .core c →
      let t := s.fillLine r line
      (p ≠ .tile → r.fill = some p → r.unsure = true → line ≠ [] → ∀ l ∈ (t.core c).cache p, l.pa ≠ lineOf r.ph.pa) ∧
      (tget s.reqs j = some e → e.src = r.src → e.dst = r.dst → e.seq < r.seq → sameLine e.ph r.ph = true →
        tget t.reqs j = some { e with fill := none }) ∧
      (tget s.reqs j = some e → e.src = r.src → e.dst ≠ r.dst → e.fill.isSome = true → sameLine e.ph r.ph = true →
        tget t.reqs j = some { e with unsure := true })
  ) ∧
  (
    ∀ (s : State) (l : L2Line) (x : Nat), (s.l2.map (·.pa)).Nodup →
      let t := s.l2Insert l x
      let set_ := fun (ls : List L2Line) => ls.filter (fun e => e.slice == l.slice && l2Set e.pa == l2Set l.pa)
      let comb := s.combWays l.slice (l2Set l.pa)
      ((l.node = true ∧ 4 ≤ comb) → t.l2 = s.l2) ∧
      (¬(l.node = true ∧ 4 ≤ comb) → l ∈ t.l2) ∧
      (∀ e ∈ t.l2, e = l ∨ e ∈ s.l2) ∧
      (∀ e ∈ s.l2, e.pa ≠ l.pa → e ∉ t.l2 → e.slice = l.slice ∧ l2Set e.pa = l2Set l.pa) ∧
      ((set_ s.l2).length + comb ≤ 16 → ((set_ s.l2).filter (·.node)).length + comb ≤ 4 →
        (set_ t.l2).length + comb ≤ 16 ∧ ((set_ t.l2).filter (·.node)).length + comb ≤ 4)
  ) ∧
  (
    ∀ (s : State) (id w off : Nat) (o : Op) (q : Piece) (f : Fin1) (g : Workgroup),
      let put := fun (d : List Byte) => s.modWg w (fun g => { g with
        scratch := memWrite g.scratch off d
        badScratch := g.badScratch.filter (fun b => !(off ≤ 8 * b && 8 * b + 8 ≤ off + d.length)) })
      let here := (s.ops.map (·.1)).Pairwise (· < ·) ∧ tget s.ops id = some o ∧ o.done = false ∧ o.kind = .mem f ∧
        o.pieces = [q] ∧ q.got = none
      let array := q.loc = .scratch w off ∧ s.wg w = some g ∧ g.resid ≠ .saved ∧
        s.ops.any (fun e => decide (e.1 < id) && !e.2.done && e.2.scratchOf == some w) = false ∧
        (w = o.wg → s.copyBefore id o = false) ∧ (q.act ≠ .load → s.syncAhead id = false)
      let sound := g.badScratch.any (fun b => overlaps off q.n (8 * b) 8) = false
      (here → q.loc = .scratch o.wg off → s.copyBefore id o = true → exec (.localAccessComplete id) s = .next s) ∧
      (∀ b, here → q.loc = .hit b → q.act = .load → exec (.localAccessComplete id) s = .next (s.gotPiece id 0 b)) ∧
      (here → array → sound → q.act = .load →
        exec (.localAccessComplete id) s = .next (s.gotPiece id 0 (memRead g.scratch off q.n))) ∧
      (∀ d, here → array → q.act = .store d → exec (.localAccessComplete id) s = .next ((put d).gotPiece id 0 [])) ∧
      (∀ opc fn ty x cmp, here → array → sound → q.act = .atomic (.rmw opc fn ty x cmp) →
        let old := memRead g.scratch off q.n
        exec (.localAccessComplete id) s = .next ((put (rmwBytes opc fn ty x cmp old)).gotPiece id 0 old))
  ) ∧
  (
    ∀ (s : State) (id fr sl : Nat) (o : Op) (q : Piece) (ty : Ty) (bytes : List Byte) (th : Thread),
      (s.ops.map (·.1)).Pairwise (· < ·) → tget s.ops id = some o → o.kind = .mem (.load ty) → o.pieces = [q] → o.done = false →
      o.waiters = [] → o.dst = [.v fr sl] → s.thread o.wg o.tid = some th → (∀ f ∈ th.frames, f.id = fr → f.spilled = false) →
      let s' := s.gotPiece id 0 bytes
      let x := leNat bytes % 2 ^ ty.width
      let datum := if ty.isS then BitVec.signExtend 64 (BitVec.ofNat ty.width x) else BitVec.ofNat 64 x
      (∃ th', s'.thread o.wg o.tid = some th' ∧ th'.frames = framePut th.frames (fr, sl) datum ∧ th'.pc = th.pc ∧
        th'.preds = th.preds) ∧
      (∀ o', tget s'.ops id = some o' → o'.done = true)
  )

/-- A home slice serves a request (R53, R60, R66, R130, R410): the number that a header brings moves the window and drops the
results below it; a number below the window is dropped; one it has executed is answered again and never performed
again; a cancel is answered 0xE1; a request whose predecessor has not been executed waits, as does one that another
request to the line precedes, and any in the cycle of its arrival, in which another of higher rank may still come; a request to host
memory asks the host, while fewer than 768 of its kind are outstanding (R415), and with the link down is answered 0xE6 (R424); a load whose line is present answers its bytes, or 0xE2 or 0xE4 where the line is poisoned,
and a store writes them; a store of the full line clears the poison; a line that is absent is read from HBM first. -/
def Obligations.SliceServesRequests : Prop :=
  ∀ (s : State) (p : Nat) (k : Pkt) (r : Req), s.blocked = false → s.net = none →
    let w := s.windowFor r.dst r.src
    let here := tget s.pkts p = some k ∧ tget s.reqs k.req = some r ∧ k.reply = false ∧ k.lost = false ∧ k.arrived = k.flits ∧
      k.low ≤ w.low ∧ w.low ≤ r.seq
    let drop := fun (s : State) => { s with pkts := tdel s.pkts p }
    let answers := fun (s : State) (f : Nat) (d l : List Byte) =>
      drop ((s.record r.dst r.src (r.seq, f, d, l)).sendReply k.req r f d l)
    let ran := fun (e : Option (Nat × Nat × List Byte × List Byte)) => w.ran.find? (fun e => e.1 == r.seq) = e
    let turn := k.cancel = false ∧ s.heldFor r = false ∧ s.outranked p k r = false ∧ s.notYet r = false ∧ r.hint ≠ 3 ∧ r.hint ≠ 4
    let present := r.ph.host = false ∧ s.inL2 r.ph.pa = true
    let bad := lineOf r.ph.pa ∈ s.poison ∧ 0 < r.n
    let runs := fun (s' : State) => exec (.sliceRequest p) s = .next s'
    (w.low < k.low → (s.noteLow r.dst r.src k.low).windowFor r.dst r.src =
      { w with low := k.low, ran := w.ran.filter (fun x => decide (k.low ≤ x.1)) }) ∧
    (tget s.pkts p = some k → tget s.reqs k.req = some r → k.reply = false → k.lost = false → k.arrived = k.flits →
      k.low ≤ w.low → r.seq < w.low → runs (drop s)) ∧
    (∀ n f d l, here → ran (some (n, f, d, l)) → (k.retry = true ∨ k.cancel = true) → runs (drop (s.sendReply k.req r f d l))) ∧
    (∀ e, here → ran (some e) → k.retry = false → k.cancel = false → runs (drop s)) ∧
    (here → ran none → k.cancel = true → (∀ a b, r.kind ≠ .update a b) → runs (answers s 0xE1 [] [])) ∧
    (∀ n, here → ran none → k.cancel = false → r.pred = some n → s.executed r.dst r.src n = false → runs s) ∧
    (here → ran none → k.cancel = false → (s.outranked p k r = true ∨ s.notYet r = true) → runs s) ∧
    (here → ran none → k.cancel = false → r.kind.onLine = true → s.now ≤ k.arrivedAt → runs s) ∧
    (here → ran none → turn → r.ph.host = true → r.hostSt = 0 → s.link = false → runs (answers s 0xE6 [] [])) ∧
    (here → ran none → turn → r.ph.host = true → r.hostSt = 0 → s.link = true → s.linkFull = true → runs s) ∧
    (here → ran none → turn → r.ph.host = true → r.hostSt = 0 → s.link = true → s.linkFull = false →
      runs { s with reqs := tset s.reqs k.req { r with hostSt := 1, hostAt := s.now } }) ∧
    (here → ran none → turn → present → r.kind = .load → (∀ l ∈ linesOf r.ph.pa r.n, l ∉ s.poison) →
      runs (answers s 0 (memRead s.mem r.ph.pa r.n)
        (if r.fill.isSome ∨ r.shares ≠ [] ∨ r.owner.isSome then memRead s.mem (lineOf r.ph.pa) 64 else []))) ∧
    (here → ran none → turn → present → r.kind = .load → bad → lineOf r.ph.pa ∉ s.slicePoison → runs (answers s 0xE2 [] [])) ∧
    (here → ran none → turn → present → r.kind = .load → bad → lineOf r.ph.pa ∈ s.slicePoison → runs (answers s 0xE4 [] [])) ∧
    (∀ d, here → ran none → turn → present → r.kind = .store d → runs (answers (s.storeAt r d) 0 [] [])) ∧
    (∀ d, r.shares = [] → r.covers = false → 0 < d.length → r.ph.pa % 64 + d.length ≤ 64 → s.storeAt r d = s.store r.part r.ph r.va d r.launch (s.who r)) ∧
    (∀ d, r.kind = .store d → r.shares = [] → r.ph.host = false → r.ph.pa % 64 = 0 → d.length = 64 →
      r.ph.pa ∉ (s.storeAt r d).poison ∧ memRead (s.storeAt r d).mem r.ph.pa 64 = d) ∧
    (here → ran none → turn → r.ph.host = false → s.needsLine r = true → s.hbmReads.contains (lineOf r.ph.pa) = false →
      runs { s with hbmReads := lineOf r.ph.pa :: s.hbmReads })

/-- Atomics (R311, R312): the new value of each operation, at the width of its type. Ordered entries, congestion and
corrected errors (R62, R63, R138 to R140, R407): an entry is admitted to the buffer while it holds fewer than 1,024; a
core reports the floors of its threads; the entry of the smallest key of a line is applied once its conditions hold,
its core's L1 copy goes (R126), and its thread gets the old value; a core reports besides the keys of requests that are under way to the
slice; a window's end publishes each slice's word; the count of a unit goes up by 1, and
at a multiple of 256 each partition that holds the unit gets a 0xE0 event. -/
def Obligations.AtomicValuesAndOrder : Prop :=
  (
    ∀ (ty : Ty) (old x cmp : Nat), ty.isF = false → old < 2 ^ ty.width →
      let w := ty.width
      let y := x % 2 ^ w
      let rd := fun (n : Nat) => if ty.isS then (BitVec.ofNat w n).toInt else (n : Int)
      rmwNew 0x144 0 ty old x cmp = (old + y) % 2 ^ w ∧
      rd (rmwNew 0x144 1 ty old x cmp) = min (rd old) (rd y) ∧
      rd (rmwNew 0x144 2 ty old x cmp) = max (rd old) (rd y) ∧
      rmwNew 0x144 3 ty old x cmp = old &&& y ∧ rmwNew 0x144 4 ty old x cmp = old ||| y ∧
      rmwNew 0x144 5 ty old x cmp = old ^^^ y ∧ rmwNew 0x144 6 ty old x cmp = y ∧
      rmwNew 0x146 0 ty old x cmp = if old = cmp % 2 ^ w then y else old
  ) ∧
  (
    ∀ (s : State) (n core line : Nat) (e : OrdEntry) (rest : List OrdEntry) (kind : UnitKind),
      let k := s.slice n
      let here := s.wgs.filter (fun e => e.2.core == core && e.2.resid != .saved)
      let count := (((s.ecc.find? (fun e => e.1 == unitCode kind && e.2.1 == n)).map (·.2.2)).getD 0 + 1) % 2 ^ 32
      let least := leastEntry (k.buffer.filter (fun e => lineOf e.ph.pa == line))
      let device := ∀ x ∈ k.buffer, x.ph.host = false
      (k.arriving = e :: rest → (∀ x ∈ k.buffer, x.spilt = false) → k.buffer.length < 1024 →
        exec (.orderedEntryArrival n) s =
          .next (s.modSlice n (fun k => { k with arriving := rest, buffer := k.buffer ++ [e] }))) ∧
      (exec (.floorReport core n) s = .next (s.modSlice n (fun k => { k with
        floors := here.foldl (fun m e => tset m e.1 (e.2.threads.zipIdx.map (fun p => s.floorAt n e.1 p.2 p.1))) k.floors }))) ∧
      (∀ w t th, (∀ e ∈ s.reqs, e.2.key = none) → s.floorAt n w t th = floorOf t th) ∧
      (device → least = some e → s.mayApply n e = false → exec (.orderedEntryApply n line) s = .next s) ∧
      (∀ opc fn ty x cmp l old, device → s.blocked = false → least = some e → s.mayApply n e = true →
        k.arriving.any (fun x => sameLine x.ph e.ph && keyLt x.key e.key) = false →
        e.a = .rmw opc fn ty x cmp → tget s.launches e.launch = some l →
        let key := (e.lseq, e.grp, e.epoch, e.tid, e.opidx)
        let s0 := s.replay e.part e.queue e.launch (fun g => logFirst e.lseq g && logOnLine s e.part l e.ph g)
        s0.load e.ph e.n = .ok old →
        let s1 := (s0.store e.part e.ph e.va (rmwBytes opc fn ty x cmp old) (some e.launch) (some (e.wg, e.tid, e.op))).discard
          (((s0.wg e.wg).map (·.core)).getD 0) .ls (fun l => l == lineOf e.ph.pa)
        let s2 := (s1.modSlice n (fun k =>
          let b := k.buffer.filter (fun y => y.op != e.op)
          let back := if (b.filter (fun y => !y.spilt)).length < 1024 then leastEntry (b.filter (fun y => y.spilt)) else none
          { k with
            buffer := match back with
              | some m => b.map (fun y => if y.op == m.op then { y with spilt := false } else y)
              | none => b
            owners := k.owners.map (fun (o : OwnLine) => if o.is e.ph then { o with last := some key } else o) })).gotPiece
          e.op 0 old
        (s2.replay e.part e.queue e.launch (fun g => logAt key g && logOnLine s2 e.part l e.ph g)).blocked = false →
        exec (.orderedEntryApply n line) s =
          .next (s2.replay e.part e.queue e.launch (fun g => logAt key g && logOnLine s2 e.part l e.ph g))) ∧
      (s.windowAt / 1024 < s.now / 1024 → ∃ s2, exec .congestionWindowEnd s = .next s2 ∧ s2.windowAt = s.now ∧
        ∀ m < Config.slices, (s2.slice m).full = 0 ∧
          (s2.slice m).cong = congWord m (s.slice m).full (Config.deflections m s.now)) ∧
      (unitCount kind ≤ n → exec (.eccCorrected kind n) s = .next s) ∧
      (n < unitCount kind → ∃ s2, exec (.eccCorrected kind n) s = .next s2 ∧ (unitCode kind, n, count) ∈ s2.ecc ∧
        (count % 256 ≠ 0 → s2.parts = s.parts))
  )

/-! ## Control -/

/-- Branches and calls (R336 to R340): a branch goes to PC + OFF or to A's low 24 bits; a call whose frame demand, window,
handler offset and callee pass the checks asks for its frame, the callee at its target; the checks fail in the order
0x71, 0x76, 0x73. A call that is granted at once (R168 to R170, R339): no older need stands in its lane and the demand
fits; the new frame stands on top, its link holds the return address, and the thread goes on at the target. Its first
A registers are the caller's vW to v(W+A−1), and the others are its own. -/
def Obligations.BranchesCallsAndFrames : Prop :=
  (
    ∀ (c : Ctl) (o : FB) (s : State) (u : Cur) (t : Nat),
      let at_ := fun (i : Instr) => start s i c u
      let jumps := fun (i : Instr) (s' : State) => exec i s = .next (ended s i c u t (.jump s'))
      let goes := fun (i : Instr) (pc : Int) => jumps i ((at_ i).modThread u.wg t (fun th => { th with pc := BitVec.ofInt 24 pc }))
      let rel := (u.pc : Int) + signExt o.off.toNat 24
      let reg : Nat := (s.src u.wg t o.tgt).toNat % 2 ^ 24
      let n := o.dem.toNat
      let a := o.argc.toNat
      let base := match o.argb with
        | .v j => j.val
        | _ => 0
      let decl := (((s.thread u.wg t).bind (fun th => th.frames.head?)).map (·.decl)).getD 0
      let shape := fun (h : Option Int) => 1 ≤ n ∧ n ≤ 224 ∧ a ≤ n ∧ (a = 0 ∨ base + a ≤ decl) ∧ ∀ x, h = some x → -8192 ≤ x - 1
      let fits := (n + 8) / 8 * 8 ≤ 8 * (s.eff u.wg).poolg
      let frame := fun (pc : Nat) (h : Option Int) (q : Option Nat) =>
        ({ demand := n, window := base, args := a, target := pc, handler := h.map (· - 1), queue := q } : PendCall)
      let call := fun (i : Instr) (pc : Nat) (h : Option Int) (q : Option Nat) =>
        (shape h → fits → jumps i ((at_ i).callFrame u.wg t (frame pc h q))) ∧
        (¬shape h → exec i s = .next (traps (at_ i) u t 0x71 0)) ∧
        (shape h → ¬fits → exec i s = .next (traps (at_ i) u t 0x73 0))
      let h := signExt o.off.toNat 14
      let hf := signExt (o.tgt.code * 32 + o.flg.toNat) 14
      let q := o.flg.toNat % 16
      (Alone s (.bra c o) c u t → goes (.bra c o) rel) ∧
      (Alone s (.braI c o) c u t → goes (.braI c o) reg) ∧
      (Alone s (.callF c o) c u t → call (.callF c o) (rel % 2 ^ 24).toNat none none) ∧
      (Alone s (.callFH c o) c u t → call (.callFH c o) (rel % 2 ^ 24).toNat (some hf) none) ∧
      (Alone s (.callI c o) c u t → call (.callI c o) reg none none) ∧
      (Alone s (.callIH c o) c u t → call (.callIH c o) reg (some h) none) ∧
      (∀ pc, Alone s (.callQ c o) c u t → s.callee u.wg q = some pc → call (.callQ c o) pc none (some q)) ∧
      (Alone s (.callQ c o) c u t → s.callee u.wg q = none → shape none →
        exec (.callQ c o) s = .next (traps (at_ (.callQ c o)) u t 0x76 0))
  ) ∧
  (
    ∀ (s : State) (w t : Nat) (p : PendCall) (g : Workgroup) (th : Thread) (top : Frame) (below : List Frame) (grans : List Nat),
      let n := (p.demand + 8) / 8 * 8
      s.wg w = some g → s.thread w t = some th → th.frames = top :: below → th.returning = false → top.spilled = false → top.stored = false →
      p.queue = none →
      (s.core g.core).needs.any (fun d => d.1 == t % 32) = false →
      s.fits w t n = some grans →
      ∃ th' f, (s.callFrame w t p).thread w t = some th' ∧ th'.frames = f :: top :: below ∧ th'.st = .run ∧
        th'.pc = BitVec.ofNat 24 p.target ∧ f.decl = p.demand ∧ f.grans = grans ∧ f.base = false ∧
        f.ret = (th.pc.toNat + 1) % 2 ^ 24 ∧ f.slots = List.replicate n 0 ∧
        (p.args ≤ p.demand → p.demand ≤ 224 → p.window + p.args ≤ 224 → ∀ j, j < p.demand →
          resolveReg th'.frames j = if j < p.args then resolveReg th.frames (p.window + j) else some (f.id, j))
  )

/-- Return, unwind and exit (R176, R177, R178, R341, R342): ret frees the top frame and goes on at its return address, or
raises 0x74 in a base frame; unwind goes on in the first frame with a handler, at its return address plus its handler
offset, with the value in v0, or raises 0x75; exit frees every frame and the thread is EXITED. -/
def Obligations.ReturnUnwindExit : Prop :=
  ∀ (c : Ctl) (o : F3) (s : State) (u : Cur) (t : Nat) (th : Thread) (top next : Frame) (rest : List Frame),
    let i := Instr.ret c o
    let j := Instr.unwind c o
    let k := Instr.exit c o
    let idle := ∀ g, s.wg u.wg = some g → (s.core g.core).needs.any (fun d => d.1 == t % 32) = false
    (Alone s i c u t → s.thread u.wg t = some th → th.frames = top :: next :: rest → top.base = false →
      exec i s = .next (ended s i c u t (.jump ((start s i c u).retFrame u.wg t top next)))) ∧
    (Alone s i c u t → s.thread u.wg t = some th → th.frames = [top] → exec i s = .next (traps (start s i c u) u t 0x74 0)) ∧
    (s.thread u.wg t = some th → th.frames = top :: next :: rest → next.spilled = false → idle →
      (s.retFrame u.wg t top next).thread u.wg t = some { th with pc := BitVec.ofNat 24 top.ret, frames := next :: rest }) ∧
    (∀ s', Alone s j c u t → (start s j c u).unwind u.wg t (s.src u.wg t o.a) = some s' →
      exec j s = .next (ended s j c u t (.jump s'))) ∧
    (Alone s j c u t → s.thread u.wg t = some th → th.frames.all (fun f => f.base || !f.hnd) = true →
      exec j s = .next (traps (start s j c u) u t 0x75 0)) ∧
    (∀ x, s.thread u.wg t = some th → th.frames = top :: next :: rest → (top.base || !top.hnd) = true → next.base = false →
      next.hnd = true → next.spilled = false → next.stored = false → next.args = 0 → 0 < next.decl →
      rest.all (fun f => f.id != next.id) = true → idle →
      ∃ s' th', s.unwind u.wg t x = some s' ∧ s'.thread u.wg t = some th' ∧
        th'.pc = BitVec.ofInt 24 (next.ret + next.hoff) ∧ th'.loop = none ∧ th'.st = .run ∧
        ∃ f, th'.frames = f :: rest ∧ f.hnd = false ∧ f.slots = next.slots.set 0 x) ∧
    (Alone s k c u t → exec k s = .next (ended s k c u t
      (.jump (((start s k c u).freeFrames u.wg t).modThread u.wg t (fun th => { th with
        st := .exited, hold := none, loop := none, call := none, serial := false })))))

/-- Loops (R344, R345): loop.cap checks its operands and its captured words (0x07), skips the body for 0 trips, and else
sets the loop record and enters the body; a step word reached otherwise raises 0x07. At the end of the body the thread
starts the next pass, or after the last pass leaves the loop. Election, yield and idling (R161, R347, R358): of the
threads of a workgroup that meet an occurrence of elect, the first has PD = 1 and the others 0; with 64 occurrences
open the thread waits, those that no live thread can meet being freed first, which is the model's reading (notes/assumptions/25.md). yield holds the thread back for 16 cycles at most, nop does nothing, sleep parks the thread for
its count of cycles, and wait goes on once the counts of its five classes are at most those it names. -/
def Obligations.LoopsElectionsAndIdling : Prop :=
  (
    ∀ (c : Ctl) (p : FI) (s : State) (u : Cur) (t : Nat) (ws : List Nat) (s1 : State),
      let i := Instr.loopCap c p
      let len := p.imm.toNat % 2 ^ 6
      let ns := p.imm.toNat / 2 ^ 6 % 2 ^ 5
      let trips := (s.src u.wg t p.a).toNat % 2 ^ 32
      let b := u.pc + 1 + ns
      let fetched := fetchWords (start s i c u) u.wg [t] (u.pc + 1) (ns + len)
      let good := badCapture (ws.take ns) (ws.drop ns) trips = false
      let on := fun (f : Thread → Thread) => exec i s = .next (ended s i c u t (.jump (s1.modThread u.wg t f)))
      (Alone s i c u t → fetched = (.ok ws, s1) → good → trips = 0 →
        on (fun th => { th with pc := BitVec.ofNat 24 (b + len) })) ∧
      (Alone s i c u t → fetched = (.ok ws, s1) → good → trips ≠ 0 →
        on (fun th => { th with
          pc := BitVec.ofNat 24 b
          loop := some { b := b, len := len, trips := trips, pass := 0, steps := (ws.take ns).map stepOf } })) ∧
      (Alone s i c u t → fetched = (.ok ws, s1) → ¬good → exec i s = .next (traps s1 u t 0x07 0)) ∧
      (∀ f a, Alone s i c u t → fetched = (.error (f, a), s1) → f ≠ 0 → exec i s = .next (faulted s1 u t f a c)) ∧
      (Alone s (.loopStep c p) c u t → exec (.loopStep c p) s = .next (traps (start s (.loopStep c p) c u) u t 0x07 0)) ∧
      (∀ (th : Thread) (r : LoopRec), th.loop = some r →
        (th.pc.toNat + 1 = r.b + r.len → r.pass + 1 = r.trips →
          th.advance = { th with pc := BitVec.ofNat 24 (r.b + r.len), loop := none }) ∧
        (th.pc.toNat + 1 = r.b + r.len → r.pass + 1 ≠ r.trips →
          th.advance = { th with pc := BitVec.ofNat 24 r.b, loop := some { r with pass := r.pass + 1 } }) ∧
        (th.pc.toNat + 1 ≠ r.b + r.len → th.advance = { th with pc := th.pc + 1 }))
  ) ∧
  (
    ∀ (c : Ctl) (o : F3) (p : FI) (s : State) (u : Cur) (t : Nat) (g : Workgroup) (th : Thread),
      let e := Instr.elect c o
      let s0 := s.modWg u.wg Workgroup.freeElections
      let es := g.freeElections.elections
      let mine := fun (x : Election) => x.index = u.pc ∧ x.epoch = th.epoch.toNat
      let set := fun (f : List Election → List Election) (b : Bool) => exec e s = .next (goOn
        (((start s0 e c u).modWg u.wg (fun g => { g with elections := f g.elections })).putPred u.wg [t] o.pd.val b) u.wg t c)
      let n := p.imm.toNat
      let few := fun (k : Cls) (lo : Nat) => s.countOps u.wg t k ≤ n / 2 ^ lo % 2 ^ 6
      let all := few .ld 0 ∧ few .st 6 ∧ few .cp 12 ∧ few .tl 18 ∧ few .ag 24
      (Alone s e c u t → s.wg u.wg = some g → s.thread u.wg t = some th → (∀ x ∈ es, ¬mine x) → es.length < 64 →
        set (· ++ [{ index := u.pc, epoch := th.epoch.toNat, seen := [t] }]) true) ∧
      (Alone s e c u t → s.wg u.wg = some g → s.thread u.wg t = some th → (∃ x ∈ es, mine x) →
        set (fun l => l.map (fun x => if x.index = u.pc ∧ x.epoch = th.epoch.toNat then
          { x with seen := t :: x.seen.filter (· != t) } else x)) false) ∧
      (Alone s e c u t → s.wg u.wg = some g → s.thread u.wg t = some th → (∀ x ∈ es, ¬mine x) → 64 ≤ es.length →
        exec e s = .next (start s0 e c u)) ∧
      Gives (.yield c o) c (fun u s t _ => s.modThread u.wg t (fun th => { th with yieldTo := some (s.now + 16) })) ∧
      Gives (.nop c o) c (fun _ s _ _ => s) ∧
      (Alone s (.sleep c p) c u t → n = 0 → exec (.sleep c p) s = .next (goOn (start s (.sleep c p) c u) u.wg t c)) ∧
      (Alone s (.sleep c p) c u t → n ≠ 0 → exec (.sleep c p) s = .next
        ((start s (.sleep c p) c u).modThread u.wg t (fun th => { th with st := .parked (.sleep (s.now + n)) }))) ∧
      (Alone s (.wait c p) c u t → all → exec (.wait c p) s = .next (goOn (start s (.wait c p) c u) u.wg t c)) ∧
      (Alone s (.wait c p) c u t → ¬all → exec (.wait c p) s = .next (start s (.wait c p) c u))
  )

/-- bkt.sel (R346, R201, R202): the bucket table's head gives the number of dimensions and of records; of the first record
that holds every shape value, D receives the schedule and E on the pad masks, and PD is 1; when no record holds them, D
receives 0xFFFF, the masks are 0 and PD is 0. While a word of the table is on its way, the thread waits at the instruction, which
is the model's reading (notes/assumptions/73.md); so it does, and is not READY, while a register of a group awaits a write
(R153). A malformed table raises 0xB0, a mask register beyond the frame 0x70. -/
def Obligations.BucketSelection : Prop :=
  ∀ (c : Ctl) (o : F3) (s : State) (u : Cur) (t h : Nat) (k0 : Fin 64) (r : Option (List Nat)) (s1 s2 : State),
    let i := Instr.bktSel c o
    let x := ctx i c u t
    let va := (s.src u.wg t o.a).toNat
    let nd := h / 2 ^ 8 % 2 ^ 3
    let nb := h % 2 ^ 8
    let legal := h < 2 ^ 11 ∧ 1 ≤ nd ∧ nd ≤ 4 ∧ 1 ≤ nb ∧ nb ≤ 64 ∧ k0.val + nd ≤ 64
    let inside := ∀ j, o.e = .v j → j.val + nd ≤ 240 ∧ ∀ th, s1.thread u.wg t = some th → inFrame th.frames (j.val + nd - 1) = true
    let vs := (List.range nd).map (fun d => (((s1.wg u.wg).map (fun g => (g.k (k0.val + d)).toNat)).getD 0) % 2 ^ 32)
    let left := fun (s : State) => s.dropStage (.thread u.wg t)
    let names := (List.range nd).map (fun d => Dst.k (k0.val + d)) ++
      ((List.range nd).map (fun d => Opnd.plus o.e d)).flatMap (fun (e : Opnd) => (s1.dst u.wg t e).toList)
    let awaits := s1.pendingAny u.wg t names = true
    let head := Alone s i c u t → o.b = .k k0 → cstWord (start s i c u) x va = (.ok h, s1) →
      (¬legal → exec i s = .next (traps (left s1) u t 0xB0 va)) ∧ (legal → ¬inside → exec i s = .next (traps (left s1) u t 0x70 0)) ∧
      (legal → inside → awaits → exec i s = .next (s1.modThread u.wg t (fun th => { th with hold := some (.group names) })))
    let sched := match r with
      | some l => l.headD 0 % 2 ^ 16
      | none => 0xFFFF
    let masks := match r with
      | some l => vs.zipIdx.map (fun (e : Nat × Nat) => padMask (l.headD 0 / 2 ^ (16 + 4 * e.2) % 16) e.1)
      | none => List.replicate nd 0
    let writes := ((s2.dst u.wg t o.d).toList.map (fun (d : Dst) => (d, ofN sched))) ++
      (((List.range nd).map (fun d => Opnd.plus o.e d)).zip masks).filterMap (fun (e : Opnd × Nat) =>
        (s2.dst u.wg t e.1).map (fun d => (d, ofN e.2))) ++
      (if o.pd.val = 15 then [] else [(Dst.p o.pd.val [t], if r.isSome then (1 : Word) else 0)])
    let op : Op := { wg := u.wg, tid := t, core := u.core, cls := some .ld, pc := u.pc, dst := writes.map (·.1),
                     kind := .local writes }
    head ∧
    (∀ a, Alone s i c u t → o.b = .k k0 → cstWord (start s i c u) x va = (.error (0, a), s1) → exec i s = .next s1) ∧
    (Alone s i c u t → o.b = .k k0 → cstWord (start s i c u) x va = (.ok h, s1) → legal → inside → ¬awaits →
      findBucket s1 x nd vs (va + 8) nb = (.ok r, s2) → exec i s = .next (goOn (left (withOp s2 op)) u.wg t c)) ∧
    (∀ n v, padMask n v = if v % 2 ^ n = 0 then 0 else 2 ^ 2 ^ n - 2 ^ (v % 2 ^ n))

/-- Named barriers (R134, R148, R348 to R351): bar.init sets the expected count of 1 to the workgroup's size (0xC9) of a
barrier below BARS (0xC8), and of an initialised one to another count where no thread waits on it and no more than that have
arrived, else 0xC9; bar.arrive and bar.wait and bar.tx need an initialised barrier; an arrival counts once the
thread's earlier accesses are done, and waits where every arrival of the phase is in; bar.wait goes on with the
thread's epoch increased if the phase it arrived in is over, and else parks; bar.tx adds its signed count within 48
bits (0xC7). A barrier opens at the moment when every arrival and every byte is in (R134, R351): its phase goes up by
1 and its arrivals return to 0; each thread in bar.wait on it goes on with its epoch increased; otherwise nothing
happens. Team synchronisation (R125, R352): the gathered members go on together once the earlier accesses of each
contributor are done. -/
def Obligations.BarriersAndTeamSync : Prop :=
  (
    ∀ (c : Ctl) (p : FI) (s : State) (u : Cur) (t : Nat) (g : Workgroup) (l : Launch) (b : Barrier),
      let n := p.imm.toNat % 2 ^ 11
      let k := (s.src u.wg t p.a).toNat
      let init := Instr.barInit c p
      let arr := Instr.barArrive c p
      let wai := Instr.barWait c p
      let tx := Instr.barTx c p
      let st := fun (i : Instr) => start s i c u
      let goes := fun (i : Instr) (s' : State) => exec i s = .next (goOn s' u.wg t c)
      let faults := fun (i : Instr) (f : Nat) => exec i s = .next (traps (st i) u t f 0)
      let here := s.wg u.wg = some g ∧ s.launchOf u.wg = some l ∧ n < l.nbars
      let is := here ∧ tget g.bars n = some b
      let beyond := s.wg u.wg = some g ∧ s.launchOf u.wg = some l ∧ l.nbars ≤ n
      let clear := (st arr).fenceClear (ctx arr c u t) 2 ((st arr).markOf (ctx arr c u t)) = true
      let arrived := (s.thread u.wg t).bind (·.arrival)
      let sum := b.tx + (s.src u.wg t p.a).toInt
      (∀ i ∈ [init, arr, wai, tx], Alone s i c u t → beyond → faults i 0xC8) ∧
      (∀ i ∈ [arr, wai, tx], Alone s i c u t → here → tget g.bars n = none → faults i 0xC8) ∧
      (Alone s init c u t → here → (k = 0 ∨ g.threads.length < k) → faults init 0xC9) ∧
      (Alone s init c u t → here → 1 ≤ k → k ≤ g.threads.length → tget g.bars n = none →
        goes init (setBarrier (st init) u.wg n { exp := k })) ∧
      (Alone s init c u t → is → 1 ≤ k → k ≤ g.threads.length → k = b.exp → goes init (st init)) ∧
      (Alone s init c u t → is → 1 ≤ k → k ≤ g.threads.length → k < b.arr → k ≠ b.exp → faults init 0xC9) ∧
      (Alone s init c u t → is → 1 ≤ k → k ≤ g.threads.length → k ≠ b.exp → (∃ th ∈ g.threads, ∃ ph, th.st = .parked (.barrier n ph true)) →
        faults init 0xC9) ∧
      (Alone s init c u t → is → 1 ≤ k → k ≤ g.threads.length → k ≠ b.exp → b.arr ≤ k →
        (∀ th ∈ g.threads, ∀ ph, th.st ≠ .parked (.barrier n ph true)) →
        goes init ((setBarrier (st init) u.wg n { b with exp := k }).settleBarrier u.wg n)) ∧
      (Alone s arr c u t → is → clear → b.arr ≠ b.exp → goes arr ((setBarrier
        ((st arr).modThread u.wg t (fun th => { th with arrival := some (n, b.ph) })) u.wg n { b with arr := b.arr + 1 }).settleBarrier
          u.wg n)) ∧
      (Alone s arr c u t → is → clear → b.arr = b.exp → exec arr s = .next ((st arr).modThread u.wg t (fun th => { th with
        st := .parked (.barrier n b.ph false), hold := none }))) ∧
      (Alone s wai c u t → is → (∃ ph, arrived = some (n, ph) ∧ ph ≠ b.ph) →
        goes wai ((st wai).modThread u.wg t (fun th => { th with epoch := th.epoch + 1 }))) ∧
      (Alone s wai c u t → is → ¬(∃ ph, arrived = some (n, ph) ∧ ph ≠ b.ph) → exec wai s = .next ((st wai).modThread u.wg t
        (fun th => { th with st := .parked (.barrier n b.ph true), hold := none }))) ∧
      (Alone s tx c u t → is → -(2 ^ 47) ≤ sum → sum < 2 ^ 47 →
        goes tx ((setBarrier (st tx) u.wg n { b with tx := sum }).settleBarrier u.wg n)) ∧
      (Alone s tx c u t → is → ¬(-(2 ^ 47) ≤ sum ∧ sum < 2 ^ 47) → faults tx 0xC7)
  ) ∧
  (
    ∀ (s : State) (w n : Nat) (g : Workgroup) (b : Barrier), s.wg w = some g → tget g.bars n = some b →
      (¬(b.arr = b.exp ∧ b.tx = 0) → s.settleBarrier w n = s) ∧
      (b.arr = b.exp → b.tx = 0 → ∃ g', (s.settleBarrier w n).wg w = some g' ∧
        tget g'.bars n = some { b with ph := (b.ph + 1) % 2 ^ 32, arr := 0 } ∧
        (∀ (m : Nat), m ≠ n → tget g'.bars m = tget g.bars m) ∧
        ∀ (t : Nat) (th : Thread), g.threads[t]? = some th →
          g'.threads[t]? = some (match th.st with
            | .parked (.barrier m _ true) => if m = n then { ({ th with epoch := th.epoch + 1 } : Thread).advance with
                hold := none, st := .run, readyAt := s.now } else th
            | .parked (.barrier m _ false) => if m = n then { th with st := .run, readyAt := s.now } else th
            | _ => th))
  ) ∧
  (
    ∀ (c : Ctl) (o : F3) (p : FI) (s : State) (u : Cur),
      let done := ∀ t ∈ u.tids, guardOf s u.wg t c = true →
        let x : Ctx := { w := u.wg, t := t, ts := [t], core := u.core, pc := u.pc, uni := false, hint := c.ch.val }
        s.fenceClear x 1 (s.markOf x) = true
      (Bundle s (.teamSync c o) c u → done →
        exec (.teamSync c o) s = .next (ran s (.teamSync c o) c u (fun s _ _ => s))) ∧
      (Bundle s (.teamSyncImm c p) c u → done →
        exec (.teamSyncImm c p) s = .next (ran s (.teamSyncImm c p) c u (fun s _ _ => s)))
  )

/-- Traps (R354): trap raises 0xF0 + IMM[3:0] with its operand in sr.TVAL, and brk raises 0xFF. System registers (R62,
R131, R138, R173, R294, R355): rdsr gives D the register's value for the thread, and wrsr writes it. Digest read, TLB
invalidation and halt (R42, R356 to R358): digest.rd waits for the thread's earlier accesses, then writes the hash of
its launch's queue and the flag word, with PD = 1, or zeros and PD = 0 for a thread of no queue; tlb.inv removes the
entries that A and B name from every TLB and walk cache (an entry of another page size survives, which is the model's reading:
notes/assumptions/28.md) and goes on once no older access that may use them is under way; halt marks the workgroup for
its save. -/
def Obligations.TrapsAndSystemRegisters : Prop :=
  (
    ∀ (c : Ctl) (p : FI) (o : F3) (s : State) (u : Cur) (t : Nat),
      (Alone s (.trap c p) c u t → exec (.trap c p) s = .next ((start s (.trap c p) c u).deliver u.wg u.pc 1
        [{ t := t, code := 0xF0 + p.imm.toNat % 16, addr := 0, tval := some (s.src u.wg t p.a) }])) ∧
      (Alone s (.brk c o) c u t → exec (.brk c o) s = .next (traps (start s (.brk c o) c u) u t 0xFF 0))
  ) ∧
  (
    ∀ (c : Ctl) (p : FI),
      let n := p.imm.toNat % 2 ^ 12
      Gives (.rdsr c p) c (fun u => sets u p.d (fun s t => s.readSr u.wg t n)) ∧
      Gives (.wrsr c p) c (fun u s t _ => s.modThread u.wg t (fun th => th.writeSr n (s.src u.wg t p.a))) ∧
      (∀ (s : State) (w t : Nat) (th : Thread) (l : Launch), s.thread w t = some th → s.launchOf w = some l →
        let count := fun (k : Cls) => s.countOps w t k
        s.readSr w t 0x000 = th.cause ∧ s.readSr w t 0x001 = th.epc ∧ s.readSr w t 0x002 = th.faddr ∧
        s.readSr w t 0x003 = th.tval ∧ s.readSr w t 0x010 = th.rngctr ∧ s.readSr w t 0x011 = ofN th.sptop ∧
        s.readSr w t 0x012 = th.epoch ∧ s.readSr w t 0x013 = th.opidx ∧ s.readSr w t 0x014 = ofN l.ltag ∧
        s.readSr w t 0x015 = ofN l.lseq ∧
        s.readSr w t 0x016 = ofN (count .ld + 2 ^ 6 * count .st + 2 ^ 12 * count .cp + 2 ^ 18 * count .tl + 2 ^ 24 * count .ag) ∧
        (th.loop = none → s.readSr w t 0x017 = 0) ∧ (∀ r, th.loop = some r → s.readSr w t 0x017 = ofN (r.trips - r.pass)) ∧
        s.readSr w t 0x018 = (if l.priv then 1 else 0) ∧ s.readSr w t 0x020 = ofN th.congsel.toNat ∧
        s.readSr w t 0x022 = ofN l.part) ∧
      (∀ (th : Thread) (x : Word),
        th.writeSr 0x000 x = { th with cause := x &&& 0xFF } ∧ th.writeSr 0x001 x = { th with epc := x } ∧
        th.writeSr 0x002 x = { th with faddr := x } ∧ th.writeSr 0x003 x = { th with tval := x } ∧
        th.writeSr 0x010 x = { th with rngctr := x } ∧ th.writeSr 0x020 x = { th with congsel := x.setWidth 7 })
  ) ∧
  (
    ∀ (c : Ctl) (o : F3) (s : State) (u : Cur) (t : Nat),
      let d := Instr.digestRd c o
      let v := Instr.tlbInv c o
      let st := fun (i : Instr) => start s i c u
      let clear := fun (i : Instr) => (st i).fenceClear (ctx i c u t) 4 ((st i).markOf (ctx i c u t)) = true
      let empty := fun (i : Instr) => (st i).discard u.core .ls (fun _ => true)
      let regs := fun (s : State) (ws : List Word) =>
        ws.zipIdx.foldl (fun (s : State) (e : Word × Nat) => s.put u.wg t (Opnd.plus o.d e.2) e.1) s
      let a := (s.src u.wg t o.a).toNat
      let b := (s.src u.wg t o.b).toNat
      let part := s.partOf u.wg
      let names := fun (e : TlbEntry) => e.part == part && (b.testBit 14 || (e.asid == b % 2 ^ 12 &&
        (match b / 2 ^ 12 % 4 with
          | 0 => e.size == 16 && e.vpn == a / 2 ^ 16 % 2 ^ 41
          | 1 => e.size == 21 && e.vpn == a / 2 ^ 21 % 2 ^ 36
          | 2 => e.size == 30 && e.vpn == a / 2 ^ 30 % 2 ^ 27
          | _ => true)))
      let dropped := (empty v).tlbDrop part a b
      (∀ ws s1, Alone s d c u t → clear d → (empty d).digestOf u.wg = (some ws, s1) →
        exec d s = .next (goOn ((regs s1 ws).putPred u.wg [t] o.pd.val true) u.wg t c)) ∧
      (∀ s1, Alone s d c u t → clear d → (empty d).digestOf u.wg = (none, s1) →
        exec d s = .next (goOn ((regs s1 (List.replicate 5 0)).putPred u.wg [t] o.pd.val false) u.wg t c)) ∧
      (∀ core, (dropped.core core).tlb = ((empty v).core core).tlb.filter (fun e => !names e)) ∧
      (∀ d l, tget dropped.walks d = some l → ∀ e ∈ l, e.named part a b = false) ∧
      (Alone s v c u t → ((s.thread u.wg t).bind (·.hold)) = none → clear v → dropped.accessesDone part a b dropped.nextId = true →
        exec v s = .next (goOn dropped u.wg t c)) ∧
      (Alone s v c u t → ((s.thread u.wg t).bind (·.hold)) = none → clear v → dropped.accessesDone part a b dropped.nextId = false →
        exec v s = .next (dropped.modThread u.wg t (fun th => { th with hold := some (.inval dropped.nextId a b) }))) ∧
      (∀ m a b, Alone s v c u t → ((s.thread u.wg t).bind (·.hold)) = some (.inval m a b) → s.accessesDone part a b m = true →
        exec v s = .next (goOn (st v) u.wg t c)) ∧
      Gives (.halt c o) c (fun u s _ _ => s.modWg u.wg (fun g => { g with saveFor := 3 }))
  )

/-- The events of waiting threads and the Swarm engine complete (R153, R163, R171 to R174, R347, R358): an elapsed stall
count or yield hold is dropped, a sleep ends, a callee queue gives up its threads to the callee, once a cycle, and the engine grants the
oldest need of its core; a frame is spilled by writing its record at TOP, or TOP stays and 0x72 is found. -/
def Obligations.ThreadEventsComplete : Prop :=
  ∀ (s s1 : State) (core w t q n since target : Nat) (g : Workgroup) (th : Thread) (f : Frame) (i : Nat),
    (s.thread w t = some th → th.stallTo = some n → n ≤ s.now →
      exec (.stallCountExpire w t) s = .next (s.modThread w t (fun th => { th with stallTo := none }))) ∧
    (s.thread w t = some th → th.yieldTo = some n → n ≤ s.now →
      exec (.yieldHoldExpire w t) s = .next (s.modThread w t (fun th => { th with yieldTo := none }))) ∧
    (s.thread w t = some th → s.wg w = some g → g.resid = .resident → th.st = .parked (.sleep n) → n ≤ s.now →
      exec (.sleepExpire w t) s = .next (s.modThread w t (fun th => { th.advance with
        hold := none, st := .run, readyAt := s.now }))) ∧
    (s.drainQueue core = some q → s.queued core q = [(since, w, t, target)] → (s.core core).drained = false →
      exec (.calleeQueueDrain core) s = .next ((s.modCore core (fun k => { k with drained := true })).modThread w t (fun th => { th with
        st := .run, readyAt := s.now, pc := BitVec.ofNat 24 target }))) ∧
    ((s.core core).drained = true → exec (.calleeQueueDrain core) s = .next s) ∧
    ((∀ q < 16, (s.queued core q).length < 32 ∧ ∀ e ∈ s.queued core q, s.now < e.1 + 256) →
      exec (.calleeQueueDrain core) s = .next s) ∧
    (s.swarmTrigger core = false → exec (.swarmStart core) s = .next s) ∧
    (s.swarmTrigger core = true → (s.core core).needs = [(t % 32, w, t)] →
      (s.modCore core (fun k => { k with swarming := false })).grantOne w t = (true, s1) →
      (s1.core core).needs = [(t % 32, w, t)] → exec (.swarmStart core) s = .next (s1.dropNeed core w t)) ∧
    (s.thread w t = some th → deepest th.frames = some (f, i) → (s.eff w).spsize < th.sptop + (8 * f.size + 8) →
      s.spill w t = (.error (0x72, s.spillBase w t + th.sptop), s)) ∧
    (s.thread w t = some th → th.frames = [f] → deepest th.frames = some (f, 0) →
      th.sptop + (8 * f.size + 8) ≤ (s.eff w).spsize →
      s.spillWrite w th.sptop t (f.regsHeld.flatMap (fun x => leBytes 8 x.toNat) ++ leBytes 8 (t % 2 ^ 11 * 2 ^ 8 + f.size / 8)) =
        (.ok (), s1) →
      s.spill w t = (.ok (), (s1.modThread w t (fun th => { th with
        frames := { f with spilled := true, grans := [] } :: th.frames.drop 1
        sptop := ((s.thread w t).map (·.sptop)).getD 0 + (8 * f.size + 8) })).dropLatches w t))

/-! ## Aggregate regions -/

/-- Aggregate instructions issue (R67, R68, R73, R80 to R84, R87, R93, R314): agg.decl reads its descriptor, passes the checks of
R68 or raises what they find, and opens the build of its region; while the descriptor's line is on its way its thread
waits, and while a page that the checks look up awaits the host it is PARKED; agg.range, agg.pfx, agg.pick, agg.free and agg.sync with a handle send a request to the home of the slot that the handle
names and wait for its acceptance; agg.sync without one goes on. -/
def Obligations.AggregateInstructionsIssue : Prop :=
  ∀ (c : Ctl) (o : F3) (s : State) (u : Cur) (t g j f : Nat) (ph : Phys) (bs : List Byte) (s0 s1 s2 : State),
    let d := Instr.aggDecl c o
    let looked := check (start s d c u) u.wg [t] (s.src u.wg t o.a).toNat 32 32 .load Aper.g false = (.glob g ph, s0)
    let read := looked ∧ readThroughL1 s0 (ctx d c u t) g 32 ph = (.ok bs, s1)
    let left := fun (s : State) => s.dropStage (.thread u.wg t)
    let a := (s.src u.wg t o.a).toNat
    let st := fun (i : Instr) => start s i c u
    let opened := fun (i : Instr) (k : AggOp) (dst : Opnd) (pd : Nat) => withOp (st i)
      { plainOp (st i) i u t (.agg k) dst [] with
        dst := ((st i).dst u.wg t dst).toList ++ (if pd = 15 then [] else [.p pd [t]]) }
    let holds := fun (i : Instr) (k : AggOp) (dst : Opnd) (pd : Nat) =>
      let s' := opened i k dst pd
      let slot := a % 2 ^ 12
      let r := s'.send { src := .core u.core, dst := s'.homeOfSlot (s'.partOf u.wg) slot, part := s'.partOf u.wg, kind := .query slot,
                         ph := { pa := 0 }, n := 0, va := 0, op := some s.nextId, launch := (s'.wg u.wg).map (·.launch) }
      exec i s = .next ((r.2.setPieces s.nextId [{ va := 0, n := 0, loc := .net r.1 }]).holdFor (ctx i c u t) s.nextId)
    let looks := (ctx d c u t).asks s1 (fun s => declChecks s u.wg (leNat bs))
    (∀ r b, Alone s d c u t → read → looks = (.ok (r, b), s2) →
      let part := s2.partOf u.wg
      let slot := tfree (s2.part part).regions
      let s3 := withOp s2 (plainOp s2 d u t (.agg (.decl slot)) o.d [])
      exec d s = .next (goOn (left ((s3.readAhead (ctx d c u t) g ph).modPart part (fun q => { q with
        regions := tset q.regions slot { r with updates := s3.buildUpdates r, build := some s2.nextId }
        bindings := match b with
          | some b => q.bindings ++ [{ b with region := some slot }]
          | none => q.bindings }))) u.wg t c)) ∧
    (∀ va, Alone s d c u t → read → looks = (.error (f, va), s2) → f ≠ 0 →
      exec d s = .next (faulted (left s2) u t f va c)) ∧
    (∀ va, Alone s d c u t → read → looks = (.error (0, va), s2) → exec d s = .next (s2.parkHost u.wg [t])) ∧
    (Alone s d c u t → looked → readThroughL1 s0 (ctx d c u t) g 32 ph = (.error (f, j), s1) → f ≠ 0 →
      exec d s = .next (faulted (left s1) u t f (g + j) c)) ∧
    (Alone s d c u t → looked → readThroughL1 s0 (ctx d c u t) g 32 ph = (.error (0, j), s1) → exec d s = .next s1) ∧
    (Alone s (.aggFree c o) c u t → holds (.aggFree c o) (.free a) .vz 15) ∧
    (Alone s (.aggRange c o) c u t →
      holds (.aggRange c o) (.range a (s.src u.wg t o.b).toNat (s.src u.wg t o.c).toNat) o.d o.pd.val) ∧
    (Alone s (.aggPfx c o) c u t → holds (.aggPfx c o) (.pfx a (s.src u.wg t o.b).toNat) o.d o.pd.val) ∧
    (Alone s (.aggPick c o) c u t → holds (.aggPick c o) (.pick a none) o.d o.pd.val) ∧
    (Alone s (.aggSync c o) c u t → o.a ≠ .vz → holds (.aggSync c o) (.sync (some a)) .vz o.pd.val) ∧
    (Alone s (.aggSync c o) c u t → o.a = .vz →
      exec (.aggSync c o) s = .next (goOn (opened (.aggSync c o) (.sync none) .vz o.pd.val) u.wg t c))

/-- R80: over an integer SUM region whose tree holds the sums of its leaves, agg.range of a range of leaves that is not
empty gives the sum of its leaves modulo 2^64; over any region, a range with lo at or above hi gives the identity with
PD = 0. R78: applying an update keeps every inner node of a tree equal to its aggregate's combination of its two
children. -/
def Obligations.AggregateTreeAndQueries : Prop :=
  (
    ∀ (r : Region) (lo hi : Nat),
      (r.agg = 0 → r.ty ≤ 1 → (∀ i, 1 ≤ i → i < r.n → r.node i = (r.node (2 * i) + r.node (2 * i + 1)) % 2 ^ 64) →
        lo < hi → hi ≤ r.n → (r.range lo hi).p = true ∧
        (r.range lo hi).d.toNat = ((List.range (hi - lo)).map (fun k => r.node (r.n + lo + k))).sum % 2 ^ 64) ∧
      (hi ≤ lo → (r.range lo hi).p = false ∧ (r.range lo hi).d = r.identity)
  ) ∧
  (
    ∀ (r : Region) (v : Update),
      let holds := fun (r : Region) => ∀ i, 1 ≤ i → i < r.n → r.node i = (r.combine (r.node (2 * i)) (r.node (2 * i + 1))).1.toNat
      holds r → holds (r.apply v)
  )

/-- The events of the region home complete (R69, R77, R78, R81 to R88, R93, R410): an update that is the oldest of its line
among those that have come is applied; an operation on a live handle is accepted, where a pick takes its draw and a free
removes its region, and a stale handle, a bound beyond the region or a pick over another aggregate than SUM gives 0x41, 0x42
or 0x46; a query is accepted once its thread's earlier stores are in, reads its nodes there and then (R78, R93), and answers with what
it has read, or with 0xE4 where it met a poisoned node; the build
writes its handle when its updates are in; a free ends its slot, whose generation goes up, once the updates have come and the
accepted operations have answered, and once a build of the region has ended, which last is the model's choice
(notes/assumptions/24.md). -/
def Obligations.AggregateEventsComplete : Prop :=
  (
    ∀ (s : State) (q : Req) (op slot h lo hi x : Nat) (o : Op) (r : Region), q.op = some op → tget s.ops op = some o →
      let live := s.regionOf q.part h = some (slot, r)
      let stale := s.regionOf q.part h = none
      let is := fun (a : AggOp) => o.kind = .agg a
      let yes := s.modOp op (fun o => { o with accepted := true })
      let pick := yes.rngDraw o.wg o.tid
      let reads := fun (s : State) (a : Answer) => (s.modOp op (fun o => { o with
        answer := some (a.d, a.p, a.read.any r.badNodes.contains) })).touchNodes q.part slot r a.read []
      let gives := fun (f : Nat) (t : State) => s.acceptAt q = (some (f, [], []), t)
      (∀ a ∈ [AggOp.free h, .range h lo hi, .pfx h x, .pick h none, .sync (some h)], stale → is a → gives 0x41 s) ∧
      (live → is (.range h lo hi) → r.n < hi → gives 0x42 s) ∧
      (live → is (.pick h none) → r.agg ≠ 0 → gives 0x46 s) ∧
      (live → is (.range h lo hi) → hi ≤ r.n → gives 0 (reads yes (r.range lo hi))) ∧
      (live → is (.pfx h x) → gives 0 (reads yes (r.pfx (ofN x)))) ∧ (live → is (.sync (some h)) → gives 0 yes) ∧
      (live → is (.pick h none) → r.agg = 0 →
        gives 0 (reads (pick.2.modOp op (fun o => { o with kind := .agg (.pick h (some pick.1)) })) (r.pickBy pick.1))) ∧
      (live → q.kind = .query slot → (is (.range h lo hi) ∧ hi ≤ r.n ∨ is (.pfx h x) ∨ is (.pick h none) ∧ r.agg = 0) →
        s.notYet q = !s.ownStoresIn o op (some slot)) ∧
      (live → is (.free h) → gives 0 ((yes.modRegion q.part slot (fun x => { x with freeing := some op })).modPart q.part
        (fun p => { p with bindings := p.bindings.filter (fun b => b.region != some slot) })))
  ) ∧
  (
    ∀ (s : State) (op part slot h lo hi x : Nat) (o : Op) (r : Region) (d : Word) (p : Bool),
      let q := s.part (s.partOf o.wg)
      let accepted := tget s.ops op = some o ∧ o.done = false ∧ o.accepted = true ∧ tget q.regions (h % 2 ^ 12) = some r
      let query := o.kind ∈ [.agg (.range h lo hi), .agg (.pfx h x), .agg (.pick h (some x))]
      let ev := exec (.aggQueryAccept op) s
      let all := s.ownStoresIn o op none = true
      (tget (s.part part).regions slot = some r → (∃ u ∈ r.updates, u.here = true) →
        ∃ k u s', r.updates[k]? = some u ∧ u.here = true ∧
          (∀ j < k, ∀ v, r.updates[j]? = some v → v.here = true → v.line ≠ u.line) ∧
          exec (.aggUpdateApply part slot) s = .next s' ∧
          tget (s'.part part).regions slot = some { r.apply u with updates := r.updates.eraseIdx k }) ∧
      (accepted → query → o.answer = some (d, p, false) → ev = .next (s.finish op (answerWrites o d p))) ∧
      (accepted → query → o.answer = some (d, p, true) → ev = .next (s.opFault op 0xE4 0)) ∧
      (accepted → o.kind = .agg (.sync (some h)) → all → ev = .next (s.finish op (answerWrites o 0 r.ov))) ∧
      (accepted → o.kind = .agg (.sync (some h)) → ¬all → ev = .next s) ∧
      (tget s.ops op = some o → o.done = false → o.kind = .agg (.sync none) → all →
        ev = .next (s.finish op (answerWrites o 0 false))) ∧
      (tget s.ops op = some o → o.kind = .agg (.decl slot) → tget q.regions slot = some r → r.build = some op →
        r.updates.all (fun u => !u.build) = true → exec (.aggBuildComplete op) s = .next
          ((s.modRegion (s.partOf o.wg) slot (fun r => { r with build := none })).finish op
            (answerWrites o (ofN (s.partOf o.wg * 2 ^ 32 + (tget q.gens slot).getD 0 * 2 ^ 12 + slot)) false))) ∧
      (s.freedBy op = some (part, slot) → tget (s.part part).regions slot = some r →
        ((r.updates.all (·.here) = false ∨ s.owes part slot = true ∨ r.build.isSome = true) → exec (.aggFreeDrain op) s = .next s) ∧
        (r.updates.all (·.here) = true → s.owes part slot = false → r.build = none → ∃ s', exec (.aggFreeDrain op) s = .next s' ∧
          tget (s'.part part).regions slot = none ∧
          tget (s'.part part).gens slot = some (((tget (s.part part).gens slot).getD 0 + 1) % 2 ^ 20)))
  )

/-! ## The Comb -/

/-- Comb instructions on cells (R100 to R111, R315, R316): a definition of a free cell takes effect, of a defined cell
raises 0x61, and waits on a draining cell; a read of a defined cell opens a snapshot copy, and else parks its thread;
comb.kill starts the drain of a defined cell (0x62 if free, 0x63 if draining), and comb.q gives the state word. A
workgroup that is no member, or that leaves, gets 0x60; a definition whose source holds a word in error gets 0xE3 (R388, R411), and
that a word found only at its turn is a deferred fault is the model's reading (notes/assumptions/86.md). A definition takes effect
(R100, R107, R112): the cell's generation goes up modulo 2^16, it holds the shape defined at the first place with room, and for every
reader parked on the cell a copy is started, which the cell records, and its thread goes on; there is no effect where no place has
room, which the model counts over the eight cores together (notes/assumptions/32.md). The state word of R111 shows generation, state, element
width, rows, columns and the two queues. -/
def Obligations.CombCellsAndDefinition : Prop :=
  (
    ∀ (c : Ctl) (o : FX) (s : State) (u : Cur) (t d off w : Nat) (g : Workgroup) (s1 s2 : State),
      let cell := if o.xsub.toNat.testBit 0 then (s.src u.wg t o.b).toNat % 2 ^ 12 else o.num.toNat
      let st := fun (i : Instr) => start s i c u
      let def_ := Instr.combDef c o
      let defs := Instr.combDefs c o
      let rd := Instr.combRd c o
      let rds := Instr.combRds c o
      let kill := Instr.combKill c o
      let member := s.wg u.wg = some g ∧ g.leaving = false ∧ g.group = some d
      let shape := g.shape o.mt.val
      let y := s.cell d cell
      let faults := fun (i : Instr) (f : Nat) => exec i s = .next (traps (st i) u t f 0)
      let known := s.shapePending u.wg o.mt.val = false
      let src := check (st defs) u.wg [t] (s.src u.wg t o.a).toNat (max 1 (shapeBytes shape)) 8 .load Aper.s false = (.scratch w off, s1)
      let dst := check (st rds) u.wg [t] (s.src u.wg t o.a).toNat 1 8 .store Aper.s false = (.scratch w off, s1)
      let defines := fun (i : Instr) (s1 : State) (k : TileOp) => (s1.cell d cell).st = .free →
        let r := s1.openDef u.wg t u.pc shape k none
        (s1.defBad u.wg shape k = true → exec i s = .next (traps s1 u t 0xE3 0)) ∧
        (s1.defBad u.wg shape k = false →
        (r.2.define d cell u.wg shape r.1 = some s2 → exec i s = .next (goOn s2 u.wg t c)) ∧
        (r.2.define d cell u.wg shape r.1 = none → exec i s = .next (traps s1 u t 0x66 0)))
      (∀ i ∈ [def_, defs, rd, rds, kill, .combQ c o, .combLeave c o, .combMap c o], Alone s i c u t → s.wg u.wg = some g →
        (g.leaving = true ∨ g.group = none) → faults i 0x60) ∧
      (Alone s def_ c u t → member → known → shapeOk shape = false → faults def_ 0x65) ∧
      (Alone s def_ c u t → member → known → shapeOk shape = true → defines def_ (st def_) (.combDef d cell o.mt.val [])) ∧
      (Alone s def_ c u t → member → known → shapeOk shape = true → y.st = .defined → faults def_ 0x61) ∧
      (Alone s def_ c u t → member → known → shapeOk shape = true → y.st = .draining → exec def_ s = .next
        ((st def_).parkCell (ctx def_ c u t) d cell false (.combDef d cell o.mt.val []) shape none)) ∧
      (Alone s defs c u t → member → known → src → shapeOk shape = true → defines defs s1 (.combDefs d cell off shape [])) ∧
      (Alone s rd c u t → member → y.st = .defined → exec rd s = .next (goOn ((st rd).startCopy d cell
        { wg := u.wg, tid := t, pc := u.pc, op := .combRd d cell o.mt.val } false) u.wg t c)) ∧
      (Alone s rd c u t → member → y.st ≠ .defined → exec rd s = .next
        ((st rd).parkCell (ctx rd c u t) d cell true (.combRd d cell o.mt.val) 0 none)) ∧
      (Alone s rds c u t → member → dst → (s1.cell d cell).st = .defined →
        s1.rdsFails u.wg off (s1.cell d cell).size = false → exec rds s = .next (goOn (s1.startCopy d cell
          { wg := u.wg, tid := t, pc := u.pc, op := .combRds d cell off } false) u.wg t c)) ∧
      (Alone s rds c u t → member → dst → (s1.cell d cell).st = .defined → s1.rdsFails u.wg off (s1.cell d cell).size = true →
        exec rds s = .next (traps s1 u t 0x24 (s1.scrPast u.wg off))) ∧
      (Alone s kill c u t → member → y.st = .defined → exec kill s = .next
        (goOn (((st kill).modCell d cell (fun y => { y with st := .draining })).drained d cell) u.wg t c)) ∧
      (Alone s kill c u t → member → y.st = .free → faults kill 0x62) ∧
      (Alone s kill c u t → member → y.st = .draining → faults kill 0x63) ∧
      (Alone s (.combQ c o) c u t → member → exec (.combQ c o) s = .next (goOn (withOp (st (.combQ c o))
        (plainOp (st (.combQ c o)) (.combQ c o) u t
          (.local (((st (.combQ c o)).dst u.wg t o.d).toList.map (fun e => (e, y.word)))) o.d [])) u.wg t c))
  ) ∧
  (
    ∀ (s : State) (d c w shape id : Nat),
      let y := s.cell d c
      (s.findPlace d (shapeBytes shape) 0 = none → s.define d c w shape id = none) ∧
      (∀ pl, s.findPlace d (shapeBytes shape) 0 = some pl → shape < 2 ^ 18 →
        ∃ s', s.define d c w shape id = some (y.readers.foldl (fun s r => s.startCopy d c r true) s') ∧ s'.cell d c = { y with
          st := .defined, gen := (y.gen + 1) % 2 ^ 16, ew := shape / 2 ^ 16, rows := shape / 2 ^ 8 % 2 ^ 8, cols := shape % 2 ^ 8,
          value := [], pend := some id, definer := w, copies := [], readers := [], place := pl,
          bad := false }) ∧
      (∀ (x : CombWait) (k : Nat), x.op = .combRd d c k →
        let t := s.startCopy d c x true
        (t.cell d c).copies = y.copies ++ [s.nextId] ∧
        (∃ o, tget t.ops s.nextId = some o ∧ o.kind = .tile x.op ∧ o.wg = x.wg ∧ o.tid = x.tid) ∧
        ∀ th, s.thread x.wg x.tid = some th → t.thread x.wg x.tid = some { th.advance with hold := none, st := .run, readyAt := s.now }) ∧
      (y.gen < 2 ^ 16 → y.ew < 2 ^ 4 → y.rows < 2 ^ 8 → y.cols < 2 ^ 8 → y.word.toNat / 2 ^ 48 = y.gen ∧
        y.word.toNat / 2 ^ 46 % 4 = (match y.st with
          | .free => 0
          | .defined => 1
          | .draining => 2) ∧
        y.word.toNat / 2 ^ 42 % 16 = y.ew ∧ y.word.toNat / 2 ^ 34 % 2 ^ 8 = y.rows ∧ y.word.toNat / 2 ^ 26 % 2 ^ 8 = y.cols ∧
        y.word.toNat / 2 ^ 8 % 2 ^ 8 = min 255 y.definers.length ∧ y.word.toNat % 2 ^ 8 = min 255 y.readers.length)
  )

/-- Membership and windows (R94 to R98, R315): comb.join makes the workgroup a member of the directory of its hive that A
names, under the lowest free member number, which D receives; comb.leave waits for the steps of leaving; comb.map
opens the window to a member. The events of the Comb complete (R97, R103, R106, R107, R112, R363): at the head of the
matrix order a definition captures its source into its cell, each 8-byte word of it as it stood at some moment since the
issue, and a copy writes the cell's value to its destination, into scratchpad behind the accesses that its thread issued before (which
the model deduces, notes/assumptions/105.md), or leaves it where the value holds an error, which stops no thread in a core's storage
and is a deferred 0xE4 elsewhere (R388, R410; notes/assumptions/86.md); a
leaving workgroup whose operations are done gets 0x67 in its parked threads, its windows are revoked and its
membership ends; a value moves to a place with room. -/
def Obligations.CombMembershipAndEvents : Prop :=
  (
    ∀ (c : Ctl) (o : FX) (s : State) (u : Cur) (t d m : Nat) (g : Workgroup),
      let join := Instr.combJoin c o
      let leave := Instr.combLeave c o
      let map := Instr.combMap c o
      let st := fun (i : Instr) => start s i c u
      let a := (s.src u.wg t o.a).toNat
      let dir := 4 * (g.core / 8) + a
      let free := tfree (s.dir dir).members
      let peer := (s.src u.wg t o.b).toNat % 2 ^ 8
      (Alone s join c u t → s.wg u.wg = some g → g.leaving = false → g.group = none → a ≤ 3 → free ≤ 255 →
        exec join s = .next (goOn ((((st join).modDir dir (fun y => { y with members := tset y.members free u.wg })).modWg u.wg
          (fun g => { g with group := some dir, member := free })).put u.wg t o.d (ofN free)) u.wg t c)) ∧
      (Alone s join c u t → s.wg u.wg = some g → g.leaving = false → (g.group ≠ none ∨ 3 < a) →
        exec join s = .next (traps (st join) u t 0x64 0)) ∧
      (Alone s leave c u t → s.wg u.wg = some g → g.leaving = false → g.group = some d →
        exec leave s = .next (((withOp (st leave) (plainOp (st leave) leave u t .leave .vz [])).modWg u.wg
          (fun g => { g with leaving := true })).holdFor (ctx leave c u t) s.nextId)) ∧
      (Alone s map c u t → s.wg u.wg = some g → g.leaving = false → g.group = some d → tget (s.dir d).members peer = some m →
        exec map s = .next (goOn ((st map).modWg u.wg (fun g => { g with windows := tset g.windows (a % 2 ^ 6) { peer := m } }))
          u.wg t c)) ∧
      (Alone s map c u t → s.wg u.wg = some g → g.leaving = false → g.group = some d → tget (s.dir d).members peer = none →
        exec map s = .next (traps (st map) u t 0x68 0))
  ) ∧
  (
    ∀ (s s1 : State) (op d c k off wg place : Nat) (o : Op) (g : Workgroup),
      let head := fun (x : TileOp) => tget s.ops op = some o ∧ s.headTile o.wg = some (op, o, x) ∧ s.wg o.wg = some g
      let capture := fun (s : State) (bs : List Byte) =>
        (s.modCell d c (fun y => if y.pend == some op then { y with value := bs, pend := none } else y)).endTile o.wg op
      let copied := fun (s : State) =>
        ((s.endTile o.wg op).modCell d c (fun y => { y with copies := y.copies.filter (· != op) })).drained d c
      let y := s.cell d c
      let sound := fun (k : Nat) (old : List Byte) =>
        (((tget g.tiles k).map (·.bad)).getD []).any (fun b => decide (8 * b < old.length)) = false
      let claim : Claim := { wg := o.wg, op := op, reg := some k, tiles := blocksOf y.shape }
      (∀ old, head (.combDef d c k old) → g.resid ≠ .saved →
        s.storage g.core o.wg op o.tid [0] { wg := o.wg, op := op } = (true, s1) → sound k old → s1.tileSource o.wg k old.length = old →
        exec (.combDefinitionComplete op) s = .next (capture s1 old)) ∧
      (∀ old, head (.combDef d c k old) → g.resid = .saved → sound k old →
        exec (.combDefinitionComplete op) s = .next (capture s old)) ∧
      (∀ (old new : List Byte), old.length = new.length →
        let r := mixWords s old new ((old.length + 7) / 8)
        r.1.length = old.length ∧ ∀ i, 8 * i < old.length → (r.1.drop (8 * i)).take 8 = (old.drop (8 * i)).take 8 ∨
          (r.1.drop (8 * i)).take 8 = (new.drop (8 * i)).take 8) ∧
      (head (.combRd d c k) → y.pend = none → y.bad = false → g.resid ≠ .saved →
        s.storage g.core o.wg op o.tid [0] claim = (true, s1) → exec (.combCopyComplete op) s = .next
          (copied (s1.modWg o.wg (fun g => (g.reshape k y.shape).putTile k y.value)))) ∧
      (head (.combRds d c off) → y.pend = none → s.scratchBefore op o = false → y.bad = false → exec (.combCopyComplete op) s = .next
        (copied (s.writeAt o.wg o.tid y.value (.scratch o.wg off)))) ∧
      (head (.combRds d c off) → (y.pend ≠ none ∨ s.scratchBefore op o = true) → exec (.combCopyComplete op) s = .next s) ∧
      (head (.combRds d c off) → y.pend = none → s.scratchBefore op o = false → y.bad = true → y.place < 2 →
        exec (.combCopyComplete op) s = .next (copied s)) ∧
      (head (.combRds d c off) → y.pend = none → s.scratchBefore op o = false → y.bad = true → 2 ≤ y.place →
        exec (.combCopyComplete op) s = .next
          (copied ((s.modWg o.wg (fun g => { g with mq := g.mq.filter (· != op) })).opFault op 0xE4 0))) ∧
      (s.ops.find? (fun e => e.2.wg == wg && e.2.kind == .leave) = some (op, o) → s.combPending wg = false →
        (s.expel wg).windowPending wg = false →
        exec (.combLeaveComplete wg) s = .next (((s.expel wg).endMembership wg).finish op [])) ∧
      (y.st ≠ .free → place < 4 → y.place ≠ place → s.roomAt d y.size place = true →
        exec (.combPlacementMove d c place) s = .next (s.modCell d c (fun y => { y with place := place })).l2Trim)
  )

/-! ## Engine commands -/

/-- Engine commands issue (R317, R318, R320 to R328, R335): the descriptor is read at its alignment (0x2D), raises what its
read finds, and is well formed (0xA0), the barrier named is initialised (0xC8) and can take the charge (0xC7), a multicast's
windows are mapped (0x26) and not revoked (0x27); the thread waits while the bitmap is in use, and else the command stands in the
bitmap and in the queue of its workgroup, its barrier charged with the bytes it will write, within its range (0xC7). That a thread
that waits for its bitmap keeps the descriptor, barrier and receivers that it has checked is the model's reading
(notes/assumptions/95.md; also 40 and 42). Completion bitmaps (R320,
R321, R329): cb.rd gives 64 unit bits, the status word at index 64, or 0; cp.resume raises 0xA1 for a command that was
never issued, waits while it runs, runs the unmarked units of a faulted one again, and else completes at once. -/
def Obligations.EngineCommandsAndBitmaps : Prop :=
  (
    ∀ (c : Ctl) (o : FX) (s : State) (u : Cur) (t opk : Nat) (i : Instr) (bs : List Byte) (g : Workgroup)
        (bar : Option (Nat × Barrier)) (rs : List (Option Nat × Nat)) (s1 : State),
      let va := (s.src u.wg t o.a).toNat
      let d := leNat bs
      let n := o.cb.val
      let charge := unitsCharge opk d 0
      let left := fun (s : State) => s.dropStage (.thread u.wg t)
      let s0 := start s i c u
      let desc := readDesc s0 (ctx i c u t) va (descSize opk)
      let known := (i, opk) ∈ [(Instr.cpTensor c o, 0), (.cpGather c o, 1), (.cpScatter c o, 2), (.cpMcast c o, 3), (.cpFill c o, 4)]
      let read := va % descAlign opk = 0 ∧ desc = (.ok bs, s1) ∧ s.wg u.wg = some g
      let good := badDesc opk d = false
      let named := namedBarrier s1 u.wg o = .ok bar
      let room := ∀ m b, bar = some (m, b) → b.tx + (charge : Int) ≤ 2 ^ 47 - 1
      let targets := (if opk = 3 then receivers g (setBits 64 (s1.src u.wg t o.b).toNat) else .ok []) = .ok rs
      let recv := if opk = 3 then distinctRecv [(none, u.wg)] rs else []
      let st := fun (s : State) => (s.bitmap u.wg n).st
      let guard := if o.xsub.toNat.testBit 13 then some (o.xsub.toNat % 2 ^ 12) else none
      let issued := fun (s : State) (bar : Option Nat) (recv : List (Option Nat × Nat)) =>
        let b : Bitmap := {
          st := if guard.isSome then 5 else 1, opk := opk, units := descUnits opk d, desc := bs, barrier := bar, guard := guard
          recv := recv, tid := t, pc := u.pc, op := s.nextId, hint := c.ch.val }
        let s2 := ((withOp s (opOf s i u t (.engine n) .vz [])).modBitmap u.wg n (fun _ => b)).modWg u.wg
          (fun g => { g with eq := g.eq ++ [s.nextId] })
        goOn (left (match bar with
          | some m => s2.addTx u.wg m charge
          | none => s2)) u.wg t c
      let waits := fun (s : State) (bar : Option Nat) (recv : List (Option Nat × Nat)) =>
        left (s.modThread u.wg t (fun th => { th with hold := some (.command bs bar recv) }))
      known → Alone s i c u t →
        (∀ m r, ((s.thread u.wg t).bind (·.hold)) = some (.command bs m r) →
          (st s0 = 1 ∨ st s0 = 5 → exec i s = .next (waits s0 m r)) ∧
          (st s0 ≠ 1 → st s0 ≠ 5 → s0.overCharged u.wg m charge = false → exec i s = .next (issued s0 m r)) ∧
          (st s0 ≠ 1 → st s0 ≠ 5 → s0.overCharged u.wg m charge = true →
            exec i s = .next (traps (left (s0.modThread u.wg t (fun th => { th with hold := none }))) u t 0xC7 0))) ∧
        (((s.thread u.wg t).bind (·.hold)) = none →
          (va % descAlign opk ≠ 0 → exec i s = .next (traps (left s0) u t 0x2D va)) ∧
          (∀ f a, va % descAlign opk = 0 → desc = (.error (f, a), s1) → f ≠ 0 → exec i s = .next (faulted (left s1) u t f a c)) ∧
          (∀ a, va % descAlign opk = 0 → desc = (.error (0, a), s1) → exec i s = .next s1) ∧
          (read → ¬good → exec i s = .next (traps (left s1) u t 0xA0 0)) ∧
          (∀ f, read → good → namedBarrier s1 u.wg o = .error f → f = 0xC8 ∧ exec i s = .next (traps (left s1) u t 0xC8 0)) ∧
          (read → good → named → ¬room → exec i s = .next (traps (left s1) u t 0xC7 0)) ∧
          (∀ f, read → good → named → room → opk = 3 → receivers g (setBits 64 (s1.src u.wg t o.b).toNat) = .error f →
            (f = 0x26 ∨ f = 0x27) ∧ exec i s = .next (traps (left s1) u t f 0)) ∧
          (read → good → named → room → targets → (st s1 = 1 ∨ st s1 = 5) → exec i s = .next (waits s1 (bar.map (·.1)) recv)) ∧
          (read → good → named → room → targets → st s1 ≠ 1 → st s1 ≠ 5 →
            exec i s = .next (issued s1 (bar.map (·.1)) recv)))
  ) ∧
  (
    ∀ (c : Ctl) (o : F3) (p : FX) (s s1 : State) (u : Cur) (t : Nat) (m : Option (Nat × Barrier)),
      let i := Instr.cpResume c p
      let n := p.cb.val
      let st := (s.bitmap u.wg n).st
      let s0 := start s i c u
      let named := namedBarrier s0 u.wg p = .ok m
      Gives (.cbRd c o) c (fun u => sets u o.d (fun s t =>
        let b := s.bitmap u.wg (o.sub.toNat % 8)
        let j := (s.src u.wg t o.a).toNat % 2 ^ 7
        if j < 64 then ofN (b.bits / 2 ^ (64 * j) % 2 ^ 64) else if j = 64 then b.status else 0)) ∧
      (∀ b : Bitmap, b.st < 16 → b.code < 2 ^ 8 → b.funit < 2 ^ 12 → b.opk < 8 → b.units ≤ 4096 →
        let marked := ((List.range b.units).filter b.bits.testBit).length
        b.status.toNat / 2 ^ 60 = b.st ∧ b.status.toNat / 2 ^ 52 % 2 ^ 8 = b.code ∧ b.status.toNat / 2 ^ 40 % 2 ^ 12 = b.funit ∧
          b.status.toNat / 2 ^ 37 % 2 ^ 3 = b.opk ∧ b.status.toNat / 2 ^ 13 % 2 ^ 13 = marked ∧ b.status.toNat % 2 ^ 13 = b.units) ∧
      (Alone s i c u t → st = 0 → exec i s = .next (traps s0 u t 0xA1 0)) ∧
      (Alone s i c u t → named → (st = 1 ∨ st = 5) → exec i s = .next s0) ∧
      (Alone s i c u t → named → st = 3 → moveCharge s0 u.wg n (m.map (·.1)) = .ok s1 →
        exec i s = .next (goOn (s1.rerun u.wg t n u.pc) u.wg t c)) ∧
      (Alone s i c u t → named → st = 3 → (∃ f, moveCharge s0 u.wg n (m.map (·.1)) = .error f) →
        exec i s = .next (traps s0 u t 0xC7 0)) ∧
      (Alone s i c u t → named → st ≠ 0 → st ≠ 1 → st ≠ 3 → st ≠ 5 →
        exec i s = .next (goOn ((withOp s0 (opOf s0 i u t (.local []) .vz [])).finish s.nextId []) u.wg t c))
  )

/-- R323: element e of a tensor has the index e / (N0 ⋯ N(k−1)) mod Nk in dimension k, and its source and destination
addresses are the bases plus the sum of the indices times the strides, modulo 2^64; a unit takes ⌈elements / 4096⌉
elements in order, the last unit what is left. The engine's events complete (R134, R194, R318, R319, R325): the
command at the head starts, unless its guard slot is not resolved; a guard that resolved false discards it with status
4, its charge removed. A unit goes through the networks with its engine's front end as the source: it asks for the lines it lacks, and
ends when its stores are acknowledged. One whose elements all pass is written, marked, and its bytes lower the barrier; a
skipped row is marked; a unit that faults keeps its bit clear, and writes what the event names; a faulted unit of a multicast is
written where it does not fault, and lowers the barriers of its receivers, the issuer's aside, which is the model's choice
(notes/assumptions/39.md). Bytes that come in lower TX,
and open the barrier as it passes through 0 with every arrival in. -/
def Obligations.TensorTransfers : Prop :=
  (
    ∀ (ds : List (Nat × Int × Int)) (e : Nat) (src dst : Int) (d u : Nat),
      let index := fun (k : Nat) => e / ((ds.take k).map (·.1)).prod % ((ds[k]?).map (·.1)).getD 1
      let stride := fun (f : Nat × Int × Int → Int) (k : Nat) => (index k : Int) * ((ds[k]?).map f).getD 0
      let total := fun (f : Nat × Int × Int → Int) => ((List.range ds.length).map (stride f)).sum
      let n := ((List.range (d / 2 ^ 128 % 16)).map (fun k => d / 2 ^ (256 + 128 * k) % 2 ^ 32)).prod
      let l := (n + 4095) / 4096
      (((tensorAddr ds e src dst).1 : Int) = (src + total (·.2.1)) % 2 ^ 64 ∧
        ((tensorAddr ds e src dst).2 : Int) = (dst + total (·.2.2)) % 2 ^ 64) ∧
      (descCount 0 d = n ∧ unitRange 0 d u = (u * l, min ((u + 1) * l) n) ∧
        (n ≠ 0 → descUnits 0 d = (n + l - 1) / l ∧ descUnits 0 d ≤ 4096))
  ) ∧
  (
    ∀ (s s1 s2 : State) (w id n unit m f a k : Nat) (rest : List Nat) (g : Workgroup) (o : Op) (ms : List Move) (l : List Ready),
      let b := s.bitmap w n
      let head := s.wg w = some g ∧ g.eq = id :: rest ∧ tget s.ops id = some o ∧ o.kind = .engine n
      let popped := s.modWg w (fun g => { g with eq := rest })
      let running := s.wg w = some g ∧ b.st = 1 ∧ b.started = true ∧ unit < b.units ∧ b.bits.testBit unit = false ∧
        b.failed.testBit unit = false ∧ g.resid = .resident ∧ g.saveFor = 0
      let run := s.runUnit w n unit 0 g
      let owner : Owner := .unit b.op unit
      let tried : State := { s with blocked := false, net := some (owner, .engine g.core), wants := [], puts := [] }
      let one := fun (s : State) (r : Ready) => match r with
        | .ok (bs, ps) => ps.foldl (fun (s : State) p => match p with
          | .ok c => s.writeAt w b.tid bs c
          | .error _ => s) s
        | .error _ => s
      let marked := s.modBitmap w n (fun b => { b with bits := b.bits + 2 ^ unit })
      let moves := movesOf s w b.opk (leNat b.desc) unit
      let into := fun (v : Nat) => (v, bytesInto v l)
      let others := (b.recv.map (·.2)).filter (· != w)
      let begins := exec (.engineCommandDispatch w) s =
        .next ((popped.modBitmap w n (fun b => { b with st := 1, started := true })).checkCommand w n)
      (head → g.resid = .resident → b.guard = none → begins) ∧
      (head → g.resid = .resident → b.guard = some k → tget (s.part g.part).guards k = some true → begins) ∧
      (head → g.resid = .resident → b.guard = some k → tget (s.part g.part).guards k = none →
        exec (.engineCommandDispatch w) s = .next s) ∧
      (head → g.resid = .resident → b.guard = some k → tget (s.part g.part).guards k = some false → b.barrier = none →
        exec (.engineCommandDispatch w) s = .next (popped.endCommand w n 4)) ∧
      (head → g.resid = .resident → b.guard = some k → tget (s.part g.part).guards k = some false → b.barrier = some m →
        exec (.engineCommandDispatch w) s = .next ((popped.endCommand w n 4).addTx w m (-(unitsCharge b.opk (leNat b.desc) 0 : Int)))) ∧
      (running → exec (.engineUnitComplete w n unit none) s = .next run) ∧
      (∀ x, s.stage owner = some x → x.writing = true → x.left ≠ 0 → run = s) ∧
      (∀ x, s.stage owner = some x → x.writing = false → x.asked ≠ [] → run = s) ∧
      (∀ x, s.stage owner = some x → x.writing = true → x.left = 0 →
        ((({ s with blocked := false } : State).dropStage owner).unitEnd w n unit x.out).blocked = false →
        run = (({ s with blocked := false } : State).dropStage owner).unitEnd w n unit x.out) ∧
      (∀ out, s.stage owner = none → tried.unitMove w n unit 0 g = (out, s1) → s1.blocked = true →
        run = ({ s with atsAsk := s1.atsAsk } : State).sendWants owner s1.wants) ∧
      (∀ out, s.stage owner = none → tried.unitMove w n unit 0 g = (out, s1) → s1.blocked = false → s1.puts = [] →
        ((({ s1 with net := none, wants := [] } : State).dropStage owner).unitEnd w n unit out).blocked = false →
        run = (({ s1 with net := none, wants := [] } : State).dropStage owner).unitEnd w n unit out) ∧
      (∀ a, moves = (.error (0, a), s1) → s.unitMove w n unit k g = (none, { s1 with blocked := true })) ∧
      (moves = (.error (f, a), s1) → f ≠ 0 → s.unitMove w n unit k g = (some (f, a), s1)) ∧
      (moves = (.ok none, s1) → s.unitMove w n unit k g = s1.lowerFor b [(w, unitCharge b.opk (leNat b.desc) unit)]) ∧
      (moves = (.ok (some ms), s1) → readyMoves w g b ms s1 = (l, false, s2) → firstFault l = none →
        s.unitMove w n unit k g = (l.foldl one s2).lowerFor b ((w :: others).map into)) ∧
      (moves = (.ok (some ms), s1) → readyMoves w g b ms s1 = (l, false, s2) → firstFault l = some (f, a) → b.opk ≠ 3 →
        s.unitMove w n unit k g = (some (f, a), ((l.zipIdx.filter (fun r => k.testBit r.2)).map (·.1)).foldl one s2)) ∧
      (moves = (.ok (some ms), s1) → readyMoves w g b ms s1 = (l, false, s2) → firstFault l = some (f, a) → b.opk = 3 →
        s.unitMove w n unit k g = (some (f, a), ((l.foldl one s2).lowerFor b (others.map into)).2)) ∧
      s.unitEnd w n unit none = marked.checkCommand w n ∧
      s.unitEnd w n unit (some (0xC7, a)) = (marked.unitFault w n unit 0xC7 a).checkCommand w n ∧
      (f ≠ 0xC7 → s.unitEnd w n unit (some (f, a)) =
        ((s.modBitmap w n (fun b => { b with failed := b.failed + 2 ^ unit })).unitFault w n unit f a).checkCommand w n) ∧
      (∀ (x : Barrier) (by_ : Nat), s.wg w = some g → tget g.bars m = some x → -(2 ^ 47) ≤ x.tx - by_ →
        ¬(x.arr = x.exp ∧ 0 < x.tx ∧ x.tx ≤ by_) → s.lowerTx w m by_ =
          (s.modWg w (fun g => { g with bars := tmod g.bars m (fun b => { b with tx := x.tx - by_ }) }), false)) ∧
      (∀ (x : Barrier) (by_ : Nat), s.wg w = some g → tget g.bars m = some x → -(2 ^ 47) ≤ x.tx - by_ → x.arr = x.exp → 0 < x.tx →
        x.tx ≤ by_ → ∃ g', (s.lowerTx w m by_).1.wg w = some g' ∧
          tget g'.bars m = some { x with tx := x.tx - by_, ph := (x.ph + 1) % 2 ^ 32, arr := 0 })
  )

/-! ## The matrix units -/

/-- Tiles, reservation records and accumulators (R361, R364 to R375, R385): ms.set gives a tile register a shape, with
zero bytes, and D the old one (0x80 for a malformed shape); m.ld, m.st, m.zero and acc.clr join the matrix order (0x82
for a tile of no shape, whatever the layout word: the model's reading, notes/assumptions/36.md; 0xE3 where m.ld finds a source
word in error, or m.st a tile that no earlier operation can mend: notes/assumptions/86.md); rsv.alloc takes the lowest free record (0x87), whose number D receives, and rsv.free gives
one up (0x83). The array, the epilogue and the scaling rings issue (R376 to R384): a parameter block that passes the
checks of R377 in their order joins the matrix order with its outlier list, and else raises what they find, or 0xE3 where it finds
an operand in error; epi checks
its block (0x88; which of its offsets count as unused, and that the checks of the cell come last, is the model's reading:
notes/assumptions/38.md) and joins with its scales, biases and scaling maximum; with DEST = 1 it defines a cell as comb.def does
(0x60, 0x65, 0x61, 0x66), or parks at one that drains; mma.q gives the status word; amax.rd asks a
scaling ring's slice, with a push or without, and waits. -/
def Obligations.TilesAndMatrices : Prop :=
  (
    ∀ (c : Ctl) (o : FX) (s : State) (u : Cur) (t p d : Nat) (bs : List Byte) (g : Workgroup) (s1 s2 : State),
      let st := fun (i : Instr) => start s i c u
      let set := Instr.msSet c o
      let al := Instr.rsvAlloc c o
      let fr := Instr.rsvFree c o
      let k := o.mt.val
      let a := (s.src u.wg t o.a).toNat
      let here := s.wg u.wg = some g
      let lay := layoutWord s (ctx (.mLd c o) c u t) o.a
      let joins := fun (i : Instr) (x : TileOp) => exec i s = .next (goOn ((withOp (st i)
        { wg := u.wg, tid := t, core := g.core, cls := some .tl, pc := u.pc, kind := .tile x }).modWg u.wg
          (fun g => { g with mq := g.mq ++ [s.nextId] })) u.wg t c)
      let fresh := s.named u.wg ((st set).markOf (ctx set c u t)) TileOp.tiles k = false
      let claim : Claim := { wg := u.wg, tid := t, reg := some k, tiles := blocksOf a }
      let block := readBlock (st al) (ctx al c u t) a 8 = (.ok d, s1) ∧ s.wg u.wg = some g
      let units := (d / 2 ^ 16 % 2 ^ 16 + 255) / 256
      let full := 16 ≤ g.rsvs.length ∨ 256 < (g.rsvs.map (fun r => unitsOf r.2)).sum + units
      let rec_ : Claim := { wg := u.wg, tid := t, recs := 1, units := units }
      (Alone s set c u t → a ≠ 0 → shapeOk a = false → exec set s = .next (traps (st set) u t 0x80 0)) ∧
      (Alone s set c u t → here → (a = 0 ∨ shapeOk a = true) → fresh →
        (st set).storage u.core u.wg 0 t (if a = 0 then [] else [0]) claim = (true, s1) →
        exec set s = .next (goOn ((s1.modWg u.wg (fun g => { g with
          ms := g.ms.set k (ofN a), tiles := if a = 0 then tdel g.tiles k else tset g.tiles k {} })).put u.wg t o.d (ofN (g.shape k)))
            u.wg t c)) ∧
      (Alone s (.mLd c o) c u t → here → tileAccess (st (.mLd c o)) (ctx (.mLd c o) c u t) k lay = .ok p →
        (st (.mLd c o)).badChunk p (chunkOffs lay (g.shape k)) = none → joins (.mLd c o) (.mld k lay p (((st (.mLd c o)).chunkBytes p (chunkOffs lay (g.shape k))).getD []))) ∧
      (∀ f, Alone s (.mLd c o) c u t → here → tileAccess (st (.mLd c o)) (ctx (.mLd c o) c u t) k lay = .ok p →
        (st (.mLd c o)).badChunk p (chunkOffs lay (g.shape k)) = some f →
        exec (.mLd c o) s = .next (traps (st (.mLd c o)) u t 0xE3 (layoutAddr lay f))) ∧
      (Alone s (.mSt c o) c u t → here → tileAccess (st (.mSt c o)) (ctx (.mSt c o) c u t) k lay = .ok p →
        (g.mq ≠ [] ∨ g.tileBad k = false) → joins (.mSt c o) (.mst k lay p)) ∧
      (Alone s (.mSt c o) c u t → here → tileAccess (st (.mSt c o)) (ctx (.mSt c o) c u t) k lay = .ok p →
        g.mq = [] → g.tileBad k = true → exec (.mSt c o) s = .next (traps (st (.mSt c o)) u t 0xE3 0)) ∧
      (Alone s (.mZero c o) c u t → here → s.shapePending u.wg k = false → g.shape k ≠ 0 → joins (.mZero c o) (.mzero k)) ∧
      (∀ i ∈ [Instr.mLd c o, .mSt c o, .mZero c o], Alone s i c u t → here → s.shapePending u.wg k = false → g.shape k = 0 →
        exec i s = .next (traps (st i) u t 0x82 0)) ∧
      (Alone s (.accClr c o) c u t → here → joins (.accClr c o) (.accClr (a % 2 ^ 8))) ∧
      (∀ f b, Alone s al c u t → here → readBlock (st al) (ctx al c u t) a 8 = (.error (some (f, b)), s1) →
        exec al s = .next (faulted s1 u t f b c)) ∧
      (∀ f b, Alone s al c u t → block → badRecord d = false →
        readOffsets s1 (ctx al c u t) (d / 2 ^ 32 % 2 ^ 18) (d / 2 ^ 16 % 2 ^ 16) = .error (some (f, b)) →
        exec al s = .next (faulted s1 u t f b c)) ∧
      (Alone s al c u t → block → badRecord d = true → exec al s = .next (traps s1 u t 0x87 0)) ∧
      (Alone s al c u t → block → badRecord d = false → full →
        readOffsets s1 (ctx al c u t) (d / 2 ^ 32 % 2 ^ 18) (d / 2 ^ 16 % 2 ^ 16) = .ok bs → exec al s = .next (traps s1 u t 0x87 0)) ∧
      (Alone s al c u t → block → badRecord d = false → ¬full →
        readOffsets s1 (ctx al c u t) (d / 2 ^ 32 % 2 ^ 18) (d / 2 ^ 16 % 2 ^ 16) = .ok bs →
        s1.storage u.core u.wg 0 t [2] rec_ = (true, s2) → exec al s = .next (goOn ((s2.modWg u.wg (fun h => { h with
          rsvs := tset h.rsvs (tfree g.rsvs) { desc := d, bytes := bs } })).put u.wg t o.d (ofN (tfree g.rsvs))) u.wg t c)) ∧
      (Alone s fr c u t → here → thas g.rsvs (a % 16) = true → s.named u.wg ((st fr).markOf (ctx fr c u t)) TileOp.recs (a % 16) = false →
        exec fr s = .next (goOn ((st fr).modWg u.wg (fun g => { g with rsvs := tdel g.rsvs (a % 16) })) u.wg t c)) ∧
      (Alone s fr c u t → here → thas g.rsvs (a % 16) = false → exec fr s = .next (traps (st fr) u t 0x83 0))
  ) ∧
  (
    ∀ (c : Ctl) (o : FX) (s : State) (u : Cur) (t d f a : Nat) (outl : Bool) (list : List Nat) (g : Workgroup) (p : Params)
        (sb bb : List Byte) (s1 : State),
      let st := fun (i : Instr) => start s i c u
      let i := if outl then Instr.outlAdd c o else .mma c o
      let e := Instr.epi c o
      let q := Instr.mmaQ c o
      let r := Instr.amaxRd c o
      let block := fun (i : Instr) => readBlock (st i) (ctx i c u t) (s.src u.wg t o.a).toNat 32 = (.ok d, s1) ∧ s.wg u.wg = some g ∧
        s1.wg u.wg = some g
      let ks := (if outl then [] else [d % 8]) ++ [d / 8 % 8] ++ (if d.testBit 9 then [d / 2 ^ 6 % 8] else [])
      let known := ks.any (s1.shapePending u.wg) = false
      let checked := paramChecks g (s1.eff u.wg).outlier outl d
      let read := readOutliers s1 (ctx i c u t) d = .ok list
      let joined := fun (x : TileOp) => (withOp s1
        { wg := u.wg, tid := t, core := g.core, cls := some .tl, pc := u.pc, kind := .tile x }).modWg u.wg
          (fun g => { g with mq := g.mq ++ [s1.nextId] })
      let joins := fun (i : Instr) (x : TileOp) => exec i s = .next (goOn (joined x) u.wg t c)
      let clear := ¬(g.mq = [] ∧ arrayBad g (s1.eff u.wg).outlier outl d list = true)
      let ns := if d / 2 ^ 12 % 4 = 2 then epiCols d else d / 2 ^ 12 % 4
      let good := badEpi d (o.num.toNat != 0 || o.xsub.toNat.testBit 0) = false
      let m0 := if epiQuant d then ringMax (s1.ring (s1.partOf u.wg) (d / 2 ^ 16 % 2 ^ 6)) else 0
      let idle := fun (i : Instr) (k : OpKind) (dst : Opnd) => withOp (st i) (opOf (st i) i u t k dst [])
      (∀ j ∈ [i, e], Alone s j c u t → s.wg u.wg = some g →
        readBlock (st j) (ctx j c u t) (s.src u.wg t o.a).toNat 32 = (.error (some (f, a)), s1) →
        exec j s = .next (faulted s1 u t f a c)) ∧
      (Alone s i c u t → block i → badParam outl d = true → exec i s = .next (traps s1 u t 0x86 0)) ∧
      (Alone s i c u t → block i → badParam outl d = false → known → checked = .error f → exec i s = .next (traps s1 u t f 0)) ∧
      (Alone s i c u t → block i → badParam outl d = false → known → checked = .ok p → read → listChecks g outl d p list = f → f ≠ 0 →
        exec i s = .next (traps s1 u t f 0)) ∧
      (Alone s i c u t → block i → badParam outl d = false → known → checked = .ok p → read → listChecks g outl d p list = 0 →
        clear → joins i (.mma outl d list)) ∧
      (Alone s i c u t → block i → badParam outl d = false → known → checked = .ok p → read → listChecks g outl d p list = 0 →
        ¬clear → exec i s = .next (traps s1 u t 0xE3 0)) ∧
      (Alone s e c u t → block e → ¬good → exec e s = .next (traps s1 u t 0x88 0)) ∧
      (Alone s e c u t → block e → good →
        readOffsets s1 (ctx e c u t) (d / 2 ^ 64 % 2 ^ 18) (4 * ns) = .ok sb →
        readOffsets s1 (ctx e c u t) (d / 2 ^ 96 % 2 ^ 18) (if d.testBit 14 then 4 * epiCols d else 0) = .ok bb →
        epiOut s1 u.wg d = none →
        let x := TileOp.epi d (words32 ns sb) (words32 (bb.length / 4) bb) m0
        let n := cellOf s1 (ctx e c u t) o
        (d.testBit 3 = false → joins e (x none)) ∧
        (d.testBit 3 = true → s1.member u.wg = none → exec e s = .next (traps s1 u t 0x60 0)) ∧
        (∀ dir, d.testBit 3 = true → s1.member u.wg = some dir →
          let y := x (some (dir, n))
          (shapeOk (epiShape d) = false → exec e s = .next (traps s1 u t 0x65 0)) ∧
          (shapeOk (epiShape d) = true → (s1.cell dir n).st = .defined → exec e s = .next (traps s1 u t 0x61 0)) ∧
          (shapeOk (epiShape d) = true → (s1.cell dir n).st = .draining →
            exec e s = .next ((joined y).parkCell (ctx e c u t) dir n false y (epiShape d) (some s1.nextId))) ∧
          (∀ s2, shapeOk (epiShape d) = true → (s1.cell dir n).st = .free →
            (joined y).define dir n u.wg (epiShape d) s1.nextId = some s2 → exec e s = .next (goOn s2 u.wg t c)) ∧
          (shapeOk (epiShape d) = true → (s1.cell dir n).st = .free →
            (joined y).define dir n u.wg (epiShape d) s1.nextId = none → exec e s = .next (traps s1 u t 0x66 0)))) ∧
      (Alone s q c u t → exec q s = .next (goOn (((withOp (st q)
        { wg := u.wg, tid := t, core := u.core, cls := some .tl, pc := u.pc, kind := .local [] }).finish s.nextId []).put u.wg t o.d
          (mmaStatus s u.wg)) u.wg t c)) ∧
      (Alone s r c u t → exec r s = .next (((idle r .ring o.d).askRing (.core u.core) (s.partOf u.wg)
        ((s.src u.wg t o.a).toNat % 2 ^ 6) (if o.xsub.toNat.testBit 0 then some ((s.src u.wg t o.b).toNat % 2 ^ 31) else none)
        s.nextId).holdFor (ctx r c u t) s.nextId))
  )

/-- R221, R223, R366, R378: one entry of an mma. In the plain integer formats the entry is its old value, or 0 with the
clear bit, plus the exact products of the signed elements, modulo 2^56; an entry of a mode with groups adds each
group's term, the product of the two scales and the exact integer of the group, rounded in order, and then the terms of the
outliers. The matrix units'
events complete (R363 to R367, R371, R378, R383 to R385): with its storage on the core, the operation at the head of a
workgroup's order takes its effect on tile, accumulator or scratchpad, waits for a saved peer, or ends in 0xE3 where it
reads a word with an uncorrectable error (a deferred fault, as the thread has gone on: the model's reading,
notes/assumptions/86.md); an epilogue whose cell's definition is not admitted, or whose push is on its way, waits; a request at a
scaling ring's slice pushes and answers with the largest entry, which D receives; the oldest claim is granted when it fits, and one that has waited 4,096 cycles takes the storage of
others. -/
def Obligations.ArrayOrderAndMatrixEvents : Prop :=
  (
    ∀ (d : Nat) (ra rw : RsvRec) (woff i j old : Nat) (as bs list : List Nat),
      let z := if d.testBit 10 then 0 else old
      let w := fmtWidth ra.fmt
      (ra.fmt = 3 ∨ ra.fmt = 4 → rw.fmt = ra.fmt → old < 2 ^ 56 →
        let r := mmaEntry d ra rw woff i j as bs list old
        r.2 = true ∧ (r.1 : Int) =
          ((z : Int) + ((as.zip bs).map (fun (e : Nat × Nat) => signExt e.1 w * signExt e.2 w)).sum) % 2 ^ 56) ∧
      (∀ wa wb, groupInt wa wb as bs =
        ((as.zip bs).map (fun (e : Nat × Nat) => ((e.1 : Int) - (wa / 2 ^ 16 % 2 ^ 8 : Nat)) * ((e.2 : Int) - (wb / 2 ^ 16 % 2 ^ 8 : Nat)))).sum) ∧
      (grouped ra.fmt = true →
        let ng := as.length / ra.glen
        let wa := (List.range ng).map (fun n => ra.word (d / 2 ^ 64 % 2 ^ 16 + 4 * (i * ng + n)))
        let wb := (List.range ng).map (fun n => rw.word (woff + 4 * (j * ng + n)))
        mmaEntry d ra rw woff i j as bs list old = (addOutliers rw woff j i bs list (addGroups ra.glen wa wb z as bs), false)) ∧
      (∀ glen wa wb was wbs acc, addGroups glen (wa :: was) (wb :: wbs) acc as bs = addGroups glen was wbs
        (addA56 acc (((decodeF .f16 wa).mul (decodeF .f16 wb)).mul (FP.ofInt (groupInt wa wb (as.take glen) (bs.take glen)))))
        (as.drop glen) (bs.drop glen)) ∧
      (∀ glen acc, addGroups glen [] [] acc as bs = acc) ∧
      (ra.fmt < 3 → list = [] → mmaEntry d ra rw woff i j as bs list old =
        ((as.zip bs).foldl (fun acc (e : Nat × Nat) => addA56 acc (productOf ra.fmt e.1 e.2)) z, false))
  ) ∧
  (
    ∀ (s s1 : State) (w id d m0 core ring part v : Nat) (x : TileOp) (outl : Bool) (list sc bi : List Nat) (o : Op) (g : Workgroup)
        (cl : Claim),
      let head := fun (x : TileOp) => s.headTile w = some (id, o, x) ∧ s.wg w = some g ∧ s.tileStorage g id o x = (true, s1)
      let first := (s.core core).claims.find? (fun c => !c.granted)
      let parked := fun (cell : Option (Nat × Nat)) => match cell with
        | some (dir, c) => (s.cell dir c).definers.any (fun x => x.id == some id)
        | none => false
      let spoilt := ((tget g.accs (d % 4)).map (fun a => a.badRegion (epiRows d) (epiCols d))).getD false
      let wins := s.modCore core (fun k => { k with claims := k.claims.map (fun x => if x == cl then { x with granted := true } else x) })
      let old := (s.ring part ring).1
      let others := (sortBy (fun a b => decide (b.2.placedAt < a.2.placedAt) || (a.2.placedAt == b.2.placedAt && decide (b.1 ≤ a.1)))
        (s.wgs.filter (fun e => e.2.core == core && e.1 != cl.wg && e.2.resid != .saved))).map (·.1)
      (head x → (∃ k lay p old, x = .mld k lay p old) ∨ (∃ k lay p, x = .mst k lay p) ∨ (∃ k, x = .mzero k) ∨ (∃ a, x = .accClr a) →
        s.peerAway w x = false → exec (.tileTransferComplete w) s = .next (moveTile s1 ((s1.wg w).getD g) id o x)) ∧
      (s.headTile w = some (id, o, x) → s.wg w = some g → s.peerAway w x = true →
        exec (.tileTransferComplete w) s = .next s) ∧
      (head (.mma outl d list) → arrayBad ((s1.wg w).getD g) (s1.eff w).outlier outl d list = true →
        exec (.mmaComplete w) s = .next (s1.failTile w id 0xE3)) ∧
      (head (.mma outl d list) → arrayBad ((s1.wg w).getD g) (s1.eff w).outlier outl d list = false → exec (.mmaComplete w) s = .next ((s1.modWg w (fun g => { g with
        mdone := (g.mdone + 1) % 2 ^ 24
        accs := tset g.accs (d / 2 ^ 11 % 4) (arrayEffect g outl d list ((tget g.accs (d / 2 ^ 11 % 4)).getD {})) })).endTile w id)) ∧
      (∀ cell, head (.epi d sc bi m0 cell) → parked cell = false → o.pieces = [] → spoilt = true →
        exec (.epiComplete w) s = .next (epiFails s1 id o cell)) ∧
      (∀ cell, head (.epi d sc bi m0 cell) → parked cell = false → o.pieces = [] → spoilt = false →
        exec (.epiComplete w) s = .next (epiEffect s1 ((s1.wg w).getD g) id o d sc bi m0 cell)) ∧
      (∀ cell, s.headTile w = some (id, o, .epi d sc bi m0 cell) → s.wg w = some g → (parked cell = true ∨ o.pieces ≠ []) →
        exec (.epiComplete w) s = .next s) ∧
      (old.length = 16 → (s.ring part ring).2 < 16 → ∃ y s2, s.ringAt part ring (some v) =
          (some (0, leBytes 4 (y.1.foldl (fun m e => max m e.toNat) 0), []), s2) ∧
        s2 = s.modPart part (fun q => { q with rings := tset q.rings ring y }) ∧
        y.2 = ((s.ring part ring).2 + 1) % 16 ∧
        y.1 = old.set (s.ring part ring).2 (BitVec.ofNat 32 (min (v % 2 ^ 31) 0x7F800000))) ∧
      (s.ringAt part ring none = (some (0, leBytes 4 (old.foldl (fun m e => max m e.toNat) 0), []), s)) ∧
      (∀ n va data, tget s.ops id = some o → o.kind = .ring →
        s.opAnswered id n va 0 data = s.finish id (o.dst.map (fun e => (e, ofN (leNat data))))) ∧
      (∀ p k q, s.pkts = [(p, k)] → tget s.reqs k.req = some q → q.part = part → q.kind = .atomic (.ring ring (some v)) →
        exec (.scalingRingPush part) s = exec (.sliceRequest p) s) ∧
      (s.pkts = [] → exec (.scalingRingPush part) s = .next s) ∧
      (first = none → exec (.matrixClaimGrant core) s = .next s) ∧
      (first = some cl → s.claimFits core cl = false → exec (.matrixClaimGrant core) s = .next s) ∧
      (first = some cl → s.claimFits core cl = true → exec (.matrixClaimGrant core) s = .next (wins.vacate (core / 8) 0)) ∧
      (first = some cl → (s.now < cl.since + 4096 ∨ s.claimFits core cl = true) → exec (.matrixEviction core) s = .next s) ∧
      (first = some cl → cl.since + 4096 ≤ s.now → s.claimFits core cl = false →
        exec (.matrixEviction core) s = .next ((s.evictFor core cl others).grantClaim core))
  )

/-! ## Launches -/

/-- Engine instructions of the graph, guards, device-side launches and waggles (R194, R195, R203, R330 to R334): dg.node
and dg.go wait for the thread's earlier stores; dg.node sends its decrement; dg.go over no nodes does nothing, raises
0xB2 in a launch that is itself a child and 0xB3 for a child index taken, and else starts its array (its thread is parked
while the host is asked for one of the array's pages); eng.guard
resolves or clears a slot (0xB6 for the other value); lq.push makes a child (0xB2, 0xB3); wag.send sends to a hive of
the partition (0xB7). Doorbells and ring commands (R185 to R188, R190, R191, R194): a doorbell sets TAIL of a
registered queue whose ring has room (0xB0, 0xB1), once the host's earlier writes are through (the model's reading,
notes/assumptions/70.md), and lets a stopped queue take commands again unless its STOPPED flag stands; the command at the head runs when it may start and its guard is true: a NOP completes, a LAUNCH resolves
its kernel and NSEQ advances, a GRAPH starts its array, a DIGEST-RESET clears the digest fields; under a false guard
it is discarded, and a malformed one fails. -/
def Obligations.LaunchInstructionsAndRings : Prop :=
  (
    ∀ (c : Ctl) (o : FX) (s : State) (u : Cur) (t ad : Nat) (ph : Phys) (g : Workgroup) (l : Launch) (ns : List (Nat × Nat))
        (s1 s2 : State),
      let node := Instr.dgNode c o
      let go := Instr.dgGo c o
      let gd := Instr.engGuard c o
      let push := Instr.lqPush c o
      let wag := Instr.wagSend c o
      let st := fun (i : Instr) => start s i c u
      let faults := fun (i : Instr) (s : State) (f a : Nat) => exec i s = .next (traps (start s i c u) u t f a)
      let a := (s.src u.wg t o.a).toNat
      let b := (s.src u.wg t o.b).toNat
      let b1 := (s.src u.wg t (Opnd.plus o.b 1)).toNat
      let part := s.partOf u.wg
      let here := s.wg u.wg = some g ∧ s.launchOf u.wg = some l
      let stored := fun (i : Instr) => (st i).doneOwn u.wg t .st ((st i).markOf (ctx i c u t)) = true
      let opened := fun (s : State) (i : Instr) (k : OpKind) => withOp s (opOf s i u t k .vz [])
      let n := b % 2 ^ 16
      let i0 := b / 2 ^ 32 % 2 ^ 16
      let slot := a % 2 ^ 12
      let v := o.xsub.toNat % 4
      let held := tget (s.part part).guards slot
      let free := ¬(65535 < i0 + n) ∧ ∀ i ∈ l.children, ¬(i0 ≤ i ∧ i < i0 + n)
      let s3 := withOp { ({ s1 with blocked := false } : State).modLaunch g.launch (fun l => { l with children := (List.range n).map (i0 + ·) ++ l.children }) with
        nextId := s1.nextId + 1 } { wg := u.wg, tid := t, core := u.core, cls := some .cp, pc := u.pc, kind := .graphGo s1.nextId, hint := c.ch.val }
      let run : GraphRun := { part := g.part, queue := l.queue, priv := l.priv, asid := l.eff.asid, root := l.eff.ptroot,
                              seq := l.lseq, base := a, count := n, issuer := some (g.launch, s1.nextId + 1), i0 := i0 }
      let b0 := (s.src u.wg t (Opnd.plus o.b 0)).toNat
      let grid := (b0 % 2 ^ 28, b0 / 2 ^ 28 % 2 ^ 16, b0 / 2 ^ 44 % 2 ^ 16)
      let hive := a % 2 ^ 5
      let dst := ((s.part part).home[(8 * hive + a / 2 ^ 8 % 2 ^ 8 % 8) % 256]?).getD 0
      let x := ctx go c u t
      let looks := fun (r : Option (Nat × Nat)) => x.asks (st go) (fun s => arrayChecks s u.wg a (64 * n)) = (r, s1)
      let after := (x.asks s2 (fun s => ((), s.startArray s1.nextId run ns))).2
      (Alone s node c u t → check (st node) u.wg [t] a 64 64 .atomic Aper.g false = (.glob ad ph, s1) →
        s1.doneOwn u.wg t .st ((st node).markOf (ctx node c u t)) = true →
        exec node s = .next (goOn ((opened s1 node (.node (s1.partOf u.wg))).modPart (s1.partOf u.wg) (fun q => { q with
          preds := q.preds ++ [{ node := ad, asid := (s1.eff u.wg).asid, root := (s1.eff u.wg).ptroot
                                 queue := (s1.launchOf u.wg).bind (·.queue), priv := s1.priv u.wg, op := some s1.nextId }] })) u.wg t c)) ∧
      (Alone s go c u t → here → n = 0 → exec go s = .next (goOn (st go) u.wg t c)) ∧
      (Alone s go c u t → here → n ≠ 0 → a % 64 ≠ 0 → faults go s 0x2D a) ∧
      (Alone s go c u t → here → n ≠ 0 → a % 64 = 0 → looks none → l.lseq % 65536 ≠ 0 →
        exec go s = .next (traps s1 u t 0xB2 0)) ∧
      (Alone s go c u t → here → n ≠ 0 → a % 64 = 0 → looks none → l.lseq % 65536 = 0 →
        ¬free → exec go s = .next (traps s1 u t 0xB3 0)) ∧
      (Alone s go c u t → here → n ≠ 0 → a % 64 = 0 → looks none → l.lseq % 65536 = 0 →
        free → s1.doneOwn u.wg t .st ((st go).markOf (ctx go c u t)) = true →
        x.asks s3 (fun s => graphArray s run n a) = (.ok ns, s2) → after.blocked = false → exec go s = .next (goOn after u.wg t c)) ∧
      (∀ f va, Alone s go c u t → here → n ≠ 0 → a % 64 = 0 → looks (some (f, va)) → f ≠ 0 →
        exec go s = .next (faulted s1 u t f va c)) ∧
      (∀ va, Alone s go c u t → here → n ≠ 0 → a % 64 = 0 → looks (some (0, va)) → exec go s = .next (s1.parkHost u.wg [t])) ∧
      (Alone s gd c u t → stored gd → v < 2 → held = some (decide (v = 0)) → faults gd s 0xB6 slot) ∧
      (Alone s gd c u t → stored gd → v < 2 → held ≠ some (decide (v = 0)) → exec gd s = .next (goOn
        (((opened (st gd) gd (.guard part slot v)).modPart part (fun q => { q with
          guards := tset q.guards slot (v == 1) })).finish s.nextId []) u.wg t c)) ∧
      (Alone s gd c u t → stored gd → v = 2 → exec gd s = .next (goOn
        (((opened (st gd) gd (.guard part slot v)).modPart part (fun q => { q with
          guards := tdel q.guards slot })).finish s.nextId []) u.wg t c)) ∧
      (Alone s push c u t → here → l.lseq % 65536 ≠ 0 → faults push s 0xB2 0) ∧
      (Alone s push c u t → here → l.lseq % 65536 = 0 → (b1 % 2 ^ 16 = 65535 ∨ b1 % 2 ^ 16 ∈ l.children) → faults push s 0xB3 0) ∧
      (Alone s push c u t → here → l.lseq % 65536 = 0 → b1 % 2 ^ 16 ≠ 65535 → b1 % 2 ^ 16 ∉ l.children → exec push s = .next (goOn
        ((opened ((st push).modLaunch g.launch (fun l => { l with children := b1 % 2 ^ 16 :: l.children })) push
          (.push (u.core / 64) g.launch (b1 % 2 ^ 16) a grid (ofN (b1 / 2 ^ 16)))).admitPush (u.core / 64)) u.wg t c)) ∧
      (Alone s wag c u t → a.testBit 63 = false → hive ∉ (s.part part).hives → faults wag s 0xB7 0) ∧
      (Alone s wag c u t → a.testBit 63 = false → hive ∈ (s.part part).hives →
        let s4 := opened (st wag) wag (.mem .store)
        let r := s4.send { src := .core u.core, dst := dst, part := part, n := 64, va := 0, op := some s.nextId
                           kind := .atomic (.waggle hive (a / 2 ^ 8 % 2 ^ 8) ((List.range 8).map (fun j => s.src u.wg t (Opnd.plus o.b j)) ++
                             [ofN (u.core % 256 + (s.wgName u.wg).1 % 2 ^ 24 * 2 ^ 8 + t % 2 ^ 11 * 2 ^ 32)]))
                           ph := { pa := 64 * s.nextId, cache := 2 }, launch := (s.wg u.wg).map (·.launch) }
        exec wag s = .next (goOn (r.2.setPieces s.nextId [{ va := 0, n := 0, loc := .net r.1 }]) u.wg t c))
  ) ∧
  (
    ∀ (s s1 s2 s3 : State) (p q value c k l asid root : Nat) (h : HeadCmd) (ns : List (Nat × Nat)) (qu : Queue) (nd : Node),
      let s0 : State := { s with blocked := false }
      let ev := fun (k : Nat) => if k = 0 then Instr.ringCommandNop p q else if k = 1 then .ringCommandLaunch p q
        else if k = 2 then .ringCommandGraph p q else .ringCommandDigestReset p q
      let head := s0.headCmd p q = (some h, s1) ∧ h.cmd = .ok c ∧ c / 2 ^ 56 % 2 ^ 8 = k ∧ k ≤ 3 ∧ h.mayStart s1 p q c = true
      let good := badCommand c = false
      let on := s1.guardOf p c = some true
      let gives := fun (t : State) => t.blocked = false → exec (ev k) s = .next t
      let a := c / 2 ^ 64 % 2 ^ 64
      let seq := h.node.f 1471 1408
      let asks : Ask := { part := p, queue := some q, rcb := a, lseq := seq, origin := .command q h.index, priv := h.qu.priv }
      let rings := (s.part p).vf = true ∧ s.hostForwards p = false ∧ tget (s.part p).queues q = some qu ∧
        (s.part p).registered q = true ∧ readNode s0 p qu.node = (.ok nd, s1) ∧ nd.rings q = true
      let bells := fun (t : State) => t.blocked = false → exec (.doorbell p q value) s = .next t
      let dist := wrapN ((value : Int) - (nd.f 1567 1536 : Nat)) 32
      let belled := putNode s1 p qu.node 196 (leBytes 4 value)
      let run : GraphRun := { part := p, queue := some q, priv := h.qu.priv, asid := asid, root := root, seq := seq, base := a,
                              count := c / 2 ^ 128 % 2 ^ 32 }
      (rings → dist ≤ 2 ^ nd.f 1652 1648 → nd.r.testBit 1663 = false → bells
        (belled.modPart p (fun x => { x with queues := tmod x.queues q (fun y => { y with halted := false }) }))) ∧
      (rings → dist ≤ 2 ^ nd.f 1652 1648 → nd.r.testBit 1663 = true → bells belled) ∧
      (rings → 2 ^ nd.f 1652 1648 < dist → bells
        (s1.event p 0xB1 (q % 256 + value % 2 ^ 32 * 2 ^ 32))) ∧
      ((s.part p).vf = true → s.hostForwards p = false → tget (s.part p).queues q = none →
        bells (s0.event p 0xB0 (q % 256))) ∧
      (head → badCommand c = true → gives ((s1.takeCmd p q h none).failCmd p q h none 0xB0)) ∧
      (head → good → s1.guardOf p c = none → exec (ev k) s = .next (if s1.blocked then s.asked s1 else s1)) ∧
      (head → good → on → k = 0 → gives ((s1.takeCmd p q h none).commandDone p q h.index)) ∧
      (head → good → s1.guardOf p c = some false → k ≠ 1 → gives ((s1.takeCmd p q h none).commandDone p q h.index)) ∧
      (head → good → on → k = 1 → s1.launchesFull p = false → resolve (s1.takeCmd p q h none) asks = (.ok l, s2) →
        gives ((putNode s2 p h.qu.node 176 (leBytes 8 (seq + 2 ^ 32))).completeEmpty l)) ∧
      (head → good → s1.guardOf p c = some false → k = 1 → s1.launchesFull p = false →
        resolve (s1.takeCmd p q h none) { asks with grid := some (0, 0, 0) } = (.ok l, s2) →
        gives ((putNode s2 p h.qu.node 176 (leBytes 8 (seq + 2 ^ 32))).completeEmpty l)) ∧
      (head → good → on → k = 2 →
        nodeSpace (({ s1 with nextId := s1.nextId + 1 } : State).takeCmd p q h (some s1.nextId)) p h.qu.node = (.ok (asid, root), s2) →
        graphArray s2 run run.count run.base = (.ok ns, s3) →
        gives ((putNode s3 p h.qu.node 176 (leBytes 8 (seq + 2 ^ 32))).startArray s1.nextId run ns)) ∧
      (head → good → on → k = 3 →
        let t := putNode (putNode (putNode (s1.takeCmd p q h none) p h.qu.node 224 (List.replicate 32 0)) p h.qu.node 200
          (List.replicate 5 0)) p h.qu.node 207 [if c.testBit 54 then 0x10 else 0]
        gives ((t.modPart p (fun x => { x with queues := tmod x.queues q (fun y => { y with
          logFull := false, replayed := [] }) })).commandDone p q h.index))
  )

/-- The life of a launch (R145, R188, R193, R195 to R199, R203): a decrement of PRED at 0 is the event 0xB4, and to 0
starts the node; one that cannot write is an event; a die takes its oldest push; the distributor gives the next workgroup of the first launch of its
order to its core, and the workgroup starts when its granules are clear; a launch long at the top without a placement
reserves its cores; the lowest link that is ready is hashed into H; the handler of a waggle that has reached its hive is
launched. A workgroup ends,
is saved and comes back (R189, R398 to R405): once its threads have exited and its operations have ended it retires,
and the launch completes with its last; a save delivers what its threads are to meet, waits until the workgroup is
quiet, then spills its frames, waits for their records, and writes its sections, and the workgroup is saved; a restore whose section fails its check tears the workgroup down with 0xB9, and one that
passes clears the workgroup's granules before it issues. What a save and a restore wait for is the model's reading
(notes/assumptions/52.md), and so is the argument of the event that marks a section bad (notes/assumptions/53.md). -/
def Obligations.LaunchesAndWorkgroups : Prop :=
  (
    ∀ (s s1 s2 : State) (p q die lid c w l k : Nat) (la : Launch) (g : Workgroup) (e : Pred) (rest : List Pred) (ch : Child)
        (cs : List Child) (wa : Waggle) (qu : Queue) (lw : LinkWait),
      let fresh := fun (s : State) => ({ s with blocked := false } : State)
      let gives := fun (i : Instr) (t : State) => t.blocked = false → exec i s = .next t
      let popped := (fresh s).modPart p (fun q => { q with preds := rest })
      let pred := fun (r : Except Nat Nat) => (s.part p).preds = e :: rest ∧ e.start = false ∧ e.op = none ∧
        popped.decrement p e = (r, s1)
      let took : State := { fresh s with lqs := tset s.lqs die cs, lqPlaced := tset s.lqPlaced die 0 }
      let asks : Ask := { part := ch.part, queue := ch.queue, rcb := ch.rcb, lseq := ch.lseq % 2 ^ 64, origin := .child ch.launch,
                          priv := ch.priv, grid := some ch.grid, ks := [(63, ch.k63)] }
      let h := (fresh s).nodeBits p qu.node
      (pred (.ok 0) → gives (.graphPredDecrement p) (s1.event p 0xB4 e.node)) ∧
      (1 < k → pred (.ok k) → gives (.graphPredDecrement p) s1) ∧
      (pred (.ok 1) → gives (.graphPredDecrement p) (s1.startNode p e)) ∧
      (∀ f, f ≠ 0 → pred (.error f) → gives (.graphPredDecrement p) (s1.event p f e.node)) ∧
      (∀ bs pl t, readSys s p e.asid e.root e.node 64 = (.ok bs, s1) → leNat bs / 2 ^ 336 % 2 ^ 32 = k →
        sysPart s1 p e.asid e.root (e.node + 42) .atomic = (.ok pl, s2) →
        (k = 0 → s.decrement p e = (.ok 0, s2)) ∧
        (k ≠ 0 → writeSys s2 p e.asid e.root (e.node + 42) (leBytes 4 (k - 1)) = (.ok (), t) → s.decrement p e = (.ok k, t)) ∧
        (∀ f, k ≠ 0 → writeSys s2 p e.asid e.root (e.node + 42) (leBytes 4 (k - 1)) = (.error f, t) →
          s.decrement p e = (.error f, t))) ∧
      (s.lq die = ch :: cs → ch.part = p → s.launchesFull p = false → resolve took asks = (.ok l, s2) →
        gives (.launchQueueTake p die) (((s2.modLaunch l (fun x => { x with die := some die })).completeEmpty l).admitPush die)) ∧
      (s.now < (tget s.placeAt die).getD 0 → exec (.workgroupPlace die) s = .next s) ∧
      ((tget s.placeAt die).getD 0 ≤ s.now → s.nextPlacement die = some (lid, la, c) → s.place lid la c = some s1 →
        exec (.workgroupPlace die) s = .next s1) ∧
      (tget s.launches lid = some la → la.placed < la.total →
        max (la.resolvedAt + (15 - la.eff.prio) * 65536) la.lastPlaced + 65536 ≤ s.now →
        exec (.priorityReserve lid) s = .next (s.modLaunch lid (fun l => { l with reserved := true }))) ∧
      (s.wg w = some g → g.resid = .clearing → g.clearAt ≤ s.now →
        (g.grans = [] ∨ ∀ x ∈ s.onCore g.core, ¬(x.2.resid = .clearing ∧ x.2.clearAt < g.clearAt)) →
        let started := s.modWg w (fun g => { g with
          resid := .resident, threads := g.threads.map (fun th => { th with readyAt := s.now }) })
        exec (.granuleClearComplete w) s = .next (if (tget s.launches g.launch).any (fun l => l.origin == .waggle)
          then started.discard g.core .ls (fun _ => true) else started)) ∧
      (tget (s.part p).queues q = some qu → s.nextLink p q qu = some lw → gives (.digestLinkAppend p q)
        ((putNode h.2 p qu.node 224 (sha3 (leBytes 32 (h.1 / 2 ^ 1792 % 2 ^ 256) ++ leBytes 8 lw.lseq ++ lw.digest))).modPart p
          (fun x => { x with queues := tmod x.queues q (fun y => { y with links := y.links.erase lw }) }))) ∧
      ((s.part p).waggles.find? (·.here) = some wa →
        let s1 := (fresh s).modPart p (fun q => { q with waggles := q.waggles.filter (fun e => e.id != wa.id) })
        ∀ n s2 s3 b, readNode s1 p (s1.part p).rootRcb = (.ok n, s2) →
          readSys s2 p (s1.part p).rootAsid (s1.part p).rootPt (n.f 1727 1664 + 8 * wa.n) 8 = (.ok b, s3) →
          ((leNat b).testBit 0 = false → gives (.waggleHandlerLaunch p)
            (s3.event p 0xB7 (wa.n % 256 + wa.hive % 32 * 256) wa.ltag)) ∧
          (∀ s4, (leNat b).testBit 0 = true → resolve s3
              { part := p, queue := none, rcb := leNat b / 256 * 256, lseq := 0, origin := .waggle, priv := false
                grid := some (1, 1, 1), hiveOnly := some wa.hive, handler := true
                ks := wa.regs.zipIdx.map (fun e => (e.2, e.1)) } = (.ok l, s4) → gives (.waggleHandlerLaunch p) s4))
  ) ∧
  (
    ∀ (s s1 : State) (w core i : Nat) (g : Workgroup) (l : Launch),
      let s0 := ({ s with blocked := false } : State).endMembership w
      let gone : State := { s0 with wgs := tdel s0.wgs w, ops := s0.ops.filter (fun e => e.2.wg != w) }
      let freed := gone.modCore g.core (fun k => { k with
        claims := k.claims.filter (fun c => c.wg != w), needs := k.needs.filter (fun n => n.2.1 != w)
        latches := k.latches.filter (fun l => l.wg != w) })
      let ended := (freed.grantClaims g.core (freed.core g.core).claims.length).modLaunch g.launch (fun l => { l with
        retired := l.retired + 1, faulted := l.faulted || (g.lostWork || g.torn) })
      let spent := s.wg w = some g ∧ s.spent w g = true ∧ s.combPending w = false ∧ s.windowPending w = false ∧
        (s.launchForwards g.launch = true → ∀ x, tget s.launches g.launch = some x → x.retired + 1 ≠ x.total)
      let back := s.wg w = some g ∧ s.launchOf w = some l ∧ g.resid = .saved ∧ g.wantBack = true ∧ s.firstBack g = true ∧
        core ∈ s.homeCores g l ∧ s.fitsCore l core = true ∧ s.reservedFrom g.launch l core = false ∧ g.mq.all s.parkedEpi = true ∧
        s.entriesDue w g = false
      let all := List.range g.threads.length
      let late := g.which (fun th => th.st == .run && !th.faults.isEmpty && !th.waitsOp)
      let spilled := all.foldl (spillThread w ((g.threads.map (fun th => th.frames.length)).sum + 1)) (true, s)
      let kept := (({ s1 with blocked := false } : State).keepSources w).dropReads w g.core
      let written := (kept.sections w).foldl (fun (s : State) x => s.writeSection w x) kept
      let left := (({ written with nextId := written.nextId + 1 } : State).modWg w (fun g => { g with
        resid := .saved, savedAt := written.nextId, evicted := []
        threads := g.threads.map (Thread.saved written.now) })).modCore g.core (fun k => { k with
          claims := k.claims.filter (fun c => c.wg != w), needs := k.needs.filter (fun x => x.2.1 != w)
          latches := k.latches.filter (fun l => l.wg != w) })
      let saved := (left.grantClaims g.core (left.core g.core).claims.length).grantLanes g.core
      let posted := if g.saveFor = 3 then
        saved.post g.part { kind := 4, cause := 0, ltag := (saved.wgName w).1, wgidx := (saved.wgName w).2 } else saved
      let again := fun (s : State) =>
        let grans := s.freeScratch core g.grans.length
        let s := (((s.modWg w (fun h => { h with
          resid := .clearing, core := core, grans := grans, wantBack := false, saveFor := 0, placedAt := s.now
          clearAt := if grans.isEmpty then s.now else s.clearFrom core + 64 * grans.length, evicted := [0, 1, 2]
          threads := h.threads.map (fun (th : Thread) => { th with
            readyAt := s.now
            st := match th.st with
              | .parked (.sleep n) => .parked (.sleep (s.now + n))
              | st => st }) })).vacate (core / 8) 1).discard core .ls (fun _ => true)).modSources w (fun _ => none)
        let s := all.foldl (fun (s : State) t => s.backThread w t) s
        let s := all.foldl (fun (s : State) t => (s.backUnwind w t).backFaults w t) s
        ({ s with ops := s.ops.map (fun (e : Nat × Op) => if e.2.wg == w then (e.1, { e.2 with core := core }) else e) } :
          State).settleHost g.part
      let fails := fun (s : State) (i : Nat) =>
        ((s.teardown w).event g.part 0xB9 i (s.wgName w).1 (s.wgName w).2).settleHost g.part
      let fresh : State := { s with blocked := false }
      let asked := s.wg w = some g ∧ g.saveFor ≠ 0 ∧ g.resid = .resident
      let gives := fun (i : Instr) (t : State) => t.blocked = false → exec i s = .next t
      (spent → tget ended.launches g.launch = some l → l.retired ≠ l.total → ended.blocked = false →
        exec (.workgroupRetire w) s = .next (ended.settleHost g.part)) ∧
      (spent → tget ended.launches g.launch = some l → l.retired = l.total → (ended.completeLaunch g.launch).blocked = false →
        exec (.workgroupRetire w) s = .next ((ended.completeLaunch g.launch).settleHost g.part)) ∧
      (s.wg w = some g → s.spent w g = false → exec (.workgroupRetire w) s = .next s) ∧
      (s.wg w = some g → g.saveFor = 0 → exec (.workgroupSave w) s = .next s) ∧
      (asked → late ≠ [] → exec (.workgroupSave w) s = .next (late.foldl (fun (s : State) t => s.deliverDeferred w t) s)) ∧
      (asked → late = [] → s.quiet w g = false → exec (.workgroupSave w) s = .next s) ∧
      (asked → late = [] → s.quiet w g = true → spilled = (false, s1) → exec (.workgroupSave w) s = .next s1) ∧
      (asked → late = [] → s.quiet w g = true → spilled = (true, s1) → s1.storesOut w = true →
        exec (.workgroupSave w) s = .next s1) ∧
      (asked → late = [] → s.quiet w g = true → spilled = (true, s1) → s1.storesOut w = false → (posted.settleHost g.part).blocked = false →
        exec (.workgroupSave w) s = .next (posted.settleHost g.part)) ∧
      (back → gives (.workgroupRestore w core (some i)) (fails fresh (min i 4))) ∧
      (back → fresh.badSection w = (none, s1) → gives (.workgroupRestore w core none) (again s1)) ∧
      (back → fresh.badSection w = (some i, s1) → gives (.workgroupRestore w core none) (fails s1 i)) ∧
      (s.wg w = some g → g.resid ≠ .saved → exec (.workgroupRestore w core none) s = .next s)
  )

/-! ## The host and the module -/

/-- The host's accesses (R416 to R419, R422, R423, R431): a read or write through a BAR2 goes through the partition root's
tables, from the host port, or fails; an access of the hardware asks for the lines it lacks, then its stores leave, and what
follows it happens when they are acknowledged; the registers of the page hold what is written; a queue table entry is written
unless its queue has a command under way; FQSTAT, FQRESP and HREQ act as the page says, a response after the function's earlier
writes. That a read which fails leaves the host nothing is the model's choice (notes/assumptions/62.md), and so is how an access of
the hardware is tried, asks for lines and stores (notes/assumptions/13.md). -/
def Obligations.HostAccessesComplete : Prop :=
  ∀ (s s1 : State) (p va n q value off w : Nat) (bytes : List Byte) (g : Workgroup) (f : Nat) (r : List Nat),
    let x := s.part p
    let on := p ≠ 16 ∧ x.vf = true
    let idle := x.vf = true ∧ x.hstat.toNat.testBit 0 = false ∧ value / 2 ^ 10 % 4 = 0
    let k := value / 2 ^ 4 % 2 ^ 6
    let queue := s.hasQueue p k = true
    let none_ := s.modPart p (fun q => { q with hstat := ofN 2 })
    (∀ data : Option (List Byte), on → va + data.elim n List.length ≤ 2 ^ 40 → exec (.hostBar2Access p va n data) s =
      .next (s.viaNet (.host p va n data) .host (fun s => s.barMove p va n data) (fun e s => s.barEnd p data e))) ∧
    (readSysAt s p x.rootAsid x.rootPt va n = (.ok bytes, s1) → s.barMove p va n none = (none, { s1 with hostData := some bytes })) ∧
    (∀ a, readSysAt s p x.rootAsid x.rootPt va n = (.error (f, a), s1) → f ≠ 0 → s.barMove p va n none = (some (f, a), s1)) ∧
    (writeAs s p x.rootAsid x.rootPt va bytes (0, p, 0) = (.ok (), s1) → s.barMove p va n (some bytes) = (none, s1)) ∧
    (∀ a, writeAs s p x.rootAsid x.rootPt va bytes (0, p, 0) = (.error (f, a), s1) → f ≠ 0 →
      s.barMove p va n (some bytes) = (some (f, a), s1)) ∧
    (∀ a data, s.barEnd p data none = s ∧ s.barEnd p none (some (f, a)) = { s.accessFault p f with hostData := none } ∧
      s.barEnd p (some bytes) (some (f, a)) = s.accessFault p f) ∧
    (∀ (o : Owner) (src : Src) (move : State → Option (Nat × Nat) × State) (ends : Option (Nat × Nat) → State → State) (st : Stage)
        (out : Option (Nat × Nat)),
      let net := s.viaNet o src move ends
      let landed := ends st.out (({ s with blocked := false } : State).dropStage o)
      let tried := move { s with blocked := false, net := some (o, src), wants := [], puts := [] }
      let sent := ({ s1 with net := none, wants := [], puts := [] } : State).sendPuts o src s1.puts
      let at_once := ends out (({ sent.2 with blocked := false } : State).dropStage o)
      (s.stage o = some st → st.writing = true → st.left ≠ 0 → net = s) ∧
      (s.stage o = some st → st.writing = true → st.left = 0 → landed.blocked = false → net = landed) ∧
      (s.stage o = some st → st.writing = true → st.left = 0 → landed.blocked = true → net = { s with atsAsk := landed.atsAsk }) ∧
      (s.stage o = some st → st.writing = false → st.asked ≠ [] → net = s) ∧
      (s.stage o = none → tried = (out, s1) → s1.blocked = true →
        net = ({ s with atsAsk := s1.atsAsk } : State).sendWants o s1.wants) ∧
      (s.stage o = none → tried = (out, s1) → s1.blocked = false → sent.1 ≠ 0 →
        net = sent.2.modStage o (fun _ => { owner := o, writing := true, left := sent.1, out := out })) ∧
      (s.stage o = none → tried = (out, s1) → s1.blocked = false → sent.1 = 0 → at_once.blocked = false → net = at_once)) ∧
    (va + n ≤ 2 ^ 34 → exec (.hostBar2Access 16 va n none) s = .next { s with hostData := some (s.readFirmware va n) }) ∧
    (x.vf = true → off ∈ [0x1000, 0x1050, 0x1400, 0x1408, 0x1410, 0x1418, 0x1420, 0x1428, 0x1800] →
      exec (.registerWrite p off value) s = .next (s.modPart p (fun q => { q with regs := tset q.regs off (ofN value) }))) ∧
    (x.vf = true → exec (.registerWrite p 0x1030 value) s = .next (s.modPart p (fun q => { q with fqresp0 := ofN value }))) ∧
    (x.vf = true → q < 64 → s.queueBusy p q = (true, s1) → exec (.qtabWrite p q value) s = .next (s1.event p 0xB0 q)) ∧
    (x.vf = true → q < 64 → s.queueBusy p q = (false, s1) →
      exec (.qtabWrite p q value) s = .next (s1.modPart p (fun x => { x with
        qtab := tset x.qtab q (ofN value)
        queues := tset x.queues q { (tget x.queues q).getD { node := 0, priv := false } with
          node := value / 2 ^ 8 % 2 ^ 56 * 256, priv := value.testBit 1 } }))) ∧
    exec (.fqstatClear p) s = .next (s.modPart p (fun q => { q with ovf := false })) ∧
    (x.vf = true → s.hostForwards p = true → exec (.fqresp1 p value) s = .next s) ∧
    (x.vf = true → (∀ e ∈ s.kind2s, ¬(e.2.part = p ∧ e.2.seqno = value % 2 ^ 32)) → exec (.fqresp1 p value) s = .next s) ∧
    (∀ id e, x.vf = true → s.hostForwards p = false → s.kind2s.find? (fun e => e.2.part == p && e.2.seqno == value % 2 ^ 32) = some (id, e) → e.eng = none →
      value / 2 ^ 32 % 2 ^ 8 < 3 → exec (.fqresp1 p value) s = .next
        (({ s with kind2s := tdel s.kind2s id } : State).respond e.wg e.line (value / 2 ^ 32 % 2 ^ 8) (value / 2 ^ 40 % 2 ^ 24)
          x.fqresp0 (s.stillParked e.wg e.tids (.entry id)) none none)) ∧
    (idle → value % 16 = 1 → queue → exec (.switchOut p value) s = .next (({ s.setSwitched p k true with
      wgs := s.wgs.map (fun (e : Nat × Workgroup) => if s.ofQueue p k e.2 && !e.2.torn && e.2.saveFor != 3 then
        (e.1, { e.2 with saveFor := 2, wantBack := false }) else e) } : State).settleHost p)) ∧
    (idle → value % 16 = 1 → ¬queue → exec (.switchOut p value) s = .next none_) ∧
    (idle → value % 16 = 2 → queue → exec (.switchIn p value) s = .next (({ s.setSwitched p k false with
      wgs := s.wgs.map (fun (e : Nat × Workgroup) => if s.ofQueue p k e.2 && e.2.saveFor == 2 && e.2.resid == .saved then
        (e.1, { e.2 with wantBack := true }) else e) } : State).settleHost p)) ∧
    (idle → value % 16 = 3 → s.findWg p (value / 2 ^ 12 % 2 ^ 24) (value / 2 ^ 36 % 2 ^ 28) = some (w, g) → g.resid = .saved →
      2 ≤ g.saveFor → exec (.restore p value) s = .next ((s.modWg w (fun g => { g with wantBack := true })).modPart p (fun q =>
        { q with hstat := 1 }))) ∧
    (idle → value % 16 = 4 → s.reportOf p = (r, s1) → exec (.attest p value) s = .next
      (({ s1 with host := memWrite s1.host (s1.ioAddr p ((s1.part p).reg 0x1428)) (Config.report r) } : State).modPart p
        (fun q => { q with hstat := 0 }))) ∧
    (x.vf = true → x.hstat.toNat.testBit 0 = true → exec (.switchOut p value) s = .next (s.modPart p (fun q => { q with hstat := 5 })))

/-- The fault queue (R417, R420): the oldest entry goes into the ring while the ring has room and nothing is held before it,
at FQBASE + 128 × (FQTAIL mod 2^LOG), FQTAIL goes up by 1 and vector 0 is signalled; else it is held, up to 256; beyond
that a kind-3 entry is discarded and counted. -/
def Obligations.FaultQueueDelivers : Prop :=
  ∀ (s : State) (p : Nat) (e : Post) (rest : List Post),
    let q := s.part p
    let posts := q.posts = e :: rest
    let popped := s.modPart p (fun q => { q with posts := rest })
    let room := s.ringRoom p = true
    (q.posts = [] → exec (.faultQueuePost p) s = .next s) ∧
    (posts → q.held = [] → room → exec (.faultQueuePost p) s = .next (popped.postNow p e)) ∧
    (posts → ¬(q.held = [] ∧ room) → q.held.length < 256 → exec (.faultQueuePost p) s =
      .next (s.modPart p (fun q => { q with posts := rest, held := q.held ++ [e] }))) ∧
    (posts → e.kind = 3 → 256 ≤ q.held.length → exec (.faultQueuePost p) s = .next (s.modPart p (fun q => { q with
      posts := rest, lost := (q.lost + 1) % 2 ^ 32, ovf := true }))) ∧
    (q.held = e :: rest → room → exec (.faultQueueDrain p) s = .next ((s.modPart p (fun q => { q with held := rest })).postNow p e)) ∧
    (q.held = [] ∨ ¬room → exec (.faultQueueDrain p) s = .next s) ∧
    (e.rc = none → (∃ x, tget s.parts p = some x) →
      let a := s.ioAddr p (q.reg 0x1000 + 128 * (q.fqtail % 2 ^ (q.reg 0x1008 % 2 ^ 5)))
      (s.postNow p e).host = memWrite s.host a (entryBytes s p e) ∧
      ((s.postNow p e).part p).fqtail = (q.fqtail + 1) % 2 ^ 32 ∧
      ((s.postNow p e).msis = (p, 0) :: s.msis ∨ ((s.postNow p e).part p).pba.toNat.testBit 0 = true))

/-- Fatal errors, power, firmware, reset and the link (R413, R414, R424, R427, R431 to R433): a fatal error is recorded once,
with an event 0xE7 in each partition and a dump; power goes and comes back with a reset; the clock steps down above the
limit and up below 2,300; an image enters the bank that does not run if it is good; a function-level reset tears the
workgroups down, ends what waits in its queues, empties them and cuts its launches; the link's loss fails what awaits the
host. The banks that a reset keeps are the model's choice (notes/assumptions/8.md), as is the bank that the ROM tries first, which
a free value gives (notes/assumptions/60.md); what a function-level reset keeps and cuts is the model's reading
(notes/assumptions/69.md). -/
def Obligations.ModuleEventsComplete : Prop :=
  ∀ (s : State) (kind : UnitKind) (i a b bank p : Nat) (image : List Byte),
    let x := Config.freeValue s.fresh
    let ok := fun (k : Nat) => imageOk ((tget s.banks k).getD []) = true
    (s.fatal ≠ none → exec (.fatalError kind i) s = .next s) ∧
    (unitCount kind ≤ i → exec (.fatalError kind i) s = .next s) ∧
    (s.fatal = none → i < unitCount kind → ∃ t, exec (.fatalError kind i) s = .next t ∧ t.fatal = some (originOf kind i) ∧ t.wgs = s.wgs ∧
      t.l2.all (fun l => !l.dirty) = true ∧ (∃ body, t.mem = memWrite (s.l2.foldl State.writeBack s).mem 0x8_4000_0000
        (dumpHeader (originOf kind i) (s.now + Config.clockSkew 256) body ++ body)) ∧ (s.link = true → ∀ q y, tget s.parts q = some y → (s.parts.map (·.1)).Nodup →
        (t.part q).posts = y.posts ++ [{ kind := 3, cause := 0xE7, info := originOf kind i }])) ∧
    (s.fatal = none → exec .lossOfPower s = .next { s with power := false }) ∧
    (s.fatal ≠ none → ∃ t, exec .lossOfPower s = .next t ∧ t.power = false ∧ t.wgs = s.wgs ∧ t.fatal = s.fatal) ∧
    (2400 < b → s.clock = 32 → exec (.powerArbiterTick a b) s = .next (s.fatalError (originOf .controller 0))) ∧
    (¬(2400 < b ∧ s.clock = 32) → 2400 < a → exec (.powerArbiterTick a b) s = .next { s with clock := max 32 (s.clock - 1) }) ∧
    (¬(2400 < b ∧ s.clock = 32) → a < 2300 → s.clock < 64 → exec (.powerArbiterTick a b) s = .next { s with clock := s.clock + 1 }) ∧
    (¬(2400 < b ∧ s.clock = 32) → a ≤ 2400 → (2300 ≤ a ∨ 64 ≤ s.clock) → exec (.powerArbiterTick a b) s = .next s) ∧
    (bank < 2 → bank ≠ s.activeBank → imageOk image = true →
      exec (.firmwareStage bank image) s = .next { s with banks := tset s.banks bank image }) ∧
    (¬(bank < 2 ∧ bank ≠ s.activeBank ∧ imageOk image = true) → exec (.firmwareStage bank image) s = .next s) ∧
    (∃ run, exec .moduleReset s = .next { State.reset with
        agenda := s.agenda, host := s.host, fresh := s.fresh + 1, nextId := s.nextId, msis := s.msis, banks := s.banks
        activeBank := run.getD s.activeBank, running := run } ∧
      (ok (x.toNat % 2) → run = some (x.toNat % 2)) ∧
      (¬ok (x.toNat % 2) → ok (1 - x.toNat % 2) → run = some (1 - x.toNat % 2)) ∧ (¬ok 0 → ¬ok 1 → run = none)) ∧
    ((s.part p).vf = false → exec (.flrVf p) s = .next s) ∧
    ((s.part p).vf = true →
      let torn := (s.wgs.filter (fun e => e.2.part == p)).foldl (fun (s : State) e => s.teardown e.1) { s with blocked := false }
      let ended := (torn.ops.filterMap (fun e => if e.2.queuedIn p torn then some e.1 else none)).foldl
        (fun (s : State) id => s.finish id []) torn
      let emptied := (List.range 64).foldl (fun (s : State) q => s.emptyQueue p q) { ended with
        runs := ended.runs.filter (fun r => r.2.part != p)
        lqs := ended.lqs.map (fun e => (e.1, e.2.filter (fun (c : Child) => c.part != p))) }
      let cleared := emptied.modPart p (fun q => { q with
        preds := [], waggles := [], regs := tset q.regs 0x1008 (ofN (q.reg 0x1008 % 2 ^ 5)) })
      let cut := ((cleared.launches.filterMap (fun e => if e.2.part == p then some e.1 else none)).foldl State.cutLaunch cleared).settleHost p
      (cut.blocked = false → exec (.flrVf p) s = .next cut) ∧ (cut.blocked = true → exec (.flrVf p) s = .next (s.asked cut))) ∧
    ((s.part p).vf = true → s.wgs = [] → s.ops = [] → s.launches = [] → (s.part p).queues = [] → s.blocked = false →
      exec (.flrVf p) s = .next ((({ s with
        runs := s.runs.filter (fun r => r.2.part != p)
        lqs := s.lqs.map (fun e => (e.1, e.2.filter (fun (c : Child) => c.part != p))) } : State).modPart p (fun q => { q with
          preds := [], waggles := [], regs := tset q.regs 0x1008 (ofN (q.reg 0x1008 % 2 ^ 5)) })).settleHost p)) ∧
    (∃ t, exec .hostLinkDown s = .next t ∧ t.link = false ∧ t.atsAsk = [] ∧ t.mem = s.mem ∧ t.host = s.host ∧
      (∀ e ∈ s.atsAsk, (∀ w ts, e.asker ≠ .threads w ts) → (e.asker, e.part, e.base, 0x2E) ∈ t.atsBad) ∧
      t.reqs = s.reqs.map (fun (e : Nat × Req) => (e.1, if e.2.hostSt = 1 then { e.2 with hostSt := 3 } else e.2)) ∧
      (∀ w v th, s.thread w v = some th → ∃ th', t.thread w v = some th' ∧ th'.frames = th.frames ∧ th'.preds = th.preds ∧
        th'.pc = th.pc ∧ (th.st = .parked .hostPage → (∃ e ∈ s.atsAsk, ∃ ts, e.asker = .threads w ts ∧ v ∈ ts) → th'.st = .run))) ∧
    (∀ c k n m x, s.cores = [(c, k)] → k.misses = [(n, m)] → m.ats = some x → m.on m.root x = true →
      ∃ t, exec .hostLinkDown s = .next t ∧ (t.core c).misses = [] ∧
        ∀ a ∈ m.asks, ∀ v ∈ a.tids, ∀ th, s.thread a.wg v = some th → ∃ th', t.thread a.wg v = some th' ∧
          ({ va := a.va, acc := a.acc, ro := a.ro, user := a.user, code := 0x2E } : XFail) ∈ th'.xfails)

/-- Partitions (R54, R425, R426): a composition within the limits gives the partition its units and its HomeTable, with
every channel group it names cleared and the image written; one outside them changes nothing; a resize first drains the
hives that leave, and then the partition has its new units: the event is given until it is done, which is the model's reading
(notes/assumptions/67.md). -/
def Obligations.PartitionsComplete : Prop :=
  ∀ (s : State) (p pt asid rcb : Nat) (hives slices groups : List Nat) (shadow combbk : Nat) (rates : List Nat)
      (image : List (Nat × List Byte)),
    let q : Partition := { hives := hives, slices := slices, groups := groups, shadow := shadow, combbk := combbk
                           home := homeTable slices, rootPt := pt, rootAsid := asid, rootRcb := rcb, vf := true }
    let inside := image.all (fun e => (List.range e.2.length).all (fun i => inGroups groups (e.1 + i) &&
      !(q.reserved.1 ≤ e.1 + i && decide (e.1 + i < q.reserved.2)))) = true
    let ok := (s.part p).vf = false ∧ s.composes p q = true ∧ inside
    let cleared := s.clearGroups groups
    let made := ({ cleared with mem := image.foldl (fun (m : Mem) (e : Nat × List Byte) => memWrite m e.1 e.2) cleared.mem
                                parts := tset s.parts p q } : State).setRates p rates
    let ev := exec (.partitionCreate p hives slices groups shadow combbk rates pt asid rcb image) s
    let x := s.part p
    let x' : Partition := { x with hives := hives, slices := slices, groups := groups, home := homeTable slices }
    let leaving := x.hives.filter (fun h => !hives.contains h)
    let begun : State := { s.modPart p (fun x => { x with leavingHives := leaving, moving := homeTable slices }) with
      wgs := s.wgs.map (fun (e : Nat × Workgroup) => if e.2.part == p && leaving.contains (e.2.core / 8) && e.2.resid != .saved &&
        e.2.saveFor == 0 && !e.2.torn then (e.1, { e.2 with saveFor := 1 }) else e) }
    let out := (begun.membersOf leaving).foldl State.expelSaved begun
    let rs := exec (.partitionResize p hives slices groups rates) s
    let fits := x.vf = true ∧ s.composes p x' = true
    (ok → made.rootOk p = true → ev = .next made) ∧ (ok → made.rootOk p = false → ev = .next s) ∧ (¬ok → ev = .next s) ∧
    (∀ i, i < 256 → slices ≠ [] → slices.Pairwise (· < ·) → (homeTable slices)[i]? = some ((slices[i % slices.length]?).getD 0)) ∧
    (¬fits → rs = .next s) ∧
    (fits → begun.draining p leaving = true → rs = .next begun) ∧
    (fits → begun.draining p leaving = false → (out.underWay p = true ∨ (out.membersOf leaving).any out.combPending = true) →
      rs = .next out) ∧
    (fits → begun.draining p leaving = false → out.underWay p = false → (out.membersOf leaving).any out.combPending = false →
      rs = .next (out.finishResize p x' rates))

/-- The mailbox (R429): MBGO reads the block and sets BUSY, and is ignored with RESULT 2 while BUSY stands; a block whose operation is the event's and whose reserved bits are zero is answered in MBSTAT with
its result and value, and BUSY clears; what cannot be answered with result 0 changes nothing else. Completion queues, queue pairs and
memory regions are created under a free number, changed and destroyed as the table says. The Ethernet ports (R428 to
R430): a doorbell sets a ring's tail; the request at the head of a send ring completes; a timer sends it again or ends
it with status 4; an inbound SEND or WRITE lands, and a remote waggle, atomic, answer or cancel is taken in sequence
order; a remote waggle whose timer expires is sent again up to five times and then fails with 0xE5, and its cancel is sent until it is
answered. Which port of a peer's mask acts is the model's choice (notes/assumptions/15.md), what RESET clears is presumed
(notes/assumptions/65.md), and the windows and atomics of peers are the model's reading (notes/assumptions/66.md). -/
def Obligations.MailboxAndPorts : Prop :=
  (
    ∀ (s : State) (p : Nat) (b : Block) (qp : Qp),
      let x := s.part p
      let a := s.ioAddr p (x.reg 0x1800)
      let block := x.vf = true ∧ x.mbstat.toNat.testBit 0 = true ∧ b = x.mbox ∧
        b.d 0 < 2 ^ 8 ∧ ∀ i, i < 24 → b.d (8 + i) = 0
      let op := fun (k : Nat) => block ∧ b.d 0 = k
      let answers := fun (i : Instr) (s : State) (r v : Nat) => exec i s = .next (s.modPart p (fun q => { q with
        mbstat := ofN (v % 2 ^ 32 * 2 ^ 32 + 2 * r), mbox := [] }))
      let does := fun (i : Instr) (t : State) (v : Nat) => exec i s = .next (t.modPart p (fun q => { q with
        mbstat := ofN (v % 2 ^ 32 * 2 ^ 32), mbox := [] }))
      let put := fun (f : Partition → Partition) => s.modPart p f
      let number := fun {α : Type} (t : Tab α) (limit n : Nat) => (s.freeNumber t limit).1 = some n
      let drawn : State := { s with fresh := s.fresh + 1 }
      let log := b.d 2 % 2 ^ 5
      let cqOk := b.d 1 < 2 ^ 57 ∧ b.d 1 % 64 = 0 ∧ 4 ≤ log ∧ log ≤ 16 ∧ b.d 3 < 2 ^ 57
      let sl := b.d 3 % 2 ^ 4
      let rl := b.d 3 / 2 ^ 8 % 2 ^ 4
      let sc := b.d 4 % 2 ^ 14
      let rc := b.d 4 / 2 ^ 16 % 2 ^ 14
      let qpOk := b.d 1 < 2 ^ 57 ∧ b.d 2 < 2 ^ 57 ∧ 4 ≤ sl ∧ sl ≤ 14 ∧ 4 ≤ rl ∧ rl ≤ 14 ∧ b.d 5 < 2 ^ 57
      let mrOk := b.d 1 < 2 ^ 57 ∧ b.d 2 ≠ 0 ∧ b.d 2 ≤ 2 ^ 40 ∧ b.d 3 < 8
      let qpIs := tget x.qps (b.d 1) = some qp
      (∀ v, x.vf = true → x.mbstat.toNat.testBit 0 = true → exec (.registerWrite p 0x1808 v) s = .next (put (fun q => { q with
        mbstat := ofN (x.mbstat.toNat / 2 ^ 32 * 2 ^ 32 + 5) }))) ∧
      (∀ v, x.vf = true → x.mbstat.toNat.testBit 0 = false → exec (.registerWrite p 0x1808 v) s = .next (put (fun q => { q with
        mbox := (List.range 32).map (fun i => memNat s.host (a + 8 * i) 8)
        mbstat := ofN (x.mbstat.toNat / 2 * 2 + 1) }))) ∧
      (∀ n, op 1 → cqOk → number x.cqs 16384 n → does (.createCq p) (drawn.modPart p (fun q => { q with
        cqs := tset q.cqs n { base := b.d 1, log := log, vec := b.d 2 / 2 ^ 8 % 2 ^ 5, sync := b.d 3 } })) n) ∧
      (op 1 → ¬cqOk → answers (.createCq p) s 3 0) ∧
      (op 2 → thas x.cqs (b.d 1) = false → answers (.destroyCq p) s 1 0) ∧
      (op 2 → thas x.cqs (b.d 1) = true → x.qps.any (fun e => e.2.scq == b.d 1 || e.2.rcq == b.d 1) = true →
        answers (.destroyCq p) s 3 0) ∧
      (op 2 → thas x.cqs (b.d 1) = true → x.qps.any (fun e => e.2.scq == b.d 1 || e.2.rcq == b.d 1) = false →
        does (.destroyCq p) (put (fun q => { q with cqs := tdel q.cqs (b.d 1) })) 0) ∧
      (∀ n, op 3 → qpOk → thas x.cqs sc = true → thas x.cqs rc = true → number x.qps 16384 n →
        does (.createQp p) (drawn.modPart p (fun q => { q with
          qps := tset q.qps n { sbase := b.d 1, rbase := b.d 2, slog := sl, rlog := rl, scq := sc, rcq := rc, sync := b.d 5 } })) n) ∧
      (op 4 → tget x.qps (b.d 1) = none → answers (.modifyQp p) s 1 0) ∧
      (op 4 → qpIs → b.d 2 = 0 → does (.modifyQp p) (s.setQp p (b.d 1) { qp with
        st := 0, shead := 0, stail := 0, rhead := 0, rtail := 0, tries := 0 }) 0) ∧
      (op 4 → qpIs → b.d 2 = 1 → qp.st = 0 → does (.modifyQp p) (s.setQp p (b.d 1) { qp with st := 1 }) 0) ∧
      (op 4 → qpIs → b.d 2 = 1 → qp.st ≠ 0 → answers (.modifyQp p) s 4 0) ∧
      (op 4 → qpIs → b.d 2 = 2 → qp.st = 1 → b.d 3 < 2 ^ 24 → b.d 6 < 2 ^ 24 → b.d 7 ≤ 4 → b.d 4 < 2 ^ 16 →
        does (.modifyQp p) (s.setQp p (b.d 1) { qp with st := 2, rqpn := b.d 3, node := b.d 4 % 2 ^ 12, rpart := b.d 4 / 2 ^ 12 % 2 ^ 4,
                                                        epsn := b.d 6, mtu := b.d 7 }) 0) ∧
      (op 4 → qpIs → b.d 2 = 3 → qp.st = 2 → b.d 5 < 2 ^ 24 →
        does (.modifyQp p) (s.setQp p (b.d 1) { qp with st := 3, psn := b.d 5 }) 0) ∧
      (op 5 → thas x.qps (b.d 1) = true → does (.destroyQp p) (put (fun q => { q with qps := tdel q.qps (b.d 1) })) 0) ∧
      (op 5 → thas x.qps (b.d 1) = false → answers (.destroyQp p) s 1 0) ∧
      (∀ n, op 6 → mrOk → number x.mrs (2 ^ 32) n → does (.regMr p) (drawn.modPart p (fun q => { q with
        mrs := tset q.mrs n { base := b.d 1, len := b.d 2, acc := b.d 3 } })) n) ∧
      (op 6 → ¬mrOk → answers (.regMr p) s 3 0) ∧
      (op 7 → thas x.mrs (b.d 1) = true → s.keyUsed p (b.d 1) = false →
        does (.deregMr p) (put (fun q => { q with mrs := tdel q.mrs (b.d 1) })) 0) ∧
      (op 7 → thas x.mrs (b.d 1) = false → answers (.deregMr p) s 1 0)
  ) ∧
  (
    ∀ (s s1 s2 : State) (p n value status kind rva rkey imm w st len node spart seq va r : Nat) (data : List Byte) (args : List Word)
        (q : Qp) (x : Remote),
      let on := (s.part p).vf = true
      let qp := tget (s.part p).qps n = some q
      let sends := qp ∧ q.st = 3 ∧ q.shead ≠ q.stail
      let reads := qp ∧ (q.st = 2 ∨ q.st = 3)
      let y := s.part p
      let pw := s.peerWin p node spart
      let mine := s.remotes.find? (fun r => r.2.part == p && r.2.node == node && r.2.rpart == spart && r.2.seq == seq)
      let ring := fun (f : Qp → Qp) => s.modPart p (fun x => { x with qps := tmod x.qps (value % 2 ^ 14) f })
      let waggle := s.remoteWaggle p node spart va args
      let arg := fun (i : Nat) => (args.getD i 0).toNat
      let size := (Ty.ofCode (arg 2)).width / 8
      let owner : Owner := .inbound p [2, node, spart, seq]
      let atomic := fun (s : State) => s.remoteAtomic p node owner va args (fun s code d => s.answerPeer pw code d)
      let k := kind % 4
      let mark := kind.testBit 2
      let o := kind % 8
      let sentAgain := { x with sends := min 5 (x.sends + 1), deadline := s.now + 2 ^ 24 * 2 ^ min 4 x.sends }
      let cancelled := { x with dead := true, sends := 1, deadline := s.now + 2 ^ 24 }
      let due := tget s.remotes r = some x ∧ x.deadline ≤ s.now
      let covered := if k = 0 then True else if k = 1 ∨ k = 2 then y.covers rkey rva data.length (some 2) = true
        else y.covers rkey rva imm (some 1) = true
      (on → exec (.sqdb p value) s = .next (ring (fun y => { y with stail := value / 2 ^ 32 % 2 ^ 16 }))) ∧
      (on → exec (.rqdb p value) s = .next (ring (fun y => { y with rtail := value / 2 ^ 32 % 2 ^ 16 }))) ∧
      (∀ e, s.peer p node = (some e, s1) → (∀ i, i < 18 → e.testBit (192 + i) = false) →
        s.portFor p node n = (some (.port (n % 18)), s1)) ∧
      (∀ e, s.peer p node = (some e, s1) → (∃ i, i < 18 ∧ e.testBit (192 + i) = true) →
        ∃ i, i < 18 ∧ e.testBit (192 + i) = true ∧ s.portFor p node n = (some (.port i), s1)) ∧
      (∀ src, sends → s.portFor p q.node n = (some src, s1) → exec (.sendWorkRequest p n status data) s =
        .next (s1.viaNet (.inbound p [0, n, q.shead]) src (fun s => s.sendMove p q status data) (fun e s => s.sendEnd p n q e))) ∧
      (sends → s.portFor p q.node n = (none, s1) → exec (.sendWorkRequest p n status data) s = .next s1) ∧
      (s.workRequest p q.sbase q.slog q.shead = (none, s1) → s.sendMove p q status data = (some (2, 0), s1)) ∧
      (s.workRequest p q.sbase q.slog q.shead = (some w, s1) → s1.trySend p w status data = some (st, len, s2) →
        s.sendMove p q status data = (some (st, len), s2)) ∧
      (s.workRequest p q.sbase q.slog q.shead = (some w, s1) → s1.trySend p w status data = none →
        s.sendMove p q status data = (none, { s1 with blocked := true })) ∧
      (s.workRequest p q.sbase q.slog q.shead = (some w, s1) →
        s.sendEnd p n q (some (st, len)) = (s1.sendDone p n q w st len).advanceSend p n len) ∧
      (sends → q.tries < Config.roceRetries → exec (.roceRetryTimeout p n) s = .next (s.setQp p n { q with tries := q.tries + 1 })) ∧
      (sends → Config.roceRetries ≤ q.tries → s.workRequest p q.sbase q.slog q.shead = (some w, s1) →
        exec (.roceRetryTimeout p n) s = .next ((s1.sendDone p n q w 4 0).advanceSend p n 0)) ∧
      (∀ src, reads → (k = 0 ∨ k = 2 → q.rhead ≠ q.rtail) → covered → s.portFor p q.node n = (some src, s1) →
        exec (.roceInbound p n kind rva rkey imm data) s = .next (s1.viaNet (.inbound p [1, n, q.epsn, k, rva, imm, data.length]) src
          (fun s => s.inboundMove p q k rva imm data) (fun e s => (s.inboundEnd p n q k imm data e).notify p n mark))) ∧
      (reads → (k = 0 ∨ k = 2 → q.rhead ≠ q.rtail) → covered → s.portFor p q.node n = (none, s1) →
        exec (.roceInbound p n kind rva rkey imm data) s = .next s1) ∧
      (reads → (¬covered ∨ ((k = 0 ∨ k = 2) ∧ q.rhead = q.rtail)) →
        exec (.roceInbound p n kind rva rkey imm data) s = .next (s.notify p n mark)) ∧
      (s.notify p n true = { s with cnps := (p, n) :: s.cnps } ∧ s.notify p n false = s) ∧
      (s.workRequest p q.rbase q.rlog q.rhead = (some w, s1) → s1.landSend p w data = (st, s2) →
        s.inboundMove p q 0 rva imm data = (if st = 0 then none else some (st, 0), s2)) ∧
      (writeAs s p y.rootAsid y.rootPt rva data (0, 16, 0) = (.ok (), s1) → s.inboundMove p q 1 rva imm data = (none, s1)) ∧
      (writeAs s p y.rootAsid y.rootPt rva data (0, 16, 0) = (.ok (), s1) →
        s1.workRequest p q.rbase q.rlog q.rhead = (some w, s2) →
        s.inboundMove p q 2 rva imm data = (if badReceive w then some (2, 0) else none, s2)) ∧
      (∀ bs, readSysAt s p y.rootAsid y.rootPt rva imm = (.ok bs, s1) → s.inboundMove p q 3 rva imm data = (none, s1)) ∧
      s.inboundEnd p n q 0 imm data none =
        ((s.received p q).complete p q.rcq n 4 q.rhead 0 data.length 0).advanceReceive p n data.length 1 ∧
      (st < 16 → s.inboundEnd p n q 0 imm data (some (st, 0)) =
        (s.complete p q.rcq n 4 q.rhead 0 0 st).advanceReceive p n data.length 1) ∧
      s.inboundEnd p n q 1 imm data none = s.advanceReceive p n data.length 0 ∧
      s.inboundEnd p n q 2 imm data none =
        ((s.received p q).complete p q.rcq n 4 q.rhead imm data.length 0).advanceReceive p n data.length 1 ∧
      s.inboundEnd p n q 3 imm data none = s.advanceReceive p n imm 0 ∧
      s.inboundEnd p n q 2 imm data (some (2, len)) =
        ((s.received p q).complete p q.rcq n 4 q.rhead imm data.length 2).advanceReceive p n data.length 1 ∧
      (k ≠ 0 → ¬(k = 2 ∧ st = 2) → s.inboundEnd p n q k imm data (some (st, len)) = s.accessFault p st) ∧
      (on → seq = pw.expect → o = 0 → exec (.remoteEncapRequest p node spart seq kind va args) s =
        .next (waggle.2.answerPeer pw waggle.1 [])) ∧
      (on → seq = pw.expect → o = 1 → exec (.remoteEncapRequest p node spart seq kind va args) s = .next (atomic s)) ∧
      (on → seq = pw.expect → o = 4 → exec (.remoteEncapRequest p node spart seq kind va args) s = .next (s.answerPeer pw 0xE5 [])) ∧
      (∀ x, s.stage owner = some x → x.writing = true → x.left ≠ 0 → atomic s = s) ∧
      (∀ x l ls, s.stage owner = some x → x.writing = true → x.left = 0 → x.out = none → x.seen = l :: ls →
        atomic s = (s.dropStage owner).answerPeer pw 0 l.data) ∧
      (∀ src v ph, s.stage owner = none → s.portFor p node node = (some src, s2) →
        s2.readNet owner src (fun s => s.remotePlace p va size) = (.ok (v, ph), s1) →
        atomic s = ((s1.modStage owner (fun e => { e with writing := true, left := 1 })).send
          { src := src, dst := s1.home p ph.pa, part := p, n := size, va := v, owner := some owner, ph := ph
            kind := .atomic (.rmw (arg 0) (arg 1) (arg 2) (arg 3) (arg 4)) }).2) ∧
      (∀ src f a, s.stage owner = none → s.portFor p node node = (some src, s2) →
        s2.readNet owner src (fun s => s.remotePlace p va size) = (.error (f, a), s1) →
        f ≠ 0 → atomic s = (s1.accessFault p f).answerPeer pw f []) ∧
      (va % size ≠ 0 → s.remotePlace p va size = (.error (0x2D, va), s)) ∧
      (on → seq ≠ pw.expect → (o = 0 ∨ o = 1 ∨ o = 4) → (∀ e ∈ pw.ran, e.1 ≠ seq) →
        exec (.remoteEncapRequest p node spart seq kind va args) s = .next s) ∧
      (on → seq ≠ pw.expect → (o = 0 ∨ o = 1) → kind.testBit 3 = false →
        exec (.remoteEncapRequest p node spart seq kind va args) s = .next s) ∧
      (∀ code bs, on → seq ≠ pw.expect → (o = 4 ∨ (o = 0 ∨ o = 1) ∧ kind.testBit 3 = true) →
        pw.ran.find? (fun e => e.1 == seq) = some (seq, code, bs) →
        exec (.remoteEncapRequest p node spart seq kind va args) s = .next (s.sendAnswer p node spart seq code bs)) ∧
      (on → mine = some (r, x) → o = 2 → x.dead = false → exec (.remoteEncapRequest p node spart seq kind va args) s = .next
        (({ s with remotes := tdel s.remotes r } : State).finish x.op [])) ∧
      (on → mine = some (r, x) → o = 3 → x.dead = false → exec (.remoteEncapRequest p node spart seq kind va args) s = .next
        (({ s with remotes := tdel s.remotes r } : State).failOp x.op 0xB7 0)) ∧
      (on → mine = some (r, x) → (o = 2 ∨ o = 3) → x.dead = true →
        exec (.remoteEncapRequest p node spart seq kind va args) s = .next { s with remotes := tdel s.remotes r }) ∧
      (tget s.remotes r = some x → s.now < x.deadline → exec (.remoteRetransmit r) s = .next s) ∧
      (due → x.dead = false → x.sends < 5 → exec (.remoteRetransmit r) s =
        .next (({ s with remotes := tset s.remotes r sentAgain } : State).sendWaggle sentAgain)) ∧
      (due → x.dead = false → 5 ≤ x.sends → exec (.remoteRetransmit r) s =
        .next ((({ s with remotes := tset s.remotes r cancelled } : State).sendCancel cancelled).failOp x.op 0xE5 0)) ∧
      (due → x.dead = true → exec (.remoteRetransmit r) s =
        .next (({ s with remotes := tset s.remotes r sentAgain } : State).sendCancel sentAgain))
  )

/-! ## Frames -/

/-- What the register instructions leave as it was (R160, R257): integer, logic, packed, float and special-function
instructions and the lane exchanges change no field of the module but the bundle, the register latches and the workgroup
that issues; of that workgroup its threads and the uniform register that D names, if it names one; no thread outside
the bundle; and in a thread of the bundle, beside the program counter with its loop record and the marks of readiness,
only the register D and the predicate PD. -/
def Obligations.RegisterInstructionsFrame : Prop :=
  ∀ (i : Instr) (p : Parts) (s s' : State) (u : Cur),
    let d := i.dstOpnd
    let pd := match p.body with
      | .f3 o => some o.pd.val
      | .fi o => some o.pd.val
      | _ => none
    i.parts = some p → (p.opc < 0x095 ∨ (0x100 ≤ p.opc ∧ p.opc ≤ 0x104)) → Bundle s i p.c u → exec i s = .next s' →
    s' = { s with cur := none, cores := s'.cores, wgs := s'.wgs } ∧
    (∀ k, { s'.core k with latches := [] } = { s.core k with latches := [] }) ∧
    (∀ w, w ≠ u.wg → s'.wg w = s.wg w) ∧
    (∀ g, s.wg u.wg = some g → ∃ g', s'.wg u.wg = some g' ∧
      { g' with threads := [], kregs := [] } = { g with threads := [], kregs := [] } ∧
      ∀ n, (∀ k : Fin 64, d = .k k → k.val ≠ n) → g'.kregs[n]? = g.kregs[n]?) ∧
    (∀ t, t ∉ u.tids → s'.thread u.wg t = s.thread u.wg t) ∧
    ∀ t ∈ u.tids, ∀ th, s.thread u.wg t = some th → ∃ th', s'.thread u.wg t = some th' ∧
      keepsThread th th' pd (fun r => ∃ j : Fin 240, d = .v j ∧ resolveReg th.frames j.val = some r)

/-- What an issued access leaves as it was (R47, R53, R131): a load, store or atomic whose checks pass changes no byte of
either memory or of any scratchpad, no register and no predicate; its operation does so when it is performed. Only
the operation index of the issuing thread may move (R138). -/
def Obligations.IssuedAccessesFrame : Prop :=
  ∀ (c : Ctl) (fn : Fin 16) (o : FM) (s s' : State) (u : Cur) (t : Nat) (k : Chk) (s1 : State),
    let n := o.ty.width / 8
    let ea := (((s.src u.wg t o.base).toNat + (s.src u.wg t o.index).toNat + signExt o.off.toNat 24) % 2 ^ 64).toNat
    let eb := (((s.src u.wg t o.base).toNat + signExt o.off.toNat 24) % 2 ^ 64).toNat
    let passed := (∃ g ph, k = .glob g ph) ∨ ∃ w off, k = .scratch w off
    let keeps := fun (i : Instr) (va : Nat) (acc : Acc) (ap : Aper) (ro : Bool) =>
      Alone s i c u t → check (start s i c u) u.wg [t] va n n acc ap ro = (k, s1) → passed → exec i s = .next s' →
      sameBytes s s' ∧ (∀ w n, (s'.wg w).map (fun g => g.k n) = (s.wg w).map (fun g => g.k n)) ∧
      ∀ w v th, s.thread w v = some th → ∃ th', s'.thread w v = some th' ∧
        keepsThread { th with opidx := 0 } { th' with opidx := 0 } none (fun _ => False) ∧
        ((w, v) ≠ (u.wg, t) → th' = th)
    keeps (.ld c o) ea .load Aper.ls false ∧ keeps (.ldRo c o) ea .load Aper.g true ∧ keeps (.ldC c o) ea .load Aper.c true ∧
    keeps (.ldTl c o) ea .load Aper.ls false ∧ keeps (.st c o) ea .store Aper.ls false ∧
    keeps (.atom c fn o) eb .atomic Aper.ls false ∧ keeps (.atomF c fn o) eb .atomic Aper.ls false ∧
    keeps (.atomCas c o) eb .atomic Aper.ls false ∧ keeps (.atomOrd c fn o) eb .atomic Aper.ls false

/-- A performed write changes the bytes it names and no other (R53, R26): at a home slice or in host memory the bytes from
the physical address up, in a scratchpad those from the offset up; every other byte reads as before. -/
def Obligations.WritesChangeTheirBytesOnly : Prop :=
  ∀ (s : State) (p : Nat) (ph : Phys) (va : Nat) (bytes : List Byte) (launch : Option Nat) (who : Option (Nat × Nat × Nat))
    (by_ t w off : Nat) (g : Workgroup), memOk s = true → s.net = none →
    let s1 := s.store p ph va bytes launch who
    let s2 := s.writeAt by_ t bytes (.scratch w off)
    let after := fun (m : Mem) (a x : Nat) => if a ≤ x ∧ x < a + bytes.length then bytes[x - a]?.getD 0 else memGet m x
    (ph.host = false → ∀ x, memGet s1.mem x = after s.mem ph.pa x ∧ memGet s1.host x = memGet s.host x) ∧
    (ph.host = true → ∀ x, memGet s1.host x = after s.host ph.pa x ∧ memGet s1.mem x = memGet s.mem x) ∧
    (∀ v, s1.wg v = s.wg v) ∧
    (tget s.wgs w = some g → Memory.wf g.scratch = true → ∃ g', s2.wg w = some g' ∧ (∀ x, memGet g'.scratch x = after g.scratch off x) ∧
      g'.threads = g.threads ∧ g'.kregs = g.kregs) ∧
    s2.mem = s.mem ∧ s2.host = s.host ∧ ∀ v, v ≠ w → s2.wg v = s.wg v

/-! ## Exceptions -/

/-- Taking an exception (R390, R391, R393): sr.CAUSE takes the code, sr.EPC the thread's index, sr.FADDR the address (0 for
0xB6) and, where one is given, sr.TVAL its value; under FMODE 1 the thread then unwinds with
FADDR[31:0]·2^32 + EPC·2^8 + CAUSE, or is escalated when it has no handler frame; otherwise it gets a record. Where the
fault queue has no room for what the fault would need (R420; that it waits there is the model's reading,
notes/assumptions/57.md), or a page of the save area or of the frame above waits for the
host (R41, R152), nothing is written and the thread stays at its instruction, in the second case PARKED. The claim of an instruction
that the thread leaves goes with it (R366), and so does what the thread has asked of the host. -/
def Obligations.TakingAnException : Prop :=
  ∀ (s : State) (w t code spc addr : Nat) (tv : Option Word) (d : Bool) (th : Thread) (l : Launch),
    s.thread w t = some th → s.launchOf w = some l →
    let fa := if code = 0xB6 then 0 else addr
    let th1 : Thread :=
      { th with cause := ofN code, epc := ofN th.pc.toNat, faddr := ofN fa, tval := tv.getD th.tval, hold := none, xfails := [] }
    let s0 := s.dropClaim w t
    let s1 := ({ s0 with blocked := false, asking := some (.threads w [t]) } : State).modThread w t (fun _ => th1)
    let info := if code = 0xB6 then addr else 0
    let cx : FaultCtx := ⟨w, [t], code, spc, th.pc.toNat, fa, th1.tval.toNat, d, none, info⟩
    let took := s.takeFault w code spc d [(t, addr, tv)]
    let x := ofN (fa % 2 ^ 32 * 2 ^ 32 + th.pc.toNat * 2 ^ 8 + code)
    let go := s.mustWait w t = false
    let ends := fun (r : State) =>
      (r.blocked = false → took = { r.forget w [t] with blocked := s.blocked, asking := s.asking }) ∧
      (r.blocked = true → took = (s0.asked r).parkHost w [t])
    (s.mustWait w t = true → took = s) ∧
    (go → l.mode ≠ 1 → ends (s1.recordFault cx)) ∧
    (go → l.mode = 1 → ∀ s2, s1.unwind w t x = some s2 → ends s2) ∧
    (go → l.mode = 1 → s1.unwind w t x = none → ends (s1.escalate cx (cx.line s1) none)) ∧
    (s0 = { s with cores := s0.cores } ∧ ∀ g, s.wg w = some g → (s0.core g.core).claims =
      (s.core g.core).claims.filter (fun c => !(c.wg == w && c.op == 0 && c.tid == t)))

/-- A fault record (R391, R392, R395, R396): the second line holds the fault's fields at their places; a free record parks
the threads on it and, but for FMODE 2, its copy is posted to the fault queue; with none free the fault is escalated, and
the threads park on a kind-2 entry that holds the same line. -/
def Obligations.FaultRecordsHoldTheFault : Prop :=
  ∀ (s : State) (c : FaultCtx) (g : Workgroup) (l : Launch),
    s.wg c.w = some g → s.launchOf c.w = some l →
    let n := leNat (c.line s)
    let team := (c.tids.head?.getD 0) / 32
    (bits n 127 0 = 0 ∧ bits n 191 128 = c.tval % 2 ^ 64 ∧ bits n 255 192 = c.faddr % 2 ^ 64 ∧
      (∀ j, j < 32 → n.testBit (256 + j) = c.tids.contains (32 * team + j)) ∧ bits n 288 288 = 0 ∧
      n.testBit 289 = c.deferred ∧ n.testBit 290 = c.eng.isSome ∧ bits n 293 291 = (c.eng.getD 0) % 8 ∧
      bits n 299 294 = team % 64 ∧ bits n 327 300 = g.idx % 2 ^ 28 ∧ bits n 351 328 = l.ltag % 2 ^ 24 ∧
      bits n 359 352 = g.core % 256 ∧ bits n 367 360 = c.code % 256 ∧ bits n 391 368 = c.epc % 2 ^ 24 ∧
      bits n 415 392 = c.spc % 2 ^ 24 ∧ bits n 423 416 = 3 ∧ bits n 447 424 = c.epc % 2 ^ 24 ∧ bits n 511 448 = 0) ∧
    (∀ s1, newRecord s c = (none, s1) → s.recordFault c = s1.escalate c (c.line s1) none) ∧
    (∀ id va s1, newRecord s c = (some (id, va), s1) → c.eng = none → l.mode ≠ 2 →
      ∃ e : Post, s.recordFault c = (s1.parkOn c.w c.tids (.record id)).post g.part e ∧ e.kind = 0 ∧ e.cause = c.code ∧
        e.recaddr = va ∧ e.ltag = l.ltag ∧ e.wgidx = g.idx ∧ e.info = c.info) ∧
    (∀ line, c.eng = none → ∃ (k : Kind2) (e : Post),
      s.escalate c line none = (({ s with nextId := s.nextId + 1, kind2s := tset s.kind2s s.nextId k } : State).post g.part e).parkOn
        c.w c.tids (.entry s.nextId) ∧
      k.wg = c.w ∧ k.tids = c.tids ∧ k.line = leNat line ∧ e.kind = 2 ∧ e.cause = c.code ∧ e.second = line ∧ e.ref = s.nextId)

/-- The return from an exception (R394): a released record is acted on once, for the threads still parked on it: action 0
resumes at RPC with registers unchanged, 1 unwinds with VALUE and escalates the threads that have no handler frame, 2 tears the
workgroup down, 3 and above escalates; then its two lines are zero, but for a record that waits with escalated threads. Before a release, and after the record is gone, nothing happens. -/
def Obligations.ReturnFromException : Prop :=
  ∀ (s : State) (rec_ : Nat) (r : Record) (line : Nat),
    let i := Instr.faultRecordRelease rec_
    let action := bits line 423 416
    let ts := s.stillParked r.wg r.tids (.record rec_)
    let awake := s.wakeAcquire r.wg
    (tget s.records rec_ = none → exec i s = .next s) ∧
    (tget s.records rec_ = some r → r.answer = none ∨ r.escalated = true → exec i s = .next s) ∧
    (tget s.records rec_ = some r → r.answer = some line → r.escalated = false →
      (s.wg r.wg = none → exec i s = .next (s.clearRecord rec_)) ∧
      (s.wg r.wg ≠ none →
        (action = 0 → r.eng = none →
          exec i s = .next ((awake.resumeAt r.wg (bits line 447 424) ts).clearRecord rec_)) ∧
        (action = 1 → r.eng = none → ∀ s1, awake.unwindAll r.wg line (ofN (bits line 511 448)) ts =
          ([], s1) → (tget s1.records rec_).any (·.escalated) = false → exec i s = .next (s1.clearRecord rec_)) ∧
        (action = 1 → r.eng = none → ∀ left s1, left ≠ [] → awake.unwindAll r.wg line (ofN (bits line 511 448)) ts = (left, s1) →
          let c := lineCtx r.wg line left none
          let s2 := s1.escalate c (c.line s1) (some rec_)
          exec i s = .next (if (tget s2.records rec_).any (·.escalated) then s2 else s2.clearRecord rec_)) ∧
        (action = 2 → exec i s = .next ((s.teardown r.wg).clearRecord rec_)) ∧
        (∀ b, action = 0 → r.eng = some b → exec i s = .next ((s.resumeEngine r.wg b).clearRecord rec_)) ∧
        (3 ≤ action → ∃ c : FaultCtx, exec i s = .next (s.escalate c (leBytes 64 line) (some rec_)) ∧ c.w = r.wg ∧
          c.code = bits line 367 360))) ∧
    (∀ w t pc th, s.thread w t = some th → ∃ th', (s.resumeAt w pc [t]).thread w t = some th' ∧ th'.pc = BitVec.ofNat 24 pc ∧
      th'.st = .run ∧ th'.frames = th.frames ∧ th'.preds = th.preds ∧ th'.cause = th.cause ∧ th'.epc = th.epc ∧
      th'.faddr = th.faddr ∧ th'.tval = th.tval ∧ (th.pc.toNat = pc % 2 ^ 24 → th'.loop = th.loop)) ∧
    (tget s.records rec_ = some r → memOk s = true → s.net = none →
      let cleared := fun (before after : Mem) => (∀ a, r.pa ≤ a → a < r.pa + 128 → memGet after a = 0) ∧
        ∀ a, a < r.pa ∨ r.pa + 128 ≤ a → memGet after a = memGet before a
      (r.host = false → cleared s.mem (s.clearRecord rec_).mem ∧ (s.clearRecord rec_).host = s.host) ∧
      (r.host = true → cleared s.host (s.clearRecord rec_).host ∧ (s.clearRecord rec_).mem = s.mem))

/-- The order of the checks before an instruction's own (R153, R234, R255, R390, R411, R172): a thread that has a deferred
fault takes it; one whose top frame is spilled waits for the refill; one whose guard predicate has a pending write waits; one with a false guard goes on with no effect, and
never faults; then privilege (0x05), frame bounds (0x70), pending writes (a wait), register errors (0xE3) and the counters
(a wait) are looked at in this order. elect and team.sync have their own statements. -/
def Obligations.ChecksPrecedeTheEffect : Prop :=
  ∀ (i : Instr) (p : Parts) (s : State) (u : Cur) (t : Nat) (th : Thread),
    let s1 := start s i p.c u
    i.parts = some p → (∀ c o, i ≠ .elect c o) → (∀ c o, i ≠ .teamSync c o) → (∀ c o, i ≠ .teamSyncImm c o) →
    s.cur = some u → u.tids = [t] → s.thread u.wg t = some th →
    (th.faults ≠ [] → th.hold = none → exec i s = .next (s1.deliverDeferred u.wg t)) ∧
    (th.faults = [] →
      (th.topSpilled = true → exec i s = .next (s1.need u.wg t (fun th => { th with st := .refillWait }))) ∧
      (th.topSpilled = false →
        (s.guardBusy u.wg t p.c = true → exec i s = .next s1) ∧
        (s.guardBusy u.wg t p.c = false → th.guard p.c = false → exec i s = .next (if i.uniform then goOn s1 u.wg t p.c else passBy s1 u.wg t p.c)) ∧
        (s.guardBusy u.wg t p.c = false → th.guard p.c = true →
          (precheck s u.wg t th i = some none → exec i s = .next s1) ∧
          ∀ f, precheck s u.wg t th i = some (some f) → exec i s = .next (traps s1 u t f 0)))) ∧
    (th.begun = false →
      let low := Instr.needsSystem i && !s.priv u.wg
      let out := i.vregs.any (fun j => !inFrame th.frames j)
      let busy := s.busy u.wg t th i
      let bad := th.badSource i
      let full := match Instr.cls i with
        | some c => !s.room u.wg t c
        | none => false
      precheck s u.wg t th i =
        if low then some (some 0x05) else if out then some (some 0x70) else if busy then some none
        else if bad then some (some 0xE3) else if full then some none else none)

/-! ## Steps -/

/-- A step at an issue turn runs the decoded instruction (R154 to R162, R231, R255): the picker gives a bundle of the cycle's
ranking, the 12 bytes at its index are fetched, and, when they decode to an instruction that is not a cross-lane one, the step
is exec of that instruction with the bundle named, followed by what an issue brings with it. A cross-lane instruction gathers
its members first and runs over the gathered set. A word that does not decode gives its fault to a thread with a true guard; a
fetch that fails gives its fault to every thread; one that waits, or no pick, leaves the threads as they are. -/
def Obligations.StepRunsDecodedInstruction : Prop :=
  ∀ (s : State) (c p : Nat) (rest : List Turn) (x : Cand) (t : Nat) (ts : List Nat) (raw : Nat) (s1 : State) (th : Thread) (i : Instr),
    s.agenda = .issue c p :: rest → s.power = true → s.fatal = none → s.running ≠ none →
    let s0 := ({ s with agenda := rest, turn := some (.issue c p) } : State).ranked c
    let fetch := fetchWord { s0.picked c p x with issues := s0.issues + 1 } x.wg x.tids x.pc
    let word := th.word raw
    let ctl := decodeCtl word
    let same := (t :: ts).filter (fun t => (s1.thread x.wg t).map (fun th => th.word raw) == some word)
    let cur : Cur := { core := c, pipe := p, wg := x.wg, pc := x.pc, tids := same }
    let ends := fun (s' : State) => step s = .next (s'.tidy c [])
    (s0.pick c p = none → ends s0) ∧
    (s0.pick c p = some x → x.tids = t :: ts →
      (∀ a, fetch = (.error (0, a), s1) → s1.late x.wg x.tids = [] → ends s1) ∧
      (∀ f a, f ≠ 0 → fetch = (.error (f, a), s1) → ends (s1.fetchFault x.wg x.pc x.tids f a)) ∧
      (∀ f a, lateCode f = false → s1.late x.wg x.tids = [] → s1.fetchFault x.wg x.pc x.tids f a =
        s1.deliver x.wg x.pc x.tids.length (x.tids.map (fun t => { t := t, code := f, addr := a }))) ∧
      (fetch = (.ok raw, s1) → s1.thread x.wg t = some th →
        (decodeWord word = .ok i →
          (crossMask i = none → step s = afterExec cur i (exec i { s1 with cur := some cur })) ∧
          (∀ m w pc l, crossMask i = some m → x.pick = .gather w pc l →
            (∀ v ∈ same, (s1.thread x.wg v).map Thread.topSpilled = some false) →
            step s = afterExec cur i (exec i { same.foldl (fun s v => s.modThread x.wg v (fun th => { th with st := .run })) s1 with
              cur := some cur })) ∧
          (∀ m, crossMask i = some m → (∀ w pc l, x.pick ≠ .gather w pc l) → ends (s1.gather x.wg x.pc i ctl m same))) ∧
        (∀ f, decodeWord word = .error f → ts = [] → th.faults = [] →
          (s1.guardBusy x.wg t ctl = true → ends s1) ∧
          (s1.guardBusy x.wg t ctl = false → th.guard ctl = true →
            ends (s1.deliver x.wg x.pc 1 [{ t := t, code := f, addr := 0 }])) ∧
          (s1.guardBusy x.wg t ctl = false → th.guard ctl = false → ends (passBy s1 x.wg t ctl)))))

/-- What a fetch reads (R159, R231, R232): the 12 bytes at KCODE + 12·index, least significant first, through the launch's
translation, where the page is in the core's TLB and no byte of the word was written since the launch resolved. -/
def Obligations.FetchReadsTheCode : Prop :=
  ∀ (s : State) (w idx : Nat) (ts : List Nat) (g : Workgroup) (l : Launch) (ph : Phys),
    let va := (l.kcode + 12 * idx) % 2 ^ 64
    s.wg w = some g → s.launchOf w = some l → va % 65536 + 12 ≤ 65536 → va + 12 < 2 ^ 57 →
    s.xlate g.core w ts g.part l.eff.asid l.eff.ptroot va .fetch false (!l.priv) = (.ok ph, s) → ph.host = false →
    s.poisonedIn ph.pa 12 = none →
    (∀ e ∈ s.wlog.take (s.wlog.length - l.wmark), e.1 < ph.pa ∨ ph.pa + 12 ≤ e.1) →
    fetchWord s w ts idx = (.ok (leNat (memRead s.mem ph.pa 12)), { s with fresh := s.fresh + 3 })

/-- The other turns (R192, R410, R414, R431): without power only a module reset happens, and anything else stops as powerOff; a
machine event that the state of the module allows is exec of it, followed by what every core does after it, and is passed over
otherwise; a copy node goes on and storage is upset in the same way; an empty agenda lets one cycle pass; after a fatal error or
without firmware no instruction issues; and exec itself always answers a next state. -/
def Obligations.StepGates : Prop :=
  ∀ (s : State) (rest : List Turn) (i : Instr) (c p : Nat) (x : Upset),
    let s0 := fun (u : Turn) => ({ s with agenda := rest, turn := some u } : State)
    let works := s.power = true ∧ s.fatal = none ∧ s.running ≠ none
    (∃ t, exec i s = .next t) ∧
    (s.agenda = [] → s.power = true → step s = .next s.tick) ∧ (s.agenda = [] → s.power = false → step s = .fault .powerOff) ∧
    (s.agenda = .tick :: rest → s.power = true → step s = .next (s0 .tick).tick) ∧
    (s.agenda = .act i :: rest → (s.power = true ∨ i = .moduleReset) → i.isEvent = true → (s0 (.act i)).allows i = true →
      step s = afterEvent (exec i (s0 (.act i)))) ∧
    (s.agenda = .act i :: rest → s.power = true → (i.isEvent = false ∨ (s0 (.act i)).allows i = false) → step s = .next (s0 (.act i))) ∧
    (s.agenda = .act i :: rest → s.power = false → i ≠ .moduleReset → step s = .fault .powerOff) ∧
    (s.agenda = .copy c p :: rest → works → step s = .next (((s0 (.copy c p)).runCopy c p).tidy 0 [])) ∧
    (s.agenda = .upset x :: rest → works → step s = .next (((s0 (.upset x)).upset x).tidy 0 [])) ∧
    (s.agenda = .issue c p :: rest → s.power = false → step s = .fault .powerOff) ∧
    (∀ u, s.agenda = u :: rest → (u = .issue c p ∨ u = .copy c p ∨ u = .upset x) → s.power = true →
      (s.fatal ≠ none ∨ s.running = none) → step s = .next (s0 u))

/-! ## Encoding, reset and the form of memory -/

/-- Decode and encode agree (R231 to R254): every well-formed instruction has a word of 96 bits, and that word decodes to it,
with every operand and control field at every value. -/
def Obligations.EncodeDecodeRoundTrip : Prop :=
  ∀ i : Instr, i.isEvent = false → WellFormed i → ∃ w, encode i = some w ∧ w < 2 ^ 96 ∧ decodeWord w = .ok i

/-- A few words written out from the encoding of the spec decode to what they stand for (R233, R238 to R243, R255). -/
def Obligations.DecodeSampleWords : Prop :=
  let c : Ctl := { gaN := false, gaI := 15, gbN := false, gbI := 15, stall := 0, yld := false, hold := 0, ch := 0 }
  decodeWord 0x0401EF20001E3C2783C3C300 = .ok (.shl { c with stall := 1 }
    { d := .v 0, a := .sp 1, b := .imm 2, c := .sp 0, e := .sp 0, pd := 15, rm := .rn, ty := .b64, sub := 0 }) ∧
  decodeWord 0x5001EF0000A0000000000030 = .ok (.ld c
    { data := .v 2, base := .k 0, index := .v 0, off := 0, path := 0, scope := 0, ty := .s32, sub := 0 }) ∧
  decodeWord 0xA0006F503C1E1FFFFFA00000 = .ok (.bra { c with gaI := 3, stall := 2, yld := true }
    { argb := .sp 0, tgt := .sp 0, off := 0xFFFFFD, dem := 0, argc := 0, flg := 0 }) ∧
  decodeWord 0x20C1EF40014020201BC3DE02 = .ok (.ffma { c with stall := 2 }
    { d := .v 5, a := .v 1, b := .v 2, c := .v 3, e := .sp 0, pd := 15, rm := .rz, ty := .f32, sub := 2 }) ∧
  decodeWord 0 = .error 0x04

/-- The module as reset and bring-up leave it (R433, R432, R414): every byte of memory reads as zero, every cell is FREE with
generation 0, every barrier and counter table is empty, no partition exists, the link is up, the clock stands at its full
step of 64, no error is recorded and no thread stands. -/
def Obligations.ResetValues : Prop :=
  (∀ a, memGet State.reset.mem a = 0) ∧ State.reset.parts = [] ∧ State.reset.wgs = [] ∧ State.reset.launches = [] ∧
  (∀ d c, tget (State.reset.dir d).cells c = none) ∧ State.reset.ops = [] ∧ State.reset.records = [] ∧
  (∀ n, (State.reset.core n).tlb = []) ∧ State.reset.link = true ∧ State.reset.clock = 64 ∧ State.reset.now = 0 ∧
  State.reset.fatal = none ∧ State.reset.power = true ∧ State.reset.ecc = [] ∧ State.reset.poison = []

/-- Every step keeps every memory, scratchpads included, in its canonical form. -/
def Obligations.MemoryCanonicalKept : Prop := ∀ s s' : State, memOk s = true → step s = .next s' → memOk s' = true

/-- The memories after reset are in the canonical form. -/
def Obligations.MemoryCanonicalAtReset : Prop := memOk State.reset = true
end

