-- ==== Sys2Proof/Laws/PerInstr.lean ====
section
/-!
SUPPORT. What holds of every instruction as syntax, one lemma per constructor: the format under which its parts are laid
out is the one that the opcode map gives its OPC and FN (spec/10_encoding.md R233, R245 to R254).
-/

namespace Sys2Proof.Laws

/-- The format of an operand area. -/
def formOf : Body → Form
  | .f3 _ => .f3
  | .fi _ => .fi
  | .fm _ => .fm
  | .fb _ => .fb
  | .fx _ => .fx

/-- The parts of i stand under the format that the map gives them. -/
def WordForm.Statement (i : Instr) : Prop := ∀ p, i.parts = some p → Map.form p.opc p.fn.val = formOf p.body

theorem WordForm.add (c : Ctl) (o : F3) : WordForm.Statement (Instr.add c o) := by
  intro p h; cases h; rfl
theorem WordForm.addImm (c : Ctl) (o : FI) : WordForm.Statement (Instr.addImm c o) := by
  intro p h; cases h; rfl
theorem WordForm.sub (c : Ctl) (o : F3) : WordForm.Statement (Instr.sub c o) := by
  intro p h; cases h; rfl
theorem WordForm.subImm (c : Ctl) (o : FI) : WordForm.Statement (Instr.subImm c o) := by
  intro p h; cases h; rfl
theorem WordForm.mul (c : Ctl) (o : F3) : WordForm.Statement (Instr.mul c o) := by
  intro p h; cases h; rfl
theorem WordForm.mulImm (c : Ctl) (o : FI) : WordForm.Statement (Instr.mulImm c o) := by
  intro p h; cases h; rfl
theorem WordForm.mulh (c : Ctl) (o : F3) : WordForm.Statement (Instr.mulh c o) := by
  intro p h; cases h; rfl
theorem WordForm.mad (c : Ctl) (o : F3) : WordForm.Statement (Instr.mad c o) := by
  intro p h; cases h; rfl
theorem WordForm.div (c : Ctl) (o : F3) : WordForm.Statement (Instr.div c o) := by
  intro p h; cases h; rfl
theorem WordForm.rem (c : Ctl) (o : F3) : WordForm.Statement (Instr.rem c o) := by
  intro p h; cases h; rfl
theorem WordForm.neg (c : Ctl) (o : F3) : WordForm.Statement (Instr.neg c o) := by
  intro p h; cases h; rfl
theorem WordForm.abs (c : Ctl) (o : F3) : WordForm.Statement (Instr.abs c o) := by
  intro p h; cases h; rfl
theorem WordForm.min (c : Ctl) (o : F3) : WordForm.Statement (Instr.min c o) := by
  intro p h; cases h; rfl
theorem WordForm.minImm (c : Ctl) (o : FI) : WordForm.Statement (Instr.minImm c o) := by
  intro p h; cases h; rfl
theorem WordForm.max (c : Ctl) (o : F3) : WordForm.Statement (Instr.max c o) := by
  intro p h; cases h; rfl
theorem WordForm.maxImm (c : Ctl) (o : FI) : WordForm.Statement (Instr.maxImm c o) := by
  intro p h; cases h; rfl
theorem WordForm.sad (c : Ctl) (o : F3) : WordForm.Statement (Instr.sad c o) := by
  intro p h; cases h; rfl
theorem WordForm.and (c : Ctl) (o : F3) : WordForm.Statement (Instr.and c o) := by
  intro p h; cases h; rfl
theorem WordForm.andImm (c : Ctl) (o : FI) : WordForm.Statement (Instr.andImm c o) := by
  intro p h; cases h; rfl
theorem WordForm.or (c : Ctl) (o : F3) : WordForm.Statement (Instr.or c o) := by
  intro p h; cases h; rfl
theorem WordForm.orImm (c : Ctl) (o : FI) : WordForm.Statement (Instr.orImm c o) := by
  intro p h; cases h; rfl
theorem WordForm.xor (c : Ctl) (o : F3) : WordForm.Statement (Instr.xor c o) := by
  intro p h; cases h; rfl
theorem WordForm.xorImm (c : Ctl) (o : FI) : WordForm.Statement (Instr.xorImm c o) := by
  intro p h; cases h; rfl
theorem WordForm.not (c : Ctl) (o : F3) : WordForm.Statement (Instr.not c o) := by
  intro p h; cases h; rfl
theorem WordForm.shl (c : Ctl) (o : F3) : WordForm.Statement (Instr.shl c o) := by
  intro p h; cases h; rfl
theorem WordForm.shlImm (c : Ctl) (o : FI) : WordForm.Statement (Instr.shlImm c o) := by
  intro p h; cases h; rfl
theorem WordForm.shr (c : Ctl) (o : F3) : WordForm.Statement (Instr.shr c o) := by
  intro p h; cases h; rfl
theorem WordForm.shrImm (c : Ctl) (o : FI) : WordForm.Statement (Instr.shrImm c o) := by
  intro p h; cases h; rfl
theorem WordForm.sar (c : Ctl) (o : F3) : WordForm.Statement (Instr.sar c o) := by
  intro p h; cases h; rfl
theorem WordForm.sarImm (c : Ctl) (o : FI) : WordForm.Statement (Instr.sarImm c o) := by
  intro p h; cases h; rfl
theorem WordForm.rot (c : Ctl) (o : F3) : WordForm.Statement (Instr.rot c o) := by
  intro p h; cases h; rfl
theorem WordForm.rotImm (c : Ctl) (o : FI) : WordForm.Statement (Instr.rotImm c o) := by
  intro p h; cases h; rfl
theorem WordForm.clz (c : Ctl) (o : F3) : WordForm.Statement (Instr.clz c o) := by
  intro p h; cases h; rfl
theorem WordForm.ctz (c : Ctl) (o : F3) : WordForm.Statement (Instr.ctz c o) := by
  intro p h; cases h; rfl
theorem WordForm.popc (c : Ctl) (o : F3) : WordForm.Statement (Instr.popc c o) := by
  intro p h; cases h; rfl
theorem WordForm.brev (c : Ctl) (o : F3) : WordForm.Statement (Instr.brev c o) := by
  intro p h; cases h; rfl
theorem WordForm.sel (c : Ctl) (o : F3) : WordForm.Statement (Instr.sel c o) := by
  intro p h; cases h; rfl
theorem WordForm.cmp (c : Ctl) (o : F3) : WordForm.Statement (Instr.cmp c o) := by
  intro p h; cases h; rfl
theorem WordForm.cmpImm (c : Ctl) (o : FI) : WordForm.Statement (Instr.cmpImm c o) := by
  intro p h; cases h; rfl
theorem WordForm.mov (c : Ctl) (o : F3) : WordForm.Statement (Instr.mov c o) := by
  intro p h; cases h; rfl
theorem WordForm.movi (c : Ctl) (o : FI) : WordForm.Statement (Instr.movi c o) := by
  intro p h; cases h; rfl
theorem WordForm.movh (c : Ctl) (o : FI) : WordForm.Statement (Instr.movh c o) := by
  intro p h; cases h; rfl
theorem WordForm.ext (c : Ctl) (o : F3) : WordForm.Statement (Instr.ext c o) := by
  intro p h; cases h; rfl
theorem WordForm.lea (c : Ctl) (o : F3) : WordForm.Statement (Instr.lea c o) := by
  intro p h; cases h; rfl
theorem WordForm.pack (c : Ctl) (o : F3) : WordForm.Statement (Instr.pack c o) := by
  intro p h; cases h; rfl
theorem WordForm.unpack (c : Ctl) (o : F3) : WordForm.Statement (Instr.unpack c o) := by
  intro p h; cases h; rfl
theorem WordForm.swz (c : Ctl) (o : F3) : WordForm.Statement (Instr.swz c o) := by
  intro p h; cases h; rfl
theorem WordForm.dot4 (c : Ctl) (o : F3) : WordForm.Statement (Instr.dot4 c o) := by
  intro p h; cases h; rfl
theorem WordForm.bfx (c : Ctl) (o : F3) : WordForm.Statement (Instr.bfx c o) := by
  intro p h; cases h; rfl
theorem WordForm.bfi (c : Ctl) (o : F3) : WordForm.Statement (Instr.bfi c o) := by
  intro p h; cases h; rfl
theorem WordForm.bmm8 (c : Ctl) (o : F3) : WordForm.Statement (Instr.bmm8 c o) := by
  intro p h; cases h; rfl
theorem WordForm.pdep (c : Ctl) (o : F3) : WordForm.Statement (Instr.pdep c o) := by
  intro p h; cases h; rfl
theorem WordForm.pext (c : Ctl) (o : F3) : WordForm.Statement (Instr.pext c o) := by
  intro p h; cases h; rfl
theorem WordForm.bperm (c : Ctl) (o : F3) : WordForm.Statement (Instr.bperm c o) := by
  intro p h; cases h; rfl
theorem WordForm.fadd (c : Ctl) (o : F3) : WordForm.Statement (Instr.fadd c o) := by
  intro p h; cases h; rfl
theorem WordForm.faddImm (c : Ctl) (o : FI) : WordForm.Statement (Instr.faddImm c o) := by
  intro p h; cases h; rfl
theorem WordForm.fsub (c : Ctl) (o : F3) : WordForm.Statement (Instr.fsub c o) := by
  intro p h; cases h; rfl
theorem WordForm.fsubImm (c : Ctl) (o : FI) : WordForm.Statement (Instr.fsubImm c o) := by
  intro p h; cases h; rfl
theorem WordForm.fmul (c : Ctl) (o : F3) : WordForm.Statement (Instr.fmul c o) := by
  intro p h; cases h; rfl
theorem WordForm.fmulImm (c : Ctl) (o : FI) : WordForm.Statement (Instr.fmulImm c o) := by
  intro p h; cases h; rfl
theorem WordForm.ffma (c : Ctl) (o : F3) : WordForm.Statement (Instr.ffma c o) := by
  intro p h; cases h; rfl
theorem WordForm.fmin (c : Ctl) (o : F3) : WordForm.Statement (Instr.fmin c o) := by
  intro p h; cases h; rfl
theorem WordForm.fminImm (c : Ctl) (o : FI) : WordForm.Statement (Instr.fminImm c o) := by
  intro p h; cases h; rfl
theorem WordForm.fmax (c : Ctl) (o : F3) : WordForm.Statement (Instr.fmax c o) := by
  intro p h; cases h; rfl
theorem WordForm.fmaxImm (c : Ctl) (o : FI) : WordForm.Statement (Instr.fmaxImm c o) := by
  intro p h; cases h; rfl
theorem WordForm.fcmp (c : Ctl) (o : F3) : WordForm.Statement (Instr.fcmp c o) := by
  intro p h; cases h; rfl
theorem WordForm.fcmpImm (c : Ctl) (o : FI) : WordForm.Statement (Instr.fcmpImm c o) := by
  intro p h; cases h; rfl
theorem WordForm.fclass (c : Ctl) (o : F3) : WordForm.Statement (Instr.fclass c o) := by
  intro p h; cases h; rfl
theorem WordForm.frnd (c : Ctl) (o : F3) : WordForm.Statement (Instr.frnd c o) := by
  intro p h; cases h; rfl
theorem WordForm.cvt (c : Ctl) (o : F3) : WordForm.Statement (Instr.cvt c o) := by
  intro p h; cases h; rfl
theorem WordForm.fdot2 (c : Ctl) (o : F3) : WordForm.Statement (Instr.fdot2 c o) := by
  intro p h; cases h; rfl
theorem WordForm.exp2 (c : Ctl) (fn : Fin 16) (o : F3) : WordForm.Statement (Instr.exp2 c fn o) := by
  intro p h; cases h; simp [Map.form, formOf]
theorem WordForm.log2 (c : Ctl) (fn : Fin 16) (o : F3) : WordForm.Statement (Instr.log2 c fn o) := by
  intro p h; cases h; simp [Map.form, formOf]
theorem WordForm.rcp (c : Ctl) (fn : Fin 16) (o : F3) : WordForm.Statement (Instr.rcp c fn o) := by
  intro p h; cases h; simp [Map.form, formOf]
theorem WordForm.rsqrt (c : Ctl) (fn : Fin 16) (o : F3) : WordForm.Statement (Instr.rsqrt c fn o) := by
  intro p h; cases h; simp [Map.form, formOf]
theorem WordForm.sqrt (c : Ctl) (fn : Fin 16) (o : F3) : WordForm.Statement (Instr.sqrt c fn o) := by
  intro p h; cases h; simp [Map.form, formOf]
theorem WordForm.sin (c : Ctl) (fn : Fin 16) (o : F3) : WordForm.Statement (Instr.sin c fn o) := by
  intro p h; cases h; simp [Map.form, formOf]
theorem WordForm.cos (c : Ctl) (fn : Fin 16) (o : F3) : WordForm.Statement (Instr.cos c fn o) := by
  intro p h; cases h; simp [Map.form, formOf]
theorem WordForm.tanh (c : Ctl) (fn : Fin 16) (o : F3) : WordForm.Statement (Instr.tanh c fn o) := by
  intro p h; cases h; simp [Map.form, formOf]
theorem WordForm.sigm (c : Ctl) (fn : Fin 16) (o : F3) : WordForm.Statement (Instr.sigm c fn o) := by
  intro p h; cases h; simp [Map.form, formOf]
theorem WordForm.erf (c : Ctl) (fn : Fin 16) (o : F3) : WordForm.Statement (Instr.erf c fn o) := by
  intro p h; cases h; simp [Map.form, formOf]
theorem WordForm.rngDraw (c : Ctl) (o : F3) : WordForm.Statement (Instr.rngDraw c o) := by
  intro p h; cases h; rfl
theorem WordForm.gmax (c : Ctl) (o : F3) : WordForm.Statement (Instr.gmax c o) := by
  intro p h; cases h; rfl
theorem WordForm.quant (c : Ctl) (o : F3) : WordForm.Statement (Instr.quant c o) := by
  intro p h; cases h; rfl
theorem WordForm.dequant (c : Ctl) (o : F3) : WordForm.Statement (Instr.dequant c o) := by
  intro p h; cases h; rfl
theorem WordForm.shfl (c : Ctl) (o : F3) : WordForm.Statement (Instr.shfl c o) := by
  intro p h; cases h; rfl
theorem WordForm.vote (c : Ctl) (o : F3) : WordForm.Statement (Instr.vote c o) := by
  intro p h; cases h; rfl
theorem WordForm.voteImm (c : Ctl) (o : FI) : WordForm.Statement (Instr.voteImm c o) := by
  intro p h; cases h; rfl
theorem WordForm.matchT (c : Ctl) (o : F3) : WordForm.Statement (Instr.matchT c o) := by
  intro p h; cases h; rfl
theorem WordForm.redTeam (c : Ctl) (o : F3) : WordForm.Statement (Instr.redTeam c o) := by
  intro p h; cases h; rfl
theorem WordForm.redTeamImm (c : Ctl) (o : FI) : WordForm.Statement (Instr.redTeamImm c o) := by
  intro p h; cases h; rfl
theorem WordForm.scanTeam (c : Ctl) (o : F3) : WordForm.Statement (Instr.scanTeam c o) := by
  intro p h; cases h; rfl
theorem WordForm.scanTeamImm (c : Ctl) (o : FI) : WordForm.Statement (Instr.scanTeamImm c o) := by
  intro p h; cases h; rfl
theorem WordForm.topkIns (c : Ctl) (o : F3) : WordForm.Statement (Instr.topkIns c o) := by
  intro p h; cases h; rfl
theorem WordForm.ld (c : Ctl) (o : FM) : WordForm.Statement (Instr.ld c o) := by
  intro p h; cases h; rfl
theorem WordForm.ldRo (c : Ctl) (o : FM) : WordForm.Statement (Instr.ldRo c o) := by
  intro p h; cases h; rfl
theorem WordForm.ldC (c : Ctl) (o : FM) : WordForm.Statement (Instr.ldC c o) := by
  intro p h; cases h; rfl
theorem WordForm.ldTl (c : Ctl) (o : FM) : WordForm.Statement (Instr.ldTl c o) := by
  intro p h; cases h; rfl
theorem WordForm.st (c : Ctl) (o : FM) : WordForm.Statement (Instr.st c o) := by
  intro p h; cases h; rfl
theorem WordForm.pref (c : Ctl) (o : FM) : WordForm.Statement (Instr.pref c o) := by
  intro p h; cases h; rfl
theorem WordForm.smp (c : Ctl) (o : F3) : WordForm.Statement (Instr.smp c o) := by
  intro p h; cases h; rfl
theorem WordForm.atom (c : Ctl) (fn : Fin 16) (o : FM) : WordForm.Statement (Instr.atom c fn o) := by
  intro p h; cases h; simp [Map.form, formOf]
theorem WordForm.atomF (c : Ctl) (fn : Fin 16) (o : FM) : WordForm.Statement (Instr.atomF c fn o) := by
  intro p h; cases h; simp [Map.form, formOf]
theorem WordForm.atomCas (c : Ctl) (o : FM) : WordForm.Statement (Instr.atomCas c o) := by
  intro p h; cases h; rfl
theorem WordForm.atomOrd (c : Ctl) (fn : Fin 16) (o : FM) : WordForm.Statement (Instr.atomOrd c fn o) := by
  intro p h; cases h; simp [Map.form, formOf]
theorem WordForm.fence (c : Ctl) (fn : Fin 16) (o : F3) : WordForm.Statement (Instr.fence c fn o) := by
  intro p h; cases h; simp [Map.form, formOf]
theorem WordForm.fencePath (c : Ctl) (o : F3) : WordForm.Statement (Instr.fencePath c o) := by
  intro p h; cases h; rfl
theorem WordForm.acq (c : Ctl) (o : FM) : WordForm.Statement (Instr.acq c o) := by
  intro p h; cases h; rfl
theorem WordForm.acqGe (c : Ctl) (o : FM) : WordForm.Statement (Instr.acqGe c o) := by
  intro p h; cases h; rfl
theorem WordForm.acqX (c : Ctl) (o : FM) : WordForm.Statement (Instr.acqX c o) := by
  intro p h; cases h; rfl
theorem WordForm.rel (c : Ctl) (o : FM) : WordForm.Statement (Instr.rel c o) := by
  intro p h; cases h; rfl
theorem WordForm.syncBind (c : Ctl) (o : F3) : WordForm.Statement (Instr.syncBind c o) := by
  intro p h; cases h; rfl
theorem WordForm.syncUnbind (c : Ctl) (o : F3) : WordForm.Statement (Instr.syncUnbind c o) := by
  intro p h; cases h; rfl
theorem WordForm.cinv (c : Ctl) (o : FM) : WordForm.Statement (Instr.cinv c o) := by
  intro p h; cases h; rfl
theorem WordForm.cwb (c : Ctl) (o : FM) : WordForm.Statement (Instr.cwb c o) := by
  intro p h; cases h; rfl
theorem WordForm.aggDecl (c : Ctl) (o : F3) : WordForm.Statement (Instr.aggDecl c o) := by
  intro p h; cases h; rfl
theorem WordForm.aggFree (c : Ctl) (o : F3) : WordForm.Statement (Instr.aggFree c o) := by
  intro p h; cases h; rfl
theorem WordForm.aggRange (c : Ctl) (o : F3) : WordForm.Statement (Instr.aggRange c o) := by
  intro p h; cases h; rfl
theorem WordForm.aggPfx (c : Ctl) (o : F3) : WordForm.Statement (Instr.aggPfx c o) := by
  intro p h; cases h; rfl
theorem WordForm.aggPick (c : Ctl) (o : F3) : WordForm.Statement (Instr.aggPick c o) := by
  intro p h; cases h; rfl
theorem WordForm.aggSync (c : Ctl) (o : F3) : WordForm.Statement (Instr.aggSync c o) := by
  intro p h; cases h; rfl
theorem WordForm.combJoin (c : Ctl) (o : FX) : WordForm.Statement (Instr.combJoin c o) := by
  intro p h; cases h; rfl
theorem WordForm.combLeave (c : Ctl) (o : FX) : WordForm.Statement (Instr.combLeave c o) := by
  intro p h; cases h; rfl
theorem WordForm.combDef (c : Ctl) (o : FX) : WordForm.Statement (Instr.combDef c o) := by
  intro p h; cases h; rfl
theorem WordForm.combDefs (c : Ctl) (o : FX) : WordForm.Statement (Instr.combDefs c o) := by
  intro p h; cases h; rfl
theorem WordForm.combRd (c : Ctl) (o : FX) : WordForm.Statement (Instr.combRd c o) := by
  intro p h; cases h; rfl
theorem WordForm.combRds (c : Ctl) (o : FX) : WordForm.Statement (Instr.combRds c o) := by
  intro p h; cases h; rfl
theorem WordForm.combKill (c : Ctl) (o : FX) : WordForm.Statement (Instr.combKill c o) := by
  intro p h; cases h; rfl
theorem WordForm.combQ (c : Ctl) (o : FX) : WordForm.Statement (Instr.combQ c o) := by
  intro p h; cases h; rfl
theorem WordForm.combMap (c : Ctl) (o : FX) : WordForm.Statement (Instr.combMap c o) := by
  intro p h; cases h; rfl
theorem WordForm.cpTensor (c : Ctl) (o : FX) : WordForm.Statement (Instr.cpTensor c o) := by
  intro p h; cases h; rfl
theorem WordForm.cpGather (c : Ctl) (o : FX) : WordForm.Statement (Instr.cpGather c o) := by
  intro p h; cases h; rfl
theorem WordForm.cpScatter (c : Ctl) (o : FX) : WordForm.Statement (Instr.cpScatter c o) := by
  intro p h; cases h; rfl
theorem WordForm.cpMcast (c : Ctl) (o : FX) : WordForm.Statement (Instr.cpMcast c o) := by
  intro p h; cases h; rfl
theorem WordForm.cpFill (c : Ctl) (o : FX) : WordForm.Statement (Instr.cpFill c o) := by
  intro p h; cases h; rfl
theorem WordForm.cpResume (c : Ctl) (o : FX) : WordForm.Statement (Instr.cpResume c o) := by
  intro p h; cases h; rfl
theorem WordForm.cbRd (c : Ctl) (o : F3) : WordForm.Statement (Instr.cbRd c o) := by
  intro p h; cases h; rfl
theorem WordForm.dgNode (c : Ctl) (o : FX) : WordForm.Statement (Instr.dgNode c o) := by
  intro p h; cases h; rfl
theorem WordForm.dgGo (c : Ctl) (o : FX) : WordForm.Statement (Instr.dgGo c o) := by
  intro p h; cases h; rfl
theorem WordForm.engGuard (c : Ctl) (o : FX) : WordForm.Statement (Instr.engGuard c o) := by
  intro p h; cases h; rfl
theorem WordForm.wagSend (c : Ctl) (o : FX) : WordForm.Statement (Instr.wagSend c o) := by
  intro p h; cases h; rfl
theorem WordForm.lqPush (c : Ctl) (o : FX) : WordForm.Statement (Instr.lqPush c o) := by
  intro p h; cases h; rfl
theorem WordForm.msSet (c : Ctl) (o : FX) : WordForm.Statement (Instr.msSet c o) := by
  intro p h; cases h; rfl
theorem WordForm.mLd (c : Ctl) (o : FX) : WordForm.Statement (Instr.mLd c o) := by
  intro p h; cases h; rfl
theorem WordForm.mSt (c : Ctl) (o : FX) : WordForm.Statement (Instr.mSt c o) := by
  intro p h; cases h; rfl
theorem WordForm.mZero (c : Ctl) (o : FX) : WordForm.Statement (Instr.mZero c o) := by
  intro p h; cases h; rfl
theorem WordForm.rsvAlloc (c : Ctl) (o : FX) : WordForm.Statement (Instr.rsvAlloc c o) := by
  intro p h; cases h; rfl
theorem WordForm.rsvFree (c : Ctl) (o : FX) : WordForm.Statement (Instr.rsvFree c o) := by
  intro p h; cases h; rfl
theorem WordForm.mma (c : Ctl) (o : FX) : WordForm.Statement (Instr.mma c o) := by
  intro p h; cases h; rfl
theorem WordForm.mmaQ (c : Ctl) (o : FX) : WordForm.Statement (Instr.mmaQ c o) := by
  intro p h; cases h; rfl
theorem WordForm.epi (c : Ctl) (o : FX) : WordForm.Statement (Instr.epi c o) := by
  intro p h; cases h; rfl
theorem WordForm.outlAdd (c : Ctl) (o : FX) : WordForm.Statement (Instr.outlAdd c o) := by
  intro p h; cases h; rfl
theorem WordForm.amaxRd (c : Ctl) (o : FX) : WordForm.Statement (Instr.amaxRd c o) := by
  intro p h; cases h; rfl
theorem WordForm.accClr (c : Ctl) (o : FX) : WordForm.Statement (Instr.accClr c o) := by
  intro p h; cases h; rfl
theorem WordForm.bra (c : Ctl) (o : FB) : WordForm.Statement (Instr.bra c o) := by
  intro p h; cases h; rfl
theorem WordForm.braI (c : Ctl) (o : FB) : WordForm.Statement (Instr.braI c o) := by
  intro p h; cases h; rfl
theorem WordForm.callF (c : Ctl) (o : FB) : WordForm.Statement (Instr.callF c o) := by
  intro p h; cases h; rfl
theorem WordForm.callFH (c : Ctl) (o : FB) : WordForm.Statement (Instr.callFH c o) := by
  intro p h; cases h; rfl
theorem WordForm.callI (c : Ctl) (o : FB) : WordForm.Statement (Instr.callI c o) := by
  intro p h; cases h; rfl
theorem WordForm.callIH (c : Ctl) (o : FB) : WordForm.Statement (Instr.callIH c o) := by
  intro p h; cases h; rfl
theorem WordForm.callQ (c : Ctl) (o : FB) : WordForm.Statement (Instr.callQ c o) := by
  intro p h; cases h; rfl
theorem WordForm.ret (c : Ctl) (o : F3) : WordForm.Statement (Instr.ret c o) := by
  intro p h; cases h; rfl
theorem WordForm.unwind (c : Ctl) (o : F3) : WordForm.Statement (Instr.unwind c o) := by
  intro p h; cases h; rfl
theorem WordForm.exit (c : Ctl) (o : F3) : WordForm.Statement (Instr.exit c o) := by
  intro p h; cases h; rfl
theorem WordForm.loopCap (c : Ctl) (o : FI) : WordForm.Statement (Instr.loopCap c o) := by
  intro p h; cases h; rfl
theorem WordForm.loopStep (c : Ctl) (o : FI) : WordForm.Statement (Instr.loopStep c o) := by
  intro p h; cases h; rfl
theorem WordForm.bktSel (c : Ctl) (o : F3) : WordForm.Statement (Instr.bktSel c o) := by
  intro p h; cases h; rfl
theorem WordForm.elect (c : Ctl) (o : F3) : WordForm.Statement (Instr.elect c o) := by
  intro p h; cases h; rfl
theorem WordForm.yield (c : Ctl) (o : F3) : WordForm.Statement (Instr.yield c o) := by
  intro p h; cases h; rfl
theorem WordForm.nop (c : Ctl) (o : F3) : WordForm.Statement (Instr.nop c o) := by
  intro p h; cases h; rfl
theorem WordForm.barInit (c : Ctl) (o : FI) : WordForm.Statement (Instr.barInit c o) := by
  intro p h; cases h; rfl
theorem WordForm.barArrive (c : Ctl) (o : FI) : WordForm.Statement (Instr.barArrive c o) := by
  intro p h; cases h; rfl
theorem WordForm.barWait (c : Ctl) (o : FI) : WordForm.Statement (Instr.barWait c o) := by
  intro p h; cases h; rfl
theorem WordForm.barTx (c : Ctl) (o : FI) : WordForm.Statement (Instr.barTx c o) := by
  intro p h; cases h; rfl
theorem WordForm.teamSync (c : Ctl) (o : F3) : WordForm.Statement (Instr.teamSync c o) := by
  intro p h; cases h; rfl
theorem WordForm.teamSyncImm (c : Ctl) (o : FI) : WordForm.Statement (Instr.teamSyncImm c o) := by
  intro p h; cases h; rfl
theorem WordForm.wait (c : Ctl) (o : FI) : WordForm.Statement (Instr.wait c o) := by
  intro p h; cases h; rfl
theorem WordForm.trap (c : Ctl) (o : FI) : WordForm.Statement (Instr.trap c o) := by
  intro p h; cases h; rfl
theorem WordForm.brk (c : Ctl) (o : F3) : WordForm.Statement (Instr.brk c o) := by
  intro p h; cases h; rfl
theorem WordForm.rdsr (c : Ctl) (o : FI) : WordForm.Statement (Instr.rdsr c o) := by
  intro p h; cases h; rfl
theorem WordForm.wrsr (c : Ctl) (o : FI) : WordForm.Statement (Instr.wrsr c o) := by
  intro p h; cases h; rfl
theorem WordForm.digestRd (c : Ctl) (o : F3) : WordForm.Statement (Instr.digestRd c o) := by
  intro p h; cases h; rfl
theorem WordForm.tlbInv (c : Ctl) (o : F3) : WordForm.Statement (Instr.tlbInv c o) := by
  intro p h; cases h; rfl
theorem WordForm.sleep (c : Ctl) (o : FI) : WordForm.Statement (Instr.sleep c o) := by
  intro p h; cases h; rfl
theorem WordForm.halt (c : Ctl) (o : F3) : WordForm.Statement (Instr.halt c o) := by
  intro p h; cases h; rfl
theorem WordForm.tlbMissWalk (core k victim : Nat) : WordForm.Statement (Instr.tlbMissWalk core k victim) := by
  intro p h; cases h
theorem WordForm.hostTranslationResponse (core k : Nat) (ok : Bool) (ha : Nat) : WordForm.Statement (Instr.hostTranslationResponse core k ok ha) := by
  intro p h; cases h
theorem WordForm.hostRequestTimeout (core k : Nat) (req : Option Nat) : WordForm.Statement (Instr.hostRequestTimeout core k req) := by
  intro p h; cases h
theorem WordForm.atsInvalidation (part ha size : Nat) : WordForm.Statement (Instr.atsInvalidation part ha size) := by
  intro p h; cases h
theorem WordForm.flitInjection (p : Nat) : WordForm.Statement (Instr.flitInjection p) := by
  intro p h; cases h
theorem WordForm.flitArrival (p : Nat) (good : Bool) : WordForm.Statement (Instr.flitArrival p good) := by
  intro p h; cases h
theorem WordForm.sliceRequest (p : Nat) : WordForm.Statement (Instr.sliceRequest p) := by
  intro p h; cases h
theorem WordForm.replyArrival (p : Nat) : WordForm.Statement (Instr.replyArrival p) := by
  intro p h; cases h
theorem WordForm.requestRetransmit (r : Nat) : WordForm.Statement (Instr.requestRetransmit r) := by
  intro p h; cases h
theorem WordForm.congestionWindowEnd : WordForm.Statement Instr.congestionWindowEnd := by
  intro p h; cases h
theorem WordForm.aggUpdateApply (part slot : Nat) : WordForm.Statement (Instr.aggUpdateApply part slot) := by
  intro p h; cases h
theorem WordForm.aggQueryAccept (op : Nat) : WordForm.Statement (Instr.aggQueryAccept op) := by
  intro p h; cases h
theorem WordForm.aggBuildComplete (op : Nat) : WordForm.Statement (Instr.aggBuildComplete op) := by
  intro p h; cases h
theorem WordForm.aggFreeDrain (op : Nat) : WordForm.Statement (Instr.aggFreeDrain op) := by
  intro p h; cases h
theorem WordForm.orderedEntryArrival (slice : Nat) : WordForm.Statement (Instr.orderedEntryArrival slice) := by
  intro p h; cases h
theorem WordForm.floorReport (core slice : Nat) : WordForm.Statement (Instr.floorReport core slice) := by
  intro p h; cases h
theorem WordForm.orderedEntryApply (slice line : Nat) : WordForm.Statement (Instr.orderedEntryApply slice line) := by
  intro p h; cases h
theorem WordForm.scalingRingPush (part : Nat) : WordForm.Statement (Instr.scalingRingPush part) := by
  intro p h; cases h
theorem WordForm.combCopyComplete (op : Nat) : WordForm.Statement (Instr.combCopyComplete op) := by
  intro p h; cases h
theorem WordForm.combLeaveComplete (wg : Nat) : WordForm.Statement (Instr.combLeaveComplete wg) := by
  intro p h; cases h
theorem WordForm.combPlacementMove (dir cell place : Nat) : WordForm.Statement (Instr.combPlacementMove dir cell place) := by
  intro p h; cases h
theorem WordForm.engineCommandDispatch (wg : Nat) : WordForm.Statement (Instr.engineCommandDispatch wg) := by
  intro p h; cases h
theorem WordForm.engineUnitComplete (wg cb unit : Nat) (part : Option Nat) : WordForm.Statement (Instr.engineUnitComplete wg cb unit part) := by
  intro p h; cases h
theorem WordForm.stallCountExpire (wg tid : Nat) : WordForm.Statement (Instr.stallCountExpire wg tid) := by
  intro p h; cases h
theorem WordForm.sleepExpire (wg tid : Nat) : WordForm.Statement (Instr.sleepExpire wg tid) := by
  intro p h; cases h
theorem WordForm.calleeQueueDrain (core : Nat) : WordForm.Statement (Instr.calleeQueueDrain core) := by
  intro p h; cases h
theorem WordForm.swarmStart (core : Nat) : WordForm.Statement (Instr.swarmStart core) := by
  intro p h; cases h
theorem WordForm.mmaComplete (wg : Nat) : WordForm.Statement (Instr.mmaComplete wg) := by
  intro p h; cases h
theorem WordForm.epiComplete (wg : Nat) : WordForm.Statement (Instr.epiComplete wg) := by
  intro p h; cases h
theorem WordForm.tileTransferComplete (wg : Nat) : WordForm.Statement (Instr.tileTransferComplete wg) := by
  intro p h; cases h
theorem WordForm.matrixClaimGrant (core : Nat) : WordForm.Statement (Instr.matrixClaimGrant core) := by
  intro p h; cases h
theorem WordForm.matrixEviction (core : Nat) : WordForm.Statement (Instr.matrixEviction core) := by
  intro p h; cases h
theorem WordForm.doorbell (part q value : Nat) : WordForm.Statement (Instr.doorbell part q value) := by
  intro p h; cases h
theorem WordForm.ringCommandNop (part q : Nat) : WordForm.Statement (Instr.ringCommandNop part q) := by
  intro p h; cases h
theorem WordForm.ringCommandLaunch (part q : Nat) : WordForm.Statement (Instr.ringCommandLaunch part q) := by
  intro p h; cases h
theorem WordForm.ringCommandGraph (part q : Nat) : WordForm.Statement (Instr.ringCommandGraph part q) := by
  intro p h; cases h
theorem WordForm.ringCommandDigestReset (part q : Nat) : WordForm.Statement (Instr.ringCommandDigestReset part q) := by
  intro p h; cases h
theorem WordForm.graphPredDecrement (part : Nat) : WordForm.Statement (Instr.graphPredDecrement part) := by
  intro p h; cases h
theorem WordForm.launchQueueTake (part die : Nat) : WordForm.Statement (Instr.launchQueueTake part die) := by
  intro p h; cases h
theorem WordForm.workgroupPlace (die : Nat) : WordForm.Statement (Instr.workgroupPlace die) := by
  intro p h; cases h
theorem WordForm.priorityReserve (launch : Nat) : WordForm.Statement (Instr.priorityReserve launch) := by
  intro p h; cases h
theorem WordForm.granuleClearComplete (wg : Nat) : WordForm.Statement (Instr.granuleClearComplete wg) := by
  intro p h; cases h
theorem WordForm.workgroupRetire (wg : Nat) : WordForm.Statement (Instr.workgroupRetire wg) := by
  intro p h; cases h
theorem WordForm.digestLinkAppend (part q : Nat) : WordForm.Statement (Instr.digestLinkAppend part q) := by
  intro p h; cases h
theorem WordForm.waggleHandlerLaunch (part : Nat) : WordForm.Statement (Instr.waggleHandlerLaunch part) := by
  intro p h; cases h
theorem WordForm.faultRecordRelease (rec : Nat) : WordForm.Statement (Instr.faultRecordRelease rec) := by
  intro p h; cases h
theorem WordForm.workgroupSave (wg : Nat) : WordForm.Statement (Instr.workgroupSave wg) := by
  intro p h; cases h
theorem WordForm.workgroupRestore (wg core : Nat) (bad : Option Nat) : WordForm.Statement (Instr.workgroupRestore wg core bad) := by
  intro p h; cases h
theorem WordForm.eccCorrected (kind : UnitKind) (index : Nat) : WordForm.Statement (Instr.eccCorrected kind index) := by
  intro p h; cases h
theorem WordForm.fatalError (kind : UnitKind) (index : Nat) : WordForm.Statement (Instr.fatalError kind index) := by
  intro p h; cases h
theorem WordForm.powerArbiterTick (avg100us avg1ms : Nat) : WordForm.Statement (Instr.powerArbiterTick avg100us avg1ms) := by
  intro p h; cases h
theorem WordForm.hostBar2Access (part va n : Nat) (data : Option (List Byte)) :
    WordForm.Statement (Instr.hostBar2Access part va n data) := by
  intro p h; cases h
theorem WordForm.registerWrite (part off value : Nat) : WordForm.Statement (Instr.registerWrite part off value) := by
  intro p h; cases h
theorem WordForm.qtabWrite (part q value : Nat) : WordForm.Statement (Instr.qtabWrite part q value) := by
  intro p h; cases h
theorem WordForm.fqstatClear (part : Nat) : WordForm.Statement (Instr.fqstatClear part) := by
  intro p h; cases h
theorem WordForm.fqresp1 (part value : Nat) : WordForm.Statement (Instr.fqresp1 part value) := by
  intro p h; cases h
theorem WordForm.switchOut (part value : Nat) : WordForm.Statement (Instr.switchOut part value) := by
  intro p h; cases h
theorem WordForm.switchIn (part value : Nat) : WordForm.Statement (Instr.switchIn part value) := by
  intro p h; cases h
theorem WordForm.restore (part value : Nat) : WordForm.Statement (Instr.restore part value) := by
  intro p h; cases h
theorem WordForm.attest (part value : Nat) : WordForm.Statement (Instr.attest part value) := by
  intro p h; cases h
theorem WordForm.faultQueuePost (part : Nat) : WordForm.Statement (Instr.faultQueuePost part) := by
  intro p h; cases h
theorem WordForm.faultQueueDrain (part : Nat) : WordForm.Statement (Instr.faultQueueDrain part) := by
  intro p h; cases h
theorem WordForm.createCq (part : Nat) : WordForm.Statement (Instr.createCq part) := by
  intro p h; cases h
theorem WordForm.destroyCq (part : Nat) : WordForm.Statement (Instr.destroyCq part) := by
  intro p h; cases h
theorem WordForm.createQp (part : Nat) : WordForm.Statement (Instr.createQp part) := by
  intro p h; cases h
theorem WordForm.modifyQp (part : Nat) : WordForm.Statement (Instr.modifyQp part) := by
  intro p h; cases h
theorem WordForm.destroyQp (part : Nat) : WordForm.Statement (Instr.destroyQp part) := by
  intro p h; cases h
theorem WordForm.regMr (part : Nat) : WordForm.Statement (Instr.regMr part) := by
  intro p h; cases h
theorem WordForm.deregMr (part : Nat) : WordForm.Statement (Instr.deregMr part) := by
  intro p h; cases h
theorem WordForm.sqdb (part value : Nat) : WordForm.Statement (Instr.sqdb part value) := by
  intro p h; cases h
theorem WordForm.rqdb (part value : Nat) : WordForm.Statement (Instr.rqdb part value) := by
  intro p h; cases h
theorem WordForm.sendWorkRequest (part qpn : Nat) (status : Nat) (data : List Byte) : WordForm.Statement (Instr.sendWorkRequest part qpn status data) := by
  intro p h; cases h
theorem WordForm.roceInbound (part qpn kind : Nat) (rva rkey imm : Nat) (data : List Byte) : WordForm.Statement (Instr.roceInbound part qpn kind rva rkey imm data) := by
  intro p h; cases h
theorem WordForm.remoteEncapRequest (part node spart seq op va : Nat) (args : List Word) : WordForm.Statement (Instr.remoteEncapRequest part node spart seq op va args) := by
  intro p h; cases h
theorem WordForm.remoteRetransmit (r : Nat) : WordForm.Statement (Instr.remoteRetransmit r) := by
  intro p h; cases h
theorem WordForm.hostLinkDown : WordForm.Statement Instr.hostLinkDown := by
  intro p h; cases h
theorem WordForm.flrVf (part : Nat) : WordForm.Statement (Instr.flrVf part) := by
  intro p h; cases h
theorem WordForm.partitionCreate (part : Nat) (hives slices groups : List Nat) (shadow combbk : Nat) (rates : List Nat)
    (rootPt asid rcb : Nat) (image : List (Nat × List Byte)) :
    WordForm.Statement (Instr.partitionCreate part hives slices groups shadow combbk rates rootPt asid rcb image) := by
  intro p h; cases h
theorem WordForm.partitionResize (part : Nat) (hives slices groups : List Nat) (rates : List Nat) : WordForm.Statement (Instr.partitionResize part hives slices groups rates) := by
  intro p h; cases h
theorem WordForm.firmwareStage (bank : Nat) (image : List Byte) : WordForm.Statement (Instr.firmwareStage bank image) := by
  intro p h; cases h
theorem WordForm.moduleReset : WordForm.Statement Instr.moduleReset := by
  intro p h; cases h
theorem WordForm.localAccessComplete (op : Nat) : WordForm.Statement (Instr.localAccessComplete op) := by
  intro p h; cases h
theorem WordForm.hbmReadComplete (line : Nat) (good : Bool) (victim : Nat) : WordForm.Statement (Instr.hbmReadComplete line good victim) := by
  intro p h; cases h
theorem WordForm.combDefinitionComplete (op : Nat) : WordForm.Statement (Instr.combDefinitionComplete op) := by
  intro p h; cases h
theorem WordForm.yieldHoldExpire (wg tid : Nat) : WordForm.Statement (Instr.yieldHoldExpire wg tid) := by
  intro p h; cases h
theorem WordForm.hostCompletion (r : Nat) (good : Bool) : WordForm.Statement (Instr.hostCompletion r good) := by
  intro p h; cases h
theorem WordForm.roceRetryTimeout (part qpn : Nat) : WordForm.Statement (Instr.roceRetryTimeout part qpn) := by
  intro p h; cases h
theorem WordForm.lossOfPower : WordForm.Statement Instr.lossOfPower := by
  intro p h; cases h

end Sys2Proof.Laws
end

