-- ==== Sys2Proof/Laws/Words.lean ====
section
/-!
SUPPORT. Fields of an instruction word: the codes of operands, types and modes, and each part of a word read back from it
(spec/10_encoding.md R231 to R243).
-/

namespace Sys2Proof.Laws

open Sys2Proof

/-! ## Codes -/

/-- An operand code has nine bits (R233). -/
theorem code_lt (o : Opnd) : o.code < 512 := by cases o <;> simp [Opnd.code] <;> omega

/-- An operand is read back from its code. -/
theorem ofCode_code (o : Opnd) : Opnd.ofCode o.code = o := by
  cases o with
  | v n => exact dif_pos n.isLt
  | sp n =>
    have e : 240 + n.val - 240 = n.val := by omega
    show Opnd.ofCode (240 + n.val) = _
    unfold Opnd.ofCode
    rw [dif_neg (by omega), dif_pos (by omega)]
    simp only [e]
  | k n =>
    have e : 256 + n.val - 256 = n.val := by omega
    show Opnd.ofCode (256 + n.val) = _
    unfold Opnd.ofCode
    rw [dif_neg (by omega), dif_neg (by omega), dif_pos (by omega)]
    simp only [e]
  | rsv n =>
    have e : 320 + n.val - 320 = n.val := by omega
    show Opnd.ofCode (320 + n.val) = _
    unfold Opnd.ofCode
    rw [dif_neg (by omega), dif_neg (by omega), dif_neg (by omega), dif_pos (by omega)]
    simp only [e]
  | imm n =>
    have e : (448 + n.val - 448) % 64 = n.val := by omega
    show Opnd.ofCode (448 + n.val) = _
    unfold Opnd.ofCode
    rw [dif_neg (by omega), dif_neg (by omega), dif_neg (by omega), dif_neg (by omega)]
    simp only [e]

/-- Types and rounding modes are read back from their codes. -/
theorem ty_code (t : Ty) : Ty.ofCode t.code = t := by cases t <;> rfl
theorem ty_lt (t : Ty) : t.code < 16 := by cases t <;> decide
theorem rm_code (t : RM) : RM.ofCode t.code = t := by cases t <;> rfl
theorem rm_lt (t : RM) : t.code < 4 := by cases t <;> decide

/-! ## Fields -/

/-- Bits n + lo − 1 to lo of a number are x. -/
def Holds (w lo n x : Nat) : Prop := w / 2 ^ lo % 2 ^ n = x

theorem fld_of {w lo n : Nat} {x : Fin (2 ^ n)} (h : Holds w lo n x.val) : fld w lo n = x := Fin.ext h

theorem opndAt_of {w lo : Nat} {o : Opnd} (h : Holds w lo 9 o.code) : opndAt w lo = o :=
  (congrArg Opnd.ofCode h).trans (ofCode_code o)

/-! ## Operand areas -/

/-- The fields of the operand area under F3 are read back. -/
theorem f3_holds (t d a b c e pd rm ty sub : Nat) (hd : d < 512) (ha : a < 512) (hb : b < 512) (hc : c < 512)
    (he : e < 512) (hpd : pd < 16) (hrm : rm < 4) (hty : ty < 16) (hsub : sub < 256) :
    let w := at' t 63 + (at' d 54 + at' a 45 + at' b 36 + at' c 27 + at' e 18 + at' pd 14 + at' rm 12 + at' ty 8 + sub)
    Holds w 54 9 d ∧ Holds w 45 9 a ∧ Holds w 36 9 b ∧ Holds w 27 9 c ∧ Holds w 18 9 e ∧ Holds w 14 4 pd ∧
      Holds w 12 2 rm ∧ Holds w 8 4 ty ∧ Holds w 0 8 sub := by
  simp only [Holds, at']
  refine ⟨?_, ?_, ?_, ?_, ?_, ?_, ?_, ?_, ?_⟩ <;> omega

theorem decode_f3 (o : F3) (t : Nat) : decodeF3 (at' t 63 + encodeBody (.f3 o)) = o := by
  obtain ⟨d, a, b, c, e, pd, rm, ty, sub⟩ := o
  obtain ⟨h1, h2, h3, h4, h5, h6, h7, h8, h9⟩ := f3_holds
    t d.code a.code b.code c.code e.code pd.val rm.code ty.code sub.toNat
    (code_lt d) (code_lt a) (code_lt b) (code_lt c) (code_lt e) pd.isLt (rm_lt rm) (ty_lt ty) sub.isLt
  unfold decodeF3 encodeBody
  dsimp only
  rw [opndAt_of h1,
    opndAt_of h2,
    opndAt_of h3,
    opndAt_of h4,
    opndAt_of h5,
    fld_of h6,
    show fld _ 12 2 = ⟨rm.code, rm_lt rm⟩ from fld_of h7,
    show fld _ 8 4 = ⟨ty.code, ty_lt ty⟩ from fld_of h8,
    show fld _ 0 8 = sub.toFin from fld_of h9,
    rm_code,
    ty_code]

/-- The fields of the operand area under FI are read back. -/
theorem fi_holds (t d a imm pd rm ty sub : Nat) (hd : d < 512) (ha : a < 512) (himm : imm < 4294967296) (hpd : pd < 16)
    (hrm : rm < 4) (hty : ty < 16) (hsub : sub < 8) :
    let w := at' t 63 + (at' d 54 + at' a 45 + at' imm 13 + at' pd 9 + at' rm 7 + at' ty 3 + sub)
    Holds w 54 9 d ∧ Holds w 45 9 a ∧ Holds w 13 32 imm ∧ Holds w 9 4 pd ∧ Holds w 7 2 rm ∧ Holds w 3 4 ty ∧
      Holds w 0 3 sub := by
  simp only [Holds, at']
  refine ⟨?_, ?_, ?_, ?_, ?_, ?_, ?_⟩ <;> omega

theorem decode_fi (o : FI) (t : Nat) : decodeFI (at' t 63 + encodeBody (.fi o)) = o := by
  obtain ⟨d, a, imm, pd, rm, ty, sub⟩ := o
  obtain ⟨h1, h2, h3, h4, h5, h6, h7⟩ := fi_holds t d.code a.code imm.toNat pd.val rm.code ty.code sub.toNat
    (code_lt d) (code_lt a) imm.isLt pd.isLt (rm_lt rm) (ty_lt ty) sub.isLt
  unfold decodeFI encodeBody
  dsimp only
  rw [opndAt_of h1,
    opndAt_of h2,
    show fld _ 13 32 = imm.toFin from fld_of h3,
    fld_of h4,
    show fld _ 7 2 = ⟨rm.code, rm_lt rm⟩ from fld_of h5,
    show fld _ 3 4 = ⟨ty.code, ty_lt ty⟩ from fld_of h6,
    show fld _ 0 3 = sub.toFin from fld_of h7,
    rm_code,
    ty_code]

/-- The fields of the operand area under FM are read back. -/
theorem fm_holds (t data base index off path scope ty sub : Nat) (hdata : data < 512) (hbase : base < 512)
    (hindex : index < 512) (hoff : off < 16777216) (hpath : path < 4) (hscope : scope < 8) (hty : ty < 16) (hsub : sub < 8) :
    let w := at' t 63 + (at' data 54 + at' base 45 + at' index 36 + at' off 12 + at' path 10 + at' scope 7 + at' ty 3 + sub)
    Holds w 54 9 data ∧ Holds w 45 9 base ∧ Holds w 36 9 index ∧ Holds w 12 24 off ∧ Holds w 10 2 path ∧
      Holds w 7 3 scope ∧ Holds w 3 4 ty ∧ Holds w 0 3 sub := by
  simp only [Holds, at']
  refine ⟨?_, ?_, ?_, ?_, ?_, ?_, ?_, ?_⟩ <;> omega

theorem decode_fm (o : FM) (t : Nat) : decodeFM (at' t 63 + encodeBody (.fm o)) = o := by
  obtain ⟨data, base, index, off, path, scope, ty, sub⟩ := o
  obtain ⟨h1, h2, h3, h4, h5, h6, h7, h8⟩ := fm_holds
    t data.code base.code index.code off.toNat path.val scope.val ty.code sub.toNat
    (code_lt data) (code_lt base) (code_lt index) off.isLt path.isLt scope.isLt (ty_lt ty) sub.isLt
  unfold decodeFM encodeBody
  dsimp only
  rw [opndAt_of h1,
    opndAt_of h2,
    opndAt_of h3,
    show fld _ 12 24 = off.toFin from fld_of h4,
    fld_of h5,
    fld_of h6,
    show fld _ 3 4 = ⟨ty.code, ty_lt ty⟩ from fld_of h7,
    show fld _ 0 3 = sub.toFin from fld_of h8,
    ty_code]

/-- The fields of the operand area under FB are read back. -/
theorem fb_holds (t argb tgt off dem argc flg : Nat) (hargb : argb < 512) (htgt : tgt < 512) (hoff : off < 16777216)
    (hdem : dem < 256) (hargc : argc < 256) (hflg : flg < 32) :
    let w := at' t 63 + (at' argb 54 + at' tgt 45 + at' off 21 + at' dem 13 + at' argc 5 + flg)
    Holds w 54 9 argb ∧ Holds w 45 9 tgt ∧ Holds w 21 24 off ∧ Holds w 13 8 dem ∧ Holds w 5 8 argc ∧ Holds w 0 5 flg := by
  simp only [Holds, at']
  refine ⟨?_, ?_, ?_, ?_, ?_, ?_⟩ <;> omega

theorem decode_fb (o : FB) (t : Nat) : decodeFB (at' t 63 + encodeBody (.fb o)) = o := by
  obtain ⟨argb, tgt, off, dem, argc, flg⟩ := o
  obtain ⟨h1, h2, h3, h4, h5, h6⟩ := fb_holds t argb.code tgt.code off.toNat dem.toNat argc.toNat flg.toNat
    (code_lt argb) (code_lt tgt) off.isLt dem.isLt argc.isLt flg.isLt
  unfold decodeFB encodeBody
  dsimp only
  rw [opndAt_of h1,
    opndAt_of h2,
    show fld _ 21 24 = off.toFin from fld_of h3,
    show fld _ 13 8 = dem.toFin from fld_of h4,
    show fld _ 5 8 = argc.toFin from fld_of h5,
    show fld _ 0 5 = flg.toFin from fld_of h6]

/-- The fields of the operand area under FX are read back. -/
theorem fx_holds (t d a b num mt cb pd xsub : Nat) (hd : d < 512) (ha : a < 512) (hb : b < 512) (hnum : num < 4096)
    (hmt : mt < 8) (hcb : cb < 8) (hpd : pd < 16) (hxsub : xsub < 16384) :
    let w := at' t 63 + (at' d 54 + at' a 45 + at' b 36 + at' num 24 + at' mt 21 + at' cb 18 + at' pd 14 + xsub)
    Holds w 54 9 d ∧ Holds w 45 9 a ∧ Holds w 36 9 b ∧ Holds w 24 12 num ∧ Holds w 21 3 mt ∧ Holds w 18 3 cb ∧
      Holds w 14 4 pd ∧ Holds w 0 14 xsub := by
  simp only [Holds, at']
  refine ⟨?_, ?_, ?_, ?_, ?_, ?_, ?_, ?_⟩ <;> omega

theorem decode_fx (o : FX) (t : Nat) : decodeFX (at' t 63 + encodeBody (.fx o)) = o := by
  obtain ⟨d, a, b, num, mt, cb, pd, xsub⟩ := o
  obtain ⟨h1, h2, h3, h4, h5, h6, h7, h8⟩ := fx_holds t d.code a.code b.code num.toNat mt.val cb.val pd.val xsub.toNat
    (code_lt d) (code_lt a) (code_lt b) num.isLt mt.isLt cb.isLt pd.isLt xsub.isLt
  unfold decodeFX encodeBody
  dsimp only
  rw [opndAt_of h1,
    opndAt_of h2,
    opndAt_of h3,
    show fld _ 24 12 = num.toFin from fld_of h4,
    fld_of h5,
    fld_of h6,
    fld_of h7,
    show fld _ 0 14 = xsub.toFin from fld_of h8]

/-- The body of a word is read back whatever stands above it. -/
theorem body_dec (b : Body) (t : Nat) : decodeBody (formOf b) (at' t 63 + encodeBody b) = b := by
  cases b with
  | f3 o => exact congrArg Body.f3 (decode_f3 o t)
  | fi o => exact congrArg Body.fi (decode_fi o t)
  | fm o => exact congrArg Body.fm (decode_fm o t)
  | fb o => exact congrArg Body.fb (decode_fb o t)
  | fx o => exact congrArg Body.fx (decode_fx o t)

/-- The body lies below bit 63 of a word. -/
theorem body_lt (b : Body) : encodeBody b < 2 ^ 63 := by
  cases b with
  | f3 o =>
    have := code_lt o.d; have := code_lt o.a; have := code_lt o.b; have := code_lt o.c; have := code_lt o.e
    have := o.pd.isLt; have := rm_lt o.rm; have := ty_lt o.ty; have := o.sub.isLt
    simp only [encodeBody, at']; omega
  | fi o =>
    have := code_lt o.d; have := code_lt o.a; have := o.imm.isLt; have := o.pd.isLt; have := rm_lt o.rm
    have := ty_lt o.ty; have := o.sub.isLt
    simp only [encodeBody, at']; omega
  | fm o =>
    have := code_lt o.data; have := code_lt o.base; have := code_lt o.index; have := o.off.isLt; have := o.path.isLt
    have := o.scope.isLt; have := ty_lt o.ty; have := o.sub.isLt
    simp only [encodeBody, at']; omega
  | fb o =>
    have := code_lt o.argb; have := code_lt o.tgt; have := o.off.isLt; have := o.dem.isLt; have := o.argc.isLt; have :=
      o.flg.isLt
    simp only [encodeBody, at']; omega
  | fx o =>
    have := code_lt o.d; have := code_lt o.a; have := code_lt o.b; have := o.num.isLt; have := o.mt.isLt; have := o.cb.isLt
    have := o.pd.isLt; have := o.xsub.isLt
    simp only [encodeBody, at']; omega

/-! ## The control field -/

theorem b2n_lt (b : Bool) : b2n b < 2 := by cases b <;> decide
theorem b2n_eq (b : Bool) : (b2n b == 1) = b := by cases b <;> rfl

theorem ctl_holds (t ga gi gb gj st y h c l : Nat) (h1 : ga < 2) (h2 : gi < 16) (h3 : gb < 2) (h4 : gj < 16) (h5 : st < 8)
    (h6 : y < 2) (h7 : h < 4) (h8 : c < 8) (h9 : l < 2 ^ 63) :
    let w := at' t 82 + (at' ga 81 + at' gi 77 + at' gb 76 + at' gj 72 + at' st 69 + at' y 68 + at' h 66 + at' c 63) + l
    Holds w 81 1 ga ∧ Holds w 77 4 gi ∧ Holds w 76 1 gb ∧ Holds w 72 4 gj ∧ Holds w 69 3 st ∧ Holds w 68 1 y ∧
      Holds w 66 2 h ∧ Holds w 63 3 c := by
  simp only [Holds, at']
  refine ⟨?_, ?_, ?_, ?_, ?_, ?_, ?_, ?_⟩ <;> omega

/-- The control field of a word is read back whatever stands above and below it. -/
theorem ctl_dec (c : Ctl) (t l : Nat) (hl : l < 2 ^ 63) : decodeCtl (at' t 82 + encodeCtl c + l) = c := by
  obtain ⟨ga, gi, gb, gj, st, y, h, ch⟩ := c
  obtain ⟨h1, h2, h3, h4, h5, h6, h7, h8⟩ := ctl_holds t (b2n ga) gi.val (b2n gb) gj.val st.val (b2n y) h.val ch.val l
    (b2n_lt ga) gi.isLt (b2n_lt gb) gj.isLt st.isLt (b2n_lt y) h.isLt ch.isLt hl
  unfold decodeCtl encodeCtl
  dsimp only
  rw [show fld _ 81 1 = ⟨b2n ga, b2n_lt ga⟩ from fld_of h1, fld_of h2, show fld _ 76 1 = ⟨b2n gb, b2n_lt gb⟩ from fld_of h3,
    fld_of h4, fld_of h5, show fld _ 68 1 = ⟨b2n y, b2n_lt y⟩ from fld_of h6, fld_of h7, fld_of h8]
  dsimp only
  rw [b2n_eq, b2n_eq, b2n_eq]

/-- The control field lies in bits 81 to 63 of a word. -/
theorem ctl_lt (c : Ctl) : ∃ x, encodeCtl c = at' x 63 ∧ x < 2 ^ 19 := by
  have := b2n_lt c.gaN; have := c.gaI.isLt; have := b2n_lt c.gbN; have := c.gbI.isLt; have := c.stall.isLt
  have := b2n_lt c.yld; have := c.hold.isLt; have := c.ch.isLt
  refine ⟨b2n c.gaN * 2 ^ 18 + c.gaI.val * 2 ^ 14 + b2n c.gbN * 2 ^ 13 + c.gbI.val * 2 ^ 9 + c.stall.val * 2 ^ 6 +
    b2n c.yld * 2 ^ 5 + c.hold.val * 2 ^ 3 + c.ch.val, ?_, ?_⟩
  · simp only [encodeCtl, at']; omega
  · omega

/-! ## The whole word -/

/-- The parts of a word are read back from it. -/
theorem word_dec (opc : Nat) (fn : Fin 16) (c : Ctl) (b : Body) (h : opc < 1024) :
    let w := at' opc 86 + at' fn.val 82 + encodeCtl c + encodeBody b
    w < 2 ^ 96 ∧ (fld w 86 10).val = opc ∧ fld w 82 4 = fn ∧ decodeCtl w = c ∧ decodeBody (formOf b) w = b := by
  obtain ⟨x, hx, h1⟩ := ctl_lt c
  have h2 := body_lt b
  have h3 := fn.isLt
  have hc := ctl_dec c (opc * 16 + fn.val) (encodeBody b) h2
  have hb := body_dec b (opc * 2 ^ 23 + fn.val * 2 ^ 19 + x)
  have e1 : at' (opc * 16 + fn.val) 82 = at' opc 86 + at' fn.val 82 := by simp only [at']; omega
  have e2 : at' (opc * 2 ^ 23 + fn.val * 2 ^ 19 + x) 63 = at' opc 86 + at' fn.val 82 + encodeCtl c := by
    rw [hx]; simp only [at']; omega
  rw [e1] at hc
  rw [e2] at hb
  refine ⟨?_, ?_, fld_of ?_, hc, hb⟩
  · rw [hx]; simp only [at']; omega
  · show _ / 2 ^ 86 % 2 ^ 10 = opc
    rw [hx]; simp only [at']; omega
  · rw [hx]; simp only [Holds, at']; omega

/-- An instruction whose parts stand under their format, pass the decode checks and are built back by their row has a word of
96 bits that decodes to it. -/
theorem word_of_parts (i : Instr) (p : Parts) (hp : i.parts = some p) (ho : decide (p.opc < 1024) = true)
    (hf : Map.form p.opc p.fn.val = formOf p.body) (hw : Map.dfault p.opc p.fn.val p.body = 0)
    (hb : (Map.rowOf p.opc p.fn.val).bind (fun r => r.build p.c p.fn p.body) = some i) :
    ∃ w, encode i = some w ∧ w < 2 ^ 96 ∧ decodeWord w = .ok i := by
  obtain ⟨h1, h2, h3, h4, h5⟩ := word_dec p.opc p.fn p.c p.body (of_decide_eq_true ho)
  suffices h : ∀ w, (fld w 86 10).val = p.opc → fld w 82 4 = p.fn → decodeCtl w = p.c → decodeBody
    (formOf p.body) w = p.body →
      decodeWord w = .ok i from ⟨_, congrArg (Option.map _) hp, h1, h _ h2 h3 h4 h5⟩
  intro w h2 h3 h4 h5
  unfold decodeWord
  dsimp only
  rw [h2, h3, h4, hf, h5, hw]
  dsimp only
  rw [hb]

end Sys2Proof.Laws
end

