-- ==== Sys2Proof/Tests/Slice0.lean ====
section
/-!
SUPPORT. Tests. Expected values are worked out by hand from the rule that each test names; decode words are laid out from
the encodings of spec/10_encoding.md. The witness theorems show states that meet the hypotheses of the statements of
Sys2Proof/Certificates/Slice0/Obligations.lean.
-/

namespace Sys2Proof.Tests

open Sys2Proof.Machine Sys2Proof.Safety

set_option maxRecDepth 100000
set_option exponentiation.threshold 3000
set_option Elab.async false

/-! ## A small machine -/

/-- Control fields with no guard, no stall and no hint. -/
def c0 : Ctl := { gaN := false, gaI := 15, gbN := false, gbI := 15, stall := 0, yld := false, hold := 0, ch := 0 }

/-- The bundle of thread 0 of workgroup 1. -/
def u0 : Cur := { core := 0, pipe := 0, wg := 1, pc := 0, tids := [0] }

/-- A thread with a base frame of 24 registers that hold some words. -/
def thread0 (rs : List Word) : Thread :=
  { frames := [{ id := 1, base := true, decl := 24, grans := [0, 1, 2], slots := rs ++ List.replicate (24 - rs.length) 0 }] }

def eff0 : Eff := { asid := 1, ptroot := 0x100_0000, poolg := 32, spsize := 4096, hives := 1, savebase := 0x4_0000,
                    cbase := 0x3_0000, csize := 256 }

def launch0 : Launch :=
  { part := 0, origin := .command 0 0, queue := some 0, ltag := 5, lseq := 0, node := 0, eff := eff0
    gx := 1, gy := 1, gz := 1, wx := 2, wy := 1, wz := 1, regs := 24, scrg := 1, nbars := 2, kcode := 0x2_0000
    kargs := List.replicate 64 0, callees := List.replicate 16 none, memb := false, event := 0, priv := true
    resolvedAt := 0, placed := 1 }

def wg0 (rs : List Word) : Workgroup :=
  { launch := 2, part := 0, idx := 0, core := 0, resid := .resident, threads := [thread0 rs, thread0 []], grans := [0] }

/-- A page of 64 KiB at virtual page n, present in the TLB, with every right. -/
def page (n base : Nat) : TlbEntry :=
  { asid := 1, part := 0, vpn := n, size := 16, base := base, host := false, cache := 0, rop := true, det := false,
    usr := true, x := true, w := true, r := true, mod := true }

/-- One workgroup of two threads on core 0; thread 0 holds some words in v0 up and is issuing. -/
def demo (rs : List Word) : State :=
  { cur := some u0
    nextId := 10
    link := true
    wgs := [(1, wg0 rs)]
    launches := [(2, launch0)]
    cores := [(0, { tlb := [page 3 0x300_0000, page 2 0x200_0000] })]
    parts := [(0, { hives := [0], slices := [0], groups := [0], home := List.replicate 256 0, vf := true })] }

/-- The machine with its workgroup, its thread 0 or its partition changed. -/
def demoW (rs : List Word) (f : Workgroup → Workgroup) : State := (demo rs).modWg 1 f
def demoT (rs : List Word) (f : Thread → Thread) : State := (demo rs).modThread 1 0 f
def demoP (rs : List Word) (f : Partition → Partition) : State := (demo rs).modPart 0 f

/-! ## Reading an outcome -/

def after (o : Out) : Option State :=
  match o with
  | .next s => some s
  | _ => none
/-- Register vj and predicate n of thread 0 after a step. -/
def reg (o : Out) (j : Nat) : Option Word := ((after o).bind (fun s => s.thread 1 0)).map (fun th => th.reg j)
def pred (o : Out) (n : Nat) : Option Bool := ((after o).bind (fun s => s.thread 1 0)).map (fun th => th.pred n)
def pcOf (o : Out) : Option Nat := ((after o).bind (fun s => s.thread 1 0)).map (fun th => th.pc.toNat)
def causeOf (o : Out) : Option Word := ((after o).bind (fun s => s.thread 1 0)).map (fun th => th.cause)
def stOf (o : Out) : Option TState := ((after o).bind (fun s => s.thread 1 0)).map (fun th => th.st)
def opsOf (o : Out) : Option Nat := (after o).map (fun s => s.ops.length)

/-- F3 operands v3 ← v0, v1, v2 with PD = p1. -/
def o3 (ty : Ty) (sub : BitVec 8) : F3 :=
  { d := .v 3, a := .v 0, b := .v 1, c := .v 2, e := .vz, pd := 1, rm := .rn, ty := ty, sub := sub }
/-- FI operands v3 ← v0 with an immediate and PD = p1. -/
def oi (ty : Ty) (imm : BitVec 32) (sub : BitVec 3) : FI :=
  { d := .v 3, a := .v 0, imm := imm, pd := 1, rm := .rn, ty := ty, sub := sub }
/-- FM operands: v3 at v0 + v1 + off. -/
def om (ty : Ty) (off : BitVec 24) (sub : BitVec 3) : FM :=
  { data := .v 3, base := .v 0, index := .v 1, off := off, path := 0, scope := 0, ty := ty, sub := sub }
/-- FB operands with target v0. -/
def ob (off : BitVec 24) (dem argc : BitVec 8) : FB :=
  { argb := .v 0, tgt := .v 0, off := off, dem := dem, argc := argc, flg := 0 }
/-- FX operands v3 ← v0, v1. -/
def ox : FX := { d := .v 3, a := .v 0, b := .v 1, num := 0, mt := 0, cb := 0, pd := 1, xsub := 0 }

/-! ## Bundles -/

/-- The hypothesis Alone, as a check. -/
def aloneB (s : State) (i : Instr) (c : Ctl) (u : Cur) (t : Nat) : Bool :=
  s.cur == some u && u.tids == [t] && guardOf s u.wg t c && !s.guardBusy u.wg t c &&
  (match s.thread u.wg t with
    | some th => th.faults.isEmpty && !th.topSpilled && (precheck s u.wg t th i).isNone
    | none => false)

theorem alone_of {s : State} {i : Instr} {c : Ctl} {u : Cur} {t : Nat} (h : aloneB s i c u t = true) : Alone s i c u t := by
  simp only [aloneB, Bool.and_eq_true, beq_iff_eq] at h
  obtain ⟨⟨⟨⟨h1, h2⟩, h3⟩, h5⟩, h4⟩ := h
  cases ht : s.thread u.wg t with
  | none => rw [ht] at h4; cases h4
  | some th =>
    rw [ht] at h4
    simp only [Bool.and_eq_true, List.isEmpty_iff, Bool.not_eq_true', Option.isNone_iff_eq_none] at h4
    exact ⟨h1, h2, ⟨th, ht, h4.1.1, h4.1.2, by simpa using h5, fun _ => h4.2⟩, h3⟩

theorem bundle_of {s : State} {i : Instr} {c : Ctl} {u : Cur} {t : Nat} (h : Alone s i c u t) : Bundle s i c u where
  cur := h.cur
  nonempty := by rw [h.tids]; exact List.cons_ne_nil _ _
  once := by rw [h.tids]; simp
  able := fun v hv => by
    rw [h.tids, List.mem_singleton] at hv
    exact hv ▸ h.able

/-! ## Every instruction may run -/

def samplesA : List Instr := [
  .add c0 (o3 .s32 0), .addImm c0 (oi .s32 0 0), .sub c0 (o3 .s32 0), .subImm c0 (oi .s32 0 0), .mul c0 (o3 .s32 0),
  .mulImm c0 (oi .s32 0 0), .mulh c0 (o3 .s32 0), .mad c0 (o3 .s32 0), .div c0 (o3 .s32 0), .rem c0 (o3 .s32 0),
  .neg c0 (o3 .s32 0), .abs c0 (o3 .s32 0), .min c0 (o3 .s32 0), .minImm c0 (oi .s32 0 0), .max c0 (o3 .s32 0),
  .maxImm c0 (oi .s32 0 0), .sad c0 (o3 .s32 0), .and c0 (o3 .s32 0), .andImm c0 (oi .s32 0 0), .or c0 (o3 .s32 0),
  .orImm c0 (oi .s32 0 0), .xor c0 (o3 .s32 0), .xorImm c0 (oi .s32 0 0), .not c0 (o3 .s32 0)]
def samplesB : List Instr := [
  .shl c0 (o3 .s32 0), .shlImm c0 (oi .s32 0 0), .shr c0 (o3 .s32 0), .shrImm c0 (oi .s32 0 0), .sar c0 (o3 .s32 0),
  .sarImm c0 (oi .s32 0 0), .rot c0 (o3 .s32 0), .rotImm c0 (oi .s32 0 0), .clz c0 (o3 .s32 0), .ctz c0 (o3 .s32 0),
  .popc c0 (o3 .s32 0), .brev c0 (o3 .s32 0), .sel c0 (o3 .s32 0), .cmp c0 (o3 .s32 0), .cmpImm c0 (oi .s32 0 0),
  .mov c0 (o3 .s32 0), .movi c0 (oi .s32 0 0), .movh c0 (oi .s32 0 0), .ext c0 (o3 .s32 0), .lea c0 (o3 .s32 0),
  .pack c0 (o3 .s32 0), .unpack c0 (o3 .s32 0), .swz c0 (o3 .s32 0), .dot4 c0 (o3 .s32 0)]
def samplesC : List Instr := [
  .bfx c0 (o3 .s32 0), .bfi c0 (o3 .s32 0), .bmm8 c0 (o3 .s32 0), .pdep c0 (o3 .s32 0), .pext c0 (o3 .s32 0),
  .bperm c0 (o3 .s32 0), .fadd c0 (o3 .s32 0), .faddImm c0 (oi .s32 0 0), .fsub c0 (o3 .s32 0),
  .fsubImm c0 (oi .s32 0 0), .fmul c0 (o3 .s32 0), .fmulImm c0 (oi .s32 0 0), .ffma c0 (o3 .s32 0),
  .fmin c0 (o3 .s32 0), .fminImm c0 (oi .s32 0 0), .fmax c0 (o3 .s32 0), .fmaxImm c0 (oi .s32 0 0),
  .fcmp c0 (o3 .s32 0), .fcmpImm c0 (oi .s32 0 0), .fclass c0 (o3 .s32 0), .frnd c0 (o3 .s32 0), .cvt c0 (o3 .s32 0),
  .fdot2 c0 (o3 .s32 0), .exp2 c0 0 (o3 .s32 0)]
def samplesD : List Instr := [
  .log2 c0 0 (o3 .s32 0), .rcp c0 0 (o3 .s32 0), .rsqrt c0 0 (o3 .s32 0), .sqrt c0 0 (o3 .s32 0),
  .sin c0 0 (o3 .s32 0), .cos c0 0 (o3 .s32 0), .tanh c0 0 (o3 .s32 0), .sigm c0 0 (o3 .s32 0), .erf c0 0 (o3 .s32 0),
  .rngDraw c0 (o3 .s32 0), .gmax c0 (o3 .s32 0), .quant c0 (o3 .s32 0), .dequant c0 (o3 .s32 0), .shfl c0 (o3 .s32 0),
  .vote c0 (o3 .s32 0), .voteImm c0 (oi .s32 0 0), .matchT c0 (o3 .s32 0), .redTeam c0 (o3 .s32 0),
  .redTeamImm c0 (oi .s32 0 0), .scanTeam c0 (o3 .s32 0), .scanTeamImm c0 (oi .s32 0 0), .topkIns c0 (o3 .s32 0),
  .ld c0 (om .s32 0 0), .ldRo c0 (om .s32 0 0)]
def samplesE : List Instr := [
  .ldC c0 (om .s32 0 0), .ldTl c0 (om .s32 0 0), .st c0 (om .s32 0 0), .pref c0 (om .s32 0 0), .smp c0 (o3 .s32 0),
  .atom c0 0 (om .s32 0 0), .atomF c0 0 (om .s32 0 0), .atomCas c0 (om .s32 0 0), .atomOrd c0 0 (om .s32 0 0),
  .fence c0 0 (o3 .s32 0), .fencePath c0 (o3 .s32 0), .acq c0 (om .s32 0 0), .acqGe c0 (om .s32 0 0),
  .acqX c0 (om .s32 0 0), .rel c0 (om .s32 0 0), .syncBind c0 (o3 .s32 0), .syncUnbind c0 (o3 .s32 0),
  .cinv c0 (om .s32 0 0), .cwb c0 (om .s32 0 0), .aggDecl c0 (o3 .s32 0), .aggFree c0 (o3 .s32 0),
  .aggRange c0 (o3 .s32 0), .aggPfx c0 (o3 .s32 0), .aggPick c0 (o3 .s32 0)]
def samplesF : List Instr := [
  .aggSync c0 (o3 .s32 0), .combJoin c0 ox, .combLeave c0 ox, .combDef c0 ox, .combDefs c0 ox, .combRd c0 ox,
  .combRds c0 ox, .combKill c0 ox, .combQ c0 ox, .combMap c0 ox, .cpTensor c0 ox, .cpGather c0 ox, .cpScatter c0 ox,
  .cpMcast c0 ox, .cpFill c0 ox, .cpResume c0 ox, .cbRd c0 (o3 .s32 0), .dgNode c0 ox, .dgGo c0 ox, .engGuard c0 ox,
  .wagSend c0 ox, .lqPush c0 ox, .msSet c0 ox, .mLd c0 ox]
def samplesG : List Instr := [
  .mSt c0 ox, .mZero c0 ox, .rsvAlloc c0 ox, .rsvFree c0 ox, .mma c0 ox, .mmaQ c0 ox, .epi c0 ox, .outlAdd c0 ox,
  .amaxRd c0 ox, .accClr c0 ox, .bra c0 (ob 0 8 0), .braI c0 (ob 0 8 0), .callF c0 (ob 0 8 0), .callFH c0 (ob 0 8 0),
  .callI c0 (ob 0 8 0), .callIH c0 (ob 0 8 0), .callQ c0 (ob 0 8 0), .ret c0 (o3 .s32 0), .unwind c0 (o3 .s32 0),
  .exit c0 (o3 .s32 0), .loopCap c0 (oi .s32 0 0), .loopStep c0 (oi .s32 0 0), .bktSel c0 (o3 .s32 0),
  .elect c0 (o3 .s32 0)]
def samplesH : List Instr := [
  .yield c0 (o3 .s32 0), .nop c0 (o3 .s32 0), .barInit c0 (oi .s32 0 0), .barArrive c0 (oi .s32 0 0),
  .barWait c0 (oi .s32 0 0), .barTx c0 (oi .s32 0 0), .teamSync c0 (o3 .s32 0), .teamSyncImm c0 (oi .s32 0 0),
  .wait c0 (oi .s32 0 0), .trap c0 (oi .s32 0 0), .brk c0 (o3 .s32 0), .rdsr c0 (oi .s32 0 0), .wrsr c0 (oi .s32 0 0),
  .digestRd c0 (o3 .s32 0), .tlbInv c0 (o3 .s32 0), .sleep c0 (oi .s32 0 0), .halt c0 (o3 .s32 0)]

/-- One sample of every constructor that has a word. -/
def samples : List Instr := samplesA ++ samplesB ++ samplesC ++ samplesD ++ samplesE ++ samplesF ++ samplesG ++ samplesH

/-- Every instruction has a state in which it is alone in a bundle and passes the checks that precede its effect: the
hypotheses Alone and Bundle are met for each. -/
theorem test_samples_alone : samples.all (fun i => aloneB (demo []) i c0 u0 0) = true := by decide
theorem witness_alone : ∀ i ∈ samples, Alone (demo []) i c0 u0 0 ∧ Bundle (demo []) i c0 u0 := fun i hi =>
  have h := alone_of (List.all_eq_true.mp test_samples_alone i hi)
  ⟨h, bundle_of h⟩
theorem test_samples_are_all : samples.length = 185 := by decide

/-! ## Hypotheses that can be met: arithmetic -/

/-- ScalarIntegerResult, PackedElementsAreIndependent and DivisionAndRemainder: signed and other types, a last element,
and the most negative number over −1. -/
theorem witness_integer : Ty.s8.isS = true ∧ Ty.b8.isS = false ∧ 7 < 64 / Ty.b8.width ∧
    ((128 : Word).setWidth Ty.s8.width).toInt = -(2 ^ (Ty.s8.width - 1)) ∧ ((255 : Word).setWidth Ty.s8.width).toInt = -1 ∧ Ty.b64.width = 64 ∧ (2 : BitVec 8).getLsbD 1 = true ∧
    (2 : BitVec 3).getLsbD 1 = true := by
  decide

/-- PackedAndBitFieldOperations: an element, a set bit of the mask and a clear one. -/
theorem witness_bits : 15 < 64 / 4 ∧ 3 ∈ (List.range 8).filter (fun j => (8 : Word).getLsbD j) ∧
    2 ∉ (List.range 8).filter (fun j => (8 : Word).getLsbD j) := by decide

/-- FloatSpecialCases: infinities, zeros of both signs, a number and its negation, a product that is no NaN. -/
theorem witness_float_cases : decodeF .f32 0x7F800000 = .inf false ∧ decodeF .f32 0xFF800000 = .inf true ∧
    (∃ e, decodeF .f32 0 = .fin false 0 e) ∧ (∃ e, decodeF .f32 0x80000000 = .fin true 0 e) ∧
    (∃ m e, decodeF .f32 0x3F800000 = .fin false m e ∧ decodeF .f32 0xBF800000 = .fin true m e ∧ 0 < m) ∧
    fMul .f32 .rn 0x3F800000 0x40000000 ≠ Fmt.f32.nanBits :=
  ⟨by decide, by decide, ⟨_, rfl⟩, ⟨_, rfl⟩, ⟨_, _, rfl, rfl, by decide⟩, by decide⟩

/-- NansAndRounding and SpecialFunctions: a NaN, and the largest finite number. -/
theorem witness_nan : decodeF .f16 0x7E00 = .nan ∧ decodeF .bf16 0x7FC0 = .nan ∧ decodeF .f32 0x7FC00000 = .nan ∧
    decodeF .f64 0x7FF8000000000000 = .nan ∧ decodeF .f32 0x7F7FFFFF ≠ .nan ∧ 0x7F7FFFFF < 2 ^ Fmt.f32.width := by decide

/-- DrawSampleAndQuantise: a group word of each kind, and a thread that draws. -/
theorem witness_draw : badGroup 8 0x3F800000 = true ∧ badGroup 8 0 = false ∧ ((demo []).wg 1).isSome ∧
    ((demo []).thread 1 0).isSome := by decide

/-- LaneExchanges: distinct lanes; a source lane that holds a contributor, and one that holds none. -/
theorem witness_lanes : (([0, 33] : List Nat).map (· % 32)).Nodup ∧ ((33 % 32 : Nat) : Int) = ((0 % 32 : Nat) : Int) + 1 ∧
    ∀ v ∈ ([0, 33] : List Nat), ((v % 32 : Nat) : Int) ≠ ((0 % 32 : Nat) : Int) + 2 := by decide

/-! ## Memory -/

/-- AccessChecksAndTheirFaults: the first and the last byte of each aperture, and the bytes beyond. -/
theorem witness_places : place 0 = .glob 0 ∧ place (2 ^ 57 - 1) = .glob (2 ^ 57 - 1) ∧ place (2 ^ 57) = .bad ∧
    place 0xFEFF_FFFF_FFFF_FFFF = .bad ∧ place 0xFF00_0000_0000_0000 = .scr 0 ∧ place 0xFF00_0000_0003_FFFF = .scr 0x3FFFF ∧
    place 0xFF00_0000_0004_0000 = .bad ∧ place 0xFF01_0000_0000_0000 = .win 0 0 ∧
    place 0xFF01_0000_00FF_FFFF = .win 63 0x3FFFF ∧ place 0xFF01_0000_0100_0000 = .bad ∧
    place 0xFF02_0000_0000_0000 = .cst 0 ∧ place 0xFF02_0000_FFFF_FFFF = .cst 0xFFFFFFFF ∧
    place 0xFF02_0001_0000_0000 = .bad := by decide

/-- The machine whose workgroup 1 has a window 0 onto itself, and a revoked window 1. -/
def windowed : State := demoW [] (fun g => { g with windows := [(0, { peer := 1 }), (1, { peer := 1, revoked := true })] })

/-- AccessChecksAndTheirFaults: each check at the edge of what it lets through. -/
theorem witness_checks :
    (check (demo []) 1 [0] 0x30001 4 4 .load Aper.ls false).1 = .fail 0x2D 0x30001 ∧
    (check (demo []) 1 [0] (2 ^ 57) 4 4 .load Aper.ls false).1 = .fail 0x21 (2 ^ 57) ∧
    (check (demo []) 1 [0] 0x30000 4 4 .load Aper.c false).1 = .fail 0x28 0x30000 ∧
    (check (demo []) 1 [0] 0x3FFFC 4 4 .load Aper.ls false).1 = .glob 0x3FFFC { pa := 0x300_FFFC, rop := true } ∧
    (check (demo []) 1 [0] 0x50000 4 4 .load Aper.ls false).1 = .wait ∧
    (check (demo []) 1 [0] 0xFF00_0000_0000_1FFC 4 4 .load Aper.ls false).1 = .scratch 1 0x1FFC ∧
    (check (demo []) 1 [0] 0xFF00_0000_0000_2000 4 4 .load Aper.ls false).1 = .fail 0x24 0xFF00_0000_0000_2000 ∧
    (check windowed 1 [0] 0xFF01_0000_0000_1FFC 4 4 .load Aper.ls false).1 = .scratch 1 0x1FFC ∧
    (check windowed 1 [0] 0xFF01_0000_0004_0000 4 4 .load Aper.ls false).1 = .fail 0x27 0xFF01_0000_0004_0000 ∧
    (check windowed 1 [0] 0xFF01_0000_0008_0000 4 4 .load Aper.ls false).1 = .fail 0x26 0xFF01_0000_0008_0000 ∧
    (check (demo []) 1 [0] 0xFF02_0000_0000_0100 4 4 .load Aper.c true).1 = .fail 0x25 0xFF02_0000_0000_0100 ∧
    (check (demo []) 1 [0] 0xFF02_0000_0000_00FC 4 4 .load Aper.c true).1 = .glob 0x300FC { pa := 0x300_00FC, rop := true } := by decide

/-- ScratchpadAccessesAndLoads, GlobalStoresAndAtomicsIssue, IssuedAccessesFrame: the accesses of the samples pass their
checks at a scratchpad and at a global address, and a misaligned one fails. -/
theorem witness_accesses :
    (∀ i ∈ [Instr.ld c0 (om .s32 0 0), .ldTl c0 (om .s32 0 0), .st c0 (om .s32 0 0), .atom c0 0 (om .s32 0 0),
      .atomF c0 0 (om .s32 0 0), .atomCas c0 (om .s32 0 0), .atomOrd c0 0 (om .s32 0 0)],
      aloneB (demo [0xFF00_0000_0000_1FFC]) i c0 u0 0 = true ∧ aloneB (demo [0x30000]) i c0 u0 0 = true ∧
      (check (start (demo [0xFF00_0000_0000_1FFC]) i c0 u0) 1 [0] 0xFF00_0000_0000_1FFC 4 4 .atomic Aper.ls false).1 =
        .scratch 1 0x1FFC ∧
      (check (start (demo [0x30000]) i c0 u0) 1 [0] 0x30000 4 4 .atomic Aper.ls false).1 =
        .glob 0x30000 { pa := 0x300_0000, rop := true } ∧
      (check (start (demo [0x30001]) i c0 u0) 1 [0] 0x30001 4 4 .atomic Aper.ls false).1 = .fail 0x2D 0x30001 ∧
      (check (start (demo [0x50000]) i c0 u0) 1 [0] 0x50000 4 4 .atomic Aper.ls false).1 = .wait) ∧
    (check (start (demo [0x30000]) (.ldRo c0 (om .s32 0 0)) c0 u0) 1 [0] 0x30000 4 4 .load Aper.g true).1 =
      .glob 0x30000 { pa := 0x300_0000, rop := true } := by decide

/-- The machine with line 0x3000000 in the L1 of core 0. -/
def cached : State := (demo [0x30000]).modCore 0 (fun k => { k with l1 := [{ pa := 0x300_0000, data := List.replicate 64 7 }] })

/-- LoadsAreServedByCacheOrHome (ScratchpadAccessesAndLoads): a line that is there, and one that is not. -/
theorem witness_cache : ((cached.core 0).cache .ls).find? (fun l => l.pa == lineOf 0x300_0004) =
      some { pa := 0x300_0000, data := List.replicate 64 7 } ∧
    (((demo []).core 0).cache .ls).find? (fun l => l.pa == lineOf 0x300_0004) = none ∧ c0.ch.val ≠ 6 := by decide

/-- The machine with an operation of thread 0 outstanding that is not done. -/
def pending : State := { demo [] with
  ops := [(7, { wg := 1, tid := 0, core := 0, cls := some .ld, pc := 0, kind := .mem (.load .s32), dst := [.v 1 20]
                pieces := [{ va := 0x30000, n := 4, loc := .hit [1, 2, 3, 4] }] })] }

/-- SamplerCacheAndFences: a sample whose texel passes, fences with nothing and with something outstanding. -/
theorem witness_fences :
    (checkTexels 1 [0] 4 [some 0x30000] (start (demo []) (.smp c0 (o3 .s32 0)) c0 u0).draw.2).1 =
      [some (0x30000, { pa := 0x300_0000, rop := true })] ∧
    (∀ fn : Fin 16, fn.val < 6 → (start (demo []) (.fence c0 fn (o3 .b64 0)) c0 u0).fenceClear
      (ctx (.fence c0 fn (o3 .b64 0)) c0 u0 0) fn.val ((start (demo []) (.fence c0 fn (o3 .b64 0)) c0 u0).markOf
        (ctx (.fence c0 fn (o3 .b64 0)) c0 u0 0)) = true) ∧
    aloneB pending (.fence c0 2 (o3 .b64 0)) c0 u0 0 = true ∧
    (start pending (.fence c0 2 (o3 .b64 0)) c0 u0).fenceClear (ctx (.fence c0 2 (o3 .b64 0)) c0 u0 0) 2
      ((start pending (.fence c0 2 (o3 .b64 0)) c0 u0).markOf (ctx (.fence c0 2 (o3 .b64 0)) c0 u0 0)) = false := by decide

/-- An object at physical 0x3000000 with a sequence number and a holder word. -/
def object (seq holder : Nat) : State := { demo [0x30000] with mem := memWrite [] 0x300_0000 (leBytes 16 (seq + holder * 2 ^ 64)) }

/-- An entry of a page table at a physical address. -/
def entry (a e : Nat) (m : Mem) : Mem := memWrite m a (leBytes 8 e)

/-- Page tables at 0x1000000 that map virtual page 3 to 0x3000000 with the rights R, W and X for every level (R31, R32). -/
def tables : Mem :=
  entry 0x104_0018 (2 ^ 52 + 0x300_0000 + 0x1F) (entry 0x103_0000 0x104_0001 (entry 0x102_0000 0x103_0001 (entry 0x101_0000 0x102_0001
    (entry 0x100_0000 0x101_0001 []))))
def tabled (rs : List Word) : State := { demo rs with mem := tables }

/-- SynchronisationObjects: the object of the acquires and of the release passes its checks; it is free, held by thread
(5, 0, 0), held by another, or malformed; a binding passes its checks, or fails them; and rel may go or must wait. -/
theorem witness_sync :
    (∀ i ∈ [Instr.acq c0 (om .b64 0 0), .acqGe c0 (om .b64 0 0), .acqX c0 (om .b64 0 0), .rel c0 (om .b64 0 0)],
      aloneB (object 3 0) i c0 u0 0 = true ∧
      (check (start (object 3 0) i c0 u0) 1 [0] 0x30000 64 64 .atomic Aper.g false).1 = .glob 0x30000 { pa := 0x300_0000, rop := true }) ∧
    badObject 3 = false ∧ badObject (3 + 2 ^ 127) = false ∧ badObject (2 ^ 128) = true ∧
    (5 * 2 ^ 103 + 2 ^ 127) / 2 ^ 103 % 2 ^ 24 = 5 ∧
    ((object 3 0).load { pa := 0x300_0000 } 64).toOption.isSome = true ∧
    (bindChecks (tabled [0x30000, 0x31000, 64]) 1 0x30000 { pa := 0x300_0000 } 0x31000 64).1.toOption.isSome = true ∧
    (bindChecks (demo [0x30000, 0x31001, 64]) 1 0x30000 { pa := 0x300_0000 } 0x31001 64).1.toOption = none ∧
    (demo []).doneStores 0 10 = true ∧ (demo []).forwardsDone 1 0 none 10 = true ∧
    ({ pending with ops := pending.ops.map (fun e => (e.1, { e.2 with cls := some .st, kind := .mem .store })) } : State).doneStores 0 10 =
      false := by decide

/-! ## Translation, networks and slices -/

/-- The machine whose core 0 has the one TLB entry t. -/
def withTlb (t : TlbEntry) : State := (demo []).modCore 0 (fun k => { k with tlb := [t] })

/-- TranslationAndPageWalks: entries that serve, that lack a right and that a user may not use; no entry. -/
theorem witness_translation :
    ((demo []).thread 1 0).map (·.xfails) = some [] ∧
    ((withTlb (page 3 0x300_0000)).xlate 0 1 [0] 0 1 0 0x3FFFF .store false true).1 = .ok { pa := 0x300_FFFF, rop := true } ∧
    ((withTlb { page 3 0x300_0000 with usr := false }).xlate 0 1 [0] 0 1 0 0x30000 .load false true).1 = .fail 0x23 ∧
    ((withTlb { page 3 0x300_0000 with w := false }).xlate 0 1 [0] 0 1 0 0x30000 .store false true).1 = .fail 0x22 ∧
    ((withTlb { page 3 0x300_0000 with rop := false }).xlate 0 1 [0] 0 1 0 0x30000 .load true true).1 = .fail 0x29 ∧
    ((demo []).core 1).tlb = [] ∧ ((demo []).core 1).misses = [] ∧ ((demo []).core 1).held = none := by decide

/-- TranslationAndPageWalks: an access that has a failure to take, and a core with one miss, for another address of the page. -/
theorem witness_miss_joined :
    ((demoT [] (fun th => { th with xfails := [{ va := 0x30000, acc := .load, ro := false, user := true, code := 0x20 }] })).xlate
      0 1 [0] 0 1 0 0x30000 .load false true).1 = .fail 0x20 ∧
    ((demo []).modCore 1 (fun k => { k with misses := [(0, { part := 0, asid := 1, root := 0, page := 0x50000 })] })).core 1 =
      { misses := [(0, { part := 0, asid := 1, root := 0, page := 0x50000 })] } := by decide

/-- One level of a walk over the entry e. -/
def level (e : Nat) (l : Nat) : Except Nat (TlbEntry × Nat × Nat) :=
  (walkFrom { demo [] with mem := entry (0x100_0000 + 8 * vaIndex 0x30000 l) e [] } none 0 1 0x30000 1 l 0x100_0000).1

/-- TranslationAndPageWalks: an entry that is not present, malformed, another partition's, outside the frames, reserved,
without the right, a leaf and a pointer; a poisoned line. -/
theorem witness_walk : (level 0 4).toOption = none ∧ malformedPte (2 ^ 59 + 1) 4 = true ∧ malformedPte (2 ^ 60 + 1) 3 = false ∧
    (2 ^ 60 + 1) / 2 ^ 60 % 16 ≠ 0 ∧ frameOutside ((demo []).part 0) 0x10_0000_0000 65536 = true ∧
    frameOutside ((demo []).part 0) 0x7_FFFF_0000 65536 = false ∧ frameReserved ((demo []).part 0) 0x7_FFFF_0000 65536 = true ∧
    (leafEntry 0 1 0x30000 (2 ^ 52 + 0x300_0000 + 0x17) 4).host = false ∧
    frameOutside ((demo []).part 0) 0x300_0000 65536 = false ∧ frameReserved ((demo []).part 0) 0x300_0000 65536 = false ∧
    rights true true true false true .load false true = 0x22 ∧ rights true true true true true .load false true = 0 ∧
    (level (2 ^ 52 + 0x300_0000 + 0x17) 4).toOption.isSome = true ∧ (1 : Nat).testBit 52 = false := by decide

/-- TranslationAndPageWalks: a walk to a leaf whose rights serve, lack, and whose ACC is set already or not; a walk cache that
holds the pointer of level 0. -/
theorem witness_walked :
    (walkFrom (tabled []) none 0 1 0x30000 5 0 0x100_0000).1 =
      .ok (leafEntry 0 1 0x30000 (2 ^ 52 + 0x300_0000 + 0x1F) 4, 0x104_0018, 2 ^ 52 + 0x300_0000 + 0x1F) ∧
    rights true true true true false .load false true = 0 ∧ rights true true true true false .load true true ≠ 0 ∧
    (2 ^ 52 + 0x300_0000 + 0x21F : Nat) ||| 0x200 = 2 ^ 52 + 0x300_0000 + 0x21F ∧
    (2 ^ 52 + 0x300_0000 + 0x1F : Nat) ||| 0x200 ≠ 2 ^ 52 + 0x300_0000 + 0x1F ∧
    ({ demo [] with walks := [(0, [{ part := 0, asid := 1, level := 0, pfx := 0, entry := 0x101_0001 }])] } : State).walkHit
      (some 0) 0 1 0x30000 0 = some 0x101_0001 := by decide

/-- A miss of core 0, and the access that waits for it. -/
def ask0 : XAsk := { wg := 1, tids := [0], va := 0x30000, acc := .load, ro := false, user := true }
def miss0 : Miss := { part := 0, asid := 1, root := 0x100_0000, page := 0x30000, asks := [ask0] }
def leaf0 : TlbEntry := page 3 0x300_0000
def missing (m : Miss) : State := (tabled []).modCore 0 (fun k => { k with misses := [(0, m),
  (2, { miss0 with page := 0x50000, ats := some { page 4 0x5000_0000 with host := true } })] })

/-- TranslationAndPageWalks: a miss that begins its walk, one whose page is being walked, one with a request out, with a
returned pointer, word and fault, with its leaf, and one that awaits the host and whose time is over; an invalidation that
nothing holds up. -/
theorem witness_misses :
    (tget ((missing miss0).core 0).misses 0 = some miss0 ∧ (missing miss0).mates 0 miss0 = [(0, 0, miss0)] ∧
      ((missing miss0).mates 0 miss0).all (fun x => x.2.2.ats.isNone && !x.2.2.walking) = true ∧
      (missing miss0).walkHit (some (dieOf 0)) 0 1 0x30000 0 = none) ∧
    (let t := (missing { miss0 with req := some 5 }).modCore 1 (fun k => { k with misses := [(0, miss0)] })
     tget (t.core 1).misses 0 = some miss0 ∧ (t.mates 1 miss0).any (fun x => x.2.2.walking) = true ∧
      (t.mates 1 miss0).all (fun x => x.2.2.ats.isNone) = true) ∧
    (let s := missing { miss0 with got := some (0, 0x101_0001) }
     s.examine 0 1 0x30000 0 0x101_0001 = .ok none ∧ s.examine 0 1 0x30000 0 0 = .error 0x20) ∧
    (let m : Miss := { miss0 with leaf := some leaf0, got := some (0, 0) }
     tget ((missing m).core 0).misses 0 = some m ∧ leaf0.host = false ∧ leaf0.allows .load false true = 0) ∧
    (missing miss0).hostPage 0 0x5000_0000 16 = none ∧ ({ missing miss0 with link := false } : State).link = false ∧
    ((tget ((missing miss0).core 0).misses 2).bind (·.ats)).isSome = true ∧
    (0 + 2 ^ 27 < ({ missing miss0 with now := 2 ^ 27 + 1 } : State).now) ∧
    (missing miss0).reqs.any (fun r => r.2.ph.host && r.2.part == 0 && overlaps r.2.ph.pa (max 1 r.2.n) 0x5000_0000 65536) = false := by
  decide

/-- A load request of core 0 in the networks: its request and its packets. -/
def req0 : Req := { src := .core 0, dst := 0, part := 0, kind := .load, ph := { pa := 0x300_0000 }, n := 4, va := 0x30000, op := some 7,
                    deadline := 16384 }
def pkt0 : Pkt := { req := 8, src := .core 0, dst := 0, reply := false, flits := 1, die := 0, part := 0 }
def flying (r : Req) (k : Pkt) (now : Nat) : State := { pending with reqs := [(8, r)], pkts := [(9, k)], now := now, l2 := [{ pa := 0x300_0000, slice := 0 }] }
/-- The same with a bucket of its die and partition. -/
def budget (rate fill : Nat) : State := { flying req0 pkt0 0 with buckets := [(0, 0, rate, fill)] }

/-- ScratchpadAccessesAndLoads: a request of the bundle for the line, which an access of the next lane joins; and none. AccessEventsComplete:
the first request of an HBM read. -/
theorem witness_merge :
    (let q : Req := { req0 with fill := some .ls, launch := some 2 }
     let s : State := { demo [0x30000] with reqs := [(8, q)] }
     q.bundle = s.issues ∧ q.dst = s.home (s.partOf 1) 0x300_0000 ∧ q.launch = (s.wg 1).map (·.launch) ∧ q.hint = c0.ch.val ∧
       ((s.core 0).cache .ls).find? (fun l => l.pa == lineOf 0x300_0000) = none) ∧
    (demo [0x30000]).reqs = [] ∧
    ({ flying req0 pkt0 0 with hbmReads := [0x300_0000] } : State).reqs.find?
      (fun e => !e.2.ph.host && lineOf e.2.ph.pa == 0x300_0000 && e.2.kind.onLine) = some (8, req0) := by decide

/-- AccessEventsComplete: packets that may go, with no bucket, an unlimited, a full and an empty one; flits that arrive. -/
theorem witness_flits : ((flying req0 pkt0 0).inWindow pkt0 = true ∧ (flying req0 pkt0 0).behind 9 pkt0 = false ∧
    (flying req0 pkt0 0).heldBack pkt0 = false ∧ pkt0.sent < pkt0.flits) ∧
    (budget 0 0).buckets.find? (fun b => b.1 == 0 && b.2.1 == 0) = some (0, 0, 0, 0) ∧
    (budget 16 1024).buckets.find? (fun b => b.1 == 0 && b.2.1 == 0) = some (0, 0, 16, 1024) ∧
    (budget 16 1023).buckets.find? (fun b => b.1 == 0 && b.2.1 == 0) = some (0, 0, 16, 1023) ∧
    ({ pkt0 with sent := 1 } : Pkt).arrived < ({ pkt0 with sent := 1 } : Pkt).sent ∧
    ({ pkt0 with flits := 2, sent := 1 } : Pkt).arrived + 1 ≠ 2 := by decide

/-- AccessEventsComplete: a reply that is whole, good and bad; a request whose timer is over, with sends left and without;
a host request; an HBM read. -/
theorem witness_replies :
    (let k : Pkt := { pkt0 with reply := true, sent := 1, arrived := 1 }
     tget (flying req0 k 0).pkts 9 = some k ∧ tget (flying req0 k 0).reqs k.req = some req0 ∧ k.reply = true ∧ k.lost = false ∧
       k.arrived = k.flits ∧ req0.dead = false ∧ k.fault = 0 ∧ ({ k with fault := 0xE2 } : Pkt).fault ≠ 0) ∧
    req0.deadline ≤ (flying req0 pkt0 16384).now ∧ req0.sends < 5 ∧ 5 ≤ ({ req0 with sends := 5 } : Req).sends ∧
    ({ req0 with hostSt := 1 } : Req).hostSt = 1 ∧
    ({ demo [] with hbmReads := [0x300_0000] } : State).hbmReads.contains 0x300_0000 = true := by decide

/-- The operation of pending with its piece at the scratchpad. -/
def local0 (act : ReqKind) : State := { pending with
  ops := pending.ops.map (fun e => (e.1, { e.2 with pieces := [{ va := 0, n := 4, loc := .scratch 1 0x1FFC, act := act }] })) }

/-- AccessEventsComplete: a hit, and a scratchpad piece of each kind, whose turn it is; an operation of one load. -/
theorem witness_local :
    pending.ops.map (·.1) = [7] ∧ (tget pending.ops 7).map (fun o => (o.done, o.dst, o.waiters)) = some (false, [.v 1 20], []) ∧
    ((local0 .load).wg 1).map (fun g => (g.resid, g.badScratch)) = some (.resident, []) := by decide
theorem witness_scratch : ∀ a ∈ [ReqKind.load, .store [1, 2, 3, 4], .atomic (.rmw 0x144 0 6 1 0)],
    (tget (local0 a).ops 7).map (fun o => o.pieces) = some [{ va := 0, n := 4, loc := .scratch 1 0x1FFC, act := a }] ∧
    (local0 a).ops.any (fun e => decide (e.1 < 7) && !e.2.done && e.2.scratchOf == some 1) = false := by decide

/-- The machine with a request packet that has arrived at slice 0. -/
def arrived (r : Req) (k : Pkt) : State := flying r { k with sent := 1, arrived := 1 } 1

/-- SliceServesRequests: a request that was executed, sent again and a duplicate; a cancel; one whose predecessor is out;
a load and a store of a present line; a poisoned line; an absent one. -/
theorem witness_slice :
    ((arrived req0 pkt0).windowFor 0 (.core 0)).ran.find? (fun e => e.1 == req0.seq) = none ∧
    ((((arrived req0 pkt0).record 0 (.core 0) (0, 0, [1], [])).windowFor 0 (.core 0)).ran.find? (fun e => e.1 == req0.seq)).isSome =
      true ∧
    ({ pkt0 with cancel := true } : Pkt).cancel = true ∧ ({ pkt0 with retry := true } : Pkt).retry = true ∧
    ({ arrived req0 pkt0 with reqs := [(5, req0), (8, { req0 with seq := 1, pred := some 0 })] } : State).executed 0 (.core 0) 0 = false ∧
    (arrived req0 pkt0).inL2 0x300_0000 = true ∧ (arrived req0 pkt0).outranked 9 pkt0 req0 = false ∧
    ({ arrived req0 pkt0 with reqs := [(8, req0), (10, { req0 with seq := 1 })]
                              pkts := [(9, { pkt0 with sent := 1, arrived := 1 }), (11, { pkt0 with req := 10, sent := 1, arrived := 1 })] } :
      State).outranked 11 { pkt0 with req := 10, sent := 1, arrived := 1 } { req0 with seq := 1 } = true ∧
    pkt0.low ≤ ((arrived req0 pkt0).windowFor 0 (.core 0)).low ∧
    ((arrived req0 pkt0).setWindow { slice := 0, src := .core 0, low := 1 }).windowFor 0 (.core 0) = { slice := 0, src := .core 0, low := 1 } ∧
    ({ arrived req0 pkt0 with slicePoison := [0x300_0000] } : State).slicePoison = [0x300_0000] ∧
    (arrived req0 pkt0).poison.contains (lineOf 0x300_0000) = false ∧
    ({ arrived req0 pkt0 with poison := [0x300_0000] } : State).poison.contains (lineOf 0x300_0000) = true ∧
    ({ arrived req0 pkt0 with l2 := [] } : State).needsLine req0 = true ∧
    (arrived req0 pkt0).hbmReads.contains (lineOf 0x300_0000) = false := by decide

/-- An ordered entry. -/
def ord0 : OrdEntry := { req := 8, op := 7, queue := 0, part := 0, launch := 2, lseq := 0, wg := 1, grp := 0, epoch := 0, tid := 0,
                         opidx := 0, ph := { pa := 0x300_0000, det := true }, va := 0x30000, n := 4, a := .rmw 0x145 0 14 0 0 }
def ordered0 : State := { pending with slices := [(0, { buffer := [ord0] })] }

/-- AtomicValuesAndOrder: the limits of a type; an entry that arrives, one that may not be applied yet and one that may;
a window that has ended; a count that is no multiple of 256, and one that is. -/
theorem witness_ordered : Ty.s8.isF = false ∧ 255 < 2 ^ Ty.s8.width ∧
    leastEntry ((ordered0.slice 0).buffer.filter (fun e => lineOf e.ph.pa == 0x300_0000)) = some ord0 ∧
    ordered0.mayApply 0 ord0 = false ∧
    (ordered0.modSlice 0 (fun k => { k with floors := [(1, [none, none])] })).mayApply 0 ord0 = true ∧
    (ordered0.slice 0).arriving.any (fun x => sameLine x.ph ord0.ph && keyLt x.key ord0.key) = false ∧
    (({ demo [] with slices := [(0, { arriving := [ord0] })] } : State).slice 0).buffer.length < 1024 ∧
    ({ demo [] with now := 1024 } : State).windowAt / 1024 < 1024 / 1024 ∧
    ((0 + 1) % 2 ^ 32) % 256 ≠ 0 ∧ ((255 + 1) % 2 ^ 32) % 256 = 0 := by decide

/-! ## Control -/

/-- BranchesCallsAndFrames: demands at the limits 1 and 224 and beyond; a pool that holds the frame and one that does not;
a callee that is there, and none. -/
theorem witness_calls : (1 ≤ (ob 0 8 0).dem.toNat ∧ (ob 0 224 0).dem.toNat ≤ 224 ∧ ¬(ob 0 225 0).dem.toNat ≤ 224 ∧
    ¬1 ≤ (ob 0 0 0).dem.toNat) ∧ (8 + 8) / 8 * 8 ≤ 8 * ((demo []).eff 1).poolg ∧ ¬(224 + 8) / 8 * 8 ≤ 8 * 28 ∧
    (demo []).callee 1 0 = none ∧
    ((demo []).modLaunch 2 (fun l => { l with eff := { l.eff with calleeq := true }, callees := [some 9] })).callee 1 0 = some 9 ∧
    (demo []).fits 1 0 16 = some [3, 4] ∧ ((demo []).core 0).needs = [] := by decide

/-- A called frame with a handler, over the base frame. -/
def called : Frame := { id := 5, decl := 8, grans := [3, 4], slots := List.replicate 16 0, link := mkLink 40 0 0 0 (some 2) false }
def plain : Frame := { called with id := 6, link := mkLink 41 8 0 0 none false }
def base0 : Frame := { id := 1, base := true, decl := 24, grans := [0, 1, 2], slots := List.replicate 24 0 }
def inCall (fs : List Frame) : State := demoT [] (fun th => { th with frames := fs })

/-- ReturnUnwindExit: a thread in a called frame, one in its base frame, one whose second frame has a handler, one that has
no handler. -/
theorem witness_return :
    aloneB (inCall [plain, base0]) (.ret c0 (o3 .b64 0)) c0 u0 0 = true ∧ plain.base = false ∧ base0.spilled = false ∧
    aloneB (inCall [base0]) (.ret c0 (o3 .b64 0)) c0 u0 0 = true ∧
    (inCall [plain, called, base0]).thread 1 0 = some { thread0 [] with frames := [plain, called, base0] } ∧
    ((plain.base || !plain.hnd) = true ∧ called.base = false ∧ called.hnd = true ∧ called.args = 0 ∧ 0 < called.decl) ∧
    [base0].all (fun f => f.id != called.id) = true ∧ [plain, base0].all (fun f => f.base || !f.hnd) = true ∧
    ((inCall [plain, called, base0]).unwind 1 0 7).isSome = true ∧ ((inCall [base0]).core 0).needs = [] := by decide

/-- A nop, and a machine whose code holds it at index 1. -/
def nopWord : Nat := 0xA341EF003C1E0F0783C3C000
def coded (trips : Word) (w : Nat) : State := { demo [trips] with mem := memWrite [] 0x200_000C (leBytes 12 w) }
def cap : FI := { d := .vz, a := .v 0, imm := 1, pd := 15, rm := .rn, ty := .b64, sub := 0 }

/-- LoopsElectionsAndIdling: a body that may be captured, with trips and with none; one that may not; code that cannot be
fetched; the ends of a pass and of the loop. -/
theorem witness_loops : aloneB (coded 2 nopWord) (.loopCap c0 cap) c0 u0 0 = true ∧
    (fetchWords (start (coded 2 nopWord) (.loopCap c0 cap) c0 u0) 1 [0] 1 1).1.toOption = some [nopWord] ∧
    badCapture [] [nopWord] 2 = false ∧ ((coded 0 nopWord).src 1 0 (.v 0)).toNat % 2 ^ 32 = 0 ∧
    ((coded 2 nopWord).src 1 0 (.v 0)).toNat % 2 ^ 32 ≠ 0 ∧ badCapture [nopWord] [] 2 = true ∧
    (fetchWords (start (demo []) (.loopCap c0 cap) c0 u0) 1 [0] (2 ^ 56) 1).1.toOption = none := by decide

/-- LoopsElectionsAndIdling: no occurrence open, this one open, 64 others open; counts within and beyond. -/
theorem witness_elections :
    (wg0 []).freeElections.elections = [] ∧
    ({ wg0 [] with elections := [{ index := 0, epoch := 0, seen := [1] }] } : Workgroup).freeElections.elections =
      [{ index := 0, epoch := 0, seen := [1] }] ∧
    ({ wg0 [] with elections := (List.range 64).map (fun i => { index := i + 1, epoch := 0, seen := [1] }) }
      : Workgroup).freeElections.elections.length = 64 ∧
    pending.countOps 1 0 .ld = 1 ∧ aloneB pending (.wait c0 (oi .s32 0 0)) c0 u0 0 = true ∧ (demo []).countOps 1 0 .ld = 0 := by
  decide

/-- A bucket table of one dimension and one record in constant space, in the constant cache of core 0. -/
def buckets (h r lim : Nat) : State := (demo [0xFF02_0000_0000_0000]).modCore 0 (fun k => { k with
  cst := [{ pa := 0x300_0000, data := leBytes 8 h ++ leBytes 8 r ++ leBytes 8 lim ++ List.replicate 40 0 }] })
def bkt : F3 := { o3 .b64 0 with b := .k 0, e := .v 4 }

/-- BucketSelection: a legal head and one that is not; a record that holds the shape value 0, and one that does not; a word of the
table that is still on its way, and a shape value that awaits its write. -/
theorem witness_buckets : aloneB (buckets (2 ^ 8 + 1) 7 (2 ^ 32)) (.bktSel c0 bkt) c0 u0 0 = true ∧
    (cstWord (buckets (2 ^ 8 + 1) 7 (2 ^ 32)) (ctx (.bktSel c0 bkt) c0 u0 0) 0xFF02_0000_0000_0000).1.toOption = some (2 ^ 8 + 1) ∧
    (2 ^ 8 + 1 < 2 ^ 11 ∧ 1 ≤ (2 ^ 8 + 1) / 2 ^ 8 % 2 ^ 3 ∧ (2 ^ 8 + 1) % 2 ^ 8 = 1) ∧ ¬(2 ^ 11 < 2 ^ 11) ∧
    (findBucket (buckets (2 ^ 8 + 1) 7 (2 ^ 32)) (ctx (.bktSel c0 bkt) c0 u0 0) 1 [0] 0xFF02_0000_0000_0008 1).1.toOption =
      some (some [7, 2 ^ 32]) ∧
    (findBucket (buckets (2 ^ 8 + 1) 7 (2 ^ 32 + 1)) (ctx (.bktSel c0 bkt) c0 u0 0) 1 [0] 0xFF02_0000_0000_0008 1).1.toOption =
      some none ∧
    (match (cstWord (demo []) (ctx (.bktSel c0 bkt) c0 u0 0) 0xFF02_0000_0000_0000).1 with
      | .error (0, _) => true
      | _ => false) = true ∧
    ({ pending with ops := pending.ops.map (fun e => (e.1, { e.2 with dst := [.k 0] })) } : State).pendingAny 1 0 [.k 0] = true := by decide

/-- The machine with barrier 1 of workgroup 1 initialised. -/
def barred (n : Word) (b : Barrier) : State := demoW [n] (fun g => { g with bars := [(1, b)] })

/-- BarriersAndTeamSync: barrier numbers below and at BARS; counts 0, 1, the size and beyond; arrivals that are not in, and
that are all in; sums at the limits of 48 bits; the wait of a phase that is over. -/
theorem witness_barriers :
    (∀ i ∈ [Instr.barInit c0 (oi .s32 1 0), .barArrive c0 (oi .s32 1 0), .barWait c0 (oi .s32 1 0), .barTx c0 (oi .s32 1 0)],
      aloneB (barred 2 { exp := 2 }) i c0 u0 0 = true) ∧
    (barred 2 { exp := 2 }).launchOf 1 = some launch0 ∧ 1 < launch0.nbars ∧ launch0.nbars ≤ 2 ∧
    (wg0 []).threads.length = 2 ∧ tget (wg0 []).bars 1 = none ∧ (barred 2 { exp := 2, arr := 1 }).wg 1 ≠ none ∧
    ((start (barred 2 { exp := 2 }) (.barArrive c0 (oi .s32 1 0)) c0 u0).fenceClear (ctx (.barArrive c0 (oi .s32 1 0)) c0 u0 0) 2 10) = true ∧
    (0 : Int) + ((2 : Word) ^ 47 - 1).toInt < 2 ^ 47 ∧ ¬(0 : Int) + ((2 : Word) ^ 47).toInt < 2 ^ 47 ∧
    ((demoT [] (fun th => { th with arrival := some (1, 5) })).thread 1 0).bind (·.arrival) = some (1, 5) ∧
    (demo []).fenceClear (ctx (.nop c0 (o3 .b64 0)) c0 u0 0) 1 10 = true := by decide

/-- TrapsAndSystemRegisters: a thread in a loop; a launch of a queue, and of none; an invalidation that waits. -/
theorem witness_system : ((demoP [] (fun q => { q with queues := [(0, { node := 0x300_0000, priv := false })] })).digestOf 1).1.isSome = true ∧
    ((demo []).digestOf 1).1 = none ∧ (demo []).accessesDone 0 0x30000 1 10 = true ∧ pending.accessesDone 0 0x30000 1 10 = false ∧
    ((demo []).thread 1 0).bind (·.hold) = none ∧
    ((demoT [] (fun th => { th with hold := some (.inval 9 0x30000 1) })).thread 1 0).bind (·.hold) = some (.inval 9 0x30000 1) ∧
    aloneB (demoT [] (fun th => { th with hold := some (.inval 9 0x30000 1) })) (.tlbInv c0 (o3 .b64 0)) c0 u0 0 = true ∧
    ({ thread0 [] with loop := some { b := 1, len := 1, trips := 2, pass := 1, steps := [] } } : Thread).loop.isSome = true := by decide

/-- Threads that wait: a stall, a hold, a sleep, a callee queue and a need of a frame. -/
def asleep : State := demoT [] (fun th => { th with st := .parked (.sleep 0) })
def queued0 : State := { demoT [] (fun th => { th with st := .parked (.calleeQ 3 0 9) }) with now := 256 }
def needing : State := (({ demoT [] (fun th => { th with
  st := .frameWait, call := some { demand := 8, window := 0, args := 0, target := 9, handler := none, queue := none } }) with
    now := 4096 } : State).modCore 0 (fun k => { k with needs := [(0, 1, 0)] }))

/-- ThreadEventsComplete: each of these at the moment that ends it, and a spill that fits and one that does not. -/
theorem witness_threads : (asleep.thread 1 0).map (·.st) = some (.parked (.sleep 0)) ∧ queued0.drainQueue 0 = some 3 ∧
    queued0.queued 0 3 = [(0, 1, 0, 9)] ∧ (∀ q < 16, ((demo []).queued 0 q).length < 32) ∧ needing.swarmTrigger 0 = true ∧
    (demo []).swarmTrigger 0 = false ∧ (needing.core 0).needs = [(0 % 32, 1, 0)] ∧ (needing.grantOne 1 0).1 = true ∧ ((needing.grantOne 1 0).2.core 0).needs = [(0, 1, 0)] ∧ (queued0.core 0).drained = false ∧
    ((queued0.modCore 0 (fun k => { k with drained := true })).core 0).drained = true ∧
    deepest [base0] = some (base0, 0) ∧ 0 + (8 * base0.size + 8) ≤ ((demo []).eff 1).spsize ∧
    ((demo []).eff 1).spsize < 4096 + (8 * base0.size + 8) := by decide
theorem witness_spill : ((({ tabled [] with launches := [(2, { launch0 with eff := { eff0 with spbase := 0x3_0000 } })] }
    : State).spillWrite 1 0 0 (List.replicate 200 0)).1.toOption).isSome = true := by decide


/-! ## Aggregate regions -/

/-- A descriptor at 0x30000 of an INT64 SUM region of 8 leaves, whose line core 0 holds in its L1; the partition has some shadow
space. -/
def descriptor0 (logn : Nat) : List Byte := leBytes 32 (0x3_1000 + logn * 2 ^ 128 + 2 ^ 136)
def declaring (logn shadow : Nat) : State := ({ demoP [0x30000] (fun q => { q with shadow := shadow }) with
  mem := memWrite tables 0x300_0000 (descriptor0 logn) } : State).modCore 0 (fun k => { k with
    l1 := [{ pa := 0x300_0000, data := descriptor0 logn ++ List.replicate 32 0 }] })

/-- AggregateInstructionsIssue: a descriptor that reads, is well formed and finds room; one that is malformed; no room; one whose line
is still to come. -/
theorem witness_decl :
    aloneB (declaring 3 65536) (.aggDecl c0 (o3 .b64 0)) c0 u0 0 = true ∧
    (check (start (declaring 3 65536) (.aggDecl c0 (o3 .b64 0)) c0 u0) 1 [0] 0x30000 32 32 .load Aper.g false).1 =
      .glob 0x30000 { pa := 0x300_0000, rop := true } ∧
    (readThroughL1 (start (declaring 3 65536) (.aggDecl c0 (o3 .b64 0)) c0 u0) (ctx (.aggDecl c0 (o3 .b64 0)) c0 u0 0) 0x30000 32
      { pa := 0x300_0000, rop := true }).1.toOption = some (descriptor0 3) ∧
    (match (readThroughL1 (demo []) (ctx (.aggDecl c0 (o3 .b64 0)) c0 u0 0) 0x30000 32 { pa := 0x300_0000, rop := true }).1 with
      | .error (0, _) => true
      | _ => false) = true := by decide
theorem witness_decl_checks :
    (declChecks (declaring 3 65536) 1 (0x3_1000 + 3 * 2 ^ 128 + 2 ^ 136)).1.toOption.isSome = true ∧
    (declChecks (declaring 3 65536) 1 (0x3_1000 + 27 * 2 ^ 128 + 2 ^ 136)).1.toOption = none ∧
    (declChecks (declaring 3 65535) 1 (0x3_1000 + 3 * 2 ^ 128 + 2 ^ 136)).1.toOption = none := by decide
theorem witness_agg : ∀ i ∈ [Instr.aggFree c0 (o3 .b64 0), .aggRange c0 (o3 .b64 0), .aggPfx c0 (o3 .b64 0), .aggPick c0 (o3 .b64 0),
    .aggSync c0 (o3 .b64 0), .aggSync c0 { o3 .b64 0 with a := .vz }], aloneB (demo []) i c0 u0 0 = true := by decide

/-- A region of two leaves, with an update that waits, in slot 0 of partition 0. -/
def region0 : Region := { agg := 0, ty := 1, logn := 1, lbase := 0x3_1000, sync := 0, frames := [(0x3_0000, 0x300_0000)], run := (0, 1),
                          nodes := [(1, 5), (2, 2), (3, 3)] }
def update0 : Update := { line := 0, bytes := List.replicate 64 1, here := true }
def regioned (r : Region) (k : AggOp) : State := { demoP [] (fun q => { q with regions := [(0, r)], gens := [(0, 7)] }) with
  ops := [(7, { wg := 1, tid := 0, core := 0, cls := some .ag, pc := 0, kind := .agg k, dst := [.v 1 20, .p 1 [0]], accepted := true })] }
def query0 : Req := { req0 with kind := .query 0, ph := { pa := 0 }, n := 0, va := 0 }

/-- AggregateTreeAndQueries: an INT64 SUM tree of correct sums, ranges that are empty and not. -/
theorem witness_tree : region0.agg = 0 ∧ region0.ty ≤ 1 ∧
    (∀ i < region0.n, 1 ≤ i → region0.node i = (region0.node (2 * i) + region0.node (2 * i + 1)) % 2 ^ 64 ∧
      region0.node i = (region0.combine (region0.node (2 * i)) (region0.node (2 * i + 1))).1.toNat) ∧ 2 ≤ region0.n := by decide

/-- AggregateEventsComplete: a live handle and a stale one for each request, accepted operations, an update that has come, a build
and a free that end, and a free that waits. -/
theorem witness_region : query0.op = some 7 ∧ query0.part = 0 ∧ (∃ u ∈ ({ region0 with updates := [update0] } : Region).updates, u.here = true) ∧
    (regioned region0 (.range 0x7000 0 2)).regionOf 0 0x7000 = some (0, region0) ∧
    (regioned region0 (.range 0x8000 0 2)).regionOf 0 0x8000 = none ∧
    (∀ k ∈ [AggOp.range 0x7000 0 2, .range 0x7000 0 3, .pfx 0x7000 1, .pick 0x7000 none, .pick 0x7000 (some 4), .sync (some 0x7000), .sync none,
      .decl 0, .free 0x7000],
      (tget (regioned region0 k).ops 7).map (fun o => (o.done, o.accepted, o.kind)) = some (false, true, .agg k)) ∧
    (regioned region0 (.sync none)).partOf 1 = 0 ∧ ¬(3 ≤ region0.n) ∧ region0.badNodes = [] ∧
    tget ((regioned region0 (.sync none)).part 0).regions (0x7000 % 2 ^ 12) = some region0 := by
  refine ⟨by decide, by decide, ⟨update0, by decide, by decide⟩, by decide, by decide, by decide, by decide, by decide, by decide, by decide⟩
theorem witness_region_ends :
    (regioned { region0 with freeing := some 7 } (.free 0x7000)).freedBy 7 = some (0, 0) ∧
    (regioned { region0 with freeing := some 7 } (.free 0x7000)).owes 0 0 = false ∧
    (regioned { region0 with freeing := some 7 } (.pfx 0x7000 1)).owes 0 0 = true ∧
    ({ region0 with updates := [update0] } : Region).updates.all (·.here) = true ∧
    ({ region0 with updates := [{ update0 with here := false }] } : Region).updates.all (·.here) = false ∧
    ({ region0 with build := some 7 } : Region).build = some 7 ∧ ({ region0 with agg := 1 } : Region).agg ≠ 0 := by decide
theorem witness_region_ready : ∀ slot ∈ [none, some 0], (tget (regioned region0 (.pfx 0x7000 1)).ops 7).map (fun o =>
    (regioned region0 (.pfx 0x7000 1)).ownStoresIn o 7 slot) = some true := by decide

/-! ## The Comb -/

/-- Workgroup 1 in group 0, with shape register 0, and cell 0 in some state. -/
def combed (rs : List Word) (st : CellState) (shape : Nat) : State := { demoW rs (fun g => { g with
  group := some 0, ms := ofN shape :: List.replicate 7 0 }) with
    dirs := [(0, { cells := [(0, { st := st, gen := 5, ew := 1, rows := 2, cols := 2 })], members := [(0, 1)] })] }
def shape0 : Nat := 0x10202

/-- CombCellsAndDefinition: the instructions on a free, a defined and a draining cell, with a good and a bad shape. -/
theorem witness_comb :
    (∀ st ∈ [CellState.free, .defined, .draining], ∀ i ∈ [Instr.combDef c0 ox, .combDefs c0 ox, .combRd c0 ox, .combRds c0 ox, .combKill c0 ox,
      .combQ c0 ox, .combLeave c0 ox, .combMap c0 ox], aloneB (combed [0xFF00_0000_0000_0000] st shape0) i c0 u0 0 = true) ∧
    ((combed [] .free shape0).wg 1).map (fun g => (g.leaving, g.group, g.shape 0)) = some (false, some 0, shape0) ∧
    ((demo []).wg 1).map (fun g => (g.leaving, g.group)) = some (false, none) := by decide
theorem witness_comb_checks :
    (combed [] .free shape0).shapePending 1 0 = false ∧ shapeOk shape0 = true ∧ shapeOk 0x30000 = false ∧
    ((combed [] .draining shape0).cell 0 0).st = .draining ∧
    (check (start (combed [0xFF00_0000_0000_0000] .free shape0) (.combDefs c0 ox) c0 u0) 1 [0] 0xFF00_0000_0000_0000
      (max 1 (shapeBytes shape0)) 8 .load Aper.s false).1 = .scratch 1 0 ∧
    (check (start (combed [0xFF00_0000_0000_0000] .defined shape0) (.combRds c0 ox) c0 u0) 1 [0] 0xFF00_0000_0000_0000 1 8 .store Aper.s
      false).1 = .scratch 1 0 ∧
    (start (combed [] .defined shape0) (.combRds c0 ox) c0 u0).rdsFails 1 0 4 = false := by decide
theorem witness_define :
    (let s := start (combed [] .free shape0) (.combDef c0 ox) c0 u0
     let r := s.openDef 1 0 0 shape0 (.combDef 0 0 0 []) none
     (r.2.define 0 0 1 shape0 r.1).isSome = true) ∧
    (combed [] .free shape0).findPlace 0 (shapeBytes shape0) 0 = some 0 ∧ shape0 < 2 ^ 18 ∧
    ((combed [] .free shape0).cell 0 0).readers = [] ∧
    (let y := (combed [] .defined shape0).cell 0 0
     y.gen < 2 ^ 16 ∧ y.ew < 2 ^ 4 ∧ y.rows < 2 ^ 8 ∧ y.cols < 2 ^ 8) := by decide

/-- The same with tile space and scratchpads of the hive in use, and neither L2 nor backing area for values. -/
def full0 : State :=
  let s := combed [] .free shape0
  let s := s.modPart 0 (fun q => { q with slices := [] })
  let x : Cell := { st := .defined, gen := 1, ew := 3, rows := 64, cols := 128 }
  { s with dirs := [(0, { members := [(0, 1)] }), (1, { cells := ((List.range 64).map (fun k => (k, { x with place := 0 }))) ++
      ((List.range 64).map (fun k => (64 + k, { x with place := 1 }))) })] }
theorem witness_no_place : full0.findPlace 0 (shapeBytes shape0) 0 = none := by decide

/-- CombMembershipAndEvents: a workgroup that may join, group indices at the limit and beyond; members that are there and
not. -/
theorem witness_join :
    aloneB (demo [3]) (.combJoin c0 ox) c0 u0 0 = true ∧ ((demo [3]).src 1 0 (.v 0)).toNat ≤ 3 ∧ ¬((demo [4]).src 1 0 (.v 0)).toNat ≤ 3 ∧
    tfree ((demo []).dir 3).members ≤ 255 ∧ tget ((combed [] .free 0).dir 0).members 0 = some 1 ∧
    tget ((combed [] .free 0).dir 0).members 1 = none := by decide

/-- A workgroup whose matrix order is headed by an operation. -/
def heading (k : TileOp) (st : CellState) : State :=
  { (combed [] st shape0).modWg 1 (fun g => { g with mq := [7] }) with
    ops := [(7, { wg := 1, tid := 0, core := 0, cls := some .tl, pc := 0, kind := .tile k })] }
/-- A workgroup that is leaving. -/
def leaving0 : State := { (combed [] .free 0).modWg 1 (fun g => { g with leaving := true }) with
  ops := [(7, { wg := 1, tid := 0, core := 0, cls := none, pc := 0, kind := .leave })] }

/-- CombMembershipAndEvents: operations at the head of the order with storage; a leave with nothing before it; a move. -/
theorem witness_comb_events :
    (∀ k ∈ [TileOp.combDef 0 0 0 [0, 0, 0, 0], .combRd 0 0 0, .combRds 0 0 0],
      ((heading k .defined).headTile 1).map (fun x => (x.1, x.2.2)) = some (7, k)) ∧
    ((heading (.combDef 0 0 0 [0, 0, 0, 0]) .defined).storage 0 1 7 0 [0] { wg := 1, op := 7 }).1 = true ∧
    ((heading (.combRd 0 0 0) .defined).storage 0 1 7 0 [0] { wg := 1, op := 7, reg := some 0, tiles := 1 }).1 = true ∧
    ((heading (.combDef 0 0 0 [0, 0, 0, 0]) .defined).storage 0 1 7 0 [0] { wg := 1, op := 7 }).2.tileSource 1 0 4 = [0, 0, 0, 0] ∧
    blocksOf ((heading (.combRd 0 0 0) .defined).cell 0 0).shape = 1 ∧
    ((heading (.combRd 0 0 0) .defined).cell 0 0).pend = none ∧ ((heading (.combRd 0 0 0) .defined).cell 0 0).bad = false ∧
    (leaving0.ops.find? (fun e => e.2.wg == 1 && e.2.kind == .leave)).isSome = true ∧ leaving0.combPending 1 = false ∧
    (leaving0.expel 1).windowPending 1 = false ∧
    ((combed [] .defined shape0).cell 0 0).place ≠ 3 ∧ ((combed [] .defined shape0).modPart 0 (fun q => { q with combbk := 64 })).roomAt 0 8 3 = true := by
  decide

/-! ## The Swarm engine -/

/-- Descriptors: a tensor of 2 elements of 8 bytes, a gather of 2 rows, a fill of 16 bytes; all into the scratchpad. -/
def tensor0 : Nat := 0xFF00_0000_0000_0000 + 0xFF00_0000_0000_0100 * 2 ^ 64 + 2 ^ 128 + 3 * 2 ^ 132 + 2 * 2 ^ 256 + 8 * 2 ^ 288 + 8 * 2 ^ 336
def gather0 : Nat := 0xFF00_0000_0000_0000 + 0xFF00_0000_0000_0100 * 2 ^ 64 + 0xFF00_0000_0000_0200 * 2 ^ 128 + 2 * 2 ^ 192 + 8 * 2 ^ 224 +
  2 ^ 354
def fill0 : Nat := 0xFF00_0000_0000_0100 + 16 * 2 ^ 64 + 7 * 2 ^ 128
/-- A descriptor at the start of the scratchpad, barrier 1 with some TX, and v1. -/
def described (d : Nat) (tx : Int) (b : Word) : State := demoW [0xFF00_0000_0000_0000, b] (fun g => { g with
  scratch := memWrite [] 0 (leBytes 256 d), bars := [(1, { exp := 2, tx := tx })]
  windows := [(0, { peer := 1 }), (1, { peer := 1, revoked := true })] })
def kinds0 : List (Instr × Nat × Nat) := [(.cpTensor c0 { ox with num := 0x801 }, 0, tensor0), (.cpGather c0 { ox with num := 0x801 }, 1, gather0),
  (.cpScatter c0 { ox with num := 0x801 }, 2, gather0), (.cpMcast c0 { ox with num := 0x801 }, 3, tensor0), (.cpFill c0 { ox with num := 0x801 }, 4, fill0)]

/-- EngineCommandsAndBitmaps: every kind of command with a descriptor that reads and is well formed. -/
theorem witness_engine : ∀ k ∈ kinds0, aloneB (described k.2.2 0 1) k.1 c0 u0 0 = true ∧ badDesc k.2.1 k.2.2 = false := by decide
theorem witness_engine_read : ∀ k ∈ kinds0,
    (readDesc (start (described k.2.2 0 1) k.1 c0 u0) (ctx k.1 c0 u0 0) 0xFF00_0000_0000_0000 (descSize k.2.1)).1.toOption =
      some (leBytes (descSize k.2.1) k.2.2) := by decide
/-- EngineCommandsAndBitmaps: a descriptor that faults, one that is awaited, and a command that has passed its checks and waits. -/
theorem witness_engine_waits :
    (match (readDesc (demo []) (ctx (.cpFill c0 ox) c0 u0 0) (2 ^ 57) 32).1 with
      | .error (0x21, _) => true
      | _ => false) = true ∧
    (match (readDesc (demo []) (ctx (.cpFill c0 ox) c0 u0 0) 0x30000 32).1 with
      | .error (0, _) => true
      | _ => false) = true ∧
    (let s := (described fill0 0 1).modThread 1 0 (fun th => { th with hold := some (.command (leBytes 32 fill0) none []) })
     aloneB s (.cpFill c0 { ox with num := 0x801 }) c0 u0 0 = true ∧
      ((s.thread 1 0).bind (·.hold)) = some (.command (leBytes 32 fill0) none []) ∧ ((start s (.cpFill c0 ox) c0 u0).bitmap 1 0).st = 0) ∧
    ((described fill0 0 1).thread 1 0).bind (·.hold) = none := by decide
/-- EngineCommandsAndBitmaps: a misaligned descriptor, a malformed one, a barrier that is not there or has no room, windows
that are there, unmapped and revoked, a bitmap in use. -/
theorem witness_engine_checks :
    (0xFF00_0000_0000_0020 : Word).toNat % descAlign 0 ≠ 0 ∧ badDesc 0 0 = true ∧
    (namedBarrier (described fill0 0 1) 1 { ox with num := 0x801 }).toOption = some (some (1, { exp := 2 })) ∧
    (namedBarrier (described fill0 0 1) 1 { ox with num := 0x800 }).toOption = none ∧
    unitsCharge 4 fill0 0 = 16 ∧ (2 ^ 47 - 17 : Int) + 16 ≤ 2 ^ 47 - 1 ∧ ¬(2 ^ 47 - 16 : Int) + 16 ≤ 2 ^ 47 - 1 ∧
    ((described fill0 0 1).bitmap 1 0).st = 0 := by decide

theorem witness_receivers : ((described fill0 0 1).wg 1).map (fun g => [1, 2, 4].map (fun m => (receivers g (setBits 64 m)).toOption.isSome)) =
    some [true, false, false] := by decide

/-- The machine with completion bitmap 0 of workgroup 1. -/
def mapped (b : Bitmap) : State := { demoW [] (fun g => { g with bitmaps := [(0, b)], eq := [7], scratch := memWrite [] 0x200 (leBytes 4 (2 ^ 32 - 1)) }) with
  ops := [(7, { wg := 1, tid := 0, core := 0, cls := some .cp, pc := 0, kind := .engine 0 })] }
def bitmap0 : Bitmap := { st := 1, opk := 4, units := 2, desc := leBytes 32 fill0, op := 7 }

/-- EngineCommandsAndBitmaps: bitmaps that are idle, running, faulted, done and guarded. -/
theorem witness_bitmaps : (∀ st ∈ [0, 1, 2, 3, 4, 5], aloneB (mapped { bitmap0 with st := st }) (.cpResume c0 ox) c0 u0 0 = true ∧
      ((mapped { bitmap0 with st := st }).bitmap 1 0).st = st) ∧
    (moveCharge (start (mapped { bitmap0 with st := 3 }) (.cpResume c0 ox) c0 u0) 1 0 none).toOption.isSome = true ∧
    (moveCharge (start ((mapped { bitmap0 with st := 3 }).modWg 1 (fun g => { g with bars := [(1, { exp := 2, tx := 2 ^ 47 - 1 })] }))
      (.cpResume c0 ox) c0 u0) 1 0 (some 1)).toOption.isSome = false ∧
    bitmap0.st < 16 ∧ bitmap0.code < 2 ^ 8 ∧ bitmap0.funit < 2 ^ 12 ∧ bitmap0.opk < 8 ∧ bitmap0.units ≤ 4096 ∧
    aloneB (mapped bitmap0) (.cbRd c0 (o3 .b64 0)) c0 u0 0 = true := by decide

/-- TensorTransfers: a command at the head with each state of its guard, and a running one with a unit of each kind. -/
theorem witness_units :
    ((mapped bitmap0).wg 1).map (fun g => (g.eq, g.resid, g.saveFor)) = some ([7], .resident, 0) ∧
    (tget (mapped bitmap0).ops 7).map (·.kind) = some (.engine 0) ∧
    tget ((demoP [] (fun q => { q with guards := [(1, true), (2, false)] })).part 0).guards 1 = some true ∧
    tget ((demoP [] (fun q => { q with guards := [(1, true), (2, false)] })).part 0).guards 2 = some false ∧
    tget ((demo []).part 0).guards 1 = none ∧ descCount 0 tensor0 ≠ 0 ∧
    bitmap0.bits.testBit 1 = false ∧ bitmap0.failed.testBit 1 = false ∧ (1 : Nat) < bitmap0.units ∧
    (movesOf (mapped bitmap0) 1 1 gather0 0).1.toOption.map (·.isNone) = some true ∧
    (movesOf (mapped bitmap0) 1 4 fill0 0).1.toOption.map (·.isNone) = some false ∧
    (movesOf (mapped bitmap0) 1 1 (gather0 + 0x10_0000 * 2 ^ 128) 0).1.toOption.isNone = true := by decide
/-- A running unit whose access is under way: with lines asked for, with stores that are not acknowledged, and with none left; a unit
that fills from the scratchpad alone, and one whose destination has no translation yet. -/
def staged (x : Stage) : State := { mapped { bitmap0 with started := true } with stages := [x] }
def unit0 : Stage := { owner := .unit 7 0 }
def trying (d : Nat) : State := { mapped { bitmap0 with started := true, desc := leBytes 32 d } with
  net := some (.unit 7 0, .engine 0) }
theorem witness_stages :
    ((staged { unit0 with writing := true, left := 1 }).stage (.unit 7 0)).map (fun x => (x.writing, x.left)) = some (true, 1) ∧
    ((staged { unit0 with asked := [(0x300_0000, false, 8)] }).stage (.unit 7 0)).map (fun x => (x.writing, x.asked)) =
      some (false, [(0x300_0000, false, 8)]) ∧
    ((staged { unit0 with writing := true }).stage (.unit 7 0)).map (fun x => (x.writing, x.left)) = some (true, 0) ∧
    ((((staged { unit0 with writing := true }).dropStage (.unit 7 0)).unitEnd 1 0 0 none).blocked = false) ∧
    (mapped bitmap0).stage (.unit 7 0) = none ∧
    ((trying fill0).wg 1).map (fun g =>
      let r := (trying fill0).unitMove 1 0 0 0 g
      (r.1, r.2.blocked, r.2.puts, (({ r.2 with net := none, wants := [] } : State).unitEnd 1 0 0 r.1).blocked)) =
        some (none, false, [], false) ∧
    ((trying (0x9_0000 + 16 * 2 ^ 64 + 7 * 2 ^ 128)).wg 1).map (fun g =>
      ((trying (0x9_0000 + 16 * 2 ^ 64 + 7 * 2 ^ 128)).unitMove 1 0 0 0 g).2.blocked) = some true := by decide
theorem witness_ready : ((mapped bitmap0).wg 1).map (fun g =>
      let r := readyMoves 1 g bitmap0 (unitMoves 4 fill0 0) (mapped bitmap0)
      (r.1.length, r.2.1, firstFault r.1)) = some (1, false, none) ∧
    (-(2 ^ 47 : Int) ≤ (8 : Int) - (16 : Nat)) ∧ ¬(0 < (-8 : Int)) ∧ ((8 : Int) ≤ (16 : Nat)) := by decide

/-! ## The matrix units -/

/-- Workgroup 1 with tiles 0 and 1 of one 8-bit element, an INT8 record 0 and a block at the start of the scratchpad. -/
def tiled (v : Word) (blk : Nat) (q : List Nat) : State := demoW [v, 0, 0] (fun g => { g with
  ms := [0x10101, 0x10101, 0x10108, 0, 0, 0, 0, 0], rsvs := [(0, { desc := 3, bytes := [] })]
  scratch := memWrite [] 0 (leBytes 32 blk), mq := q })

/-- TilesAndMatrices: shapes at hand and a bad one; layouts that reach the scratchpad; a tile of no shape. -/
theorem witness_tiles :
    (∀ i ∈ [Instr.msSet c0 { ox with mt := 2 }, .mLd c0 { ox with mt := 2 }, .mSt c0 { ox with mt := 2 }, .mZero c0 { ox with mt := 2 },
      .mLd c0 { ox with mt := 3 }, .accClr c0 ox, .rsvAlloc c0 ox, .rsvFree c0 ox], aloneB (tiled 0 0 []) i c0 u0 0 = true) ∧
    shapeOk 0x10101 = true ∧ shapeOk 0x30000 = false ∧ ((tiled 0 0 []).wg 1).map (fun g => (g.shape 2, g.shape 3)) = some (0x10108, 0) ∧
    (tiled 0 0 []).shapePending 1 2 = false ∧ thas [(0, ({ desc := 3, bytes := [] } : RsvRec))] 0 = true ∧
    (tiled 1 0 []).named 1 10 TileOp.recs 0 = false ∧ (tiled 1 0 []).named 1 10 TileOp.tiles 2 = false := by decide
theorem witness_tile_access :
    (tileAccess (start (tiled 0 0 []) (.mLd c0 { ox with mt := 2 }) c0 u0) (ctx (.mLd c0 { ox with mt := 2 }) c0 u0 0) 2 0).toOption = some 1 ∧
    ((start (tiled 0x10101 0 []) (.msSet c0 ox) c0 u0).storage 0 1 0 0 [0] { wg := 1, tid := 0, reg := some 0, tiles := 1 }).1 = true ∧
    ((start (tiled 0 0 []) (.rsvAlloc c0 ox) c0 u0).storage 0 1 0 0 [2] { wg := 1, tid := 0, recs := 1, units := 0 }).1 = true := by decide
theorem witness_record :
    (readBlock (start (tiled 0xFF00_0000_0000_0000 3 []) (.rsvAlloc c0 ox) c0 u0) (ctx (.rsvAlloc c0 ox) c0 u0 0) 0xFF00_0000_0000_0000 8).1.toOption =
      some 3 ∧ badRecord 3 = false ∧ badRecord 7 = true ∧
    ¬16 ≤ [(0, ({ desc := 3, bytes := [] } : RsvRec))].length ∧ 16 ≤ ((List.range 16).map (fun k => (k, ({ desc := 3, bytes := [] } : RsvRec)))).length := by
  decide

/-- TilesAndMatrices: a block of an mma and of an outl.add that passes every check, and blocks that fail each. -/
theorem witness_mma :
    (∀ i ∈ [Instr.mma c0 ox, .outlAdd c0 ox, .epi c0 ox, .mmaQ c0 ox, .amaxRd c0 ox],
      aloneB (tiled 0xFF00_0000_0000_0000 8 []) i c0 u0 0 = true ∧
      (readBlock (start (tiled 0xFF00_0000_0000_0000 8 []) i c0 u0) (ctx i c0 u0 0) 0xFF00_0000_0000_0000 32).1.toOption = some 8) ∧
    badParam false 8 = false ∧ badParam true 8 = false ∧ badParam false (2 ^ 255) = true ∧
    ((tiled 0 8 []).wg 1).map (fun g => (paramChecks g false false 8).toOption.map (fun p => (p.m, p.k, p.n, listChecks g false 8 p []))) =
      some (some (1, 1, 1, 0)) ∧
    ((tiled 0 8 []).wg 1).map (fun g => (paramChecks g false true 8).toOption.map (fun p => (p.m, p.k, p.n, listChecks g true 8 p [], listChecks g true 8 p [2 ^ 30]))) =
      some (some (128, 1, 1, 0, 0x89)) ∧
    ((tiled 0 8 []).wg 1).map (fun g => (paramChecks g false false 24).toOption.isNone) = some true := by decide
/-- An epilogue block: FP32 output of one row and one column at offset 64. -/
def epi0 : Nat := 2 ^ 24 + 2 ^ 32 + 64 * 2 ^ 40 + 8 * 2 ^ 160
theorem witness_epi : badEpi epi0 false = false ∧ badEpi epi0 true = true ∧ epi0.testBit 3 = false ∧
    epiOut (start (tiled 0xFF00_0000_0000_0000 epi0 []) (.epi c0 ox) c0 u0) 1 epi0 = none := by decide

/-- ArrayOrderAndMatrixEvents: records of an integer and of a floating format; operations at the head with storage. -/
theorem witness_array : ({ desc := 3, bytes := [] } : RsvRec).fmt = 3 ∧ ({ desc := 0, bytes := [] } : RsvRec).fmt < 3 := by decide
def headed (k : TileOp) : State := { (tiled 0 0 [7]).modWg 1 (fun g => { g with accs := [(0, {})] }) with
  ops := [(7, { wg := 1, tid := 0, core := 0, cls := some .tl, pc := 0, kind := .tile k })] }
theorem witness_heads : ∀ k ∈ [TileOp.mld 2 0 1 [], .mst 2 0 1, .mzero 2, .accClr 1, .mma false 8 [], .epi epi0 [] [] 0 none],
    (((headed k).headTile 1).map (fun x => (x.1, x.2.2)) = some (7, k)) ∧
    ((headed k).wg 1).bind (fun g => ((headed k).headTile 1).map (fun x => ((headed k).tileStorage g 7 x.2.1 k).1)) = some true := by decide
/-- A ring request, claims that fit and that do not. -/
def claiming (n now : Nat) : State := { (demo []).modCore 0 (fun k => { k with claims := [{ wg := 1, tiles := n }] }) with now := now }
/-- ArrayOrderAndMatrixEvents: sound operands and an operand with an error; a sound accumulator and one with an error; a saved peer. -/
theorem witness_errors :
    ((headed (.mma false 8 [])).wg 1).map (fun g => arrayBad g false false 8 []) = some false ∧
    (((headed (.mma false 8 [])).modWg 1 (fun g => { g with tiles := [(0, { bytes := [], bad := [0] })] })).wg 1).map
      (fun g => arrayBad g false false 8 []) = some true ∧
    ({ } : Accum).badRegion 1 1 = false ∧ ({ bad := [0] } : Accum).badRegion 1 1 = true ∧
    (headed (.mld 2 0 1 [])).peerAway 1 (.mld 2 0 1 []) = false ∧
    ({ headed (.mld 2 0 3 []) with wgs := [(1, wg0 []), (3, { wg0 [] with resid := .saved })] } : State).peerAway 1 (.mld 2 0 3 []) = true := by
  decide
theorem witness_claims :
    (claiming 64 0).claimFits 0 { wg := 1, tiles := 64 } = true ∧ (claiming 65 0).claimFits 0 { wg := 1, tiles := 65 } = false ∧
    (((claiming 65 4096).core 0).claims.find? (fun c => !c.granted)) = some { wg := 1, tiles := 65 } ∧
    (((demo []).core 0).claims.find? (fun c => !c.granted)) = none ∧ ((demo []).ring 0 3).1.length = 16 ∧ ((demo []).ring 0 3).2 < 16 := by
  decide
/-- ScratchpadAccessesAndLoads and TilesAndMatrices: words of the scratchpad that hold an error, and words that do not; a block beyond
its checks. -/
theorem witness_scratch_errors :
    (demoW [] (fun g => { g with badScratch := [0x3FF] })).scratchBad 1 0x1FFC 4 = some 0 ∧ (demo []).scratchBad 1 0x1FFC 4 = none ∧
    (match (readBlock ((tiled 0 8 []).modWg 1 (fun g => { g with badScratch := [3] })) (ctx (.mma c0 ox) c0 u0 0) 0xFF00_0000_0000_0000 32).1 with
      | .error (some (0xE3, a)) => a == 0xFF00_0000_0000_0018
      | _ => false) = true ∧
    (match readOffsets ((tiled 0 8 []).modWg 1 (fun g => { g with badScratch := [3] })) (ctx (.rsvAlloc c0 ox) c0 u0 0) 16 16 with
      | .error (some (0xE3, a)) => a == 0xFF00_0000_0000_0018
      | _ => false) = true ∧
    (match readOffsets (tiled 0 8 []) (ctx (.rsvAlloc c0 ox) c0 u0 0) 0x1FFF 16 with
      | .error (some (0x24, a)) => a == 0xFF00_0000_0000_2000
      | _ => false) = true := by decide

/-! ## Launches -/

/-- Nodes of a tree: the partition root, which sets every group, a queue with one command, a kernel of one workgroup. -/
def rootN : Nat := 2 ^ 56 + 0x1FFF * 2 ^ 32 + 0x1000 * 2 ^ 192 + 2 ^ 244 + 32 * 2 ^ 376 + (2 ^ 32 - 1) * 2 ^ 544 + 0x4_0000 * 2 ^ 640 +
  2 ^ 24 * 2 ^ 704 + 0x3_B000 * 2 ^ 1664
def queueN (flags : Nat) : Nat := 2 * 2 ^ 56 + 0x3_8000 * 2 ^ 64 + 4 * 2 ^ 1648 + 0x3_9000 * 2 ^ 1472 + 2 ^ 1568 + flags * 2 ^ 1656
def kernelN : Nat := 3 * 2 ^ 56 + 0x3_8100 * 2 ^ 64 + 24 * 2 ^ 1124 + 2 ^ 1088 + 2 ^ 1100 + 2 ^ 1112 + 2 ^ 1132 + 0x2_0000 * 2 ^ 896 +
  2 ^ 1024 + 2 ^ 1052 + 2 ^ 1068

/-- The nonzero bytes of a number at an address. -/
def cells (a n v : Nat) : Mem := (leBytes n v).zipIdx.filterMap (fun e => if e.1 = 0 then none else some (a + e.2, e.1))
/-- The tree, a ring with one command, graph nodes that join after 0, 1 and 2 predecessors, and a waggle table. -/
def treed (cmd flags : Nat) : Mem := tables ++ cells 0x300_8000 256 rootN ++ cells 0x300_8100 256 (queueN flags) ++
  cells 0x300_8200 256 kernelN ++ cells 0x300_9000 64 cmd ++ cells 0x300_A000 64 (3 * 2 ^ 332) ++
  cells 0x300_A040 64 (3 * 2 ^ 332 + 2 ^ 336) ++ cells 0x300_A080 64 (3 * 2 ^ 332 + 2 * 2 ^ 336) ++ cells 0x300_B000 8 0x3_8201

def queueTab : Queue := { node := 0x3_8100, priv := false }
/-- The partition with this tree, a queue 0 and some more. -/
def ringed (cmd flags : Nat) (f : Partition → Partition) : State := { demoP [] (fun q => f { q with
  rootRcb := 0x3_8000, rootPt := 0x100_0000, rootAsid := 1, queues := [(0, queueTab)], qtab := [(0, ofN 0x3_8101)] }) with
    mem := treed cmd flags }
def same (q : Partition) : Partition := q

/-- Commands: NOP, LAUNCH of the kernel, GRAPH of a node that waits, DIGEST-RESET, and a malformed one. -/
def cmds0 : List Nat := [0, 2 ^ 56 + 0x3_8200 * 2 ^ 64, 2 * 2 ^ 56 + 0x3_A040 * 2 ^ 64 + 2 ^ 128, 3 * 2 ^ 56]

/-- LaunchInstructionsAndRings: a command of each kind at the head that may start; one that is malformed. -/
theorem witness_rings : ∀ k < 4, let c := cmds0.getD k 0
    ((ringed c 0 same).headCmd 0 0).1.map (fun h => (h.cmd.toOption, h.mayStart ((ringed c 0 same).headCmd 0 0).2 0 0 c)) = some (some c, true) ∧
    c / 2 ^ 56 % 2 ^ 8 = k ∧ badCommand c = false ∧ (ringed c 0 same).guardOf 0 c = some true := by decide +kernel
theorem witness_ring_guards :
    badCommand (2 ^ 53) = true ∧ ((ringed (2 ^ 53) 0 same).headCmd 0 0).1.map (fun h => h.cmd.toOption) = some (some (2 ^ 53)) ∧
    (ringed 0 0 same).guardOf 0 (2 ^ 52 + 2 ^ 40) = none ∧
    (ringed 0 0 (fun q => { q with guards := [(1, false)] })).guardOf 0 (2 ^ 52 + 2 ^ 40) = some false ∧
    (ringed 0 0 same).launchesFull 0 = false := by decide +kernel
theorem witness_doorbell : ((ringed 0 0 same).part 0).vf = true ∧ (ringed 0 0 same).hostForwards 0 = false ∧
    ((ringed 0 0 same).part 0).registered 0 = true ∧
    (readNode (ringed 0 0 same) 0 0x3_8100).1.toOption.map (fun n => (n.rings 0, n.f 1652 1648, n.f 1567 1536, n.r.testBit 1663)) =
      some (true, 4, 0, false) ∧
    (readNode (ringed 0 0x80 same) 0 0x3_8100).1.toOption.map (fun n => (n.rings 0, n.r.testBit 1663)) = some (true, true) ∧
    wrapN ((16 : Int) - (0 : Nat)) 32 ≤ 2 ^ 4 ∧ 2 ^ 4 < wrapN ((17 : Int) - (0 : Nat)) 32 ∧ tget ((ringed 0 0 same).part 0).queues 1 = none := by
  decide +kernel

/-- What the command at the head resolves to. -/
def resolving (grid : Option (Nat × Nat × Nat)) : Option Nat × Bool :=
  let s := ringed (cmds0.getD 1 0) 0 same
  match (s.headCmd 0 0).1 with
  | some h =>
    let r := resolve (s.takeCmd 0 0 h none) { part := 0, queue := some 0, rcb := 0x3_8200, lseq := 0, origin := .command 0 0, priv := false, grid := grid }
    (r.1.toOption, r.2.blocked)
  | none => (none, true)
theorem witness_resolve : resolving none = (some 10, false) ∧ resolving (some (0, 0, 0)) = (some 10, false) := by decide +kernel
theorem witness_graph :
    (nodeSpace (ringed 0 0 same) 0 0x3_8100).1.toOption = some (1, 0x100_0000) ∧
    (let r : GraphRun := { part := 0, queue := some 0, priv := false, asid := 1, root := 0x100_0000, seq := 0, base := 0x3_A040, count := 1 }
     (graphArray (ringed 0 0 same) r 1 0x3_A040).1.toOption.map (fun ns => ((ringed 0 0 same).startArray 9 r ns).blocked) = some false) := by
  decide +kernel

/-- LaunchInstructionsAndRings: operands of each instruction at the limits of its checks. -/
def launching (rs : List Word) : State := { demo rs with mem := treed 0 0 }
theorem witness_launch_instrs :
    (∀ i ∈ [Instr.dgNode c0 ox, .dgGo c0 ox, .engGuard c0 ox, .engGuard c0 { ox with xsub := 1 }, .engGuard c0 { ox with xsub := 2 },
      .lqPush c0 ox, .wagSend c0 ox], aloneB (launching [0x3_A040, 1, 0]) i c0 u0 0 = true ∧
      (start (launching [0x3_A040, 1, 0]) i c0 u0).doneOwn 1 0 .st ((start (launching [0x3_A040, 1, 0]) i c0 u0).markOf (ctx i c0 u0 0)) = true) ∧
    (launching []).launchOf 1 = some launch0 ∧ launch0.lseq % 65536 = 0 ∧ ({ launch0 with lseq := 5 } : Launch).lseq % 65536 ≠ 0 ∧
    ¬(65535 < 65534 + 1) ∧ (65535 < 65535 + 1) ∧ launch0.children = [] ∧ (0x3_A040 : Nat) % 64 = 0 ∧
    tget ((demoP [] (fun q => { q with guards := [(0, true)] })).part 0).guards 0 = some true ∧
    ((launching []).part 0).hives = [0] ∧ (2 : Nat) ^ 63 / 2 ^ 63 = 1 := by decide +kernel
theorem witness_launch_checks :
    (check (start (launching [0x3_A040, 1, 0]) (.dgNode c0 ox) c0 u0) 1 [0] 0x3_A040 64 64 .atomic Aper.g false).1 =
      .glob 0x3_A040 { pa := 0x300_A040, rop := true } ∧
    (arrayChecks (start (launching [0x3_A040, 1, 0]) (.dgGo c0 ox) c0 u0) 1 0x3_A040 64).1 = none ∧
    (let r : GraphRun := { part := 0, queue := some 0, priv := true, asid := 1, root := 0x100_0000, seq := 0, base := 0x3_A040, count := 1 }
     (graphArray (launching []) r 1 0x3_A040).1.toOption.map (fun ns => ((launching []).startArray 9 r ns).blocked) = some false) := by decide +kernel

/-- The partition with a decrement of a node, a child in the queue of die 0, and a waggle. -/
def pred0 (a : Nat) : Pred := { node := a, asid := 1, root := 0x100_0000, queue := none, priv := false }
def child0 : Child := { part := 0, launch := 2, queue := some 0, priv := false, rcb := 0x3_8200, lseq := 0x10000, grid := (1, 1, 1), k63 := 7 }
/-- LaunchesAndWorkgroups: PRED of 0, 1 and 2; a child that resolves; a waggle of an entry and of none. -/
theorem witness_preds : ∀ k < 3,
    (readSys (ringed 0 0 (fun q => { q with preds := [] })) 0 1 0x100_0000 (0x3_A000 + 64 * k) 64).1.toOption.map
      (fun b => leNat b / 2 ^ 336 % 2 ^ 32) = some k ∧ (pred0 (0x3_A000 + 64 * k)).start = false ∧ (pred0 0).op = none := by decide +kernel
theorem witness_child : (({ ringed 0 0 same with lqs := [(0, [child0])] } : State).lq 0 = [child0]) ∧
    (resolve (ringed 0 0 same) { part := 0, queue := some 0, rcb := 0x3_8200, lseq := 0x10000, origin := .child 2, priv := false,
                                 grid := some (1, 1, 1), ks := [(63, 7)] }).1.toOption = some 10 := by decide +kernel
theorem witness_waggle :
    (readNode (ringed 0 0 same) 0 0x3_8000).1.toOption.map (fun n => n.f 1727 1664) = some 0x3_B000 ∧
    (readSys (ringed 0 0 same) 0 1 0x100_0000 0x3_B000 8).1.toOption.map (fun b => (leNat b).testBit 0) = some true ∧
    (readSys (ringed 0 0 same) 0 1 0x100_0000 0x3_B008 8).1.toOption.map (fun b => (leNat b).testBit 0) = some false ∧
    (resolve (ringed 0 0 same) { part := 0, queue := none, rcb := 0x3_8200, lseq := 0, origin := .waggle, priv := false
                                 grid := some (1, 1, 1), hiveOnly := some 0, handler := true, ks := [(0, 5)] }).1.toOption = some 10 := by decide +kernel

/-- A launch of two workgroups, of which one waits for its placement. -/
def waiting0 : State := (demo []).modLaunch 2 (fun l => { l with gx := 2, eff := { l.eff with savesize := 2 ^ 24, poolg := 240 } })
theorem witness_place : (waiting0.nextPlacement 0).map (fun x => (x.1, x.2.2, (waiting0.place x.1 x.2.1 x.2.2).isSome)) = some (2, 1, true) ∧
    (tget waiting0.placeAt 0).getD 0 ≤ waiting0.now ∧ ({ waiting0 with placeAt := [(0, 5)] } : State).now < 5 ∧
    (tget waiting0.launches 2).map (fun l => (l.placed, l.total, max (l.resolvedAt + (15 - l.eff.prio) * 65536) l.lastPlaced + 65536)) =
      some (1, 2, 16 * 65536) := by decide +kernel
/-- A workgroup whose granules are clear, and a link that H takes next. -/
theorem witness_starts :
    ((demoW [] (fun g => { g with resid := .clearing })).wg 1).map (fun g => (g.resid, g.clearAt)) = some (.clearing, 0) ∧
    (∀ x ∈ (demoW [] (fun g => { g with resid := .clearing })).onCore 0, ¬(x.2.resid = .clearing ∧ x.2.clearAt < 0)) ∧
    (ringed 0 0 same).nextLink 0 0 { queueTab with links := [{ lseq := 2 ^ 32, digest := [] }] } = none ∧
    ({ ringed 0 0 same with launches := [] } : State).nextLink 0 0 { queueTab with links := [{ lseq := 2 ^ 32, digest := [] }] } =
      some { lseq := 2 ^ 32, digest := [] } := by decide +kernel

/-- Workgroup 1 with its threads gone; in a launch of one workgroup and of two. -/
def spent0 : State := demoW [] (fun g => { g with threads := g.threads.map (fun th => { th with st := .exited }) })
theorem witness_retire : ((spent0.wg 1).map (fun g => spent0.spent 1 g)) = some true ∧ spent0.combPending 1 = false ∧
    spent0.windowPending 1 = false ∧ spent0.launchForwards 2 = false ∧ launch0.total = 0 + 1 ∧ waiting0.blocked = false ∧
    ((demo []).wg 1).map (fun g => (demo []).spent 1 g) = some false ∧ (spent0.completeLaunch 2).blocked = false := by decide +kernel
/-- Workgroup 1 as it is saved and as it comes back. -/
def saved0 : State := (demoW [] (fun g => { g with resid := .saved, wantBack := true, saveFor := 2 })).modLaunch 2 (fun l => { l with
  eff := { l.eff with poolg := 240 } })
theorem witness_save :
    ((demoW [] (fun g => { g with saveFor := 2 })).wg 1).map (fun g => (g.resid, g.saveFor,
      g.which (fun th => th.st == .run && !th.faults.isEmpty && !th.waitsOp), (demo []).quiet 1 g)) = some (.resident, 2, [], true) ∧
    ((demoT [] (fun th => { th with faults := [{ op := 5, code := 0xE1, spc := 0, addr := 0 }] })).wg 1).map (fun g =>
      g.which (fun th => th.st == .run && !th.faults.isEmpty && !th.waitsOp)) = some [0] ∧
    (({ pending with ops := pending.ops } : State).wg 1).map (fun g => pending.quiet 1 g) = some false ∧
    (demo []).storesOut 1 = false ∧ ((wg0 []).mq.all (demo []).parkedEpi) = true ∧
    ((demo []).wg 1).map (·.saveFor) = some 0 ∧ (saved0.wg 1).map (fun g => (g.resid, g.wantBack, saved0.firstBack g)) = some (.saved, true, true) ∧
    ((saved0.wg 1).bind (fun g => (saved0.launchOf 1).map (fun l => (decide (0 ∈ saved0.homeCores g l), saved0.fitsCore l 0, saved0.reservedFrom 2 l 0)))) =
      some (true, true, false) := by decide +kernel

/-! ## The host and the module -/

/-- HostAccessesComplete: an access that goes through and one that fails; a queue that is busy and one that is not; entries
and workgroups that the host may name. -/
theorem witness_host :
    (readSys (ringed 0 0 same) 0 1 0x100_0000 0x3_0000 8).1.toOption.isSome = true ∧
    (readSys (ringed 0 0 same) 0 1 0x100_0000 0x5_0000 8).1.toOption.isNone = true ∧
    (writeAs (ringed 0 0 same) 0 1 0x100_0000 0x3_0000 [1, 2] (0, 0, 0)).1.toOption.isSome = true ∧
    (0x3_0000 + 8 ≤ 2 ^ 40) ∧ ((ringed 0 0 same).part 0).hstat.toNat.testBit 0 = false := by decide +kernel
/-- HostAccessesComplete: an access with lines on their way, with stores on their way and with none left; one that makes no store and
one that makes one; one that asks for a line. -/
def barring (x : Stage) : State := { ringed 0 0 same with stages := [x] }
def bar0 : Stage := { owner := .host 0 0x3_0000 8 none }
theorem witness_bar_stages :
    ((barring { bar0 with asked := [(0x300_0000, false, 8)] }).stage bar0.owner).map (fun x => (x.writing, x.asked.length)) = some (false, 1) ∧
    ((barring { bar0 with writing := true, left := 1 }).stage bar0.owner).map (fun x => (x.writing, x.left)) = some (true, 1) ∧
    (let o : Owner := .host 0 0x3_0000 2 (some [1, 2])
     let try_ := fun (s : State) => ({ s with blocked := false, net := some (o, .host), wants := [], puts := [] } : State).barMove 0 0x3_0000 2
       (some [1, 2])
     let t := try_ (ringed 0 0 same)
     (ringed 0 0 same).stage o = none ∧ t.2.blocked = true ∧ t.2.wants.length = 1) := by decide +kernel
theorem witness_bar_sends :
    (({ ringed 0 0 same with net := none } : State).sendPuts (.host 0 0x3_0000 2 none) .host []).1 = 0 ∧
    (({ ringed 0 0 same with net := none } : State).sendPuts (.host 0 0x3_0000 2 none) .host
      [{ part := 0, ph := { pa := 0x300_0000 }, va := 0x3_0000, data := [1, 2], launch := none, who := none }]).1 = 1 := by decide +kernel
theorem witness_queues : (∃ s1, (ringed 0 0 same).queueBusy 0 0 = (true, s1)) ∧ (∃ s1, (ringed 0 0 same).queueBusy 0 1 = (false, s1)) ∧
    (ringed 0 0 same).hasQueue 0 0 = true ∧ (ringed 0 0 same).hasQueue 0 1 = false :=
  ⟨⟨_, Prod.ext (by decide +kernel) rfl⟩, ⟨_, Prod.ext (by decide +kernel) rfl⟩, by decide, by decide⟩
theorem witness_responses :
    ({ demo [] with kind2s := [(9, { part := 0, launch := 2, wg := 1, tids := [0], seqno := 4 })] } : State).kind2s.find?
      (fun e => e.2.part == 0 && e.2.seqno == (4 : Nat) % 2 ^ 32) = some (9, { part := 0, launch := 2, wg := 1, tids := [0], seqno := 4 }) ∧
    (saved0.findWg 0 5 0).map (fun x => (x.1, x.2.resid, decide (2 ≤ x.2.saveFor))) = some (1, .saved, true) ∧
    (5 * 2 ^ 12 + 3) % 16 = 3 ∧ (5 * 2 ^ 12 + 3) / 2 ^ 12 % 2 ^ 24 = 5 ∧ (5 * 2 ^ 12 + 3) / 2 ^ 10 % 4 = 0 ∧
    (ofN 1 : Word).toNat.testBit 0 = true := by decide

/-- FaultQueueDelivers: a ring with room and one without; entries that wait, that are held, and that do not fit. -/
def post0 (k : Nat) : Post := { kind := k, cause := 0x40 }
def queueing (ctl : Word) (posts : List Post) (held : Nat) : State := demoP [] (fun q => { q with
  regs := [(0x1008, ctl)], posts := posts, held := List.replicate held (post0 3) })
theorem witness_fault_queue :
    (queueing 0x104 [post0 3] 0).ringRoom 0 = true ∧ (queueing 0x4 [post0 3] 0).ringRoom 0 = false ∧
    ((queueing 0x4 [post0 3] 255).part 0).held.length < 256 ∧ 256 ≤ ((queueing 0x4 [post0 3] 256).part 0).held.length ∧
    ((queueing 0x104 [post0 3] 0).part 0).posts = [post0 3] ∧ ((queueing 0x104 [] 0).part 0).posts = [] ∧ (post0 3).rc = none ∧
    ((queueing 0x104 [] 1).part 0).held = [post0 3] := by decide

/-- ModuleEventsComplete: the clock at its ends; the module with nothing running. -/
theorem witness_module : (demo []).fatal = none ∧ ({ demo [] with fatal := some 0 } : State).fatal ≠ none ∧
    ({ demo [] with clock := 32 } : State).clock = 32 ∧ (demo []).clock = 64 ∧ (2400 : Nat) < 2401 ∧ (2299 : Nat) < 2300 ∧
    ((demo []).parts.map (·.1)).Nodup ∧ ((demo []).cores.map (·.1)).Nodup ∧ (1 : Nat) ≠ (demo []).activeBank ∧
    ((demo []).part 1).vf = false ∧
    (({ State.reset with parts := [(0, { vf := true })] } : State).part 0).vf = true ∧ State.reset.wgs = [] := by decide

/-- PartitionsComplete: a composition within the limits, with its image inside its channel group; one that is not. -/
def newPart (hives slices groups : List Nat) : Partition :=
  { hives := hives, slices := slices, groups := groups, shadow := 65536, combbk := 65536, home := homeTable slices, rootPt := 0x100_0000
    rootAsid := 1, rootRcb := 0x3_8000, vf := true }
theorem witness_partition :
    (State.reset.part 0).vf = false ∧ State.reset.composes 0 (newPart [0] [0] [0]) = true ∧
    State.reset.composes 0 (newPart [0, 0] [0] [0]) = false ∧ [0, 3].Pairwise (· < ·) ∧
    (demo []).composes 0 (newPart [1] [0] [0]) = true ∧
    (demo []).draining 0 [0] = true ∧ ({ demo [] with wgs := [] } : State).draining 0 [0] = false ∧
    ({ demo [] with wgs := [] } : State).underWay 0 = false ∧ ({ demo [] with wgs := [] } : State).membersOf [0] = [] := by decide +kernel

/-- A block that the mailbox has read and answers now: the operation and its parameters. -/
def mailed (ds : List Nat) : State := demoP [] (fun q => { q with mbstat := 1, mbox := ds ++ List.replicate (32 - ds.length) 0 })
/-- MailboxAndPorts: a block for each operation with good parameters, and with bad ones; a mailbox that is busy, and one that is not. -/
theorem witness_mailbox : (∀ ds ∈ [[1, 0x3_0000, 4, 0x3_0000], [1, 0x3_0001], [2, 0], [3, 0x3_0000, 0x3_0000, 0x404, 0, 0x3_0000], [4, 0, 1],
      [5, 0], [6, 0x3_0000, 64, 7], [6, 0x3_0000, 0, 7], [7, 0]],
    let b : Block := ((mailed ds).part 0).mbox
    ((mailed ds).part 0).vf = true ∧ ((mailed ds).part 0).mbstat.toNat.testBit 0 = true ∧ b.d 0 < 2 ^ 8 ∧ b.d 0 = ds.getD 0 0 ∧
      b.d 1 = ds.getD 1 0 ∧ ∀ i < 24, b.d (8 + i) = 0) ∧ ((demo []).part 0).mbstat.toNat.testBit 0 = false := by decide
theorem witness_numbers : (∀ n < 3, thas [(1, ({ base := 0, log := 4, vec := 0, sync := 0 } : Cq))] n = decide (n = 1)) ∧
    (∃ n, ((demo []).freeNumber ([] : Tab Cq) 16384).1 = some n) := by
  refine ⟨by decide, ?_⟩
  cases h : ((demo []).freeNumber ([] : Tab Cq) 16384).1 with
  | some n => exact ⟨n, rfl⟩
  | none => simp [State.freeNumber, thas, tget] at h

/-- A queue pair that can send and receive, and its rings at virtual 0x39000; a region that covers 64 bytes. -/
def qp0 : Qp := { st := 3, sbase := 0x3_9000, rbase := 0x3_9000, slog := 4, rlog := 4, scq := 0, rcq := 0, sync := 0, stail := 1, rtail := 1 }
def paired (wr : Nat) : State := ringed wr 0 (fun q => { q with
  qps := [(0, qp0)], cqs := [(0, { base := 0x3_0000, log := 4, vec := 0, sync := 0 })], mrs := [(0, { base := 0x3_0000, len := 64, acc := 7 })] })
theorem witness_ports : qp0.st = 3 ∧ qp0.shead ≠ qp0.stail ∧ qp0.rhead ≠ qp0.rtail ∧
    ((paired 0).workRequest 0 qp0.sbase qp0.slog 0).1.isSome = true ∧
    ((paired 0).part 0).covers 0 0x3_0000 64 (some 2) = true ∧ ((paired 0).part 0).covers 0 0x3_0000 65 (some 2) = false ∧
    (writeAs (paired 0) 0 1 0x100_0000 0x3_0000 [1] (0, 16, 0)).1.toOption.isSome = true := by decide +kernel
theorem witness_requests :
    (let s := paired (2 ^ 256 + 0x3_0000 * 2 ^ 320)
     let w := 2 ^ 256 + 0x3_0000 * 2 ^ 320
     (s.workRequest 0 qp0.sbase qp0.slog qp0.shead).1 = some w ∧ ((s.trySend 0 w 0 []).map (fun r => (r.1, r.2.1, r.2.2.blocked)) = some (0, 1, false)) ∧
     (let r := s.landSend 0 w [1]
      (r.1, r.2.blocked) = (0, false))) ∧
    ((ringed 0 0 same).workRequest 0 0x5_0000 4 0).1 = none := by decide +kernel
/-- Remote requests: the next number and another; an atomic that goes through; timers that run and that are over. -/
def remote0 : Remote := { part := 0, node := 1, rpart := 0, hive := 0, n := 0, regs := [], op := 7, deadline := 5 }
theorem witness_remotes : ((demo []).peerWin 0 1 0).expect = 0 ∧
    ((ringed 0 0 same).readNet (.inbound 0 [2, 1, 0, 0]) (.port 1) (fun s => s.remotePlace 0 0x3_0000 4)).1.toOption.isSome = false ∧
    (let owner : Owner := .inbound 0 [2, 1, 0, 0]
     let line : Seen := { pa := 0x300_0000, host := false, fault := 0, data := [1, 0, 0, 0] }
     ((barring { owner := owner, writing := true, left := 0, seen := [line] }).stage owner).map (fun x => (x.left, x.out, x.seen)) =
       some (0, none, [line])) ∧
    (0x3_0001 : Nat) % ((Ty.ofCode 6).width / 8) ≠ 0 ∧
    ({ (demo []).peerWin 0 1 0 with ran := [(3, 0, [7])] } : PeerWin).ran.find? (fun e => e.1 == 3) = some (3, 0, [7]) ∧
    ({ demo [] with remotes := [(9, remote0)] } : State).remotes.find? (fun r => r.2.part == 0 && r.2.node == 1 && r.2.rpart == 0 && r.2.seq == 0) =
      some (9, remote0) ∧ (demo []).now < remote0.deadline ∧ remote0.deadline ≤ ({ demo [] with now := 5 } : State).now ∧ remote0.sends < 5 ∧
    5 ≤ ({ remote0 with sends := 5 } : Remote).sends := by decide +kernel

/-! ## Frames and exceptions -/

/-- RegisterInstructionsFrame: an instruction of each half of its range with a bundle, whose step is a next state. -/
theorem witness_frame : ∀ i ∈ [Instr.add c0 (o3 .s32 0), .shfl c0 (o3 .b32 0)],
    aloneB (demo [1, 2]) i c0 u0 0 = true ∧ i.parts.map (fun p => decide (p.opc < 0x095 ∨ (0x100 ≤ p.opc ∧ p.opc ≤ 0x104))) = some true ∧
    (after (Machine.exec i (demo [1, 2]))).isSome = true := by decide
/-- WritesChangeTheirBytesOnly and MemoryCanonicalKept: a machine whose memories are in their form, and a step of it. -/
theorem witness_memory : memOk (tabled [1]) = true ∧ memOk (described fill0 0 1) = true ∧
    (tget (demo []).wgs 1).map (fun g => Memory.wf g.scratch) = some true ∧
    (after (step (State.reset.withFetchWord 96 nopWord))).isSome = true ∧ memOk (State.reset.withFetchWord 96 nopWord) = true := by
  decide +kernel

/-- A machine whose records lie at a page that is mapped, in a mode, with entries that wait for the fault queue. -/
def faulting (mode posts : Nat) (fs : List Frame) : State :=
  let s := ({ tabled [] with mem := tables } : State).modLaunch 2 (fun l => { l with eff := { l.eff with savebase := 0x3_0000, fmode := mode } })
  (s.modPart 0 (fun q => { q with posts := List.replicate posts (post0 2) })).modThread 1 0 (fun th => { th with frames := fs })
/-- TakingAnException and FaultRecordsHoldTheFault: room and none; a free record and none; modes 0 and 1; a handler frame
and none. -/
def cx0 : FaultCtx := { w := 1, tids := [0], code := 0x70, spc := 0, epc := 0, faddr := 0, tval := 0 }
theorem witness_exception :
    (faulting 0 0 [base0]).mustWait 1 0 = false ∧ (demo []).mustWait 1 0 = false ∧
    (newRecord (faulting 0 0 [base0]) cx0).1.isSome = true ∧ (newRecord (demo []) cx0).1 = none ∧
    ((faulting 1 0 [called, base0]).unwind 1 0 7).isSome = true ∧ ((faulting 1 0 [base0]).unwind 1 0 7) = none ∧
    ((faulting 0 0 [base0]).launchOf 1).map (·.mode) = some 0 ∧ ((faulting 1 0 [base0]).launchOf 1).map (·.mode) = some 1 ∧
    (faulting 1 256 [base0]).mustWait 1 0 = true := by decide +kernel
/-- TakingAnException: a fault whose record's page waits for the host, and one whose page does not. -/
theorem witness_exception_waits :
    ({ faulting 0 0 [base0] with mem := entry 0x104_0018 (2 ^ 52 + 0x5000_0000 + 0x89F) tables } : State).mustWait 1 0 = false ∧
    (({ faulting 0 0 [base0] with mem := entry 0x104_0018 (2 ^ 52 + 0x5000_0000 + 0x89F) tables } : State).recordFault cx0).blocked = true ∧
    ((faulting 0 0 [base0]).recordFault cx0).blocked = false := by decide +kernel
/-- R418: FQTAIL, FQSTAT and HSTAT as a read shows them, a stored register, and an offset that is not listed. -/
theorem test_readRegister :
    let s := (demo []).modPart 0 (fun q => { q with fqtail := 5, ovf := true, lost := 3, hstat := 2, regs := [(0x1000, 0x7000)] })
    [0x1018, 0x1020, 0x1048, 0x1000, 0x1028].map (s.readRegister 0) = [5, 0x30001, 2, 0x7000, 0] := by decide

/-- A record with an answer, and thread 0 parked on it. -/
def record0 (eng answer : Option Nat) : Record :=
  { part := 0, launch := 2, wg := 1, r := 0, savebase := 0x3_0000, va := 0x3_0000, pa := 0x300_0000, tids := [0], eng := eng, answer := answer }
def recorded (r : Record) : State := { demoT [] (fun th => { th with st := .parked (.record 9), frames := [called, base0] }) with records := [(9, r)] }
/-- ReturnFromException: records that wait, are answered with each action, and are gone. -/
theorem witness_release : tget (recorded (record0 none none)).records 9 = some (record0 none none) ∧ tget (demo []).records 9 = none ∧
    (∀ k < 4, bits (k * 2 ^ 416) 423 416 = k) ∧ (record0 none (some 0)).escalated = false ∧
    (recorded (record0 none (some 0))).stillParked 1 [0] (.record 9) = [0] ∧ ((recorded (record0 none none)).wg 1).isSome = true ∧
    (((recorded (record0 none none)).wakeAcquire 1).unwindAll 1 0x70 7 [0]).1 = [] ∧ memOk (recorded (record0 none none)) = true := by
  decide +kernel

/-- ChecksPrecedeTheEffect: a guard predicate that awaits its write, and one that does not. -/
theorem witness_guard_busy :
    ({ pending with ops := pending.ops.map (fun e => (e.1, { e.2 with dst := [.p 3 [0]] })) } : State).guardBusy 1 0 { c0 with gaI := 3 } = true ∧
    pending.guardBusy 1 0 { c0 with gaI := 3 } = false := by decide
/-- ChecksPrecedeTheEffect: a deferred fault; a spilled top; a false guard; and each check that turns an instruction away. -/
def deferred0 : State := demoT [] (fun th => { th with faults := [{ op := 7, code := 0x22, spc := 0, addr := 0 }] })
def spilled0 : State := demoT [] (fun th => { th with frames := [{ base0 with spilled := true }] })
theorem witness_prechecks :
    (deferred0.thread 1 0).map (fun th => (th.faults.isEmpty, th.hold)) = some (false, none) ∧
    (spilled0.thread 1 0).map (·.topSpilled) = some true ∧ ((demo []).thread 1 0).map (fun th => (th.topSpilled, th.guard c0)) = some (false, true) ∧
    ((demo []).thread 1 0).map (fun th => th.guard { c0 with gaN := true }) = some false ∧
    (∀ th, (demo []).thread 1 0 = some th →
      precheck ((demo []).modLaunch 2 (fun l => { l with priv := false })) 1 0 th (.wrsr c0 (oi .b64 0x22 0)) = some (some 0x05) ∧
      precheck (demo []) 1 0 th (.add c0 { o3 .s32 0 with a := .v 200 }) = some (some 0x70) ∧
      precheck pending 1 0 th (.add c0 { o3 .s32 0 with a := .v 20 }) = some none) := by
  refine ⟨by decide, by decide, by decide, by decide, ?_⟩
  rintro th h
  cases h
  decide

/-! ## Steps -/

/-- StepRunsDecodedInstruction, FetchReadsTheCode: a turn that picks a thread, whose word is fetched and decodes; one that
does not decode; a gathered set; code that is not there; no thread to pick. -/
def turning (w : Nat) : State := State.reset.withFetchWord 96 w
def gathering0 : State := turning 0x40C5EF0000C000001FFFFE32
def turn0 (s : State) : State := ({ s with agenda := [] } : State).ranked 0
def picked0 (s : State) : Option (Nat × Nat × List Nat) := ((turn0 s).pick 0 0).map (fun x => (x.wg, x.pc, x.tids))
def fetched0 (s : State) : Except (Nat × Nat) Nat :=
  match (turn0 s).pick 0 0 with
  | some x => (fetchWord ((turn0 s).picked 0 0 x) x.wg x.tids x.pc).1
  | none => .error (0, 0)
theorem witness_step : (turning nopWord).agenda = [.issue 0 0] ∧ (turning nopWord).power = true ∧ (turning nopWord).fatal = none ∧
    (turning nopWord).running ≠ none ∧ picked0 (turning nopWord) = some (1, 0, [0]) ∧ (fetched0 (turning nopWord)).toOption = some nopWord ∧
    (decodeWord nopWord).toOption.map crossMask = some none ∧ (fetched0 (turning 0)).toOption = some 0 ∧ decodeWord 0 = .error 0x04 ∧
    picked0 State.reset = none ∧ picked0 gathering0 = some (1, 0, [0]) ∧
    (fetched0 ((turning nopWord).modLaunch 1 (fun l => { l with kcode := 2 ^ 57 }))).toOption = none := by decide +kernel
theorem witness_fetch :
    ((turning nopWord).xlate 0 1 [0] 0 1 ldRoot 0x2_0000 .fetch false false).1 = .ok { pa := 0x200_0000 } ∧
    (0x2_0000 : Nat) % 65536 + 12 ≤ 65536 ∧ (turning nopWord).wlog = [] ∧ (turning nopWord).poisonedIn 0x200_0000 12 = none := by decide +kernel
/-- StepGates: each turn, with power and without. -/
theorem witness_gates : State.reset.agenda = [] ∧ ({ State.reset with agenda := [.act .moduleReset], power := false } : State).power = false ∧
    Instr.moduleReset.isEvent = true ∧ State.reset.allows .moduleReset = true ∧ (Instr.nop c0 (o3 .b64 0)).isEvent = false ∧
    ({ State.reset with fatal := some 0 } : State).allows (.flrVf 0) = false ∧
    ({ State.reset with agenda := [.copy 0 0] } : State).agenda = [.copy 0 0] ∧
    ({ State.reset with agenda := [.upset (.slice 64)] } : State).agenda = [.upset (.slice 64)] := by decide
/-- ModuleEventsComplete: a partition whose function is reset with a workgroup and a launch standing, and the step does not block. -/
theorem witness_reset : ((demo []).part 0).vf = true ∧ (after (Machine.exec (.flrVf 0) (demo []))).map (fun s => s.blocked) = some false := by
  decide +kernel

/-! ## Decoding: words laid out field by field (R233, R238 to R243, R245 to R254) -/

/-- OPC and FN with both guards pt, over an operand area. -/
def word (opc fn area : Nat) : Nat := opc * 2 ^ 86 + fn * 2 ^ 82 + 15 * 2 ^ 77 + 15 * 2 ^ 72 + area
/-- Operand areas of the six formats. -/
def aF3 (d a b c e pd rm ty sub : Nat) : Nat := d * 2 ^ 54 + a * 2 ^ 45 + b * 2 ^ 36 + c * 2 ^ 27 + e * 2 ^ 18 + pd * 2 ^ 14 + rm * 2 ^ 12 + ty * 2 ^ 8 + sub
def aFI (d a imm pd rm ty sub : Nat) : Nat := d * 2 ^ 54 + a * 2 ^ 45 + imm * 2 ^ 13 + pd * 2 ^ 9 + rm * 2 ^ 7 + ty * 2 ^ 3 + sub
def aFM (data base index off path scope ty sub : Nat) : Nat :=
  data * 2 ^ 54 + base * 2 ^ 45 + index * 2 ^ 36 + off * 2 ^ 12 + path * 2 ^ 10 + scope * 2 ^ 7 + ty * 2 ^ 3 + sub
def aFB (argb tgt off dem argc flg : Nat) : Nat := argb * 2 ^ 54 + tgt * 2 ^ 45 + off * 2 ^ 21 + dem * 2 ^ 13 + argc * 2 ^ 5 + flg
def aFX (d a b num mt cb pd xsub : Nat) : Nat := d * 2 ^ 54 + a * 2 ^ 45 + b * 2 ^ 36 + num * 2 ^ 24 + mt * 2 ^ 21 + cb * 2 ^ 18 + pd * 2 ^ 14 + xsub

theorem test_decode_integer :
    decodeWord (word 0x000 0 (aF3 3 0 1 0xF0 0xF0 15 0 6 0)) = .ok (.add c0 { o3 .s32 0 with b := .v 1, c := .vz, pd := 15 }) ∧
    decodeWord (word 0x002 1 (aFI 3 0 0xFFFFFFFE 15 0 6 0)) = .ok (.mulImm c0 { oi .s32 0xFFFFFFFE 0 with pd := 15 }) ∧
    decodeWord (word 0x019 0 (aF3 0xF0 0 1 0xF0 0xF0 1 0 6 2)) = .ok (.cmp c0 { o3 .s32 2 with d := .vz, c := .vz }) := by decide
theorem test_decode_float :
    decodeWord (word 0x083 0 (aF3 3 0 1 2 0xF0 15 0 14 0)) = .ok (.ffma c0 { o3 .f32 0 with pd := 15 }) ∧
    decodeWord (word 0x08D 0 (aF3 3 0 0xF0 0xF0 0xF0 15 0 0 0)) = .ok (.rcp c0 0 { o3 .b8 0 with b := .vz, c := .vz, pd := 15 }) := by decide
theorem test_decode_lanes : decodeWord (word 0x105 0 (aF3 3 0 1 0xF0 0xF0 15 0 14 0)) ≠ .error 0x01 ∧
    decodeWord (word 0x106 0 0) = .error 0x01 ∧
    decodeWord (word 0x103 1 (aFI 3 0 0xFFFF 15 0 6 2)) = .ok (.redTeamImm c0 { oi .s32 0xFFFF 2 with pd := 15 }) := by decide
theorem test_decode_memory :
    decodeWord (word 0x140 0 (aFM 3 0 1 0xFFFFF8 0 0 6 0)) = .ok (.ld c0 (om .s32 0xFFFFF8 0)) ∧
    decodeWord (word 0x140 0 (aFM 3 0 1 8 2 0 6 0)) = .ok (.ldC c0 { om .s32 8 0 with path := 2 }) ∧
    decodeWord (word 0x144 1 (aFM 3 0 1 8 0 0 6 1)) = .ok (.atom c0 1 (om .s32 8 1)) ∧
    decodeWord (word 0x141 0 (aFM 3 0 1 8 1 0 6 0)) = .error 0x03 := by decide
theorem test_decode_engines :
    decodeWord (word 0x1C2 0 (aF3 3 0 1 2 0xF0 1 0 0 0)) = .ok (.aggRange c0 (o3 .b8 0)) ∧
    decodeWord (word 0x1E7 0 (aFX 3 0xF0 0xF0 9 0 0 15 0)) = .ok (.combQ c0 { ox with a := .vz, b := .vz, num := 9, pd := 15 }) ∧
    decodeWord (word 0x204 0 (aFX 0xF0 0 0xF0 0x801 0 2 15 0)) = .ok (.cpFill c0 { ox with d := .vz, b := .vz, num := 0x801, cb := 2, pd := 15 }) ∧
    decodeWord (word 0x246 0 (aFX 0xF0 0 0xF0 0 0 0 15 0)) = .ok (.mma c0 { ox with d := .vz, b := .vz, pd := 15 }) := by decide
theorem test_decode_control :
    decodeWord (word 0x280 0 (aFB 0xF0 0xF0 0xFFFFFD 0 0 0)) = .ok (.bra c0 { ob 0xFFFFFD 0 0 with argb := .vz, tgt := .vz }) ∧
    decodeWord (word 0x2C0 0 (aFI 0xF0 0 1 15 0 0 0)) = .ok (.barInit c0 { oi .b8 1 0 with d := .vz, pd := 15 }) ∧
    decodeWord (word 0x2E0 0 (aFI 0xF0 0xF0 3 15 0 0 0)) = .ok (.trap c0 { oi .b8 3 0 with d := .vz, a := .vz, pd := 15 }) ∧
    decodeWord (word 0x28E 0 0) = .error 0x01 ∧ decodeWord 0 = .error 0x04 := by decide

/-- A term for each check of a word, which the check refuses: a type outside the entry, a bit that is not unused, an operand
of the wrong kind, a path outside the entry (R236, R237, R255). -/
theorem test_wellformed_refuses :
    wellFormed (.add c0 { o3 .s32 0 with c := .vz, pd := 15 }) = true ∧
    (Instr.add c0 { o3 .f32 0 with c := .vz, pd := 15 }).decodeFault = 0x03 ∧
    (Instr.add c0 (o3 .s32 0)).decodeFault = 0x04 ∧
    (Instr.add c0 { o3 .s32 0 with d := .imm 5, c := .vz, pd := 15 }).decodeFault = 0x02 ∧
    wellFormed (.ldC c0 (om .s32 8 0)) = false ∧ wellFormed (.ldC c0 { om .s32 8 0 with path := 2 }) = true := by decide

/-! ## Hypotheses that can be met: the cases at the edges -/

/-- AccessChecksAndTheirFaults: a window beyond the peer's allocation, a window onto a saved peer, and a constant segment that ends
beyond the global aperture. -/
theorem witness_windows :
    (check windowed 1 [0] 0xFF01_0000_0000_2000 4 4 .load Aper.ls false).1 = .fail 0x24 0xFF01_0000_0000_2000 ∧
    (check (({ windowed with wgs := windowed.wgs ++ [(3, { wg0 [] with resid := .saved })] } : State).modWg 1 (fun g => { g with
      windows := [(0, { peer := 3 })] })) 1 [0] 0xFF01_0000_0000_1FFC 4 4 .load Aper.ls false).1 = .wait ∧
    (check ((demo []).modLaunch 2 (fun l => { l with eff := { l.eff with cbase := 2 ^ 57 - 4 } })) 1 [0] 0xFF02_0000_0000_0004 4 4
      .load Aper.c true).1 = .fail 0x21 (2 ^ 57) := by decide

/-- A leaf in host memory whose right to write is missing, and core 0 with no TLB entry and a miss that awaits the host for it. -/
def hostLeaf : TlbEntry := { page 3 0x5000_0000 with host := true, w := false }
def awaiting : State := (demo []).modCore 0 (fun k => { k with tlb := [], misses := [(0, { miss0 with ats := some hostLeaf })] })
/-- TranslationAndPageWalks: a leaf that awaits the host refuses a store; a miss whose walker is free and whose turn it is, one whose
page is walked, and one of a core that is not next; a host page that the host has answered for; the one miss of a leaf; an access to a
host page that is under way. -/
theorem witness_host_leaf :
    ((awaiting.core 0).misses = [(0, { miss0 with ats := some hostLeaf })] ∧ hostLeaf.vpn = 0x30000 / 2 ^ hostLeaf.size ∧
      rights hostLeaf.usr hostLeaf.x hostLeaf.w hostLeaf.r hostLeaf.rop .store false true ≠ 0) ∧
    ((missing miss0).walksOn 0 < 32 ∧ (missing miss0).walkTurn 0 = true ∧
      (∀ x ∈ (missing miss0).dieMisses (dieOf 0) (fun _ => true), ∀ u, x.2.2.ats = some u → miss0.on x.2.2.root u = false)) ∧
    (({ missing miss0 with walkLast := [(0, 0)] } : State).modCore 1 (fun k => { k with misses := [(0, { miss0 with page := 0x70000 })] })).walkTurn 0 =
      false ∧
    ({ missing miss0 with ats := [{ part := 0, base := 0x5000_0000, size := 16, ha := 0x7000_0000 }] } : State).hostPage 0 0x5000_0000 16 =
      some 0x7000_0000 ∧
    ((missing miss0).sharers 0 miss0 leaf0 = [(0, 0, miss0)] ∧ miss0.asks.any (fun q => leaf0.allows q.acc q.ro q.user == 0) = true) ∧
    (flying { req0 with ph := { pa := 0x5000_0000, host := true } } pkt0 0).reqs.any
      (fun r => r.2.ph.host && r.2.part == 0 && overlaps r.2.ph.pa (max 1 r.2.n) 0x5000_0000 65536) = true := by
  refine ⟨by decide, ⟨by decide, by decide, ?_⟩, by decide, by decide, by decide, by decide⟩
  decide

/-- ScratchpadAccessesAndLoads, GlobalStoresAndAtomicsIssue: an ordered entry of the thread is still to be applied to the line, and
none is; the staging buffer of a core is full. -/
def behind0 : State := { demo [0x30000] with slices := [(0, { buffer := [ord0] })] }
theorem witness_entry_ahead :
    (∀ i ∈ [Instr.ld c0 (om .s32 0 0), .ldTl c0 (om .s32 0 0), .st c0 (om .s32 0 0), .atom c0 0 (om .s32 0 0)],
      aloneB behind0 i c0 u0 0 = true ∧
      (check (start behind0 i c0 u0) 1 [0] 0x30000 4 4 .atomic Aper.ls false).1 = .glob 0x30000 { pa := 0x300_0000, rop := true } ∧
      (check (start behind0 i c0 u0) 1 [0] 0x30000 4 4 .atomic Aper.ls false).2.entryAhead 1 0 { pa := 0x300_0000, rop := true } = true) ∧
    (demo [0x30000]).entryAhead 1 0 { pa := 0x300_0000 } = false ∧ (demo []).staged 0 = 0 ∧
    256 ≤ ({ demo [] with reqs := (List.range 256).map (fun k => (k, { req0 with tl := true, seq := k })) } : State).staged 0 := by
  decide +kernel

/-- A request that has left core 0, whose time is over when now is 16384. -/
def sent0 : Req := { req0 with firstIn := some 0, sends := 5 }
def pktIn : Pkt := { pkt0 with sent := 1, arrived := 1, firstIn := some 0 }
/-- AccessEventsComplete: a first flit and a later one; a reflection of a waggle and another packet that is lost; a request late with
its copy in the network and without; a walker's that lost flits; an HBM read that a waiting request keeps, and one that none waits
for; a request that has arrived. -/
theorem witness_late :
    (pkt0.sent = 0 ∧ pktIn.sent ≠ 0 ∧ tget (flying req0 pkt0 0).reqs pkt0.req = some req0 ∧ pkt0.waggle = none ∧
      ({ pkt0 with waggle := some 3 } : Pkt).waggle.isSome = true) ∧
    (tget (flying sent0 pktIn 16384).reqs 8 = some sent0 ∧ sent0.firstIn.isSome = true ∧ sent0.deadline ≤ 16384 ∧
      (flying sent0 pktIn 16384).copyWaits 8 = false ∧ (flying sent0 pkt0 16384).copyWaits 8 = true ∧ req0.firstIn = none ∧
      ({ sent0 with sends := 4 } : Req).sends < 5 ∧ sent0.shares = [] ∧ sent0.crc = false) ∧
    (let r : Req := { sent0 with src := .walker 0, crc := true }
     r.crc = true ∧ r.src = .walker 0 ∧ r.dead = false) ∧
    (let s : State := { flying { req0 with read := true } pktIn 0 with hbmReads := [0x300_0000] }
     (s.lineRead 0x300_0000).reqs.find? (fun e => e.2.read && e.2.keeps && lineOf e.2.ph.pa == 0x300_0000) =
       some (8, { req0 with read := true }) ∧ s.hbmReads.contains 0x300_0000 = true) ∧
    (demo []).reqs.find? (fun e => e.2.read && e.2.keeps && lineOf e.2.ph.pa == 0x300_0000) = none ∧
    ((flying req0 pktIn 0).pkts.any (fun k => k.2.req == 8 && !k.2.reply && k.2.arrivedAll)) = true ∧ req0.kind.onLine = true := by
  decide
/-- AccessEventsComplete: a reply of a load that may not fill its line; an earlier request to the line, at its home and at another;
sets of L2 lines with and without ways of Comb values; a copy of a cell before an access, and none. -/
theorem witness_fills :
    (let r : Req := { req0 with fill := some .ls, unsure := true, seq := 4 }
     r.kind = .load ∧ r.src = .core 0 ∧ r.unsure = true ∧ req0.seq < r.seq ∧ sameLine req0.ph r.ph = true ∧
       ({ req0 with dst := 1, fill := some .ls } : Req).dst ≠ r.dst) ∧
    (({ demo [] with l2 := [{ pa := 0x300_0000, slice := 0 }] } : State).l2.map (·.pa)).Nodup ∧ (demo []).combWays 0 0 = 0 ∧
    (demo []).copyBefore 7 { wg := 1, tid := 0, core := 0, cls := some .ld, pc := 0, kind := .mem (.load .s32), dst := [] } = false ∧
    ({ pending with ops := [(3, { wg := 1, tid := 0, core := 0, cls := some .cp, pc := 0, kind := .tile (.combRds 0 0 0) })] ++ pending.ops } : State).copyBefore 7
      { wg := 1, tid := 0, core := 0, cls := some .ld, pc := 0, kind := .mem (.load .s32), dst := [] } = true := by decide

/-- SliceServesRequests: a request in the cycle of its arrival; one behind its thread's agg.sync, and one that is not; a host request
with the link down, with 768 others with the host and with fewer. -/
def syncOp : Op := { wg := 1, tid := 0, core := 0, cls := some .ag, pc := 0, kind := .agg (.sync none), dst := [] }
def hostReq : Req := { req0 with ph := { pa := 0x5000_0000, host := true } }
theorem witness_arrival :
    (arrived req0 { pkt0 with arrivedAt := 1 }).now ≤ ({ pkt0 with arrivedAt := 1 } : Pkt).arrivedAt ∧
    (let s := arrived { req0 with kind := .store [1] } pkt0
     ({ s with ops := (3, syncOp) :: s.ops } : State).notYet { req0 with kind := .store [1] } = true ∧
       s.notYet { req0 with kind := .store [1] } = false) ∧
    ({ arrived hostReq pkt0 with link := false } : State).link = false ∧ (arrived hostReq pkt0).link = true ∧
    (arrived hostReq pkt0).linkFull = false ∧ hostReq.hostSt = 0 ∧
    ({ demo [] with reqs := (List.range 768).map (fun k => (k, { hostReq with hostSt := 1, seq := k })) } : State).linkFull = true ∧
    (demo []).reqs = [] ∧ (arrived req0 pkt0).blocked = false ∧ (arrived req0 pkt0).net = none := by decide +kernel

/-- BarriersAndTeamSync: an initialised barrier given another count with none, some and more arrivals in, and with a thread in its wait. -/
theorem witness_barrier_counts :
    tget (({ (barred 1 { exp := 2 }) with wgs := (barred 1 { exp := 2 }).wgs } : State).wg 1 |>.map (·.bars) |>.getD []) 1 = some { exp := 2 } ∧
    (1 ≤ ((barred 1 { exp := 2 }).src 1 0 (.v 0)).toNat ∧ ((barred 1 { exp := 2 }).src 1 0 (.v 0)).toNat ≤ 2 ∧
      ((barred 1 { exp := 2 }).src 1 0 (.v 0)).toNat ≠ ({ exp := 2 } : Barrier).exp) ∧
    (({ exp := 2, arr := 1 } : Barrier).arr ≤ 1 ∧ 1 < ({ exp := 2, arr := 2 } : Barrier).arr) ∧
    (∀ th ∈ (wg0 []).threads, ∀ n ∈ [th.st], (match n with
      | .parked (.barrier _ _ true) => false
      | _ => true) = true) ∧
    (({ thread0 [] with st := .parked (.barrier 1 0 true) } : Thread).st = .parked (.barrier 1 0 true)) := by decide

/-- AggregateInstructionsIssue, SynchronisationObjects: a page that the checks look up and that awaits the host. -/
def hostTables : Mem := entry 0x104_0018 (2 ^ 52 + 0x5000_0000 + 0x89F) tables
theorem witness_looks :
    (match ((ctx (.syncBind c0 (o3 .b64 0)) c0 u0 0).asks ({ tabled [] with mem := hostTables } : State) (fun s =>
        bindChecks s 1 0x30000 { pa := 0x300_0000 } 0x31000 64)).1 with
      | .error (0, _) => true
      | _ => false) = true ∧
    (match ((ctx (.aggDecl c0 (o3 .b64 0)) c0 u0 0).asks ({ declaring 3 65536 with mem := hostTables } : State) (fun s =>
        declChecks s 1 (0x3_1000 + 3 * 2 ^ 128 + 2 ^ 136))).1 with
      | .error (0, _) => true
      | _ => false) = true := by decide

/-- AggregateEventsComplete: operations whose stores are in and not; a query with its answer, sound and with a poisoned node. -/
theorem witness_answers :
    (tget (regioned region0 (.sync none)).ops 7).map (fun o => (regioned region0 (.sync none)).ownStoresIn o 7 none) = some true ∧
    (let s := regioned region0 (.pfx 0x7000 1)
     let t : State := { s with reqs := [(8, { req0 with op := some 3, kind := .store [1] })]
                               ops := (3, { wg := 1, tid := 0, core := 0, cls := some .st, pc := 0, kind := .mem .store }) :: s.ops }
     (tget t.ops 7).map (fun o => t.ownStoresIn o 7 none) = some false) ∧
    (∀ b ∈ [true, false], ({ ((regioned region0 (.pfx 0x7000 1)).ops.map (·.2)).headD { wg := 1, tid := 0, core := 0, cls := none, pc := 0, kind := .leave } with
      answer := some (5, true, b) } : Op).answer = some (5, true, b)) ∧
    region0.build.isSome = false ∧ ({ region0 with build := some 7 } : Region).build.isSome = true := by decide

/-- CombCellsAndDefinition: a cell with a reader; a source with a word in error and one without. -/
def reader0 : CombWait := { wg := 1, tid := 1, pc := 4, op := .combRd 0 0 0 }
theorem witness_readers :
    (let s := (combed [] .free shape0).modCell 0 0 (fun y => { y with readers := [reader0] })
     (s.cell 0 0).readers = [reader0] ∧ (s.define 0 0 1 shape0 7).isSome = true) ∧
    ((combed [] .free shape0).thread 1 1).isSome = true ∧
    (start (combed [] .free shape0) (.combDef c0 ox) c0 u0).defBad 1 shape0 (.combDef 0 0 0 []) = false ∧
    (start ((combed [] .free shape0).modWg 1 (fun g => { g with tiles := [(0, { bytes := [], bad := [0] })] })) (.combDef c0 ox) c0 u0).defBad 1 shape0
      (.combDef 0 0 0 []) = true ∧
    (start (combed [] .defined shape0) (.combRds c0 ox) c0 u0).rdsFails 1 0x1FFF 4 = true := by decide
/-- CombMembershipAndEvents: a copy with scratchpad accesses of its thread before it, and with none; values in error in a core's
storage and beyond. -/
theorem witness_copies :
    (∀ o, tget (heading (.combRds 0 0 0) .defined).ops 7 = some o → (heading (.combRds 0 0 0) .defined).scratchBefore 7 o = false) ∧
    (let s := heading (.combRds 0 0 0) .defined
     let t : State := { s with ops := (3, { wg := 1, tid := 0, core := 0, cls := some .ld, pc := 0, kind := .mem (.load .s32)
                                            pieces := [{ va := 0, n := 4, loc := .scratch 1 0 }] }) :: s.ops }
     (tget t.ops 7).map (fun o => t.scratchBefore 7 o) = some true) ∧
    (∀ pl ∈ [0, 1, 2, 3], let s := (heading (.combRds 0 0 0) .defined).modCell 0 0 (fun y => { y with bad := true, place := pl })
      (s.cell 0 0).bad = true ∧ (s.cell 0 0).place = pl ∧ (s.cell 0 0).pend = none) := by
  refine ⟨?_, by decide, by decide⟩
  rintro o h
  cases h
  decide

/-- EngineCommandsAndBitmaps: a command that waited for its bitmap and whose barrier takes its charge, or not any more. -/
theorem witness_charge :
    (start (described fill0 0 1) (.cpFill c0 ox) c0 u0).overCharged 1 (some 1) 16 = false ∧
    (start (described fill0 (2 ^ 47 - 16) 1) (.cpFill c0 ox) c0 u0).overCharged 1 (some 1) 16 = true := by decide

/-- TensorTransfers: a command whose guard is false and whose barrier is charged; a multicast unit with a faulted receiver, and a unit
that takes bytes in part. -/
theorem witness_guarded :
    (let s := (mapped { bitmap0 with st := 5, guard := some 2, barrier := some 1 }).modPart 0 (fun q => { q with guards := [(1, true), (2, false)] })
     let b := s.bitmap 1 0
     b.guard = some 2 ∧ b.barrier = some 1 ∧ tget (s.part 0).guards 2 = some false ∧ unitsCharge b.opk (leNat b.desc) 0 = 16) ∧
    firstFault [.ok ([], [.ok (.scratch 1 0)]), .error (0x24, 5)] = some (0x24, 5) ∧
    ({ bitmap0 with opk := 3 } : Bitmap).opk = 3 ∧ ({ bitmap0 with recv := [(none, 1), (some 0, 3)] } : Bitmap).recv.map (·.2) = [1, 3] := by decide

/-- TilesAndMatrices: a source word of m.ld in error, and none; a tile in error and one in none; an epilogue into a cell. -/
def epiCell : Nat := 2 ^ 24 + 2 ^ 32 + 8 * 2 ^ 160 + 8
theorem witness_tile_errors :
    (start (tiled 0 0 []) (.mLd c0 { ox with mt := 2 }) c0 u0).badChunk 1 [0] = none ∧
    (start ((tiled 0 0 []).modWg 1 (fun g => { g with badScratch := [0] })) (.mLd c0 { ox with mt := 2 }) c0 u0).badChunk 1 [0] = some 0 ∧
    ((tiled 0 0 []).wg 1).map (fun g => (g.tileBad 2, g.mq)) = some (false, []) ∧
    (((tiled 0 0 []).modWg 1 (fun g => { g with tiles := [(2, { bytes := [], bad := [0] })] })).wg 1).map (fun g => g.tileBad 2) = some true := by decide
theorem witness_epi_cell :
    epiCell.testBit 3 = true ∧ badEpi epiCell false = false ∧
    epiOut (start (tiled 0xFF00_0000_0000_0000 epiCell []) (.epi c0 ox) c0 u0) 1 epiCell = none ∧ shapeOk (epiShape epiCell) = true ∧
    shapeOk (epiShape (2 ^ 24 + 8)) = false ∧ (tiled 0 0 []).member 1 = none ∧
    (∀ st ∈ [CellState.free, .defined, .draining], (combed [] st shape0).member 1 = some 0 ∧ ((combed [] st shape0).cell 0 0).st = st) ∧
    (((combed [] .free shape0).define 0 0 1 (epiShape epiCell) 7).isSome = true ∧ full0.define 0 0 1 (epiShape epiCell) 7 = none) := by decide
/-- ArrayOrderAndMatrixEvents: a record with groups; an epilogue that is parked at its cell, and one whose push is on its way; a push
and a read at the slice of a ring. -/
theorem witness_matrix_waits :
    grouped ({ desc := 5, bytes := [] } : RsvRec).fmt = true ∧
    (let s := (headed (.epi epiCell [] [] 0 (some (0, 0)))).modCell 0 0 (fun y => { y with definers := [{ wg := 1, tid := 0, pc := 0, op := .mzero 0, id := some 7 }] })
     (s.cell 0 0).definers.any (fun x => x.id == some 7) = true) ∧
    (({ wg := 1, tid := 0, core := 0, cls := some .tl, pc := 0, kind := .tile (.epi epi0 [] [] 0 none), pieces := [{ va := 0, n := 4, loc := .hit [] }] } : Op).pieces ≠ []) ∧
    (let q : Req := { req0 with kind := .atomic (.ring 3 (some 5)), part := 0 }
     let s : State := { (arrived q pkt0) with reqs := [(8, q)] }
     s.pkts = [(9, { pkt0 with sent := 1, arrived := 1 })] ∧ tget s.reqs 8 = some q) ∧ (demo []).pkts = [] := by decide

/-- LaunchInstructionsAndRings: pages of an array that await the host. LaunchesAndWorkgroups: a decrement that is written, that finds
0, and that cannot write; a waggle that has reached its hive; a workgroup that comes back, and one whose entry is not posted yet. -/
theorem witness_asks :
    (match ((ctx (.dgGo c0 ox) c0 u0 0).asks (start ({ launching [0x3_A040, 1, 0] with mem := hostTables } : State) (.dgGo c0 ox) c0 u0)
        (fun s => arrayChecks s 1 0x3_A040 64)).1 with
      | some (0, _) => true
      | _ => false) = true := by decide +kernel
theorem witness_decrement :
    (∀ k ∈ [1, 2], (writeSys (ringed 0 0 same) 0 1 0x100_0000 (0x3_A02A + 64 * k) (leBytes 4 (k - 1))).1.toOption.isSome = true) ∧
    (sysPart (ringed 0 0 same) 0 1 0x100_0000 0x3_A02A .atomic).1.toOption.isSome = true ∧
    (match (writeSys ({ ringed 0 0 same with mem := entry 0x104_0018 (2 ^ 52 + 0x300_0000 + 0x1B) (treed 0 0) } : State) 0 1 0x100_0000 0x3_A06A
        (leBytes 4 0)).1 with
      | .error f => f != 0
      | .ok _ => false) = true := by decide +kernel
theorem witness_returns :
    ((demoP [] (fun q => { q with waggles := [{ n := 0, hive := 0, regs := [5], ltag := 5, slice := 0, id := 1, here := true }] })).part 0).waggles.find? (·.here) =
      some { n := 0, hive := 0, regs := [5], ltag := 5, slice := 0, id := 1, here := true } ∧
    (saved0.wg 1).map (fun g => (saved0.entriesDue 1 g, g.mq.all saved0.parkedEpi)) = some (false, true) ∧
    ((saved0.modPart 0 (fun q => { q with posts := [{ kind := 4, cause := 0, ltag := 5, wgidx := 0 }] })).wg 1).map (fun g =>
      (saved0.modPart 0 (fun q => { q with posts := [{ kind := 4, cause := 0, ltag := 5, wgidx := 0 }] })).entriesDue 1 g) = some true := by decide +kernel

/-- HostAccessesComplete, LaunchInstructionsAndRings: a function with a write of the host under way. ModuleEventsComplete: indices of
units; a link that goes down with a translation asked for and with a miss at the host. -/
theorem witness_link :
    ((barring { owner := .host 0 0x3_0000 2 (some [1, 2]) }).hostForwards 0 = true) ∧
    (unitCount .port ≤ 18 ∧ 17 < unitCount .port ∧ (0 : Nat) < unitCount .controller) ∧
    ((∀ w ts, (.turn none : Asker) ≠ .threads w ts) ∧ ({ demo [] with atsAsk := [{ asker := .turn none, part := 0, base := 0x5000_0000, size := 16, since := 0 }] }
      : State).atsAsk.length = 1) ∧
    (miss0.on miss0.root hostLeaf = true ∧ ({ miss0 with ats := some hostLeaf } : Miss).ats = some hostLeaf) ∧
    ((demoT [] (fun th => { th with st := .parked .hostPage })).thread 1 0).map (·.st) = some (.parked .hostPage) := by
  refine ⟨by decide, by decide, ⟨?_, by decide⟩, by decide, by decide⟩
  rintro w ts h
  cases h

/-- MailboxAndPorts: a peer's entry with ports and with none; a request of a peer that was handled before, sent again; a remote request
that is abandoned. -/
theorem witness_peers :
    (let s := demoP [] (fun q => { q with regs := [(0x1050, 0x3_0000)], rootPt := 0x100_0000, rootAsid := 1 })
     (({ s with mem := tables } : State).peer 0 0).1 = some 0 ∧
       (({ s with mem := memWrite tables 0x300_0018 [2] } : State).peer 0 0).1 = some (2 ^ 193)) ∧
    ((2 : Nat) ^ 193).testBit (192 + 1) = true ∧ (∀ i < 18, (0 : Nat).testBit (192 + i) = false) ∧
    ((8 : Nat).testBit 3 = true ∧ 8 % 8 = 0 ∧ (4 : Nat) % 8 = 4 ∧ (4 : Nat).testBit 2 = true ∧ (5 : Nat) % 4 = 1) ∧
    ({ demo [] with peers := [{ part := 0, node := 1, peer := 0, expect := 4, ran := [(3, 0, [7])] }] } : State).peerWin 0 1 0 =
      { part := 0, node := 1, peer := 0, expect := 4, ran := [(3, 0, [7])] } ∧
    ({ remote0 with dead := true } : Remote).dead = true ∧
    ((paired 0).workRequest 0 qp0.rbase qp0.rlog qp0.rhead).1.isSome = true := by decide +kernel

/-- ReturnFromException: threads without a handler are left, and the record that waits with them is escalated; ChecksPrecedeTheEffect:
a thread that has not begun its instruction. -/
theorem witness_left :
    (((recorded { record0 none (some (2 ^ 416)) with tids := [0, 1] }).wakeAcquire 1).unwindAll 1 0x70 7 [0, 1]).1 = [1] ∧
    ({ record0 none (some 0) with escalated := true } : Record).escalated = true ∧
    (tget (recorded (record0 none (some 0))).records 9).any (·.escalated) = false ∧ (thread0 []).begun = false := by decide +kernel

/-! ## Results: the worked examples of the spec -/

/-- The state after instruction i in thread 0, whose v0, v1, … hold rs. -/
def run (i : Instr) (rs : List Word) : Out := Machine.exec i (demo rs)

/-- R260: add.pk.sat.z8; R262: sad.z8; R268, R269: movi and movh. -/
theorem test_add_packed : reg (run (.add c0 (o3 .z8 3)) [0x01020304F0F0F0F0, 0x0101010120202020]) 3 = some 0x02030405FFFFFFFF := by decide
theorem test_add_wraps : reg (run (.add c0 (o3 .s32 0)) [0x7FFFFFFF, 1]) 3 = some 0xFFFFFFFF80000000 := by decide
theorem test_sad : reg (run (.sad c0 (o3 .z8 0)) [0x0A05, 0x0307, 100]) 3 = some 109 := by decide
theorem test_movh : reg (run (.movh c0 (oi .b8 0x1234 0)) [0x56789ABC]) 3 = some 0x0000123456789ABC := by decide
/-- R272: pack.sat.s8; R278: pext and pdep; R277: the identity of bmm8. -/
theorem test_pack : reg (run (.pack c0 (o3 .s8 1)) [0x00000190FF000012, 0]) 3 = some 0x00000000007F8012 := by decide
theorem test_pext : reg (run (.pext c0 (o3 .b32 0)) [0xABCD1234, 0x0000FF00]) 3 = some 0x12 := by decide
theorem test_pdep : reg (run (.pdep c0 (o3 .b32 0)) [0x12, 0xF0F0]) 3 = some 0x1020 := by decide
theorem test_bmm8 : reg (run (.bmm8 c0 (o3 .b64 0)) [0x123456789ABCDEF0, 0x8040201008040201]) 3 = some 0x123456789ABCDEF0 := by decide
/-- R285: conversions of −3.7, 3.0e9, 300 and 70,000.0. -/
theorem test_cvt :
    reg (run (.cvt c0 { o3 .f32 0x60 with rm := .rz }) [0xC06CCCCD]) 3 = some 0xFFFFFFFFFFFFFFFD ∧
    reg (run (.cvt c0 { o3 .f32 0x60 with rm := .rd }) [0xC06CCCCD]) 3 = some 0xFFFFFFFFFFFFFFFC ∧
    reg (run (.cvt c0 { o3 .f32 0x60 with rm := .rz }) [0x4F32D05E]) 3 = some 0x7FFFFFFF ∧
    reg (run (.cvt c0 (o3 .s32 0x80)) [300]) 3 = some 44 ∧ reg (run (.cvt c0 (o3 .s32 0x81)) [300]) 3 = some 255 := by decide
theorem test_cvt_overflow : reg (run (.cvt c0 (o3 .f32 0xC0)) [0x4788B800]) 3 = some 0x7C00 ∧
    reg (run (.cvt c0 (o3 .f32 0xC1)) [0x4788B800]) 3 = some 0x7BFF := by decide
/-- R297, R298: a group of two codes, and a code of 78 with its group word. -/
theorem test_quant : reg (run (.quant c0 { o3 .f32 0 with e := .v 4 }) [0x414B3333C0A00000, 0x414B3333]) 3 = some 0xFF4E ∧
    reg (run (.quant c0 { o3 .f32 0 with e := .v 4 }) [0x414B3333C0A00000, 0x414B3333]) 4 = some 0x2E67 := by decide
theorem test_dequant : (reg (run (.dequant c0 (o3 .f32 0)) [78, 0x00802E67]) 3).map (fun x => x.toNat % 2 ^ 32) = some 0xC0A00F00 := by decide
/-- R293: key 5 goes into the list 9, 5, 2, and key 2 does not. -/
theorem test_topk :
    let f : F3 := { o3 .f32 3 with d := .v 4 }
    let rs : List Word := [0x40A00000, 0xD, 0, 0, 0x411000000000000A, 0x40A000000000000B, 0x400000000000000C]
    reg (run (.topkIns c0 f) rs) 5 = some 0x40A000000000000B ∧ reg (run (.topkIns c0 f) rs) 6 = some 0x40A000000000000D ∧
    pred (run (.topkIns c0 f) rs) 1 = some true ∧ pred (run (.topkIns c0 f) (0x40000000 :: rs.drop 1)) 1 = some false := by decide

/-- R32, R34: the translation worked through in spec/02. -/
theorem test_walk :
    let e := fun (a v : Nat) (m : Mem) => memWrite m a (leBytes 8 v)
    let s : State := { demo [] with
      parts := [(3, { hives := [0], slices := [0], groups := List.range 16, home := List.replicate 256 0, vf := true })]
      mem := e 0x10_4048 0x3010_0012_3450_0037 (e 0x10_39E0 0x3000_0000_0010_4001 (e 0x10_28A8 0x3000_0000_0010_3001
        (e 0x10_1230 0x3000_0000_0010_2001 (e 0x10_0008 0x3000_0000_0010_1001 [])))) }
    (walk s 3 1 0x10_0000 0x0001_2345_6789_ABCD .load false true).1.toOption.map (fun t => (t.base, t.det, t.rop, t.x)) =
      some (0x12_3450_0000, true, false, false) := by decide
/-- R223: the group worked through in spec/09, as a zeroing mma leaves it. -/
theorem test_group : addA56 0 (groupTerm 0x0080_3800 0x0008_3000 (List.replicate 32 130) ((List.range 32).map (fun k => if k % 2 = 0 then 12 else 8))) =
    0x40_4000_0000_0000 := by decide
/-- R323: 10,000 elements make 3,334 units of 3, the last of one element. -/
theorem test_units : descUnits 0 (2 ^ 128 + 10000 * 2 ^ 256) = 3334 ∧ unitRange 0 (2 ^ 128 + 10000 * 2 ^ 256) 3333 = (9999, 10000) := by decide
/-- R67: the descriptor of an 8-leaf INT32 SUM region, which the checks accept as well formed. -/
theorem test_descriptor : badDescriptor (0x40_0000_0000 + 0x40_0001_0000 * 2 ^ 64 + 3 * 2 ^ 128) = false := by decide
/-- R354: trap 3 has the code 0xF3; R254: a wait whose counts are 63 goes on. -/
theorem test_trap : causeOf (run (.trap c0 (oi .b8 3 0)) []) = some 0xF3 := by decide
theorem test_wait_all : pcOf (run (.wait c0 (oi .b8 0xFFFFFFFF 0)) []) = some 1 := by decide
/-- R144: the empty digest begins a7 ff c6 f8; R400: the check value of CRC-32, of the digits 1 to 9. -/
theorem test_sha3 : (sha3 []).take 4 = [0xA7, 0xFF, 0xC6, 0xF8] := by decide +kernel
theorem test_crc32 : crc32 [0x31, 0x32, 0x33, 0x34, 0x35, 0x36, 0x37, 0x38, 0x39] = 0xCBF43926 := by decide +kernel
end Sys2Proof.Tests
end

section
/-!
PROOFS. The special cases of exact results (spec/09_numbers.md R212): the cases of the exact sum and product, and the sign
of what roundF gives.
-/

namespace Sys2Proof.Proofs

open Sys2Proof.Machine

/-! ## The sign of a pattern, of an exact product and of a rounded value -/

theorem fmt_width_sub_one (f : Fmt) : f.width - 1 = f.ew + f.fw := by
  simp only [Fmt.width]; omega

/-- The sign of a value that is no NaN is the top bit of its pattern (R209). -/
theorem decodeF_sign {f : Fmt} {x : Nat} (h : decodeF f x ≠ .nan) :
    (decodeF f x).sign = x.testBit (f.width - 1) := by
  have hbit : (x % 2 ^ f.width).testBit (f.ew + f.fw) = x.testBit (f.width - 1) := by
    have htop : f.ew + f.fw < f.width := by simp only [Fmt.width]; omega
    rw [fmt_width_sub_one, Nat.testBit_mod_two_pow]
    simp [htop]
  rw [← hbit]
  simp only [decodeF] at h ⊢
  split_ifs at h ⊢
  · rfl
  · exact absurd rfl h
  · rfl
  · rfl

/-- The sign of an exact product is the XOR of the signs, zeros and infinities included (R212). -/
theorem sign_mul {a b : FP} (h : a.mul b ≠ .nan) : (a.mul b).sign = xor a.sign b.sign := by
  cases a with
  | nan => exact absurd rfl h
  | inf s => cases b with
    | nan => exact absurd rfl h
    | inf t => simp [FP.mul, FP.sign]
    | fin t n g =>
      simp only [FP.mul] at h ⊢
      split_ifs at h ⊢
      · exact absurd rfl h
      · simp [FP.sign]
  | fin s m e => cases b with
    | nan => exact absurd rfl h
    | inf t =>
      simp only [FP.mul] at h ⊢
      split_ifs at h ⊢
      · exact absurd rfl h
      · simp [FP.sign]
    | fin t n g => simp [FP.mul, FP.sign]

theorem infBits_lt_signBit (f : Fmt) : f.infBits < f.signBit := by
  rw [Fmt.infBits, Fmt.signBit, pow_add]
  exact Nat.mul_lt_mul_of_pos_right (Nat.sub_lt (by positivity) one_pos) (by positivity)

theorem overBits_le_infBits (f : Fmt) (mode : RM) (neg : Bool) : overBits f mode neg ≤ f.infBits := by
  have hmax : f.maxBits ≤ f.infBits := Nat.sub_le _ _
  cases mode <;> cases neg <;> simp [overBits, hmax]

/-- The magnitude that roundQ returns is at most infinity's, with an overflow or without. -/
theorem limited_le_infBits (f : Fmt) (mode : RM) (neg : Bool) (b : Nat) :
    (if f.infBits ≤ b then overBits f mode neg else b) ≤ f.infBits := by
  split_ifs with hover
  · exact overBits_le_infBits f mode neg
  · exact (not_le.mp hover).le

@[simp] theorem roundQ_zero (f : Fmt) (mode : RM) (neg : Bool) (d : Nat) :
    roundQ f mode neg 0 d = if neg then f.signBit else 0 := rfl

/-- A rounded quotient is the sign bit and a magnitude of at most infinity's: no overflow carries into the sign (R211). -/
theorem roundQ_eq_sign_add (f : Fmt) (mode : RM) (neg : Bool) (n d : Nat) :
    ∃ k ≤ f.infBits, roundQ f mode neg n d = (if neg then f.signBit else 0) + k := by
  by_cases hn : n = 0
  · exact ⟨0, Nat.zero_le _, by simp [hn]⟩
  · simp only [roundQ, if_neg hn]
    exact ⟨_, limited_le_infBits f mode neg _, rfl⟩

/-- Rounding a value that is no NaN gives its sign and a magnitude of at most infinity's. -/
theorem roundF_eq_sign_add (f : Fmt) (mode : RM) {v : FP} (h : v ≠ .nan) :
    ∃ k ≤ f.infBits, roundF f mode v = (if v.sign then f.signBit else 0) + k := by
  cases v with
  | nan => exact absurd rfl h
  | inf s => exact ⟨f.infBits, le_rfl, rfl⟩
  | fin s m e =>
    rcases le_or_gt 0 e with he | he
    · simp only [roundF, if_pos he]
      exact roundQ_eq_sign_add f mode s (m * 2 ^ e.toNat) 1
    · simp only [roundF, if_neg he.not_ge]
      exact roundQ_eq_sign_add f mode s m (2 ^ (-e).toNat)

/-- Rounding keeps the sign: the top bit of the result is the sign of the exact value. -/
theorem testBit_roundF (f : Fmt) (mode : RM) {v : FP} (h : v ≠ .nan) :
    (roundF f mode v).testBit (f.width - 1) = v.sign := by
  obtain ⟨k, hk, hround⟩ := roundF_eq_sign_add f mode h
  have hlt : k < 2 ^ (f.ew + f.fw) := hk.trans_lt (infBits_lt_signBit f)
  rw [hround, fmt_width_sub_one]
  cases v.sign
  · simpa using Nat.testBit_lt_two_pow hlt
  · simp [Fmt.signBit, Nat.testBit_two_pow_add_eq, Nat.testBit_lt_two_pow hlt]

/-! ## Rounding NaNs and zeros -/

@[simp] theorem roundF_nan (f : Fmt) (mode : RM) : roundF f mode .nan = f.nanBits := rfl

/-- A zero rounds to the zero of its sign, whatever its exponent. -/
@[simp] theorem roundF_zero (f : Fmt) (mode : RM) (s : Bool) (e : Int) :
    roundF f mode (.fin s 0 e) = if s then f.signBit else 0 := by
  simp [roundF]

/-! ## Special cases of the exact sum and product (R212) -/

@[simp] theorem nan_add (mode : RM) (b : FP) : FP.add mode .nan b = .nan := by
  cases b <;> rfl

@[simp] theorem inf_add_inf_not (mode : RM) (s : Bool) : (FP.inf s).add mode (.inf (!s)) = .nan := by
  simp [FP.add]

theorem scaleTo_not (e₀ : Int) (s : Bool) (m : Nat) (e : Int) : scaleTo e₀ (!s) m e = -scaleTo e₀ s m e := by
  cases s <;> simp [scaleTo]

@[simp] theorem fin_add_neg (mode : RM) (s : Bool) (m : Nat) (e : Int) :
    (FP.fin s m e).add mode (.fin (!s) m e) = .fin (mode == .rd) 0 e := by
  simp [FP.add, scaleTo_not]

@[simp] theorem zero_add_zero_same_sign (mode : RM) (s : Bool) (e g : Int) :
    (FP.fin s 0 e).add mode (.fin s 0 g) = .fin s 0 (min e g) := by
  simp [FP.add, scaleTo]

@[simp] theorem zero_mul_inf (s r : Bool) (e : Int) : (FP.fin s 0 e).mul (.inf r) = .nan := rfl

@[simp] theorem inf_mul_zero (s r : Bool) (e : Int) : (FP.inf r).mul (.fin s 0 e) = .nan := rfl

theorem inf_mul_fin_of_pos (s r : Bool) {m : Nat} (e : Int) (h : 0 < m) :
    (FP.inf s).mul (.fin r m e) = .inf (xor s r) := by
  simp [FP.mul, h.ne']

/-! ## Operations on bit patterns -/

/-- The sign of a product that is no NaN is the XOR of the sign bits of the operands' patterns. -/
theorem testBit_fMul {f : Fmt} {mode : RM} {x y : Nat} (hx : decodeF f x ≠ .nan) (hy : decodeF f y ≠ .nan)
    (h : fMul f mode x y ≠ f.nanBits) :
    (fMul f mode x y).testBit (f.width - 1) = xor (x.testBit (f.width - 1)) (y.testBit (f.width - 1)) := by
  have hmul : (decodeF f x).mul (decodeF f y) ≠ .nan := fun hnan => h (by simp [fMul, hnan])
  rw [fMul, testBit_roundF f mode hmul, sign_mul hmul, decodeF_sign hx, decodeF_sign hy]

theorem fSqrt_of_negative {f : Fmt} {mode : RM} {x m : Nat} {e : Int} (h : decodeF f x = .fin true m e) :
    fSqrt f mode x = if m = 0 then f.signBit else f.nanBits := by
  simp [fSqrt, h]

/-- Settles O8: each case is one of the exact sum or product, rounded; a product's sign passes through the rounding. -/
theorem floatSpecialCases : Obligations.FloatSpecialCases := by
  intro f mode x y z _
  refine ⟨?infSum, ?infDifference, ?zeroTimesInf, ?ffmaInfDifference, ?opposites, ?negativeZeros, ?productSign,
    ?sqrtNegativeZero, ?sqrtNegative, ?sqrtNegativeInf⟩
  case infSum => intro s hx hy; simp [fAdd, hx, hy]
  case infDifference => intro s hx hy; simp [fSub, hx, hy, FP.neg]
  case zeroTimesInf => intro s r e hx hy; simp [fMul, fFma, hx, hy]
  case ffmaInfDifference => intro s r m e hx hy hm hz; simp [fFma, hx, hy, hz, inf_mul_fin_of_pos s r e hm]
  case opposites => intro s m e hx hy; simp [fAdd, hx, hy]
  case negativeZeros => intro e hx hy; simp [fAdd, hx, hy]
  case productSign => exact testBit_fMul
  case sqrtNegativeZero => intro e hx; simp [fSqrt_of_negative hx]
  case sqrtNegative => intro m e hx hm; simp [fSqrt_of_negative hx, hm.ne']
  case sqrtNegativeInf => intro hx; simp [fSqrt, hx]

end Sys2Proof.Proofs
end

section
/-!
PROOFS. Integer values (spec/11_isa_compute.md R261 and R262): the model's readings and narrowings as operations on bit
vectors, the scalar result that they give, and the elements of a packed result.
-/

namespace Sys2Proof.Proofs

open Sys2Proof.Machine

/-! ## Readings and narrowings as bit vectors -/

theorem width_pos (ty : Ty) : 0 < ty.width := by cases ty <;> decide

theorem width_le (ty : Ty) : ty.width ≤ 64 := by cases ty <;> decide

theorem signExt_eq_toInt (x n : Nat) : signExt x n = (BitVec.ofNat n x).toInt := by
  rcases n with _ | n
  · simp [signExt, BitVec.toInt_zero_length]
  · have htop : 2 ^ (n + 1) = 2 * 2 ^ n := pow_succ' 2 n
    simp only [signExt, BitVec.toInt_eq_toNat_cond, BitVec.toNat_ofNat, Nat.add_sub_cancel, n.succ_ne_zero, if_false]
    congr 1
    exact propext (by omega)

theorem wrapN_eq_toNat (r : Int) (n : Nat) : wrapN r n = (BitVec.ofInt n r).toNat := by
  simp [wrapN]

theorem ofInt_eq (r : Int) : ofInt r = BitVec.ofInt 64 r := by
  rw [ofInt, wrapN_eq_toNat, BitVec.ofNat_toNat, BitVec.setWidth_eq]

theorem readTy_signed {ty : Ty} (h : ty.isS = true) (x : Nat) : readTy ty x = (BitVec.ofNat ty.width x).toInt := by
  simp [readTy, h, signExt_eq_toInt]

theorem readTy_unsigned {ty : Ty} (h : ty.isS = false) (x : Nat) :
    readTy ty x = ((BitVec.ofNat ty.width x).toNat : Int) := by
  simp [readTy, h]

/-- A register read at a type: its low w bits, signed for an .s type (R10). -/
theorem readTy_toNat (ty : Ty) (x : Word) :
    readTy ty x.toNat =
      if ty.isS then (x.setWidth ty.width).toInt else ((x.setWidth ty.width).toNat : Int) := by
  cases h : ty.isS
  · simp [readTy_unsigned h, BitVec.ofNat_toNat]
  · simp [readTy_signed h, BitVec.ofNat_toNat]

theorem widen_signed {ty : Ty} (h : ty.isS = true) (x : Nat) :
    widen ty x = (BitVec.ofNat ty.width x).signExtend 64 := by
  rw [widen, readTy_signed h, ofInt_eq, BitVec.signExtend]

theorem widen_unsigned {ty : Ty} (h : ty.isS = false) (x : Nat) :
    widen ty x = (BitVec.ofNat ty.width x).setWidth 64 := by
  rw [widen, readTy_unsigned h, ofInt_eq, BitVec.ofInt_natCast, BitVec.ofNat_toNat]

theorem setWidth_signExtend_of_le {v w : Nat} (x : BitVec w) (h : w ≤ v) : (x.signExtend v).setWidth w = x := by
  apply BitVec.eq_of_getLsbD_eq
  intro i hi
  simp only [BitVec.getLsbD_setWidth, BitVec.getLsbD_signExtend, hi, hi.trans_le h, decide_true, Bool.true_and, if_true]

/-- A w-bit result extended to a register keeps its w bits. -/
theorem setWidth_widen (ty : Ty) (x : Nat) : (widen ty x).setWidth ty.width = BitVec.ofNat ty.width x := by
  cases h : ty.isS
  · rw [widen_unsigned h, BitVec.setWidth_setWidth_of_le _ (width_le ty), BitVec.setWidth_eq]
  · rw [widen_signed h, setWidth_signExtend_of_le _ (width_le ty)]

theorem widen_wrapN_signed {ty : Ty} (h : ty.isS = true) (r : Int) :
    (widen ty (wrapN r ty.width)).toInt = r.bmod (2 ^ ty.width) := by
  rw [widen_signed h, BitVec.toInt_signExtend_of_le (width_le ty), wrapN_eq_toNat, BitVec.ofNat_toNat,
    BitVec.setWidth_eq, BitVec.toInt_ofInt]

theorem widen_wrapN_unsigned {ty : Ty} (h : ty.isS = false) (r : Int) :
    ((widen ty (wrapN r ty.width)).toNat : Int) = r % (2 : Int) ^ ty.width := by
  rw [widen_unsigned h, BitVec.toNat_setWidth_of_le (width_le ty), wrapN_eq_toNat, BitVec.ofNat_toNat,
    BitVec.setWidth_eq, BitVec.toNat_ofInt]
  simp [Int.emod_nonneg]

theorem clampI_eq {lo hi : Int} (h : lo ≤ hi) (r : Int) : clampI r lo hi = max lo (min hi r) := by
  unfold clampI
  split_ifs <;> omega

theorem satS_eq (n : Nat) (r : Int) :
    satS n r = max (-((2 : Int) ^ (n - 1))) (min ((2 : Int) ^ (n - 1) - 1) r) := by
  have hpos : (0 : Int) < 2 ^ (n - 1) := by positivity
  rw [satS, clampI_eq] <;> push_cast <;> omega

theorem satZ_eq (n : Nat) (r : Int) : satZ n r = max 0 (min ((2 : Int) ^ n - 1) r) := by
  have hpos : (0 : Int) < 2 ^ n := by positivity
  rw [satZ, clampI_eq] <;> push_cast <;> omega

/-- A value clamped to the signed range of n bits is not changed by taking it modulo 2^n. -/
theorem satS_bmod {n : Nat} (h : 0 < n) (r : Int) : (satS n r).bmod (2 ^ n) = satS n r := by
  have hpos : (0 : Int) < 2 ^ (n - 1) := by positivity
  have hdouble := mul_pow_sub_one h.ne' (2 : Int)
  rw [satS_eq]
  apply Int.bmod_eq_of_le_mul_two <;> push_cast <;> omega

theorem satZ_emod (n : Nat) (r : Int) : satZ n r % (2 : Int) ^ n = satZ n r := by
  have hpos : (0 : Int) < 2 ^ n := by positivity
  rw [satZ_eq]
  apply Int.emod_eq_of_lt <;> omega

/-! ## Scalar results (R261) -/

/-- The exact result of three numbers, each read at the type. -/
def exactAt (ex : Int → Int → Int → Int) (ty : Ty) (a b c : Nat) : Int := ex (readTy ty a) (readTy ty b) (readTy ty c)

/-- Without .pk, the result is the narrowed exact result of the operands, extended. -/
theorem intOp_scalar (ex : Int → Int → Int → Int) (ty : Ty) {sub : Nat} (h : bit sub 1 = false) (a b c : Word) :
    intOp ex ty sub a b c = widen ty (narrow ty (bit sub 0) (exactAt ex ty a.toNat b.toNat c.toNat)) := by
  simp [intOp, exactAt, h]

theorem narrow_wrap (ty : Ty) (r : Int) : narrow ty false r = wrapN r ty.width := rfl

theorem narrow_sat_signed {ty : Ty} (h : ty.isS = true) (r : Int) :
    narrow ty true r = wrapN (satS ty.width r) ty.width := by
  simp [narrow, h]

theorem narrow_sat_unsigned {ty : Ty} (h : ty.isS = false) (r : Int) :
    narrow ty true r = wrapN (satZ ty.width r) ty.width := by
  simp [narrow, h]

theorem toInt_intOp_wrap (ex : Int → Int → Int → Int) {ty : Ty} (h : ty.isS = true) (a b c : Word) :
    (intOp ex ty 0 a b c).toInt = (exactAt ex ty a.toNat b.toNat c.toNat).bmod (2 ^ ty.width) := by
  rw [intOp_scalar ex ty rfl, show bit 0 0 = false from rfl, narrow_wrap, widen_wrapN_signed h]

theorem toNat_intOp_wrap (ex : Int → Int → Int → Int) {ty : Ty} (h : ty.isS = false) (a b c : Word) :
    ((intOp ex ty 0 a b c).toNat : Int) = exactAt ex ty a.toNat b.toNat c.toNat % (2 : Int) ^ ty.width := by
  rw [intOp_scalar ex ty rfl, show bit 0 0 = false from rfl, narrow_wrap, widen_wrapN_unsigned h]

theorem toInt_intOp_sat (ex : Int → Int → Int → Int) {ty : Ty} (h : ty.isS = true) (a b c : Word) :
    (intOp ex ty 1 a b c).toInt = satS ty.width (exactAt ex ty a.toNat b.toNat c.toNat) := by
  rw [intOp_scalar ex ty rfl, show bit 1 0 = true from rfl, narrow_sat_signed h, widen_wrapN_signed h,
    satS_bmod (width_pos ty)]

theorem toNat_intOp_sat (ex : Int → Int → Int → Int) {ty : Ty} (h : ty.isS = false) (a b c : Word) :
    ((intOp ex ty 1 a b c).toNat : Int) = satZ ty.width (exactAt ex ty a.toNat b.toNat c.toNat) := by
  rw [intOp_scalar ex ty rfl, show bit 1 0 = true from rfl, narrow_sat_unsigned h, widen_wrapN_unsigned h, satZ_emod]

/-! ## Elements of a packed value (R206, R262) -/

theorem elem_lt (x w i : Nat) : elem x w i < 2 ^ w := Nat.mod_lt _ (by positivity)

theorem elem_zero (x w : Nat) : elem x w 0 = x % 2 ^ w := by simp [elem]

theorem elem_succ (x w i : Nat) : elem x w (i + 1) = elem (x / 2 ^ w) w i := by
  simp [elem, Nat.shiftRight_eq_div_pow, Nat.div_div_eq_div_mul, ← pow_add, Nat.add_mul, Nat.add_comm]

/-- Each element packed is read back from its position. -/
theorem elem_packElems (w : Nat) (l : List Nat) (i : Nat) (hi : i < l.length) :
    elem (packElems w l) w i = l[i] % 2 ^ w := by
  induction l generalizing i with
  | nil => simp at hi
  | cons e es ih =>
    cases i with
    | zero => simp [elem_zero, packElems]
    | succ i =>
      have hrest : packElems w (e :: es) / 2 ^ w = packElems w es := by
        rw [packElems, Nat.add_mul_div_left _ _ (by positivity), Nat.div_eq_of_lt (Nat.mod_lt _ (by positivity)),
          Nat.zero_add]
      rw [elem_succ, hrest, List.getElem_cons_succ]
      exact ih i (by simpa using hi)

theorem packElems_lt (w : Nat) (l : List Nat) : packElems w l < 2 ^ (w * l.length) := by
  induction l with
  | nil => simp [packElems]
  | cons e es ih =>
    calc packElems w (e :: es) < 2 ^ w + 2 ^ w * packElems w es :=
          Nat.add_lt_add_right (Nat.mod_lt _ (by positivity)) _
      _ = 2 ^ w * (packElems w es + 1) := by ring
      _ ≤ 2 ^ w * 2 ^ (w * es.length) := Nat.mul_le_mul_left _ ih
      _ = 2 ^ (w * (e :: es).length) := by rw [← pow_add, List.length_cons, Nat.mul_succ, Nat.add_comm]

/-- 64/w elements of width w fit into a register. -/
theorem toNat_ofN_packElems {w : Nat} {l : List Nat} (h : l.length = 64 / w) :
    (ofN (packElems w l)).toNat = packElems w l := by
  have hfit : 2 ^ (w * l.length) ≤ 2 ^ 64 := Nat.pow_le_pow_right two_pos (h ▸ Nat.mul_div_le 64 w)
  simpa [ofN] using Nat.mod_eq_of_lt ((packElems_lt w l).trans_le hfit)

theorem toNat_ofN_elem (x i : Nat) (ty : Ty) : (ofN (elem x ty.width i)).toNat = elem x ty.width i := by
  have hfit : 2 ^ ty.width ≤ 2 ^ 64 := Nat.pow_le_pow_right two_pos (width_le ty)
  simpa [ofN] using Nat.mod_eq_of_lt ((elem_lt x ty.width i).trans_le hfit)

theorem toNat_widen_mod (ty : Ty) (x : Nat) : (widen ty x).toNat % 2 ^ ty.width = x % 2 ^ ty.width := by
  simpa using congrArg BitVec.toNat (setWidth_widen ty x)

/-- With .pk, element i of the result is the narrowed exact result of elements i of the sources. -/
theorem elem_intOp_packed (ex : Int → Int → Int → Int) (ty : Ty) {sub : Nat} (h : bit sub 1 = true) (a b c : Word)
    {i : Nat} (hi : i < 64 / ty.width) :
    elem (intOp ex ty sub a b c).toNat ty.width i =
      narrow ty (bit sub 0)
        (exactAt ex ty (elem a.toNat ty.width i) (elem b.toNat ty.width i) (elem c.toNat ty.width i)) %
        2 ^ ty.width := by
  simp only [intOp, h, if_true]
  rw [toNat_ofN_packElems (by simp), elem_packElems _ _ _ (by simpa using hi)]
  simp [exactAt]

/-- The low w bits of a scalar result are the narrowed exact result of its operands. -/
theorem toNat_intOp_scalar_mod (ex : Int → Int → Int → Int) (ty : Ty) {sub : Nat} (h : bit sub 1 = false)
    (a b c : Word) :
    (intOp ex ty sub a b c).toNat % 2 ^ ty.width =
      narrow ty (bit sub 0) (exactAt ex ty a.toNat b.toNat c.toNat) % 2 ^ ty.width := by
  rw [intOp_scalar ex ty h, toNat_widen_mod]

/-- Element i of a packed result is the scalar result of elements i of the sources: sub is SUB with .pk, sub' without. -/
theorem elem_intOp_eq_scalar (ex : Int → Int → Int → Int) (ty : Ty) {sub sub' : Nat} (hpk : bit sub 1 = true)
    (hscalar : bit sub' 1 = false) (hsat : bit sub' 0 = bit sub 0) (a b c : Word) {i : Nat} (hi : i < 64 / ty.width) :
    elem (intOp ex ty sub a b c).toNat ty.width i =
      (intOp ex ty sub' (ofN (elem a.toNat ty.width i)) (ofN (elem b.toNat ty.width i))
        (ofN (elem c.toNat ty.width i))).toNat % 2 ^ ty.width := by
  rw [elem_intOp_packed ex ty hpk a b c hi, toNat_intOp_scalar_mod ex ty hscalar, hsat]
  simp only [toNat_ofN_elem]

/-- The immediate of an integer instruction is extended by zeros for a .z type and by sign otherwise (R13). -/
theorem immInt_eq (ty : Ty) (imm : BitVec 32) :
    immInt ty imm = if ty.isZ then imm.setWidth 64 else imm.signExtend 64 := by
  cases h : ty.isZ
  · simp [immInt, h, signExt_eq_toInt, ofInt_eq, BitVec.signExtend]
  · simp [immInt, h, ofN, BitVec.ofNat_toNat]

end Sys2Proof.Proofs
end

section
/-!
PROOFS. What the integer instructions of spec/11_isa_compute.md R260 leave over a bundle, their decode fault for .pk at
width 64, and the statements about them (R261 to R264).
-/

namespace Sys2Proof.Proofs

open Sys2Proof.Machine Sys2Proof.Safety Sys2Proof.Laws

/-! ## Instructions that write a function of their operands -/

theorem gives_alu1 {i : Instr} {c : Ctl} {o : F3} {f : Word → Word} (h : ∀ s, exec i s = alu1 i c o f s) :
    Gives i c (dA o f) := fun s _ hb => (h s).trans (alu1_ran f hb)

theorem gives_alu2 {i : Instr} {c : Ctl} {o : F3} {f : Word → Word → Word} (h : ∀ s, exec i s = alu2 i c o f s) :
    Gives i c (dAB o f) := fun s _ hb => (h s).trans (alu2_ran f hb)

theorem gives_alu3 {i : Instr} {c : Ctl} {o : F3} {f : Word → Word → Word → Word}
    (h : ∀ s, exec i s = alu3 i c o f s) : Gives i c (dABC o f) := fun s _ hb => (h s).trans (alu3_ran f hb)

theorem gives_aluI {i : Instr} {c : Ctl} {o : FI} {imm : Word} {f : Word → Word → Word}
    (h : ∀ s, exec i s = aluI i c o imm f s) : Gives i c (dAI o imm f) := fun s _ hb => (h s).trans (aluI_ran imm f hb)

/-! ## The instructions of R260 -/

theorem gives_add (c : Ctl) (o : F3) :
    Gives (.add c o) c (dAB o (fun a b => intOp (fun x y _ => x + y) o.ty o.sub.toNat a b 0)) :=
  gives_alu2 (exec_add c o)

theorem gives_addImm (c : Ctl) (p : FI) :
    Gives (.addImm c p) c (dAI p (immInt p.ty p.imm) (fun a b => intOp (fun x y _ => x + y) p.ty p.sub.toNat a b 0)) :=
  gives_aluI (exec_addImm c p)

theorem gives_sub (c : Ctl) (o : F3) :
    Gives (.sub c o) c (dAB o (fun a b => intOp (fun x y _ => x - y) o.ty o.sub.toNat a b 0)) :=
  gives_alu2 (exec_sub c o)

theorem gives_subImm (c : Ctl) (p : FI) :
    Gives (.subImm c p) c (dAI p (immInt p.ty p.imm) (fun a b => intOp (fun x y _ => x - y) p.ty p.sub.toNat a b 0)) :=
  gives_aluI (exec_subImm c p)

theorem gives_div (c : Ctl) (o : F3) :
    Gives (.div c o) c (dAB o (fun a b => intOp (fun x y _ => divExact o.ty x y) o.ty o.sub.toNat a b 0)) :=
  gives_alu2 (exec_div c o)

theorem gives_rem (c : Ctl) (o : F3) :
    Gives (.rem c o) c (dAB o (fun a b => intOp (fun x y _ => remExact x y) o.ty o.sub.toNat a b 0)) :=
  gives_alu2 (exec_rem c o)

theorem gives_neg (c : Ctl) (o : F3) :
    Gives (.neg c o) c (dA o (fun a => intOp (fun x _ _ => -x) o.ty o.sub.toNat a 0 0)) :=
  gives_alu1 (exec_neg c o)

theorem natAbs_eq_ite (x : Int) : (x.natAbs : Int) = if x < 0 then -x else x := by
  split_ifs <;> omega

theorem gives_abs (c : Ctl) (o : F3) :
    Gives (.abs c o) c (dA o (fun a => intOp (fun x _ _ => if x < 0 then -x else x) o.ty o.sub.toNat a 0 0)) := by
  simp only [← natAbs_eq_ite]
  exact gives_alu1 (exec_abs c o)

theorem gives_min (c : Ctl) (o : F3) :
    Gives (.min c o) c (dAB o (fun a b => intOp (fun x y _ => if x ≤ y then x else y) o.ty o.sub.toNat a b 0)) := by
  simp only [← min_def]
  exact gives_alu2 (exec_min c o)

theorem gives_minImm (c : Ctl) (p : FI) :
    Gives (.minImm c p) c (dAI p (immInt p.ty p.imm)
      (fun a b => intOp (fun x y _ => if x ≤ y then x else y) p.ty p.sub.toNat a b 0)) := by
  simp only [← min_def]
  exact gives_aluI (exec_minImm c p)

theorem gives_max (c : Ctl) (o : F3) :
    Gives (.max c o) c (dAB o (fun a b => intOp (fun x y _ => if x ≤ y then y else x) o.ty o.sub.toNat a b 0)) := by
  simp only [← max_def]
  exact gives_alu2 (exec_max c o)

theorem gives_maxImm (c : Ctl) (p : FI) :
    Gives (.maxImm c p) c (dAI p (immInt p.ty p.imm)
      (fun a b => intOp (fun x y _ => if x ≤ y then y else x) p.ty p.sub.toNat a b 0)) := by
  simp only [← max_def]
  exact gives_aluI (exec_maxImm c p)

/-! ## .pk at width 64 (R262) -/

/-- A row that refuses a subfield gives its words the decode fault 0x03. -/
theorem decodeFault_of_bad3 {i : Instr} {p : Parts} {r : Row} (hp : i.parts = some p)
    (ha : Map.assigned p.opc = true) (hr : Map.rowOf p.opc p.fn.val = some r) (h : r.bad3 p.fn.val p.body = true) :
    i.decodeFault = 3 := by
  simp [Instr.decodeFault, hp, Map.dfault, ha, hr, h]

theorem satpk_of_width {o : F3} (hw : o.ty.width = 64) (hpk : o.sub.getLsbD 1 = true) : Map.satpk o = true := by
  have hbit : o.sub.toNat.testBit 1 = true := by rwa [BitVec.testBit_toNat]
  simp [Map.satpk, Map.sb, hw, hbit]

theorem satpkI_of_width {o : FI} (hw : o.ty.width = 64) (hpk : o.sub.getLsbD 1 = true) : Map.satpkI o = true := by
  have hbit : o.sub.toNat.testBit 1 = true := by rwa [BitVec.testBit_toNat]
  simp [Map.satpkI, Map.sbI, hw, hbit]

/-- An F3 row that checks .pk refuses it at width 64. -/
theorem f3_bad3_of_pk {o : F3} (hw : o.ty.width = 64) (hpk : o.sub.getLsbD 1 = true) (opc : Nat) (fns : List Nat)
    (tys : List Ty) (rm : Bool) (u : Use) (s4 : F3 → Bool) (mk : Ctl → Fin 16 → F3 → Instr) (fn : Nat) :
    (Map.f3 opc fns tys rm u (fun _ => Map.satpk) s4 mk).bad3 fn (.f3 o) = true := by
  simp [Map.f3, satpk_of_width hw hpk]

/-- An FI row that checks .pk refuses it at width 64. -/
theorem fi_bad3_of_pk {o : FI} (hw : o.ty.width = 64) (hpk : o.sub.getLsbD 1 = true) (opc fn₀ : Nat) (tys : List Ty)
    (rm : Bool) (d a : Slot) (pd : Bool) (s4 : FI → Bool) (mk : Ctl → FI → Instr) (fn : Nat) :
    (Map.fi opc fn₀ tys rm d a pd Map.satpkI s4 mk).bad3 fn (.fi o) = true := by
  simp [Map.fi, satpkI_of_width hw hpk]

theorem decodeFault_f3_pk (c : Ctl) {o : F3} (hw : o.ty.width = 64) (hpk : o.sub.getLsbD 1 = true) :
    ∀ i ∈ [Instr.add c o, .sub c o, .neg c o, .abs c o, .min c o, .max c o], i.decodeFault = 3 := by
  have hbad := f3_bad3_of_pk hw hpk
  simp only [List.forall_mem_cons, List.not_mem_nil, false_imp_iff, implies_true, and_true]
  and_intros <;> exact decodeFault_of_bad3 rfl rfl rfl (hbad ..)

theorem decodeFault_fi_pk (c : Ctl) {p : FI} (hw : p.ty.width = 64) (hpk : p.sub.getLsbD 1 = true) :
    ∀ i ∈ [Instr.addImm c p, .subImm c p, .minImm c p, .maxImm c p], i.decodeFault = 3 := by
  have hbad := fi_bad3_of_pk hw hpk
  simp only [List.forall_mem_cons, List.not_mem_nil, false_imp_iff, implies_true, and_true]
  and_intros <;> exact decodeFault_of_bad3 rfl rfl rfl (hbad ..)

/-! ## Division (R263) -/

theorem divExact_of_ne_zero (ty : Ty) (a : Int) {b : Int} (h : b ≠ 0) : divExact ty a b = a.tdiv b := by
  simp [divExact, h]

theorem divExact_zero_unsigned {ty : Ty} (h : ty.isS = false) (a : Int) : divExact ty a 0 = 2 ^ ty.width - 1 := by
  simp [divExact, h]

theorem divExact_zero_signed {ty : Ty} (h : ty.isS = true) (a : Int) :
    divExact ty a 0 = if 0 ≤ a then 2 ^ (ty.width - 1) - 1 else -(2 ^ (ty.width - 1)) := by
  simp [divExact, h]

theorem remExact_of_ne_zero (a : Int) {b : Int} (h : b ≠ 0) : remExact a b = a - b * a.tdiv b := by
  simp [remExact, h, Int.tmod_def]

theorem remExact_zero (a : Int) : remExact a 0 = a := rfl

/-- 2^(n − 1) modulo 2^n is read as the most negative number of n bits. -/
theorem two_pow_sub_one_bmod {n : Nat} (h : 0 < n) : ((2 : Int) ^ (n - 1)).bmod (2 ^ n) = -(2 ^ (n - 1)) := by
  have hpos : (0 : Int) < 2 ^ (n - 1) := by positivity
  have hdouble := mul_pow_sub_one h.ne' (2 : Int)
  calc ((2 : Int) ^ (n - 1)).bmod (2 ^ n) = (-(2 ^ (n - 1)) + ((2 ^ n : Nat) : Int)).bmod (2 ^ n) := by
        congr 1
        push_cast
        omega
    _ = (-(2 ^ (n - 1)) : Int).bmod (2 ^ n) := Int.add_bmod_right ..
    _ = -(2 ^ (n - 1)) := by apply Int.bmod_eq_of_le_mul_two <;> push_cast <;> omega

/-- The most negative number of n bits has no negation among them: it saturates. -/
theorem satS_two_pow_sub_one (n : Nat) : satS n (2 ^ (n - 1)) = 2 ^ (n - 1) - 1 := by
  have hpos : (0 : Int) < 2 ^ (n - 1) := by positivity
  rw [satS_eq]
  omega

theorem divExact_neg_one (ty : Ty) (a : Int) : divExact ty a (-1) = -a := by
  simp [divExact]

theorem remExact_neg_one (a : Int) : remExact a (-1) = 0 := by
  simp [remExact]

section
variable {ty : Ty} {x y : Word} (hs : ty.isS = true) (hx : (x.setWidth ty.width).toInt = -(2 ^ (ty.width - 1)))
  (hy : (y.setWidth ty.width).toInt = -1)
include hs hx hy

/-- The operands of the most negative number over −1, as an instruction reads them. -/
theorem exactAt_minimum_neg_one (ex : Int → Int → Int) :
    exactAt (fun p q _ => ex p q) ty x.toNat y.toNat (0 : Word).toNat = ex (-(2 ^ (ty.width - 1))) (-1) := by
  have hreadX : readTy ty x.toNat = -(2 ^ (ty.width - 1)) := by simpa [readTy_toNat, hs] using hx
  have hreadY : readTy ty y.toNat = -1 := by simpa [readTy_toNat, hs] using hy
  rw [exactAt, hreadX, hreadY]

theorem div_minimum_neg_one :
    (intOp (fun p q _ => divExact ty p q) ty 0 x y 0).toInt = -(2 ^ (ty.width - 1)) := by
  rw [toInt_intOp_wrap _ hs, exactAt_minimum_neg_one hs hx hy, divExact_neg_one, neg_neg,
    two_pow_sub_one_bmod (width_pos ty)]

theorem div_sat_minimum_neg_one :
    (intOp (fun p q _ => divExact ty p q) ty 1 x y 0).toInt = 2 ^ (ty.width - 1) - 1 := by
  rw [toInt_intOp_sat _ hs, exactAt_minimum_neg_one hs hx hy, divExact_neg_one, neg_neg, satS_two_pow_sub_one]

theorem rem_minimum_neg_one : intOp (fun p q _ => remExact p q) ty 0 x y 0 = 0 := by
  apply BitVec.eq_of_toInt_eq
  rw [toInt_intOp_wrap _ hs, exactAt_minimum_neg_one hs hx hy, remExact_neg_one, Int.zero_bmod]
  rfl

end

/-! ## The statements -/

/-- Settles O1: each instruction writes a function of its operands over a bundle, and a scalar result is the exact one,
wrapped or clamped by bit-vector operations. -/
theorem scalarIntegerResult : Obligations.ScalarIntegerResult := by
  constructor
  · intro c o p
    exact ⟨gives_add c o, gives_addImm c p, gives_sub c o, gives_subImm c p, gives_alu2 (exec_mul c o),
      gives_aluI (exec_mulImm c p), gives_alu2 (exec_mulh c o), gives_alu3 (exec_mad c o), gives_div c o, gives_rem c o,
      gives_neg c o, gives_abs c o, gives_min c o, gives_minImm c p, gives_max c o, gives_maxImm c p,
      gives_alu3 (exec_sad c o)⟩
  · intro ex ty a b c
    simp only [← readTy_toNat, ← satS_eq, ← satZ_eq]
    exact ⟨(toInt_intOp_wrap ex · a b c), (toNat_intOp_wrap ex · a b c), (toInt_intOp_sat ex · a b c),
      (toNat_intOp_sat ex · a b c)⟩

/-- Settles O2: an element of the packed list is narrowed on its own, from elements that a register holds unchanged; the
check of .pk stands in the row of each instruction that lists it. -/
theorem packedElementsAreIndependent : Obligations.PackedElementsAreIndependent := by
  refine ⟨?element, ?effect, ?width64⟩
  case element =>
    intro ex ty sat a b c i hi
    cases sat
    · exact elem_intOp_eq_scalar ex ty (sub := 2) (sub' := 0) rfl rfl rfl a b c hi
    · exact elem_intOp_eq_scalar ex ty (sub := 3) (sub' := 1) rfl rfl rfl a b c hi
  case effect =>
    intro c o p
    simp only [← immInt_eq]
    exact ⟨gives_add c o, gives_addImm c p, gives_sub c o, gives_subImm c p, gives_neg c o, gives_abs c o, gives_min c o,
      gives_minImm c p, gives_max c o, gives_maxImm c p⟩
  case width64 => exact fun c _ _ => ⟨decodeFault_f3_pk c, decodeFault_fi_pk c⟩

/-- Settles O3: the cases of the exact quotient and remainder, then the one quotient that the type cannot hold. -/
theorem divisionAndRemainder : Obligations.DivisionAndRemainder := by
  intro ty a b
  refine ⟨?nonzero, ?zeroUnsigned, ?zeroSigned, ?zeroNegative, ?minimumByNegOne, ?effect⟩
  case nonzero => exact fun hb => ⟨divExact_of_ne_zero ty a hb, remExact_of_ne_zero a hb⟩
  case zeroUnsigned =>
    rintro rfl hs
    exact ⟨divExact_zero_unsigned hs a, remExact_zero a⟩
  case zeroSigned =>
    rintro rfl hs ha
    exact ⟨by rw [divExact_zero_signed hs, if_pos ha], remExact_zero a⟩
  case zeroNegative =>
    rintro rfl hs ha
    exact ⟨by rw [divExact_zero_signed hs, if_neg ha.not_ge], remExact_zero a⟩
  case minimumByNegOne =>
    intro x y hs hx hy
    exact ⟨div_minimum_neg_one hs hx hy, div_sat_minimum_neg_one hs hx hy, rem_minimum_neg_one hs hx hy⟩
  case effect => exact fun c o => ⟨gives_div c o, gives_rem c o⟩

end Sys2Proof.Proofs
end

section
/-!
PROOFS. Decoding an encoded instruction (spec/10_encoding.md R231 to R254): the row that the opcode map gives a well-formed
instruction's OPC and FN builds it back.
-/

namespace Sys2Proof.Proofs

open Sys2Proof.Laws

/-- A word that passes the decode checks has a row of its OPC and FN. -/
theorem rowOf_isSome_of_dfault {opc fn : Nat} {b : Body} (h : Map.dfault opc fn b = 0) :
    ∃ r, Map.rowOf opc fn = some r := by
  cases hrow : Map.rowOf opc fn with
  | some r => exact ⟨r, rfl⟩
  | none =>
    simp only [Map.dfault, hrow] at h
    split_ifs at h

/-- Where one row alone lists an OPC, it is the row of every word with that OPC that passes the decode checks. -/
theorem rowOf_of_only {opc fn : Nat} {b : Body} {r : Row} (honly : Map.rows.filter (fun r => r.opc == opc) = [r])
    (h : Map.dfault opc fn b = 0) : Map.rowOf opc fn = some r := by
  obtain ⟨r', hrow⟩ := rowOf_isSome_of_dfault h
  have hopc : (r'.opc == opc) = true := (Bool.and_eq_true _ _ ▸ List.find?_some hrow).1
  have hmem : r' ∈ Map.rows.filter (fun r => r.opc == opc) := List.mem_filter.mpr ⟨List.mem_of_find?_eq_some hrow, hopc⟩
  rw [honly, List.mem_singleton] at hmem
  rw [hrow, hmem]

/-- What an instruction's parts need so that its word decodes to it. -/
structure BuiltBack (i : Instr) (p : Parts) : Prop where
  opc : decide (p.opc < 1024) = true
  form : Map.form p.opc p.fn.val = formOf p.body
  build : (Map.rowOf p.opc p.fn.val).bind (fun r => r.build p.c p.fn p.body) = some i

/-- The same where one row alone lists the OPC, whatever FN is. -/
theorem builtBack_of_only {i : Instr} {p : Parts} (r : Row) (honly : Map.rows.filter (fun r => r.opc == p.opc) = [r])
    (hopc : decide (p.opc < 1024) = true) (hform : Map.form p.opc p.fn.val = formOf p.body)
    (hbuild : r.build p.c p.fn p.body = some i) (h : Map.dfault p.opc p.fn.val p.body = 0) : BuiltBack i p :=
  ⟨hopc, hform, by rw [rowOf_of_only honly h]; exact hbuild⟩

section
variable {c : Ctl} {o : FM}

/-- PATH chooses among the four loads of one row (R248). -/
theorem mkLd_ld (h : (Instr.ld c o).pathOk = true) : Map.mkLd c o = .ld c o := if_pos (beq_iff_eq.mp h)

theorem mkLd_ldRo (h : (Instr.ldRo c o).pathOk = true) : Map.mkLd c o = .ldRo c o := by
  have hpath : o.path = 1 := beq_iff_eq.mp h
  simp [Map.mkLd, hpath]

theorem mkLd_ldC (h : (Instr.ldC c o).pathOk = true) : Map.mkLd c o = .ldC c o := by
  have hpath : o.path = 2 := beq_iff_eq.mp h
  simp [Map.mkLd, hpath]

theorem mkLd_ldTl (h : (Instr.ldTl c o).pathOk = true) : Map.mkLd c o = .ldTl c o := by
  have hpath : o.path = 3 := beq_iff_eq.mp h
  simp [Map.mkLd, hpath]

end

/-- Every well-formed instruction is built back from its parts: by the row that its OPC and its constant FN select, by the
one row of its OPC where FN is an operation of it, and by PATH among the loads. -/
theorem builtBack_of_wellFormed {i : Instr} {p : Parts} (hp : i.parts = some p) (hw : WellFormed i) : BuiltBack i p := by
  have hfault : Map.dfault p.opc p.fn.val p.body = 0 := by simpa [Instr.decodeFault, hp] using hw.1
  have hpath := hw.2
  cases i <;> cases hp
  case exp2 | log2 | rcp | rsqrt | sqrt | sin | cos | tanh | sigm | erf =>
    exact builtBack_of_only _ rfl rfl (by simp [Map.form, formOf]) rfl hfault
  case atom | atomF | atomOrd | fence => exact builtBack_of_only _ rfl rfl rfl rfl hfault
  case ld => exact ⟨rfl, rfl, congrArg some (mkLd_ld hpath)⟩
  case ldRo => exact ⟨rfl, rfl, congrArg some (mkLd_ldRo hpath)⟩
  case ldC => exact ⟨rfl, rfl, congrArg some (mkLd_ldC hpath)⟩
  case ldTl => exact ⟨rfl, rfl, congrArg some (mkLd_ldTl hpath)⟩
  all_goals exact ⟨rfl, rfl, rfl⟩

/-- Settles O55: the parts of a word are read back from it, and their row builds the instruction back. -/
theorem encodeDecodeRoundTrip : Obligations.EncodeDecodeRoundTrip := by
  intro i hevent hw
  obtain ⟨p, hp⟩ : ∃ p, i.parts = some p := Option.isSome_iff_exists.mp (by simpa [Instr.isEvent] using hevent)
  obtain ⟨hopc, hform, hbuild⟩ := builtBack_of_wellFormed hp hw
  exact word_of_parts i p hp hopc hform (by simpa [Instr.decodeFault, hp] using hw.1) hbuild

end Sys2Proof.Proofs
end

section
/-!
PROOFS. Logic, shifts, rotations and bit counts (spec/11_isa_compute.md R265, R266): the model's arithmetic on the low w bits
as operations on bit vectors, and the statement about them.
-/

namespace Sys2Proof.Proofs

open Sys2Proof.Machine Sys2Proof.Safety Sys2Proof.Laws

/-! ## Numbers built bit by bit -/

/-- Where bit i of x is clear, the bits of x from i + 1 up and those below i are apart. -/
theorem eq_high_add_low {x i : Nat} (h : x.testBit i = false) :
    ∃ q r, r < 2 ^ i ∧ x = 2 ^ (i + 1) * q + r := by
  refine ⟨x / 2 ^ (i + 1), x % 2 ^ (i + 1), ?_, (Nat.div_add_mod ..).symm⟩
  rw [Nat.testBit_eq_decide_div_mod_eq, decide_eq_false_iff_not] at h
  have hlow : x % 2 ^ (i + 1) = x % 2 ^ i + 2 ^ i * (x / 2 ^ i % 2) := Nat.mod_pow_succ
  have hzero : x / 2 ^ i % 2 = 0 := by omega
  rw [hlow, hzero, Nat.mul_zero, Nat.add_zero]
  exact Nat.mod_lt _ (by positivity)

/-- Adding a power of two whose bit is clear sets that bit and no other. -/
theorem testBit_add_two_pow {x i : Nat} (h : x.testBit i = false) (k : Nat) :
    (x + 2 ^ i).testBit k = (x.testBit k || i == k) := by
  obtain ⟨q, r, hr, rfl⟩ := eq_high_add_low h
  have hr' : 2 ^ i * 1 + r < 2 ^ (i + 1) := by rw [pow_succ]; omega
  have hsum : 2 ^ (i + 1) * q + r + 2 ^ i = 2 ^ (i + 1) * q + (2 ^ i * 1 + r) := by ring
  rw [hsum, Nat.testBit_two_pow_mul_add _ hr', Nat.testBit_two_pow_mul_add _ hr,
    Nat.testBit_two_pow_mul_add _ (hr.trans (Nat.pow_lt_pow_right one_lt_two (Nat.lt_succ_self i)))]
  rcases lt_trichotomy k i with hk | rfl | hk
  · simp [hk, hk.trans (Nat.lt_succ_self i), hk.ne']
  · simp
  · have hge : ¬k < i + 1 := by omega
    simp [hge, hk.ne]

/-- A sum of powers of two at distinct places, each taken or not, has a set bit where a power is taken. -/
theorem testBit_foldl_add_two_pow {α : Type} (place : α → Nat) (taken : α → Bool) (l : List α) (h : (l.map place).Nodup)
    (k : Nat) :
    (l.foldl (fun r x => if taken x then r + 2 ^ place x else r) 0).testBit k =
      l.any (fun x => taken x && place x == k) := by
  induction l using List.reverseRecOn generalizing k with
  | nil => simp
  | append_singleton l x ih =>
    rw [List.map_append, List.nodup_append] at h
    obtain ⟨hl, -, hnew⟩ := h
    have hclear : (l.foldl (fun r x => if taken x then r + 2 ^ place x else r) 0).testBit (place x) = false := by
      rw [ih hl, List.any_eq_false]
      intro y hy hk
      simp only [Bool.and_eq_true, beq_iff_eq] at hk
      exact hnew _ (List.mem_map_of_mem hy) _ (by simp) hk.2
    rw [List.foldl_append, List.any_append, ← ih hl]
    cases ht : taken x <;> simp [ht, testBit_add_two_pow hclear]

/-- Bit k of the number built from f is f k, below n. -/
theorem testBit_mkBits (n : Nat) (f : Nat → Bool) (k : Nat) : (mkBits n f).testBit k = (decide (k < n) && f k) := by
  have hsum := testBit_foldl_add_two_pow id f (List.range n) (by simpa using List.nodup_range) k
  simp only [id] at hsum
  rw [mkBits, hsum, Bool.eq_iff_iff]
  simp only [List.any_eq_true, List.mem_range, Bool.and_eq_true, beq_iff_eq, decide_eq_true_eq]
  exact ⟨fun ⟨_, hx, hf, hk⟩ => hk ▸ ⟨hx, hf⟩, fun ⟨hk, hf⟩ => ⟨k, hk, hf, rfl⟩⟩

/-- Bit k of a register that holds x, below 64. -/
theorem getLsbD_ofN (x k : Nat) : (ofN x).getLsbD k = (decide (k < 64) && x.testBit k) := by
  simp [ofN, BitVec.getLsbD_ofNat]

theorem getLsbD_ofN_mkBits {n : Nat} (hn : n ≤ 64) (f : Nat → Bool) (k : Nat) :
    (ofN (mkBits n f)).getLsbD k = (decide (k < n) && f k) := by
  rw [getLsbD_ofN, testBit_mkBits]
  by_cases hk : k < n
  · simp [hk, hk.trans_le hn]
  · simp [hk]

/-! ## Logic and shifts on the low w bits (R265) -/

theorem toNat_ofN (x : Nat) : (ofN x).toNat = x % 2 ^ 64 := by simp [ofN]

theorem mod_mod_width (ty : Ty) (x : Nat) : x % 2 ^ 64 % 2 ^ ty.width = x % 2 ^ ty.width :=
  Nat.mod_mod_of_dvd x (pow_dvd_pow 2 (width_le ty))

theorem ofN_mod_width (ty : Ty) (x : Nat) :
    ofN (x % 2 ^ ty.width) = ((ofN x).setWidth ty.width).setWidth 64 := by
  apply BitVec.eq_of_toNat_eq
  simp only [toNat_ofN, BitVec.toNat_setWidth, mod_mod_width]

theorem ofN_toNat (x : Word) : ofN x.toNat = x := by simp [ofN, BitVec.ofNat_toNat]

theorem logicOp_and (ty : Ty) : logicOp (· &&& ·) ty = fun a b => ((a &&& b).setWidth ty.width).setWidth 64 := by
  funext a b
  rw [logicOp, ofN_mod_width, ← BitVec.toNat_and, ofN_toNat]

theorem logicOp_or (ty : Ty) : logicOp (· ||| ·) ty = fun a b => ((a ||| b).setWidth ty.width).setWidth 64 := by
  funext a b
  rw [logicOp, ofN_mod_width, ← BitVec.toNat_or, ofN_toNat]

theorem logicOp_xor (ty : Ty) : logicOp (· ^^^ ·) ty = fun a b => ((a ^^^ b).setWidth ty.width).setWidth 64 := by
  funext a b
  rw [logicOp, ofN_mod_width, ← BitVec.toNat_xor, ofN_toNat]

theorem complement_low (ty : Ty) (a : Word) :
    ofN (2 ^ ty.width - 1 - a.toNat % 2 ^ ty.width) = ((~~~a).setWidth ty.width).setWidth 64 := by
  have hnot : (~~~a).setWidth ty.width = ~~~(a.setWidth ty.width) := by
    apply BitVec.eq_of_getLsbD_eq
    intro i hi
    simp [hi, hi.trans_le (width_le ty)]
  apply BitVec.eq_of_toNat_eq
  rw [hnot, toNat_ofN, BitVec.toNat_setWidth, BitVec.toNat_not, BitVec.toNat_setWidth]

theorem shlOp_eq (ty : Ty) :
    shlOp ty = fun a b => if ty.width ≤ b.toNat then 0 else ((a <<< b.toNat).setWidth ty.width).setWidth 64 := by
  funext a b
  have hshift : ofN (a.toNat * 2 ^ b.toNat) = a <<< b.toNat := by
    apply BitVec.eq_of_toNat_eq
    rw [toNat_ofN, BitVec.toNat_shiftLeft, Nat.shiftLeft_eq]
  rw [shlOp, ofN_mod_width, hshift]

theorem shrOp_eq (ty : Ty) :
    shrOp ty = fun (a b : Word) => if ty.width ≤ b.toNat then 0 else ((a.setWidth ty.width).setWidth 64) >>> b.toNat := by
  funext a b
  have hfit : 2 ^ ty.width ≤ 2 ^ 64 := Nat.pow_le_pow_right two_pos (width_le ty)
  have hlow : a.toNat % 2 ^ ty.width < 2 ^ 64 := (Nat.mod_lt _ (by positivity)).trans_le hfit
  have hshift : ofN (a.toNat % 2 ^ ty.width / 2 ^ b.toNat) = ((a.setWidth ty.width).setWidth 64) >>> b.toNat := by
    apply BitVec.eq_of_toNat_eq
    rw [toNat_ofN, BitVec.toNat_ushiftRight, BitVec.toNat_setWidth, BitVec.toNat_setWidth, Nat.shiftRight_eq_div_pow,
      Nat.mod_eq_of_lt hlow, Nat.mod_eq_of_lt ((Nat.div_le_self ..).trans_lt hlow)]
  rw [shrOp, hshift]

/-- Past w − 1 places a signed w-bit number is shifted to its sign. -/
theorem toInt_shiftRight_min {w : Nat} (x : BitVec w) (n : Nat) :
    x.toInt / 2 ^ min n (w - 1) = x.toInt >>> n := by
  have hlt := BitVec.toInt_lt (x := x)
  have hge := BitVec.le_toInt x
  rw [Int.shiftRight_eq_div_pow]
  rcases le_total n (w - 1) with hn | hn
  · rw [min_eq_left hn]
    norm_cast
  · rw [min_eq_right hn]
    have hpow : (2 : Int) ^ (w - 1) ≤ 2 ^ n := pow_le_pow_right₀ (by norm_num) hn
    have hpos : (0 : Int) < 2 ^ (w - 1) := by positivity
    push_cast
    rcases lt_or_ge x.toInt 0 with hneg | hnonneg
    · rw [Int.ediv_eq_neg_one_of_neg_of_le hneg (by omega), Int.ediv_eq_neg_one_of_neg_of_le hneg (by omega)]
    · rw [Int.ediv_eq_zero_of_lt hnonneg hlt, Int.ediv_eq_zero_of_lt hnonneg (by omega)]

theorem sarOp_eq (ty : Ty) :
    sarOp ty = fun a b => ((a.setWidth ty.width).sshiftRight b.toNat).signExtend 64 := by
  funext a b
  rw [sarOp, signExt_eq_toInt, BitVec.ofNat_toNat, toInt_shiftRight_min, ← BitVec.toInt_sshiftRight,
    ofInt_eq, BitVec.signExtend]

/-- The bits that leave a w-bit number at the top come in at the bottom, where the shift has left zeros. -/
theorem rotate_add_eq_or {w n x : Nat} (hn : n ≤ w) (hx : x < 2 ^ w) :
    x * 2 ^ n % 2 ^ w + x / 2 ^ (w - n) = x <<< n % 2 ^ w ||| x >>> (w - n) := by
  have hpow : 2 ^ w = 2 ^ (w - n) * 2 ^ n := by rw [← pow_add, Nat.sub_add_cancel hn]
  have hlow : x / 2 ^ (w - n) < 2 ^ n := Nat.div_lt_of_lt_mul (hpow ▸ hx)
  rw [Nat.shiftLeft_eq, Nat.shiftRight_eq_div_pow, hpow, Nat.mul_mod_mul_right, ← Nat.shiftLeft_eq,
    Nat.shiftLeft_add_eq_or_of_lt hlow]

theorem rotOp_eq (ty : Ty) :
    rotOp ty = fun (a b : Word) => ((a.setWidth ty.width).rotateLeft b.toNat).setWidth 64 := by
  funext a b
  have hn : b.toNat % ty.width ≤ ty.width := (Nat.mod_lt _ (width_pos ty)).le
  apply BitVec.eq_of_toNat_eq
  simp only [rotOp]
  rw [toNat_ofN, BitVec.toNat_setWidth, BitVec.toNat_rotateLeft, BitVec.toNat_setWidth,
    rotate_add_eq_or hn (Nat.mod_lt _ (by positivity))]

/-! ## Bit counts (R266) -/

theorem clzN_eq_takeWhile (w x : Nat) :
    clzN w x = ((List.range w).reverse.takeWhile (fun j => !x.testBit j)).length := by
  induction w with
  | zero => rfl
  | succ w ih =>
    rw [clzN, ih, List.range_succ, List.reverse_append]
    cases h : x.testBit w <;> simp [h, Nat.add_comm]

theorem ctzN_eq_takeWhile (w i x : Nat) :
    ctzN w i x = ((List.range' i w).takeWhile (fun j => !x.testBit j)).length := by
  induction w generalizing i with
  | zero => rfl
  | succ w ih =>
    rw [ctzN, ih, List.range'_succ]
    cases h : x.testBit i <;> simp [h, Nat.add_comm]

theorem ctzN_zero_eq_takeWhile (w x : Nat) :
    ctzN w 0 x = ((List.range w).takeWhile (fun j => !x.testBit j)).length := by
  rw [ctzN_eq_takeWhile, List.range_eq_range']

theorem popN_eq_countP (w x : Nat) : popN w x = (List.range w).countP (fun j => x.testBit j) := by
  induction w with
  | zero => rfl
  | succ w ih =>
    rw [popN, ih, List.range_succ, List.countP_append]
    cases h : x.testBit w <;> simp [h, Nat.add_comm]

theorem brev_eq (ty : Ty) (a : Word) :
    ofN (mkBits ty.width (fun k => a.toNat.testBit (ty.width - 1 - k))) = (a.setWidth ty.width).reverse.setWidth 64 := by
  apply BitVec.eq_of_getLsbD_eq
  intro i hi
  rw [getLsbD_ofN_mkBits (width_le ty)]
  by_cases hw : i < ty.width
  · have htop : ty.width - 1 - i < ty.width := by omega
    simp only [BitVec.getLsbD_setWidth, BitVec.getLsbD_reverse, BitVec.getMsbD, BitVec.testBit_toNat, hi, hw, htop,
      decide_true, Bool.true_and]
  · simp only [BitVec.getLsbD_setWidth, BitVec.getLsbD_reverse, BitVec.getMsbD, hw, decide_false, Bool.false_and,
      Bool.and_false]

/-- Settles O4: each instruction gives D the model's number of A and B, which is the bit-vector operation on the low w bits. -/
theorem logicShiftCountResults : Obligations.LogicShiftCountResults := by
  intro c o p
  simp only [← logicOp_and, ← logicOp_or, ← logicOp_xor, ← complement_low, ← shlOp_eq, ← shrOp_eq, ← sarOp_eq, ← rotOp_eq,
    ← brev_eq, ← BitVec.testBit_toNat, ← clzN_eq_takeWhile, ← ctzN_zero_eq_takeWhile, ← popN_eq_countP]
  exact ⟨gives_alu2 (exec_and c o), gives_aluI (exec_andImm c p), gives_alu2 (exec_or c o), gives_aluI (exec_orImm c p),
    gives_alu2 (exec_xor c o), gives_aluI (exec_xorImm c p), gives_alu1 (exec_not c o), gives_alu2 (exec_shl c o),
    gives_aluI (exec_shlImm c p), gives_alu2 (exec_shr c o), gives_aluI (exec_shrImm c p), gives_alu2 (exec_sar c o),
    gives_aluI (exec_sarImm c p), gives_alu2 (exec_rot c o), gives_aluI (exec_rotImm c p), gives_alu1 (exec_clz c o),
    gives_alu1 (exec_ctz c o), gives_alu1 (exec_popc c o), gives_alu1 (exec_brev c o)⟩

end Sys2Proof.Proofs
end

section
/-!
PROOFS. Comparison, selection and moves (spec/11_isa_compute.md R267 to R270), and lea.
-/

namespace Sys2Proof.Proofs

open Sys2Proof.Machine Sys2Proof.Safety Sys2Proof.Laws

/-! ## Instructions that write a word or an outcome of the state and the thread -/

theorem gives_sets {i : Instr} {c : Ctl} {d : Opnd} (g : State → Nat → Nat → Word)
    (h : ∀ s, exec i s = isa i c (fun s x => .adv (s.put x.w x.t d (g s x.w x.t))) s) :
    Gives i c (fun u => sets u d (fun s t => g s u.wg t)) := fun s _ hb => (h s).trans (isa_sets g hb)

theorem gives_setsBool {i : Instr} {c : Ctl} {d : Opnd} {pd : Nat} (b : State → Nat → Nat → Bool)
    (h : ∀ s, exec i s = isa i c (fun s x => .adv (putBool s x d pd (b s x.w x.t))) s) :
    Gives i c (fun u => setsBool u d pd (fun s t => b s u.wg t)) := fun s _ hb => (h s).trans (isa_setsBool b hb)

/-! ## Results -/

/-- The six conditions of cmp (R267). -/
theorem condInt_eq (cc : Nat) (x y : Int) :
    condInt cc x y =
      decide ((cc = 0 ∧ x = y) ∨ (cc = 1 ∧ x ≠ y) ∨ (cc = 2 ∧ x < y) ∨ (cc = 3 ∧ x ≤ y) ∨ (cc = 4 ∧ y < x) ∨
        (5 ≤ cc ∧ y ≤ x)) := by
  match cc with
  | 0 | 1 | 2 | 3 | 4 => simp [condInt, bne, Bool.beq_eq_decide_eq]
  | n + 5 => simp [condInt]

/-- The upper half of a word from the immediate, the lower half from A (R269). -/
theorem movh_word (imm : BitVec 32) (a : Word) :
    ofN ((ofN imm.toNat).toNat * 2 ^ 32 + a.toNat % 2 ^ 32) =
      (imm.setWidth 64 <<< 32) ||| ((a.setWidth 32).setWidth 64) := by
  have himm := imm.isLt
  have hlow : a.toNat % 2 ^ 32 < 2 ^ 32 := Nat.mod_lt _ (by norm_num)
  have hword : imm.toNat < 2 ^ 64 := by omega
  apply BitVec.eq_of_toNat_eq
  simp only [toNat_ofN, BitVec.toNat_or, BitVec.toNat_shiftLeft, BitVec.toNat_setWidth, Nat.mod_eq_of_lt hword,
    ← Nat.shiftLeft_eq, Nat.shiftLeft_add_eq_or_of_lt hlow, Nat.or_mod_two_pow]

theorem widen_eq_ite (ty : Ty) (a : Word) :
    widen ty a.toNat =
      if ty.isS then (a.setWidth ty.width).signExtend 64 else (a.setWidth ty.width).setWidth 64 := by
  cases h : ty.isS
  · simp [widen_unsigned h, BitVec.ofNat_toNat]
  · simp [widen_signed h, BitVec.ofNat_toNat]

theorem lea_word (a b z : Word) (k : Nat) : ofN (a.toNat + b.toNat * 2 ^ k + z.toNat) = a + (b <<< k) + z := by
  apply BitVec.eq_of_toNat_eq
  simp [toNat_ofN, BitVec.toNat_add, BitVec.toNat_shiftLeft, Nat.shiftLeft_eq]

theorem src_ite (s : State) (w t : Nat) (q : Prop) [Decidable q] (a b : Opnd) :
    s.src w t (if q then a else b) = if q then s.src w t a else s.src w t b := apply_ite (s.src w t) q a b

/-- sel reads the one operand that the predicate chooses (R268). -/
theorem execSel_eq (c : Ctl) (o : F3) (s : State) :
    exec (.sel c o) s = isa (.sel c o) c (fun s x => .adv (s.put x.w x.t o.d
      (if ((s.thread x.w x.t).map (fun th => th.pred (o.sub.toNat % 16))).getD true != o.sub.getLsbD 4
      then s.src x.w x.t o.a else s.src x.w x.t o.b))) s := by
  rw [exec_sel, execSel]
  congr 1
  funext s x
  rw [src_ite]
  rfl

/-- Settles O5: cmp by its six conditions, sel by the predicate of SUB, and the words that the moves give. -/
theorem compareSelectMoveResults : Obligations.CompareSelectMoveResults := by
  intro c o p
  simp only [← readTy_toNat, ← condInt_eq, ← immInt_eq, ← movh_word, ← widen_eq_ite, ← lea_word]
  refine ⟨?cmp, ?cmpImm, ?sel, gives_alu1 (exec_mov c o), ?movi, ?movh, gives_alu1 (exec_ext c o),
    gives_alu3 (exec_lea c o)⟩
  case cmp =>
    exact gives_setsBool (fun s w t => cmpOp o.ty (o.sub.toNat % 8) (s.src w t o.a) (s.src w t o.b)) (exec_cmp c o)
  case cmpImm =>
    exact gives_setsBool (fun s w t => cmpOp p.ty (p.sub.toNat % 8) (s.src w t p.a) (immInt p.ty p.imm)) (exec_cmpImm c p)
  case sel =>
    exact gives_sets (fun s w t =>
      if ((s.thread w t).map (fun th => th.pred (o.sub.toNat % 16))).getD true != o.sub.getLsbD 4
      then s.src w t o.a else s.src w t o.b) (execSel_eq c o)
  case movi => exact gives_sets (fun _ _ _ => immInt p.ty p.imm) (exec_movi c p)
  case movh =>
    exact gives_sets (fun s w t => ofN ((ofN p.imm.toNat).toNat * 2 ^ 32 + (s.src w t p.a).toNat % 2 ^ 32)) (exec_movh c p)

end Sys2Proof.Proofs
end

section
/-!
PROOFS. Packed elements, bit fields and bit matrices (spec/11_isa_compute.md R271 to R279): the elements and the bits of what
each operation writes.
-/

namespace Sys2Proof.Proofs

open Sys2Proof.Machine Sys2Proof.Safety Sys2Proof.Laws

/-! ## Elements of pack, unpack and swz (R271 to R273) -/

/-- An element of a packed register whose list of elements fills it. -/
theorem elem_ofN_packElems {w : Nat} {l : List Nat} (hfill : l.length = 64 / w) {k : Nat} (hk : k < l.length) :
    elem (ofN (packElems w l)).toNat w k = l[k] % 2 ^ w := by
  rw [toNat_ofN_packElems hfill, elem_packElems w l k hk]

/-- The elements of a width of at most 32 that one half of a register holds are half of those that it holds. -/
theorem two_mul_half_elems {ty : Ty} (h : ty.width ≤ 32) : 32 / ty.width + 32 / ty.width = 64 / ty.width := by
  cases ty <;> simp [Ty.width] at h ⊢

theorem half_elems_eq_double_width (w : Nat) : 32 / w = 64 / (2 * w) := by
  rw [← Nat.div_div_eq_div_mul]

/-- What pack makes of an element of twice the width. -/
def packNarrow (ty : Ty) (sat : Bool) (e : Nat) : Nat :=
  if !sat then e % 2 ^ ty.width
  else if ty.isS then wrapN (satS ty.width (signExt e (2 * ty.width))) ty.width else wrapN (satZ ty.width e) ty.width

theorem elem_packOp {ty : Ty} (hw : ty.width ≤ 32) (sat : Bool) (a b : Word) {k : Nat} (hk : k < 2 * (32 / ty.width)) :
    elem (packOp ty sat a b).toNat ty.width k =
      packNarrow ty sat (elem (if k < 32 / ty.width then a else b).toNat (2 * ty.width) (k % (32 / ty.width))) %
        2 ^ ty.width := by
  have hlen := two_mul_half_elems hw
  simp only [packOp, packNarrow]
  rw [elem_ofN_packElems (by simp [hlen]) (by simp; omega)]
  by_cases hlow : k < 32 / ty.width
  · simp [hlow, Nat.mod_eq_of_lt hlow]
  · have hmod : k % (32 / ty.width) = k - 32 / ty.width := by
      rw [Nat.mod_eq_sub_mod (by omega), Nat.mod_eq_of_lt (by omega)]
    simp [List.getElem_append, hlow, hmod]

theorem elem_unpackOp (ty : Ty) (hi : Bool) (a : Word) {k : Nat} (hk : k < 32 / ty.width) :
    elem (unpackOp ty hi a).toNat (2 * ty.width) k =
      wrapN (readTy ty (elem (if hi then a.toNat / 2 ^ 32 else a.toNat % 2 ^ 32) ty.width k)) (2 * ty.width) := by
  simp only [unpackOp]
  rw [elem_ofN_packElems (by simp [half_elems_eq_double_width]) (by simpa using hk)]
  simp only [List.getElem_map, List.getElem_range, wrapN_eq_toNat]
  exact Nat.mod_eq_of_lt (BitVec.isLt _)

theorem wrapN_natCast (x n : Nat) : wrapN x n = x % 2 ^ n := by
  rw [wrapN, ← Int.natCast_emod, Int.toNat_natCast]

/-- An element of a half is extended to twice its width: by its sign, or by zeros. -/
theorem wrapN_readTy_double (ty : Ty) (x i : Nat) :
    wrapN (readTy ty (elem x ty.width i)) (2 * ty.width) =
      if ty.isS then ((BitVec.ofNat ty.width (elem x ty.width i)).toInt % (2 : Int) ^ (2 * ty.width)).toNat
      else elem x ty.width i := by
  cases h : ty.isS
  · have hlt := elem_lt x ty.width i
    have hdouble : 2 ^ ty.width ≤ 2 ^ (2 * ty.width) := Nat.pow_le_pow_right two_pos (by omega)
    rw [readTy_unsigned h, BitVec.toNat_ofNat, wrapN_natCast, Nat.mod_eq_of_lt hlt, Nat.mod_eq_of_lt (hlt.trans_le hdouble)]
    rfl
  · rw [readTy_signed h, wrapN]
    push_cast
    rfl

theorem elem_swzOp (ty : Ty) (a b c : Word) {k : Nat} (hk : k < 64 / ty.width) :
    elem (swzOp ty a b c).toNat ty.width k =
      (let j := elem c.toNat 4 k
       if j < 64 / ty.width then elem a.toNat ty.width j
       else if j < 2 * (64 / ty.width) then elem b.toNat ty.width (j - 64 / ty.width) else 0) := by
  simp only [swzOp]
  rw [elem_ofN_packElems (by simp) (by simpa using hk)]
  simp only [List.getElem_map, List.getElem_range]
  split_ifs
  · exact Nat.mod_eq_of_lt (elem_lt ..)
  · exact Nat.mod_eq_of_lt (elem_lt ..)
  · rfl

/-! ## dot4 (R274) -/

theorem toInt_wrap32 (t : Int) : (ofInt (signExt (wrapN t 32) 32)).toInt = t.bmod (2 ^ 32) :=
  widen_wrapN_signed (ty := .s32) rfl t

theorem toInt_sat32 (t : Int) : (ofInt (satS 32 t)).toInt = max (-((2 : Int) ^ 31)) (min ((2 : Int) ^ 31 - 1) t) := by
  have hsat := satS_eq 32 t
  rw [ofInt_eq, BitVec.toInt_ofInt, Int.bmod_eq_of_le_mul_two, hsat] <;> rw [hsat] <;> norm_num <;> omega

theorem signExt_32 (c : Word) : signExt c.toNat 32 = (c.setWidth 32).toInt := by
  rw [signExt_eq_toInt, BitVec.ofNat_toNat]

/-! ## Bit fields (R275, R276) -/

/-- Bit j of a w-bit number of a type, extended without end. -/
def extendedBit (ty : Ty) (a : Word) (j : Nat) : Bool :=
  if j < ty.width then a.getLsbD j else ty.isS && a.getLsbD (ty.width - 1)

/-- The field of l bits at p of a number of a type. -/
def fieldOf (ty : Ty) (a : Word) (p l : Nat) : BitVec l := BitVec.ofInt l (readTy ty a.toNat / 2 ^ p)

theorem getLsbD_fieldOf (ty : Ty) (a : Word) (p : Nat) {l k : Nat} (hk : k < l) (hl : l ≤ ty.width) :
    (fieldOf ty a p l).getLsbD k = extendedBit ty a (p + k) := by
  have hkw : k < ty.width := hk.trans_le hl
  have htop : ty.width - 1 < ty.width := Nat.sub_lt (width_pos ty) one_pos
  cases h : ty.isS
  · have hfield : fieldOf ty a p l = (a.setWidth ty.width >>> p).setWidth l := by
      have hdiv : readTy ty a.toNat / 2 ^ p = (((a.setWidth ty.width >>> p).toNat : Nat) : Int) := by
        rw [readTy_toNat, if_neg (by simp [h]), BitVec.toNat_ushiftRight, Nat.shiftRight_eq_div_pow]
        norm_cast
      rw [fieldOf, hdiv, BitVec.ofInt_natCast, BitVec.ofNat_toNat]
    rw [hfield]
    simp [extendedBit, hk, h]
  · have hfield : fieldOf ty a p l = ((a.setWidth ty.width).sshiftRight p).signExtend l := by
      rw [fieldOf, readTy_toNat, if_pos h, BitVec.signExtend, BitVec.toInt_sshiftRight, Int.shiftRight_eq_div_pow]
      norm_cast
    rw [hfield, BitVec.getLsbD_signExtend, BitVec.getLsbD_sshiftRight, BitVec.msb_eq_getLsbD_last]
    simp only [BitVec.getLsbD_setWidth, extendedBit, hk, hkw, htop, h, hkw.not_ge, decide_true, decide_false, Bool.not_false,
      Bool.true_and, if_true]
    split_ifs with hin <;> simp [hin]

theorem bfxOp_eq (ty : Ty) (a b c : Word) :
    bfxOp ty a b c =
      (let f := fieldOf ty a (min (b.toNat % 256) ty.width) (min (c.toNat % 256) ty.width)
       if ty.isS then f.signExtend 64 else f.setWidth 64) := by
  simp only [bfxOp, fieldOf, wrapN_eq_toNat, signExt_eq_toInt, BitVec.ofNat_toNat, BitVec.setWidth_eq, ofInt_eq, ofN]
  rfl

theorem getLsbD_bfxOp (ty : Ty) (a b c : Word) {k : Nat} (hk : k < 64) :
    (bfxOp ty a b c).getLsbD k =
      (let p := min (b.toNat % 256) ty.width
       let l := min (c.toNat % 256) ty.width
       if k < l then extendedBit ty a (p + k) else decide (0 < l) && ty.isS && extendedBit ty a (p + l - 1)) := by
  rw [bfxOp_eq]
  generalize min (b.toNat % 256) ty.width = p
  have hl : min (c.toNat % 256) ty.width ≤ ty.width := min_le_right ..
  generalize min (c.toNat % 256) ty.width = l at hl
  have hl64 : l ≤ 64 := hl.trans (width_le ty)
  simp only
  by_cases hkl : k < l
  · rw [if_pos hkl, ← getLsbD_fieldOf ty a p hkl hl]
    cases ty.isS
    · simp only [Bool.false_eq_true, if_false, BitVec.getLsbD_setWidth, hk, decide_true, Bool.true_and]
    · simp only [if_true, BitVec.getLsbD_signExtend, hk, hkl, decide_true, Bool.true_and]
  · have hout : (fieldOf ty a p l).getLsbD k = false := BitVec.getLsbD_of_ge _ _ (not_lt.mp hkl)
    rw [if_neg hkl]
    cases hs : ty.isS
    · simp [hout]
    · rcases Nat.eq_zero_or_pos l with rfl | hpos
      · have hempty : fieldOf ty a p 0 = 0 := Subsingleton.elim _ _
        simp [hempty]
      · have hlast : p + l - 1 = p + (l - 1) := Nat.add_sub_assoc hpos p
        rw [hlast, ← getLsbD_fieldOf ty a p (Nat.sub_lt hpos one_pos) hl]
        simp only [if_true, BitVec.getLsbD_signExtend, hk, hkl, hpos, if_false, BitVec.msb_eq_getLsbD_last, decide_true,
          Bool.true_and]

theorem getLsbD_bfiOp (ty : Ty) (a b c e : Word) (k : Nat) :
    (bfiOp ty a b c e).getLsbD k =
      (let p := min (c.toNat % 256) ty.width
       let l := min (e.toNat % 256) ty.width
       decide (k < ty.width) && (if p ≤ k ∧ k < p + l then a.getLsbD (k - p) else b.getLsbD k)) := by
  simp only [bfiOp]
  rw [getLsbD_ofN_mkBits (width_le ty)]
  simp only [Bool.and_eq_true, decide_eq_true_eq]
  rfl

/-! ## Bit matrices (R277) -/

/-- The exclusive or of a list says whether an odd number of its members is true. -/
theorem foldl_xor_eq_countP (l : List Bool) (b : Bool) : l.foldl xor b = xor b (l.countP id % 2 == 1) := by
  induction l generalizing b with
  | nil => simp
  | cons x xs ih =>
    rw [List.foldl_cons, ih, List.countP_cons]
    rcases Nat.mod_two_eq_zero_or_one (xs.countP id) with h | h <;> cases x <;> simp [h, Nat.add_mod]

theorem getLsbD_bmm8Op (orOp : Bool) (a b : Word) {k : Nat} (hk : k < 64) :
    (bmm8Op orOp a b).getLsbD k =
      (let hits := (List.range 8).map (fun j => a.getLsbD (8 * (k / 8) + j) && b.getLsbD (8 * j + k % 8))
       if orOp then hits.any id else hits.countP id % 2 == 1) := by
  rw [bmm8Op, getLsbD_ofN_mkBits le_rfl]
  simp only [hk, decide_true, Bool.true_and, foldl_xor_eq_countP, Bool.false_xor, BitVec.testBit_toNat, Nat.mul_comm (k / 8)]

/-! ## Deposits, extracts and permutations of bits (R278, R279) -/

theorem foldl_add_eq_sum {α : Type} (taken : α → Bool) (g : α → Nat) (l : List α) (n : Nat) :
    l.foldl (fun r x => if taken x then r + g x else r) n = n + (l.map (fun x => if taken x then g x else 0)).sum := by
  induction l generalizing n with
  | nil => simp
  | cons x xs ih =>
    rw [List.foldl_cons, ih, List.map_cons, List.sum_cons]
    split_ifs <;> omega

theorem getLsbD_bpermOp (a : Word) (v : Nat → Word) {k : Nat} (hk : k < 64) :
    (bpermOp a ((List.range 6).map v)).getLsbD k =
      a.getLsbD ((List.range 6).map (fun j => if (v j).getLsbD k then 2 ^ j else 0)).sum := by
  have hidx : ((List.range 6).map v).zipIdx = (List.range 6).map (fun j => (v j, j)) := rfl
  rw [bpermOp, getLsbD_ofN_mkBits le_rfl, hidx,
    foldl_add_eq_sum (fun x : Word × Nat => x.1.toNat.testBit k) (fun x : Word × Nat => 2 ^ x.2)]
  simp only [hk, decide_true, Bool.true_and, Nat.zero_add, List.map_map, Function.comp_def, BitVec.testBit_toNat]

/-- The set places of the low w bits of a mask, ascending. -/
def maskPlaces (ty : Ty) (b : Word) : List Nat := (List.range ty.width).filter (fun j => b.getLsbD j)

theorem maskPlaces_nodup (ty : Ty) (b : Word) : (maskPlaces ty b).Nodup := List.nodup_range.filter _

theorem lt_width_of_mem_maskPlaces {ty : Ty} {b : Word} {j : Nat} (h : j ∈ maskPlaces ty b) : j < ty.width :=
  List.mem_range.mp (List.mem_filter.mp h).1

theorem maskPlaces_length_le (ty : Ty) (b : Word) : (maskPlaces ty b).length ≤ 64 :=
  ((List.length_filter_le ..).trans_eq List.length_range).trans (width_le ty)

theorem mem_zipIdx_maskPlaces {ty : Ty} {b : Word} {x : Nat × Nat} :
    x ∈ (maskPlaces ty b).zipIdx ↔ ∃ h : x.2 < (maskPlaces ty b).length, (maskPlaces ty b)[x.2] = x.1 := by
  rw [List.mem_zipIdx_iff_getElem?, List.getElem?_eq_some_iff]

/-- pdep moves bit i of A to the i-th place of the mask. -/
theorem testBit_pdep (ty : Ty) (a b : Word) (k : Nat) :
    (pdepOp ty a b).getLsbD k =
      (decide (k < 64) && (maskPlaces ty b).zipIdx.any (fun x => a.getLsbD x.2 && x.1 == k)) := by
  have h := testBit_foldl_add_two_pow Prod.fst (fun x : Nat × Nat => a.toNat.testBit x.2) (maskPlaces ty b).zipIdx
    (by rw [List.zipIdx_map_fst]; exact maskPlaces_nodup ty b) k
  rw [pdepOp, getLsbD_ofN]
  exact congrArg _ h

/-- pext moves the bit of A at the i-th place of the mask to place i. -/
theorem testBit_pext (ty : Ty) (a b : Word) (k : Nat) :
    (pextOp ty a b).getLsbD k =
      (decide (k < 64) && (maskPlaces ty b).zipIdx.any (fun x => a.getLsbD x.1 && x.2 == k)) := by
  have h := testBit_foldl_add_two_pow Prod.snd (fun x : Nat × Nat => a.toNat.testBit x.1) (maskPlaces ty b).zipIdx
    (List.nodup_zipIdx_map_snd _) k
  rw [pextOp, getLsbD_ofN]
  exact congrArg _ h

theorem getLsbD_pdepOp_place (ty : Ty) (a b : Word) {k : Nat} (hk : k < (maskPlaces ty b).length) :
    (pdepOp ty a b).getLsbD (maskPlaces ty b)[k] = a.getLsbD k := by
  have hlt : (maskPlaces ty b)[k] < 64 :=
    (lt_width_of_mem_maskPlaces (List.getElem_mem hk)).trans_le (width_le ty)
  rw [testBit_pdep, decide_eq_true hlt, Bool.true_and, Bool.eq_iff_iff, List.any_eq_true]
  constructor
  · rintro ⟨⟨j, i⟩, hmem, hx⟩
    obtain ⟨hi, hj⟩ := mem_zipIdx_maskPlaces.mp hmem
    simp only [Bool.and_eq_true, beq_iff_eq] at hx hj
    have hik : i = k := (maskPlaces_nodup ty b).getElem_inj_iff.mp (hj.trans hx.2)
    exact hik ▸ hx.1
  · exact fun ha => ⟨((maskPlaces ty b)[k], k), mem_zipIdx_maskPlaces.mpr ⟨hk, rfl⟩, by simp [ha]⟩

theorem getLsbD_pextOp_place (ty : Ty) (a b : Word) {k : Nat} (hk : k < (maskPlaces ty b).length) :
    (pextOp ty a b).getLsbD k = a.getLsbD (maskPlaces ty b)[k] := by
  have hlt : k < 64 := hk.trans_le (maskPlaces_length_le ty b)
  rw [testBit_pext, decide_eq_true hlt, Bool.true_and, Bool.eq_iff_iff, List.any_eq_true]
  constructor
  · rintro ⟨⟨j, i⟩, hmem, hx⟩
    obtain ⟨hi, hj⟩ := mem_zipIdx_maskPlaces.mp hmem
    simp only [Bool.and_eq_true, beq_iff_eq] at hx hj
    obtain ⟨ha, rfl⟩ := hx
    exact hj ▸ ha
  · exact fun ha => ⟨((maskPlaces ty b)[k], k), mem_zipIdx_maskPlaces.mpr ⟨hk, rfl⟩, by simp [ha]⟩

theorem getLsbD_pdepOp_off (ty : Ty) (a b : Word) {k : Nat} (hk : k ∉ maskPlaces ty b) :
    (pdepOp ty a b).getLsbD k = false := by
  have hnone : (maskPlaces ty b).zipIdx.any (fun x => a.getLsbD x.2 && x.1 == k) = false := by
    rw [List.any_eq_false]
    rintro ⟨j, i⟩ hmem hx
    simp only [Bool.and_eq_true, beq_iff_eq] at hx
    exact hk (hx.2 ▸ List.fst_mem_of_mem_zipIdx hmem)
  rw [testBit_pdep, hnone, Bool.and_false]

theorem getLsbD_pextOp_off (ty : Ty) (a b : Word) {k : Nat} (hk : (maskPlaces ty b).length ≤ k) :
    (pextOp ty a b).getLsbD k = false := by
  have hnone : (maskPlaces ty b).zipIdx.any (fun x => a.getLsbD x.1 && x.2 == k) = false := by
    rw [List.any_eq_false]
    rintro ⟨j, i⟩ hmem hx
    simp only [Bool.and_eq_true, beq_iff_eq] at hx
    exact hk.not_gt (hx.2 ▸ (mem_zipIdx_maskPlaces.mp hmem).1)
  rw [testBit_pext, hnone, Bool.and_false]

/-! ## The statement -/

/-- pack's elements, narrowed: modulo 2^w, or clamped to the type's range. -/
theorem packNarrow_wrap (ty : Ty) (e : Nat) : packNarrow ty false e = e % 2 ^ ty.width := rfl

theorem packNarrow_sat_signed {ty : Ty} (h : ty.isS = true) (e : Nat) :
    packNarrow ty true e =
      (max (-((2 : Int) ^ (ty.width - 1))) (min ((2 : Int) ^ (ty.width - 1) - 1) (BitVec.ofNat (2 * ty.width) e).toInt) %
        (2 : Int) ^ ty.width).toNat := by
  simp [packNarrow, h, wrapN, satS_eq, signExt_eq_toInt]

theorem packNarrow_sat_unsigned {ty : Ty} (h : ty.isS = false) (e : Nat) :
    packNarrow ty true e = min e (2 ^ ty.width - 1) := by
  have hpos : 0 < 2 ^ ty.width := by positivity
  have hclamp : satZ ty.width e = ((min e (2 ^ ty.width - 1) : Nat) : Int) := by
    have hcast : ((2 ^ ty.width : Nat) : Int) = 2 ^ ty.width := by norm_cast
    rw [satZ_eq, ← hcast]
    omega
  simp only [packNarrow, h, Bool.not_true, Bool.false_eq_true, if_false, hclamp, wrapN_natCast]
  exact Nat.mod_eq_of_lt (by omega)

theorem packNarrow_lt (ty : Ty) (sat : Bool) (e : Nat) : packNarrow ty sat e < 2 ^ ty.width := by
  simp only [packNarrow, wrapN_eq_toNat]
  split_ifs
  · exact Nat.mod_lt _ (by positivity)
  · exact BitVec.isLt _
  · exact BitVec.isLt _

/-- A byte of dot4, read at its type (R208). -/
theorem readTy_byte {ty : Ty} (h : ty.width = 8) (x : Word) (i : Nat) :
    readTy ty (elem x.toNat 8 i) =
      if ty.isS then (BitVec.ofNat 8 (elem x.toNat 8 i)).toInt else (elem x.toNat 8 i : Int) := by
  cases hs : ty.isS
  · rw [readTy_unsigned hs, h, BitVec.toNat_ofNat, Nat.mod_eq_of_lt (elem_lt ..)]
    rfl
  · rw [readTy_signed hs, h]
    rfl

/-- Settles O6: the elements that pack, unpack, swz and dot4 write, and the bits of the bit-field and bit-matrix results. -/
theorem packedAndBitFieldOperations : Obligations.PackedAndBitFieldOperations := by
  refine ⟨fun c o => ?effects, fun ty ea eb a b c k hi => ?elements, fun ty a b c e k v => ?bits⟩
  case effects =>
    exact ⟨gives_alu2 (exec_pack c o), gives_alu1 (exec_unpack c o), gives_alu3 (exec_swz c o), gives_alu3 (exec_dot4 c o),
      gives_alu3 (exec_bfx c o), gives_sets (fun s w t => bfiOp o.ty (s.src w t o.a) (s.src w t o.b) (s.src w t o.c)
        (s.src w t o.e)) (exec_bfi c o), gives_alu2 (exec_bmm8 c o), gives_alu2 (exec_pdep c o), gives_alu2 (exec_pext c o),
      gives_sets (fun s w t => bpermOp (s.src w t o.a) ((List.range 6).map (fun j => s.src w t (Opnd.plus o.b j))))
        (exec_bperm c o)⟩
  case elements =>
    refine ⟨fun hw hk => ⟨?_, fun hs => ?_, fun hs => ?_⟩, fun hw hk => ?_, fun ha hb => ?_⟩
    · rw [elem_packOp hw false a b hk, Nat.mod_eq_of_lt (packNarrow_lt ..), packNarrow_wrap]
    · rw [elem_packOp hw true a b hk, Nat.mod_eq_of_lt (packNarrow_lt ..), packNarrow_sat_signed hs]
    · rw [elem_packOp hw true a b hk, Nat.mod_eq_of_lt (packNarrow_lt ..), packNarrow_sat_unsigned hs]
    · rw [elem_unpackOp ty hi a hk, wrapN_readTy_double]
    · simp only [dot4Op, Bool.false_eq_true, if_false, if_true, toInt_wrap32, toInt_sat32, readTy_byte ha, readTy_byte hb,
        signExt_32, and_self]
  case bits =>
    refine ⟨elem_swzOp ty a b c, getLsbD_bfiOp ty a b c e k, getLsbD_bfxOp ty a b c, getLsbD_bpermOp a v, fun hk => ?_,
      fun hk => ?_, fun hk => ⟨getLsbD_pdepOp_place ty a b hk, getLsbD_pextOp_place ty a b hk⟩, getLsbD_pdepOp_off ty a b,
      getLsbD_pextOp_off ty a b⟩
    · simp [getLsbD_bmm8Op true a b hk, List.any_map]
    · simp [getLsbD_bmm8Op false a b hk, List.countP_map]

end Sys2Proof.Proofs
end

section
/-!
PROOFS. Floating-point instructions (spec/11_isa_compute.md R280 to R286), NaNs and exactly representable values
(spec/09_numbers.md R210, R211, R213), and the special arguments of the special functions (R217).
-/

namespace Sys2Proof.Proofs

open Sys2Proof.Machine Sys2Proof.Safety Sys2Proof.Laws

/-! ## Completion -/

/-- An instruction whose effect on its thread is act, where the effect stays within the thread. -/
theorem gives_act {i : Instr} {c : Ctl} {f : State → Ctx → Act} (act : Cur → State → Nat → List Nat → State)
    (h : ∀ s, exec i s = isa i c f s)
    (hf : ∀ u s (x : Ctx), x.w = u.wg → x.core = u.core → f s x = .adv (act u s x.t x.ts))
    (hk : ∀ u s t, Keeps u.wg t s (act u s t [t])) : Gives i c act :=
  fun s u hb => (h s).trans (isa_ran hb (hf u) (hk u))

/-- PD and D receive the class of A. -/
theorem gives_fclass (c : Ctl) (o : F3) :
    Gives (.fclass c o) c (fun u s t ts =>
      let k := fClass (fmtOf o.ty) (s.src u.wg t o.a).toNat
      (s.putPred u.wg ts o.pd.val ((k &&& (s.src u.wg t o.b).toNat % 512) != 0)).put u.wg t o.d (ofN k)) :=
  gives_act _ (exec_fclass c o) (fun u s x hw _ => by simp only [hw])
    (fun u s t => (keeps_putPred_one ..).trans (keeps_put ..))

/-- Settles O7: each instruction writes its function of the operands, on the scalar or on every element. -/
theorem floatArithmeticCompletes : Obligations.FloatArithmeticCompletes := by
  intro c o p
  exact ⟨gives_alu2 (exec_fadd c o), gives_aluI (exec_faddImm c p), gives_alu2 (exec_fsub c o),
    gives_aluI (exec_fsubImm c p), gives_alu2 (exec_fmul c o), gives_aluI (exec_fmulImm c p), gives_alu3 (exec_ffma c o),
    gives_alu2 (exec_fmin c o), gives_aluI (exec_fminImm c p), gives_alu2 (exec_fmax c o), gives_aluI (exec_fmaxImm c p),
    gives_setsBool (fun s w t => fcmpOp o.ty (o.sub.toNat % 8) (s.src w t o.a) (s.src w t o.b)) (exec_fcmp c o),
    gives_setsBool (fun s w t => fcmpOp p.ty (p.sub.toNat % 8) (s.src w t p.a) (immF p.ty p.imm)) (exec_fcmpImm c p),
    gives_fclass c o, gives_alu1 (exec_frnd c o), gives_alu1 (exec_cvt c o), gives_alu3 (exec_fdot2 c o)⟩

/-! ## NaNs (R210) and the order of the zeros (R213) -/

@[simp] theorem add_nan (mode : RM) (a : FP) : a.add mode .nan = .nan := by cases a <;> rfl
@[simp] theorem nan_mul (b : FP) : FP.nan.mul b = .nan := by cases b <;> rfl
@[simp] theorem mul_nan (a : FP) : a.mul .nan = .nan := by cases a <;> rfl
@[simp] theorem neg_nan : FP.nan.neg = .nan := rfl
@[simp] theorem isNan_nan : FP.nan.isNan = true := rfl

/-- A NaN has the greatest exponent and a fraction (R209). -/
theorem decodeF_eq_nan {f : Fmt} {x : Nat} (h : decodeF f x = .nan) :
    x % 2 ^ f.width / 2 ^ f.fw % 2 ^ f.ew = 2 ^ f.ew - 1 ∧ x % 2 ^ f.width % 2 ^ f.fw ≠ 0 := by
  simp only [decodeF] at h
  split_ifs at h with he hm
  exact ⟨he, hm⟩

theorem fClass_nan {f : Fmt} {x : Nat} (h : decodeF f x = .nan) : fClass f x = 256 := by
  obtain ⟨he, hm⟩ := decodeF_eq_nan h
  simp [fClass, he, hm]

/-- The canonical NaN is no infinity with a sign, so .sf leaves it: in a format with a fraction it lies between infinity
and the sign bit. -/
theorem limit_nanBits (g : Fmt) (sf : Bool) :
    (let s := g.nanBits / g.signBit * g.signBit
     if sf && g.nanBits - s == g.infBits then s + g.maxBits else g.nanBits) = g.nanBits := by
  obtain ⟨ew, fw⟩ := g
  have hpos : 1 ≤ 2 ^ ew := Nat.one_le_two_pow
  rcases fw with _ | fw
  · have hnan : (⟨ew, 0⟩ : Fmt).nanBits = 2 ^ ew := by simp [Fmt.nanBits, Fmt.infBits]; omega
    have hsign : (⟨ew, 0⟩ : Fmt).signBit = 2 ^ ew := by simp [Fmt.signBit]
    have hinf : (⟨ew, 0⟩ : Fmt).infBits = 2 ^ ew - 1 := by simp [Fmt.infBits]
    simp only [hnan, hsign, hinf, Fmt.maxBits, Nat.div_self hpos, Nat.one_mul, Nat.sub_self]
    split_ifs with h
    · simp only [Bool.and_eq_true, beq_iff_eq] at h
      omega
    · rfl
  · have hlt : (⟨ew, fw + 1⟩ : Fmt).nanBits < (⟨ew, fw + 1⟩ : Fmt).signBit := by
      have hfrac : 2 ^ fw < 2 ^ (fw + 1) := Nat.pow_lt_pow_right one_lt_two (Nat.lt_succ_self fw)
      have hsign : 2 ^ (ew + (fw + 1)) = (2 ^ ew - 1) * 2 ^ (fw + 1) + 2 ^ (fw + 1) := by
        rw [pow_add, ← Nat.succ_mul, Nat.succ_eq_add_one, Nat.sub_add_cancel hpos]
      simp only [Fmt.nanBits, Fmt.infBits, Fmt.signBit, Nat.add_sub_cancel, hsign]
      exact Nat.add_lt_add_left hfrac _
    have hfrac : 0 < 2 ^ fw := by positivity
    have hne : (⟨ew, fw + 1⟩ : Fmt).nanBits ≠ (⟨ew, fw + 1⟩ : Fmt).infBits := by
      simp only [Fmt.nanBits, Nat.add_sub_cancel]
      omega
    simp [Nat.div_eq_of_lt hlt, hne]

theorem fConv_nan {f : Fmt} {x : Nat} (h : decodeF f x = .nan) (g : Fmt) (mode : RM) (sf : Bool) :
    fConv f g mode sf x = g.nanBits := by
  simp only [fConv, h, roundF_nan]
  exact limit_nanBits g sf

theorem fMin_nan {f : Fmt} {x : Nat} (h : decodeF f x = .nan) (y : Nat) :
    fMin f x y = f.nanBits ∧ fMin f y x = f.nanBits := by
  simp [fMin, FP.min, h]

theorem fMax_nan {f : Fmt} {x : Nat} (h : decodeF f x = .nan) (y : Nat) :
    fMax f x y = f.nanBits ∧ fMax f y x = f.nanBits := by
  simp [fMax, FP.max, h]

/-! ## Values that a format holds (R211) -/

theorem roundStep_zero (mode : RM) (neg : Bool) (q : Nat) {d : Nat} (hd : 0 < d) : roundStep mode neg q 0 d = q := by
  cases mode <;> simp [roundStep, hd.ne]

theorem log2_mul_two_pow {m : Nat} (hm : 0 < m) (j : Nat) : Nat.log2 (m * 2 ^ j) = Nat.log2 m + j := by
  have hpos : 0 < 2 ^ j := by positivity
  rw [Nat.log2_eq_iff (Nat.mul_pos hm hpos).ne', pow_add, show Nat.log2 m + j + 1 = Nat.log2 m + 1 + j by omega, pow_add]
  exact ⟨Nat.mul_le_mul_right _ (Nat.log2_self_le hm.ne'), Nat.mul_lt_mul_of_pos_right Nat.lt_log2_self hpos⟩

theorem log2Q_two_pow {m : Nat} (hm : 0 < m) (j k : Nat) :
    log2Q (m * 2 ^ j) (2 ^ k) = (Nat.log2 m : Int) + j - k := by
  have hle : 2 ^ (Nat.log2 m + j) ≤ m * 2 ^ j := by
    rw [pow_add]
    exact Nat.mul_le_mul_right _ (Nat.log2_self_le hm.ne')
  simp only [log2Q, log2_mul_two_pow hm, Nat.log2_two_pow]
  push_cast
  by_cases hk : (0 : Int) ≤ (Nat.log2 m : Int) + j - k
  · have hexp : k + ((Nat.log2 m : Int) + j - k).toNat = Nat.log2 m + j := by omega
    simp only [if_pos hk, ← pow_add, hexp, hle, decide_true, if_true]
  · have hexp : Nat.log2 m + j + (-((Nat.log2 m : Int) + j - k)).toNat = k := by omega
    have hle' : 2 ^ k ≤ m * 2 ^ j * 2 ^ (-((Nat.log2 m : Int) + j - k)).toNat := by
      calc 2 ^ k = 2 ^ (Nat.log2 m + j) * 2 ^ (-((Nat.log2 m : Int) + j - k)).toNat := by rw [← pow_add, hexp]
        _ ≤ _ := Nat.mul_le_mul_right _ hle
    simp only [if_neg hk, hle', decide_true, if_true]

/-- A positive value m · 2^e whose exponent is the quantum of its rounding is not changed: its bits stand above the quantum. -/
theorem roundQ_exact (f : Fmt) (mode : RM) (neg : Bool) {m j k : Nat} (hm : 0 < m)
    (hq : max ((Nat.log2 m : Int) + j - k - f.fw) f.qmin = (j : Int) - k) (hjk : j = 0 ∨ k = 0) :
    roundQ f mode neg (m * 2 ^ j) (2 ^ k) =
      (if neg then f.signBit else 0) +
        (if f.infBits ≤ ((j : Int) - k - f.qmin).toNat * 2 ^ f.fw + m then overBits f mode neg
         else ((j : Int) - k - f.qmin).toNat * 2 ^ f.fw + m) := by
  have hn : m * 2 ^ j ≠ 0 := (Nat.mul_pos hm (by positivity)).ne'
  simp only [roundQ, if_neg hn, log2Q_two_pow hm, hq]
  rcases hjk with rfl | rfl
  · rcases Nat.eq_zero_or_pos k with rfl | hk
    · simp [roundStep_zero, Nat.mod_one]
    · have hneg : ¬(0 : Int) ≤ ((0 : Nat) : Int) - k := by omega
      have hexp : (-(((0 : Nat) : Int) - k)).toNat = k := by omega
      simp only [if_neg hneg, hexp, pow_zero, mul_one, Nat.mul_div_cancel m (Nat.two_pow_pos k), Nat.mul_mod_left,
        roundStep_zero mode neg m (Nat.two_pow_pos k)]
  · have hnonneg : (0 : Int) ≤ (j : Int) - ((0 : Nat) : Int) := by omega
    have hexp : ((j : Int) - ((0 : Nat) : Int)).toNat = j := by omega
    simp only [if_pos hnonneg, hexp, pow_zero, one_mul, Nat.mul_div_cancel m (Nat.two_pow_pos j), Nat.mul_mod_left,
      roundStep_zero mode neg m (Nat.two_pow_pos j)]

theorem roundF_exact (f : Fmt) (mode : RM) (neg : Bool) {m : Nat} {e : Int} (hm : 0 < m)
    (hq : max ((Nat.log2 m : Int) + e - f.fw) f.qmin = e) :
    roundF f mode (.fin neg m e) =
      (if neg then f.signBit else 0) +
        (if f.infBits ≤ (e - f.qmin).toNat * 2 ^ f.fw + m then overBits f mode neg
         else (e - f.qmin).toNat * 2 ^ f.fw + m) := by
  rcases le_or_gt 0 e with he | he
  · have hcast : ((e.toNat : Nat) : Int) - ((0 : Nat) : Int) = e := by omega
    have hround := roundQ_exact f mode neg hm (j := e.toNat) (k := 0)
      (by omega) (.inr rfl)
    simpa only [roundF, if_pos he, pow_zero, hcast] using hround
  · have hcast : ((0 : Nat) : Int) - (((-e).toNat : Nat) : Int) = e := by omega
    have hround := roundQ_exact f mode neg hm (j := 0) (k := (-e).toNat)
      (by omega) (.inl rfl)
    simpa only [roundF, if_neg he.not_ge, pow_zero, mul_one, hcast] using hround

/-- A bit pattern is its sign, its exponent and its fraction. -/
theorem bits_of_pattern (f : Fmt) {x : Nat} (h : x < 2 ^ f.width) :
    x = (if x.testBit (f.ew + f.fw) then f.signBit else 0) + (x / 2 ^ f.fw % 2 ^ f.ew * 2 ^ f.fw + x % 2 ^ f.fw) := by
  have hfrac := Nat.div_add_mod x (2 ^ f.fw)
  have hexp := Nat.div_add_mod (x / 2 ^ f.fw) (2 ^ f.ew)
  have htop : x / 2 ^ f.fw / 2 ^ f.ew = x / 2 ^ (f.ew + f.fw) := by
    rw [Nat.div_div_eq_div_mul, ← pow_add, Nat.add_comm]
  have hone : x / 2 ^ (f.ew + f.fw) < 2 := by
    apply Nat.div_lt_of_lt_mul
    rw [← pow_succ]
    exact h.trans_eq (by simp only [Fmt.width]; congr 1; omega)
  have hsign : (if x.testBit (f.ew + f.fw) then f.signBit else 0) = 2 ^ f.fw * (2 ^ f.ew * (x / 2 ^ f.fw / 2 ^ f.ew)) := by
    rw [htop, Nat.testBit_eq_decide_div_mod_eq, Fmt.signBit, Nat.mod_eq_of_lt hone, ← Nat.mul_assoc, ← pow_add,
      Nat.add_comm f.fw]
    interval_cases x / 2 ^ (f.ew + f.fw) <;> simp
  calc x = 2 ^ f.fw * (2 ^ f.ew * (x / 2 ^ f.fw / 2 ^ f.ew) + x / 2 ^ f.fw % 2 ^ f.ew) + x % 2 ^ f.fw := by
        rw [hexp, hfrac]
    _ = _ := by rw [hsign]; ring

/-- Rounding a value that a format holds gives its bits. -/
theorem roundF_decodeF (f : Fmt) (mode : RM) {x : Nat} (hx : x < 2 ^ f.width) (h : decodeF f x ≠ .nan) :
    roundF f mode (decodeF f x) = x := by
  have hbits := bits_of_pattern f hx
  have hfrac : x % 2 ^ f.fw < 2 ^ f.fw := Nat.mod_lt _ (by positivity)
  have hexp : x / 2 ^ f.fw % 2 ^ f.ew < 2 ^ f.ew := Nat.mod_lt _ (by positivity)
  simp only [decodeF, Nat.mod_eq_of_lt hx] at h ⊢
  generalize x.testBit (f.ew + f.fw) = s at *
  generalize x / 2 ^ f.fw % 2 ^ f.ew = e at *
  generalize x % 2 ^ f.fw = m at *
  by_cases htop : e = 2 ^ f.ew - 1
  · by_cases hm : m = 0
    · simp [htop, hm, roundF, hbits, Fmt.infBits]
    · exact absurd (by simp [htop, hm]) h
  · have hbelow : e + 1 ≤ 2 ^ f.ew - 1 := by omega
    have hinf : (e + 1) * 2 ^ f.fw ≤ f.infBits := Nat.mul_le_mul_right _ hbelow
    have hlt : e * 2 ^ f.fw + m < f.infBits := by
      calc e * 2 ^ f.fw + m < e * 2 ^ f.fw + 2 ^ f.fw := Nat.add_lt_add_left hfrac _
        _ = (e + 1) * 2 ^ f.fw := by ring
        _ ≤ _ := hinf
    rw [if_neg htop]
    by_cases he : e = 0
    · rcases Nat.eq_zero_or_pos m with hm | hm
      · simp [he, hm, hbits]
      · have hlog : Nat.log2 m < f.fw := (Nat.log2_lt hm.ne').mpr hfrac
        have hsmall : m < f.infBits := by simpa [he] using hlt
        rw [if_pos he, roundF_exact f mode s hm (by omega)]
        simp [hbits, he, hsmall.not_ge]
    · have hlog : Nat.log2 (2 ^ f.fw + m) = f.fw := by
        rw [Nat.log2_eq_iff (by positivity), pow_succ]
        omega
      have hquantum : (f.qmin + (e : Int) - 1 - f.qmin).toNat = e - 1 := by omega
      have hsum : (e - 1) * 2 ^ f.fw + (2 ^ f.fw + m) = e * 2 ^ f.fw + m := by
        obtain ⟨e, rfl⟩ := Nat.exists_eq_succ_of_ne_zero he
        simp only [Nat.succ_eq_add_one, Nat.add_sub_cancel]
        ring
      rw [if_neg he, roundF_exact f mode s (by positivity) (by rw [hlog]; omega), hquantum, hsum, if_neg hlt.not_ge, hbits]

/-- Settles O9: a NaN passes through every operation, the zeros are ordered by their signs, and a value that a format holds
rounds to its own bits. -/
theorem nansAndRounding : Obligations.NansAndRounding := by
  refine ⟨fun f g mode sf x y z hf => ⟨fun h => ?nan, ?minPosNeg, ?minNegPos, ?maxPosNeg, ?maxNegPos⟩,
    fun f mode x _ hx hnan => roundF_decodeF f mode hx hnan⟩
  case nan =>
    obtain ⟨hmin, hmin'⟩ := fMin_nan h y
    obtain ⟨hmax, hmax'⟩ := fMax_nan h y
    simp [fAdd, fSub, fMul, fFma, fSqrt, fRound, h, hmin, hmin', hmax, hmax', fConv_nan h, fClass_nan h]
  all_goals
    simp only [List.mem_cons, List.not_mem_nil, or_false] at hf
    rcases hf with rfl | rfl | rfl | rfl <;> rfl

/-! ## Special functions (R217, R286) -/

theorem specialFn_nan {f : Fmt} {x : Nat} (h : decodeF f x = .nan) (fn : Nat) : specialFn f fn x = f.nanBits := by
  simp [specialFn, h]

theorem specialFn_inf {f : Fmt} {x : Nat} {s : Bool} (h : decodeF f x = .inf s) (fn : Nat) :
    specialFn f fn x = specialArg f fn s true := by
  simp [specialFn, h]

theorem specialFn_zero {f : Fmt} {x : Nat} {s : Bool} {e : Int} (h : decodeF f x = .fin s 0 e) (fn : Nat) :
    specialFn f fn x = specialArg f fn s false := by
  simp [specialFn, h]

/-- log2 and rsqrt of an argument below 0. -/
theorem specialFn_negative {f : Fmt} {x m : Nat} {e : Int} (h : decodeF f x = .fin true m e) (hm : 0 < m) {fn : Nat}
    (hfn : fn = fnLog2 ∨ fn = fnRsqrt) : specialFn f fn x = f.nanBits := by
  rcases hfn with rfl | rfl <;> simp [specialFn, h, hm.ne', fnLog2, fnRsqrt, fnRcp]

/-- The infinities and the zeros of a format, as bits (R209). -/
structure SpecialBits (f : Fmt) : Prop where
  negInf : decodeF f (f.signBit + f.infBits) = .inf true
  posInf : decodeF f f.infBits = .inf false
  negZero : decodeF f f.signBit = .fin true 0 f.qmin
  posZero : decodeF f 0 = .fin false 0 f.qmin

theorem specialBits_of_mem {f : Fmt} (h : f ∈ [Fmt.f16, Fmt.bf16, Fmt.f32, Fmt.f64]) : SpecialBits f := by
  simp only [List.mem_cons, List.not_mem_nil, or_false] at h
  rcases h with rfl | rfl | rfl | rfl <;> exact ⟨rfl, rfl, rfl, rfl⟩

/-- What a function gives for −∞, −0, +0 and +∞. -/
theorem specialFn_row {f : Fmt} (h : SpecialBits f) (fn : Nat) :
    specialFn f fn (f.signBit + f.infBits) = specialArg f fn true true ∧
      specialFn f fn (f.signBit + 0) = specialArg f fn true false ∧
      specialFn f fn 0 = specialArg f fn false false ∧ specialFn f fn f.infBits = specialArg f fn false true ∧
      ∀ x, decodeF f x = .nan → specialFn f fn x = f.nanBits :=
  ⟨specialFn_inf h.negInf fn, specialFn_zero h.negZero fn, specialFn_zero h.posZero fn, specialFn_inf h.posInf fn,
    fun _ hx => specialFn_nan hx fn⟩

/-- The logarithm of one is +0. -/
theorem specialFn_log2_one {f : Fmt} (h : f ∈ [Fmt.f16, Fmt.bf16, Fmt.f32]) :
    specialFn f fnLog2 ((2 ^ (f.ew - 1) - 1) * 2 ^ f.fw) = 0 := by
  simp only [List.mem_cons, List.not_mem_nil, or_false] at h
  rcases h with rfl | rfl | rfl <;> decide

/-- Settles O10: the functions write their values, and their special arguments are cases of one table. -/
theorem specialFunctions : Obligations.SpecialFunctions := by
  refine ⟨fun c fn o => ?effects, fun f hf => ?table, ?rcp64⟩
  case effects =>
    exact ⟨gives_alu1 (exec_exp2 c fn o), gives_alu1 (exec_log2 c fn o), gives_alu1 (exec_rcp c fn o),
      gives_alu1 (exec_rsqrt c fn o), gives_alu1 (exec_sqrt c fn o), gives_alu1 (exec_sin c fn o),
      gives_alu1 (exec_cos c fn o), gives_alu1 (exec_tanh c fn o), gives_alu1 (exec_sigm c fn o), gives_alu1 (exec_erf c fn o)⟩
  case table =>
    have hbits : SpecialBits f := specialBits_of_mem (by simp only [List.mem_cons] at hf ⊢; tauto)
    have hrow := specialFn_row hbits
    exact ⟨hrow fnExp2, hrow fnLog2, hrow fnRcp, hrow fnRsqrt, hrow fnSin, hrow fnCos, hrow fnTanh, hrow fnErf, hrow fnSigm,
      fun x m e hx hm => ⟨specialFn_negative hx hm (.inl rfl), specialFn_negative hx hm (.inr rfl)⟩, specialFn_log2_one hf⟩
  case rcp64 => exact specialFn_row (specialBits_of_mem (by simp)) fnRcp

end Sys2Proof.Proofs
end

section
/-!
PROOFS. Random numbers, quantisation and lane instructions (spec/11_isa_compute.md R287 to R298).
-/

namespace Sys2Proof.Proofs

open Sys2Proof.Machine Sys2Proof.Safety Sys2Proof.Laws

/-! ## Random numbers, quantisation and lists of keys (R293 to R298) -/

theorem keeps_rngDraw (s : State) (w t : Nat) : Keeps w t s (s.rngDraw w t).2 := by
  unfold State.rngDraw
  split
  · exact keeps_modThread ..
  · exact .refl ..

theorem keeps_putGroup (s : State) (w t : Nat) (d : Opnd) (xs : List Word) : Keeps w t s (s.putGroup w t d xs) := by
  unfold State.putGroup
  generalize xs.zipIdx = l
  induction l generalizing s with
  | nil => exact .refl ..
  | cons x l ih => exact (keeps_put ..).trans (ih _)

theorem gives_rngDraw (c : Ctl) (o : F3) :
    Gives (.rngDraw c o) c (fun u s t _ => (s.rngDraw u.wg t).2.put u.wg t o.d (drawAs o.ty (s.rngDraw u.wg t).1)) :=
  gives_act _ (exec_rngDraw c o) (fun u s x hw _ => by simp only [hw])
    (fun u s t => (keeps_rngDraw ..).trans (keeps_put ..))

/-- The state after the draw of gmax, which greedy choice (SUB bit 0) leaves out (R296). -/
def gmaxState (o : F3) (s : State) (w t : Nat) : State := if o.sub.getLsbD 0 then s else (s.rngDraw w t).2

/-- The candidate of gmax: the score, with its noise. -/
def gmaxCandidate (o : F3) (s : State) (w t : Nat) : Nat :=
  let score := decodeF (fmtOf o.ty) (s.src w t o.a).toNat
  let noise := if o.sub.getLsbD 0 then FP.fin false 0 0 else decodeF .f32 (gumbel ((s.rngDraw w t).1 / 2 ^ 40))
  roundF .f32 .rn (if o.sub.getLsbD 0 then score else score.add .rn noise)

theorem keeps_gmaxState (o : F3) (s : State) (w t : Nat) : Keeps w t s (gmaxState o s w t) := by
  unfold gmaxState
  split
  · exact .refl ..
  · exact keeps_rngDraw ..

/-- What gmax leaves in its thread. -/
def gmaxAct (o : F3) (u : Cur) (s : State) (t : Nat) (ts : List Nat) : State :=
  let s' := gmaxState o s u.wg t
  let v := gmaxCandidate o s u.wg t
  if (decodeF .f32 ((s'.src u.wg t o.d).toNat / 2 ^ 32)).lt (decodeF .f32 v) then
    (s'.putPred u.wg ts o.pd.val true).put u.wg t o.d (ofN (v * 2 ^ 32 + (s'.src u.wg t o.b).toNat % 2 ^ 32))
  else s'.putPred u.wg ts o.pd.val false

theorem gives_gmax (c : Ctl) (o : F3) : Gives (.gmax c o) c (gmaxAct o) := by
  refine gives_act _ (exec_gmax c o) (fun u s x hw _ => ?_) (fun u s t => ?_)
  · have hbit : bit o.sub.toNat 0 = o.sub.getLsbD 0 := rfl
    simp only [gmaxAct, gmaxState, gmaxCandidate, hw, hbit, gmaxOp]
    by_cases hgreedy : o.sub.getLsbD 0 = true
    · simp only [hgreedy, if_true]
      split_ifs <;> rfl
    · simp only [hgreedy]
      split_ifs <;> rfl
  · simp only [gmaxAct]
    split_ifs
    · exact (keeps_gmaxState ..).trans ((keeps_putPred_one ..).trans (keeps_put ..))
    · exact (keeps_gmaxState ..).trans (keeps_putPred_one ..)

theorem gives_quant (c : Ctl) (o : F3) :
    Gives (.quant c o) c (fun u s t _ =>
      let b := if o.sub.getLsbD 0 then 4 else 8
      let sc := quantScale b (s.src u.wg t o.b).toNat
      let code := fun i => quantise b sc (decodeF (fmtOf o.ty) (elem (s.src u.wg t o.a).toNat o.ty.width i))
      (s.put u.wg t o.d (ofN (packElems b ((List.range (64 / o.ty.width)).map code)))).put u.wg t o.e (ofN sc)) :=
  gives_act _ (exec_quant c o) (fun u s x hw _ => by simp only [hw]; rfl)
    (fun u s t => (keeps_put ..).trans (keeps_put ..))

/-- What topk.ins leaves in its thread. -/
def topkAct (o : F3) (u : Cur) (s : State) (t : Nat) (ts : List Nat) : State :=
  let l := (List.range (o.sub.toNat % 16)).map (fun j => s.src u.wg t (Opnd.plus o.d j))
  let e := ofN ((s.src u.wg t o.a).toNat % 2 ^ 32 * 2 ^ 32 + (s.src u.wg t o.b).toNat % 2 ^ 32)
  match insertKey o.ty (o.sub.getLsbD 4) e l with
  | some r => (s.putPred u.wg ts o.pd.val true).putGroup u.wg t o.d r
  | none => s.putPred u.wg ts o.pd.val false

theorem gives_topkIns (c : Ctl) (o : F3) : Gives (.topkIns c o) c (topkAct o) := by
  refine gives_act _ (exec_topkIns c o) (fun u s x hw _ => ?_) (fun u s t => ?_)
  · have hbit : bit o.sub.toNat 4 = o.sub.getLsbD 4 := rfl
    simp only [topkAct, hw, hbit]
    generalize insertKey _ _ _ _ = r
    cases r <;> rfl
  · simp only [topkAct]
    split
    · exact (keeps_putPred_one ..).trans (keeps_putGroup ..)
    · exact keeps_putPred_one ..

/-- Every member of the group word is checked before D is written (R222, R298). -/
theorem exec_dequant_alone {c : Ctl} {o : F3} {s : State} {u : Cur} {t : Nat} (h : Alone s (.dequant c o) c u t) :
    let b := if o.sub.getLsbD 0 then 4 else 8
    let g := (s.src u.wg t o.b).toNat % 2 ^ 32
    let s1 := start s (.dequant c o) c u
    (badGroup b g = false → exec (.dequant c o) s = .next (goOn (s1.put u.wg t o.d (ofN (packElems o.ty.width
      ((List.range (64 / o.ty.width)).map (fun i =>
        roundF (fmtOf o.ty) .rn (groupElem g (elem (s.src u.wg t o.a).toNat b i))))))) u.wg t c)) ∧
    (badGroup b g = true → exec (.dequant c o) s = .next (s1.deliver u.wg u.pc 1 [{ t := t, code := 0x85, addr := 0 }])) := by
  have hb : codeWidth o.sub.toNat = if o.sub.getLsbD 0 then 4 else 8 := rfl
  rw [exec_dequant, execDequant, isa_alone h]
  constructor
  · intro hgood
    simp only [ctx, start_src, hb, hgood, Bool.false_eq_true, if_false, ended]
  · intro hbad
    simp only [ctx, start_src, hb, hbad, if_true, ended]
    rfl

theorem rngDraw_eq {s : State} {w t : Nat} {g : Workgroup} {th : Thread} (hg : s.wg w = some g)
    (hth : s.thread w t = some th) :
    (s.rngDraw w t).1 = drawFn (s.eff w).seed (g.idx * 2 ^ 11 + t) th.rngctr.toNat ∧
      (s.rngDraw w t).2.thread w t = some { th with rngctr := th.rngctr + 1 } := by
  simp [State.rngDraw, hg, hth]

/-- Settles O11: each effect stays within its thread, and dequant's fault is found before its result. -/
theorem drawSampleAndQuantise : Obligations.DrawSampleAndQuantise := by
  refine ⟨fun c o => ⟨gives_rngDraw c o, gives_gmax c o, gives_quant c o, gives_topkIns c o, fun s u t h => exec_dequant_alone h⟩,
    fun s w t g th hg hth => rngDraw_eq hg hth⟩

/-! ## Contributors and lanes (R287) -/

theorem contributors_eq {s : State} {u : Cur} (h : s.cur = some u) (c : Ctl) :
    s.contributors c = u.tids.filter (fun t => guardOf s u.wg t c) := by
  simp only [State.contributors, h]
  rfl

/-- Over contributors in distinct lanes, the contributor of a lane is the one that stands in it. -/
theorem inLane_of_mem {ts : List Nat} (hn : (ts.map (· % 32)).Nodup) {v : Nat} (hv : v ∈ ts) : inLane ts (v % 32) = some v := by
  induction ts with
  | nil => simp at hv
  | cons t ts ih =>
    rw [List.map_cons, List.nodup_cons] at hn
    rcases List.mem_cons.mp hv with rfl | hmem
    · simp [inLane]
    · have hne : t % 32 ≠ v % 32 := fun h => hn.1 (h ▸ List.mem_map_of_mem hmem)
      simpa [inLane, hne] using ih hn.2 hmem

theorem inLane_eq_none {ts : List Nat} {j : Nat} (h : ∀ v ∈ ts, v % 32 ≠ j) : inLane ts j = none := by
  rw [inLane, List.find?_eq_none]
  simpa using h

/-! ## shfl (R288) -/

/-- The source of an element of shfl: lane and element. -/
theorem shflSource_eq (mode n lane e : Nat) (b : Word) (h : mode < 4) :
    shflSource mode n lane e b =
      (if mode = 0 then ((elem b.toNat 8 e % 32 : Nat) : Int) else if mode = 1 then (lane : Int) + b.toInt
        else if mode = 2 then ((lane ^^^ (b.toNat % 32) : Nat) : Int) else ((lane : Int) + b.toInt) % 32,
       if mode = 0 then elem b.toNat 8 e / 32 % n else e) := by
  interval_cases mode <;> rfl

/-- One element of shfl and whether its source was found. -/
def shflElem (s : State) (w : Nat) (ts : List Nat) (t mode : Nat) (ty : Ty) (a b : Opnd) (e : Nat) : Nat × Bool :=
  let p := shflSource mode (64 / ty.width) (t % 32) e (s.src w t b)
  match (if 0 ≤ p.1 && p.1 < 32 then inLane ts p.1.toNat else none) with
  | some u => (elem (s.src w u a).toNat ty.width p.2, true)
  | none => (elem (s.src w t a).toNat ty.width e, false)

theorem shflOp_eq (s : State) (w : Nat) (ts : List Nat) (t mode : Nat) (ty : Ty) (a b : Opnd) :
    shflOp s w ts t mode ty a b =
      (ofN (packElems ty.width (((List.range (64 / ty.width)).map (shflElem s w ts t mode ty a b)).map (·.1))),
        ((List.range (64 / ty.width)).map (shflElem s w ts t mode ty a b)).all (·.2)) := rfl

theorem shflElem_lt (s : State) (w : Nat) (ts : List Nat) (t mode : Nat) (ty : Ty) (a b : Opnd) (e : Nat) :
    (shflElem s w ts t mode ty a b e).1 < 2 ^ ty.width := by
  simp only [shflElem]
  split <;> exact elem_lt ..

theorem elem_shflOp (s : State) (w : Nat) (ts : List Nat) (t mode : Nat) (ty : Ty) (a b : Opnd) {e : Nat}
    (he : e < 64 / ty.width) :
    elem (shflOp s w ts t mode ty a b).1.toNat ty.width e = (shflElem s w ts t mode ty a b e).1 := by
  rw [shflOp_eq]
  simp only
  rw [elem_ofN_packElems (by simp) (by simpa using he)]
  simp [Nat.mod_eq_of_lt (shflElem_lt ..)]

theorem shflElem_found {s : State} {w : Nat} {ts : List Nat} {t mode v e : Nat} {ty : Ty} {a b : Opnd}
    (hn : (ts.map (· % 32)).Nodup) (hv : v ∈ ts)
    (hlane : (shflSource mode (64 / ty.width) (t % 32) e (s.src w t b)).1 = ((v % 32 : Nat) : Int)) :
    (shflElem s w ts t mode ty a b e).1 =
      elem (s.src w v a).toNat ty.width (shflSource mode (64 / ty.width) (t % 32) e (s.src w t b)).2 := by
  have hrange : (decide ((0 : Int) ≤ ((v % 32 : Nat) : Int)) && decide (((v % 32 : Nat) : Int) < 32)) = true := by
    simp only [Bool.and_eq_true, decide_eq_true_eq]
    omega
  simp only [shflElem, hlane, hrange, if_true, Int.toNat_natCast, inLane_of_mem hn hv]

theorem shflElem_missing {s : State} {w : Nat} {ts : List Nat} {t mode e : Nat} {ty : Ty} {a b : Opnd}
    (hlane : ∀ v ∈ ts, ((v % 32 : Nat) : Int) ≠ (shflSource mode (64 / ty.width) (t % 32) e (s.src w t b)).1) :
    shflElem s w ts t mode ty a b e = (elem (s.src w t a).toNat ty.width e, false) := by
  simp only [shflElem]
  generalize (shflSource mode (64 / ty.width) (t % 32) e (s.src w t b)).1 = lane at hlane
  by_cases hrange : (decide ((0 : Int) ≤ lane) && decide (lane < 32)) = true
  · have hnone : inLane ts lane.toNat = none := inLane_eq_none (fun v hv h => hlane v hv (by
      simp only [Bool.and_eq_true, decide_eq_true_eq] at hrange
      omega))
    simp only [hrange, if_true, hnone]
  · simp only [hrange, if_false, Bool.false_eq_true]

/-! ## Integer sums (R291, R292) -/

/-- The sum of the operands that are there. -/
def presentSum (l : List (Option Nat)) : Nat := (l.map (·.getD 0)).sum

@[simp] theorem presentSum_cons (a : Option Nat) (l : List (Option Nat)) :
    presentSum (a :: l) = a.getD 0 + presentSum l := by simp [presentSum]

theorem combAbs_sum {ty : Ty} (hf : ty.isF = false) (a b : Option Nat) :
    (combAbs 0 ty a b).getD 0 ≡ a.getD 0 + b.getD 0 [MOD 2 ^ ty.width] := by
  cases a <;> cases b <;> simp [combAbs, combOp, hf, Nat.ModEq]

theorem treeLevel_sum {ty : Ty} (hf : ty.isF = false) (l : List (Option Nat)) :
    presentSum (treeLevel 0 ty l) ≡ presentSum l [MOD 2 ^ ty.width] := by
  induction l using treeLevel.induct with
  | case1 a b t ih =>
    simp only [treeLevel, presentSum_cons, ← Nat.add_assoc]
    exact (combAbs_sum hf a b).add ih
  | case2 t ht =>
    have hstop : treeLevel 0 ty t = t := by
      unfold treeLevel
      split
      · exact absurd rfl (ht _ _ _)
      · rfl
    rw [hstop]

theorem tree_sum {ty : Ty} (hf : ty.isF = false) (n : Nat) (l : List (Option Nat)) :
    presentSum (tree 0 ty n l) ≡ presentSum l [MOD 2 ^ ty.width] := by
  induction n generalizing l with
  | zero => rfl
  | succ n ih => exact (ih _).trans (treeLevel_sum hf l)

theorem treeLevel_length (op : Nat) (ty : Ty) (l : List (Option Nat)) :
    (treeLevel op ty l).length = (l.length + 1) / 2 := by
  induction l using treeLevel.induct with
  | case1 a b t ih => simp only [treeLevel, List.length_cons, ih]; omega
  | case2 t ht =>
    unfold treeLevel
    split
    · exact absurd rfl (ht _ _ _)
    · match t, ht with
      | [], _ => rfl
      | [a], _ => simp
      | a :: b :: t, ht => exact absurd rfl (ht a b t)

/-- Five levels reduce 32 lanes to one. -/
theorem tree_five_length (op : Nat) (ty : Ty) {l : List (Option Nat)} (h : l.length = 32) : (tree op ty 5 l).length = 1 := by
  simp [tree, treeLevel_length, h]

theorem head_of_length_one {l : List (Option Nat)} (h : l.length = 1) : ((l.head?).bind id).getD 0 = presentSum l := by
  obtain ⟨a, rfl⟩ := List.length_eq_one_iff.mp h
  simp [presentSum]

theorem foldl_combAbs_sum {ty : Ty} (hf : ty.isF = false) (l : List (Option Nat)) (a : Option Nat) :
    (l.foldl (combAbs 0 ty) a).getD 0 ≡ a.getD 0 + presentSum l [MOD 2 ^ ty.width] := by
  induction l generalizing a with
  | nil => exact Nat.ModEq.refl _
  | cons b l ih =>
    rw [List.foldl_cons, presentSum_cons, ← Nat.add_assoc]
    exact (ih _).trans ((combAbs_sum hf a b).add_right _)

theorem sum_range_single (n k x : Nat) (hk : k < n) : ((List.range n).map (fun j => if k = j then x else 0)).sum = x := by
  induction n with
  | zero => omega
  | succ n ih =>
    rw [List.sum_range_succ]
    rcases Nat.lt_succ_iff_lt_or_eq.mp hk with h | rfl
    · rw [ih h, if_neg h.ne, Nat.add_zero]
    · have hnone : (List.range k).map (fun j => if k = j then x else 0) = (List.range k).map (fun _ => 0) :=
        List.map_congr_left fun j hj => if_neg (List.mem_range.mp hj).ne'
      simp [hnone]

/-- Over contributors in distinct lanes, the sum over the lanes is the sum over the contributors. -/
theorem sum_lanes (x : Nat → Nat) {ts : List Nat} (hn : (ts.map (· % 32)).Nodup) :
    ((List.range 32).map (fun j => ((inLane ts j).map x).getD 0)).sum = (ts.map x).sum := by
  induction ts with
  | nil => simp [inLane]
  | cons t ts ih =>
    rw [List.map_cons, List.nodup_cons] at hn
    obtain ⟨hnew, hn⟩ := hn
    have hfree : inLane ts (t % 32) = none := inLane_eq_none fun v hv h => hnew (h ▸ List.mem_map_of_mem hv)
    have hsplit : ∀ j, ((inLane (t :: ts) j).map x).getD 0 =
        (if t % 32 = j then x t else 0) + ((inLane ts j).map x).getD 0 := by
      intro j
      by_cases hj : t % 32 = j
      · subst hj
        rw [hfree]
        simp [inLane]
      · simp [inLane, hj]
    simp only [hsplit, List.sum_map_add, sum_range_single 32 (t % 32) (x t) (Nat.mod_lt _ (by norm_num)), ih hn, List.map_cons,
      List.sum_cons]

theorem laneOperands_sum (s : State) (w : Nat) {ts : List Nat} (a : Opnd) (ty : Ty) (hn : (ts.map (· % 32)).Nodup) :
    presentSum (laneOperands s w ts a ty) ≡ (ts.map (fun t => (s.src w t a).toNat)).sum [MOD 2 ^ ty.width] := by
  have hsum : presentSum (laneOperands s w ts a ty) = (ts.map (fun t => (s.src w t a).toNat % 2 ^ ty.width)).sum := by
    rw [← sum_lanes _ hn, presentSum, laneOperands, List.map_map]
    rfl
  rw [hsum, Nat.ModEq, List.sum_nat_mod (ts.map (fun t => (s.src w t a).toNat)), List.map_map]
  rfl

theorem laneOperands_length (s : State) (w : Nat) (ts : List Nat) (a : Opnd) (ty : Ty) :
    (laneOperands s w ts a ty).length = 32 := by simp [laneOperands]

theorem canonNan_int {ty : Ty} (hf : ty.isF = false) (x : Nat) : canonNan ty x = x := by simp [canonNan, hf]

theorem reduceOp_sum (s : State) (w : Nat) {ts : List Nat} (a : Opnd) {ty : Ty} (hn : (ts.map (· % 32)).Nodup)
    (hf : ty.isF = false) :
    (reduceOp s w ts a 0 ty).toNat % 2 ^ ty.width = (ts.map (fun t => (s.src w t a).toNat)).sum % 2 ^ ty.width := by
  rw [reduceOp, toNat_widen_mod, canonNan_int hf, head_of_length_one (tree_five_length 0 ty (laneOperands_length ..))]
  exact (tree_sum hf 5 _).trans (laneOperands_sum s w a ty hn)

theorem scanOp_sum (s : State) (w : Nat) {ts : List Nat} (a : Opnd) {ty : Ty} (hn : (ts.map (· % 32)).Nodup)
    (hf : ty.isF = false) :
    (scanOp s w ts a 0 ty 31).toNat % 2 ^ ty.width = (ts.map (fun t => (s.src w t a).toNat)).sum % 2 ^ ty.width := by
  have hall : (laneOperands s w ts a ty).take (31 + 1) = laneOperands s w ts a ty :=
    List.take_of_length_le (laneOperands_length ..).le
  rw [scanOp, toNat_widen_mod, canonNan_int hf, hall]
  have hfold := foldl_combAbs_sum hf (laneOperands s w ts a ty) none
  rw [Option.getD_none, Nat.zero_add] at hfold
  exact hfold.trans (laneOperands_sum s w a ty hn)

/-! ## The statement -/

/-- The effect of a lane instruction is read from the state before any member writes. -/
theorem ran_putEach {i : Instr} {c : Ctl} {s : State} {u : Cur} {d : Opnd} {pd : Nat} {r : Nat → Word × Bool}
    {f : State → Ctx → Act} (hb : Bundle s i c u) (h : exec i s = isa i c f s)
    (hf : ∀ s' x, x.w = u.wg → f s' x = .adv ((s'.putPred u.wg x.ts pd (r x.t).2).put u.wg x.t d (r x.t).1)) :
    exec i s = .next (ran s i c u (fun s' t us => (s'.putPred u.wg us pd (r t).2).put u.wg t d (r t).1)) :=
  h.trans (isa_ran hb (fun s' x hw _ => hf s' x hw) (fun _ _ => (keeps_putPred_one ..).trans (keeps_put ..)))

theorem ran_setEach {i : Instr} {c : Ctl} {s : State} {u : Cur} {d : Opnd} {x : Nat → Word} {f : State → Ctx → Act}
    (hb : Bundle s i c u) (h : exec i s = isa i c f s)
    (hf : ∀ s' y, y.w = u.wg → f s' y = .adv (s'.put u.wg y.t d (x y.t))) :
    exec i s = .next (ran s i c u (sets u d (fun _ t => x t))) :=
  h.trans (isa_ran hb (fun s' y hw _ => hf s' y hw) (fun _ _ => keeps_put ..))

theorem voteOp_eq (mode n v : Nat) :
    voteOp mode n v = if mode = 0 then decide (v = n) else if mode = 1 then decide (v ≠ 0)
      else if mode = 2 then decide (v = 0 ∨ v = n) else decide (v = 0) := by
  match mode with
  | 0 | 1 | 2 => simp [voteOp, bne, Bool.beq_eq_decide_eq, Bool.decide_or]
  | m + 3 => simp [voteOp, Bool.beq_eq_decide_eq]

theorem low_bits_eq_iff (x y : Word) (w : Nat) :
    x.toNat % 2 ^ w = y.toNat % 2 ^ w ↔ x.setWidth w = y.setWidth w := by
  simp [BitVec.toNat_eq]

/-- Settles O12: the operands are those of the state before the instruction, and an integer sum over the lanes is the sum
over the contributors. -/
theorem laneExchanges : Obligations.LaneExchanges := by
  refine ⟨fun c o p s u => ?effects, fun s w ts t v mode e ty a b hn => ?results⟩
  case effects =>
    refine ⟨fun hb => ?_, fun hb => ?_, fun hb => ?_, fun hb => ?_, fun hb => ?_, fun hb => ?_, fun hb => ?_, fun hb => ?_⟩
    · exact ran_putEach hb (exec_shfl c o s) (fun s' x hw => by simp only [hw, contributors_eq hb.cur])
    · exact ran_putEach hb (exec_vote c o s) (fun s' x hw => by
        simp only [voteBy, hw, contributors_eq hb.cur, voteOp_eq])
    · exact ran_putEach hb (exec_voteImm c p s) (fun s' x hw => by
        simp only [voteBy, hw, contributors_eq hb.cur, voteOp_eq])
    · exact ran_putEach hb (exec_matchT c o s) (fun s' x hw => by
        simp only [hw, contributors_eq hb.cur, beq_eq_decide, low_bits_eq_iff])
    · exact ran_setEach hb (exec_redTeam c o s) (fun s' x hw => by simp only [hw, contributors_eq hb.cur])
    · exact ran_setEach hb (exec_redTeamImm c p s) (fun s' x hw => by simp only [hw, contributors_eq hb.cur])
    · exact ran_setEach hb (exec_scanTeam c o s) (fun s' x hw => by simp only [hw, contributors_eq hb.cur])
    · exact ran_setEach hb (exec_scanTeamImm c p s) (fun s' x hw => by simp only [hw, contributors_eq hb.cur])
  case results =>
    refine ⟨fun hm he hv hlane => ?_, fun hm he hlane => ?_, reduceOp_sum s w a hn, scanOp_sum s w a hn⟩
    · have hsource := shflSource_eq mode (64 / ty.width) (t % 32) e (s.src w t b) hm
      rw [elem_shflOp s w ts t mode ty a b he, shflElem_found hn hv (by rw [hsource]; exact hlane.symm), hsource]
    · have hmissing := shflElem_missing (a := a) (fun v hv => by
        rw [shflSource_eq mode (64 / ty.width) (t % 32) e (s.src w t b) hm]; exact hlane v hv)
      refine ⟨by rw [elem_shflOp s w ts t mode ty a b he, hmissing], ?_⟩
      rw [shflOp_eq]
      simp only [List.all_eq_false]
      exact ⟨_, List.mem_map_of_mem (List.mem_range.mpr he), by simp [hmissing]⟩

end Sys2Proof.Proofs
end

section
/-!
PROOFS. The checks of an access in their order and the end of an access that they refuse or hold back
(spec/02_address_spaces.md R24 to R28, R45; spec/12_isa_memory.md).
-/

namespace Sys2Proof.Proofs

open Sys2Proof.Machine Sys2Proof.Safety Sys2Proof.Laws

/-! ## The end of an instruction of one thread -/

section
variable {i : Instr} {c : Ctl} {act : State → Ctx → Act} {s s1 : State} {u : Cur} {t : Nat} (h : Alone s i c u t)
include h

theorem isa_alone_adv (hact : act (start s i c u) (ctx i c u t) = .adv s1) : isa i c act s = .next (goOn s1 u.wg t c) := by
  rw [isa_alone h, hact, ended]

theorem isa_alone_wait (hact : act (start s i c u) (ctx i c u t) = .wait s1) : isa i c act s = .next s1 := by
  rw [isa_alone h, hact, ended]

theorem isa_alone_fault {code addr : Nat} (hact : act (start s i c u) (ctx i c u t) = .trap code addr none s1) :
    isa i c act s = .next (faulted s1 u t code addr c) := by
  rw [isa_alone h, hact, ended, faulted, traps]

end

/-! ## The checks of an access (R45) -/

section
variable {s : State} {w : Nat} {ts : List Nat} {va n align : Nat} {acc : Acc} {ap : Aper} {ro : Bool} {g : Workgroup}

theorem check_misaligned (h : va % align ≠ 0) : check s w ts va n align acc ap ro = (.fail 0x2D va, s) := by
  simp [check, h]

section
variable (hg : s.wg w = some g) (h : va % align = 0)
include hg h

theorem check_bad (hp : place va = .bad) : check s w ts va n align acc ap ro = (.fail 0x21 va, s) := by
  simp [check, h, hg, hp]

theorem check_glob {a : Nat} (hp : place va = .glob a) :
    check s w ts va n align acc ap ro = if ap.glob then checkGlob s w ts a acc ro else (.fail 0x28 a, s) := by
  simp [check, h, hg, hp]

theorem check_scr {off : Nat} (hp : place va = .scr off) :
    check s w ts va n align acc ap ro =
      if !ap.scr then (.fail 0x28 va, s)
      else if g.scrSize < off + n then (.fail 0x24 (va + (g.scrSize - off)), s)
      else (.scratch w off, s) := by
  simp only [check, h, bne_self_eq_false, Bool.false_eq_true, if_false, hg, hp]

theorem check_win {j off : Nat} (hp : place va = .win j off) :
    check s w ts va n align acc ap ro = if ap.win then (checkWin s g j off n va, s) else (.fail 0x28 va, s) := by
  simp [check, h, hg, hp]

theorem check_cst {off : Nat} (hp : place va = .cst off) :
    check s w ts va n align acc ap ro =
      if !ap.cst then (.fail 0x28 va, s)
      else if (s.eff w).csize < off + n then (.fail 0x25 (va + ((s.eff w).csize - off)), s)
      else if 2 ^ 57 ≤ ((s.eff w).cbase + off) % 2 ^ 64 then (.fail 0x21 (((s.eff w).cbase + off) % 2 ^ 64), s)
      else checkGlob s w ts (((s.eff w).cbase + off) % 2 ^ 64) acc true := by
  simp only [check, h, bne_self_eq_false, Bool.false_eq_true, if_false, hg, hp]

end

theorem checkWin_none {k off : Nat} (h : tget g.windows k = none) : checkWin s g k off n va = .fail 0x26 va := by
  simp [checkWin, h]

theorem checkWin_revoked {k off : Nat} {win : HiveWin} (h : tget g.windows k = some win) (hr : win.revoked = true) :
    checkWin s g k off n va = .fail 0x27 va := by
  simp [checkWin, h, hr]

/-- A window that stands, onto a peer that is there (R27, R117). -/
theorem checkWin_peer {k off : Nat} {win : HiveWin} {q : Workgroup} (h : tget g.windows k = some win)
    (hr : win.revoked = false) (hq : s.wg win.peer = some q) :
    checkWin s g k off n va =
      if 8192 * q.grans.length < off + n then .fail 0x24 (va + (8192 * q.grans.length - off))
      else if q.resid = .saved then .wait else .scratch win.peer off := by
  simp [checkWin, h, hr, hq, Workgroup.scrSize]

end

/-! ## Instructions that begin with a check -/

/-- The effective address of a thread's access, BASE + INDEX + OFF or BASE + OFF, modulo 2^64 (R14). -/
def effAddr (s : State) (u : Cur) (t : Nat) (o : FM) : Nat :=
  (((s.src u.wg t o.base).toNat + (s.src u.wg t o.index).toNat + signExt o.off.toNat 24) % 2 ^ 64 : Int).toNat
def effAddrNoIndex (s : State) (u : Cur) (t : Nat) (o : FM) : Nat :=
  (((s.src u.wg t o.base).toNat + signExt o.off.toNat 24) % 2 ^ 64 : Int).toNat

@[simp] theorem memAddr_index (s : State) (i : Instr) (c : Ctl) (u : Cur) (t : Nat) (o : FM) :
    memAddr (start s i c u) (ctx i c u t) o true = effAddr s u t o := by
  simp only [memAddr, wrapN, if_true, ctx, start_src, effAddr]
  norm_cast

@[simp] theorem memAddr_noIndex (s : State) (i : Instr) (c : Ctl) (u : Cur) (t : Nat) (o : FM) :
    memAddr (start s i c u) (ctx i c u t) o false = effAddrNoIndex s u t o := by
  simp [memAddr, wrapN, ctx, effAddrNoIndex]

/-- An instruction ends in the fault that its check finds, and waits where its check does. -/
structure BeginsWith (act : State → Ctx → Act) (chk : State → Ctx → Chk × State) : Prop where
  fault : ∀ s x f a s1, chk s x = (.fail f a, s1) → act s x = .trap f a none s1
  wait : ∀ s x s1, chk s x = (.wait, s1) → act s x = .wait s1

/-- How an instruction over one thread ends whose check of a range is chk: in its fault, or waiting at the instruction. -/
def EndsAs (i : Instr) (c : Ctl) (s : State) (u : Cur) (t f a : Nat) (s1 : State) (chk : Chk × State) : Prop :=
  (chk = (.fail f a, s1) → exec i s = .next (faulted s1 u t f a c)) ∧ (chk = (.wait, s1) → exec i s = .next s1)

section
variable {i : Instr} {c : Ctl} {s s1 : State} {u : Cur} {t f a : Nat} (h : Alone s i c u t)
include h

theorem BeginsWith.ends {act : State → Ctx → Act} {chk : State → Ctx → Chk × State} (hb : BeginsWith act chk)
    (hexec : exec i s = isa i c act s) : EndsAs i c s u t f a s1 (chk (start s i c u) (ctx i c u t)) :=
  ⟨fun hchk => hexec.trans (isa_alone_fault h (hb.fault _ _ _ _ _ hchk)),
    fun hchk => hexec.trans (isa_alone_wait h (hb.wait _ _ _ hchk))⟩

theorem endsAs_load {o : FM} {p : Path} {ap : Aper} {ro : Bool} (hexec : exec i s = loadThrough i c o p ap ro s) :
    EndsAs i c s u t f a s1 (check (start s i c u) u.wg [t] (effAddr s u t o) (o.ty.width / 8) (o.ty.width / 8) .load ap ro) := by
  rw [← memAddr_index s i c]
  exact BeginsWith.ends h (chk := fun s x => check s x.w x.ts (memAddr s x o true) (o.ty.width / 8) (o.ty.width / 8) .load ap ro)
    ⟨fun _ _ _ _ _ h => by simp only [Ty.bytes, h], fun _ _ _ h => by simp only [Ty.bytes, h]⟩ hexec

theorem endsAs_atom {o : FM} {opc fn : Nat} (hexec : exec i s = atomThrough i c opc fn o s) :
    EndsAs i c s u t f a s1
      (check (start s i c u) u.wg [t] (effAddrNoIndex s u t o) (o.ty.width / 8) (o.ty.width / 8) .atomic Aper.ls false) := by
  rw [← memAddr_noIndex s i c]
  exact BeginsWith.ends h
    (chk := fun s x => check s x.w x.ts (memAddr s x o false) (o.ty.width / 8) (o.ty.width / 8) .atomic Aper.ls false)
    ⟨fun _ _ _ _ _ h => by simp only [Ty.bytes, h], fun _ _ _ h => by simp only [Ty.bytes, h]⟩ hexec

theorem endsAs_sync {o : FM} {op : State → Ctx → Aop} {fin : Fin1} {d : Opnd}
    (hexec : exec i s = isa i c (syncThrough i c o op fin d) s) :
    EndsAs i c s u t f a s1 (check (start s i c u) u.wg [t] (effAddrNoIndex s u t o) 64 64 .atomic Aper.g false) := by
  rw [← memAddr_noIndex s i c]
  exact BeginsWith.ends h (chk := fun s x => check s x.w x.ts (memAddr s x o false) 64 64 .atomic Aper.g false)
    ⟨fun _ _ _ _ _ h => by simp only [syncThrough, h], fun _ _ _ h => by simp only [syncThrough, h]⟩ hexec

end

section
variable {c : Ctl} {o : FM} {s s1 : State} {u : Cur} {t f a : Nat}

theorem endsAs_st (h : Alone s (.st c o) c u t) :
    EndsAs (.st c o) c s u t f a s1 (check (start s (.st c o) c u) u.wg [t] (effAddr s u t o) (o.ty.width / 8)
      (o.ty.width / 8) .store Aper.ls false) := by
  rw [← memAddr_index s (.st c o) c]
  exact BeginsWith.ends h
    (chk := fun s x => check s x.w x.ts (memAddr s x o true) (o.ty.width / 8) (o.ty.width / 8) .store Aper.ls false)
    ⟨fun _ _ _ _ _ h => by simp only [Ty.bytes, h], fun _ _ _ h => by simp only [Ty.bytes, h]⟩ (exec_st c o s)

theorem endsAs_cinv (h : Alone s (.cinv c o) c u t) :
    EndsAs (.cinv c o) c s u t f a s1
      (check (start s (.cinv c o) c u) u.wg [t] (effAddr s u t o) 1 1 .load Aper.g false) := by
  rw [← memAddr_index s (.cinv c o) c]
  exact BeginsWith.ends h (chk := fun s x => check s x.w x.ts (memAddr s x o true) 1 1 .load Aper.g false)
    ⟨fun _ _ _ _ _ h => by simp only [h], fun _ _ _ h => by simp only [h]⟩ (exec_cinv c o s)

theorem endsAs_cwb (h : Alone s (.cwb c o) c u t) :
    EndsAs (.cwb c o) c s u t f a s1
      (check (start s (.cwb c o) c u) u.wg [t] (effAddr s u t o) 1 1 .load Aper.g false) := by
  rw [← memAddr_index s (.cwb c o) c]
  exact BeginsWith.ends h (chk := fun s x => check s x.w x.ts (memAddr s x o true) 1 1 .load Aper.g false)
    ⟨fun _ _ _ _ _ h => by simp only [h], fun _ _ _ h => by simp only [h]⟩ (exec_cwb c o s)

end

/-- Settles O13: the check looks at its conditions in the order of R45, and each access ends in what its check says. -/
theorem accessChecksAndTheirFaults : Obligations.AccessChecksAndTheirFaults := by
  refine ⟨fun s w ts va n align acc ap ro g hg => ?checks, fun c fn o s u t f a s1 => ?ends⟩
  case checks =>
    refine ⟨check_misaligned, check_bad hg, ?_, ?_, ?_, ?_, ?_, ?_, ?_, ?_, ?_, ?_, ?_, ?_, ?_, ?_, ?_⟩
    · intro a h hp hap
      rw [check_glob hg h hp, hap]; rfl
    · intro a h hp hap
      rw [check_glob hg h hp, if_pos hap]
    · intro off h hp hap
      simp [check_scr hg h hp, hap]
    · intro off h hp hap hout
      simp [check_scr hg h hp, hap, Workgroup.scrSize, hout]
    · intro off h hp hap hin
      simp [check_scr hg h hp, hap, Workgroup.scrSize, hin.not_gt]
    · intro j off h hp hap
      rw [check_win hg h hp, hap]; rfl
    · intro j off h hp hap hw
      rw [check_win hg h hp, if_pos hap, checkWin_none hw]
    · intro j off win h hp hap hw hr
      rw [check_win hg h hp, if_pos hap, checkWin_revoked hw hr]
    · intro j off win q h hp hap hw hr hq hin hres
      rw [check_win hg h hp, if_pos hap, checkWin_peer hw hr hq, if_neg hin.not_gt, if_neg hres]
    · intro j off win q h hp hap hw hr hq hout
      rw [check_win hg h hp, if_pos hap, checkWin_peer hw hr hq, if_pos hout]
    · intro j off win q h hp hap hw hr hq hin hres
      rw [check_win hg h hp, if_pos hap, checkWin_peer hw hr hq, if_neg hin.not_gt, if_pos hres]
    · intro off h hp hap
      simp [check_cst hg h hp, hap]
    · intro off h hp hap hout
      simp [check_cst hg h hp, hap, hout]
    · intro off h hp hap hin hlow
      simp only [check_cst hg h hp, hap, hin.not_gt, hlow.not_ge, if_false, Bool.not_true, Bool.false_eq_true]
    · intro off h hp hap hin hhigh
      simp only [check_cst hg h hp, hap, hin.not_gt, hhigh, if_false, if_true, Bool.not_true, Bool.false_eq_true]
  case ends =>
    exact ⟨(endsAs_load · (exec_ld c o s)), (endsAs_load · (exec_ldRo c o s)), (endsAs_load · (exec_ldC c o s)),
      (endsAs_load · (exec_ldTl c o s)), endsAs_st, (endsAs_atom · (exec_atom c fn o s)), (endsAs_atom · (exec_atomF c fn o s)),
      (endsAs_atom · (exec_atomCas c o s)), (endsAs_atom · (exec_atomOrd c fn o s)), endsAs_cinv, endsAs_cwb,
      (endsAs_sync · (exec_acq c o s)), (endsAs_sync · (exec_acqGe c o s)), (endsAs_sync · (exec_acqX c o s))⟩

end Sys2Proof.Proofs
end

section
/-!
PROOFS. The end of a page walk (spec/02_address_spaces.md R37 to R39) in a state whose miss table lists a number twice.
-/

namespace Sys2Proof.Proofs

open Sys2Proof.Machine

/-! ## A core whose miss table lists the number 0 twice

No run makes such a table, as every miss is entered under a free number; the statement quantifies over every state. -/

/-- An access by a load that waits for page 0. -/
def twiceAsk : XAsk := { wg := 1, tids := [], va := 0, acc := .load, ro := false, user := false }

/-- A miss of page 0 of a root, with one access. -/
def twiceMiss (root : Nat) : Miss := { part := 0, asid := 0, root := root, page := 0, asks := [twiceAsk] }

/-- The leaf of page 0, which lets the access in. -/
def twiceLeaf : TlbEntry :=
  { asid := 0, part := 0, vpn := 0, size := 16, base := 0, host := false, cache := 0, rop := true, det := false,
    usr := true, x := true, w := true, r := true, mod := true }

/-- Core 0 with a miss of root 0 and a miss of root 1 under the number 0. -/
def twiceState : State := { cores := [(0, { misses := [(0, twiceMiss 0), (0, twiceMiss 1)] })] }

/-- The end of the walk of root 0 takes out the first entry of the number, and the entry of root 1 then stands under it. -/
theorem misses_endWalk_twice :
    tget ((twiceState.endWalk 0 (twiceMiss 0) twiceLeaf 0).core 0).misses 0 = some (twiceMiss 1) := rfl

/-- Refutes O14: the clause that a walk's end leaves no entry under the miss's number fails where the miss table of the state
lists that number twice, once for a page of another root, which the walk does not serve. -/
theorem not_translationAndPageWalks : ¬ Obligations.TranslationAndPageWalks := by
  rintro ⟨-, -, -, hevents⟩
  obtain ⟨-, -, -, -, -, -, -, -, hend, -⟩ :=
    hevents twiceState 0 0 0 0 0 0 (twiceMiss 0) twiceLeaf 0 0
  obtain ⟨l, -, hnone⟩ := hend rfl rfl rfl (by decide)
  rw [misses_endWalk_twice] at hnone
  cases hnone

end Sys2Proof.Proofs
end

section
/-!
PROOFS. Operations that an instruction opens, their requests, and the accesses that open them
(spec/03_memory_paths.md R38, R47, R48; spec/12_isa_memory.md R304 to R311).
-/

namespace Sys2Proof.Proofs

open Sys2Proof.Machine Sys2Proof.Safety Sys2Proof.Laws

/-! ## Operations and their pieces -/

theorem tmod_tset {α : Type} (t : Tab α) (i : Nat) (x : α) (f : α → α) : tmod (tset t i x) i f = tset t i (f x) := by
  rw [tmod_of_get f (tget_tset_same t i x), tset_tset]

theorem openOp_ctx (s : State) (i : Instr) (c : Ctl) (u : Cur) (t : Nat) (kind : OpKind) (d : Opnd) :
    s.openOp (ctx i c u t) i kind d = (s.nextId, withOp s (opOf s i u t kind d [])) := rfl

theorem setPieces_withOp (s : State) (i : Instr) (u : Cur) (t : Nat) (kind : OpKind) (d : Opnd) (ps : List Piece) :
    (withOp s (opOf s i u t kind d [])).setPieces s.nextId ps = withOp s (opOf s i u t kind d ps) := by
  simp [State.setPieces, State.modOp, withOp, tmod_tset, opOf]

section
variable (i : Instr) (c : Ctl) (u : Cur) (t : Nat)

@[simp] theorem ctx_w : (ctx i c u t).w = u.wg := rfl
@[simp] theorem ctx_t : (ctx i c u t).t = t := rfl
@[simp] theorem ctx_ts : (ctx i c u t).ts = [t] := rfl
@[simp] theorem ctx_core : (ctx i c u t).core = u.core := rfl

end

theorem bit_toNat {n : Nat} (x : BitVec n) (i : Nat) : bit x.toNat i = x.getLsbD i := rfl

/-- The operation that was opened last has its one piece, served as the answer of a look-up says. -/
def withPiece (id g n : Nat) (r : Loc × State) : State := r.2.setPieces id [{ va := g, n := n, loc := r.1 }]

/-- The state in which instruction i of a thread has opened an operation that has no piece yet. -/
def opening (s : State) (i : Instr) (u : Cur) (t : Nat) (kind : OpKind) (d : Opnd) : State := withOp s (opOf s i u t kind d [])

/-! ## Accesses of a scratchpad (R304, R306, R311) -/

section
variable {i : Instr} {c : Ctl} {o : FM} {s s1 : State} {u : Cur} {t : Nat} (h : Alone s i c u t)
include h

/-- The end of an access of a scratchpad that opens an operation of one piece: outstanding where the words it reads are good,
else the fault of the first bad one. -/
theorem scratchAct_ends {act : State → Ctx → Act} (hexec : exec i s = isa i c act s) {kind : OpKind} {d : Opnd}
    {w off n va : Nat} {p : Piece}
    (hact : act (start s i c u) (ctx i c u t) = scratchAct s1 w off n va (fun s =>
      .adv ((s.openOp (ctx i c u t) i kind d).2.setPieces (s.openOp (ctx i c u t) i kind d).1 [p]))) :
    (s1.scratchBad w off n = none →
      exec i s = .next (goOn (withOp s1 (opOf s1 i u t kind d [p])) u.wg t c)) ∧
    (∀ j, s1.scratchBad w off n = some j → exec i s = .next (traps s1 u t 0xE3 (va + j))) := by
  refine ⟨fun hgood => ?_, fun j hbad => ?_⟩
  · refine hexec.trans (isa_alone_adv h (hact.trans ?_))
    simp only [scratchAct, hgood, openOp_ctx, setPieces_withOp]
  · refine hexec.trans ((isa_alone_fault (code := 0xE3) (addr := va + j) h (hact.trans ?_)).trans rfl)
    simp only [scratchAct, hbad]

/-- What a load or an atomic of a scratchpad range does: as O15 says it, for an instruction that reads the range. -/
def ReadsScratch (i : Instr) (c : Ctl) (s s1 : State) (u : Cur) (t w off n va : Nat) (kind : OpKind) (d : Opnd) (act : ReqKind) : Prop :=
  (s1.scratchBad w off n = none →
    exec i s = .next (goOn (withOp s1 (opOf s1 i u t kind d [{ va := va, n := n, loc := .scratch w off, act := act }])) u.wg t c)) ∧
  (∀ j, s1.scratchBad w off n = some j → exec i s = .next (traps s1 u t 0xE3 (va + j)))

theorem load_scratch {w off : Nat} {p : Path} {ap : Aper} {ro : Bool} (hexec : exec i s = loadThrough i c o p ap ro s)
    (hchk : check (start s i c u) u.wg [t] (effAddr s u t o) (o.ty.width / 8) (o.ty.width / 8) .load ap ro
      = (.scratch w off, s1)) :
    ReadsScratch i c s s1 u t w off (o.ty.width / 8) (effAddr s u t o) (.mem (.load o.ty)) o.data .load :=
  scratchAct_ends h hexec (by simp only [Ty.bytes, ctx_w, ctx_ts, memAddr_index, hchk])

theorem atom_scratch {w off opc fn : Nat} (hexec : exec i s = atomThrough i c opc fn o s)
    (hchk : check (start s i c u) u.wg [t] (effAddrNoIndex s u t o) (o.ty.width / 8) (o.ty.width / 8) .atomic Aper.ls false
      = (.scratch w off, s1)) :
    ReadsScratch i c s s1 u t w off (o.ty.width / 8) (effAddrNoIndex s u t o) (.mem (.atomic (o.sub.getLsbD 0) o.ty))
      (if o.sub.getLsbD 0 then o.data else .vz)
      (.atomic (.rmw opc fn o.ty.code (s.src u.wg t o.index).toNat (if opc = 0x146 then (s.src u.wg t o.data).toNat else 0))) :=
  scratchAct_ends h hexec (by
    simp only [Ty.bytes, ctx_w, ctx_t, ctx_ts, memAddr_noIndex, hchk, bit_toNat, start_src]
    rfl)

end

theorem st_scratch {c : Ctl} {o : FM} {s s1 : State} {u : Cur} {t w off : Nat} (h : Alone s (.st c o) c u t)
    (hchk : check (start s (.st c o) c u) u.wg [t] (effAddr s u t o) (o.ty.width / 8) (o.ty.width / 8) .store Aper.ls false
      = (.scratch w off, s1)) :
    exec (.st c o) s = .next (goOn (withOp s1 (opOf s1 (.st c o) u t (.mem .store) .vz
      [{ va := effAddr s u t o, n := o.ty.width / 8, loc := .scratch w off,
         act := .store (leBytes (o.ty.width / 8) (s.src u.wg t o.data).toNat) }])) u.wg t c) :=
  (exec_st c o s).trans (isa_alone_adv h (by
    simp only [Ty.bytes, ctx_w, ctx_t, ctx_ts, memAddr_index, hchk, start_src, openOp_ctx, setPieces_withOp]))

/-! ## Accesses of global memory (R47, R48, R304 to R306, R311) -/

section
variable {i : Instr} {c : Ctl} {o : FM} {s s1 : State} {u : Cur} {t g : Nat} {ph : Phys} (h : Alone s i c u t)
include h

theorem load_glob {p : Path} {ap : Aper} {ro : Bool} (hexec : exec i s = loadThrough i c o p ap ro s)
    (hchk : check (start s i c u) u.wg [t] (effAddr s u t o) (o.ty.width / 8) (o.ty.width / 8) .load ap ro
      = (.glob g ph, s1)) {held : Prop}
    (hheld : held ↔ ((p = .ls ∨ p = .tile) ∧ s1.entryAhead u.wg t ph = true) ∨ (p = .tile ∧ 256 ≤ s1.staged u.core)) :
    (held → exec i s = .next s1) ∧
    (¬held → exec i s = .next (goOn (withPiece s1.nextId g (o.ty.width / 8)
      ((opening s1 i u t (.mem (.load o.ty)) o.data).loadLoc (ctx i c u t) c p ph g (o.ty.width / 8) s1.nextId 0)) u.wg t c)) := by
  have hb : ((p == .ls || p == .tile) && s1.entryAhead u.wg t ph || p == .tile && decide (256 ≤ s1.staged u.core)) = true ↔ held := by
    simp [hheld]
  refine ⟨fun hh => hexec.trans (isa_alone_wait h ?_), fun hh => hexec.trans (isa_alone_adv h ?_)⟩
  · simp only [Ty.bytes, ctx_w, ctx_t, ctx_ts, ctx_core, memAddr_index, hchk]
    exact if_pos (hb.2 hh)
  · simp only [Ty.bytes, ctx_w, ctx_t, ctx_ts, ctx_core, memAddr_index, hchk]
    exact if_neg (mt hb.1 hh)

/-- An atomic of global memory waits behind an ordered entry to the line, or discards its core's copy and asks the home slice, an
ordered one under the thread's key. -/
theorem atom_glob {opc fn : Nat} (hexec : exec i s = atomThrough i c opc fn o s)
    (hchk : check (start s i c u) u.wg [t] (effAddrNoIndex s u t o) (o.ty.width / 8) (o.ty.width / 8) .atomic Aper.ls false
      = (.glob g ph, s1)) {ordered : Bool}
    (hord : ordered = (ph.det && (s1.eff u.wg).det && orderSensitive opc fn (o.sub.getLsbD 0))) :
    (ordered = false ∧ s1.entryAhead u.wg t ph = true → exec i s = .next s1) ∧
    (¬(ordered = false ∧ s1.entryAhead u.wg t ph = true) →
      let s2 := opening s1 i u t (.mem (.atomic (o.sub.getLsbD 0) o.ty)) (if o.sub.getLsbD 0 then o.data else .vz)
      let s3 := if ph.host then s2 else s2.discard u.core .ls (fun l => l == lineOf ph.pa)
      let key := if ordered then (s3.thread u.wg t).map (fun th => (th.epoch.toNat, th.opidx.toNat)) else none
      let s4 := if ordered then s3.modThread u.wg t (fun th => { th with opidx := th.opidx + 1 }) else s3
      exec i s = .next (goOn (withPiece s1.nextId g (o.ty.width / 8) (s4.ask (ctx i c u t) s1.nextId 0
        (.atomic (.rmw opc fn o.ty.code (s.src u.wg t o.index).toNat (if opc = 0x146 then (s.src u.wg t o.data).toNat else 0)))
        ph g (o.ty.width / 8) none key c.ch.val)) u.wg t c)) := by
  have hb : (!ordered && s1.entryAhead u.wg t ph) = true ↔ ordered = false ∧ s1.entryAhead u.wg t ph = true := by simp
  refine ⟨fun hh => hexec.trans (isa_alone_wait h ?_), fun hh => hexec.trans (isa_alone_adv h ?_)⟩
  · simp only [Ty.bytes, ctx_w, ctx_t, ctx_ts, memAddr_noIndex, hchk, bit_toNat, ← hord]
    exact if_pos (hb.2 hh)
  · simp only [Ty.bytes, ctx_w, ctx_t, ctx_ts, ctx_core, memAddr_noIndex, hchk, bit_toNat, ← hord, start_src]
    exact if_neg (mt hb.1 hh)

end

/-- A store of global memory waits behind an ordered entry to the line, or passes its core's L1 and asks the home slice. -/
theorem st_glob {c : Ctl} {o : FM} {s s1 : State} {u : Cur} {t g : Nat} {ph : Phys} (h : Alone s (.st c o) c u t)
    (hchk : check (start s (.st c o) c u) u.wg [t] (effAddr s u t o) (o.ty.width / 8) (o.ty.width / 8) .store Aper.ls false
      = (.glob g ph, s1)) :
    (s1.entryAhead u.wg t ph = true → exec (.st c o) s = .next s1) ∧
    (s1.entryAhead u.wg t ph = false →
      let bytes := leBytes (o.ty.width / 8) (s.src u.wg t o.data).toNat
      exec (.st c o) s = .next (goOn (withPiece s1.nextId g (o.ty.width / 8)
        (((opening s1 (.st c o) u t (.mem .store) .vz).l1Store u.core ph bytes).ask (ctx (.st c o) c u t) s1.nextId 0
          (.store bytes) ph g (o.ty.width / 8) none none c.ch.val)) u.wg t c)) := by
  refine ⟨fun hh => (exec_st c o s).trans (isa_alone_wait h ?_), fun hh => (exec_st c o s).trans (isa_alone_adv h ?_)⟩
  · simp only [Ty.bytes, ctx_w, ctx_t, ctx_ts, memAddr_index, hchk, hh, if_true]
  · simp only [Ty.bytes, ctx_w, ctx_t, ctx_ts, ctx_core, memAddr_index, hchk, hh, start_src]
    rfl

/-- Settles O16: a store and an atomic of global memory, each by what it does where its check passes. -/
theorem globalStoresAndAtomicsIssue : Obligations.GlobalStoresAndAtomicsIssue := fun c fn o s _ _ _ _ _ =>
  ⟨fun h hchk => st_glob h hchk,
    fun h hchk => atom_glob h (exec_atom c fn o s) hchk rfl, fun h hchk => atom_glob h (exec_atomF c fn o s) hchk rfl,
    fun h hchk => atom_glob h (exec_atomCas c o s) hchk rfl, fun h hchk => atom_glob h (exec_atomOrd c fn o s) hchk rfl⟩

/-! ## The request of an access (R35, R38, R47, R57, R235) -/

/-- A request that a thread's access makes: what ask sends where no request of the bundle takes the access in. -/
def requestOf (s : State) (x : Ctx) (id piece : Nat) (kind : ReqKind) (ph : Phys) (va n : Nat) (fill : Option Path)
    (key : Option (Nat × Nat)) (hint : Nat) (tl : Bool) : Req :=
  { src := .core x.core, dst := s.home (s.partOf x.w) ph.pa, part := s.partOf x.w, kind := kind, ph := ph, n := n, va := va,
    op := some id, piece := piece, launch := (s.wg x.w).map (·.launch), fill := fill, key := key, bundle := s.issues,
    hint := hint, tl := tl }

theorem send_reqs (s : State) (r : Req) :
    tget (s.send r).2.reqs s.nextId = some { r with seq := s.nextSeq r.src r.dst, pred := s.predOf r } := by
  simp [State.send, State.newId, State.sendCopy, State.inject]

section
variable {s : State} {x : Ctx} {id piece va n hint : Nat} {kind : ReqKind} {ph : Phys} {fill : Option Path}
  {key : Option (Nat × Nat)} {tl : Bool}

theorem ask_fresh (h : ∀ e ∈ s.reqs, e.2.bundle ≠ s.issues) :
    s.ask x id piece kind ph va n fill key hint tl =
      (.net s.nextId, (s.send (requestOf s x id piece kind ph va n fill key hint tl)).2) := by
  have hm : s.merged (requestOf s x id piece kind ph va n fill key hint tl) = none := by
    refine List.find?_eq_none.2 fun e he => ?_
    simp [requestOf, h e he]
  unfold requestOf at hm
  simp only [State.ask, hm]
  rfl

theorem ask_joins {j : Nat} {q : Req} (hs : s.reqs = [(j, q)]) (hb : q.bundle = s.issues) (hop : q.op.isSome = true)
    (hk : q.kind = .load)
    (hsrc : q.src = .core x.core) (hdst : q.dst = s.home (s.partOf x.w) ph.pa) (hlaunch : q.launch = (s.wg x.w).map (·.launch))
    (hfill : q.fill = fill) (hhint : q.hint = hint) (htl : q.tl = tl)
    (hdet : q.ph.det = ph.det) (hc : q.ph.cache = ph.cache) (hl : sameLine q.ph ph = true) :
    s.ask x id piece .load ph va n fill key hint tl =
      (.net j, s.join j q { op := id, piece := piece, pa := ph.pa, va := va, n := n }) := by
  have hm : s.merged (requestOf s x id piece .load ph va n fill key hint tl) = some (j, q) := by
    simp [State.merged, hs, requestOf, hb, hop, hk, hsrc, hdst, hlaunch, hfill, hhint, htl, hdet, hc, hl, ReqKind.merges]
  unfold requestOf at hm
  simp only [State.ask, hm]

end

theorem hint_ne_six {p : Path} {c : Ctl} (h : c.ch.val ≠ 6) : p.hint c ≠ 6 := by
  cases hp : p == .cst <;> simp [Path.hint, hp, h]

theorem fills_hint (p : Path) (c : Ctl) :
    (if p.fills (p.hint c) then some p else none) =
      (if p = .ls ∧ (c.ch.val = 2 ∨ c.ch.val = 5) then none else some p : Option Path) := by
  cases p with
  | ls =>
    have : (c.ch.val == 2 || c.ch.val == 5) = decide (c.ch.val = 2 ∨ c.ch.val = 5) := by
      simp [Bool.beq_eq_decide_eq]
    by_cases h : c.ch.val = 2 ∨ c.ch.val = 5 <;> simp only [Path.fills, Path.hint, beq_self_eq_true, Bool.true_and] <;>
      simp [this, h]
  | _ => simp [Path.fills]

/-! ## Where a load is served (R47) -/

section
variable {s : State} {x : Ctx} {c : Ctl} {p : Path} {ph : Phys} {va n id : Nat}

theorem loadLoc_tile : s.loadLoc x c .tile ph va n id 0 = s.ask x id 0 .load ph va n none none 0 true := rfl

theorem loadLoc_uncached (hp : p ≠ .tile) (h : ph.host = true ∨ ph.cache ≠ 0) :
    s.loadLoc x c p ph va n id 0 = s.ask x id 0 .load ph va n none none (p.hint c) := by
  have hb : (ph.host || ph.cache != 0) = true := by simpa using h
  simp [State.loadLoc, hp, hb]

variable (hc : c.ch.val ≠ 6) (hp : p ≠ .tile) (hh : ph.host = false) (h0 : ph.cache = 0)
include hc hp hh h0

theorem loadLoc_hit {l : CLine} (hl : ((s.core x.core).cache p).find? (fun l => l.pa == lineOf ph.pa) = some l) :
    s.loadLoc x c p ph va n id 0 = (.hit ((l.data.drop (ph.pa - lineOf ph.pa)).take n),
      s.modCore x.core (fun k => k.setCache p (insertLine p false l (k.cache p)))) := by
  simp [State.loadLoc, hp, hh, h0, hl, hint_ne_six hc]

theorem loadLoc_miss (hl : ((s.core x.core).cache p).find? (fun l => l.pa == lineOf ph.pa) = none) :
    s.loadLoc x c p ph va n id 0 = s.ask x id 0 .load ph va n
      (if p = .ls ∧ (c.ch.val = 2 ∨ c.ch.val = 5) then none else some p) none (p.hint c) := by
  simp only [State.loadLoc, beq_iff_eq, hp, hh, h0, hl, hint_ne_six hc, fills_hint, if_false, bne_self_eq_false, Bool.or_self,
    Bool.false_eq_true]

end

/-- Settles O15: accesses of a scratchpad, loads through each path, and where a load is served. -/
theorem scratchpadAccessesAndLoads : Obligations.ScratchpadAccessesAndLoads := by
  refine ⟨fun c fn o s u t w off s1 => ?scratch, fun c o s u t g ph s1 => ?glob, fun s i u t c p ph va n id => ?served⟩
  case scratch =>
    have reads {i : Instr} {acc : Acc} {n va : Nat} {kind : OpKind} {d : Opnd} {act : ReqKind} (hacc : acc ≠ .store)
        (h : ReadsScratch i c s s1 u t w off n va kind d act) :
        ((acc = .store ∨ s1.scratchBad w off n = none) →
          exec i s = .next (goOn (withOp s1 (opOf s1 i u t kind d [{ va := va, n := n, loc := .scratch w off, act := act }])) u.wg t c)) ∧
        (∀ j, acc ≠ .store → s1.scratchBad w off n = some j → exec i s = .next (traps s1 u t 0xE3 (va + j))) :=
      ⟨fun hgood => h.1 (hgood.resolve_left hacc), fun j _ => h.2 j⟩
    exact ⟨fun h hchk => reads nofun (load_scratch h (exec_ld c o s) hchk),
      fun h hchk => reads nofun (load_scratch h (exec_ldTl c o s) hchk),
      fun h hchk => ⟨fun _ => st_scratch h hchk, fun _ hacc => absurd rfl hacc⟩,
      fun h hchk => reads nofun (atom_scratch h (exec_atom c fn o s) hchk),
      fun h hchk => reads nofun (atom_scratch h (exec_atomF c fn o s) hchk),
      fun h hchk => reads nofun (atom_scratch h (exec_atomCas c o s) hchk),
      fun h hchk => reads nofun (atom_scratch h (exec_atomOrd c fn o s) hchk)⟩
  case glob =>
    exact ⟨fun h hchk => load_glob h (exec_ld c o s) hchk Iff.rfl, fun h hchk => load_glob h (exec_ldRo c o s) hchk Iff.rfl,
      fun h hchk => load_glob h (exec_ldC c o s) hchk Iff.rfl, fun h hchk => load_glob h (exec_ldTl c o s) hchk Iff.rfl⟩
  case served =>
    intro x r hit hch
    refine ⟨fun hh h0 hp l hl => ?_, fun hb hh h0 hl => ?_, ?_, fun hb huncached => ?_⟩
    · have hr : r = _ := loadLoc_hit hch hp hh h0 hl
      simp [hr]
    · by_cases hp : p = .tile
      · subst hp
        have hr : r = _ := loadLoc_tile.trans (ask_fresh hb)
        rw [hr]
        exact ⟨rfl, _, send_reqs _ _, by simp [requestOf, x]⟩
      · have hr : r = _ := (loadLoc_miss hch hp hh h0 hl).trans (ask_fresh hb)
        rw [hr]
        exact ⟨rfl, _, send_reqs _ _, by simp [requestOf, x, hp]⟩
    · intro j q hs hbundle hsrc hdst hk hop hlaunch hhint htl hqh hq0 hdet hline hfill hp hh h0 hl
      subst hp
      have hr : r = _ := (loadLoc_miss (p := .ls) hch nofun hh h0 hl).trans
        (ask_joins hs hbundle hop hk hsrc hdst hlaunch (by simpa using hfill) hhint htl hdet (hq0.trans h0.symm)
          (by simp [sameLine, hqh, hh, hline]))
      rw [hr]
      exact ⟨rfl, rfl, by simp [State.join, hs, tset]⟩
    · by_cases hp : p = .tile
      · subst hp
        have hr : r = _ := loadLoc_tile.trans (ask_fresh hb)
        rw [hr]
        exact ⟨rfl, _, send_reqs _ _, rfl, rfl, rfl⟩
      · have hr : r = _ := (loadLoc_uncached hp huncached).trans (ask_fresh hb)
        rw [hr]
        exact ⟨rfl, _, send_reqs _ _, rfl, rfl, rfl⟩

end Sys2Proof.Proofs
end

section
/-!
PROOFS. The sampler, cache maintenance, fences, and operations on sync objects
(spec/12_isa_memory.md R307 to R310, R313; spec/06_ordering.md R119 to R125, R135).
-/

namespace Sys2Proof.Proofs

open Sys2Proof.Machine Sys2Proof.Safety Sys2Proof.Laws

/-! ## Sampler and cache maintenance (R307 to R310) -/

section
variable {c : Ctl} {o : FM} {s s1 : State} {u : Cur} {t g : Nat} {ph : Phys}

theorem smp_opens {q : F3} (h : Alone s (.smp c q) c u t) {ps : List (Option (Nat × Phys))}
    (hchk : checkTexels u.wg [t] (q.ty.width / 8)
      ((texels (q.sub.toNat % 4) (s.src u.wg t q.b).toNat).1.map
        (texelAddr (s.src u.wg t q.a).toNat (s.src u.wg t q.c).toNat (q.ty.width / 8))) (start s (.smp c q) c u) = (ps, false, none, s1)) :
    let tx := texels (q.sub.toNat % 4) (s.src u.wg t q.b).toNat
    let kind := OpKind.mem (if q.sub.toNat % 4 = 2 then .lin q.ty tx.2.1 tx.2.2 else .load q.ty)
    let l := samplePieces (ctx (.smp c q) c u t) c (q.ty.width / 8) s1.nextId 0 ps (opening s1 (.smp c q) u t kind q.d)
    exec (.smp c q) s = .next (goOn (l.2.setPieces s1.nextId l.1) u.wg t c) :=
  (exec_smp c q s).trans (isa_alone_adv h (by
    simp only [Ty.bytes, ctx_w, ctx_t, ctx_ts, start_src, hchk]
    rfl))

theorem fills_cacheNamed (k ch : Nat) :
    (cacheNamed k).fills ch = !decide (k = 0 ∧ (ch = 2 ∨ ch = 5)) := by
  match k with
  | 0 => simp [cacheNamed, Path.fills, Bool.beq_eq_decide_eq]
  | 1 => simp [cacheNamed, Path.fills]
  | k + 2 => simp [cacheNamed, Path.fills]

theorem cacheNamed_ne_ls (k : Nat) : (cacheNamed k != .ls) = decide (k ≠ 0) := by
  match k with
  | 0 => rfl
  | 1 => rfl
  | k + 2 => simp [cacheNamed]

/-- The answer of the check that a prefetch makes, and the fetch that it makes for the line. -/
def prefCheck (s : State) (c : Ctl) (o : FM) (u : Cur) (t : Nat) : Chk × State :=
  check (start s (.pref c o) c u) u.wg [t] (effAddr s u t o) 1 1 .load Aper.ls (decide (o.path.val ≠ 0))
def prefFetch (s : State) (c : Ctl) (o : FM) (u : Cur) (t g : Nat) (ph : Phys) : State :=
  s.fetchLine (ctx (.pref c o) c u t) (cacheNamed o.path.val)
    (!decide (o.path.val = 0 ∧ (c.ch.val = 2 ∨ c.ch.val = 5))) ph g c.ch.val

theorem exec_pref_alone (h : Alone s (.pref c o) c u t) :
    exec (.pref c o) s = .next (ended s (.pref c o) c u t (match prefCheck s c o u t with
      | (.wait, s) => .wait s
      | (.glob g ph, s) => .adv (if c.ch.val = 6 then
          (prefFetch s c o u t g ph).fetchNext (ctx (.pref c o) c u t) (cacheNamed o.path.val) ph g
        else prefFetch s c o u t g ph)
      | (_, s) => .adv s)) := by
  rw [exec_pref, execPref, isa_alone h]
  simp only [ctx_w, ctx_ts, memAddr_index, cacheNamed_ne_ls, fills_cacheNamed]
  rfl

theorem cinv_opens (h : Alone s (.cinv c o) c u t) (hpath : o.path.val < 3) (hhost : ph.host = false)
    (hchk : check (start s (.cinv c o) c u) u.wg [t] (effAddr s u t o) 1 1 .load Aper.g false = (.glob g ph, s1)) :
    let s2 := s1.discard u.core (cacheNamed o.path.val) (fun l => l == lineOf ph.pa)
    exec (.cinv c o) s = .next (goOn (withOp s2 (opOf s2 (.cinv c o) u t (.mem .plain) .vz
      [{ va := g, n := 0, loc := .hit [] }])) u.wg t c) :=
  (exec_cinv c o s).trans (isa_alone_adv h (by
    simp only [ctx_w, ctx_ts, ctx_core, memAddr_index, hchk, hpath.ne, hhost, if_false, Bool.false_eq_true, List.foldl_cons,
      List.foldl_nil, openOp_ctx, setPieces_withOp]))

theorem cwb_asks (h : Alone s (.cwb c o) c u t)
    (hchk : check (start s (.cwb c o) c u) u.wg [t] (effAddr s u t o) 1 1 .load Aper.g false = (.glob g ph, s1)) :
    exec (.cwb c o) s = .next (goOn (withPiece s1.nextId g 0 ((opening s1 (.cwb c o) u t (.mem .plain) .vz).ask
      (ctx (.cwb c o) c u t) s1.nextId 0 (.atomic .wb) ph g 0 none none)) u.wg t c) :=
  (exec_cwb c o s).trans (isa_alone_adv h (by
    simp only [ctx_w, ctx_ts, memAddr_index, hchk]
    rfl))

end

/-! ## Fences (R124, R125, R135, R424) -/

section
variable {c : Ctl} {fn : Fin 16} {o : F3} {s : State} {u : Cur} {t : Nat}

/-- What a fence with a clear scope does: from cg up it empties the L1, and fence.sys asks the host. -/
theorem exec_fence_alone (h : Alone s (.fence c fn o) c u t) :
    exec (.fence c fn o) s = .next (ended s (.fence c fn o) c u t (
      let s1 := start s (.fence c fn o) c u
      let x := ctx (.fence c fn o) c u t
      if s1.fenceClear x fn.val (s1.markOf x) = true then
        let s2 := if 3 ≤ fn.val then s1.discard u.core .ls (fun _ => true) else s1
        if fn.val = 5 then
          .wait ((withPiece s2.nextId 0 0 ((opening s2 (.fence c fn o) u t .hostRead .vz).ask x s2.nextId 0 .load
            { pa := 0, host := true, cache := 1 } 0 0 none none)).holdFor x s2.nextId)
        else .adv s2
      else .wait (s1.begun x (s1.markOf x)))) := by
  rw [exec_fence, execFence, isa_alone h]
  simp only [Bool.not_eq_true', ← Bool.not_eq_true, ite_not]
  rfl

theorem exec_fencePath_alone (h : Alone s (.fencePath c o) c u t) :
    exec (.fencePath c o) s = .next (ended s (.fencePath c o) c u t (
      let s1 := start s (.fencePath c o) c u
      let x := ctx (.fencePath c o) c u t
      if s1.fenceClear x 0 (s1.markOf x) = true then
        .adv ((s1.discard u.core .cst (fun _ => true)).discard u.core .smp (fun _ => true))
      else .wait (s1.begun x (s1.markOf x)))) := by
  rw [exec_fencePath, execFencePath, isa_alone h]
  simp only [Bool.not_eq_true', ← Bool.not_eq_true, ite_not]
  rfl

end

/-- Settles O17: the sampler, prefetch, cache maintenance and the fences, each by what it does. -/
theorem samplerCacheAndFences : Obligations.SamplerCacheAndFences := by
  have hcache (k : Nat) : (if k = 0 then Path.ls else if k = 1 then .smp else .cst) = cacheNamed k := by
    match k with
    | 0 => rfl
    | 1 => rfl
    | k + 2 => rfl
  refine ⟨fun c o q s u t g ph s1 => ?accesses, fun c fn o s u t => ?fences⟩
  case accesses =>
    simp only [hcache]
    refine ⟨fun ps h hchk => smp_opens h hchk, fun h => ⟨fun f a hk => ?_, fun w off hk => ?_, fun hk => ?_, fun h6 hk => ?_,
      fun h6 hk => ?_⟩, fun h hpath hhost hchk => cinv_opens h hpath hhost hchk, fun h hchk => cwb_asks h hchk⟩
    all_goals
      rw [exec_pref_alone h, show prefCheck s c o u t = _ from hk]
    · rfl
    · rfl
    · rfl
    · simp only [h6, if_false]
      rfl
    · dsimp only
      rw [if_pos h6]
      rfl
  case fences =>
    refine ⟨fun h hclear hfn => ?_, fun h hclear h3 h5 => ?_, fun h hclear h5 => ?_, fun h hclear => ?_, fun h hclear => ?_⟩
    · rw [exec_fence_alone h]
      simp only [show _ = true from hclear, if_true, hfn.not_ge, if_false, show fn.val ≠ 5 by omega]
      rfl
    · rw [exec_fence_alone h]
      simp only [show _ = true from hclear, if_true, h3, h5, if_false]
      rfl
    · rw [exec_fence_alone h]
      dsimp only at hclear ⊢
      rw [if_pos hclear, if_pos h5, if_pos (show 3 ≤ fn.val by omega)]
      rfl
    · rw [exec_fence_alone h]
      simp only [show ¬_ = true from hclear]
      rfl
    · rw [exec_fencePath_alone h]
      simp only [show _ = true from hclear, if_true]
      rfl

/-! ## Acquire and release (R121, R122, R313) -/

/-- A thread has asked the home slice of an object for an operation on it, and waits at the instruction until it is performed. -/
def sendsSync (s : State) (i : Instr) (c : Ctl) (u : Cur) (t g : Nat) (ph : Phys) (a : Aop) (f : Fin1) (d : Opnd) : State :=
  let s2 := opening s i u t (.mem f) d
  let s3 := if ph.host then s2 else s2.discard u.core .ls (fun l => l == lineOf ph.pa)
  (withPiece s.nextId g 64 (s3.ask (ctx i c u t) s.nextId 0 (.atomic a) ph g 64 none none c.ch.val)).holdFor (ctx i c u t) s.nextId

section
variable {s s1 : State} {i : Instr} {c : Ctl} {o : FM} {u : Cur} {t g : Nat} {ph : Phys} {f : Fin1} {d : Opnd}

/-- An operation that looks only at the threads and the launches is the same once its request is opened. -/
theorem syncThrough_glob {op : State → Ctx → Aop} {s0 : State} {a : Aop}
    (hchk : check s0 u.wg [t] (memAddr s0 (ctx i c u t) o false) 64 64 .atomic Aper.g false = (.glob g ph, s1))
    (hop : ∀ cores reqs, op { opening s1 i u t (.mem f) d with cores := cores, reqs := reqs } (ctx i c u t) = a) :
    syncThrough i c o op f d s0 (ctx i c u t) = .wait (sendsSync s1 i c u t g ph a f d) := by
  have hop' : op (if ph.host then opening s1 i u t (.mem f) d
      else (opening s1 i u t (.mem f) d).discard u.core .ls (fun l => l == lineOf ph.pa)) (ctx i c u t) = a := by
    split
    · exact hop _ _
    · exact hop _ _
  simp only [syncThrough, ctx_w, ctx_ts, hchk]
  simp only [sendsSync, ← hop']
  rfl

theorem sync_sends (h : Alone s i c u t) {op : State → Ctx → Aop} {a : Aop}
    (hexec : exec i s = isa i c (syncThrough i c o op f d) s)
    (hchk : check (start s i c u) u.wg [t] (effAddrNoIndex s u t o) 64 64 .atomic Aper.g false = (.glob g ph, s1))
    (hop : ∀ cores reqs, op { opening s1 i u t (.mem f) d with cores := cores, reqs := reqs } (ctx i c u t) = a) :
    exec i s = .next (sendsSync s1 i c u t g ph a f d) :=
  hexec.trans (isa_alone_wait h (syncThrough_glob (by rw [memAddr_noIndex]; exact hchk) hop))

/-- rel once the check passes: it waits for the core's stores and the thread's forwarded updates. -/
theorem exec_rel_alone (h : Alone s (.rel c o) c u t)
    (hchk : check (start s (.rel c o) c u) u.wg [t] (effAddrNoIndex s u t o) 64 64 .atomic Aper.g false = (.glob g ph, s1)) :
    let m := (start s (.rel c o) c u).markOf (ctx (.rel c o) c u t)
    exec (.rel c o) s = .next (ended s (.rel c o) c u t (
      if s1.doneStores u.core m && s1.forwardsDone u.wg t none m then
        syncThrough (.rel c o) c o (fun s x => let h := s.selfOf x; .rel h.1 h.2.1 h.2.2) .plain .vz s1 (ctx (.rel c o) c u t)
      else .wait (s1.begun (ctx (.rel c o) c u t) m))) := by
  rw [exec_rel, execRel, isa_alone h]
  simp only [ctx_w, ctx_ts, ctx_t, ctx_core, memAddr_noIndex, hchk]
  rfl

end

/-- A field of a word as a quotient. -/
theorem bits_eq (x hi lo : Nat) : bits x hi lo = x / 2 ^ lo % 2 ^ (hi + 1 - lo) := by rw [bits, Nat.shiftRight_eq_div_pow]

theorem bits_low (x n : Nat) : bits x n 0 = x % 2 ^ (n + 1) := by simp [bits]

/-- The holder that an object names: launch tag, workgroup index, thread index. -/
def holderOf (o : Nat) : Nat × Nat × Nat := (o / 2 ^ 103 % 2 ^ 24, o / 2 ^ 75 % 2 ^ 28, o / 2 ^ 64 % 2 ^ 11)

theorem holderOf_eq (o : Nat) : (bits o 126 103, bits o 102 75, bits o 74 64) = holderOf o := by
  simp only [bits_eq, holderOf, Nat.reduceAdd, Nat.reduceSub]

/-! ## Operations on a sync object at its home slice (R119, R121, R122) -/

section
variable {s : State} {r : Req} {bytes : List Byte} (hload : s.load r.ph 64 = .ok bytes)
include hload

theorem syncAt_bad (hbad : badObject (leNat bytes) = true) (a : Aop) : s.syncAt r a = (some (0xC0, [], []), s) := by
  simp only [State.syncAt, hload, hbad, if_true]

variable (hgood : badObject (leNat bytes) = false)
include hgood

theorem syncAt_acq : (s.syncAt r .acq).1 = some (0, leBytes 8 (leNat bytes % 2 ^ 64), []) := by
  simp only [State.syncAt, hload, hgood, Bool.false_eq_true, if_false, bits_low]

theorem syncAt_acqGe_reached {x : Nat} (h : x ≤ leNat bytes % 2 ^ 64) :
    (s.syncAt r (.acqGe x)).1 = some (0, leBytes 8 (leNat bytes % 2 ^ 64), []) := by
  simp only [State.syncAt, hload, hgood, Bool.false_eq_true, if_false, bits_low, Nat.reduceAdd, h, if_true]

theorem syncAt_acqGe_early {x : Nat} (h : leNat bytes % 2 ^ 64 < x) :
    s.syncAt r (.acqGe x) = (none, s.parkAcquire r (.acqGe x)) := by
  simp only [State.syncAt, hload, hgood, Bool.false_eq_true, if_false, bits_low, Nat.reduceAdd, h.not_ge]

theorem syncAt_acqX_free {l g t : Nat} (h : (leNat bytes).testBit 127 = false) :
    (s.syncAt r (.acqX l g t)).1 = some (0, leBytes 8 (leNat bytes % 2 ^ 64), []) := by
  simp only [State.syncAt, hload, hgood, Bool.false_eq_true, if_false, bits_low, bit, h]

theorem syncAt_acqX_held {l g t : Nat} (h : (leNat bytes).testBit 127 = true) :
    s.syncAt r (.acqX l g t) =
      if holderOf (leNat bytes) = (l, g, t) then (some (0xC1, [], []), s) else (none, s.parkAcquire r (.acqX l g t)) := by
  simp only [State.syncAt, hload, hgood, Bool.false_eq_true, if_false, holderOf_eq, bit, h, if_true, beq_iff_eq]

theorem syncAt_rel {l g t : Nat} :
    s.syncAt r (.rel l g t) =
      if (leNat bytes).testBit 127 = true ∧ holderOf (leNat bytes) ≠ (l, g, t) then (some (0xC2, [], []), s)
      else (some (0, [], []), s.relAt r ((leNat bytes % 2 ^ 64 + 1) % 2 ^ 64) ((leNat bytes).testBit 127)) := by
  simp only [State.syncAt, hload, hgood, Bool.false_eq_true, if_false, holderOf_eq, bits_low, bit, Bool.and_eq_true, bne_iff_ne]

end

/-! ## Bindings (R120) -/

section
variable {c : Ctl} {o : F3} {s s1 s2 : State} {u : Cur} {t g : Nat} {ph : Phys}

/-- The look-up of the pages of a binding that sync.bind makes. -/
def bindLooks (s s1 : State) (c : Ctl) (o : F3) (u : Cur) (t : Nat) (ph : Phys) : Except (Nat × Nat) Binding × State :=
  (ctx (.syncBind c o) c u t).asks s1 (fun s2 => bindChecks s2 u.wg (s.src u.wg t o.a).toNat ph (s2.src u.wg t o.b).toNat
    (s2.src u.wg t o.c).toNat)

theorem exec_syncBind_alone (h : Alone s (.syncBind c o) c u t)
    (hchk : check (start s (.syncBind c o) c u) u.wg [t] (s.src u.wg t o.a).toNat 64 64 .atomic Aper.g false = (.glob g ph, s1)) :
    exec (.syncBind c o) s = .next (ended s (.syncBind c o) c u t (match bindLooks s s1 c o u t ph with
      | (.error (0, _), s) => .wait (s.parkHost u.wg [t])
      | (.error (f, ad), s) => .trap f ad none s
      | (.ok b, s) => .adv (s.modPart (s.partOf u.wg) (fun q => { q with bindings := q.bindings ++ [b] })))) := by
  rw [exec_syncBind, execSyncBind, isa_alone h]
  simp only [ctx_w, ctx_ts, ctx_t, start_src, hchk]
  rfl

/-- Whether sync.unbind names a binding. -/
def unbindNames (s : State) (o : F3) (u : Cur) (t : Nat) (b : Binding) : Bool :=
  decide (b.obj = (s.src u.wg t o.a).toNat ∧ b.base = (s.src u.wg t o.b).toNat ∧ b.size = (s.src u.wg t o.c).toNat ∧
    b.asid = (s.eff u.wg).asid ∧ b.region = none)

theorem exec_syncUnbind_alone (h : Alone s (.syncUnbind c o) c u t) :
    exec (.syncUnbind c o) s = .next (ended s (.syncUnbind c o) c u t (
      let s1 := start s (.syncUnbind c o) c u
      if (s.part (s.partOf u.wg)).bindings.any (unbindNames s o u t) then
        .adv (s1.modPart (s.partOf u.wg) (fun q => { q with bindings := q.bindings.filter (fun b => !unbindNames s o u t b) }))
      else .trap 0xC6 0 none s1)) := by
  have hsame (b : Binding) : (b.obj == (s.src u.wg t o.a).toNat && b.base == (s.src u.wg t o.b).toNat &&
      b.size == (s.src u.wg t o.c).toNat && b.asid == (s.eff u.wg).asid && b.region.isNone) = unbindNames s o u t b := by
    rw [Bool.eq_iff_iff]
    simp [unbindNames, and_assoc]
  rw [exec_syncUnbind, execSyncUnbind, isa_alone h]
  simp only [ctx_w, ctx_t, start_src, start_eff, start_part, start_partOf, hsame]

theorem part_goOn (s : State) (w t : Nat) (c : Ctl) (p : Nat) : (goOn s w t c).part p = s.part p := rfl

theorem syncUnbind_removes (h : Alone s (.syncUnbind c o) c u t)
    (hb : (s.part (s.partOf u.wg)).bindings.any (unbindNames s o u t) = true) :
    ∃ s', exec (.syncUnbind c o) s = .next s' ∧ (s'.part (s.partOf u.wg)).bindings =
      (s.part (s.partOf u.wg)).bindings.filter (fun b => !unbindNames s o u t b) := by
  refine ⟨_, exec_syncUnbind_alone h, ?_⟩
  simp only [hb, if_true, ended, part_goOn, State.part_modPart_same, start_part]

theorem syncUnbind_faults (h : Alone s (.syncUnbind c o) c u t)
    (hb : (s.part (s.partOf u.wg)).bindings.any (unbindNames s o u t) = false) :
    exec (.syncUnbind c o) s = .next (traps (start s (.syncUnbind c o) c u) u t 0xC6 0) := by
  rw [exec_syncUnbind_alone h]
  simp only [hb]
  rfl

end

/-- Settles O18: the requests of acquires and the release, the operations at the home slice, and the bindings. -/
theorem synchronisationObjects : Obligations.SynchronisationObjects := by
  refine ⟨fun c o s u t g ph s1 => ?requests, fun s r bytes l g t x hload => ?home, fun c o s u t g ph s1 s2 => ?bindings⟩
  case requests =>
    refine ⟨fun h hchk => sync_sends h (exec_acq c o s) hchk fun _ _ => rfl,
      fun h hchk => sync_sends h (exec_acqGe c o s) hchk fun _ _ => rfl,
      fun h hchk => sync_sends h (exec_acqX c o s) hchk fun _ _ => rfl,
      fun h hchk => ⟨fun hst hfw hchk' hva => ?_, fun hnot => ?_⟩⟩
    · refine (exec_rel_alone h hchk).trans ?_
      rw [hst, hfw, Bool.and_self, if_pos rfl, syncThrough_glob (g := g) (ph := ph) (s1 := s1) (a := .rel (s1.wgName u.wg).1 (s1.wgName u.wg).2 t) (by rw [hva]; exact hchk')
        fun _ _ => rfl]
      rfl
    · rw [exec_rel_alone h hchk, hnot]
      rfl
  case home =>
    refine ⟨fun a hbad => syncAt_bad hload hbad a, fun hgood => syncAt_acq hload hgood,
      fun hgood hx => syncAt_acqGe_reached hload hgood hx, fun hgood hx => syncAt_acqGe_early hload hgood hx,
      fun hgood hheld heq => ?_, fun hgood hheld hne => ?_, fun hgood hfree => syncAt_acqX_free hload hgood hfree,
      fun hgood hheld hne => ?_, fun hgood hmine => ?_⟩
    · rw [syncAt_acqX_held hload hgood hheld]
      exact if_pos heq
    · rw [syncAt_acqX_held hload hgood hheld]
      exact if_neg hne
    · rw [syncAt_rel hload hgood]
      exact if_pos ⟨hheld, hne⟩
    · rw [syncAt_rel hload hgood]
      refine if_neg fun hother => ?_
      rcases hmine with hfree | hmine
      · exact absurd hother.1 (by rw [show _ = false from hfree]; decide)
      · exact hother.2 hmine
  case bindings =>
    refine ⟨fun b h hchk hl => ?_, fun f a h hchk hf hl => ?_, fun a h hchk hl => ?_, fun h hb => ?_, fun h hb => ?_⟩
    · rw [exec_syncBind_alone h hchk, show bindLooks s s1 c o u t ph = _ from hl]
      rfl
    · obtain ⟨n, rfl⟩ := Nat.exists_eq_succ_of_ne_zero hf
      rw [exec_syncBind_alone h hchk, show bindLooks s s1 c o u t ph = _ from hl]
      rfl
    · rw [exec_syncBind_alone h hchk, show bindLooks s s1 c o u t ph = _ from hl]
      rfl
    · exact syncUnbind_removes h (by simpa [unbindNames] using hb)
    · exact syncUnbind_faults h (by simpa [unbindNames] using hb)

end Sys2Proof.Proofs
end

section
/-!
PROOFS. The networks, replies and retransmissions, and the ends of accesses (spec/03_memory_paths.md R53 to R66;
spec/06_ordering.md R127, R131).
-/

namespace Sys2Proof.Proofs

open Sys2Proof.Machine Sys2Proof.Safety Sys2Proof.Laws

/-- What every step of a fold keeps, the fold keeps. -/
theorem foldl_keeps {α β γ : Type} (π : β → γ) {f : β → α → β} (h : ∀ b a, π (f b a) = π b) (l : List α) (b : β) :
    π (l.foldl f b) = π b := by
  induction l generalizing b with
  | nil => rfl
  | cons a l ih => rw [List.foldl_cons, ih, h]

/-! ## Corrected errors (R407) -/

/-- The count of a unit's corrected errors after one more. -/
def nextCount (s : State) (kind : UnitKind) (i : Nat) : Nat :=
  (((s.ecc.find? (fun e => e.1 == unitCode kind && e.2.1 == i)).map (·.2.2)).getD 0 + 1) % 2 ^ 32

/-- A corrected error changes the counts and, at a multiple of 256, the partitions alone. -/
theorem corrected_eq (s : State) (kind : UnitKind) (i : Nat) :
    ∃ parts, s.corrected kind i = { s with
        ecc := (unitCode kind, i, nextCount s kind i) :: s.ecc.filter (fun e => !(e.1 == unitCode kind && e.2.1 == i))
        parts := parts } ∧
      (nextCount s kind i % 256 ≠ 0 → parts = s.parts) := by
  have hfold (l : List (Nat × Partition)) (info : Nat) (s0 : State) : ∃ parts,
      l.foldl (fun s p => if p.2.holds kind i then s.event p.1 0xE0 info else s) s0 = { s0 with parts := parts } := by
    induction l generalizing s0 with
    | nil => exact ⟨_, rfl⟩
    | cons p l ih =>
      obtain ⟨parts, h⟩ := ih (if p.2.holds kind i then s0.event p.1 0xE0 info else s0)
      refine ⟨parts, h.trans ?_⟩
      split <;> rfl
  by_cases hn : nextCount s kind i % 256 = 0
  · obtain ⟨parts, h⟩ := hfold s.parts (originOf kind i + nextCount s kind i * 2 ^ 32) { s with
      ecc := (unitCode kind, i, nextCount s kind i) :: s.ecc.filter (fun e => !(e.1 == unitCode kind && e.2.1 == i)) }
    refine ⟨parts, ?_, fun hne => absurd hn hne⟩
    rw [State.corrected]
    exact (if_neg fun h => bne_iff_ne.1 h hn).trans h
  · refine ⟨s.parts, ?_, fun _ => rfl⟩
    rw [State.corrected]
    exact if_pos (bne_iff_ne.2 hn)

theorem corrected_now (s : State) (kind : UnitKind) (i : Nat) : (s.corrected kind i).now = s.now := by
  obtain ⟨parts, h, -⟩ := corrected_eq s kind i
  rw [h]

/-! ## Flits (R57, R58, R61, R64) -/

section
variable {s : State} {p : Nat} {k : Pkt}

theorem leaves_sent (h : k.sent ≠ 0) : s.leaves k = (k, s) := by simp [State.leaves, h]

theorem leaves_first (h : k.sent = 0) : (s.leaves k).1 = { k with firstIn := some s.now, low := s.lowSeq k.src k.dst } := by
  simp [State.leaves, h]

theorem leaves_timer {r : Req} (h : k.sent = 0) (hk : k.reply = false) (hr : tget s.reqs k.req = some r) :
    tget (s.leaves k).2.reqs k.req = some { r with
      firstIn := some (r.firstIn.getD s.now), deadline := s.now + 16384 * 2 ^ (min r.sends 5 - 1) } := by
  simp [State.leaves, h, hk, hr, waitAfter]

/-- A flit of a packet leaves its injection point. -/
def flitLeaves (s : State) (p : Nat) (k : Pkt) : State :=
  { (s.leaves k).2 with pkts := tset (s.leaves k).2.pkts p { (s.leaves k).1 with sent := (s.leaves k).1.sent + 1 } }

theorem exec_flitInjection_ready (hp : tget s.pkts p = some k)
    (hr : k.sent < k.flits ∧ s.inWindow k = true ∧ s.behind p k = false ∧ s.heldBack k = false) :
    exec (.flitInjection p) s = .next (match s.buckets.find? (fun b => b.1 == k.die && b.2.1 == k.part) with
      | none => flitLeaves s p k
      | some b => if b.2.2.1 % 2 ^ 20 = 0 then flitLeaves s p k else if b.2.2.2 < 1024 then s
        else flitLeaves { s with buckets := s.buckets.map (fun e =>
          if e.1 == k.die && e.2.1 == k.part then (e.1, e.2.1, e.2.2.1, e.2.2.2 - 1024) else e) } p k) := by
  obtain ⟨hsent, hwin, hbehind, hheld⟩ := hr
  rw [exec_flitInjection, execFlitInjection]
  simp only [hp, hsent.not_ge, hwin, hbehind, hheld, rateOf, bits_low, Nat.reduceAdd]
  rfl

/-- The state after a flit with a bad CRC has been counted. -/
def badFlit (s : State) (k : Pkt) : State :=
  let counted := s.corrected k.receiver.1 k.receiver.2
  { counted with reqs := tmod counted.reqs k.req (fun r => { r with crc := true }) }

theorem exec_flitArrival_good (hp : tget s.pkts p = some k) (h : k.arrived < k.sent) :
    exec (.flitArrival p true) s = .next (
      if k.arrived + 1 = k.flits then
        if k.lost = true then
          if k.waggle.isSome then
            { s with pkts := tset s.pkts p { k with sent := 0, arrived := 0, arrivedAt := s.now, lost := false } }
          else { s with pkts := tdel s.pkts p }
        else { s with pkts := tset s.pkts p { k with arrived := k.arrived + 1, arrivedAt := s.now, lost := false } }
      else { s with pkts := tset s.pkts p { k with arrived := k.arrived + 1 } }) := by
  rw [exec_flitArrival, execFlitArrival]
  by_cases hw : k.arrived + 1 = k.flits <;> cases hl : k.lost <;> cases hg : k.waggle <;>
    simp [hp, h.not_ge, Pkt.arrivedAll, hw, hl, hg]

theorem exec_flitArrival_bad (hp : tget s.pkts p = some k) (h : k.arrived < k.sent) :
    exec (.flitArrival p false) s = .next (
      let bad := badFlit s k
      if k.arrived + 1 = k.flits then
        if k.waggle.isSome then
          { bad with pkts := tset bad.pkts p { k with sent := 0, arrived := 0, arrivedAt := s.now, lost := false } }
        else { bad with pkts := tdel bad.pkts p }
      else { bad with pkts := tset bad.pkts p { k with arrived := k.arrived + 1, lost := true } }) := by
  rw [exec_flitArrival, execFlitArrival]
  by_cases hw : k.arrived + 1 = k.flits <;> cases hg : k.waggle <;>
    simp [hp, h.not_ge, Pkt.arrivedAll, hw, hg, badFlit, corrected_now]

end

/-! ## Replies and retransmissions (R60, R65, R410, R424) -/

section
variable {s : State} {p n id line : Nat} {k : Pkt} {r : Req} {o : Op} {f : Fin1}

/-- A reply that is a request's answer, and has arrived whole. -/
structure Reply (s : State) (p : Nat) (k : Pkt) (r : Req) : Prop where
  pkt : tget s.pkts p = some k
  req : tget s.reqs k.req = some r
  reply : k.reply = true
  good : k.lost = false
  whole : k.arrived = k.flits
  noWaggle : k.waggle = none

/-- The packet of a reply and the request that it answers are gone. -/
def replied (s : State) (p : Nat) (k : Pkt) : State := { s with pkts := tdel s.pkts p, reqs := tdel s.reqs k.req }

theorem exec_replyArrival_reply (h : Reply s p k r) :
    exec (.replyArrival p) s =
      .next (if r.dead then replied s p k else (replied s p k).answered k.req r k.fault k.data k.line) := by
  rw [exec_replyArrival, execReplyArrival]
  simp [h.pkt, h.req, h.reply, h.good, h.whole, h.noWaggle, Pkt.arrivedAll, replied]

/-- A request of a thread's operation alone, and the operation. -/
structure OwnReq (r : Req) (id : Nat) : Prop where
  op : r.op = some id
  noOwner : r.owner = none
  noWalk : r.walk = none

theorem answered_own {req fault : Nat} {data line : List Byte} (h : OwnReq r id) :
    s.answered req r fault data line = r.shares.foldl (fun (s : State) e =>
      s.opAnswered e.op e.piece e.va fault ((line.drop (e.pa - lineOf e.pa)).take e.n))
      ((if fault = 0 then s.fillLine r line else s).opAnswered id r.piece r.va fault data) := by
  simp only [State.answered, h.op, h.noOwner, h.noWalk]

theorem opAnswered_mem {piece va : Nat} {data : List Byte} (h : tget s.ops id = some o) (hk : o.kind = .mem f) :
    s.opAnswered id piece va 0 data = s.gotPiece id piece data := by
  simp [State.opAnswered, h, hk]

theorem opAnswered_fault {piece va fault : Nat} {data : List Byte} (hf : fault ≠ 0) (h : tget s.ops id = some o) :
    s.opAnswered id piece va fault data =
      (s.modWg o.wg (fun g => { g with mq := g.mq.filter (· != id) })).opFault id fault va := by
  simp [State.opAnswered, h, hf]

theorem fillLine_ops (r : Req) (line : List Byte) : (s.fillLine r line).ops = s.ops := by
  unfold State.fillLine
  repeat' split
  all_goals rfl

/-- A copy of a request whose timer has run out is sent. -/
def sendsAgain (s : State) (n : Nat) (q : Req) (cancel : Bool) : State :=
  ({ s with reqs := tset s.reqs n q } : State).sendCopy n q true cancel

/-- A request whose timer has run out while no copy of it waits to be sent. -/
structure Late (s : State) (n : Nat) (r : Req) : Prop where
  req : tget s.reqs n = some r
  sent : r.firstIn.isSome = true
  due : r.deadline ≤ s.now
  noCopy : s.copyWaits n = false

theorem exec_requestRetransmit_late (h : Late s n r) :
    exec (.requestRetransmit n) s = .next (
      if r.dead then sendsAgain s n { r with sends := r.sends + 1 } true
      else if r.sends < 5 then sendsAgain s n { r with sends := r.sends + 1 } false
      else if r.crc && (match r.src with
          | .walker _ => true
          | _ => false) then s.fatalError (originOf .slice r.dst)
      else (sendsAgain s n { r with dead := true, sends := 1 } true).answered n r 0xE1 [] []) := by
  rw [exec_requestRetransmit, execRequestRetransmit]
  simp only [h.req, Option.isNone_eq_false_iff.2 h.sent, h.due.not_gt, h.noCopy, decide_false, Bool.or_self,
    Bool.false_eq_true, if_false]
  rfl

theorem exec_requestRetransmit_idle (h : tget s.reqs n = some r)
    (hw : r.firstIn = none ∨ s.now < r.deadline ∨ s.copyWaits n = true) : exec (.requestRetransmit n) s = .next s := by
  rw [exec_requestRetransmit, execRequestRetransmit]
  have : (r.firstIn.isNone || decide (s.now < r.deadline) || s.copyWaits n) = true := by simpa [or_assoc] using hw
  simp only [h, this, if_true]

theorem tget_map {α : Type} (t : Tab α) (g : Nat → α → α) (i : Nat) :
    tget (t.map (fun e => (e.1, g e.1 e.2))) i = (tget t i).map (g i) := by
  induction t with
  | nil => rfl
  | cons e t ih =>
    rw [List.map_cons, tget, tget]
    by_cases h : i = e.1
    · subst h
      simp
    · rw [if_neg h, if_neg h, ih]

/-- A request after a line has been read at its slice. -/
def afterRead (s : State) (line i : Nat) (r : Req) : Req :=
  if !r.ph.host && lineOf r.ph.pa == line && r.kind.onLine &&
    s.pkts.any (fun k => k.2.req == i && !k.2.reply && k.2.arrivedAll) then { r with read := true } else r

theorem lineRead_reqs (line i : Nat) : tget (s.lineRead line).reqs i = (tget s.reqs i).map (afterRead s line i) := by
  rw [← tget_map]
  refine congrArg (tget · i) (List.map_congr_left fun e _ => ?_)
  rw [afterRead]
  split <;> rfl

end

/-! ## The filling of a cache (R127, R235) -/

section
variable {s : State} {c j : Nat} {p : Path} {r e : Req} {line : List Byte} (hk : r.kind = .load) (hs : r.src = .core c)
include hk hs

theorem fillLine_reqs : (s.fillLine r line).reqs = s.reqs.map (fun e => (e.1, r.outdated c e.2)) := by
  simp only [State.fillLine, hk, hs, Src.core?]
  repeat' split
  all_goals rfl

theorem fillLine_unsure (hf : r.fill = some p) (hp : p ≠ .tile) (hu : r.unsure = true) (hl : line ≠ []) :
    ∀ l ∈ ((s.fillLine r line).core c).cache p, l.pa ≠ lineOf r.ph.pa := by
  intro l hmem
  simp only [State.fillLine, hk, hs, Src.core?, hf, hu, if_true, List.isEmpty_iff, hl, if_false, State.core_modCore_same] at hmem
  cases p <;> simp_all [Core.cache, Core.setCache]

theorem fillLine_older (he : tget s.reqs j = some e) (hes : e.src = r.src) (hed : e.dst = r.dst) (hseq : e.seq < r.seq)
    (hl : sameLine e.ph r.ph = true) : tget (s.fillLine r line).reqs j = some { e with fill := none } := by
  rw [fillLine_reqs hk hs, tget_map s.reqs (fun _ => r.outdated c), he]
  by_cases hf : e.fill = none
  · have hnone : ({ e with fill := none } : Req) = e := by rw [← hf]
    rw [hnone]
    simp [Req.outdated, hf]
  · simp [Req.outdated, hes, hs, hed, Src.ofCore, hf, hl, hseq]

theorem fillLine_elsewhere (he : tget s.reqs j = some e) (hes : e.src = r.src) (hed : e.dst ≠ r.dst)
    (hf : e.fill.isSome = true) (hl : sameLine e.ph r.ph = true) :
    tget (s.fillLine r line).reqs j = some { e with unsure := true } := by
  rw [fillLine_reqs hk hs, tget_map s.reqs (fun _ => r.outdated c), he]
  simp [Req.outdated, hes, hs, hed, Src.ofCore, Option.ne_none_iff_isSome.2 hf, hl]

end

end Sys2Proof.Proofs
end

section
/-!
PROOFS. The lines of a slice: one that enters its set, and the line that the set gives up (spec/03_memory_paths.md R53).
-/

namespace Sys2Proof.Proofs

open Sys2Proof.Machine Sys2Proof.Safety Sys2Proof.Laws

section
variable {s : State} {l : L2Line} {x : Nat}

/-- The lines of l's set among some. -/
def setOf (l : L2Line) (ls : List L2Line) : List L2Line := ls.filter (fun e => e.slice == l.slice && l2Set e.pa == l2Set l.pa)

/-- The lines other than l's that stood before. -/
def others (s : State) (l : L2Line) : List L2Line := s.l2.filter (fun e => e.pa != l.pa)

/-- The lines of l's set from which a victim comes. -/
def victimsOf (s : State) (l : L2Line) : List L2Line :=
  l2Victims (s.combWays l.slice (l2Set l.pa)) l.node (setOf l (others s l))

/-- The line that its set gives up for l. -/
def victim (s : State) (l : L2Line) (x : Nat) : Option L2Line := (victimsOf s l)[x % (victimsOf s l).length]?

theorem writeBack_l2 (v : L2Line) : (s.writeBack v).l2 = s.l2 := by
  unfold State.writeBack
  repeat' split
  all_goals rfl

/-- A node line stays out where Comb values take its four ways. -/
theorem l2Insert_out (h : l.node = true ∧ 4 ≤ s.combWays l.slice (l2Set l.pa)) : (s.l2Insert l x).l2 = s.l2 := by
  rw [State.l2Insert]
  exact (congrArg State.l2 (if_pos (by simpa using h))).trans (writeBack_l2 l)

/-- Any other enters, and at most one line of its set goes. -/
theorem l2Insert_in (h : ¬(l.node = true ∧ 4 ≤ s.combWays l.slice (l2Set l.pa))) :
    (s.l2Insert l x).l2 = l :: (others s l).filter (fun e => (victim s l x).all (fun v => e.pa != v.pa)) := by
  rw [State.l2Insert]
  refine (congrArg State.l2 (if_neg (by simpa using h))).trans ?_
  have hv : victim s l x = (l2Victims (s.combWays l.slice (l2Set l.pa)) l.node
      ((s.l2.filter (fun e => e.pa != l.pa)).filter (fun e => e.slice == l.slice && l2Set e.pa == l2Set l.pa)))[x %
        (l2Victims (s.combWays l.slice (l2Set l.pa)) l.node
      ((s.l2.filter (fun e => e.pa != l.pa)).filter (fun e => e.slice == l.slice && l2Set e.pa == l2Set l.pa))).length]? := rfl
  dsimp only
  rw [← hv]
  cases victim s l x with
  | none => simp [others]
  | some v => simp [others]

theorem l2Victims_subset (comb : Nat) (node : Bool) (mine : List L2Line) : l2Victims comb node mine ⊆ mine := by
  intro v hv
  unfold l2Victims at hv
  dsimp only at hv
  split at hv
  · exact List.mem_of_mem_filter hv
  split at hv
  · cases hv
  split at hv
  · rename_i h
    rw [← h] at hv
    exact List.mem_of_mem_filter (List.mem_of_mem_filter hv)
  · rename_i h
    rw [← h] at hv
    exact List.mem_of_mem_filter (List.mem_of_mem_filter hv)
  · exact List.mem_of_mem_filter hv

theorem victim_mem {v : L2Line} (h : victim s l x = some v) : v ∈ setOf l (others s l) :=
  l2Victims_subset _ _ _ (List.mem_of_getElem? h)

theorem victim_none (h : victim s l x = none) : victimsOf s l = [] := by
  by_contra hne
  have hlt := Nat.mod_lt x (List.length_pos_iff.2 hne)
  rw [victim, List.getElem?_eq_getElem hlt] at h
  cases h

section
variable {comb : Nat} {node : Bool} {mine : List L2Line}

theorem l2Victims_nodes (h : node = true ∧ 4 ≤ (mine.filter (·.node)).length + comb) :
    l2Victims comb node mine = mine.filter (·.node) := by
  rw [l2Victims]
  exact if_pos (by simpa using h)

/-- No line goes from a set with room; a full one holds a line that is no node. -/
theorem room_of_l2Victims_nil (h : l2Victims comb node mine = [])
    (hn : ¬(node = true ∧ 4 ≤ (mine.filter (·.node)).length + comb)) :
    mine.length + comb < 16 ∨ mine.filter (fun l => !l.node) = [] := by
  by_cases hroom : mine.length + comb < 16
  · exact .inl hroom
  · rw [l2Victims] at h
    have h := (if_neg (by simpa using hn)).symm.trans h
    rw [if_neg hroom] at h
    split at h
    · cases h
    · cases h
    · exact .inr h

end

theorem length_split (mine : List L2Line) :
    (mine.filter (·.node)).length + (mine.filter (fun l => !l.node)).length = mine.length := by
  rw [← List.countP_eq_length_filter, ← List.countP_eq_length_filter]
  simpa using (List.length_eq_countP_add_countP (·.node) (l := mine)).symm

theorem setOf_filter (q : L2Line → Bool) (ls : List L2Line) : setOf l (ls.filter q) = (setOf l ls).filter q := by
  rw [setOf, setOf, List.filter_comm]

theorem setOf_cons_self (ls : List L2Line) : setOf l (l :: ls) = l :: setOf l ls := by simp [setOf]

/-- A line of a list that a test on its address drops makes the list shorter. -/
theorem length_without {v : L2Line} {ls : List L2Line} (h : v ∈ ls) :
    (ls.filter (fun e => e.pa != v.pa)).length < ls.length :=
  List.length_filter_lt_length_iff_exists.2 ⟨v, h, by simp⟩

/-- A set keeps 16 lines, and 4 of nodes, beside the ways of Comb values. -/
theorem l2Insert_fits (hall : (setOf l s.l2).length + s.combWays l.slice (l2Set l.pa) ≤ 16)
    (hnodes : ((setOf l s.l2).filter (·.node)).length + s.combWays l.slice (l2Set l.pa) ≤ 4) :
    (setOf l (s.l2Insert l x).l2).length + s.combWays l.slice (l2Set l.pa) ≤ 16 ∧
    ((setOf l (s.l2Insert l x).l2).filter (·.node)).length + s.combWays l.slice (l2Set l.pa) ≤ 4 := by
  by_cases hout : l.node = true ∧ 4 ≤ s.combWays l.slice (l2Set l.pa)
  · rw [l2Insert_out hout]
    exact ⟨hall, hnodes⟩
  set comb := s.combWays l.slice (l2Set l.pa) with hcomb
  set mine := setOf l (others s l) with hmine
  have hlen : mine.length ≤ (setOf l s.l2).length := by
    rw [hmine, others, setOf_filter]; exact List.length_filter_le _ _
  have hlenN : (mine.filter (·.node)).length ≤ ((setOf l s.l2).filter (·.node)).length := by
    rw [hmine, others, setOf_filter, List.filter_comm]; exact List.length_filter_le _ _
  have hsplit := length_split mine
  rw [l2Insert_in hout, setOf_cons_self, setOf_filter, ← hmine]
  cases hv : victim s l x with
  | none =>
    have hnil : l2Victims comb l.node mine = [] := victim_none hv
    have hn : ¬(l.node = true ∧ 4 ≤ (mine.filter (·.node)).length + comb) := by
      intro h
      rw [l2Victims_nodes h] at hnil
      rw [hnil] at h
      exact hout ⟨h.1, by simpa using h.2⟩
    have hroom := room_of_l2Victims_nil hnil hn
    rw [← List.length_eq_zero_iff] at hroom
    cases hnode : l.node <;> simp only [hnode, true_and, false_and, not_le, Bool.false_eq_true] at hn <;>
      simp [hnode] <;> omega
  | some v =>
    simp only [Option.all_some]
    have hmem : v ∈ mine := victim_mem hv
    have hshort := length_without hmem
    have hshortN : ((mine.filter (fun e => e.pa != v.pa)).filter (·.node)).length ≤ (mine.filter (·.node)).length := by
      rw [List.filter_comm]; exact List.length_filter_le _ _
    by_cases hfull : l.node = true ∧ 4 ≤ (mine.filter (·.node)).length + comb
    · have hvn : v ∈ mine.filter (·.node) := by
        rw [← l2Victims_nodes hfull]; exact List.mem_of_getElem? hv
      have hshortN := length_without hvn
      rw [List.filter_comm] at hshortN
      simp only [List.length_cons, List.filter_cons, hfull.1, if_true]
      omega
    · cases hnode : l.node <;> simp only [hnode, true_and, false_and, not_le, Bool.false_eq_true] at hfull <;>
        simp only [List.length_cons, List.filter_cons, hnode, if_true, Bool.false_eq_true, if_false] <;> omega

/-- Of the other lines, only ones of l's set go. -/
theorem l2Insert_gone {e : L2Line} (hnd : (s.l2.map (·.pa)).Nodup) (he : e ∈ s.l2) (hne : e.pa ≠ l.pa)
    (hgone : e ∉ (s.l2Insert l x).l2) : e.slice = l.slice ∧ l2Set e.pa = l2Set l.pa := by
  by_cases hout : l.node = true ∧ 4 ≤ s.combWays l.slice (l2Set l.pa)
  · exact absurd he (by rwa [l2Insert_out hout] at hgone)
  rw [l2Insert_in hout] at hgone
  have hmem : e ∈ others s l := by simp [others, he, hne]
  cases hv : victim s l x with
  | none => exact absurd (List.mem_cons_of_mem l hmem) (by simpa [hv] using hgone)
  | some v =>
    have hpa : e.pa = v.pa := by
      by_contra hp
      exact hgone (List.mem_cons_of_mem l (by simp [hv, hmem, hp]))
    have hvmine := victim_mem hv
    have hveq : e = v := List.inj_on_of_nodup_map hnd he (List.mem_of_mem_filter (List.mem_of_mem_filter hvmine)) hpa
    rw [hveq]
    simpa using (List.mem_filter.1 hvmine).2

theorem l2Insert_from {e : L2Line} (he : e ∈ (s.l2Insert l x).l2) : e = l ∨ e ∈ s.l2 := by
  by_cases hout : l.node = true ∧ 4 ≤ s.combWays l.slice (l2Set l.pa)
  · exact .inr (by rwa [l2Insert_out hout] at he)
  · rw [l2Insert_in hout, List.mem_cons] at he
    exact he.imp_right fun h => List.mem_of_mem_filter (List.mem_of_mem_filter h)

end

end Sys2Proof.Proofs
end

section
/-!
PROOFS. What the translations, reads and writes that hardware makes by itself leave as it was: everything but memory, the
requests and the marks of a step that waits (spec/02_address_spaces.md R30 to R37; spec/03_memory_paths.md R57, R77).
-/

namespace Sys2Proof.Proofs

open Sys2Proof.Machine Sys2Proof.Safety Sys2Proof.Laws

/-- The state without what an access that hardware makes by itself may change. Two states that agree here have the same threads,
operations, caches, launches and directories. -/
def still (s : State) : State := { s with
  mem := [], host := [], wlog := [], l2 := [], poison := [], slicePoison := [], records := [], parts := [], reqs := [], pkts := []
  seqs := [], nextId := 0, walks := [], fresh := 0, blocked := false, wants := [], puts := [], atsAsk := [], atsBad := [], stages := []
  asking := none }

section
variable {s s' : State} (h : still s' = still s)
include h

theorem still_ops : s'.ops = s.ops := (congrArg State.ops h :)
theorem still_wgs : s'.wgs = s.wgs := (congrArg State.wgs h :)
theorem still_launches : s'.launches = s.launches := (congrArg State.launches h :)
theorem still_cores : s'.cores = s.cores := (congrArg State.cores h :)
theorem still_slices : s'.slices = s.slices := (congrArg State.slices h :)
theorem still_now : s'.now = s.now := (congrArg State.now h :)
theorem still_link : s'.link = s.link := (congrArg State.link h :)
theorem still_net : s'.net = s.net := (congrArg State.net h :)
theorem still_dirs : s'.dirs = s.dirs := (congrArg State.dirs h :)

end

section
variable (s : State)

@[simp] theorem still_draw : still s.draw.2 = still s := rfl
@[simp] theorem still_send (r : Req) : still (s.send r).2 = still s := rfl
@[simp] theorem still_modPart (p : Nat) (f : Partition → Partition) : still (s.modPart p f) = still s := rfl

@[simp] theorem still_forwardOne (p pa slot line : Nat) (who : List (Nat × Nat × Nat)) (launch : Option Nat) :
    still (s.forwardOne p pa slot line who launch) = still s := rfl

@[simp] theorem still_forwardLine (p pa : Nat) (who : List (Nat × Nat × Nat)) (launch : Option Nat) :
    still (s.forwardLine p pa who launch) = still s := by
  refine foldl_keeps still (fun s e => ?_) _ _
  split
  · rfl
  · exact foldl_keeps still (fun s l => still_forwardOne s ..) _ _

@[simp] theorem still_forward (p : Nat) (lines : List Nat) (who : List (Nat × Nat × Nat)) (launch : Option Nat) :
    still (s.forward p lines who launch) = still s := by
  unfold State.forward
  split
  · rfl
  · exact foldl_keeps still (fun s l => still_forwardLine s ..) _ _

@[simp] theorem still_write (ph : Phys) (va : Nat) (bytes : List Byte) : still (s.write ph va bytes none) = still s := by
  unfold State.write
  dsimp only
  split <;> rfl

@[simp] theorem still_store (p : Nat) (ph : Phys) (va : Nat) (bytes : List Byte) (who : Option (Nat × Nat × Nat)) :
    still (s.store p ph va bytes none who) = still s := by
  unfold State.store
  dsimp only
  split
  · rfl
  · split <;> simp

@[simp] theorem still_fetchAs (o : Owner) (src : Src) (part : Nat) (ph : Phys) (va n : Nat) :
    still (s.fetchAs o src part ph va n).2 = still s := by
  unfold State.fetchAs
  dsimp only
  split
  · rfl
  · split <;> rfl

@[simp] theorem still_fetch (part : Nat) (ph : Phys) (va n : Nat) : still (s.fetch part ph va n).2 = still s := by
  unfold State.fetch
  split
  · rfl
  · exact still_fetchAs s ..

@[simp] theorem still_setAccMod (part va a e m : Nat) : still (setAccMod s part va a e m).2 = still s := by
  unfold setAccMod
  split
  · rfl
  · split
    · exact still_store s ..
    · rfl

@[simp] theorem still_readPte (part va a : Nat) : still (readPte s part va a).2 = still s := by
  unfold readPte
  split
  · split <;> rfl
  · rename_i o src _
    rw [← still_fetchAs s o (.walker src.die) part { pa := a } va 8]
    split <;> rename_i h <;> rw [h]

@[simp] theorem still_walkKeep (die : Option Nat) (part asid va level e : Nat) :
    still (s.walkKeep die part asid va level e) = still s := by
  unfold State.walkKeep
  split
  · rfl
  · dsimp only
    split <;> rfl

@[simp] theorem still_walkFrom (die : Option Nat) (part asid va fuel level table : Nat) :
    still (walkFrom s die part asid va fuel level table).2 = still s := by
  induction fuel generalizing s level table with
  | zero => rfl
  | succ fuel ih =>
    rw [walkFrom]
    split
    · exact ih ..
    · have hread := still_readPte s part va (table + 8 * vaIndex va level)
      dsimp only
      split <;> rename_i h <;> rw [h] at hread
      · exact hread
      · split
        · exact hread
        · exact hread
        · exact (ih ..).trans ((still_walkKeep ..).trans hread)

@[simp] theorem still_walk (part asid root va : Nat) (acc : Acc) (ro user : Bool) :
    still (walk s part asid root va acc ro user).2 = still s := by
  have hfrom := still_walkFrom s (s.net.bind (fun n => if n.2.die < 4 then some n.2.die else none)) part asid va 5 0 root
  unfold walk
  split <;> rename_i h <;> rw [h] at hfrom
  · exact hfrom
  · rename_i t a e s1
    have hset := still_setAccMod s1 part va a e acc.flags
    split
    · split <;> rename_i h <;> rw [h] at hset <;> exact hset.trans hfrom
    · exact hfrom

@[simp] theorem still_xnow (part asid root va : Nat) (acc : Acc) (ro user : Bool) :
    still (s.xnow part asid root va acc ro user).2 = still s := by
  have hwalk := still_walk s part asid root va acc ro user
  unfold State.xnow
  split <;> rename_i h <;> rw [h] at hwalk
  · split
    · exact hwalk
    · split
      · exact hwalk
      · dsimp only
        split
        · exact hwalk
        · split <;> exact hwalk
  · exact hwalk
  · exact hwalk

@[simp] theorem still_sysPart (part asid root va : Nat) (acc : Acc) :
    still (sysPart s part asid root va acc).2 = still s := by
  unfold sysPart
  split
  · rename_i a _
    have hx := still_xnow s part asid root a acc false false
    split <;> rename_i h <;> rw [h] at hx <;> exact hx
  · rfl
  · rfl

@[simp] theorem still_readSysAt (part asid root va n : Nat) : still (readSysAt s part asid root va n).2 = still s := by
  refine foldl_keeps (fun x : Except (Nat × Nat) (List Byte) × State => still x.2) (fun x p => ?_) _ _
  split
  · rfl
  · rename_i bs s1
    have hp := still_sysPart s1 part asid root p.1 .load
    split <;> rename_i h <;> rw [h] at hp
    · exact hp
    · rename_i ph s2
      have hf := still_fetch s2 part ph p.1 p.2
      split <;> rename_i h <;> rw [h] at hf <;> exact hf.trans hp

@[simp] theorem still_placeSys (part asid root va n : Nat) : still (placeSys s part asid root va n).2 = still s := by
  refine foldl_keeps (fun x : Except (Nat × Nat) (List (Phys × Nat × Nat)) × State => still x.2) (fun x p => ?_) _ _
  split
  · rfl
  · rename_i bs s1
    have hp := still_sysPart s1 part asid root p.1 .store
    split <;> rename_i h <;> rw [h] at hp <;> exact hp

@[simp] theorem still_writeSysAt (part asid root va : Nat) (bytes : List Byte) :
    still (writeSysAt s part asid root va bytes).2 = still s := by
  have hp := still_placeSys s part asid root va bytes.length
  unfold writeSysAt
  split <;> rename_i h <;> rw [h] at hp
  · exact hp
  · exact (foldl_keeps (fun x : State × List Byte => still x.1) (fun x e => still_store x.1 ..) _ _).trans hp

@[simp] theorem still_readSys (part asid root va n : Nat) : still (readSys s part asid root va n).2 = still s :=
  still_readSysAt s ..

@[simp] theorem still_writeSys (part asid root va : Nat) (bytes : List Byte) :
    still (writeSys s part asid root va bytes).2 = still s := still_writeSysAt s ..

theorem still_askFor {α : Type} (a : Asker) {f : State → α × State} (hf : ∀ s, still (f s).2 = still s) :
    still (s.askFor a f).2 = still s := hf { s with asking := some a }

end

end Sys2Proof.Proofs
end

section
/-!
PROOFS. Accesses served at the core and the end of an operation of one piece (spec/06_ordering.md R131, R132), and the
statement of the events of accesses.
-/

namespace Sys2Proof.Proofs

open Sys2Proof.Machine Sys2Proof.Safety Sys2Proof.Laws

/-! ## Tables of ascending keys -/

theorem mem_of_tget {α : Type} {t : Tab α} {i : Nat} {x : α} (h : tget t i = some x) : (i, x) ∈ t := by
  induction t with
  | nil => cases h
  | cons e t ih =>
    rw [tget] at h
    split at h
    · rename_i hi
      obtain rfl := Option.some.inj h
      exact hi ▸ List.mem_cons_self
    · exact List.mem_cons_of_mem _ (ih h)

/-- The keys of a table stand in ascending order. -/
def Ascending {α : Type} (t : Tab α) : Prop := (t.map (·.1)).Pairwise (· < ·)

section
variable {α : Type} {t : Tab α} {i : Nat} {x y : α}

theorem Ascending.tail {e : Nat × α} (h : Ascending (e :: t)) : Ascending t := (List.pairwise_cons.1 h).2

theorem Ascending.lt {e : Nat × α} (h : Ascending (e :: t)) {p : Nat × α} (hp : p ∈ t) : e.1 < p.1 :=
  (List.pairwise_cons.1 h).1 p.1 (List.mem_map_of_mem hp)

theorem Ascending.tget_of_mem (h : Ascending t) (hx : (i, x) ∈ t) : tget t i = some x := by
  induction t with
  | nil => cases hx
  | cons e t ih =>
    rw [tget]
    rcases List.mem_cons.1 hx with rfl | hx
    · rw [if_pos rfl]
    · rw [if_neg (h.lt hx).ne', ih h.tail hx]

theorem Ascending.tget_tdel_same (h : Ascending t) : tget (tdel t i) i = none := by
  cases hy : tget (tdel t i) i with
  | none => rfl
  | some y =>
    induction t with
    | nil => cases hy
    | cons e t ih =>
      by_cases hi : i = e.1
      · rw [tdel, if_pos hi] at hy
        exact absurd hi (h.lt (mem_of_tget hy)).ne'
      · rw [tdel, if_neg hi, tget, if_neg hi] at hy
        exact absurd (ih h.tail hy) (by simp)

/-- Changing an entry that stands keeps the keys. -/
theorem tset_keys (hx : tget t i = some x) (h : Ascending t) : (tset t i y).map (·.1) = t.map (·.1) := by
  induction t with
  | nil => cases hx
  | cons e t ih =>
    rw [tget] at hx
    by_cases hi : i = e.1
    · simp [tset, hi]
    · rw [if_neg hi] at hx
      have hlt : ¬i < e.1 := (h.lt (mem_of_tget hx)).not_gt
      rw [tset, if_neg hlt, if_neg hi, List.map_cons, ih hx h.tail, List.map_cons]

theorem Ascending.tmod (h : Ascending t) (f : α → α) : Ascending (tmod t i f) := by
  cases hx : tget t i with
  | none => rwa [tmod_of_none f hx]
  | some x => rw [tmod_of_get f hx, Ascending, tset_keys hx h]; exact h

end

theorem dropDone_sublist (w t : Nat) (c : Cls) (ops : Tab Op) : (dropDone w t c ops).Sublist ops := by
  induction ops with
  | nil => exact List.Sublist.refl _
  | cons e r ih =>
    rw [dropDone]
    split
    · split
      · exact ih.cons e
      · exact List.Sublist.refl _
    · exact ih.cons_cons e

theorem Ascending.tget_sublist {α : Type} {t t' : Tab α} (h : Ascending t) (hs : t'.Sublist t) {i : Nat} {x : α}
    (hx : tget t' i = some x) : tget t i = some x :=
  h.tget_of_mem (hs.subset (mem_of_tget hx))

/-! ## The end of an operation -/

/-- Operations are not touched by what writes a result. -/
theorem release_ops (s : State) (w t : Nat) : (s.release w t).ops = s.ops := rfl

theorem unlatch_ops (s : State) (w t : Nat) (r : Nat × Nat) : (s.unlatch w t r).ops = s.ops := by
  unfold State.unlatch
  repeat' split
  all_goals rfl

theorem putPred_ops (s : State) (w : Nat) (ts : List Nat) (n : Nat) (b : Bool) : (s.putPred w ts n b).ops = s.ops := by
  unfold State.putPred
  split
  · rfl
  · exact foldl_keeps State.ops (fun s t => State.modThread_ops ..) _ _

theorem putDst_ops (s : State) (w t : Nat) (d : Dst) (x : Word) : (s.putDst w t d x).ops = s.ops := by
  cases d with
  | v f j => exact unlatch_ops s w t (f, j)
  | k n => rfl
  | p n ts => exact putPred_ops ..

theorem l1Store_ops (s : State) (c : Nat) (ph : Phys) (bytes : List Byte) : (s.l1Store c ph bytes).ops = s.ops := by
  unfold State.l1Store
  dsimp only
  split <;> rfl

theorem spillWrite_ops (s : State) (w off t : Nat) (bytes : List Byte) : (s.spillWrite w off t bytes).2.ops = s.ops := by
  unfold State.spillWrite
  split
  · rename_i g _
    have hp := still_askFor s (.owner (.swarm w t))
      (f := fun s' => placeSys s' g.part (s.eff w).asid (s.eff w).ptroot (s.spillBase w t + off) bytes.length)
      (fun s' => still_placeSys s' ..)
    dsimp only
    split <;> rename_i h <;> rw [h] at hp
    · exact still_ops hp
    · refine (foldl_keeps State.ops (fun s p => ?_) _ _).trans (still_ops hp)
      refine foldl_keeps State.ops (fun s q => ?_) _ _
      exact (still_ops (still_send ..)).trans (l1Store_ops ..)
  · rfl

theorem spillPut_ops (s : State) (w t : Nat) (f : Frame) (below : List Frame) (at_ : Nat) (ws : List Word) :
    (s.spillPut w t f below at_ ws).ops = s.ops := by
  have hw := spillWrite_ops s w (recOffset below + 8 * at_) t (ws.flatMap (fun x => leBytes 8 x.toNat))
  unfold State.spillPut
  split <;> rename_i h <;> rw [h] at hw
  · exact hw
  · rfl
  · exact hw

theorem putRecord_ops (s : State) (w t : Nat) (d : Dst) (x : Word) : (s.putRecord w t d x).ops = s.ops := by
  unfold State.putRecord
  repeat' split
  · exact spillPut_ops ..
  all_goals rfl

section
variable {s : State} {id : Nat} {o : Op}

theorem finish_ops (vals : List (Dst × Word)) (h : tget s.ops id = some o) :
    (s.finish id vals).ops = match o.cls with
      | none => tdel s.ops id
      | some c => dropDone o.wg o.tid c (tset s.ops id { o with done := true, waiters := [] }) := by
  have hv (s : State) : (vals.foldl (fun s v => (s.putDst o.wg o.tid v.1 v.2).putRecord o.wg o.tid v.1 v.2) s).ops = s.ops :=
    foldl_keeps State.ops (fun s v => (putRecord_ops ..).trans (putDst_ops ..)) vals s
  have hr (s : State) : (o.waiters.foldl (fun s t => s.release o.wg t) s).ops = s.ops :=
    foldl_keeps State.ops (fun s t => release_ops ..) _ _
  simp only [State.finish, h]
  split
  · rename_i hc
    simp only [hc, hr, hv]
  · rename_i c hc
    simp only [hc, hr, hv, tmod_of_get _ h]

/-- An operation that has been performed stands no more, or stands as done until it retires. -/
theorem finish_done (hasc : Ascending s.ops) (vals : List (Dst × Word)) (h : tget s.ops id = some o) :
    ∀ o', tget (s.finish id vals).ops id = some o' → o'.done = true := by
  intro o' ho'
  rw [finish_ops vals h] at ho'
  split at ho'
  · rw [hasc.tget_tdel_same] at ho'
    cases ho'
  · have hasc' : Ascending (tset s.ops id { o with done := true, waiters := [] }) := by
      have := hasc.tmod (i := id) (fun o => { o with done := true, waiters := [] })
      rwa [tmod_of_get _ h] at this
    have := hasc'.tget_sublist (dropDone_sublist ..) ho'
    rw [tget_tset_same] at this
    exact Option.some.inj this ▸ rfl

theorem settle_of_done (h : ∀ o', tget s.ops id = some o' → o'.done = true) : s.settle id = s := by
  unfold State.settle
  split
  · rfl
  · rename_i o ho
    rw [if_pos (h o ho)]

/-- The values that an operation on memory whose pieces are all there gives to its destination. -/
def finalValues (o : Op) (f : Fin1) : List (Dst × Word) :=
  match memResult f (o.pieces.map (fun p => p.got.getD [])) with
  | some v => o.dst.map (fun d => (d, v))
  | none => []

theorem settle_mem {f : Fin1} (h : tget s.ops id = some o) (hd : o.done = false) (hk : o.kind = .mem f)
    (hall : o.pieces.all (fun p => p.got.isSome) = true) : s.settle id = s.finish id (finalValues o f) := by
  simp only [State.settle, h, hd, hk, hall, Bool.false_eq_true, if_false, if_true]
  rfl

/-- An operation of one piece that has been returned. -/
def withBytes (o : Op) (q : Piece) (bytes : List Byte) : Op := { o with pieces := [{ q with got := some bytes }] }

theorem gotPiece_one {f : Fin1} {q : Piece} {bytes : List Byte} (h : tget s.ops id = some o) (hd : o.done = false)
    (hk : o.kind = .mem f) (hp : o.pieces = [q]) :
    s.gotPiece id 0 bytes = (setOp s id (withBytes o q bytes)).finish id (finalValues (withBytes o q bytes) f) := by
  have hmod : s.modOp id (fun o => { o with pieces := o.pieces.modify 0 (fun p => { p with got := some bytes }) }) =
      setOp s id (withBytes o q bytes) := by
    simp only [State.modOp, tmod_of_get _ h, hp, List.modify_zero_cons, withBytes, setOp]
  have hget : tget (setOp s id (withBytes o q bytes)).ops id = some (withBytes o q bytes) := tget_tset_same ..
  rw [State.gotPiece, hmod, settle_mem hget hd hk rfl]

theorem gotPiece_done {f : Fin1} {q : Piece} {bytes : List Byte} (hasc : Ascending s.ops) (h : tget s.ops id = some o)
    (hd : o.done = false) (hk : o.kind = .mem f) (hp : o.pieces = [q]) :
    ∀ o', tget (s.gotPiece id 0 bytes).ops id = some o' → o'.done = true := by
  have hasc' : Ascending (setOp s id (withBytes o q bytes)).ops := by
    have := hasc.tmod (i := id) (fun _ => withBytes o q bytes)
    rwa [tmod_of_get _ h] at this
  rw [gotPiece_one h hd hk hp]
  exact finish_done hasc' _ (tget_tset_same ..)

end

end Sys2Proof.Proofs
end

section
/-!
PROOFS. Accesses served at the core, the last piece of a load, and the statement of the events of accesses
(spec/03_memory_paths.md R48; spec/06_ordering.md R131).
-/

namespace Sys2Proof.Proofs

open Sys2Proof.Machine Sys2Proof.Safety Sys2Proof.Laws

/-! ## Accesses served at the core -/

/-- An operation on memory of one piece that has not been returned. -/
structure OnePiece (s : State) (id : Nat) (o : Op) (f : Fin1) (q : Piece) : Prop where
  asc : Ascending s.ops
  op : tget s.ops id = some o
  open_ : o.done = false
  kind : o.kind = .mem f
  pieces : o.pieces = [q]
  got : q.got = none

section
variable {s : State} {id w off : Nat} {o : Op} {f : Fin1} {q : Piece} {g : Workgroup} (h : OnePiece s id o f q)
include h

theorem OnePiece.settled {s' : State} (ho : s'.ops = s.ops) (bytes : List Byte) :
    (s'.gotPiece id 0 bytes).settle id = s'.gotPiece id 0 bytes :=
  settle_of_done (gotPiece_done (ho ▸ h.asc) (ho ▸ h.op) h.open_ h.kind h.pieces)

theorem local_hit {b : List Byte} (hl : q.loc = .hit b) (ha : q.act = .load) :
    exec (.localAccessComplete id) s = .next (s.gotPiece id 0 b) := by
  have hscr : o.scratchOf = none := by simp [Op.scratchOf, h.pieces, hl]
  rw [exec_localAccessComplete, execLocalAccessComplete]
  simp only [h.op, h.open_, h.kind, h.pieces, hscr, List.any_cons, List.any_nil, ha, List.zipIdx_cons, List.zipIdx_nil,
    List.foldl_cons, List.foldl_nil, h.got, hl, h.settled rfl]
  simp

/-- Nothing keeps a scratchpad access of the operation from its array. -/
structure AtArray (s : State) (id w off : Nat) (o : Op) (q : Piece) (g : Workgroup) : Prop where
  loc : q.loc = .scratch w off
  wg : s.wg w = some g
  here : g.resid ≠ .saved
  first : s.ops.any (fun e => decide (e.1 < id) && !e.2.done && e.2.scratchOf == some w) = false
  noCopy : w = o.wg → s.copyBefore id o = false
  noSync : q.act ≠ .load → s.syncAhead id = false

theorem scratchOf_one (hl : q.loc = .scratch w off) : o.scratchOf = some w := by
  simp [Op.scratchOf, h.pieces, hl, h.got]

theorem local_behind_copy (hl : q.loc = .scratch o.wg off) (hc : s.copyBefore id o = true) :
    exec (.localAccessComplete id) s = .next s := by
  rw [exec_localAccessComplete, execLocalAccessComplete]
  simp [h.op, h.open_, h.kind, scratchOf_one h hl, hc]

theorem local_array (ha : AtArray s id w off o q g) :
    exec (.localAccessComplete id) s = .next (match s.scratchDo w off q.n q.act with
      | (.ok b, s') => (s'.gotPiece id 0 b).settle id
      | (.error c, s') => s'.opFault id c q.va) := by
  have hscr := scratchOf_one h ha.loc
  have hlate : (q.act != .load && s.syncAhead id) = false := by
    by_cases hact : q.act = .load
    · simp [hact]
    · simp [ha.noSync hact]
  have hcopy : (some w == some o.wg && s.copyBefore id o) = false := by
    by_cases hw : w = o.wg
    · simp [ha.noCopy hw]
    · simp [hw]
  have haway : (((some w).bind s.wg).map (fun g => g.resid == .saved) == some true) = false := by
    simp [ha.wg, ha.here]
  rw [exec_localAccessComplete, execLocalAccessComplete]
  simp only [h.op, h.open_, h.kind, h.pieces, hscr, List.any_cons, List.any_nil, List.zipIdx_cons, List.zipIdx_nil,
    List.foldl_cons, List.foldl_nil, h.got, ha.loc, ha.first, haway, hcopy, Bool.or_false, Bool.and_false,
    Bool.false_eq_true, if_false, hlate]
  rcases s.scratchDo w off q.n q.act with ⟨_ | b, s'⟩ <;> rfl

/-- The bytes of a scratchpad range have been written at its array. -/
def putScratch (s : State) (w off : Nat) (d : List Byte) : State :=
  s.modWg w (fun g => { g with
    scratch := memWrite g.scratch off d
    badScratch := g.badScratch.filter (fun b => !(off ≤ 8 * b && 8 * b + 8 ≤ off + d.length)) })

variable (ha : AtArray s id w off o q g) (hsound : g.badScratch.any (fun b => overlaps off q.n (8 * b) 8) = false)
include ha

theorem local_store {d : List Byte} (hact : q.act = .store d) :
    exec (.localAccessComplete id) s = .next ((putScratch s w off d).gotPiece id 0 []) := by
  rw [local_array h ha, ← h.settled (s' := putScratch s w off d) rfl]
  simp only [State.scratchDo, ha.wg, hact]
  rfl

include hsound

theorem local_load (hact : q.act = .load) :
    exec (.localAccessComplete id) s = .next (s.gotPiece id 0 (memRead g.scratch off q.n)) := by
  rw [local_array h ha, ← h.settled rfl]
  simp only [State.scratchDo, ha.wg, hact, hsound, Bool.false_eq_true, if_false]

theorem local_atomic {opc fn ty x cmp : Nat} (hact : q.act = .atomic (.rmw opc fn ty x cmp)) :
    exec (.localAccessComplete id) s = .next ((putScratch s w off (rmwBytes opc fn ty x cmp (memRead g.scratch off q.n))).gotPiece
      id 0 (memRead g.scratch off q.n)) := by
  rw [local_array h ha, ← h.settled (s' := putScratch s w off _) rfl]
  simp only [State.scratchDo, ha.wg, hact, hsound, Bool.false_eq_true, if_false]
  rfl

end

/-! ## The last piece of a load (R131, R305) -/

/-- A load whose destination is a register slot of a frame that stands in the register file. -/
structure LastPiece (s : State) (id fr sl : Nat) (o : Op) (q : Piece) (ty : Ty) (th : Thread) : Prop where
  asc : Ascending s.ops
  op : tget s.ops id = some o
  open_ : o.done = false
  kind : o.kind = .mem (.load ty)
  pieces : o.pieces = [q]
  noWaiters : o.waiters = []
  dst : o.dst = [.v fr sl]
  thread : s.thread o.wg o.tid = some th
  inFile : ∀ f ∈ th.frames, f.id = fr → f.spilled = false

theorem putRecord_inFile {s : State} {w t fr sl : Nat} {x : Word} {th : Thread} (ht : s.thread w t = some th)
    (hf : ∀ f ∈ th.frames, f.id = fr → f.spilled = false) : s.putRecord w t (.v fr sl) x = s := by
  simp only [State.putRecord, ht]
  split
  · rename_i g below hd
    have hg : g ∈ th.frames := (List.dropWhile_sublist _).subset (hd ▸ List.mem_cons_self)
    have hid : g.id = fr := by
      have := List.head?_dropWhile_not (fun g : Frame => g.id != fr) th.frames
      simpa [hd] using this
    rw [hf g hg hid]
    rfl
  · rfl

theorem unlatch_wgs (s : State) (w t : Nat) (r : Nat × Nat) : (s.unlatch w t r).wgs = s.wgs := by
  unfold State.unlatch
  repeat' split
  all_goals rfl

section
variable {s : State} {id fr sl : Nat} {o : Op} {q : Piece} {ty : Ty} {th : Thread} (h : LastPiece s id fr sl o q ty th)
include h

theorem lastPiece_wgs (bytes : List Byte) :
    (s.gotPiece id 0 bytes).wgs =
      (s.modThread o.wg o.tid (fun th => { th with frames := framePut th.frames (fr, sl) (dataOf ty bytes) })).wgs := by
  have hv : finalValues (withBytes o q bytes) (.load ty) = [(.v fr sl, dataOf ty bytes)] := by
    simp [finalValues, withBytes, memResult, h.dst]
  have hfinish (s' : State) (hs : tget s'.ops id = some (withBytes o q bytes)) (d : Dst × Word) : (s'.finish id [d]).wgs =
      ((s'.putDst o.wg o.tid d.1 d.2).putRecord o.wg o.tid d.1 d.2).wgs := by
    simp only [State.finish, hs, withBytes, h.noWaiters, List.foldl_cons, List.foldl_nil]
    split <;> rfl
  have hput (s' : State) (hs : s'.wgs = s.wgs) : (s'.putDst o.wg o.tid (.v fr sl) (dataOf ty bytes)).wgs =
      (s.modThread o.wg o.tid (fun th => { th with frames := framePut th.frames (fr, sl) (dataOf ty bytes) })).wgs := by
    simp only [State.putDst, State.modThread, State.modWg, unlatch_wgs, hs]
  rw [gotPiece_one h.op h.open_ h.kind h.pieces, hv, hfinish _ (tget_tset_same ..)]
  have hth : ((setOp s id (withBytes o q bytes)).putDst o.wg o.tid (.v fr sl) (dataOf ty bytes)).thread o.wg o.tid =
      some { th with frames := framePut th.frames (fr, sl) (dataOf ty bytes) } := by
    rw [State.thread, hput (setOp s id (withBytes o q bytes)) rfl, ← State.thread, State.thread_modThread, if_pos ⟨rfl, rfl⟩, h.thread]
    rfl
  rw [putRecord_inFile hth ?_, hput (setOp s id (withBytes o q bytes)) rfl]
  intro f hf hid
  obtain ⟨f0, hf0, rfl⟩ := List.mem_map.1 hf
  have hkeep : (if f0.id == fr then { f0 with slots := f0.slots.set sl (dataOf ty bytes), bad := f0.bad.filter (· != sl) } else f0).id
      = f0.id := by split <;> rfl
  have := h.inFile f0 hf0 (hkeep.symm.trans hid)
  split <;> exact this

theorem lastPiece_thread (bytes : List Byte) :
    (s.gotPiece id 0 bytes).thread o.wg o.tid = some { th with frames := framePut th.frames (fr, sl) (dataOf ty bytes) } := by
  rw [State.thread, lastPiece_wgs h, ← State.thread, State.thread_modThread, if_pos ⟨rfl, rfl⟩, h.thread]
  rfl

end

theorem dataOf_eq (ty : Ty) (bytes : List Byte) : dataOf ty bytes =
    if ty.isS then BitVec.signExtend 64 (BitVec.ofNat ty.width (leNat bytes % 2 ^ ty.width))
    else BitVec.ofNat 64 (leNat bytes % 2 ^ ty.width) := by
  have hmod : BitVec.ofNat ty.width (leNat bytes % 2 ^ ty.width) = BitVec.ofNat ty.width (leNat bytes) := by
    apply BitVec.eq_of_toNat_eq
    simp
  cases hs : ty.isS with
  | true => simp [dataOf, widen_signed hs, hmod]
  | false =>
    rw [dataOf, widen_unsigned hs]
    apply BitVec.eq_of_toNat_eq
    simp

/-- Settles O19: flits, replies and retransmissions, the filling of a cache, the lines of a slice, and the ends of accesses. -/
theorem accessEventsComplete : Obligations.AccessEventsComplete := by
  refine ⟨fun s p k hp => ?flits, fun s p n line victim id k r good o f => ?replies, fun s c j p r e line hk hs => ?fill,
    fun s l x hnd => ?lines, fun s id w off o q f g => ?arrays, fun s id fr sl o q ty bytes th hasc ho hk hq hd hw hdst ht hf => ?last⟩
  case flits =>
    refine ⟨leaves_sent, leaves_first, fun r h0 hrep hr => leaves_timer h0 hrep hr, fun hr hb => ?_, fun b hr hb hrate => ?_,
      fun b hr hb hrate hfull => ?_, fun b hr hb hrate hempty => ?_, fun ha hw => ?_, fun ha hw hl => ?_, fun ha hw hl hg => ?_,
      fun ha hw => ?_, fun ha hw hg => ?_, fun ha hw hg => ?_⟩
    · rw [exec_flitInjection_ready hp hr, hb]; rfl
    · rw [exec_flitInjection_ready hp hr, hb]; exact congrArg _ (if_pos hrate)
    · rw [exec_flitInjection_ready hp hr, hb]; exact congrArg _ ((if_neg hrate).trans (if_neg hfull.not_gt))
    · rw [exec_flitInjection_ready hp hr, hb]; exact congrArg _ ((if_neg hrate).trans (if_pos hempty))
    · rw [exec_flitArrival_good hp ha, if_neg hw]
    · rw [exec_flitArrival_good hp ha, if_pos hw, hl]; simp [← hl]
    · rw [exec_flitArrival_good hp ha, if_pos hw, hl, hg]; rfl
    · rw [exec_flitArrival_bad hp ha]; exact congrArg _ (if_neg hw)
    · rw [exec_flitArrival_bad hp ha, hg]; exact congrArg _ (if_pos hw)
    · rw [exec_flitArrival_bad hp ha]; exact congrArg _ ((if_pos hw).trans (if_pos hg))
  case replies =>
    refine ⟨fun h ho hd hf hop hk => ?_, fun h ho hd hf hop => ?_, fun h hd => ?_, fun h hd => ?_, fun h hd hn => ?_,
      fun h hd hn hb ho hsh hop => ?_, fun h hd hn hb => ?_, fun hr hw => exec_requestRetransmit_idle hr hw, fun hl he => ?_,
      fun hl he => ?_, fun hr hh hl hon hpk => ?_, fun hr hst => ?_⟩
    · obtain ⟨hp, hr, hrep, hgood, hwhole, hwag⟩ := h
      have hrep : Reply s p k r := ⟨hp, hr, hrep, hgood, hwhole, hwag⟩
      rw [exec_replyArrival_reply hrep, hd, answered_own ⟨ho.1, ho.2.1, ho.2.2⟩, hf]
      simp only [if_true, Bool.false_eq_true, if_false]
      rw [opAnswered_mem ((congrArg (tget · id) (fillLine_ops (s := replied s p k) r k.line)).trans hop) hk]
      rfl
    · obtain ⟨hp, hr, hrep, hgood, hwhole, hwag⟩ := h
      have hrep : Reply s p k r := ⟨hp, hr, hrep, hgood, hwhole, hwag⟩
      rw [exec_replyArrival_reply hrep, hd, answered_own ⟨ho.1, ho.2.1, ho.2.2⟩, if_neg hf,
        opAnswered_fault (s := replied s p k) (o := o) hf hop]
      simp only [Bool.false_eq_true, if_false]
      rfl
    · obtain ⟨hp, hr, hrep, hgood, hwhole, hwag⟩ := h
      have hrep : Reply s p k r := ⟨hp, hr, hrep, hgood, hwhole, hwag⟩
      rw [exec_replyArrival_reply hrep, hd]
      rfl
    · obtain ⟨hr, hsent, hdue, hno⟩ := h
      rw [exec_requestRetransmit_late ⟨hr, hsent, hdue, hno⟩, hd]
      rfl
    · obtain ⟨hr, hsent, hdue, hno⟩ := h
      rw [exec_requestRetransmit_late ⟨hr, hsent, hdue, hno⟩, hd, if_neg Bool.false_ne_true, if_pos hn]
      rfl
    · obtain ⟨hr, hsent, hdue, hno⟩ := h
      rw [exec_requestRetransmit_late ⟨hr, hsent, hdue, hno⟩, hd, if_neg Bool.false_ne_true, if_neg hn.not_gt, if_neg ?nb,
        answered_own ⟨ho.1, ho.2.1, ho.2.2⟩, if_neg (by decide),
        opAnswered_fault (s := sendsAgain s n { r with dead := true, sends := 1 } true) (o := o) (fault := 0xE1) (by decide) hop, hsh]
      · rfl
      case nb =>
        intro hcrc
        obtain ⟨hc, hsrc⟩ := Bool.and_eq_true_iff.1 hcrc
        split at hsrc
        · rename_i d hd
          exact hb ⟨hc, d, hd⟩
        · cases hsrc
    · obtain ⟨hr, hsent, hdue, hno⟩ := h
      obtain ⟨hc, d, hsrc⟩ := hb
      rw [exec_requestRetransmit_late ⟨hr, hsent, hdue, hno⟩, hd, if_neg Bool.false_ne_true, if_neg hn.not_gt,
        if_pos (by rw [hc, hsrc]; rfl)]
      rfl
    · rw [exec_hbmReadComplete, execHbmReadComplete, hl]
      refine congrArg Host.Outcome.next ?_
      dsimp only at he ⊢
      rw [if_neg (by decide), he]
    · rw [exec_hbmReadComplete, execHbmReadComplete, hl]
      refine congrArg Host.Outcome.next ?_
      dsimp only at he ⊢
      rw [if_neg (by decide), he]
    · rw [lineRead_reqs, hr]
      simp [afterRead, hh, hl, hon, hpk]
    · rw [exec_hostCompletion, execHostCompletion]
      simp [hr, hst]
  case fill =>
    exact ⟨fun hp hf hu hl => fillLine_unsure hk hs hf hp hu hl, fun he hes hed hq hl => fillLine_older hk hs he hes hed hq hl,
      fun he hes hed hf hl => fillLine_elsewhere hk hs he hes hed hf hl⟩
  case lines =>
    exact ⟨l2Insert_out, fun h => by rw [l2Insert_in h]; exact List.mem_cons_self, fun e he => l2Insert_from he,
      fun e he hne hgone => l2Insert_gone hnd he hne hgone, l2Insert_fits⟩
  case arrays =>
    have one (h : (s.ops.map (·.1)).Pairwise (· < ·) ∧ tget s.ops id = some o ∧ o.done = false ∧ o.kind = .mem f ∧
        o.pieces = [q] ∧ q.got = none) : OnePiece s id o f q := by
      obtain ⟨hasc, ho, hd, hk, hp, hg⟩ := h
      exact ⟨hasc, ho, hd, hk, hp, hg⟩
    have at_ (h : q.loc = .scratch w off ∧ s.wg w = some g ∧ g.resid ≠ .saved ∧
        s.ops.any (fun e => decide (e.1 < id) && !e.2.done && e.2.scratchOf == some w) = false ∧
        (w = o.wg → s.copyBefore id o = false) ∧ (q.act ≠ .load → s.syncAhead id = false)) : AtArray s id w off o q g := by
      obtain ⟨hl, hg, hr, hfirst, hcopy, hsync⟩ := h
      exact ⟨hl, hg, hr, hfirst, hcopy, hsync⟩
    exact ⟨fun h hl hc => local_behind_copy (one h) hl hc, fun b h hl ha => local_hit (one h) hl ha,
      fun h ha hsound hact => local_load (one h) (at_ ha) hsound hact, fun d h ha hact => local_store (one h) (at_ ha) hact,
      fun opc fn ty x cmp h ha hsound hact => local_atomic (one h) (at_ ha) hsound hact⟩
  case last =>
    have h : LastPiece s id fr sl o q ty th := ⟨hasc, ho, hd, hk, hq, hw, hdst, ht, hf⟩
    intro s' x datum
    refine ⟨⟨_, lastPiece_thread h bytes, ?_, rfl, rfl⟩, gotPiece_done hasc ho hd hk hq⟩
    exact congrArg (framePut th.frames (fr, sl)) (dataOf_eq ty bytes)

end Sys2Proof.Proofs
end

section
/-!
PROOFS. The statement about a home slice's requests fails for a memory that lists an address twice
(spec/03_memory_paths.md R53, R410).
-/

namespace Sys2Proof.Proofs

open Sys2Proof.Machine Sys2Proof.Safety Sys2Proof.Laws

/-- A memory that lists address 0 twice: 1, and 2 behind it. It is not in the canonical form that the model's own steps keep. -/
def twiceListed : State := { mem := [(0, 1), (0, 2)] }

/-- A store of 64 zero bytes to the line at 0. -/
def zeroLine : Req :=
  { src := .host, dst := 0, part := 0, kind := .store (List.replicate 64 0), ph := { pa := 0, cache := 2 }, n := 64, va := 0 }

/-- The store of a zero byte takes the first of the two entries out, so that the second one shows. -/
theorem storeAt_twiceListed : memGet (twiceListed.storeAt zeroLine (List.replicate 64 0)).mem 0 = 2 := by decide

/-- Refutes O20: a store of the full line into a memory that lists an address of the line twice does not leave its bytes there, as
the last clause but one says; the statement does not ask that the memory be canonical. -/
theorem not_sliceServesRequests : ¬Obligations.SliceServesRequests := by
  intro h
  obtain ⟨-, -, -, -, -, -, -, -, -, -, -, -, -, -, -, -, hstore, -⟩ :=
    h twiceListed 0 { req := 0, src := .host, dst := 0, reply := false, flits := 1, die := 0, part := 0 } zeroLine rfl rfl
  have hread := (hstore (List.replicate 64 0) rfl rfl rfl rfl rfl).2
  have hfirst : (memRead (twiceListed.storeAt zeroLine (List.replicate 64 0)).mem 0 64).head? = some 0 :=
    (congrArg List.head? hread).trans rfl
  rw [memRead, List.head?_cons, storeAt_twiceListed] at hfirst
  exact absurd hfirst (by decide)

end Sys2Proof.Proofs
end

section
/-!
PROOFS. The turns of a step that issue nothing, sample words of the encoding, and the module after reset
(spec/10_encoding.md; spec/15_faults.md R410, R414; spec/16_device.md R431 to R433).
-/

namespace Sys2Proof.Proofs

open Sys2Proof.Machine Sys2Proof.Safety Sys2Proof.Laws

/-- Settles O56: each word by the decoder's own evaluation. -/
theorem decodeSampleWords : Obligations.DecodeSampleWords := by
  unfold Obligations.DecodeSampleWords
  decide

/-- Settles O57: the reset state is the default one. -/
theorem resetValues : Obligations.ResetValues :=
  ⟨fun _ => rfl, rfl, rfl, rfl, fun _ _ => rfl, rfl, rfl, fun _ => rfl, rfl, rfl, rfl, rfl, rfl, rfl, rfl⟩

/-- Settles O59: the memories after reset list no byte. -/
theorem memoryCanonicalAtReset : Obligations.MemoryCanonicalAtReset := rfl

/-! ## Turns that are no issue -/

theorem teamFence_next (i : Instr) (c : Ctl) (m : Opnd ⊕ Nat) (s : State) : ∃ t, teamFence i c m s = .next t := by
  unfold teamFence
  split
  · exact ⟨_, rfl⟩
  · dsimp only
    split <;> exact ⟨_, rfl⟩

/-- Every instruction and every event has a next state. -/
theorem exec_next (i : Instr) (s : State) : ∃ t, exec i s = .next t := by
  cases i
  case teamSync => exact teamFence_next ..
  case teamSyncImm => exact teamFence_next ..
  all_goals exact ⟨_, rfl⟩

theorem step_act {s : State} {rest : List Turn} {i : Instr} (h : s.agenda = .act i :: rest) :
    step s = if !s.power && i != .moduleReset then .fault .powerOff
      else if i.isEvent && ({ s with agenda := rest, turn := some (.act i) } : State).allows i then
        afterEvent (exec i { s with agenda := rest, turn := some (.act i) })
      else .next { s with agenda := rest, turn := some (.act i) } := by
  rw [step, h]

/-- Settles O54: the turns of a step that is no issue, each by the step's own case. -/
theorem stepGates : Obligations.StepGates := by
  intro s rest i c p x s0 works
  have hrun : works → (s.power = true ∧ (s.fatal.isSome || s.running.isNone) = false) := by
    rintro ⟨hp, hf, hr⟩
    simp [hp, hf, Option.isSome_iff_ne_none, hr]
  refine ⟨exec_next i s, fun h hp => ?_, fun h hp => ?_, fun h hp => ?_, fun h hp he ha => ?_, fun h hp he => ?_, fun h hp hi => ?_,
    fun h hw => ?_, fun h hw => ?_, fun h hp => ?_, fun u h hu hp hw => ?_⟩
  · simp [step, h, hp]
  · simp [step, h, hp]
  · simp [step, h, hp, s0]
  · have hgo : (!s.power && i != .moduleReset) = false := by
      rcases hp with hp | rfl
      · simp [hp]
      · simp
    rw [step_act h, hgo, if_neg Bool.false_ne_true]
    exact if_pos (Bool.and_eq_true_iff.2 ⟨he, ha⟩)
  · have hno : (i.isEvent && (s0 (.act i)).allows i) = false := by
      rcases he with he | ha
      · simp [he]
      · simp [ha]
    rw [step_act h]
    exact (if_neg (by simp [hp])).trans (if_neg fun h => Bool.false_ne_true (hno.symm.trans h))
  · simp [step, h, hp, hi]
  · obtain ⟨hp, hw⟩ := hrun hw
    simp [step, h, hp, hw, afterEvent, s0]
  · obtain ⟨hp, hw⟩ := hrun hw
    simp [step, h, hp, hw, afterEvent, s0]
  · simp [step, h, hp]
  · have hstop : (s.fatal.isSome || s.running.isNone) = true := by
      rcases hw with hf | hr
      · simp [Option.isSome_iff_ne_none.2 hf]
      · simp [hr]
    rcases hu with rfl | rfl | rfl <;> simp [step, h, hp, hstop, s0]

end Sys2Proof.Proofs
end

section
/-!
PROOFS. A step at an issue turn: the pick, the fetch and the instruction that it gives (spec/07_execution.md R154 to R162).
-/

namespace Sys2Proof.Proofs

open Sys2Proof.Machine Sys2Proof.Safety Sys2Proof.Laws

/-! ## What a turn forms -/

section
variable {s s1 : State} {c p t raw : Nat} {x : Cand} {ts : List Nat} {th : Thread} {i : Instr}

/-- The fetch of the word of the candidate that a pipe takes. -/
def pickFetch (s : State) (c p : Nat) (x : Cand) : Except (Nat × Nat) Nat × State :=
  fetchWord { (s.ranked c).picked c p x with issues := (s.ranked c).issues + 1 } x.wg x.tids x.pc

theorem form_none (h : (s.ranked c).pick c p = none) : s.form c p = (s.ranked c, none) := by
  rw [State.form]
  simp only [h]

section
variable (h : (s.ranked c).pick c p = some x)
include h

theorem form_waits {a : Nat} (hf : pickFetch s c p x = (.error (0, a), s1)) :
    s.form c p = ((s1.late x.wg x.tids).foldl (fun (s : State) t => s.deliverDeferred x.wg t) s1, none) := by
  unfold pickFetch at hf
  rw [State.form]
  simp only [h, hf]

theorem form_fails {f a : Nat} (h0 : f ≠ 0) (hf : pickFetch s c p x = (.error (f, a), s1)) :
    s.form c p = (s1.fetchFault x.wg x.pc x.tids f a, none) := by
  obtain ⟨f, rfl⟩ := Nat.exists_eq_succ_of_ne_zero h0
  unfold pickFetch at hf
  rw [State.form]
  simp only [h, hf]

variable (hts : x.tids = t :: ts) (hf : pickFetch s c p x = (.ok raw, s1)) (hth : s1.thread x.wg t = some th)
include hts hf hth

/-- The threads of the candidate that see the same word as its first. -/
def sameWord (s1 : State) (x : Cand) (raw word : Nat) : List Nat :=
  x.tids.filter (fun t => (s1.thread x.wg t).map (fun th => th.word raw) == some word)

/-- The bundle that issues the word. -/
def bundleFor (s1 : State) (c p : Nat) (x : Cand) (raw word : Nat) : Cur :=
  { core := c, pipe := p, wg := x.wg, pc := x.pc, tids := sameWord s1 x raw word }

theorem form_decoded (hd : decodeWord (th.word raw) = .ok i) :
    s.form c p = match crossMask i, x.pick with
      | some _, .gather _ _ _ =>
        let ts := sameWord s1 x raw (th.word raw)
        let low := ts.filter (fun t => ((s1.thread x.wg t).map Thread.topSpilled).getD false)
        if !low.isEmpty then
          (low.foldl (fun s t => s.need x.wg t (fun th => { th with st := .refillWait })) s1, none)
        else
        let s := ts.foldl (fun s t => s.modThread x.wg t (fun th => { th with st := .run })) s1
        ({ s with cur := some (bundleFor s1 c p x raw (th.word raw)) }, some i)
      | some m, _ => (s1.gather x.wg x.pc i (decodeCtl (th.word raw)) m (sameWord s1 x raw (th.word raw)), none)
      | none, _ => ({ s1 with cur := some (bundleFor s1 c p x raw (th.word raw)) }, some i) := by
  unfold pickFetch at hf
  rw [State.form]
  have hhead : x.tids.head?.bind (fun t => s1.thread x.wg t) = some th := by rw [hts]; exact hth
  simp only [h, hf, hhead, hd]
  rfl

theorem form_undecoded {f : Nat} (hd : decodeWord (th.word raw) = .error f) :
    s.form c p =
      let ctl := decodeCtl (th.word raw)
      let ts := sameWord s1 x raw (th.word raw)
      let s := (s1.late x.wg ts).foldl (fun s t => s.deliverDeferred x.wg t) s1
      let s := (s1.guarded x.wg ts ctl false).foldl (fun s t => (s.modThread x.wg t Thread.advance).issued x.wg t ctl) s
      (s.deliver x.wg x.pc (s1.guarded x.wg ts ctl true).length
        ((s1.guarded x.wg ts ctl true).map (fun t => { t := t, code := f, addr := 0 })), none) := by
  unfold pickFetch at hf
  rw [State.form]
  have hhead : x.tids.head?.bind (fun t => s1.thread x.wg t) = some th := by rw [hts]; exact hth
  simp only [h, hf, hhead, hd]
  rfl

end

end

/-! ## The step -/

theorem step_issue {s : State} {c p : Nat} {rest : List Turn} (h : s.agenda = .issue c p :: rest) (hp : s.power = true)
    (hf : s.fatal = none) (hr : s.running ≠ none) :
    step s = issueTurn { s with agenda := rest, turn := some (.issue c p) } c p exec := by
  rw [step, h]
  exact (if_neg (by simp [hp])).trans (if_neg (by simp [hf, hr]))

theorem issueTurn_none {s s1 : State} {c p : Nat} (h : s.form c p = (s1, none)) :
    issueTurn s c p exec = .next (s1.tidy c []) := by
  rw [issueTurn, h]

theorem issueTurn_some {s s1 : State} {c p : Nat} {u : Cur} {i : Instr} (h : s.form c p = ({ s1 with cur := some u }, some i)) :
    issueTurn s c p exec = afterExec u i (exec i { s1 with cur := some u }) := by
  rw [issueTurn, h]

/-- Settles O52: each outcome of a fetch gives its step. -/
theorem stepRunsDecodedInstruction : Obligations.StepRunsDecodedInstruction := by
  intro s c p rest x t ts raw s1 th i hag hpow hfat hrun s0 fetch word ctl same cur ends
  have hstep := step_issue hag hpow hfat hrun
  have hend {s' : State} (h : ({ s with agenda := rest, turn := some (.issue c p) } : State).form c p = (s', none)) : ends s' :=
    hstep.trans (issueTurn_none h)
  refine ⟨fun hpick => hend (form_none hpick), fun hpick hts => ⟨fun a hf hl => hend ?_, fun f a h0 hf => hend (form_fails hpick h0 hf),
    fun f a hcode hl => ?_, fun hf hth => ⟨fun hd => ⟨fun hm => ?_, fun m w pc l hm hx hlow => ?_, fun m hm hx => hend ?_⟩,
      fun f hd hone hno => ?_⟩⟩⟩
  · rw [form_waits hpick hf, hl]; rfl
  · simp [State.fetchFault, hl, hcode]
  · have hsame : bundleFor s1 c p x raw (th.word raw) = cur := by rw [bundleFor, sameWord, hts]
    refine hstep.trans (issueTurn_some (s1 := s1) ((form_decoded hpick hts hf hth hd).trans ?_))
    simp only [hm, hsame]
  · have hsame : bundleFor s1 c p x raw (th.word raw) = cur := by rw [bundleFor, sameWord, hts]
    have hlist : sameWord s1 x raw (th.word raw) = same := by rw [sameWord, hts]
    have hnone : same.filter (fun t => ((s1.thread x.wg t).map Thread.topSpilled).getD false) = [] :=
      List.filter_eq_nil_iff.2 fun v hv => by rw [hlow v hv]; decide
    refine hstep.trans (issueTurn_some ((form_decoded hpick hts hf hth hd).trans ?_))
    simp only [hm, hx, hsame, hlist, hnone]
    rfl
  · have hlist : sameWord s1 x raw (th.word raw) = same := by rw [sameWord, hts]
    rw [form_decoded hpick hts hf hth hd, hm, hlist]
    cases hpk : x.pick with
    | gather w pc l => exact absurd hpk (hx w pc l)
    | _ => rfl
  · have hlist : sameWord s1 x raw (th.word raw) = [t] := by
      rw [sameWord, hts, hone]
      simp [hth]
    have hlate : s1.late x.wg [t] = [] := by simp [State.late, hth, hno]
    have hform := form_undecoded hpick hts hf hth hd
    simp only [hlist, hlate] at hform
    have hg (yes : Bool) : s1.guarded x.wg [t] ctl yes = if th.guard ctl = yes ∧ s1.guardBusy x.wg t ctl = false then [t] else [] := by
      by_cases hb : th.guard ctl = yes ∧ s1.guardBusy x.wg t ctl = false
      · rw [if_pos hb]
        simp [State.guarded, hth, hno, hb.1, hb.2]
      · rw [if_neg hb]
        simpa [State.guarded, hth, hno] using hb
    refine ⟨fun hb => hend (hform.trans ?_), fun hb hyes => hend (hform.trans ?_), fun hb hnot => hend (hform.trans ?_)⟩
    all_goals
      simp only [show decodeCtl (th.word raw) = ctl from rfl, hg, hb]
    · simp [State.deliver]
    · simp [hyes]
    · simp [hnot, passBy, State.deliver]

end Sys2Proof.Proofs
end

section
/-!
PROOFS. What a fetch reads (spec/10_encoding.md R231; spec/07_execution.md R159).
-/

namespace Sys2Proof.Proofs

open Sys2Proof.Machine Sys2Proof.Safety Sys2Proof.Laws

theorem pageParts_one {va n : Nat} (hn : 0 < n) (h : va % 65536 + n ≤ 65536) : pageParts 2 va n = [(va, n)] := by
  have hmin : min n (65536 - va % 65536) = n := by omega
  simp [pageParts, hn.ne', hmin]

/-- A word none of whose bytes was written since the mark reads as memory stands. -/
theorem codeWord_unwritten {s : State} {mark pa n : Nat} {l : List Nat}
    (h : ∀ e ∈ s.wlog.take (s.wlog.length - mark), e.1 < pa ∨ pa + n ≤ e.1) (hl : ∀ i ∈ l, i < n) :
    codeWord s mark (l.map (fun i => (pa + i, false))) = l.map (fun i => memGet s.mem (pa + i)) := by
  have hno : (s.wlog.take (s.wlog.length - mark)).any (fun e => (l.map (fun i => (pa + i, false))).any (fun a => !a.2 && a.1 == e.1))
      = false := by
    simp only [List.any_eq_false, List.any_map, Function.comp, List.any_eq_true, not_exists, not_and]
    intro e he i hi
    have := h e he
    have := hl i hi
    simp
    omega
  rw [codeWord]
  simp only [hno]
  simp [List.map_map, Function.comp_def]

theorem memRead_eq_map (m : Mem) (a n : Nat) : memRead m a n = (List.range n).map (fun i => memGet m (a + i)) := by
  induction n generalizing a with
  | zero => rfl
  | succ n ih =>
    rw [memRead, ih, List.range_succ_eq_map, List.map_cons, List.map_map]
    simp [Function.comp_def, Nat.add_assoc, Nat.add_comm 1]

/-- The 12 bytes of one page in device memory that no poison touches stand at the places from the translated byte up. -/
theorem fetchAddrs_page {s : State} {c w : Nat} {ts : List Nat} {part asid root va n : Nat} {user : Bool} {ph : Phys}
    (hn : 0 < n) (hpage : va % 65536 + n ≤ 65536) (hplace : place va = .glob va)
    (hx : s.xlate c w ts part asid root va .fetch false user = (.ok ph, s)) (hh : ph.host = false)
    (hp : s.poisonedIn ph.pa n = none) :
    fetchAddrs s c w ts part asid root user va n = (.ok ((List.range n).map (fun i => (ph.pa + i, false))), s) := by
  rw [fetchAddrs, pageParts_one hn hpage]
  simp [hplace, hx, hh, hp]

/-- Settles O53: the three words of the code are read at their places, and no byte of them was written since the mark. -/
theorem fetchReadsTheCode : Obligations.FetchReadsTheCode := by
  intro s w idx ts g l ph va hg hl hpage hlow hx hh hp hlog
  have hplace : place va = .glob va := if_pos (by omega)
  have hlt (l : List Nat) (h : l.Sublist (List.range 12)) : ∀ i ∈ l, i < 12 := fun i hi => List.mem_range.1 (h.subset hi)
  have hword (fresh : Nat) (ls : List Nat) (h : ls.Sublist (List.range 12)) :
      codeWord { s with fresh := fresh } l.wmark (ls.map (fun i => (ph.pa + i, false))) = ls.map (fun i => memGet s.mem (ph.pa + i)) :=
    codeWord_unwritten (s := { s with fresh := fresh }) hlog (hlt ls h)
  unfold fetchWord
  simp only [hg, hl]
  rw [fetchAddrs_page (by decide) hpage hplace hx hh hp]
  have h0 := hword s.fresh ((List.range 12).take 4) (List.take_sublist _ _)
  have h1 := hword (s.fresh + 1) (((List.range 12).drop 4).take 4) ((List.take_sublist _ _).trans (List.drop_sublist _ _))
  have h2 := hword (s.fresh + 1 + 1) ((List.range 12).drop 8) (List.drop_sublist _ _)
  simp only [List.map_take, List.map_drop] at h0 h1 h2
  simp only [h0, h1, h2, memRead_eq_map]
  rfl

end Sys2Proof.Proofs
end


section
/-! PROOFS. The checks that precede every instruction. -/
namespace Sys2Proof.Proofs
open Sys2Proof.Machine Sys2Proof.Safety Sys2Proof.Laws

/-! ## The checks before an instruction's own -/

/-- Every instruction but the three that gather their threads by themselves runs through the one pipeline. -/
theorem exec_eq_isa {i : Instr} {p : Parts} (hp : i.parts = some p) (he : ∀ c o, i ≠ .elect c o)
    (hs : ∀ c o, i ≠ .teamSync c o) (hi : ∀ c o, i ≠ .teamSyncImm c o) (s : State) :
    ∃ f, exec i s = isa i p.c f s := by
  cases i
  case elect c o => exact absurd rfl (he c o)
  case teamSync c o => exact absurd rfl (hs c o)
  case teamSyncImm c o => exact absurd rfl (hi c o)
  all_goals cases hp <;> exact ⟨_, rfl⟩

/-- What the pipeline hands over for a bundle of one thread before the instruction itself is looked at: the state and
the faults found, or nothing where the instruction runs. -/
def beforeEffect (s : State) (i : Instr) (c : Ctl) (w t : Nat) (th : Thread) : Option (State × List Hit) :=
  if !th.faults.isEmpty then some (s.deliverDeferred w t, [])
  else if th.topSpilled then some (s.need w t (fun th => { th with st := .refillWait }), [])
  else if s.guardBusy w t c then some (s, [])
  else if !th.guard c then some (if i.uniform then goOn s w t c else passBy s w t c, [])
  else match precheck s w t th i with
    | some none => some (s, [])
    | some (some code) => some (s, [{ t := t, code := code, addr := 0 }])
    | none => none

variable {i : Instr} {c : Ctl} {f : State → Ctx → Act} {s : State} {t : Nat} {th : Thread} {r : State × List Hit}

theorem runThread_before {x : Ctx} (hx : x.t = t) (hu : i.uniform = false) (hth : s.thread x.w t = some th) (hw : (!th.faults.isEmpty && !th.waitsOp) = !th.faults.isEmpty)
    (hr : beforeEffect s i c x.w t th = some r) : runThread i c f x (s, []) = r := by
  subst hx
  unfold runThread
  unfold beforeEffect at hr
  rw [hu] at hr
  simp only [hth, hw]
  split
  case isTrue h => rw [if_pos h] at hr; exact Option.some.inj hr
  case isFalse h =>
    rw [if_neg h] at hr
    split
    case isTrue h => rw [if_pos h] at hr; exact Option.some.inj hr
    case isFalse h =>
      rw [if_neg h] at hr
      split
      case isTrue h => rw [if_pos h] at hr; exact Option.some.inj hr
      case isFalse h =>
        rw [if_neg h] at hr
        split
        case isTrue h => rw [if_pos h] at hr; exact Option.some.inj hr
        case isFalse h =>
          rw [if_neg h] at hr
          cases hp : precheck s x.w x.t th i with
          | none => rw [hp] at hr; cases hr
          | some o => cases o <;> (rw [hp] at hr; exact Option.some.inj hr)

/-- Whether the threads of a uniform instruction may take part. -/
theorem joins_eq {w : Nat} (hth : s.thread w t = some th) (yes : Bool) :
    s.joins w t c yes = ((th.guard c == yes) && th.faults.isEmpty && !th.topSpilled && !s.guardBusy w t c) := by
  simp [State.joins, hth]

theorem preHit_eq {w : Nat} (hth : s.thread w t = some th) :
    s.preHit w t i = match precheck s w t th i with
      | some (some code) => some { t := t, code := code, addr := 0 }
      | _ => none := by
  unfold State.preHit State.prechecked
  rw [hth]
  rfl

theorem prechecked_eq {w : Nat} (hth : s.thread w t = some th) : s.prechecked w t i = precheck s w t th i := by
  simp [State.prechecked, hth]

/-- A uniform instruction whose only thread stays out of it. -/
theorem runUniform_out {u : Cur} (hts : u.tids = [t]) (hth : s.thread u.wg t = some th) (hw : (!th.faults.isEmpty && !th.waitsOp) = !th.faults.isEmpty)
    (ho : (th.faults.isEmpty && !th.topSpilled && !s.guardBusy u.wg t c) = false) :
    runUniform i c f u s = (if !th.faults.isEmpty then (s.deliverDeferred u.wg t, [])
      else if th.topSpilled then (s.need u.wg t (fun th => { th with st := .refillWait }), [])
      else (s, [])) := by
  have hj : ∀ yes, s.joins u.wg t c yes = false := fun yes => by
    rw [joins_eq hth, Bool.and_assoc, Bool.and_assoc, ← Bool.and_assoc th.faults.isEmpty, ho, Bool.and_false]
  unfold runUniform
  simp only [hts, List.filter_cons, List.filter_nil, hj, Bool.false_eq_true, if_false, List.contains_nil, Bool.not_false,
    Bool.and_self, if_true, List.foldl_nil, List.foldl_cons, List.filterMap_nil, List.any_nil]
  unfold runThread
  simp only [hth, hw]
  cases hf : th.faults.isEmpty with
  | false => simp
  | true =>
    cases hs : th.topSpilled with
    | true => simp
    | false =>
      have hg : s.guardBusy u.wg t c = true := by simpa [hf, hs] using ho
      simp [hg]

theorem runUniform_before {u : Cur} (hu : i.uniform = true) (hts : u.tids = [t]) (hth : s.thread u.wg t = some th)
    (hw : (!th.faults.isEmpty && !th.waitsOp) = !th.faults.isEmpty) (hr : beforeEffect s i c u.wg t th = some r) : runUniform i c f u s = r := by
  unfold beforeEffect at hr
  rw [hu] at hr
  cases hin : th.faults.isEmpty && !th.topSpilled && !s.guardBusy u.wg t c with
  | false =>
    rw [runUniform_out hts hth hw hin]
    cases hf : th.faults.isEmpty <;> cases hs : th.topSpilled <;> simp_all
  | true =>
    have hj : ∀ yes, s.joins u.wg t c yes = (th.guard c == yes) := fun yes => by
      rw [joins_eq hth, Bool.and_assoc, Bool.and_assoc, ← Bool.and_assoc th.faults.isEmpty, hin, Bool.and_true]
    obtain ⟨⟨hf, hs⟩, hg⟩ : (th.faults.isEmpty = true ∧ th.topSpilled = false) ∧ s.guardBusy u.wg t c = false := by
      simpa using hin
    rw [hf, hs, hg] at hr
    unfold runUniform
    cases hc : th.guard c with
    | false =>
      rw [hc] at hr
      simpa [hts, hj, hc, goOn] using hr
    | true =>
      rw [hc] at hr
      cases hp : precheck s u.wg t th i with
      | none => rw [hp] at hr; cases hr
      | some o => cases o <;> (rw [hp] at hr; simpa [hts, hj, hc, preHit_eq hth, prechecked_eq hth, hp] using hr)

variable {p : Parts} {u : Cur}

/-- The issue of a bundle of one thread that ends before the instruction itself. -/
theorem exec_before (hp : i.parts = some p) (he : ∀ c o, i ≠ .elect c o) (hs : ∀ c o, i ≠ .teamSync c o)
    (hi : ∀ c o, i ≠ .teamSyncImm c o) (hu : s.cur = some u) (hts : u.tids = [t]) (hth : s.thread u.wg t = some th)
    (hw : (!th.faults.isEmpty && !th.waitsOp) = !th.faults.isEmpty) (hr : beforeEffect (start s i p.c u) i p.c u.wg t th = some r) :
    exec i s = .next (settle u r) := by
  obtain ⟨f, hf⟩ := exec_eq_isa hp he hs hi s
  have ht : (start s i p.c u).thread u.wg t = some th := by rw [start_thread, hth]
  rw [hf]
  unfold isa
  rw [forThreads_cur hu]
  cases hun : i.uniform with
  | true => rw [if_pos rfl, runUniform_before hun hts ht hw hr]
  | false => rw [if_neg Bool.false_ne_true, hts, List.foldl_cons, List.foldl_nil, runThread_before rfl hun ht hw hr]

/-- Settles O51: the pipeline looks at the thread before it looks at the instruction. -/
theorem checksPrecedeTheEffect : Obligations.ChecksPrecedeTheEffect := by
  intro i p s u t th s1 hp he hs hi hu hts hth
  have go : ∀ {r : State × List Hit}, (!th.faults.isEmpty && !th.waitsOp) = !th.faults.isEmpty →
      beforeEffect s1 i p.c u.wg t th = some r → exec i s = .next (settle u r) :=
    fun hw hr => exec_before hp he hs hi hu hts hth hw hr
  refine ⟨fun hf hh => ?_, fun hf => ?_, fun hb => ?_⟩
  · rw [go (r := (s1.deliverDeferred u.wg t, [])) (by simp [Thread.waitsOp, hh]) (by simp [beforeEffect, hf]), settle_nil]
  · have go := fun {r} => go (r := r) (by simp [hf])
    refine ⟨fun hsp => ?_, fun hsp => ⟨fun hg => ?_, fun hg hc => ?_, fun hg hc => ⟨fun hpc => ?_, fun code hpc => ?_⟩⟩⟩
    · rw [go (r := (s1.need u.wg t (fun th => { th with st := .refillWait }), [])) (by simp [beforeEffect, hf, hsp]), settle_nil]
    · rw [go (r := (s1, [])) (by simp [beforeEffect, hf, hsp, s1, hg]), settle_nil]
    · rw [go (r := (if i.uniform then goOn s1 u.wg t p.c else passBy s1 u.wg t p.c, []))
        (by simp [beforeEffect, hf, hsp, s1, hg, hc]), settle_nil]
    · rw [go (r := (s1, [])) (by simp [beforeEffect, hf, hsp, s1, hg, hc, hpc]), settle_nil]
    · rw [go (r := (s1, [{ t := t, code := code, addr := 0 }])) (by simp [beforeEffect, hf, hsp, s1, hg, hc, hpc])]
      rfl
  · unfold precheck
    rw [hb]
    simp only [Bool.false_eq_true, if_false]
    repeat' split
    all_goals simp_all

end Sys2Proof.Proofs
end


section
/-! PROOFS. Atomic values, ordered entries, congestion windows and corrected errors. -/
namespace Sys2Proof.Proofs
open Sys2Proof.Machine Sys2Proof.Safety Sys2Proof.Laws

/-! ## Values of integer atomics (R311, R312) -/

theorem readTy_reduced (ty : Ty) (n : Nat) (h : n < 2 ^ ty.width) :
    readTy ty n = if ty.isS then (BitVec.ofNat ty.width n).toInt else (n : Int) := by
  unfold readTy
  rw [signExt_eq_toInt, Nat.mod_eq_of_lt h]

theorem rmwNew_integer (ty : Ty) (old x cmp : Nat) (hf : ty.isF = false) (ho : old < 2 ^ ty.width) :
    let w := ty.width
    let y := x % 2 ^ w
    let rd := fun (n : Nat) => if ty.isS then (BitVec.ofNat w n).toInt else (n : Int)
    rmwNew 0x144 0 ty old x cmp = (old + y) % 2 ^ w ∧
    rd (rmwNew 0x144 1 ty old x cmp) = min (rd old) (rd y) ∧
    rd (rmwNew 0x144 2 ty old x cmp) = max (rd old) (rd y) ∧
    rmwNew 0x144 3 ty old x cmp = old &&& y ∧ rmwNew 0x144 4 ty old x cmp = old ||| y ∧
    rmwNew 0x144 5 ty old x cmp = old ^^^ y ∧ rmwNew 0x144 6 ty old x cmp = y ∧
    rmwNew 0x146 0 ty old x cmp = if old = cmp % 2 ^ w then y else old := by
  intro w y rd
  have hy : y < 2 ^ ty.width := Nat.mod_lt _ (Nat.two_pow_pos _)
  have hrd : ∀ n, n < 2 ^ ty.width → readTy ty n = rd n := readTy_reduced ty
  have hmin : rmwNew 0x144 1 ty old x cmp = if rd old ≤ rd y then old else y := by
    rw [← hrd old ho, ← hrd y hy]
    simp [rmwNew, combOp, hf, y, w]
  have hmax : rmwNew 0x144 2 ty old x cmp = if rd old ≤ rd y then y else old := by
    rw [← hrd old ho, ← hrd y hy]
    simp [rmwNew, combOp, hf, y, w]
  refine ⟨by simp [rmwNew, combOp, hf, y, w], ?_, ?_, rfl, rfl, rfl, rfl, rfl⟩
  · rw [hmin, apply_ite rd, min_def]
  · rw [hmax, apply_ite rd, max_def]

/-! ## Congestion windows (R62) -/

theorem slice_modSlice (s : State) (n m : Nat) (f : Slice → Slice) :
    (s.modSlice n f).slice m = if m = n then f (s.slice n) else s.slice m := by
  unfold State.modSlice State.slice
  rw [tget_tset]
  split
  · next h => subst h; simp
  · rfl

/-- What a window's end publishes for a slice. -/
def published (now m : Nat) (x : Slice) : Slice :=
  { x with cong := congWord m x.full (Config.deflections m now), full := 0 }

/-- Slices publish one after another. -/
def publishUpTo (n : Nat) (s : State) : State :=
  (List.range n).foldl (fun (s : State) k => s.modSlice k (published s.now k)) s

theorem publishUpTo_windowAt (n : Nat) (s : State) : (publishUpTo n s).windowAt = s.windowAt :=
  foldl_keeps State.windowAt (f := fun s k => s.modSlice k (published s.now k)) (fun _ _ => rfl) _ s

theorem publishUpTo_now (n : Nat) (s : State) : (publishUpTo n s).now = s.now :=
  foldl_keeps State.now (f := fun s k => s.modSlice k (published s.now k)) (fun _ _ => rfl) _ s

theorem publishUpTo_slice (n m : Nat) (s : State) :
    (publishUpTo n s).slice m = if m < n then published s.now m (s.slice m) else s.slice m := by
  induction n with
  | zero => rfl
  | succ n ih =>
    have hstep : publishUpTo (n + 1) s = (publishUpTo n s).modSlice n (published (publishUpTo n s).now n) := by
      unfold publishUpTo
      rw [List.range_succ, List.foldl_append, List.foldl_cons, List.foldl_nil]
    rw [hstep, slice_modSlice, publishUpTo_now]
    by_cases hm : m = n
    · subst hm; simp [ih]
    · rw [if_neg hm, ih]
      exact if_congr (by omega) rfl rfl

/-- Cores take their levels one after another. -/
def throttles (g : Nat × Partition → Nat → Core → Core) (l : List (Nat × Partition)) (s : State) : State :=
  l.foldl (fun (s : State) p => p.2.hives.foldl (fun (s : State) h => (List.range 8).foldl (fun (s : State) i =>
    s.modCore (8 * h + i) (g p (8 * h + i))) s) s) s

/-- Only cores take levels. -/
theorem throttles_keep {β : Type} (π : State → β) (hπ : ∀ s c f, π (State.modCore s c f) = π s) (g : Nat × Partition → Nat → Core → Core)
    (l : List (Nat × Partition)) (s : State) : π (throttles g l s) = π s :=
  foldl_keeps π (fun _ _ => foldl_keeps π (fun _ _ => foldl_keeps π (fun _ _ => hπ ..) _ _) _ _) l s

/-- The level of a partition, and the memory-bound workgroups of a core. -/
def level (s : State) (q : Partition) : Nat := q.slices.foldl (fun m n => max m (bits (s.slice n).cong.toNat 33 32)) 0
def memb (s : State) (c : Nat) : Nat := (s.wgs.filter (fun e => e.2.core == c && e.2.resid == .resident &&
  ((tget s.launches e.2.launch).map (·.memb)).getD false)).length

def throttled (s : State) (p : Nat × Partition) (c : Nat) (k : Core) : Core :=
  { k with throttle := throttleOf (level s p.2) (memb s c) }

theorem congestionWindowEnd_publishes {s : State} (h : s.windowAt / 1024 < s.now / 1024) :
    ∃ s2, exec .congestionWindowEnd s = .next s2 ∧ s2.windowAt = s.now ∧
      ∀ m < Config.slices, s2.slice m = published s.now m (s.slice m) := by
  obtain ⟨g, l, hx⟩ : ∃ g l, exec .congestionWindowEnd s =
      .next (throttles g l (publishUpTo Config.slices { s with windowAt := s.now })) := by
    rw [exec_congestionWindowEnd, execCongestionWindowEnd, if_neg (by omega)]
    exact ⟨throttled (publishUpTo Config.slices { s with windowAt := s.now }), _, rfl⟩
  refine ⟨_, hx, ?_, fun m hm => ?_⟩
  · rw [throttles_keep State.windowAt (fun _ _ _ => rfl), publishUpTo_windowAt]
  · rw [throttles_keep (State.slice · m) (fun _ _ _ => rfl), publishUpTo_slice, if_pos hm]
    rfl

/-! ## Ordered entries (R138 to R140) -/

theorem leastEntry_mem {l : List OrdEntry} {e : OrdEntry} (h : leastEntry l = some e) : e ∈ l := by
  have hfold : ∀ (xs : List OrdEntry) (m : OrdEntry),
      xs.foldl (fun m x => if keyLt x.key m.key then x else m) m ∈ m :: xs := by
    intro xs
    induction xs with
    | nil => intro m; simp
    | cons x xs ih =>
      intro m
      rcases List.mem_cons.1 (ih (if keyLt x.key m.key then x else m)) with h | h
      · rw [List.foldl_cons, h]
        split <;> simp
      · exact List.mem_cons_of_mem _ (List.mem_cons_of_mem _ h)
  cases l with
  | nil => cases h
  | cons x xs => exact Option.some.inj h ▸ hfold xs x

section
variable {s : State} {n line : Nat} {e : OrdEntry} {rest : List OrdEntry}

theorem orderedEntryArrival_room (ha : (s.slice n).arriving = e :: rest) (hs : ∀ x ∈ (s.slice n).buffer, x.spilt = false)
    (hl : (s.slice n).buffer.length < 1024) :
    exec (.orderedEntryArrival n) s =
      .next (s.modSlice n (fun k => { k with arriving := rest, buffer := k.buffer ++ [e] })) := by
  have hin : (s.slice n).buffer.filter (fun x => !x.spilt) = (s.slice n).buffer :=
    List.filter_eq_self.2 fun x hx => by simp [hs x hx]
  have hout : (s.slice n).buffer.filter (fun x => x.spilt) = [] :=
    List.filter_eq_nil_iff.2 fun x hx => by simp [hs x hx]
  rw [exec_orderedEntryArrival, execOrderedEntryArrival]
  simp only [ha, hin, hout, if_pos hl]
  simp [State.modSlice]

/-- A slice whose entries are all of device memory looks only at those. -/
theorem applicable_device (hd : ∀ x ∈ (s.slice n).buffer, x.ph.host = false) :
    s.applicable n line = match leastEntry ((s.slice n).buffer.filter (fun e => lineOf e.ph.pa == line)) with
      | none => none
      | some e => if !s.mayApply n e || (s.slice n).arriving.any (fun x => sameLine x.ph e.ph && keyLt x.key e.key) then none
        else some e := by
  have hdev : (s.slice n).buffer.filter (fun e => e.isAt line && e.ph.host == false) =
      (s.slice n).buffer.filter (fun e => lineOf e.ph.pa == line) :=
    List.filter_congr fun x hx => by simp [OrdEntry.isAt, hd x hx]
  have hhost : (s.slice n).buffer.filter (fun e => e.isAt line && e.ph.host == true) = [] :=
    List.filter_eq_nil_iff.2 fun x hx => by simp [hd x hx]
  unfold State.applicable
  simp only [List.findSome?_cons, List.findSome?_nil, hdev, hhost]
  cases leastEntry ((s.slice n).buffer.filter (fun e => lineOf e.ph.pa == line)) with
  | none => rfl
  | some e =>
    dsimp only
    generalize (!s.mayApply n e || (s.slice n).arriving.any (fun x => sameLine x.ph e.ph && keyLt x.key e.key)) = held
    cases held <;> rfl

theorem orderedEntryApply_held (hd : ∀ x ∈ (s.slice n).buffer, x.ph.host = false)
    (hl : leastEntry ((s.slice n).buffer.filter (fun e => lineOf e.ph.pa == line)) = some e) (hm : s.mayApply n e = false) :
    exec (.orderedEntryApply n line) s = .next s := by
  rw [exec_orderedEntryApply, execOrderedEntryApply, applicable_device hd, hl]
  simp [hm]

theorem attempt_done {f : State → State} (hb : s.blocked = false) (hr : (f s).blocked = false) : s.attempt f = f s := by
  have hs : ({ s with blocked := false } : State) = s := by rw [← hb]
  unfold State.attempt
  rw [hs]
  exact if_neg (by simp [hr])

end

/-- A fold whose every step leaves its start as it is. -/
theorem foldl_const {α β : Type} {f : β → α → β} (b : β) (l : List α) (h : ∀ a ∈ l, f b a = b) : l.foldl f b = b := by
  induction l with
  | nil => rfl
  | cons a l ih =>
    rw [List.foldl_cons, h a List.mem_cons_self]
    exact ih fun x hx => h x (List.mem_cons_of_mem _ hx)

/-- Settles O21, the values by the definition of the operation, the events by their one branch. -/
theorem atomicValuesAndOrder : Obligations.AtomicValuesAndOrder := by
  refine ⟨rmwNew_integer, fun s n core line e rest kind => ?_⟩
  refine ⟨orderedEntryArrival_room, rfl, fun w t th hk => ?_, orderedEntryApply_held, ?_, fun h => ?_, fun h => ?_, fun h => ?_⟩
  · exact foldl_const (floorOf t th) s.reqs fun e he => by rw [hk e he]
  · intro opc fn ty x cmp l old hd hb hl hm hn ha hla key s0 hld s1 s2 hr
    have he : e.ph.host = false := hd e (List.mem_filter.1 (leastEntry_mem hl)).1
    rw [exec_orderedEntryApply, execOrderedEntryApply, applicable_device hd, hl]
    dsimp only
    rw [hm, hn, Bool.not_true, Bool.or_false, if_neg Bool.false_ne_true]
    dsimp only
    rw [ha, hla]
    dsimp only
    have hgo : ∀ {f : State → State} {r : State}, f s = r → r.blocked = false → s.attempt f = r :=
      fun hfr hrb => (attempt_done hb (hfr ▸ hrb)).trans hfr
    refine congrArg _ (hgo ?_ hr)
    have hrmw : s0.rmwAt e.part e.ph e.va e.n opc fn ty x cmp (some e.launch) (some (e.wg, e.tid, e.op)) = (some (0, old, []),
        s0.store e.part e.ph e.va (rmwBytes opc fn ty x cmp old) (some e.launch) (some (e.wg, e.tid, e.op))) := by
      unfold State.rmwAt
      rw [hld]
    rw [hrmw, he]
    rfl
  · obtain ⟨s2, h2, hw, hp⟩ := congestionWindowEnd_publishes h
    exact ⟨s2, h2, hw, fun m hm => by simp [hp m hm, published]⟩
  · rw [exec_eccCorrected, execEccCorrected, if_neg (by omega)]
  · obtain ⟨parts, h1, h2⟩ := corrected_eq s kind n
    unfold nextCount at h1 h2
    refine ⟨_, by rw [exec_eccCorrected, execEccCorrected, if_pos h, h1], ?_, h2⟩
    exact List.mem_cons_self
end Sys2Proof.Proofs
end


section
/-! PROOFS. Frames, calls and returns. -/
namespace Sys2Proof.Proofs
open Sys2Proof.Machine Sys2Proof.Safety Sys2Proof.Laws

/-! ## Link words (R168) -/

theorem wrapN_lt (x : Int) (n : Nat) : wrapN x n < 2 ^ n := by
  have h := Int.emod_lt_of_pos x (b := ((2 ^ n : Nat) : Int)) (by exact_mod_cast Nat.two_pow_pos n)
  have h0 := Int.emod_nonneg x (b := ((2 ^ n : Nat) : Int)) (by exact_mod_cast (Nat.two_pow_pos n).ne')
  unfold wrapN
  omega

/-- The fields of a link stand side by side. -/
theorem mkLink_fields (r c w a : Nat) (h : Option Int) (b : Bool) : ∃ hn sp x : Nat, hn ≤ 1 ∧ sp = b.toNat ∧ x < 2 ^ 14 ∧
    (mkLink r c w a h b).toNat = r % 2 ^ 24 * 2 ^ 40 + c % 256 * 2 ^ 32 + w % 256 * 2 ^ 24 + a % 256 * 2 ^ 16 + hn * 2 ^ 15 + sp * 2 ^ 14 + x := by
  have hx := wrapN_lt (h.getD 0) 14
  refine ⟨h.isSome.toNat, b.toNat, wrapN (h.getD 0) 14, Bool.toNat_le _, rfl, hx, ?_⟩
  have hh : (if h.isSome = true then 2 ^ 15 else 0) = h.isSome.toNat * 2 ^ 15 := by cases h <;> simp
  have hb : (if b = true then 2 ^ 14 else 0) = b.toNat * 2 ^ 14 := by cases b <;> simp
  have h1 := Bool.toNat_le h.isSome
  have h2 := Bool.toNat_le b
  unfold mkLink ofN
  rw [hh, hb, BitVec.toNat_ofNat]
  exact Nat.mod_eq_of_lt (by omega)

section
variable {f : Frame} {r c w a : Nat} {h : Option Int} {b : Bool} (hf : f.link = mkLink r c w a h b)
include hf

theorem ret_of_link : f.ret = r % 2 ^ 24 := by
  obtain ⟨hn, sp, x, h1, h2, h3, h4⟩ := mkLink_fields r c w a h b
  have := Bool.toNat_le b
  rw [Frame.ret, hf, h4, bits_eq]
  omega

theorem win_of_link : f.win = w % 256 := by
  obtain ⟨hn, sp, x, h1, h2, h3, h4⟩ := mkLink_fields r c w a h b
  have := Bool.toNat_le b
  rw [Frame.win, hf, h4, bits_eq]
  omega

theorem args_of_link : f.args = a % 256 := by
  obtain ⟨hn, sp, x, h1, h2, h3, h4⟩ := mkLink_fields r c w a h b
  have := Bool.toNat_le b
  rw [Frame.args, hf, h4, bits_eq]
  omega

theorem spl_of_link : f.spl = b := by
  obtain ⟨hn, sp, x, h1, h2, h3, h4⟩ := mkLink_fields r c w a h b
  rw [Frame.spl, hf, h4, bit, Nat.testBit_eq_decide_div_mod_eq]
  cases b <;> simp only [Bool.toNat_false, Bool.toNat_true] at h2 <;> simp <;> omega

end

theorem resolveReg_cons (f : Frame) (fs : List Frame) (j : Nat) : resolveReg (f :: fs) j =
    if f.decl ≤ j then none
    else if !f.base && decide (j < f.args) && !f.spl then resolveReg fs (f.win + j)
    else some (f.id, j) := rfl

/-! ## A need that is alone in its lane (R170) -/

section
variable {s : State} {w t : Nat} {g : Workgroup} {th : Thread}

/-- The lane of a thread has no need. -/
def laneIdle (s : State) (w t : Nat) : Prop := ∀ g, s.wg w = some g → (s.core g.core).needs.any (fun d => d.1 == t % 32) = false

theorem grantLane_idle {c lane : Nat} (h : (s.core c).needs.any (fun d => d.1 == lane) = false) (n : Nat) : s.grantLane c lane n = s := by
  cases n with
  | zero => rfl
  | succ n =>
    have hn : (s.core c).needs.find? (fun d => d.1 == lane) = none := by simpa [List.find?_eq_none] using h
    unfold State.grantLane
    rw [hn]

theorem grantFor_idle (h : laneIdle s w t) : s.grantFor w t = s := by
  unfold State.grantFor
  cases hg : s.wg w with
  | none => rfl
  | some g => exact grantLane_idle (h g hg) _

/-- An entry whose new value answers a test as the old one did. -/
theorem any_tset {α : Type} {m : Tab α} {i : Nat} {x y : α} (P : Nat × α → Bool) (h : tget m i = some x) (hp : P (i, y) = P (i, x)) :
    (tset m i y).any P = m.any P := by
  induction m with
  | nil => cases h
  | cons e m ih =>
    obtain ⟨k, z⟩ := e
    unfold tget at h
    unfold tset
    by_cases hk : i = k
    · subst hk
      rw [if_pos rfl] at h
      cases h
      simp [hp]
    · rw [if_neg hk] at h
      rw [if_neg hk]
      split
      · have hm : P (i, x) = true → m.any P = true := fun hx => List.any_eq_true.2 ⟨_, mem_of_tget h, hx⟩
        rw [List.any_cons, hp, List.any_cons]
        cases hx : P (i, x) with
        | false => rfl
        | true => simp [hm hx]
      · rw [List.any_cons, ih h, List.any_cons]

theorem any_tmod {α : Type} (m : Tab α) (i : Nat) (f : α → α) (P : Nat × α → Bool) (h : ∀ x, P (i, f x) = P (i, x)) :
    (tmod m i f).any P = m.any P := by
  unfold tmod
  split
  · next hx => exact any_tset P hx (h _)
  · rfl

/-- The frames of the threads of a workgroup, thread by thread. -/
theorem zipIdx_frames {β : Type} (ths : List Thread) (t : Nat) (f : Thread → Thread) (hf : ∀ th, (f th).frames = th.frames)
    (G : List Frame × Nat → β) :
    (ths.modify t f).zipIdx.map (fun p => G (p.1.frames, p.2)) = ths.zipIdx.map (fun p => G (p.1.frames, p.2)) := by
  have hmap : ∀ l : List Thread, l.zipIdx.map (fun p => G (p.1.frames, p.2)) = (l.map Thread.frames).zipIdx.map G := fun l => by
    rw [List.zipIdx_map, List.map_map]
    rfl
  have hkeep : (ths.modify t f).map Thread.frames = ths.map Thread.frames :=
    List.ext_getElem? fun i => by
      rw [List.getElem?_map, List.getElem?_map, List.getElem?_modify]
      split
      · cases ths[i]? <;> simp [hf]
      · simp
  rw [hmap, hmap, hkeep]

/-- The granules that frames hold do not move with a thread's other fields. -/
theorem usedGrans_modThread (f : Thread → Thread) (hf : ∀ th, (f th).frames = th.frames) (c lane i : Nat) :
    ((s.modThread w t f).usedGrans c lane).contains i = (s.usedGrans c lane).contains i := by
  have hany : ∀ s : State, (s.usedGrans c lane).contains i = s.wgs.any (fun e => (e.2.core == c && e.2.resid != .saved) &&
      (e.2.threads.zipIdx.map (fun p => p.2 % 32 == lane && (p.1.frames.flatMap (fun f => if f.spilled then [] else f.grans)).contains i)).any id) := by
    intro s
    rw [Bool.eq_iff_iff]
    simp only [List.contains_iff_mem, State.usedGrans, List.mem_flatMap, List.any_eq_true, Bool.and_eq_true]
    refine exists_congr fun e => and_congr_right fun _ => ?_
    cases e.2.core == c && e.2.resid != .saved with
    | false => simp
    | true => simp [List.mem_flatMap]
  rw [hany, hany]
  refine any_tmod s.wgs w _ _ fun g => ?_
  exact congrArg (fun b => (g.core == c && g.resid != .saved) && b) (congrArg (fun l => List.any l id)
    (zipIdx_frames g.threads t f hf (fun p => p.2 % 32 == lane && (p.1.flatMap (fun f => if f.spilled then [] else f.grans)).contains i)))

theorem laneRegs_modify (g : Workgroup) (f : Thread → Thread) (hf : ∀ th, (f th).frames = th.frames) (lane : Nat) :
    ({ g with threads := g.threads.modify t f } : Workgroup).laneRegs lane = g.laneRegs lane :=
  congrArg List.sum (zipIdx_frames g.threads t f hf
    (fun p => if p.2 % 32 == lane then (p.1.map (fun f => if f.spilled then 0 else f.size)).sum else 0))

/-- Frames are what the room in a lane is read from. -/
theorem fits_modThread (f : Thread → Thread) (hf : ∀ th, (f th).frames = th.frames) (size : Nat) :
    (s.modThread w t f).fits w t size = s.fits w t size := by
  unfold State.fits State.freeGrans
  rw [State.wg_modThread, State.eff_modThread]
  cases s.wg w with
  | none => rfl
  | some g =>
    simp only [Option.map_some, laneRegs_modify g f hf, usedGrans_modThread f hf]

theorem fits_modCore (k : Nat) (f : Core → Core) (size : Nat) : (s.modCore k f).fits w t size = s.fits w t size := rfl

@[simp] theorem thread_dropLatches (v u : Nat) : (s.dropLatches w t).thread v u = s.thread v u := by
  unfold State.dropLatches
  split <;> rfl

@[simp] theorem wg_dropLatches (v : Nat) : (s.dropLatches w t).wg v = s.wg v := by
  unfold State.dropLatches
  split <;> rfl

@[simp] theorem needs_dropLatches (c : Nat) : ((s.dropLatches w t).core c).needs = (s.core c).needs := by
  unfold State.dropLatches
  split
  · next g _ =>
    by_cases hc : c = g.core
    · subst hc; simp
    · rw [State.core_modCore_other _ _ hc]
  · rfl

/-- The frame of a call that is granted while the caller's frame stands in the pool (R168, R169). -/
def newFrame (s : State) (th : Thread) (top : Frame) (c : PendCall) (grans : List Nat) : Frame :=
  { id := s.nextId, decl := c.demand, grans := grans, fresh := true
    link := mkLink (th.pc.toNat + 1) (State.makeFrame.grans0 top.grans) c.window c.args c.handler top.spilled
    slots := List.replicate (roundUp (c.demand + 1) 8) 0 }

/-- A thread that has entered a frame. -/
def entered (now : Nat) (f : Frame) (c : PendCall) (th : Thread) : Thread :=
  { th with frames := f :: th.frames, call := none, st := .run, readyAt := now, pc := BitVec.ofNat 24 c.target }

theorem makeFrame_plain {top : Frame} {below : List Frame} (c : PendCall) (grans : List Nat) (hth : s.thread w t = some th)
    (hfr : th.frames = top :: below) (hst : top.stored = false) (hsp : top.spilled = false) (hq : c.queue = none) :
    s.makeFrame w t c grans =
      (true, (s.newId.2.modThread w t (entered s.now (newFrame s th top c grans) c)).dropLatches w t) := by
  unfold State.makeFrame State.windowOf
  simp only [hth, hfr, hst, hsp, hq, Bool.false_eq_true, if_false, Bool.not_false, Bool.true_or, if_true, List.nil_append,
    List.length_nil, Nat.sub_zero]
  rw [newFrame, hsp]
  rfl

/-- A thread that waits for the frame of a call. -/
def calling (now : Nat) (c : PendCall) (th : Thread) : Thread := { th with st := .frameWait, call := some c, needAt := now }

/-- A call with no older need in its lane, whose frame fits, has it at once (R170). -/
theorem callFrame_granted {top : Frame} {below : List Frame} {c : PendCall} {grans : List Nat} (hg : s.wg w = some g)
    (hth : s.thread w t = some th) (hfr : th.frames = top :: below) (hret : th.returning = false) (hst : top.stored = false)
    (hsp : top.spilled = false) (hq : c.queue = none) (hidle : (s.core g.core).needs.any (fun d => d.1 == t % 32) = false)
    (hfit : s.fits w t (roundUp (c.demand + 1) 8) = some grans) :
    (s.callFrame w t c).thread w t = some (entered s.now (newFrame s th top c grans) c (calling s.now c th)) := by
  let s1 := (s.modThread w t (calling s.now c)).modCore g.core (fun k => { k with needs := k.needs ++ [(t % 32, w, t)] })
  have hth1 : s1.thread w t = some (calling s.now c th) := by simp [s1, hth]
  have hneeds : (s1.core g.core).needs = (s.core g.core).needs ++ [(t % 32, w, t)] := by simp [s1]
  have hfit1 : s1.fits w t (roundUp (c.demand + 1) 8) = some grans := by
    rw [fits_modCore, fits_modThread (calling s.now c) (fun _ => rfl), hfit]
  have hgo : s1.grantOne w t =
      (true, (s1.newId.2.modThread w t (entered s.now (newFrame s th top c grans) c)).dropLatches w t) := by
    have htop : (calling s.now c th).topSpilled = false := by simp [Thread.topSpilled, calling, hret, hfr, hsp]
    unfold State.grantOne
    simp only [hth1, htop, Bool.and_false, Bool.not_false, if_true]
    unfold State.grantWait
    simp only [calling, hfit1]
    exact makeFrame_plain (th := calling s.now c th) c grans hth1 hfr hst hsp hq
  have hfind : (s1.core g.core).needs.find? (fun d => d.1 == t % 32) = some (t % 32, w, t) := by
    have hnone : (s.core g.core).needs.find? (fun d => d.1 == t % 32) = none := by simpa [List.find?_eq_none] using hidle
    rw [hneeds, List.find?_append, hnone]
    simp
  have hcall : s.callFrame w t c = s1.grantLane g.core (t % 32) ((s.core g.core).needs.length + 1) := by
    have hg1 : s1.wg w = some { g with threads := g.threads.modify t (calling s.now c) } := by
      simp [s1, State.wg_modThread, hg]
    have hlen : (s1.core g.core).needs.length = (s.core g.core).needs.length + 1 := by rw [hneeds]; simp
    unfold State.callFrame State.need
    rw [hg]
    dsimp only
    change s1.grantFor w t = _
    unfold State.grantFor
    rw [hg1]
    dsimp only
    rw [hlen]
  rw [hcall]
  unfold State.grantLane
  rw [hfind]
  dsimp only
  rw [hgo]
  dsimp only
  rw [grantLane_idle]
  · rw [State.dropNeed, State.thread_modCore, thread_dropLatches, State.thread_modThread_same]
    exact congrArg (Option.map _) hth1
  · have hn : (((s1.newId.2.modThread w t (entered s.now (newFrame s th top c grans) c)).dropLatches w t).core g.core).needs =
        (s.core g.core).needs ++ [(t % 32, w, t)] := (needs_dropLatches _).trans hneeds
    simp only [State.dropNeed, State.core_modCore_same, hn]
    simp only [List.any_filter, List.any_append, List.any_eq_false, Bool.or_eq_false_iff] at hidle ⊢
    refine ⟨fun d hd => ?_, ?_⟩
    · simp [hidle d hd]
    · simp

end

/-! ## Calls (R337 to R340) -/

section
variable {o : FB} {target : State → Ctx → Option Nat} {h : Option Int} {q : Option Nat} {s : State} {x : Ctx}

/-- The demand, the window and the handler offset of a call pass the check of R339. -/
def callShape (o : FB) (decl : Nat) (h : Option Int) : Prop :=
  1 ≤ o.dem.toNat ∧ o.dem.toNat ≤ 224 ∧ o.argc.toNat ≤ o.dem.toNat ∧ (o.argc.toNat = 0 ∨ winBase o + o.argc.toNat ≤ decl) ∧
    ∀ x, h = some x → -8192 ≤ x - 1

/-- What a call asks for. -/
def pendCall (o : FB) (pc : Nat) (h : Option Int) (q : Option Nat) : PendCall :=
  { demand := o.dem.toNat, window := winBase o, args := o.argc.toNat, target := pc, handler := h.map (· - 1), queue := q }

theorem badShape_iff (decl : Nat) : (o.dem.toNat == 0 || decide (224 < o.dem.toNat) || decide (o.dem.toNat < o.argc.toNat) ||
    (o.argc.toNat != 0 && decide (decl < winBase o + o.argc.toNat)) ||
      (match h with
        | some h => decide (h - 1 < -8192)
        | none => false)) = true ↔ ¬callShape o decl h := by
  unfold callShape
  cases h <;> simp <;> omega

theorem callThrough_misshapen (hs : ¬callShape o (s.declared x.w x.t) h) : callThrough o target h q s x = .trap 0x71 0 none s :=
  if_pos ((badShape_iff _).2 hs)

theorem callThrough_shaped (hs : callShape o (s.declared x.w x.t) h) : callThrough o target h q s x =
    match target s x with
    | none => .trap 0x76 0 none s
    | some dest => if 8 * (s.eff x.w).poolg < roundUp (o.dem.toNat + 1) 8 then .trap 0x73 0 none s
      else .jump (s.callFrame x.w x.t (pendCall o dest h q)) :=
  if_neg (fun hb => (badShape_iff _).1 hb hs)

end

section
variable {i : Instr} {c : Ctl} {o : FB} {s : State} {u : Cur} {t : Nat}

theorem callee_start (s : State) (i : Instr) (c : Ctl) (u : Cur) (w q : Nat) : (start s i c u).callee w q = s.callee w q := by
  simp [State.callee]

/-- What a call does over a bundle of one thread. -/
theorem call_alone (ha : Alone s i c u t) {target : State → Ctx → Option Nat} {h : Option Int} {q : Option Nat} {pc : Nat}
    (hx : exec i s = isa i c (callThrough o target h q) s) (ht : target (start s i c u) (ctx i c u t) = some pc) :
    (callShape o (s.declared u.wg t) h → (o.dem.toNat + 8) / 8 * 8 ≤ 8 * (s.eff u.wg).poolg →
      exec i s = .next (ended s i c u t (.jump ((start s i c u).callFrame u.wg t (pendCall o pc h q))))) ∧
    (¬callShape o (s.declared u.wg t) h → exec i s = .next (traps (start s i c u) u t 0x71 0)) ∧
    (callShape o (s.declared u.wg t) h → ¬(o.dem.toNat + 8) / 8 * 8 ≤ 8 * (s.eff u.wg).poolg →
      exec i s = .next (traps (start s i c u) u t 0x73 0)) := by
  have hd : (start s i c u).declared (ctx i c u t).w (ctx i c u t).t = s.declared u.wg t := by simp [State.declared]
  have he : (start s i c u).eff (ctx i c u t).w = s.eff u.wg := by simp
  refine ⟨fun hs hf => ?_, fun hs => ?_, fun hs hf => ?_⟩
  · rw [hx, isa_alone ha, callThrough_shaped (hd ▸ hs), ht, he]
    exact congrArg _ (congrArg _ (if_neg (by simpa [roundUp] using hf)))
  · rw [hx, isa_alone ha, callThrough_misshapen (hd ▸ hs)]
    rfl
  · rw [hx, isa_alone ha, callThrough_shaped (hd ▸ hs), ht, he]
    exact congrArg (fun a => Host.Outcome.next (ended s i c u t a)) (if_pos (by simpa [roundUp] using hf))

theorem ofNat_wrapN (n : Nat) (x : Int) : BitVec.ofNat n (wrapN x n) = BitVec.ofInt n x :=
  BitVec.eq_of_toNat_eq (by rw [BitVec.toNat_ofNat, BitVec.toNat_ofInt, Nat.mod_eq_of_lt (wrapN_lt ..)]; rfl)

end

/-- Settles O22: a call that passes its checks asks for its frame, and has it where its lane waits for none. -/
theorem branchesCallsAndFrames : Obligations.BranchesCallsAndFrames := by
  refine ⟨?_, ?_⟩
  · intro c o s u t at_ jumps goes rel reg n a base decl shape fits frame call h hf q
    have hreg : ∀ i, bits ((start s i c u).src u.wg t o.tgt).toNat 23 0 = reg := fun i => by rw [start_src, bits_low]
    refine ⟨fun ha => ?_, fun ha => ?_, fun ha => call_alone ha rfl rfl, fun ha => call_alone ha rfl rfl,
      fun ha => call_alone ha rfl (congrArg some (hreg _)), fun ha => call_alone ha rfl (congrArg some (hreg _)),
      fun pc ha hq => call_alone ha rfl ?_, fun ha hq hs => ?_⟩
    · exact (isa_alone ha).trans (by rw [State.goto, relative, ofNat_wrapN]; rfl)
    · refine (isa_alone ha).trans ?_
      dsimp only [ctx]
      rw [hreg, State.goto, ← BitVec.ofInt_natCast]
    · exact (callee_start _ _ _ _ _ _).trans hq
    · have hd : (start s (.callQ c o) c u).declared u.wg t = decl := by simp [State.declared, decl]
      refine (isa_alone ha).trans ?_
      rw [callThrough_shaped (hd.symm ▸ hs)]
      dsimp only [ctx]
      rw [callee_start, hq]
      rfl
  · intro s w t p g th top below grans n hg hth hfr hret hsp hst hq hidle hfit
    refine ⟨_, newFrame s th top p grans, callFrame_granted hg hth hfr hret hst hsp hq hidle hfit, ?_⟩
    have hlink : (newFrame s th top p grans).link = mkLink (th.pc.toNat + 1) (State.makeFrame.grans0 top.grans) p.window p.args
      p.handler top.spilled := rfl
    refine ⟨congrArg _ hfr, rfl, rfl, rfl, rfl, rfl, ret_of_link hlink, rfl, fun hn hd hw j hj => ?_⟩
    have hargs : (newFrame s th top p grans).args = p.args := (args_of_link hlink).trans (Nat.mod_eq_of_lt (by omega))
    have hwin : (newFrame s th top p grans).win = p.window := (win_of_link hlink).trans (Nat.mod_eq_of_lt (by omega))
    have hspl : (newFrame s th top p grans).spl = false := (spl_of_link hlink).trans hsp
    change resolveReg (newFrame s th top p grans :: th.frames) j = _
    rw [resolveReg_cons, if_neg (show ¬(newFrame s th top p grans).decl ≤ j from not_le.2 hj), hargs, hwin, hspl]
    simp [newFrame]

end Sys2Proof.Proofs
end


section
/-! PROOFS. Returns, unwinding and exit. -/
namespace Sys2Proof.Proofs
open Sys2Proof.Machine Sys2Proof.Safety Sys2Proof.Laws

section
variable {s : State} {w t : Nat} {th : Thread} {top next : Frame} {rest : List Frame}

theorem laneIdle_modThread (f : Thread → Thread) (h : laneIdle s w t) : laneIdle (s.modThread w t f) w t := by
  intro g hg
  rw [State.wg_modThread, Option.map_eq_some_iff] at hg
  obtain ⟨g0, hg0, rfl⟩ := hg
  exact h g0 hg0

theorem laneIdle_dropLatches (h : laneIdle s w t) : laneIdle (s.dropLatches w t) w t := by
  intro g hg
  rw [wg_dropLatches] at hg
  rw [needs_dropLatches]
  exact h g hg

/-- A return to a frame that stands in the pool (R176). -/
theorem thread_retFrame (hth : s.thread w t = some th) (hfr : th.frames = top :: next :: rest) (hsp : next.spilled = false)
    (hi : laneIdle s w t) :
    (s.retFrame w t top next).thread w t = some { th with pc := BitVec.ofNat 24 top.ret, frames := next :: rest } := by
  have hidle := laneIdle_modThread (fun th => { th with frames := th.frames.drop 1 })
    (laneIdle_dropLatches (laneIdle_modThread (fun th => { th with pc := BitVec.ofNat 24 top.ret }) hi))
  unfold State.retFrame
  simp only [hsp, Bool.false_eq_true, if_false]
  rw [grantFor_idle hidle]
  simp [hth, hfr]

/-! ## Unwinding (R177) -/

/-- Clearing HND leaves the other fields of a link. -/
theorem clearHnd_link (f : Frame) : f.clearHnd.hnd = false ∧ f.clearHnd.args = f.args := by
  have hlt := f.link.isLt
  unfold Frame.clearHnd Frame.hnd Frame.args Frame.setSpl.setBit
  split
  · next h =>
    have h' : f.link.toNat.testBit 15 = false := by simpa using h
    simp [ofN, bit, h']
  · next h =>
    have h' : f.link.toNat / 2 ^ 15 % 2 = 1 := by
      simpa [Nat.testBit_eq_decide_div_mod_eq] using h
    have hx : (ofN (f.link.toNat - 2 ^ 15)).toNat = f.link.toNat - 2 ^ 15 := by
      rw [ofN, BitVec.toNat_ofNat, Nat.mod_eq_of_lt (by omega)]
    simp only [Bool.false_eq_true, if_false, hx, bit, Nat.testBit_eq_decide_div_mod_eq, bits_eq, decide_eq_false_iff_not]
    omega

theorem handlerAt_second (h0 : (top.base || !top.hnd) = true) (hb : next.base = false) (hh : next.hnd = true) :
    handlerAt (top :: next :: rest) = some 1 := by
  have h0' : (!top.base && top.hnd) = false := by rw [← Bool.not_eq_true', Bool.not_and, Bool.not_not, h0]
  simp [handlerAt, List.findIdx?_cons, h0', hb, hh]

theorem handlerAt_none {fs : List Frame} (h : fs.all (fun f => f.base || !f.hnd) = true) : handlerAt fs = none := by
  rw [handlerAt, List.findIdx?_eq_none_iff]
  intro f hf
  rw [← Bool.not_eq_true', Bool.not_and, Bool.not_not]
  exact List.all_eq_true.1 h f hf

/-- A thread that has unwound into a handler's frame. -/
def unwound (now : Nat) (f : Frame) (below : List Frame) (th : Thread) : Thread :=
  { th with
    frames := f.clearHnd :: below, pc := BitVec.ofInt 24 (f.ret + f.hoff), loop := none, returning := false, hold := none,
    call := none, st := .run, readyAt := now
    sptop := if f.spilled && !f.stored then recOffset below + f.recBytes else recOffset (below.filter (fun b => b.spilled && !b.stored)) }

/-- An unwind into the second frame, which stands in the pool. -/
theorem unwind_second {x : Word} (hth : s.thread w t = some th) (hfr : th.frames = top :: next :: rest)
    (h0 : (top.base || !top.hnd) = true) (hb : next.base = false) (hh : next.hnd = true) (hsp : next.spilled = false)
    (hst : next.stored = false) (hi : laneIdle s w t) :
    ∃ s', s.unwind w t x = some s' ∧ s'.thread w t = some ((unwound s.now next rest th).setReg 0 x) := by
  have hidle := laneIdle_modThread (fun th => th.setReg 0 x)
    (laneIdle_dropLatches (laneIdle_modThread (unwound s.now next rest) hi))
  refine ⟨((s.modThread w t (unwound s.now next rest)).dropLatches w t).modThread w t (fun th => th.setReg 0 x), ?_, by simp [hth]⟩
  unfold State.unwind
  simp only [hth, hfr, handlerAt_second h0 hb hh, List.drop_succ_cons, List.drop_zero]
  rw [if_neg (by simp [hst]), if_neg (by simp [hsp])]
  exact congrArg some (grantFor_idle hidle)

/-- The handler's value is written to v0 of its frame. -/
theorem setReg_zero {f : Frame} {x : Word} (hfr : th.frames = f :: rest) (ha : f.args = 0) (hd : 0 < f.decl)
    (hn : rest.all (fun g => g.id != f.id) = true) :
    th.setReg 0 x = { th with frames := { f with slots := f.slots.set 0 x, bad := f.bad.filter (· != 0) } :: rest } := by
  have hr : resolveReg th.frames 0 = some (f.id, 0) := by
    rw [hfr, resolveReg_cons, if_neg (by omega), ha]
    simp
  have hrest : framePut rest (f.id, 0) x = rest := by
    refine (List.map_congr_left fun g hg => ?_).trans (List.map_id rest)
    have := List.all_eq_true.1 hn g hg
    exact if_neg (by simpa using this)
  unfold Thread.setReg
  rw [hr]
  simp only [hfr]
  rw [show framePut (f :: rest) (f.id, 0) x = _ :: framePut rest (f.id, 0) x from rfl, hrest]
  simp

end

/-- Settles O23, by the branches of the three instructions. -/
theorem returnUnwindExit : Obligations.ReturnUnwindExit := by
  intro c o s u t th top next rest i j k idle
  refine ⟨fun ha hth hfr hb => ?_, fun ha hth hfr => ?_, fun hth hfr hsp hi => thread_retFrame hth hfr hsp hi,
    fun s' ha hs => ?_, fun ha hth hn => ?_, fun x hth hfr h0 hb hh hsp hst ha hd hn hi => ?_, fun ha => isa_alone ha⟩
  · refine (isa_alone ha).trans ?_
    simp only [ctx, start_thread, hth, Option.map_some, hfr, hb, Bool.false_eq_true, if_false]
  · refine (isa_alone ha).trans ?_
    simp only [ctx, start_thread, hth, Option.map_some, hfr]
    rfl
  · refine (isa_alone ha).trans ?_
    simp only [ctx, start_src, hs]
  · refine (isa_alone ha).trans ?_
    have hu : ∀ x, (start s j c u).unwind u.wg t x = none := fun x => by
      unfold State.unwind
      simp only [start_thread, hth, handlerAt_none hn]
    simp only [ctx, start_src, hu]
    rfl
  · obtain ⟨s', hs', ht'⟩ := unwind_second (x := x) hth hfr h0 hb hh hsp hst hi
    refine ⟨s', _, hs', ht', ?_⟩
    obtain ⟨hch, hca⟩ := clearHnd_link next
    rw [setReg_zero (f := next.clearHnd) (rest := rest) rfl (hca.trans ha) hd hn]
    exact ⟨rfl, rfl, rfl, _, rfl, hch, rfl⟩

end Sys2Proof.Proofs
end


section
/-! PROOFS. Loops, elections and idling. -/
namespace Sys2Proof.Proofs
open Sys2Proof.Machine Sys2Proof.Safety Sys2Proof.Laws

/-- A bundle of one thread that may execute may do so in a state of the same operations, level and thread. -/
theorem alone_congr {s s' : State} {i : Instr} {c : Ctl} {u : Cur} {t : Nat} (h : Alone s i c u t) (hc : s'.cur = s.cur)
    (ho : s'.ops = s.ops) (hp : s'.priv u.wg = s.priv u.wg) (ht : s'.thread u.wg t = s.thread u.wg t) : Alone s' i c u t := by
  obtain ⟨th, h1, h2, h3, h4, h5⟩ := h.able
  refine ⟨hc.trans h.cur, h.tids, ⟨th, ht.trans h1, h2, h3, (guardBusy_congr ho ..).trans h4, fun hg => ?_⟩, ?_⟩
  · rw [precheck_congr th i ho hp, h5 hg]
  · have := h.guard
    unfold guardOf at this ⊢
    rw [ht, this]

/-! ## The loop buffer (R343 to R345) -/

section
variable {s s1 : State} {c : Ctl} {p : FI} {u : Cur} {t : Nat} {ws : List Nat}

/-- The words that a capture takes. -/
def captured (s : State) (c : Ctl) (p : FI) (u : Cur) (t : Nat) : Except (Nat × Nat) (List Nat) × State :=
  fetchWords (start s (.loopCap c p) c u) u.wg [t] (u.pc + 1) (p.imm.toNat / 2 ^ 6 % 2 ^ 5 + p.imm.toNat % 2 ^ 6)

/-- What a capture does once its words are fetched. -/
def capture (p : FI) (u : Cur) (t trips : Nat) : Except (Nat × Nat) (List Nat) × State → Act
  | (.error (0, _), s) => .wait s
  | (.error (f, a), s) => .trap f a none s
  | (.ok ws, s) =>
    let len := p.imm.toNat % 2 ^ 6
    let ns := p.imm.toNat / 2 ^ 6 % 2 ^ 5
    let b := u.pc + 1 + ns
    if badCapture (ws.take ns) (ws.drop ns) trips then .trap 0x07 0 none s
    else if trips = 0 then .jump (s.goto u.wg t (b + len))
    else .jump (s.modThread u.wg t (fun th => { th with
      pc := BitVec.ofNat 24 b
      loop := some { b := b, len := len, trips := trips, pass := 0, steps := (ws.take ns).map stepOf } }))

theorem loopCap_alone (h : Alone s (.loopCap c p) c u t) {r : Except (Nat × Nat) (List Nat) × State} (hr : captured s c p u t = r) :
    exec (.loopCap c p) s = .next (ended s (.loopCap c p) c u t (capture p u t ((s.src u.wg t p.a).toNat % 2 ^ 32) r)) := by
  rw [exec_loopCap, execLoopCap, isa_alone h]
  have hlen : bits p.imm.toNat 5 0 = p.imm.toNat % 2 ^ 6 := bits_low _ 5
  have hns : bits p.imm.toNat 10 6 = p.imm.toNat / 2 ^ 6 % 2 ^ 5 := bits_eq ..
  have htr : bits (s.src u.wg t p.a).toNat 31 0 = (s.src u.wg t p.a).toNat % 2 ^ 32 := bits_low _ 31
  simp only [ctx, start_src, hlen, hns, htr]
  unfold captured at hr
  rw [hr]
  obtain ⟨(⟨_ | f, a⟩ | ws), s'⟩ := r <;> rfl

theorem advance_of_loop {th : Thread} {r : LoopRec} (h : th.loop = some r) :
    (th.pc.toNat + 1 = r.b + r.len → r.pass + 1 = r.trips →
      th.advance = { th with pc := BitVec.ofNat 24 (r.b + r.len), loop := none }) ∧
    (th.pc.toNat + 1 = r.b + r.len → r.pass + 1 ≠ r.trips →
      th.advance = { th with pc := BitVec.ofNat 24 r.b, loop := some { r with pass := r.pass + 1 } }) ∧
    (th.pc.toNat + 1 ≠ r.b + r.len → th.advance = { th with pc := th.pc + 1 }) := by
  unfold Thread.advance
  rw [h]
  dsimp only
  refine ⟨fun h1 h2 => ?_, fun h1 h2 => ?_, fun h1 => ?_⟩
  · rw [if_pos (by simpa using h1), if_pos (by simpa using h2)]
  · rw [if_pos (by simpa using h1), if_neg (by simpa using h2)]
  · rw [if_neg (by simpa using h1)]

end

/-! ## Elections (R347) -/

section
variable {s : State} {c : Ctl} {o : F3} {u : Cur} {t : Nat} {g : Workgroup} {th : Thread}

/-- The state of an election once the occurrences that no live thread can meet are freed. -/
def freed (s : State) (u : Cur) : State := s.modWg u.wg Workgroup.freeElections

theorem alone_freed (h : Alone s (.elect c o) c u t) : Alone (freed s u) (.elect c o) c u t := by
  refine alone_congr h rfl rfl ?_ (State.thread_modWg_keep _ _ _ _ _ fun _ => rfl)
  unfold State.priv freed
  rw [State.launchOf_modWg s u.wg u.wg Workgroup.freeElections fun _ => rfl]

/-- The occurrence of an election that the bundle meets. -/
def meets (u : Cur) (th : Thread) (e : Election) : Bool := e.index == u.pc && e.epoch == th.epoch.toNat

/-- What elect does with the occurrences of its workgroup. -/
def election (s : State) (u : Cur) (t pd : Nat) (g : Workgroup) (th : Thread) : Act :=
  if g.elections.any (meets u th) then
    .adv ((s.modWg u.wg (fun g => { g with elections := g.elections.map (fun e =>
      if meets u th e then { e with seen := t :: e.seen.filter (· != t) } else e) })).putPred u.wg [t] pd false)
  else if 64 ≤ g.elections.length then .wait s
  else .adv ((s.modWg u.wg (fun g => { g with
    elections := g.elections ++ [{ index := u.pc, epoch := th.epoch.toNat, seen := [t] }] })).putPred u.wg [t] pd true)

theorem elect_alone (h : Alone s (.elect c o) c u t) (hg : s.wg u.wg = some g) (hth : s.thread u.wg t = some th) :
    exec (.elect c o) s = .next (ended (freed s u) (.elect c o) c u t
      (election (start (freed s u) (.elect c o) c u) u t o.pd.val g.freeElections th)) := by
  have hg' : (start (freed s u) (.elect c o) c u).wg u.wg = some g.freeElections := by simp [freed, hg]
  have hth' : (start (freed s u) (.elect c o) c u).thread u.wg t = some th := by
    rw [start_thread, ← hth]
    exact State.thread_modWg_keep _ _ _ _ _ fun _ => rfl
  rw [exec_elect, execElect]
  simp only [h.cur]
  refine (isa_alone (alone_freed h)).trans ?_
  simp only [ctx, hg', hth']
  rfl

end

/-- Settles O24, first the loop buffer, then elections and idling. -/
theorem loopsElectionsAndIdling : Obligations.LoopsElectionsAndIdling := by
  refine ⟨?_, ?_⟩
  · intro c p s u t ws s1 i len ns trips b fetched good on
    refine ⟨fun h hf hg h0 => ?_, fun h hf hg h0 => ?_, fun h hf hg => ?_, fun f a h hf h0 => ?_, fun h => ?_,
      fun th r hr => advance_of_loop hr⟩
    · refine (loopCap_alone h hf).trans ?_
      unfold capture
      dsimp only
      rw [if_neg (Bool.eq_false_iff.1 hg), if_pos h0]
      rfl
    · refine (loopCap_alone h hf).trans ?_
      unfold capture
      dsimp only
      rw [if_neg (Bool.eq_false_iff.1 hg), if_neg h0]
    · refine (loopCap_alone h hf).trans ?_
      unfold capture
      dsimp only
      rw [if_pos (of_not_not (mt Bool.eq_false_iff.2 hg))]
      rfl
    · obtain ⟨f, rfl⟩ := Nat.exists_eq_succ_of_ne_zero h0
      exact loopCap_alone h hf
    · exact isa_alone h
  · intro c o p s u t g th e s0 es mine set n few all
    have hm : ∀ x, meets u th x = true ↔ mine x := fun x => by simp [meets, mine]
    have hnone : (∀ x ∈ es, ¬mine x) → es.any (meets u th) = false := fun h =>
      List.any_eq_false.2 fun x hx => mt (hm x).1 (h x hx)
    have hcounts : s.countedDown u.wg t n = true ↔ all := by
      simp [State.countedDown, waitCounts, all, few, bits_eq]
    have hstart : (start s (.wait c p) c u).countedDown u.wg t n = s.countedDown u.wg t n := by
      unfold State.countedDown State.countOps
      rw [start_ops]
    refine ⟨fun h hg hth hno hl => ?_, fun h hg hth hex => ?_, fun h hg hth hno hl => ?_,
      gives_act _ (fun _ => rfl) (fun u s x hw _ => by rw [hw]) (fun u s t => keeps_modThread ..),
      gives_act _ (fun _ => rfl) (fun u s x hw _ => rfl) (fun u s t => .refl ..),
      fun h h0 => ?_, fun h h0 => ?_, fun h ha => ?_, fun h ha => ?_⟩
    · refine (elect_alone h hg hth).trans ?_
      rw [election, hnone hno, if_neg Bool.false_ne_true, if_neg (not_le.2 hl)]
      rfl
    · refine (elect_alone h hg hth).trans ?_
      rw [election, if_pos (by simpa [List.any_eq_true, hm] using hex)]
      have hmark : (fun e : Election => if meets u th e then { e with seen := t :: e.seen.filter (· != t) } else e) =
          fun x => if x.index = u.pc ∧ x.epoch = th.epoch.toNat then { x with seen := t :: x.seen.filter (· != t) } else x :=
        funext fun x => if_congr (hm x) rfl rfl
      rw [hmark]
      rfl
    · refine (elect_alone h hg hth).trans ?_
      rw [election, hnone hno, if_neg Bool.false_ne_true, if_pos hl]
      rfl
    · exact isa_alone_adv h (if_pos h0)
    · exact isa_alone_wait h ((if_neg h0).trans (by simp only [ctx, start_now]; rfl))
    · exact isa_alone_adv h (if_pos (hstart.trans (hcounts.2 ha)))
    · exact isa_alone_wait h (if_neg fun hc => ha (hcounts.1 (hstart.symm.trans hc)))

end Sys2Proof.Proofs
end


section
/-! PROOFS. Bucket selection. -/
namespace Sys2Proof.Proofs
open Sys2Proof.Machine Sys2Proof.Safety Sys2Proof.Laws

/-! ## bkt.sel (R346, R201, R202) -/

/-- Dimensions and records that a head names, and whether it is within the limits of R201. -/
def dims (h : Nat) : Nat := h / 2 ^ 8 % 2 ^ 3
def records (h : Nat) : Nat := h % 2 ^ 8
def legalHead (k0 h : Nat) : Prop :=
  h < 2 ^ 11 ∧ 1 ≤ dims h ∧ dims h ≤ 4 ∧ 1 ≤ records h ∧ records h ≤ 64 ∧ k0 + dims h ≤ 64

/-- The mask registers lie in the frame. -/
def masksInside (s : State) (u : Cur) (t : Nat) (e : Opnd) (nd : Nat) : Prop :=
  ∀ j, e = .v j → j.val + nd ≤ 240 ∧ ∀ th, s.thread u.wg t = some th → inFrame th.frames (j.val + nd - 1) = true

/-- The registers of the two groups. -/
def groupNames (s : State) (u : Cur) (t k0 : Nat) (e : Opnd) (nd : Nat) : List Dst :=
  (List.range nd).map (fun d => Dst.k (k0 + d)) ++
    ((List.range nd).map (fun d => Opnd.plus e d)).flatMap (fun (e : Opnd) => (s.dst u.wg t e).toList)

/-- The shape values. -/
def shapeValues (s : State) (u : Cur) (k0 nd : Nat) : List Nat :=
  (List.range nd).map (fun d => (((s.wg u.wg).map (fun g => (g.k (k0 + d)).toNat)).getD 0) % 2 ^ 32)

/-- What a selection writes. -/
def selWrites (s : State) (o : F3) (u : Cur) (t nd : Nat) (vs : List Nat) (r : Option (List Nat)) : List (Dst × Word) :=
  let sched := match r with
    | some l => l.headD 0 % 2 ^ 16
    | none => 0xFFFF
  let masks := match r with
    | some l => vs.zipIdx.map (fun (e : Nat × Nat) => padMask (l.headD 0 / 2 ^ (16 + 4 * e.2) % 16) e.1)
    | none => List.replicate nd 0
  ((s.dst u.wg t o.d).toList.map (fun (d : Dst) => (d, ofN sched))) ++
    (((List.range nd).map (fun d => Opnd.plus o.e d)).zip masks).filterMap (fun (e : Opnd × Nat) =>
      (s.dst u.wg t e.1).map (fun d => (d, ofN e.2))) ++
    (if o.pd.val = 15 then [] else [(Dst.p o.pd.val [t], if r.isSome then (1 : Word) else 0)])

/-- The operation that writes them. -/
def selOp (u : Cur) (t : Nat) (ws : List (Dst × Word)) : Op :=
  { wg := u.wg, tid := t, core := u.core, cls := some .ld, pc := u.pc, dst := ws.map (·.1), kind := .local ws }

/-- The check of the head, and the check of the mask registers. -/
def illegalHead (k0 h : Nat) : Bool :=
  h / 2 ^ 11 != 0 || dims h == 0 || decide (4 < dims h) || records h == 0 || decide (64 < records h) || decide (64 < k0 + dims h)
def beyondFrame (s : State) (u : Cur) (t : Nat) (e : Opnd) (nd : Nat) : Bool :=
  match e with
  | .v j => decide (240 < j.val + nd) || (match s.thread u.wg t with
    | some th => !inFrame th.frames (j.val + nd - 1)
    | none => false)
  | _ => false

/-- What bkt.sel does once its table's head is there. -/
def headed (s : State) (c : Ctl) (o : F3) (u : Cur) (t va k0 h : Nat) : Act :=
  let nd := dims h
  let x := ctx (.bktSel c o) c u t
  if illegalHead k0 h then .trap 0xB0 va none s
  else if beyondFrame s u t o.e nd then .trap 0x70 0 none s
  else if s.pendingAny u.wg t (groupNames s u t k0 o.e nd) then
    .wait (s.modThread u.wg t (fun th => { th with hold := some (.group (groupNames s u t k0 o.e nd)) }))
  else
    let vs := shapeValues s u k0 nd
    match findBucket s x nd vs (va + 8) (records h) with
    | (.error (0, _), s) => .wait s
    | (.error (f, a), s) => .trap f a none s
    | (.ok r, s) => .adv (withOp s (selOp u t (selWrites s o u t nd vs r)))

/-- What bkt.sel does. -/
def selected (c : Ctl) (o : F3) (u : Cur) (t va k0 : Nat) : Except (Nat × Nat) Nat × State → Act
  | (.error (0, _), s) => .wait s
  | (.error (f, a), s) => .trap f a none s
  | (.ok h, s) => headed s c o u t va k0 h

section
variable {s : State} {c : Ctl} {o : F3} {u : Cur} {t k0 h : Nat}

theorem bktSel_alone (ha : Alone s (.bktSel c o) c u t) {k0 : Fin 64} (hb : o.b = .k k0) {r : Except (Nat × Nat) Nat × State}
    (hr : cstWord (start s (.bktSel c o) c u) (ctx (.bktSel c o) c u t) (s.src u.wg t o.a).toNat = r) :
    exec (.bktSel c o) s = .next (ended s (.bktSel c o) c u t
      ((selected c o u t (s.src u.wg t o.a).toNat k0.val r).after (.thread u.wg t))) := by
  have h1 : ∀ h, bits h 10 8 = dims h := fun h => bits_eq ..
  have h2 : ∀ h, bits h 7 0 = records h := fun h => bits_low h 7
  have h3 : ∀ x, bits x 31 0 = x % 2 ^ 32 := fun x => bits_low x 31
  have h4 : ∀ x, bits x 15 0 = x % 2 ^ 16 := fun x => bits_low x 15
  have h5 : ∀ x d, bits x (19 + 4 * d) (16 + 4 * d) = x / 2 ^ (16 + 4 * d) % 16 := fun x d => by
    rw [bits_eq, show 19 + 4 * d + 1 - (16 + 4 * d) = 4 by omega]
    rfl
  have hctx : ctx (.bktSel c o) c u t =
      { w := u.wg, t := t, ts := [t], core := u.core, pc := u.pc, uni := Instr.uniform (.bktSel c o), hint := c.ch.val } := rfl
  rw [exec_bktSel, execBktSel, isa_alone ha]
  refine congrArg (fun a : Act => Host.Outcome.next (ended s (.bktSel c o) c u t (a.after (.thread u.wg t)))) ?_
  simp only [ctx_w, ctx_t, ctx_ts, ctx_core, start_src, hr]
  obtain ⟨(⟨_ | f, a⟩ | h), s1⟩ := r
  · rfl
  · rfl
  · unfold selected headed groupNames
    simp only [h1, h2, h3, h4, h5, hb, List.foldl_cons, List.foldl_nil]
    refine if_congr Iff.rfl rfl (if_congr Iff.rfl rfl (if_congr Iff.rfl rfl ?_))
    have hv : (List.range (dims h)).map (fun d => (((s1.wg u.wg).map (fun g => (g.k (k0.val + d)).toNat)).getD 0) % 2 ^ 32) =
        shapeValues s1 u k0.val (dims h) := rfl
    rw [hv]
    generalize findBucket s1 _ _ _ _ _ = r
    obtain ⟨(⟨_ | f, a⟩ | (_ | r)), s2⟩ := r <;> rfl

theorem illegal_iff : illegalHead k0 h = true ↔ ¬legalHead k0 h := by
  have hh : h / 2 ^ 11 = 0 ↔ h < 2 ^ 11 := by omega
  simp only [Bool.or_eq_true, bne_iff_ne, ne_eq, hh, beq_iff_eq, decide_eq_true_eq, legalHead, illegalHead]
  omega

theorem beyond_iff {e : Opnd} {nd : Nat} : beyondFrame s u t e nd = true ↔ ¬masksInside s u t e nd := by
  unfold masksInside beyondFrame
  cases e with
  | v j =>
    have h1 : (∀ i, Opnd.v j = .v i → i.val + nd ≤ 240 ∧ ∀ th, s.thread u.wg t = some th → inFrame th.frames (i.val + nd - 1) = true) ↔
        (j.val + nd ≤ 240 ∧ ∀ th, s.thread u.wg t = some th → inFrame th.frames (j.val + nd - 1) = true) :=
      ⟨fun h => h j rfl, fun h i hi => by cases hi; exact h⟩
    rw [h1]
    cases s.thread u.wg t with
    | none => simp
    | some th => simp [imp_iff_not_or]
  | _ => simp

end

/-- Settles O25, by the branches of bkt.sel. -/
theorem bucketSelection : Obligations.BucketSelection := by
  intro c o s u t h k0 r s1 s2 i x va nd nb legal inside vs left names awaits head sched masks writes op
  have heads (ha : Alone s i c u t) (hb : o.b = .k k0) (hr : cstWord (start s i c u) x va = (.ok h, s1)) :
      exec i s = .next (ended s i c u t ((headed s1 c o u t va k0.val h).after (.thread u.wg t))) := bktSel_alone ha hb hr
  have hill : ¬legal ↔ _ := (illegal_iff (k0 := k0.val) (h := h)).symm
  have hbey : ¬inside ↔ _ := (beyond_iff (s := s1) (u := u) (t := t) (e := o.e) (nd := dims h)).symm
  have haw : awaits ↔ s1.pendingAny u.wg t (groupNames s1 u t k0.val o.e (dims h)) = true := Iff.rfl
  refine ⟨fun ha hb hr => ⟨fun hl => ?_, fun hl hi => ?_, fun hl hi hw => ?_⟩, fun a ha hb hr => bktSel_alone ha hb hr,
    fun ha hb hr hl hi hw hf => ?_, fun n v => rfl⟩
  · rw [heads ha hb hr, headed]
    dsimp only
    rw [if_pos (hill.1 hl)]
    rfl
  · rw [heads ha hb hr, headed]
    dsimp only
    rw [if_neg fun h => hill.2 h hl, if_pos (hbey.1 hi)]
    rfl
  · refine (heads ha hb hr).trans ?_
    rw [headed]
    dsimp only
    rw [if_neg fun h => hill.2 h hl, if_neg fun h => hbey.2 h hi, if_pos (haw.1 hw)]
    rfl
  · refine (heads ha hb hr).trans ?_
    rw [headed]
    dsimp only
    rw [if_neg fun h => hill.2 h hl, if_neg fun h => hbey.2 h hi, if_neg (mt haw.2 hw)]
    have hf' : findBucket s1 (ctx (.bktSel c o) c u t) (dims h) (shapeValues s1 u k0.val (dims h)) (va + 8) (records h) = (.ok r, s2) := hf
    rw [hf']
    rfl

end Sys2Proof.Proofs
end


section
/-! PROOFS. Named barriers and team synchronisation. -/
namespace Sys2Proof.Proofs
open Sys2Proof.Machine Sys2Proof.Safety Sys2Proof.Laws

/-! ## A barrier opens (R134, R351) -/

theorem getElem?_foldl_modify {α β : Type} (k : β → α → α) (xs : List β) (m t : Nat) (a : List α) :
    ((xs.zipIdx m).foldl (fun a p => a.modify p.2 (k p.1)) a)[t]? =
      if m ≤ t then (match xs[t - m]? with
        | some x => a[t]?.map (k x)
        | none => a[t]?) else a[t]? := by
  induction xs generalizing m a with
  | nil => simp
  | cons x xs ih =>
    rw [List.zipIdx_cons, List.foldl_cons, ih]
    rcases Nat.lt_trichotomy t m with h | rfl | h
    · rw [if_neg (by omega), if_neg (by omega), List.getElem?_modify_ne _ _ (by dsimp only; omega)]
    · rw [if_neg (by omega), if_pos (le_refl _), List.getElem?_modify_eq, Nat.sub_self]
      rfl
    · obtain ⟨d, rfl⟩ : ∃ d, t = m + 1 + d := ⟨t - (m + 1), by omega⟩
      rw [if_pos (by omega), if_pos (by omega), List.getElem?_modify_ne _ _ (by dsimp only; omega),
        show m + 1 + d - m = d + 1 by omega, show m + 1 + d - (m + 1) = d by omega, List.getElem?_cons_succ]

/-- What the opening of barrier n does to a thread. -/
def letGo (now n : Nat) (p th : Thread) : Thread :=
  match p.st with
  | .parked (.barrier m _ waits) =>
    if m != n then th
    else if waits then { ({ th with epoch := th.epoch + 1 } : Thread).advance with hold := none, st := .run, readyAt := now }
    else { th with st := .run, readyAt := now }
  | _ => th

/-- One thread is let go. -/
def letGoOne (w n : Nat) (s : State) (p : Thread × Nat) : State :=
  match p.1.st with
  | .parked (.barrier m _ waits) =>
    if m != n then s
    else if waits then (s.modThread w p.2 (fun th => { th with epoch := th.epoch + 1 })).release w p.2
    else s.modThread w p.2 (fun th => { th with st := .run, readyAt := s.now })
  | _ => s

theorem now_letGoOne (w n : Nat) (s : State) (p : Thread × Nat) : (letGoOne w n s p).now = s.now := by
  unfold letGoOne
  split
  · split
    · rfl
    · split <;> rfl
  · rfl

theorem wg_letGoOne (w n : Nat) (s : State) (p : Thread × Nat) : (letGoOne w n s p).wg w =
    (s.wg w).map (fun g => { g with threads := g.threads.modify p.2 (letGo s.now n p.1) }) := by
  have hid : s.wg w = (s.wg w).map (fun g => { g with threads := g.threads.modify p.2 (fun th => th) }) := by
    cases s.wg w with
    | none => rfl
    | some g => rw [Option.map_some, show (fun th : Thread => th) = id from rfl, List.modify_id]
  unfold letGoOne letGo
  split
  · split
    · exact hid
    · split
      · rw [State.release, State.modThread_modThread, State.wg_modThread]
        rfl
      · rw [State.wg_modThread]
  · exact hid

theorem wg_letGoAll (w n : Nat) (l : List (Thread × Nat)) (s : State) : (l.foldl (letGoOne w n) s).wg w =
    (s.wg w).map (fun g => { g with threads := l.foldl (fun a p => a.modify p.2 (letGo s.now n p.1)) g.threads }) := by
  induction l generalizing s with
  | nil => simp
  | cons p l ih =>
    rw [List.foldl_cons, ih, wg_letGoOne, now_letGoOne, Option.map_map]
    rfl

section
variable {s : State} {w n : Nat} {g : Workgroup} {b : Barrier}

/-- The barrier in its next phase. -/
def nextPhase (b : Barrier) : Barrier := { b with ph := (b.ph + 1) % 2 ^ 32, arr := 0 }

/-- What the opening of a barrier leaves of its workgroup. -/
theorem wg_openBarrier (hg : s.wg w = some g) : (s.openBarrier w n).wg w = some { g with
    bars := tmod g.bars n nextPhase
    threads := g.threads.zipIdx.foldl (fun a p => a.modify p.2 (letGo s.now n p.1)) g.threads } := by
  have hopen : s.openBarrier w n = g.threads.zipIdx.foldl (letGoOne w n) (s.modWg w (fun g => { g with bars := tmod g.bars n nextPhase })) := by
    unfold State.openBarrier
    rw [hg]
    rfl
  rw [hopen, wg_letGoAll, State.wg_modWg_same, hg]
  rfl

theorem settleBarrier_opens (hg : s.wg w = some g) (hb : tget g.bars n = some b) :
    s.settleBarrier w n = if b.arr = b.exp ∧ b.tx = 0 then s.openBarrier w n else s := by
  unfold State.settleBarrier
  simp only [hg, Option.bind_some, hb]
  exact if_congr (by simp) rfl rfl

theorem settleBarrier_spec (hg : s.wg w = some g) (hb : tget g.bars n = some b) :
    (¬(b.arr = b.exp ∧ b.tx = 0) → s.settleBarrier w n = s) ∧
    (b.arr = b.exp → b.tx = 0 → ∃ g', (s.settleBarrier w n).wg w = some g' ∧
      tget g'.bars n = some (nextPhase b) ∧ (∀ m, m ≠ n → tget g'.bars m = tget g.bars m) ∧
      ∀ (t : Nat) (th : Thread), g.threads[t]? = some th → g'.threads[t]? = some (letGo s.now n th th)) := by
  rw [settleBarrier_opens hg hb]
  refine ⟨fun h => if_neg h, fun h1 h2 => ?_⟩
  rw [if_pos ⟨h1, h2⟩]
  refine ⟨_, wg_openBarrier hg, by simp [hb], fun m hm => tget_tmod_other _ _ hm, fun t th ht => ?_⟩
  have h := getElem?_foldl_modify (letGo s.now n) g.threads 0 t g.threads
  rw [if_pos (Nat.zero_le _), Nat.sub_zero, ht] at h
  exact h

end

/-! ## Barrier instructions (R348 to R351) -/

section
variable {s : State} {c : Ctl} {p : FI} {u : Cur} {t : Nat} {g : Workgroup} {l : Launch} {b : Barrier} {i : Instr}

theorem barrier_beyond {n : Nat} (hg : s.wg u.wg = some g) (hl : s.launchOf u.wg = some l) (hn : l.nbars ≤ n) :
    s.barrier u.wg n = none := by
  unfold State.barrier
  rw [hg, hl]
  exact if_pos hn

theorem barrier_within {n : Nat} (hg : s.wg u.wg = some g) (hl : s.launchOf u.wg = some l) (hn : n < l.nbars) :
    s.barrier u.wg n = some (tget g.bars n) := by
  unfold State.barrier
  rw [hg, hl]
  exact if_neg (not_le.2 hn)

theorem barrier_start (n : Nat) : (start s i c u).barrier u.wg n = s.barrier u.wg n := by simp [State.barrier]

/-- The barrier that an instruction names. -/
def barNo (p : FI) : Nat := p.imm.toNat % 2 ^ 11

theorem onBarrier_initialised {f : State → Ctx → Nat → Barrier → Act} (hb : s.barrier u.wg (barNo p) = some (some b)) :
    onBarrier p f (start s i c u) (ctx i c u t) = f (start s i c u) (ctx i c u t) (barNo p) b := by
  unfold onBarrier
  rw [show bits p.imm.toNat 10 0 = barNo p from bits_low _ 10]
  simp only [ctx_w, barrier_start, hb]

theorem onBarrier_fails {f : State → Ctx → Nat → Barrier → Act} (hb : ∀ b, s.barrier u.wg (barNo p) ≠ some (some b)) :
    onBarrier p f (start s i c u) (ctx i c u t) = .trap 0xC8 0 none (start s i c u) := by
  unfold onBarrier
  rw [show bits p.imm.toNat 10 0 = barNo p from bits_low _ 10]
  simp only [ctx_w, barrier_start]

/-- A thread stands in bar.wait on the barrier. -/
def waitsOn (g : Workgroup) (n : Nat) : Bool :=
  g.threads.any (fun th => match th.st with
    | .parked (.barrier m _ true) => m == n
    | _ => false)

theorem waitsOn_iff {n : Nat} : waitsOn g n = true ↔ ∃ th ∈ g.threads, ∃ ph, th.st = .parked (.barrier n ph true) := by
  unfold waitsOn
  rw [List.any_eq_true]
  refine exists_congr fun th => and_congr_right fun _ => ?_
  constructor
  · intro h
    split at h
    · next m ph hst => exact ⟨ph, by rw [hst, beq_iff_eq.1 h]⟩
    · cases h
  · rintro ⟨ph, hst⟩
    rw [hst]
    exact beq_self_eq_true n

/-- What bar.init does at a barrier within the launch's. -/
def barInitAct (s : State) (u : Cur) (g : Workgroup) (n k : Nat) : Option Barrier → Act
  | none => .adv (setBarrier s u.wg n { exp := k })
  | some b => if k = b.exp then .adv s
    else if waitsOn g n || decide (k < b.arr) then .trap 0xC9 0 none s
    else .adv ((setBarrier s u.wg n { b with exp := k }).settleBarrier u.wg n)

theorem barInit_alone (h : Alone s (.barInit c p) c u t) (hg : s.wg u.wg = some g) (hl : s.launchOf u.wg = some l)
    (hn : barNo p < l.nbars) :
    exec (.barInit c p) s = .next (ended s (.barInit c p) c u t
      (if (s.src u.wg t p.a).toNat = 0 ∨ g.threads.length < (s.src u.wg t p.a).toNat then .trap 0xC9 0 none (start s (.barInit c p) c u)
      else barInitAct (start s (.barInit c p) c u) u g (barNo p) (s.src u.wg t p.a).toNat (tget g.bars (barNo p)))) := by
  rw [exec_barInit, execBarInit, isa_alone h, show bits p.imm.toNat 10 0 = barNo p from bits_low _ 10]
  simp only [ctx_w, ctx_t, barrier_start, barrier_within hg hl hn, start_src, start_wg, hg, Option.map_some, Option.getD_some]
  refine congrArg (fun a => Host.Outcome.next (ended s (.barInit c p) c u t a)) (if_congr (by simp) rfl ?_)
  cases tget g.bars (barNo p) <;> rfl

theorem barInit_beyond (h : Alone s (.barInit c p) c u t) (hb : s.barrier u.wg (barNo p) = none) :
    exec (.barInit c p) s = .next (traps (start s (.barInit c p) c u) u t 0xC8 0) := by
  rw [exec_barInit, execBarInit, isa_alone h, show bits p.imm.toNat 10 0 = barNo p from bits_low _ 10]
  simp only [ctx_w, barrier_start, hb]
  rfl

/-- The phase that the thread arrived in is over. -/
theorem barLeft_iff (n : Nat) (b : Barrier) (r : Option (Nat × Nat)) : (match r with
    | some (m, ph) => m == n && ph != b.ph
    | none => false) = true ↔ ∃ ph, r = some (n, ph) ∧ ph ≠ b.ph := by
  cases r with
  | none => simp
  | some r =>
    obtain ⟨m, ph⟩ := r
    constructor
    · intro h
      obtain ⟨hm, hp⟩ : m = n ∧ ph ≠ b.ph := by simpa using h
      exact ⟨ph, by rw [hm], hp⟩
    · rintro ⟨ph', he, hp⟩
      cases he
      simpa using hp

theorem fault_alone {act : State → Ctx → Act} {f : Nat} (h : Alone s i c u t) (hx : exec i s = isa i c act s)
    (ha : act (start s i c u) (ctx i c u t) = .trap f 0 none (start s i c u)) (hf : lateCode f = false) :
    exec i s = .next (traps (start s i c u) u t f 0) := by
  rw [hx, isa_alone h, ha, ended, hf]
  rfl

end

theorem letGo_self (now n : Nat) (th : Thread) : letGo now n th th = match th.st with
    | .parked (.barrier m _ true) => if m = n then { ({ th with epoch := th.epoch + 1 } : Thread).advance with
        hold := none, st := .run, readyAt := now } else th
    | .parked (.barrier m _ false) => if m = n then { th with st := .run, readyAt := now } else th
    | _ => th := by
  unfold letGo
  split
  · next m ph waits hst =>
    rw [hst]
    by_cases hm : m = n
    · cases waits <;> simp [hm]
    · cases waits <;> simp [hm]
  · next hst =>
    split
    · next m ph hst' => exact absurd hst' (hst m ph true)
    · next m ph hst' => exact absurd hst' (hst m ph false)
    · rfl

/-! ## Team synchronisation (R352) -/

theorem team_done {s : State} {i : Instr} {c : Ctl} {u : Cur} {m : Opnd ⊕ Nat} (hx : exec i s = teamFence i c m s)
    (hb : Bundle s i c u)
    (hd : ∀ t ∈ u.tids, guardOf s u.wg t c = true →
      let x : Ctx := { w := u.wg, t := t, ts := [t], core := u.core, pc := u.pc, uni := false, hint := c.ch.val }
      s.fenceClear x 1 (s.markOf x) = true) :
    exec i s = .next (ran s i c u (fun s _ _ => s)) := by
  have hall : (s.contributors c).all (fun t =>
      let x : Ctx := { w := u.wg, t := t, ts := [t], core := u.core, pc := u.pc, uni := false }
      s.fenceClear x 1 (s.markOf x)) = true := by
    refine List.all_eq_true.2 fun t ht => ?_
    rw [State.contributors, hb.cur, List.mem_filter] at ht
    exact hd t ht.1 ht.2
  rw [hx, teamFence]
  simp only [hb.cur]
  refine (if_pos hall).trans ?_
  exact isa_ran hb (fun _ _ _ _ => rfl) (fun s t => .refl ..)

/-- Settles O26: the barrier instructions by their branches, the opening thread by thread. -/
theorem barriersAndTeamSync : Obligations.BarriersAndTeamSync := by
  refine ⟨?_, fun s w n g b hg hb => ?_, ?_⟩
  · intro c p s u t g l b n k init arr wai tx st goes faults here is beyond clear arrived sum
    have hinit : ∀ {a}, Alone s init c u t → here → ¬(k = 0 ∨ g.threads.length < k) →
        barInitAct (st init) u g n k (tget g.bars n) = a → exec init s = .next (ended s init c u t a) :=
      fun {a} ha hh hk hr => by
        obtain ⟨hg, hl, hn⟩ := hh
        exact hr ▸ (barInit_alone ha hg hl hn).trans (congrArg (fun a => Host.Outcome.next (ended s init c u t a)) (if_neg hk))
    have hbar : is → s.barrier u.wg (barNo p) = some (some b) := fun ⟨⟨hg, hl, hn⟩, hb⟩ =>
      (barrier_within hg hl hn).trans (congrArg some hb)
    have harr : ((st wai).thread u.wg t).bind (·.arrival) = arrived := by rw [start_thread]
    have hleft := barLeft_iff n b (((st wai).thread u.wg t).bind (·.arrival))
    refine ⟨fun i hi ha ⟨hg, hl, hn⟩ => ?_, fun i hi ha ⟨hg, hl, hn⟩ hnone => ?_, fun ha ⟨hg, hl, hn⟩ hk => ?_,
      fun ha hh h1 h2 hnone => ?_, fun ha hi h1 h2 hk => ?_, fun ha hi h1 h2 hlt hk => ?_, fun ha hi h1 h2 hk hw => ?_,
      fun ha hi h1 h2 hk hle hw => ?_, fun ha hi hc hne => ?_, fun ha hi hc heq => ?_, fun ha hi hx => ?_, fun ha hi hx => ?_,
      fun ha hi h1 h2 => ?_, fun ha hi hx => ?_⟩
    · have hno : s.barrier u.wg (barNo p) = none := barrier_beyond hg hl hn
      have hno' : ∀ b, s.barrier u.wg (barNo p) ≠ some (some b) := fun b => by simp [hno]
      simp only [List.mem_cons, List.not_mem_nil, or_false] at hi
      rcases hi with rfl | rfl | rfl | rfl
      · exact barInit_beyond ha hno
      · exact fault_alone ha rfl (onBarrier_fails hno') rfl
      · exact fault_alone ha rfl (onBarrier_fails hno') rfl
      · exact fault_alone ha rfl (onBarrier_fails hno') rfl
    · have hno : s.barrier u.wg (barNo p) = some none := (barrier_within hg hl hn).trans (congrArg some hnone)
      have hno' : ∀ b, s.barrier u.wg (barNo p) ≠ some (some b) := fun b => by simp [hno]
      simp only [List.mem_cons, List.not_mem_nil, or_false] at hi
      rcases hi with rfl | rfl | rfl
      · exact fault_alone ha rfl (onBarrier_fails hno') rfl
      · exact fault_alone ha rfl (onBarrier_fails hno') rfl
      · exact fault_alone ha rfl (onBarrier_fails hno') rfl
    · exact (barInit_alone ha hg hl hn).trans (congrArg (fun a => Host.Outcome.next (ended s init c u t a)) (if_pos hk))
    · exact hinit ha hh (by omega) (by rw [hnone])
    · exact hinit ha hi.1 (by omega) (by rw [hi.2, barInitAct, if_pos hk])
    · refine (hinit ha hi.1 (by omega) rfl).trans ?_
      rw [hi.2, barInitAct, if_neg hk, if_pos (by simp [hlt])]
      rfl
    · refine (hinit ha hi.1 (by omega) rfl).trans ?_
      rw [hi.2, barInitAct, if_neg hk, if_pos (by simp [waitsOn_iff.2 hw])]
      rfl
    · refine (hinit ha hi.1 (by omega) rfl).trans ?_
      have hno : waitsOn g n = false := Bool.eq_false_iff.2 fun h => by
        obtain ⟨th, hth, ph, hst⟩ := waitsOn_iff.1 h
        exact hw th hth ph hst
      rw [hi.2, barInitAct, if_neg hk, if_neg (by simp [hno, hle])]
      rfl
    · have hc' : ¬(!(st arr).fenceClear (ctx arr c u t) 2 ((st arr).markOf (ctx arr c u t))) = true := by simp [show _ = true from hc]
      exact isa_alone_adv ha ((onBarrier_initialised (hbar hi)).trans ((if_neg hc').trans (if_neg (by simpa using hne))))
    · have hc' : ¬(!(st arr).fenceClear (ctx arr c u t) 2 ((st arr).markOf (ctx arr c u t))) = true := by simp [show _ = true from hc]
      exact isa_alone_wait ha ((onBarrier_initialised (hbar hi)).trans ((if_neg hc').trans (if_pos (by simpa using heq))))
    · exact isa_alone_adv ha ((onBarrier_initialised (hbar hi)).trans (if_pos (hleft.2 (by rw [harr]; exact hx))))
    · exact isa_alone_wait ha ((onBarrier_initialised (hbar hi)).trans (if_neg fun h => hx (by rw [← harr]; exact hleft.1 h)))
    · have hf : txFits (b.tx + ((st tx).src u.wg t p.a).toInt) = true := by simp [txFits, st]; exact ⟨h1, h2⟩
      refine isa_alone_adv ha ((onBarrier_initialised (hbar hi)).trans ((if_pos hf).trans ?_))
      rw [show (st tx).src (ctx tx c u t).w (ctx tx c u t).t p.a = s.src u.wg t p.a from start_src ..]
      rfl
    · have hf : ¬txFits (b.tx + ((st tx).src u.wg t p.a).toInt) = true := by
        simp only [txFits, st, start_src, Bool.and_eq_true, decide_eq_true_eq]
        exact hx
      exact fault_alone ha rfl ((onBarrier_initialised (hbar hi)).trans (if_neg hf)) rfl
  · obtain ⟨h1, h2⟩ := settleBarrier_spec (n := n) hg hb
    refine ⟨h1, fun ha ht => ?_⟩
    obtain ⟨g', hg', hn, hm, hth⟩ := h2 ha ht
    refine ⟨g', hg', hn, hm, fun t th h => (hth t th h).trans (congrArg some ?_)⟩
    exact letGo_self ..
  · intro c o p s u done
    exact ⟨fun hb hd => team_done rfl hb hd, fun hb hd => team_done rfl hb hd⟩

end Sys2Proof.Proofs
end


section
/-! PROOFS. Traps, system registers, digest reads and TLB invalidation. -/
namespace Sys2Proof.Proofs
open Sys2Proof.Machine Sys2Proof.Safety Sys2Proof.Laws

/-! ## System registers (R355) -/

theorem gives_rdsr (c : Ctl) (p : FI) :
    Gives (.rdsr c p) c (fun u => sets u p.d (fun s t => s.readSr u.wg t (p.imm.toNat % 2 ^ 12))) :=
  fun s u hb => by
    have hn : bits p.imm.toNat 11 0 = p.imm.toNat % 2 ^ 12 := bits_low _ 11
    rw [exec_rdsr, execRdsr, hn]
    exact isa_sets (fun s w t => s.readSr w t _) hb

theorem gives_wrsr (c : Ctl) (p : FI) : Gives (.wrsr c p) c
    (fun u s t _ => s.modThread u.wg t (fun th => th.writeSr (p.imm.toNat % 2 ^ 12) (s.src u.wg t p.a))) :=
  gives_act _ (fun _ => rfl)
    (fun u s x hw _ => by rw [hw, show bits p.imm.toNat 11 0 = p.imm.toNat % 2 ^ 12 from bits_low _ 11])
    (fun u s t => keeps_modThread ..)

section
variable {s : State} {w t : Nat} {th : Thread} {l : Launch}

theorem readSr_eq (hth : s.thread w t = some th) (hl : s.launchOf w = some l) :
    s.readSr w t 0x000 = th.cause ∧ s.readSr w t 0x001 = th.epc ∧ s.readSr w t 0x002 = th.faddr ∧
    s.readSr w t 0x003 = th.tval ∧ s.readSr w t 0x010 = th.rngctr ∧ s.readSr w t 0x011 = ofN th.sptop ∧
    s.readSr w t 0x012 = th.epoch ∧ s.readSr w t 0x013 = th.opidx ∧ s.readSr w t 0x014 = ofN l.ltag ∧
    s.readSr w t 0x015 = ofN l.lseq ∧ s.readSr w t 0x016 = s.counts w t ∧
    (th.loop = none → s.readSr w t 0x017 = 0) ∧ (∀ r, th.loop = some r → s.readSr w t 0x017 = ofN (r.trips - r.pass)) ∧
    s.readSr w t 0x018 = (if l.priv then 1 else 0) ∧ s.readSr w t 0x020 = ofN th.congsel.toNat ∧
    s.readSr w t 0x022 = ofN l.part := by
  unfold State.readSr
  rw [hth, hl]
  refine ⟨rfl, rfl, rfl, rfl, rfl, rfl, rfl, rfl, rfl, rfl, rfl, fun h => ?_, fun r h => ?_, rfl, rfl, rfl⟩
  · change (match th.loop with | some r => ofN (r.trips - r.pass) | none => 0) = _
    rw [h]
  · change (match th.loop with | some r => ofN (r.trips - r.pass) | none => 0) = _
    rw [h]

theorem writeSr_eq (th : Thread) (x : Word) :
    th.writeSr 0x000 x = { th with cause := x &&& 0xFF } ∧ th.writeSr 0x001 x = { th with epc := x } ∧
    th.writeSr 0x002 x = { th with faddr := x } ∧ th.writeSr 0x003 x = { th with tval := x } ∧
    th.writeSr 0x010 x = { th with rngctr := x } ∧ th.writeSr 0x020 x = { th with congsel := x.setWidth 7 } := by
  have hlow : ofN (x.toNat % 256) = x &&& 0xFF := BitVec.eq_of_toNat_eq (by
    rw [ofN, BitVec.toNat_ofNat, BitVec.toNat_and, show (0xFF : Word).toNat = 2 ^ 8 - 1 from rfl, Nat.and_two_pow_sub_one_eq_mod]
    omega)
  have hsel : BitVec.ofNat 7 x.toNat = x.setWidth 7 := BitVec.eq_of_toNat_eq (by simp)
  refine ⟨?_, rfl, rfl, rfl, rfl, ?_⟩
  · rw [← hlow]; rfl
  · rw [← hsel]; rfl

/-- An update of a workgroup that keeps its threads and its launch. -/
theorem keeps_modWg (s : State) (w t : Nat) (f : Workgroup → Workgroup) (ht : ∀ g, (f g).threads = g.threads)
    (hl : ∀ g, (f g).launch = g.launch) : Keeps w t s (s.modWg w f) := by
  refine ⟨rfl, ?_, fun v _ => State.thread_modWg_keep s w w v f ht⟩
  unfold State.priv
  rw [State.launchOf_modWg s w w f hl]

/-! ## TLB invalidation (R42, R357) -/

/-- The TLB entries that tlb.inv names, by the bits of its operands. -/
theorem tlbEntry_named (e : TlbEntry) (part a b : Nat) : e.named part a b =
    (e.part == part && (b.testBit 14 || (e.asid == b % 2 ^ 12 &&
      (match b / 2 ^ 12 % 4 with
        | 0 => e.size == 16 && e.vpn == a / 2 ^ 16 % 2 ^ 41
        | 1 => e.size == 21 && e.vpn == a / 2 ^ 21 % 2 ^ 36
        | 2 => e.size == 30 && e.vpn == a / 2 ^ 30 % 2 ^ 27
        | _ => true)))) := by
  have h1 : bits b 11 0 = b % 2 ^ 12 := bits_low b 11
  have h2 : bits b 13 12 = b / 2 ^ 12 % 4 := bits_eq ..
  have h3 : bits a 56 16 = a / 2 ^ 16 % 2 ^ 41 := bits_eq ..
  have h4 : bits a 56 21 = a / 2 ^ 21 % 2 ^ 36 := bits_eq ..
  have h5 : bits a 56 30 = a / 2 ^ 30 % 2 ^ 27 := bits_eq ..
  unfold TlbEntry.named
  rw [h1, h2, h3, h4, h5]
  rfl

/-- What tlb.inv leaves of a core. -/
def coreDrop (part a b : Nat) (k : Core) : Core :=
  { k with
    tlb := k.tlb.filter (fun t => !t.named part a b)
    misses := k.misses.map (fun (m : Nat × Miss) =>
      (m.1, if m.2.part == part && (bit b 14 || m.2.asid == bits b 11 0) then m.2.restart else m.2)) }

theorem core_tlbDrop_tlb (part a b core : Nat) :
    ((s.tlbDrop part a b).core core).tlb = (s.core core).tlb.filter (fun e => !e.named part a b) := by
  have h : tget (s.tlbDrop part a b).cores core = (tget s.cores core).map (coreDrop part a b) :=
    tget_map s.cores (fun _ k => coreDrop part a b k) core
  unfold State.core
  rw [h]
  cases tget s.cores core <;> rfl

theorem walks_tlbDrop {part a b d : Nat} {l : List WalkEnt} (h : tget (s.tlbDrop part a b).walks d = some l) :
    ∀ e ∈ l, e.named part a b = false := by
  have hw : tget (s.tlbDrop part a b).walks d = _ := tget_map s.walks (fun _ l => l.filter (fun x => !x.named part a b)) d
  rw [hw, Option.map_eq_some_iff] at h
  obtain ⟨l0, -, rfl⟩ := h
  intro e he
  simpa using (List.mem_filter.1 he).2

end

section
variable {s : State} {c : Ctl} {o : F3} {u : Cur} {t : Nat}

theorem tlbInv_alone (h : Alone s (.tlbInv c o) c u t) (hold : ((s.thread u.wg t).bind (·.hold)) = none)
    (hc : (start s (.tlbInv c o) c u).fenceClear (ctx (.tlbInv c o) c u t) 4
      ((start s (.tlbInv c o) c u).markOf (ctx (.tlbInv c o) c u t)) = true) :
    let a := (s.src u.wg t o.a).toNat
    let b := (s.src u.wg t o.b).toNat
    let dropped := ((start s (.tlbInv c o) c u).discard u.core .ls (fun _ => true)).tlbDrop (s.partOf u.wg) a b
    exec (.tlbInv c o) s = .next (ended s (.tlbInv c o) c u t
      (if dropped.accessesDone (s.partOf u.wg) a b dropped.nextId then .adv dropped
        else .wait (dropped.modThread u.wg t (fun th => { th with hold := some (.inval dropped.nextId a b) })))) := by
  intro a b dropped
  rw [exec_tlbInv, execTlbInv, isa_alone h]
  simp only [ctx_w, ctx_t, ctx_core, start_thread, hold, start_partOf, start_src, hc, Bool.not_true, Bool.false_eq_true, if_false]
  rfl

theorem tlbInv_held {m a b : Nat} (h : Alone s (.tlbInv c o) c u t) (hold : ((s.thread u.wg t).bind (·.hold)) = some (.inval m a b))
    (hd : s.accessesDone (s.partOf u.wg) a b m = true) :
    exec (.tlbInv c o) s = .next (goOn (start s (.tlbInv c o) c u) u.wg t c) := by
  have hd' : (start s (.tlbInv c o) c u).accessesDone (s.partOf u.wg) a b m = true := by
    rw [← hd, start_eq]
    rfl
  rw [exec_tlbInv, execTlbInv, isa_alone h]
  simp only [ctx_w, ctx_t, start_thread, hold, start_partOf, hd', if_true]
  rfl

theorem digestRd_alone (h : Alone s (.digestRd c o) c u t) {ws : Option (List Word)} {s1 : State}
    (hc : (start s (.digestRd c o) c u).fenceClear (ctx (.digestRd c o) c u t) 4
      ((start s (.digestRd c o) c u).markOf (ctx (.digestRd c o) c u t)) = true)
    (hw : ((start s (.digestRd c o) c u).discard u.core .ls (fun _ => true)).digestOf u.wg = (ws, s1)) :
    exec (.digestRd c o) s = .next (goOn (((ws.getD (List.replicate 5 0)).zipIdx.foldl (fun (s : State) (e : Word × Nat) =>
      s.put u.wg t (Opnd.plus o.d e.2) e.1) s1).putPred u.wg [t] o.pd.val ws.isSome) u.wg t c) := by
  rw [exec_digestRd, execDigestRd, isa_alone h]
  simp only [ctx_w, ctx_t, ctx_ts, ctx_core, hc, Bool.not_true, Bool.false_eq_true, if_false, hw]
  rfl

end

/-- Settles O27: system registers case by case, the rest by the branches of the instructions. -/
theorem trapsAndSystemRegisters : Obligations.TrapsAndSystemRegisters := by
  refine ⟨fun c p o s u t => ⟨fun h => ?_, fun h => ?_⟩, fun c p => ⟨gives_rdsr c p, gives_wrsr c p, fun s w t th l hth hl => ?_, writeSr_eq⟩, ?_⟩
  · refine (isa_alone h).trans ?_
    have hcode : bits p.imm.toNat 3 0 = p.imm.toNat % 16 := bits_low _ 3
    have hnot : lateCode (0xF0 + p.imm.toNat % 16) = false := by
      have : p.imm.toNat % 16 < 16 := Nat.mod_lt _ (by decide)
      interval_cases p.imm.toNat % 16 <;> rfl
    rw [hcode, ctx_w, ctx_t, start_src, ended, hnot]
    rfl
  · exact isa_alone h
  · obtain ⟨h0, h1, h2, h3, h4, h5, h6, h7, h8, h9, hc, hr⟩ := readSr_eq hth hl
    refine ⟨h0, h1, h2, h3, h4, h5, h6, h7, h8, h9, hc.trans ?_, hr⟩
    unfold State.counts
    simp only [Nat.mul_comm]
  · intro c o s u t d v st clear empty regs a b part names dropped
    refine ⟨fun ws s1 h hc hw => digestRd_alone h hc hw, fun s1 h hc hw => digestRd_alone h hc hw, fun core => ?_, fun d l => walks_tlbDrop,
      fun h hh hc hd => ?_, fun h hh hc hd => ?_, fun m a b h hh hd => tlbInv_held h hh hd, gives_act _ (fun _ => rfl) ?_ ?_⟩
    · refine (core_tlbDrop_tlb ..).trans (List.filter_congr fun e _ => congrArg _ (tlbEntry_named ..))
    · exact (tlbInv_alone h hh hc).trans (congrArg (fun a => Host.Outcome.next (ended s v c u t a)) (if_pos hd))
    · exact (tlbInv_alone h hh hc).trans (congrArg (fun a => Host.Outcome.next (ended s v c u t a)) (if_neg (by simpa using hd)))
    · exact fun u s x hw _ => by rw [hw]
    · exact fun u s t => keeps_modWg s u.wg t _ (fun _ => rfl) (fun _ => rfl)

end Sys2Proof.Proofs
end


section
/-! PROOFS. Events of waiting threads. -/
namespace Sys2Proof.Proofs
open Sys2Proof.Machine Sys2Proof.Safety Sys2Proof.Laws

section
variable {s s1 : State} {core w t q since target : Nat} {g : Workgroup} {th : Thread} {f : Frame}

theorem tmod_congr {α : Type} {m : Tab α} {i : Nat} {f g : α → α} (h : ∀ x, tget m i = some x → f x = g x) :
    tmod m i f = tmod m i g := by
  unfold tmod
  split
  · next x hx => rw [h x hx]
  · rfl

/-- Two updates of a thread that agree on what it is. -/
theorem modThread_congr {f g : Thread → Thread} (h : ∀ th, s.thread w t = some th → f th = g th) :
    s.modThread w t f = s.modThread w t g := by
  unfold State.modThread State.modWg
  refine congrArg (fun m => { s with wgs := m }) (tmod_congr fun x hx => ?_)
  have hm : x.threads.modify t f = x.threads.modify t g := by
    refine List.ext_getElem? fun i => ?_
    rw [List.getElem?_modify, List.getElem?_modify]
    by_cases hi : t = i
    · subst hi
      cases hth : x.threads[t]? with
      | none => rfl
      | some th =>
        have := h th (by simp [State.thread, hx, hth])
        simp [this]
    · simp [hi]
  rw [hm]

/-! ## Callee queues (R163) -/

theorem mostOf_spec {α : Type} {f : α → Nat} {l : List α} {m : α} (h : mostOf f l = some m) : m ∈ l ∧ ∀ x ∈ l, f x ≤ f m := by
  have hfold : ∀ (xs : List α) (a : α), (xs.foldl (fun m y => if f m < f y then y else m) a) ∈ a :: xs ∧
      ∀ x ∈ a :: xs, f x ≤ f (xs.foldl (fun m y => if f m < f y then y else m) a) := by
    intro xs
    induction xs with
    | nil => intro a; simp
    | cons y ys ih =>
      intro a
      obtain ⟨h1, h2⟩ := ih (if f a < f y then y else a)
      rw [List.foldl_cons]
      refine ⟨?_, fun x hx => ?_⟩
      · rcases List.mem_cons.1 h1 with h | h
        · rw [h]
          split <;> simp
        · exact List.mem_cons_of_mem _ (List.mem_cons_of_mem _ h)
      · have hstart := h2 _ List.mem_cons_self
        rcases List.mem_cons.1 hx with rfl | hx
        · refine le_trans ?_ hstart
          split <;> omega
        · rcases List.mem_cons.1 hx with rfl | hx
          · refine le_trans ?_ hstart
            split <;> omega
          · exact h2 x (List.mem_cons_of_mem _ hx)
  cases l with
  | nil => cases h
  | cons x xs => exact Option.some.inj h ▸ hfold xs x

theorem mostOf_isSome {α : Type} {f : α → Nat} {l : List α} (h : l ≠ []) : ∃ m, mostOf f l = some m := by
  cases l with
  | nil => exact absurd rfl h
  | cons x xs => exact ⟨_, rfl⟩

theorem mem_sortBy {α : Type} {le : α → α → Bool} {x : α} {l : List α} : x ∈ sortBy le l ↔ x ∈ l := by
  have hins : ∀ (y : α) (l : List α), x ∈ insertBy le y l ↔ x = y ∨ x ∈ l := by
    intro y l
    induction l with
    | nil => simp [insertBy]
    | cons z l ih =>
      unfold insertBy
      split
      · simp
      · rw [List.mem_cons, ih, List.mem_cons]
        tauto
  induction l with
  | nil => rfl
  | cons y l ih => rw [sortBy, List.foldr_cons, hins, List.mem_cons]; exact or_congr Iff.rfl ih

/-- A thread in a queue belongs to a workgroup that the core issues. -/
theorem issuing_of_queued (h : (since, w, t, target) ∈ s.queued core q) : w ∈ (s.issuing core).map (·.1) := by
  unfold State.queued at h
  rw [List.mem_flatMap] at h
  obtain ⟨e, he, hm⟩ := h
  rw [List.mem_filterMap] at hm
  obtain ⟨p, -, hp⟩ := hm
  split at hp
  · split at hp
    · cases hp
      exact List.mem_map_of_mem he
    · cases hp
  · cases hp

theorem filterMap_range_one {α : Type} (x : Nat) (e : α) (n : Nat) :
    (List.range n).filterMap (fun l => if x = l then some e else none) = if x < n then [e] else [] := by
  induction n with
  | zero => rfl
  | succ n ih =>
    rw [List.range_succ, List.filterMap_append, ih]
    rcases Nat.lt_trichotomy x n with h | rfl | h
    · rw [if_pos h, if_pos (by omega)]
      simp [h.ne]
    · simp
    · rw [if_neg (by omega), if_neg (by omega)]
      simp [h.ne']

theorem perLane_one (e : Nat × Nat × Nat × Nat) : perLane [e] = [e] := by
  have h := filterMap_range_one (e.2.2.1 % 32) e 32
  rw [if_pos (Nat.mod_lt _ (by decide))] at h
  refine Eq.trans (List.filterMap_congr fun l _ => ?_) h
  by_cases hl : e.2.2.1 % 32 = l
  · simp [hl]
  · simp [hl]

theorem issuing_drained : (s.modCore core (fun k => { k with drained := true })).issuing core = s.issuing core := by
  unfold State.issuing
  rw [State.core_modCore_same]
  rfl

/-- The queue of one thread gives it up. -/
theorem calleeQueueDrain_one (hq : s.drainQueue core = some q) (he : s.queued core q = [(since, w, t, target)])
    (hd : (s.core core).drained = false) :
    exec (.calleeQueueDrain core) s = .next ((s.modCore core (fun k => { k with drained := true })).modThread w t (fun th => { th with
      st := .run, readyAt := s.now, pc := BitVec.ofNat 24 target })) := by
  have hw : w ∈ sortBy (fun a b => decide (a ≤ b)) ((s.issuing core).map (·.1)) :=
    mem_sortBy.2 (issuing_of_queued (he ▸ List.mem_singleton_self _))
  have hcount : ∀ v, ([(since, w, t, target)].filter (fun e => e.2.1 == v)).length = if w = v then 1 else 0 := fun v => by
    by_cases hv : w = v <;> simp [hv]
  obtain ⟨m, hm⟩ := mostOf_isSome (f := fun v => ([(since, w, t, target)].filter (fun e => e.2.1 == v)).length) (List.ne_nil_of_mem hw)
  have hmw : w = m := by
    have h1 := (mostOf_spec hm).2 w hw
    rw [hcount, hcount, if_pos rfl] at h1
    by_contra hne
    rw [if_neg hne] at h1
    omega
  subst hmw
  rw [exec_calleeQueueDrain, execCalleeQueueDrain, hd, if_neg Bool.false_ne_true, hq]
  simp only [he, issuing_drained, hm]
  simp [perLane_one]

theorem drainQueue_none (h : ∀ q < 16, (s.queued core q).length < 32 ∧ ∀ e ∈ s.queued core q, s.now < e.1 + 256) :
    s.drainQueue core = none := by
  unfold State.drainQueue
  split
  · rfl
  · next q hq =>
    obtain ⟨hlen, hnew⟩ := h q (List.mem_range.1 (mostOf_spec hq).1)
    refine if_neg ?_
    simp only [Bool.or_eq_true, List.any_eq_true, decide_eq_true_eq, not_or, not_exists, not_and]
    refine ⟨fun e he hfull => ?_, fun e he => by have := hnew e he; omega⟩
    have := List.length_filter_le (fun x => x.2.1 == e.2.1) (s.queued core q)
    omega

/-! ## The Swarm engine (R171 to R173) -/

theorem swarm_one (hn : (s.core core).needs = [(t % 32, w, t)]) (hg : s.grantOne w t = (true, s1))
    (hn1 : (s1.core core).needs = [(t % 32, w, t)]) (n : Nat) (skip : List Nat) :
    s.swarm core (n + 1) skip = s1.dropNeed core w t := by
  have hgone : ((s1.dropNeed core w t).core core).needs = [] := by simp [State.dropNeed, hn1]
  unfold State.swarm
  rw [hn]
  dsimp only
  rw [hg]
  cases n with
  | zero => rfl
  | succ n =>
    dsimp only
    unfold State.swarm
    rw [hgone]

end

/-- Settles O28, by the branches of the events. -/
theorem threadEventsComplete : Obligations.ThreadEventsComplete := by
  intro s s1 core w t q n since target g th f i
  refine ⟨fun hth hs hn => ?_, fun hth hs hn => ?_, fun hth hg hr hs hn => ?_, calleeQueueDrain_one, fun hd => ?_, fun h => ?_,
    fun h => ?_, fun h hn hg hn1 => ?_, fun hth hd hsp => ?_, fun hth hf hd hsp hw => ?_⟩
  · refine congrArg _ (modThread_congr fun th' h => ?_)
    obtain rfl : th = th' := Option.some.inj (hth.symm.trans h)
    rw [hs]
    exact if_pos hn
  · refine congrArg _ (modThread_congr fun th' h => ?_)
    obtain rfl : th = th' := Option.some.inj (hth.symm.trans h)
    rw [hs]
    exact if_pos hn
  · rw [exec_sleepExpire, execSleepExpire, hth, hg]
    simp only [Option.map_some, hs, hr]
    exact congrArg _ (if_pos hn)
  · rw [exec_calleeQueueDrain, execCalleeQueueDrain, if_pos hd]
  · rw [exec_calleeQueueDrain, execCalleeQueueDrain, drainQueue_none h]
    exact congrArg _ (ite_self _)
  · rw [exec_swarmStart, execSwarmStart, if_neg (by simp [h])]
  · rw [exec_swarmStart, execSwarmStart, if_pos h]
    exact congrArg _ (swarm_one (by simp [hn]) hg hn1 _ _)
  · unfold State.spill
    simp only [hth, hd]
    exact if_pos hsp
  · rw [hf] at hd
    unfold State.spill
    simp only [hth, hf, hd]
    rw [if_neg (show ¬(s.eff w).spsize < th.sptop + f.recBytes from not_lt.2 hsp)]
    have hrec : f.regsHeld.flatMap (fun x => leBytes 8 x.toNat) ++ leBytes 8 (spillHeader ([f].length - 1 - 0) t f.size) =
        f.regsHeld.flatMap (fun x => leBytes 8 x.toNat) ++ leBytes 8 (t % 2 ^ 11 * 2 ^ 8 + f.size / 8) := by
      simp [spillHeader]
    rw [hrec, hw]
    rfl

end Sys2Proof.Proofs
end


section
/-!
PROOFS. The statement about the events of a region's home fails for a partition that lists a region's slot twice
(spec/04_aggregate_regions.md R87).
-/
namespace Sys2Proof.Proofs
open Sys2Proof.Machine Sys2Proof.Safety Sys2Proof.Laws

/-- A region of two leaves that operation 0 frees, with no update under way. -/
def freedRegion : Region := { agg := 0, ty := 0, logn := 1, lbase := 0, sync := 0, frames := [], run := (0, 1), freeing := some 0 }

/-- A partition that lists slot 0 twice. The model's own steps enter a slot once. -/
def slotTwice : State := { parts := [(0, { regions := [(0, freedRegion), (0, freedRegion)] })] }

/-- The end of the free takes the first of the two entries out, so that the second one shows. -/
theorem aggFreeDrain_slotTwice : ∃ s', exec (.aggFreeDrain 0) slotTwice = .next s' ∧ tget (s'.part 0).regions 0 = some freedRegion :=
  ⟨_, rfl, by decide⟩

/-- Refutes O31: after a free over a partition that lists the region's slot twice the slot is not empty, as the last clause says;
the statement does not ask that the slots of a partition be distinct. -/
theorem not_aggregateEventsComplete : ¬Obligations.AggregateEventsComplete := by
  intro h
  obtain ⟨-, -, -, -, -, -, -, hdrain⟩ := h.2 slotTwice 0 0 0 0 0 0 0
    { wg := 0, tid := 0, core := 0, cls := none, pc := 0, kind := .hostRead, dst := [] } freedRegion 0 false
  obtain ⟨s1, h1, hnone, -⟩ := (hdrain (by decide) (by decide)).2 (by decide) (by decide) rfl
  obtain ⟨s2, h2, hsome⟩ := aggFreeDrain_slotTwice
  obtain rfl : s1 = s2 := by
    have := h1.symm.trans h2
    cases this
    rfl
  exact absurd (hnone.symm.trans hsome) (by decide)

end Sys2Proof.Proofs
end


section
/-! PROOFS. The tree of an aggregate region. -/
namespace Sys2Proof.Proofs
open Sys2Proof.Machine Sys2Proof.Safety Sys2Proof.Laws

/-! ## Updates keep the tree (R78) -/

section
variable {r : Region}

/-- An inner node combines its two children. -/
def combined (r : Region) (i : Nat) : Prop := r.node i = (r.combine (r.node (2 * i)) (r.node (2 * i + 1))).1.toNat

/-- Every inner node combines its two children, but perhaps the parents of some nodes. -/
def combinedBut (r : Region) (is : List Nat) : Prop := ∀ i, 1 ≤ i → i < r.n → i ∉ is.map (· / 2) → combined r i

theorem node_recompute (p i : Nat) : (r.recompute p).node i =
    if i = p then (r.combine (r.node (2 * p)) (r.node (2 * p + 1))).1.toNat else r.node i := by
  unfold Region.recompute Region.node
  dsimp only
  rw [tget_tset]
  split <;> rfl

theorem combine_recompute (p a b : Nat) : (r.recompute p).combine a b = r.combine a b := rfl

/-- Recomputing some nodes none of which is a child of another. -/
theorem recompute_all (ps : List Nat) (h : ∀ p ∈ ps, ∀ q ∈ ps, p ≠ 2 * q ∧ p ≠ 2 * q + 1) :
    (∀ a b, (ps.foldl Region.recompute r).combine a b = r.combine a b) ∧ (ps.foldl Region.recompute r).n = r.n ∧
    (∀ i, i ∉ ps → (ps.foldl Region.recompute r).node i = r.node i) ∧
    ∀ p ∈ ps, (ps.foldl Region.recompute r).node p = (r.combine (r.node (2 * p)) (r.node (2 * p + 1))).1.toNat := by
  induction ps generalizing r with
  | nil => simp
  | cons p ps ih =>
    obtain ⟨hc, hn, hout, hin⟩ := ih (r := r.recompute p) fun a ha b hb => h a (List.mem_cons_of_mem _ ha) b (List.mem_cons_of_mem _ hb)
    have hsame : ∀ q ∈ p :: ps, (r.recompute p).node (2 * q) = r.node (2 * q) ∧ (r.recompute p).node (2 * q + 1) = r.node (2 * q + 1) := by
      intro q hq
      obtain ⟨h1, h2⟩ := h p List.mem_cons_self q hq
      rw [node_recompute, node_recompute, if_neg (Ne.symm h1), if_neg (Ne.symm h2)]
      exact ⟨rfl, rfl⟩
    refine ⟨hc, hn, fun i hi => ?_, fun q hq => ?_⟩
    · rw [List.mem_cons, not_or] at hi
      rw [List.foldl_cons, hout i hi.2, node_recompute, if_neg hi.1]
    · rw [List.foldl_cons]
      by_cases hps : q ∈ ps
      · obtain ⟨h1, h2⟩ := hsame q hq
        rw [hin q hps, h1, h2]
        rfl
      · obtain rfl : q = p := (List.mem_cons.1 hq).resolve_right hps
        rw [hout q hps, node_recompute, if_pos rfl]

/-- Climbing from a level to the root mends every inner node. -/
theorem climb_combined (k : Nat) (is : List Nat) (hlevel : ∀ x ∈ is, 2 ^ k ≤ x ∧ x < 2 ^ (k + 1)) (h : combinedBut r is) :
    ∀ i, 1 ≤ i → i < (r.climb k is).n → combined (r.climb k is) i := by
  induction k generalizing r is with
  | zero =>
    intro i h1 hn
    refine h i h1 hn fun hm => ?_
    obtain ⟨x, hx, rfl⟩ := List.mem_map.1 hm
    have := hlevel x hx
    omega
  | succ k ih =>
    have hps : ∀ p ∈ (is.map (· / 2)).eraseDups, 2 ^ k ≤ p ∧ p < 2 ^ (k + 1) := by
      intro p hp
      obtain ⟨x, hx, rfl⟩ := List.mem_map.1 (List.mem_eraseDups.1 hp)
      have := hlevel x hx
      rw [pow_succ, pow_succ] at this
      rw [pow_succ]
      omega
    obtain ⟨hc, hn, hout, hin⟩ := recompute_all (r := r) (is.map (· / 2)).eraseDups fun p hp q hq => by
      have h1 := hps p hp
      have h2 := hps q hq
      rw [pow_succ] at h1 h2
      omega
    refine ih _ hps fun i h1 hi hni => ?_
    have hkids : ∀ j, j = 2 * i ∨ j = 2 * i + 1 → j ∉ (is.map (· / 2)).eraseDups := fun j hj hm =>
      hni (List.mem_map.2 ⟨j, hm, by omega⟩)
    unfold combined
    rw [hc, hout _ (hkids _ (.inl rfl)), hout _ (hkids _ (.inr rfl))]
    by_cases him : i ∈ (is.map (· / 2)).eraseDups
    · exact hin i him
    · rw [hout i him]
      exact h i h1 (hn ▸ hi) (fun hm => him (List.mem_eraseDups.2 hm))

/-- A leaf takes its new value, or is marked. -/
def setLeaf (bad : Bool) (r : Region) (e : Nat × Word) : Region :=
  if bad then { r with badNodes := (r.n + e.1) :: r.badNodes.filter (· != r.n + e.1) }
  else { r with nodes := tset r.nodes (r.n + e.1) e.2, badNodes := r.badNodes.filter (· != r.n + e.1) }

theorem setLeaves (bad : Bool) (l : List (Nat × Word)) :
    (∀ a b, (l.foldl (setLeaf bad) r).combine a b = r.combine a b) ∧ (l.foldl (setLeaf bad) r).logn = r.logn ∧
    ∀ i, i ∉ l.map (fun e => r.n + e.1) → (l.foldl (setLeaf bad) r).node i = r.node i := by
  induction l generalizing r with
  | nil => simp
  | cons e l ih =>
    obtain ⟨hc, hn, hout⟩ := ih (r := setLeaf bad r e)
    have h1 : ∀ a b, (setLeaf bad r e).combine a b = r.combine a b := fun a b => by cases bad <;> rfl
    have h2 : (setLeaf bad r e).logn = r.logn := by cases bad <;> rfl
    have h3 : (setLeaf bad r e).n = r.n := congrArg (2 ^ ·) h2
    refine ⟨fun a b => (hc a b).trans (h1 a b), hn.trans h2, fun i hi => ?_⟩
    rw [List.map_cons, List.mem_cons, not_or] at hi
    rw [List.foldl_cons, hout i (by rw [h3]; exact hi.2)]
    cases bad with
    | true => rfl
    | false => simp [Region.node, setLeaf, tget_tset_other _ _ hi.1]

/-- The leaves that an update changes, with their new values (R78). -/
def changedLeaves (r : Region) (u : Update) : List (Nat × Word) :=
  (((List.range r.perLine).map (fun k => (u.line * r.perLine + k,
      leafNode r.ty (leNat ((u.bytes.drop (k * leafBytes r.ty)).take (leafBytes r.ty)))))).filter (fun e => decide (e.1 < r.n))).filter
    (fun e => u.bad || r.badNodes.contains (r.n + e.1) || r.node (r.n + e.1) != e.2.toNat)

/-- An update keeps every inner node the combination of its children. -/
theorem apply_combined (v : Update) (h : ∀ i, 1 ≤ i → i < r.n → combined r i) : ∀ i, 1 ≤ i → i < (r.apply v).n → combined (r.apply v) i := by
  obtain ⟨l, hl, ha⟩ : ∃ l : List (Nat × Word), (∀ e ∈ l, e.1 < r.n) ∧
      r.apply v = (l.foldl (setLeaf v.bad) r).climb r.logn (l.map (fun e => r.n + e.1)) :=
    ⟨changedLeaves r v, fun e he => by simpa using (List.mem_filter.1 (List.mem_filter.1 he).1).2, rfl⟩
  obtain ⟨hc, hn, hout⟩ := setLeaves (r := r) v.bad l
  rw [ha]
  refine climb_combined r.logn _ (fun x hx => ?_) fun i h1 hi hni => ?_
  · obtain ⟨e, he, rfl⟩ := List.mem_map.1 hx
    have := hl e he
    have hr : r.n = 2 ^ r.logn := rfl
    rw [pow_succ]
    omega
  · have hi' : i < r.n := by
      have : (l.foldl (setLeaf v.bad) r).n = r.n := congrArg (2 ^ ·) hn
      omega
    have hkids : ∀ j, j = 2 * i ∨ j = 2 * i + 1 → j ∉ l.map (fun e => r.n + e.1) := fun j hj hm =>
      hni (List.mem_map.2 ⟨j, hm, by omega⟩)
    have hself : i ∉ l.map (fun e => r.n + e.1) := fun hm => by
      obtain ⟨e, -, he⟩ := List.mem_map.1 hm
      omega
    unfold combined
    rw [hc, hout _ (hkids _ (.inl rfl)), hout _ (hkids _ (.inr rfl)), hout _ hself]
    exact h i h1 hi'

end

/-! ## Blocks of a range (R80) -/

section
variable {r : Region}

/-- The leaves of a run, summed. -/
def leafSum (r : Region) (p m : Nat) : Nat := ((List.range m).map (fun k => r.node (r.n + p + k))).sum

theorem leafSum_add (p a b : Nat) : leafSum r p (a + b) = leafSum r p a + leafSum r (p + a) b := by
  unfold leafSum
  rw [List.range_add, List.map_append, List.sum_append, List.map_map]
  refine congrArg _ (congrArg List.sum (List.map_congr_left fun k _ => ?_))
  simp [Nat.add_assoc]

/-- Every inner node is the sum of its children. -/
def sumTree (r : Region) : Prop := ∀ i, 1 ≤ i → i < r.n → r.node i = (r.node (2 * i) + r.node (2 * i + 1)) % 2 ^ 64

/-- A node is the sum of the leaves below it. -/
theorem node_block (h : sumTree r) (k p : Nat) (hk : k ≤ r.logn) (hp : 2 ^ k ∣ p) (hn : p + 2 ^ k ≤ r.n) :
    r.node ((r.n + p) / 2 ^ k) % 2 ^ 64 = leafSum r p (2 ^ k) % 2 ^ 64 := by
  induction k generalizing p with
  | zero => simp [leafSum]
  | succ k ih =>
    have hnk : 2 ^ (k + 1) ∣ r.n := pow_dvd_pow 2 hk
    obtain ⟨a, ha⟩ := hnk
    obtain ⟨b, hb⟩ := hp
    have hpow : 0 < 2 ^ k := Nat.two_pow_pos k
    rw [pow_succ] at ha hb hn
    have hi : (r.n + p) / 2 ^ (k + 1) = a + b := by
      rw [ha, hb, pow_succ, ← Nat.mul_add, Nat.mul_div_cancel_left _ (by positivity)]
    have hi1 : (r.n + p) / 2 ^ k = 2 * (a + b) := by
      rw [ha, hb, Nat.mul_assoc, Nat.mul_assoc, ← Nat.mul_add, Nat.mul_div_cancel_left _ hpow, Nat.mul_add]
    have hi2 : (r.n + (p + 2 ^ k)) / 2 ^ k = 2 * (a + b) + 1 := by
      rw [← Nat.add_assoc, Nat.add_div_right _ hpow, hi1]
    have h1 := ih p (by omega) ⟨2 * b, by rw [hb, Nat.mul_assoc]⟩ (by omega)
    have h2 := ih (p + 2 ^ k) (by omega) ⟨2 * b + 1, by rw [hb, Nat.mul_add, Nat.mul_assoc, Nat.mul_one]⟩ (by omega)
    rw [hi1] at h1
    rw [hi2] at h2
    have hapos : 1 ≤ a := by
      have : 0 < r.n := Nat.two_pow_pos _
      rcases Nat.eq_zero_or_pos a with rfl | h
      · omega
      · exact h
    have hlt : a + b < r.n := by
      have hba : b < a := Nat.lt_of_mul_lt_mul_left (a := 2 ^ k * 2) (by omega)
      have h2a : 2 * a ≤ r.n := by
        rw [ha, Nat.mul_assoc]
        exact Nat.le_mul_of_pos_left _ hpow
      omega
    have hsum := leafSum_add (r := r) p (2 ^ k) (2 ^ k)
    rw [← Nat.mul_two, ← pow_succ] at hsum
    rw [hi, h (a + b) (by omega) hlt, hsum]
    omega

/-- The block that starts at p: it is aligned, ends by hi, and none larger does. -/
theorem blockAt_spec (p hi : Nat) (hp : p < hi) (K : Nat) : 2 ^ blockAt p hi K ∣ p ∧ p + 2 ^ blockAt p hi K ≤ hi ∧ blockAt p hi K ≤ K ∧
    ∀ j, j ≤ K → blockAt p hi K < j → ¬(2 ^ j ∣ p ∧ p + 2 ^ j ≤ hi) := by
  induction K with
  | zero => exact ⟨by simp [blockAt], by simp [blockAt]; omega, le_refl _, fun j hj h => by omega⟩
  | succ K ih =>
    unfold blockAt
    split
    · next h =>
      simp only [Bool.and_eq_true, decide_eq_true_eq] at h
      exact ⟨Nat.dvd_of_mod_eq_zero h.1, h.2, le_refl _, fun j hj h => by omega⟩
    · next h =>
      obtain ⟨h1, h2, h3, h4⟩ := ih
      refine ⟨h1, h2, by omega, fun j hj hlt => ?_⟩
      rcases Nat.lt_or_ge K j with hk | hk
      · obtain rfl : j = K + 1 := by omega
        rintro ⟨hd, hle⟩
        exact h (by simpa using ⟨Nat.mod_eq_zero_of_dvd hd, hle⟩)
      · exact h4 j hk hlt

/-- The nodes of the blocks sum up to the leaves of the range. -/
def covers (r : Region) (hi fuel p : Nat) : Prop :=
  ((r.blocks hi fuel p).map r.node).sum % 2 ^ 64 = leafSum r p (hi - p) % 2 ^ 64

theorem covers_done {hi p : Nat} (fuel : Nat) (h : hi ≤ p) : covers r hi fuel p := by
  have hb : r.blocks hi fuel p = [] := by
    cases fuel with
    | zero => rfl
    | succ n => exact if_pos h
  unfold covers
  rw [hb, Nat.sub_eq_zero_of_le h]
  rfl

/-- The first block, and the rest of the range. -/
theorem covers_step (ht : sumTree r) {hi p fuel : Nat} (hp : p < hi) (hn : hi ≤ r.n)
    (h : covers r hi fuel (p + 2 ^ blockAt p hi r.logn)) : covers r hi (fuel + 1) p := by
  obtain ⟨h1, h2, h3, -⟩ := blockAt_spec p hi hp r.logn
  have hnode := node_block ht (blockAt p hi r.logn) p h3 h1 (by omega)
  have hb : r.blocks hi (fuel + 1) p = ((r.n + p) / 2 ^ blockAt p hi r.logn) :: r.blocks hi fuel (p + 2 ^ blockAt p hi r.logn) :=
    if_neg (by omega)
  have hsum := leafSum_add (r := r) p (2 ^ blockAt p hi r.logn) (hi - (p + 2 ^ blockAt p hi r.logn))
  rw [show 2 ^ blockAt p hi r.logn + (hi - (p + 2 ^ blockAt p hi r.logn)) = hi - p by omega] at hsum
  unfold covers at h ⊢
  rw [hb, List.map_cons, List.sum_cons, hsum]
  omega

/-- From an aligned place whose rest is smaller than its alignment, blocks get smaller. -/
theorem covers_falling (ht : sumTree r) {hi : Nat} (hn : hi ≤ r.n) (k : Nat) {p fuel : Nat} (hd : 2 ^ k ∣ p) (hlt : hi < p + 2 ^ k)
    (hle : p ≤ hi) (hk : k ≤ r.logn) (hf : k ≤ fuel) : covers r hi fuel p := by
  induction k using Nat.strong_induction_on generalizing p fuel with
  | _ k ih =>
    rcases Nat.lt_or_ge p hi with hp | hp
    · obtain ⟨h1, h2, h3, h4⟩ := blockAt_spec p hi hp r.logn
      have hbk : blockAt p hi r.logn < k := by
        by_contra hge
        have := Nat.pow_le_pow_right (n := 2) (by decide) (not_lt.1 hge)
        omega
      obtain ⟨f, rfl⟩ : ∃ f, fuel = f + 1 := ⟨fuel - 1, by omega⟩
      refine covers_step ht hp hn (ih _ hbk (Nat.dvd_add h1 (dvd_refl _)) ?_ h2 h3 (by omega))
      have hnext := h4 (blockAt p hi r.logn + 1) (by omega) (Nat.lt_succ_self _)
      have hd' : 2 ^ (blockAt p hi r.logn + 1) ∣ p := (pow_dvd_pow 2 hbk).trans hd
      have : ¬p + 2 ^ (blockAt p hi r.logn + 1) ≤ hi := fun h => hnext ⟨hd', h⟩
      rw [pow_succ] at this
      omega
    · exact covers_done fuel hp

theorem aligned_next {b p : Nat} (h : 2 ^ b ∣ p) (hd : ¬2 ^ (b + 1) ∣ p) : 2 ^ (b + 1) ∣ p + 2 ^ b := by
  obtain ⟨q, rfl⟩ := h
  have hodd : q % 2 = 1 := by
    by_contra hne
    exact hd ⟨q / 2, by rw [pow_succ, Nat.mul_assoc, Nat.mul_div_cancel' (by omega)]⟩
  exact ⟨(q + 1) / 2, by rw [pow_succ, Nat.mul_assoc, Nat.mul_div_cancel' (by omega), Nat.mul_add, Nat.mul_one]⟩

/-- From any place blocks grow with the alignment until the rest is smaller. -/
theorem covers_rising (ht : sumTree r) {hi : Nat} (hn : hi ≤ r.n) (m : Nat) {j p fuel : Nat} (hm : j + m = r.logn) (hd : 2 ^ j ∣ p)
    (hle : p ≤ hi) (hf : m + r.logn + 2 ≤ fuel) : covers r hi fuel p := by
  induction m using Nat.strong_induction_on generalizing j p fuel with
  | _ m ih =>
    rcases Nat.lt_or_ge p hi with hp | hp
    · obtain ⟨h1, h2, h3, h4⟩ := blockAt_spec p hi hp r.logn
      obtain ⟨f, rfl⟩ : ∃ f, fuel = f + 1 := ⟨fuel - 1, by omega⟩
      refine covers_step ht hp hn ?_
      by_cases hlast : blockAt p hi r.logn = r.logn
      · rw [hlast] at h2 ⊢
        have : r.n = 2 ^ r.logn := rfl
        exact covers_done f (by omega)
      · have hnext := h4 (blockAt p hi r.logn + 1) (by omega) (Nat.lt_succ_self _)
        by_cases hd' : 2 ^ (blockAt p hi r.logn + 1) ∣ p
        · have hover : ¬p + 2 ^ (blockAt p hi r.logn + 1) ≤ hi := fun h => hnext ⟨hd', h⟩
          rw [pow_succ] at hover
          exact covers_falling ht hn _ (Nat.dvd_add h1 (dvd_refl _)) (by omega) h2 h3 (by omega)
        · have hge : j ≤ blockAt p hi r.logn := by
            by_contra hlt
            exact hd' ((pow_dvd_pow 2 (by omega)).trans hd)
          have hup := aligned_next h1 hd'
          exact ih (r.logn - (blockAt p hi r.logn + 1)) (by omega) (by omega) hup h2 (by omega)
    · exact covers_done fuel hp

/-! ## Range queries over integer sums (R80) -/

theorem combine_sum (ha : r.agg = 0) (ht : r.ty ≤ 1) (a b : Nat) : (r.combine a b).1 = BitVec.ofNat 64 (a + b) := by
  have hf : r.isFloat = false := by simp [Region.isFloat]; omega
  unfold Region.combine
  rw [hf, if_neg Bool.false_ne_true, ha]
  change ofInt (signExt a 64 + signExt b 64) = _
  rw [ofInt_eq, signExt_eq_toInt, signExt_eq_toInt, BitVec.ofInt_add, BitVec.ofInt_toInt, BitVec.ofInt_toInt, BitVec.ofNat_add]

theorem fold_sum (ha : r.agg = 0) (ht : r.ty ≤ 1) (l : List Nat) (a : Word) :
    (l.foldl (fun a i => (r.combine a.toNat (r.node i)).1) a).toNat = (a.toNat + (l.map r.node).sum) % 2 ^ 64 := by
  induction l generalizing a with
  | nil => simp [Nat.mod_eq_of_lt a.isLt]
  | cons i l ih =>
    rw [List.foldl_cons, ih, combine_sum ha ht, BitVec.toNat_ofNat, List.map_cons, List.sum_cons]
    omega

theorem range_sum (ha : r.agg = 0) (hty : r.ty ≤ 1) (ht : sumTree r) {lo hi : Nat} (hlt : lo < hi) (hn : hi ≤ r.n) :
    (r.range lo hi).p = true ∧ (r.range lo hi).d.toNat = leafSum r lo (hi - lo) % 2 ^ 64 := by
  have hc : covers r hi (2 * r.logn + 2) lo := covers_rising ht hn r.logn (j := 0) (by omega) (one_dvd _) (le_of_lt hlt) (by omega)
  have hb : r.blocks hi (2 * r.logn + 2) lo = ((r.n + lo) / 2 ^ blockAt lo hi r.logn) ::
      r.blocks hi (2 * r.logn + 1) (lo + 2 ^ blockAt lo hi r.logn) := if_neg (by omega)
  unfold covers at hc
  rw [hb, List.map_cons, List.sum_cons] at hc
  unfold Region.range
  rw [if_neg (by omega), hb]
  refine ⟨rfl, ?_⟩
  dsimp only
  rw [fold_sum ha hty, ← hc, ofN, BitVec.toNat_ofNat]
  omega

end

/-- Settles O30: blocks cover the range, and every update climbs to the root. -/
theorem aggregateTreeAndQueries : Obligations.AggregateTreeAndQueries := by
  refine ⟨fun r lo hi => ⟨fun ha hty ht hlt hn => range_sum ha hty ht hlt hn, fun h => ?_⟩, fun r v h => apply_combined v h⟩
  unfold Region.range
  rw [if_pos h]
  exact ⟨rfl, rfl⟩

end Sys2Proof.Proofs
end


section
/-! PROOFS. Aggregate instructions issue. -/
namespace Sys2Proof.Proofs
open Sys2Proof.Machine Sys2Proof.Safety Sys2Proof.Laws

section
variable {s s0 s1 s2 : State} {c : Ctl} {o : F3} {u : Cur} {t g : Nat} {ph : Phys}

/-- The operation of an aggregate instruction. -/
def aggOpen (s : State) (i : Instr) (c : Ctl) (u : Cur) (t : Nat) (k : AggOp) (d : Opnd) (pd : Nat) : State :=
  withOp (start s i c u) { plainOp (start s i c u) i u t (.agg k) d [] with
    dst := ((start s i c u).dst u.wg t d).toList ++ (if pd = 15 then [] else [.p pd [t]]) }

/-- The request that it sends to the home of its slot. -/
def aggSent (s : State) (u : Cur) (op slot : Nat) : Nat × State :=
  s.send { src := .core u.core, dst := s.homeOfSlot (s.partOf u.wg) slot, part := s.partOf u.wg, kind := .query slot,
           ph := { pa := 0 }, n := 0, va := 0, op := some op, launch := (s.wg u.wg).map (·.launch) }

/-- An aggregate instruction sends its request and waits, or opens its operation and goes on. -/
theorem aggThrough_alone {i : Instr} {d : Opnd} {pd : Nat} {named : Bool} {a : State → Ctx → AggOp} {k : AggOp} (h : Alone s i c u t)
    (hcls : Instr.cls i = some .ag) (hk : a (start s i c u) (ctx i c u t) = k) :
    aggThrough c i d pd named a s = .next (ended s i c u t
      (if named then .wait (((aggSent (aggOpen s i c u t k d pd) u s.nextId (k.handle % 2 ^ 12)).2.setPieces s.nextId
          [{ va := 0, n := 0, loc := .net (aggSent (aggOpen s i c u t k d pd) u s.nextId (k.handle % 2 ^ 12)).1 }]).holdFor
            (ctx i c u t) s.nextId)
        else .adv (aggOpen s i c u t k d pd))) := by
  have ho : (start s i c u).openAgg (ctx i c u t) k d pd = (s.nextId, aggOpen s i c u t k d pd) := by
    unfold State.openAgg State.newOp aggOpen plainOp opOf dstsOf
    rw [hcls]
    exact Prod.ext (start_nextId ..) rfl
  have hb : bits k.handle 11 0 = k.handle % 2 ^ 12 := bits_low _ 11
  unfold aggThrough
  rw [isa_alone h, hk, ho, hb]
  rfl

/-! ## agg.decl (R67, R68) -/

/-- The checks of a declaration, as its thread makes them. -/
def declLooks (s : State) (c : Ctl) (o : F3) (u : Cur) (t : Nat) (bs : List Byte) : Except (Nat × Nat) (Region × Option Binding) × State :=
  (ctx (.aggDecl c o) c u t).asks s (fun s => declChecks s u.wg (leNat bs))

/-- A declaration that has passed its checks. -/
def declared (s : State) (c : Ctl) (o : F3) (u : Cur) (t g : Nat) (ph : Phys) (r : Region) (b : Option Binding) : State :=
  let part := s.partOf u.wg
  let slot := tfree (s.part part).regions
  let s3 := withOp s (plainOp s (.aggDecl c o) u t (.agg (.decl slot)) o.d [])
  (s3.readAhead (ctx (.aggDecl c o) c u t) g ph).modPart part (fun q => { q with
    regions := tset q.regions slot { r with updates := s3.buildUpdates r, build := some s.nextId }
    bindings := match b with
      | some b => q.bindings ++ [{ b with region := some slot }]
      | none => q.bindings })

/-- What a declaration does once its descriptor's page is known. -/
def declares (c : Ctl) (o : F3) (u : Cur) (t g : Nat) (ph : Phys) : Except (Nat × Nat) (List Byte) × State → Act
  | (.error (0, _), s) => .wait s
  | (.error (f, a), s) => .trap f (g + a) none s
  | (.ok bs, s) => match declLooks s c o u t bs with
    | (.error (0, _), s) => .wait (s.parkHost u.wg [t])
    | (.error (f, a), s) => .trap f a none s
    | (.ok (r, b), s) => .adv (declared s c o u t g ph r b)

theorem aggDecl_alone (h : Alone s (.aggDecl c o) c u t)
    (hl : check (start s (.aggDecl c o) c u) u.wg [t] (s.src u.wg t o.a).toNat 32 32 .load Aper.g false = (.glob g ph, s0)) 
    {r : Except (Nat × Nat) (List Byte) × State} (hr : readThroughL1 s0 (ctx (.aggDecl c o) c u t) g 32 ph = r) :
    exec (.aggDecl c o) s = .next (ended s (.aggDecl c o) c u t ((declares c o u t g ph r).after (.thread u.wg t))) := by
  have ho : ∀ s : State, s.openAgg (ctx (.aggDecl c o) c u t) (.decl (tfree (s.part (s.partOf u.wg)).regions)) o.d 15 =
      (s.nextId, withOp s (plainOp s (.aggDecl c o) u t (.agg (.decl (tfree (s.part (s.partOf u.wg)).regions))) o.d [])) := by
    intro s
    unfold State.openAgg State.newOp dstsOf plainOp opOf
    rw [if_pos rfl, List.append_nil]
    rfl
  rw [exec_aggDecl, execAggDecl, isa_alone h]
  refine congrArg (fun a : Act => Host.Outcome.next (ended s (.aggDecl c o) c u t (a.after (.thread u.wg t)))) ?_
  simp only [ctx_w, ctx_t, ctx_ts, start_src, hl, hr]
  obtain ⟨(⟨_ | f, a⟩ | bs), s1⟩ := r
  · rfl
  · rfl
  · unfold declares
    dsimp only
    have hk : (ctx (.aggDecl c o) c u t).asks s1 (fun s => declChecks s u.wg (leNat bs)) = declLooks s1 c o u t bs := rfl
    rw [hk]
    generalize declLooks s1 c o u t bs = r
    obtain ⟨(⟨_ | f, a⟩ | ⟨r, b⟩), s2⟩ := r
    · rfl
    · rfl
    · dsimp only
      rw [ho]
      rfl

end

/-- Settles O29: each instruction by the one equation that says what it issues. -/
theorem aggregateInstructionsIssue : Obligations.AggregateInstructionsIssue := by
  intro c o s u t g j f ph bs s0 s1 s2 d looked read left a st opened holds looks
  refine ⟨fun r b h hr hl => ?_, fun va h hr hl hf => ?_, fun va h hr hl => ?_, fun h hk hr hf => ?_, fun h hk hr => aggDecl_alone h hk hr,
    fun h => ?_, fun h => ?_, fun h => ?_, fun h => ?_, fun h hn => ?_, fun h hz => ?_⟩
  · refine (aggDecl_alone h hr.1 hr.2).trans ?_
    rw [declares, show declLooks s1 c o u t bs = _ from hl]
    rfl
  · refine (aggDecl_alone h hr.1 hr.2).trans ?_
    obtain ⟨f, rfl⟩ := Nat.exists_eq_succ_of_ne_zero hf
    rw [declares, show declLooks s1 c o u t bs = _ from hl]
    rfl
  · refine (aggDecl_alone h hr.1 hr.2).trans ?_
    rw [declares, show declLooks s1 c o u t bs = _ from hl]
    rfl
  · obtain ⟨f, rfl⟩ := Nat.exists_eq_succ_of_ne_zero hf
    exact aggDecl_alone h hk hr
  · exact aggThrough_alone (k := .free a) h rfl (by rw [ctx_w, ctx_t, start_src])
  · exact aggThrough_alone (k := .range a (s.src u.wg t o.b).toNat (s.src u.wg t o.c).toNat) h rfl
      (by rw [ctx_w, ctx_t, start_src, start_src, start_src])
  · exact aggThrough_alone (k := .pfx a (s.src u.wg t o.b).toNat) h rfl (by rw [ctx_w, ctx_t, start_src, start_src])
  · exact aggThrough_alone (k := .pick a none) h rfl (by rw [ctx_w, ctx_t, start_src])
  · refine (aggThrough_alone (k := .sync (some a)) h rfl (by rw [ctx_w, ctx_t, start_src, if_neg hn])).trans ?_
    rw [if_pos (bne_iff_ne.2 hn)]
    rfl
  · refine (aggThrough_alone (k := .sync none) h rfl (by rw [if_pos hz])).trans ?_
    rw [hz]
    rfl

end Sys2Proof.Proofs
end


section
/-! PROOFS. Comb cells: instructions, definition and state word. -/
namespace Sys2Proof.Proofs
open Sys2Proof.Machine Sys2Proof.Safety Sys2Proof.Laws

/-! ## The state word (R111) -/

section
variable {y : Cell}

/-- The code of a cell's state in its word. -/
def stateCode (y : Cell) : Nat :=
  match y.st with
  | .free => 0
  | .defined => 1
  | .draining => 2

theorem word_toNat (hg : y.gen < 2 ^ 16) (he : y.ew < 2 ^ 4) (hr : y.rows < 2 ^ 8) (hc : y.cols < 2 ^ 8) :
    y.word.toNat = y.gen * 2 ^ 48 + stateCode y * 2 ^ 46 + y.ew * 2 ^ 42 + y.rows * 2 ^ 34 + y.cols * 2 ^ 26 +
      min 255 y.definers.length * 2 ^ 8 + min 255 y.readers.length := by
  have hs : stateCode y ≤ 2 := by unfold stateCode; split <;> decide
  unfold Cell.word ofN
  rw [BitVec.toNat_ofNat]
  change (y.gen * 2 ^ 48 + stateCode y * 2 ^ 46 + y.ew * 2 ^ 42 + y.rows * 2 ^ 34 + y.cols * 2 ^ 26 +
      min 255 y.definers.length * 2 ^ 8 + min 255 y.readers.length) % 2 ^ 64 = _
  exact Nat.mod_eq_of_lt (by omega)

theorem word_fields (hg : y.gen < 2 ^ 16) (he : y.ew < 2 ^ 4) (hr : y.rows < 2 ^ 8) (hc : y.cols < 2 ^ 8) :
    y.word.toNat / 2 ^ 48 = y.gen ∧ y.word.toNat / 2 ^ 46 % 4 = stateCode y ∧
    y.word.toNat / 2 ^ 42 % 16 = y.ew ∧ y.word.toNat / 2 ^ 34 % 2 ^ 8 = y.rows ∧ y.word.toNat / 2 ^ 26 % 2 ^ 8 = y.cols ∧
    y.word.toNat / 2 ^ 8 % 2 ^ 8 = min 255 y.definers.length ∧ y.word.toNat % 2 ^ 8 = min 255 y.readers.length := by
  have hs : stateCode y ≤ 2 := by unfold stateCode; split <;> decide
  have h1 : min 255 y.definers.length ≤ 255 := Nat.min_le_left ..
  have h2 : min 255 y.readers.length ≤ 255 := Nat.min_le_left ..
  rw [word_toNat hg he hr hc]
  generalize min 255 y.definers.length = a at *
  generalize min 255 y.readers.length = b at *
  generalize stateCode y = k at *
  refine ⟨?_, ?_, ?_, ?_, ?_, ?_, ?_⟩ <;> omega

end

/-! ## Definition and copies (R106, R107) -/

section
variable {s : State} {d c : Nat}

@[simp] theorem cell_modCell (f : Cell → Cell) : (s.modCell d c f).cell d c = f (s.cell d c) := by
  simp [State.modCell, State.cell]

theorem writeBack_dirs (l : L2Line) : (s.writeBack l).dirs = s.dirs := by
  unfold State.writeBack
  split
  · rfl
  · split <;> rfl

theorem l2Trim_dirs : s.l2Trim.dirs = s.dirs :=
  foldl_keeps State.dirs (fun s l => writeBack_dirs (s := s) l) _ s

theorem l2Trim_cell (e b : Nat) : s.l2Trim.cell e b = s.cell e b := by
  unfold State.cell State.dir
  rw [l2Trim_dirs]

/-- What a definition makes of its cell. -/
def definedCell (w shape id pl : Nat) (y : Cell) : Cell :=
  { y with
    st := .defined, gen := (y.gen + 1) % 2 ^ 16, ew := shape / 2 ^ 16, rows := shape / 2 ^ 8 % 2 ^ 8, cols := shape % 2 ^ 8,
    value := [], pend := some id, definer := w, copies := [], readers := [], place := pl, bad := false }

theorem define_none {w shape id : Nat} (h : s.findPlace d (shapeBytes shape) 0 = none) : s.define d c w shape id = none := by
  unfold State.define
  rw [h]

theorem define_some {w shape id pl : Nat} (h : s.findPlace d (shapeBytes shape) 0 = some pl) (hs : shape < 2 ^ 18) :
    ∃ s', s.define d c w shape id = some ((s.cell d c).readers.foldl (fun s r => s.startCopy d c r true) s') ∧
      s'.cell d c = definedCell w shape id pl (s.cell d c) := by
  have hew : bits shape 17 16 = shape / 2 ^ 16 := by rw [bits_eq]; omega
  have hrows : shapeRows shape = shape / 2 ^ 8 % 2 ^ 8 := bits_eq ..
  have hcols : shapeCols shape = shape % 2 ^ 8 := bits_low _ 7
  refine ⟨(s.modCell d c (definedCell w shape id pl)).l2Trim, ?_, by rw [l2Trim_cell, cell_modCell]⟩
  unfold State.define
  rw [h]
  dsimp only
  rw [hew, hrows, hcols]
  rfl

/-- A copy begins. -/
theorem startCopy_reads {x : CombWait} {k : Nat} (hx : x.op = .combRd d c k) :
    s.startCopy d c x true = ((s.openTile x.wg x.tid x.pc x.op).2.modCell d c
      (fun y => { y with copies := y.copies ++ [s.nextId] })).release x.wg x.tid := by
  unfold State.startCopy State.startCopy.begin_
  simp only [hx]
  rfl

theorem startCopy_spec {x : CombWait} {k : Nat} (hx : x.op = .combRd d c k) :
    let t := s.startCopy d c x true
    (t.cell d c).copies = (s.cell d c).copies ++ [s.nextId] ∧
    (∃ o, tget t.ops s.nextId = some o ∧ o.kind = .tile x.op ∧ o.wg = x.wg ∧ o.tid = x.tid) ∧
    ∀ th, s.thread x.wg x.tid = some th → t.thread x.wg x.tid = some { th.advance with hold := none, st := .run, readyAt := s.now } := by
  intro t
  have ht : t = _ := startCopy_reads hx
  rw [ht]
  refine ⟨?_, ?_, fun th hth => ?_⟩
  · exact congrArg Cell.copies (cell_modCell (s := (s.openTile x.wg x.tid x.pc x.op).2) (d := d) (c := c)
      (fun y => { y with copies := y.copies ++ [s.nextId] }))
  · exact ⟨_, tget_tset_same .., rfl, rfl, rfl⟩
  · have h1 : (s.openTile x.wg x.tid x.pc x.op).2.thread x.wg x.tid = some th :=
      (State.thread_modWg_keep _ x.wg x.wg x.tid (fun g => { g with mq := g.mq ++ [s.nextId] }) fun _ => rfl).trans hth
    rw [State.release, State.thread_modThread_same]
    exact congrArg (Option.map _) h1

end

/-! ## Comb instructions (R315, R316) -/

section
variable {s s1 s2 : State} {i : Instr} {c : Ctl} {o : FX} {u : Cur} {t d : Nat} {g : Workgroup}

/-- The cell that an instruction names. -/
def cellNo (s : State) (o : FX) (u : Cur) (t : Nat) : Nat :=
  if o.xsub.toNat.testBit 0 then (s.src u.wg t o.b).toNat % 2 ^ 12 else o.num.toNat

theorem member_start (w : Nat) : (start s i c u).member w = s.member w := by simp [State.member]

theorem member_some (hg : s.wg u.wg = some g) (hl : g.leaving = false) (hd : g.group = some d) : s.member u.wg = some d := by
  simp [State.member, hg, hl, hd]

theorem member_none (hg : s.wg u.wg = some g) (h : g.leaving = true ∨ g.group = none) : s.member u.wg = none := by
  rcases h with h | h <;> simp [State.member, hg, h]

theorem onCell_member {f : State → Ctx → Nat → Nat → Act} (hm : s.member u.wg = some d) :
    onCell o f (start s i c u) (ctx i c u t) = f (start s i c u) (ctx i c u t) d (cellNo s o u t) := by
  have hc : cellOf (start s i c u) (ctx i c u t) o = cellNo s o u t := by
    unfold cellOf cellNo
    rw [show bits ((start s i c u).src (ctx i c u t).w (ctx i c u t).t o.b).toNat 11 0 = _ from bits_low _ 11, ctx_w, ctx_t, start_src]
    rfl
  unfold onCell
  rw [ctx_w, member_start, hm]
  dsimp only
  rw [hc]

theorem onCell_stranger {f : State → Ctx → Nat → Nat → Act} (hm : s.member u.wg = none) :
    onCell o f (start s i c u) (ctx i c u t) = .trap 0x60 0 none (start s i c u) := by
  unfold onCell
  rw [ctx_w, member_start, hm]

/-- An instruction that goes on. -/
theorem goes_alone {act : State → Ctx → Act} (h : Alone s i c u t) (hx : exec i s = isa i c act s)
    (ha : act (start s i c u) (ctx i c u t) = .adv s1) : exec i s = .next (goOn s1 u.wg t c) := hx.trans (isa_alone_adv h ha)

/-- An instruction that waits. -/
theorem waits_alone {act : State → Ctx → Act} (h : Alone s i c u t) (hx : exec i s = isa i c act s)
    (ha : act (start s i c u) (ctx i c u t) = .wait s1) : exec i s = .next s1 := hx.trans (isa_alone_wait h ha)

/-- An instruction that faults. -/
theorem traps_alone {act : State → Ctx → Act} {f a : Nat} (h : Alone s i c u t) (hx : exec i s = isa i c act s)
    (ha : act (start s i c u) (ctx i c u t) = .trap f a none s1) (hf : lateCode f = false) :
    exec i s = .next (traps s1 u t f a) := by
  rw [hx, isa_alone_fault h ha, faulted, hf]
  rfl

section
variable {x : Ctx} {k : TileOp} {shape n : Nat}

theorem defineThrough_bad (hst : (s1.cell d n).st = .free) (hb : s1.defBad x.w shape k = true) :
    defineThrough s1 x d n k shape = .trap 0xE3 0 none s1 := by
  unfold defineThrough
  rw [hst]
  exact if_pos hb

theorem defineThrough_done (hst : (s1.cell d n).st = .free) (hb : s1.defBad x.w shape k = false)
    (hd : (s1.openDef x.w x.t x.pc shape k none).2.define d n x.w shape (s1.openDef x.w x.t x.pc shape k none).1 = some s2) :
    defineThrough s1 x d n k shape = .adv s2 := by
  unfold defineThrough
  rw [hst]
  dsimp only
  rw [if_neg (by simp [hb]), hd]

theorem defineThrough_full (hst : (s1.cell d n).st = .free) (hb : s1.defBad x.w shape k = false)
    (hd : (s1.openDef x.w x.t x.pc shape k none).2.define d n x.w shape (s1.openDef x.w x.t x.pc shape k none).1 = none) :
    defineThrough s1 x d n k shape = .trap 0x66 0 none s1 := by
  unfold defineThrough
  rw [hst]
  dsimp only
  rw [if_neg (by simp [hb]), hd]

theorem defineThrough_defined (hst : (s1.cell d n).st = .defined) : defineThrough s1 x d n k shape = .trap 0x61 0 none s1 := by
  unfold defineThrough
  rw [hst]

theorem defineThrough_draining (hst : (s1.cell d n).st = .draining) :
    defineThrough s1 x d n k shape = .wait (s1.parkCell x d n false k shape none) := by
  unfold defineThrough
  rw [hst]

/-- A read of a cell that is not defined parks. -/
theorem readThrough_parks (hst : (s1.cell d n).st ≠ .defined) : readThrough s1 x d n k = .wait (s1.parkCell x d n true k 0 none) := by
  unfold readThrough
  split
  · next h => exact absurd h hst
  · rfl

end

/-- comb.def of a tile whose shape stands. -/
theorem combDef_act {shape : Nat} (hm : s.member u.wg = some d) (hg : s.wg u.wg = some g) (hs : g.shape o.mt.val = shape)
    (hk : s.shapePending u.wg o.mt.val = false) :
    onCell o (fun s x d n =>
      let k := o.mt.val
      let shape := ((s.wg x.w).map (fun g => g.shape k)).getD 0
      if s.shapePending x.w k then .wait s
      else if !shapeOk shape then .trap 0x65 0 none s
      else defineThrough s x d n (.combDef d n k []) shape) (start s i c u) (ctx i c u t) =
    if !shapeOk shape then .trap 0x65 0 none (start s i c u)
    else defineThrough (start s i c u) (ctx i c u t) d (cellNo s o u t) (.combDef d (cellNo s o u t) o.mt.val []) shape := by
  rw [onCell_member hm]
  simp only [ctx_w, start_shapePending, hk, start_wg, hg, Option.map_some, Option.getD_some, hs, Bool.false_eq_true, if_false]

/-- comb.defs of a source that passes its check. -/
theorem combDefs_act {shape w off : Nat} (hm : s.member u.wg = some d) (hg : s.wg u.wg = some g) (hs : g.shape o.mt.val = shape)
    (hk : s.shapePending u.wg o.mt.val = false)
    (hc : check (start s i c u) u.wg [t] (s.src u.wg t o.a).toNat (max 1 (shapeBytes shape)) 8 .load Aper.s false = (.scratch w off, s1)) :
    onCell o (fun s x d n =>
      let shape := ((s.wg x.w).map (fun g => g.shape o.mt.val)).getD 0
      if s.shapePending x.w o.mt.val then .wait s
      else match check s x.w x.ts (s.src x.w x.t o.a).toNat (max 1 (shapeBytes shape)) 8 .load Aper.s false with
        | (.scratch _ off, s) =>
          if !shapeOk shape then .trap 0x65 0 none s else defineThrough s x d n (.combDefs d n off shape []) shape
        | (.fail f a, s) => .trap f a none s
        | (_, s) => .wait s) (start s i c u) (ctx i c u t) =
    if !shapeOk shape then .trap 0x65 0 none s1
    else defineThrough s1 (ctx i c u t) d (cellNo s o u t) (.combDefs d (cellNo s o u t) off shape []) shape := by
  rw [onCell_member hm]
  simp only [ctx_w, ctx_t, ctx_ts, start_shapePending, hk, start_wg, hg, Option.map_some, Option.getD_some, hs, Bool.false_eq_true,
    if_false, start_src, hc]

end

/-- Settles O32: the instructions by their branches, the cell by the definitions of its operations. -/
theorem combCellsAndDefinition : Obligations.CombCellsAndDefinition := by
  refine ⟨?_, fun s d c w shape id => ⟨define_none, fun pl hp hs => define_some hp hs, fun x k hx => startCopy_spec hx, word_fields⟩⟩
  intro c o s u t d off w g s1 s2 cell st def_ defs rd rds kill member shape y faults known src dst defines
  have hmem : member → s.member u.wg = some d := fun ⟨hg, hl, hd⟩ => member_some hg hl hd
  have hdef := fun (hm : member) (hk : known) (hs : shapeOk shape = true) =>
    (combDef_act (i := def_) (c := c) (t := t) (hmem hm) hm.1 rfl hk).trans (if_neg (by simp [show shapeOk (g.shape o.mt.val) = true from hs]))
  have hdefs := fun (hm : member) (hk : known) (hc : src) (hs : shapeOk shape = true) =>
    (combDefs_act (i := defs) (c := c) (t := t) (hmem hm) hm.1 rfl hk hc).trans
      (if_neg (by simp [show shapeOk (g.shape o.mt.val) = true from hs]))
  have hcell : ∀ i n, (st i).cell d n = s.cell d n := fun i n => start_cell ..
  refine ⟨fun i hi h hg hno => ?_, fun h hm hk hs => ?_, fun h hm hk hs hst => ⟨fun hb => ?_, fun hb => ⟨fun hd => ?_, fun hd => ?_⟩⟩,
    fun h hm hk hs hst => ?_, fun h hm hk hs hst => ?_, fun h hm hk hc hs hst => ⟨fun hb => ?_, fun hb => ⟨fun hd => ?_, fun hd => ?_⟩⟩,
    fun h hm hst => ?_, fun h hm hst => ?_, fun h hm hc hst hf => ?_, fun h hm hc hst hf => ?_, fun h hm hst => ?_,
    fun h hm hst => ?_, fun h hm hst => ?_, fun h hm => ?_⟩
  · have hn := member_none hg hno
    simp only [List.mem_cons, List.not_mem_nil, or_false] at hi
    rcases hi with rfl | rfl | rfl | rfl | rfl | rfl | rfl | rfl
    · exact traps_alone h rfl (onCell_stranger hn) rfl
    · exact traps_alone h rfl (onCell_stranger hn) rfl
    · exact traps_alone h rfl (onCell_stranger hn) rfl
    · exact traps_alone h rfl (onCell_stranger hn) rfl
    · exact traps_alone h rfl (onCell_stranger hn) rfl
    · exact traps_alone h rfl (onCell_stranger hn) rfl
    · refine traps_alone h rfl ?_ rfl
      rw [ctx_w, member_start, hn]
    · refine traps_alone h rfl ?_ rfl
      rw [ctx_w, member_start, hn]
  · exact traps_alone h rfl ((combDef_act (hmem hm) hm.1 rfl hk).trans (if_pos (by simp [show shapeOk (g.shape o.mt.val) = false from hs]))) rfl
  · exact traps_alone h rfl ((hdef hm hk hs).trans (defineThrough_bad hst hb)) rfl
  · exact goes_alone h rfl ((hdef hm hk hs).trans (defineThrough_done hst hb hd))
  · exact traps_alone h rfl ((hdef hm hk hs).trans (defineThrough_full hst hb hd)) rfl
  · exact traps_alone h rfl ((hdef hm hk hs).trans (defineThrough_defined ((congrArg _ (hcell ..)).trans hst))) rfl
  · exact waits_alone h rfl ((hdef hm hk hs).trans (defineThrough_draining ((congrArg _ (hcell ..)).trans hst)))
  · exact traps_alone h rfl ((hdefs hm hk hc hs).trans (defineThrough_bad hst hb)) rfl
  · exact goes_alone h rfl ((hdefs hm hk hc hs).trans (defineThrough_done hst hb hd))
  · exact traps_alone h rfl ((hdefs hm hk hc hs).trans (defineThrough_full hst hb hd)) rfl
  · refine goes_alone h rfl ((onCell_member (hmem hm)).trans ?_)
    unfold readThrough
    rw [show ((start s rd c u).cell d (cellNo s o u t)).st = .defined from (congrArg _ (hcell ..)).trans hst]
    rfl
  · exact waits_alone h rfl ((onCell_member (hmem hm)).trans (readThrough_parks fun h => hst ((congrArg _ (hcell ..)).symm.trans h)))
  · refine goes_alone h rfl ((onCell_member (hmem hm)).trans ?_)
    have hc' : check (start s rds c u) u.wg [t] (s.src u.wg t o.a).toNat 1 8 .store Aper.s false = (.scratch w off, s1) := hc
    simp only [ctx_w, ctx_t, ctx_ts, start_src, hc']
    unfold readThrough
    rw [show (s1.cell d (cellNo s o u t)).st = .defined from hst]
    exact if_neg (by simp [show s1.rdsFails u.wg off (s1.cell d (cellNo s o u t)).size = false from hf])
  · refine traps_alone h rfl ((onCell_member (hmem hm)).trans ?_) rfl
    have hc' : check (start s rds c u) u.wg [t] (s.src u.wg t o.a).toNat 1 8 .store Aper.s false = (.scratch w off, s1) := hc
    simp only [ctx_w, ctx_t, ctx_ts, start_src, hc']
    unfold readThrough
    rw [show (s1.cell d (cellNo s o u t)).st = .defined from hst]
    exact if_pos hf
  · refine goes_alone h rfl ((onCell_member (hmem hm)).trans ?_)
    rw [show ((start s kill c u).cell d (cellNo s o u t)).st = .defined from (congrArg _ (hcell ..)).trans hst]
    rfl
  · refine traps_alone h rfl ((onCell_member (hmem hm)).trans ?_) rfl
    rw [show ((start s kill c u).cell d (cellNo s o u t)).st = .free from (congrArg _ (hcell ..)).trans hst]
  · refine traps_alone h rfl ((onCell_member (hmem hm)).trans ?_) rfl
    rw [show ((start s kill c u).cell d (cellNo s o u t)).st = .draining from (congrArg _ (hcell ..)).trans hst]
  · refine goes_alone h rfl ((onCell_member (hmem hm)).trans ?_)
    have hd : Instr.cls (.combQ c o) = some .ld := rfl
    rw [start_cell, plainOp, opOf, hd]
    rfl

end Sys2Proof.Proofs
end


section
/-! PROOFS. Comb membership, hive windows and the events of cells. -/
namespace Sys2Proof.Proofs
open Sys2Proof.Machine Sys2Proof.Safety Sys2Proof.Laws

/-! ## Sources captured word by word (R103) -/

section
variable {s : State}

theorem mixWords_succ (s : State) (old new : List Byte) (n : Nat) : mixWords s old new (n + 1) =
    if old.take 8 == new.take 8 then
      (new.take 8 ++ (mixWords s (old.drop 8) (new.drop 8) n).1, (mixWords s (old.drop 8) (new.drop 8) n).2)
    else
      ((if bit s.draw.1.toNat 0 then old.take 8 else new.take 8) ++ (mixWords s.draw.2 (old.drop 8) (new.drop 8) n).1,
        (mixWords s.draw.2 (old.drop 8) (new.drop 8) n).2) := rfl

theorem mixWords_same (old : List Byte) (n : Nat) (h : old.length ≤ 8 * n) : mixWords s old old n = (old, s) := by
  induction n generalizing old with
  | zero =>
    obtain rfl : old = [] := List.eq_nil_of_length_eq_zero (by omega)
    rfl
  | succ n ih =>
    have hd := ih (old.drop 8) (by rw [List.length_drop]; omega)
    rw [mixWords_succ]
    simp only [beq_self_eq_true, if_true, hd, List.take_append_drop]

/-- The words that a mix is made of. -/
theorem mixWords_words (n : Nat) (s : State) (old new : List Byte) (hl : old.length = new.length) (hn : old.length ≤ 8 * n) :
    (mixWords s old new n).1.length = old.length ∧ ∀ i, 8 * i < old.length →
      ((mixWords s old new n).1.drop (8 * i)).take 8 = (old.drop (8 * i)).take 8 ∨
      ((mixWords s old new n).1.drop (8 * i)).take 8 = (new.drop (8 * i)).take 8 := by
  induction n generalizing s old new with
  | zero =>
    obtain rfl : old = [] := List.eq_nil_of_length_eq_zero (by omega)
    exact ⟨rfl, fun i hi => by simp at hi⟩
  | succ n ih =>
    obtain ⟨w, s', hw, hm⟩ : ∃ w s', (w = old.take 8 ∨ w = new.take 8) ∧
        (mixWords s old new (n + 1)).1 = w ++ (mixWords s' (old.drop 8) (new.drop 8) n).1 := by
      rw [mixWords_succ]
      split
      · exact ⟨_, s, .inr rfl, rfl⟩
      · refine ⟨_, _, ?_, rfl⟩
        split
        · exact .inl rfl
        · exact .inr rfl
    obtain ⟨h1, h2⟩ := ih s' (old.drop 8) (new.drop 8) (by rw [List.length_drop, List.length_drop, hl]) (by rw [List.length_drop]; omega)
    have hwl : w.length = min 8 old.length := by
      rcases hw with rfl | rfl <;> rw [List.length_take]
      rw [hl]
    rw [hm]
    refine ⟨by rw [List.length_append, h1, hwl, List.length_drop]; omega, fun i hi => ?_⟩
    cases i with
    | zero =>
      have hfirst : (w ++ (mixWords s' (old.drop 8) (new.drop 8) n).1).take 8 = w := by
        rw [List.length_drop] at h1
        rcases Nat.lt_or_ge old.length 8 with hlt | hge
        · rw [List.eq_nil_of_length_eq_zero (l := (mixWords s' (old.drop 8) (new.drop 8) n).1) (by omega), List.append_nil]
          exact List.take_of_length_le (by omega)
        · exact List.take_left' (by omega)
      simpa [hfirst] using hw
    | succ i =>
      have hrest : (w ++ (mixWords s' (old.drop 8) (new.drop 8) n).1).drop (8 * (i + 1)) =
          ((mixWords s' (old.drop 8) (new.drop 8) n).1).drop (8 * i) := by
        rw [List.drop_append, List.drop_eq_nil_of_le (by omega), List.nil_append, show 8 * (i + 1) - w.length = 8 * i by omega]
      have := h2 i (by rw [List.length_drop]; omega)
      rw [List.drop_drop, List.drop_drop] at this
      rw [hrest, show 8 * (i + 1) = 8 + 8 * i by omega]
      exact this

end

/-! ## Membership (R94 to R98) -/

section
variable {s : State} {c : Ctl} {o : FX} {u : Cur} {t d : Nat} {g : Workgroup}

/-- comb.join by a workgroup that is no member and does not leave. -/
theorem combJoin_alone (h : Alone s (.combJoin c o) c u t) (hg : s.wg u.wg = some g) (hl : g.leaving = false) :
    let a := (s.src u.wg t o.a).toNat
    let dir := 4 * (g.core / 8) + a
    let free := tfree (s.dir dir).members
    exec (.combJoin c o) s = .next (ended s (.combJoin c o) c u t
      (if g.group.isSome || decide (3 < a) then .trap 0x64 0 none (start s (.combJoin c o) c u)
      else if 255 < free then .wait (start s (.combJoin c o) c u)
      else .adv ((((start s (.combJoin c o) c u).modDir dir (fun y => { y with members := tset y.members free u.wg })).modWg u.wg
        (fun g => { g with group := some dir, member := free })).put u.wg t o.d (ofN free)))) := by
  intro a dir free
  rw [exec_combJoin, execCombJoin, isa_alone h]
  simp only [ctx_w, ctx_t, start_wg, hg, start_src, hl, Bool.false_eq_true, if_false, start_dir]
  rfl

end

/-! ## The events of cells (R97, R103, R106, R107) -/

section
variable {s s1 : State} {op d c k off place : Nat} {o : Op} {g : Workgroup} {old : List Byte}

/-- The definition's bytes reach its cell, and its operation ends. -/
def captured8 (s : State) (op : Nat) (o : Op) (d c : Nat) (bs : List Byte) : State :=
  (s.modCell d c (fun y => if y.pend == some op then { y with value := bs, pend := none } else y)).endTile o.wg op

theorem combDefinition_here (ho : tget s.ops op = some o) (hh : s.headTile o.wg = some (op, o, .combDef d c k old))
    (hg : s.wg o.wg = some g) (hr : g.resid ≠ .saved)
    (hst : s.storage g.core o.wg op o.tid [0] { wg := o.wg, op := op } = (true, s1))
    (hb : (((tget g.tiles k).map (·.bad)).getD []).any (fun b => decide (8 * b < old.length)) = false)
    (hs : s1.tileSource o.wg k old.length = old) :
    exec (.combDefinitionComplete op) s = .next (captured8 s1 op o d c old) := by
  rw [exec_combDefinitionComplete, execCombDefinitionComplete]
  have hr' : (g.resid == .saved) = false := by simpa using hr
  have hmix := mixWords_same (s := s1) old (ceilDiv old.length 8) (by unfold ceilDiv; omega)
  simp only [ho, hh, hg, bne_self_eq_false, Bool.false_eq_true, if_false, hr', hst, hb, hs, hmix]
  rfl

theorem combDefinition_saved (ho : tget s.ops op = some o) (hh : s.headTile o.wg = some (op, o, .combDef d c k old))
    (hg : s.wg o.wg = some g) (hr : g.resid = .saved)
    (hb : (((tget g.tiles k).map (·.bad)).getD []).any (fun b => decide (8 * b < old.length)) = false) :
    exec (.combDefinitionComplete op) s = .next (captured8 s op o d c old) := by
  rw [exec_combDefinitionComplete, execCombDefinitionComplete]
  have hr' : (g.resid == .saved) = true := by simpa using hr
  simp only [ho, hh, hg, bne_self_eq_false, Bool.false_eq_true, if_false, hr', if_true, hb]
  rfl

/-- A copy's operation ends, and its cell goes on draining. -/
def copiedCell (s : State) (op : Nat) (o : Op) (d c : Nat) : State :=
  ((s.endTile o.wg op).modCell d c (fun y => { y with copies := y.copies.filter (· != op) })).drained d c

theorem combCopy_tile (ho : tget s.ops op = some o) (hh : s.headTile o.wg = some (op, o, .combRd d c k)) (hg : s.wg o.wg = some g)
    (hp : (s.cell d c).pend = none) (hb : (s.cell d c).bad = false) (hr : g.resid ≠ .saved)
    (hst : s.storage g.core o.wg op o.tid [0] { wg := o.wg, op := op, reg := some k, tiles := blocksOf (s.cell d c).shape } = (true, s1)) :
    exec (.combCopyComplete op) s = .next
      (copiedCell (s1.modWg o.wg (fun g => (g.reshape k (s.cell d c).shape).putTile k (s.cell d c).value)) op o d c) := by
  rw [exec_combCopyComplete, execCombCopyComplete]
  have hr' : (g.resid == .saved) = false := by simpa using hr
  simp only [ho, hh, hg, bne_self_eq_false, Bool.false_eq_true, if_false, hr', hp, Option.isSome_none, hb, hst]
  rfl

/-- A copy into scratchpad: it waits, ends as it was, faults, or writes. -/
theorem combCopy_scratch (ho : tget s.ops op = some o) (hh : s.headTile o.wg = some (op, o, .combRds d c off)) (hg : s.wg o.wg = some g) :
    exec (.combCopyComplete op) s = .next
      (if (s.cell d c).pend.isSome || s.scratchBefore op o then s
      else if (s.cell d c).bad then copiedCell (s.copyFails op o (s.cell d c).badCode) op o d c
      else copiedCell (s.writeAt o.wg o.tid (s.cell d c).value (.scratch o.wg off)) op o d c) := by
  rw [exec_combCopyComplete, execCombCopyComplete]
  simp only [ho, hh, hg, bne_self_eq_false, Bool.false_eq_true, if_false]
  rfl

theorem copyFails_core (h : (s.cell d c).place < 2) : s.copyFails op o (s.cell d c).badCode = s := by
  rw [Cell.badCode, if_pos h]
  rfl

theorem copyFails_far (h : 2 ≤ (s.cell d c).place) : s.copyFails op o (s.cell d c).badCode =
    (s.modWg o.wg (fun g => { g with mq := g.mq.filter (· != op) })).opFault op 0xE4 0 := by
  rw [Cell.badCode, if_neg (not_lt.2 h)]
  rfl

end

theorem combLeave_newOp : (start s (.combLeave c o) c u).newOp { wg := u.wg, tid := t, core := u.core, cls := none, pc := u.pc, kind := .leave } =
    (s.nextId, withOp (start s (.combLeave c o) c u) (plainOp (start s (.combLeave c o) c u) (.combLeave c o) u t .leave .vz [])) := by
  rw [State.newOp, State.newId, start_nextId]
  simp only [withOp, plainOp, opOf, start_nextId]
  rfl

/-- Settles O33: the instructions and the events by their branches, a capture word by word. -/
theorem combMembershipAndEvents : Obligations.CombMembershipAndEvents := by
  refine ⟨?_, ?_⟩
  · intro c o s u t d m g join leave map st a dir free peer
    have hmem := fun (hg : s.wg u.wg = some g) (hl : g.leaving = false) (hd : g.group = some d) => member_some hg hl hd
    refine ⟨fun h hg hl hn ha hf => ?_, fun h hg hl hf => ?_, fun h hg hl hd => ?_, fun h hg hl hd hp => ?_, fun h hg hl hd hp => ?_⟩
    · refine (combJoin_alone h hg hl).trans ?_
      rw [if_neg (by simpa [hn] using ha), if_neg (not_lt.2 hf)]
      rfl
    · refine (combJoin_alone h hg hl).trans ?_
      rw [if_pos (by simpa [Option.isSome_iff_ne_none] using hf)]
      rfl
    · refine waits_alone h rfl ?_
      rw [ctx_w, member_start, hmem hg hl hd]
      exact congrArg (fun p : Nat × State => Act.wait ((p.2.modWg u.wg fun g => { g with leaving := true }).holdFor (ctx leave c u t) p.1)) combLeave_newOp
    · refine goes_alone h rfl ?_
      rw [ctx_w, member_start, hmem hg hl hd]
      simp only [bits_low, start_src, start_dir, ctx_t]
      show (match tget (s.dir d).members peer with | none => _ | some p => _) = _
      rw [hp]
    · refine traps_alone h rfl ?_ rfl
      rw [ctx_w, member_start, hmem hg hl hd]
      simp only [bits_low, start_src, start_dir, ctx_t]
      show (match tget (s.dir d).members peer with | none => _ | some p => _) = _
      rw [hp]
  · intro s s1 op d c k off wg place o g head capture copied y sound claim
    refine ⟨fun old ⟨ho, hh, hg⟩ hr hst hb hs => combDefinition_here ho hh hg hr hst hb hs,
      fun old ⟨ho, hh, hg⟩ hr hb => combDefinition_saved ho hh hg hr hb,
      fun old new hl => mixWords_words _ s old new hl (by omega),
      fun ⟨ho, hh, hg⟩ hp hb hr hst => combCopy_tile ho hh hg hp hb hr hst, fun ⟨ho, hh, hg⟩ hp hs hb => ?_,
      fun ⟨ho, hh, hg⟩ hw => ?_, fun ⟨ho, hh, hg⟩ hp hs hb hpl => ?_, fun ⟨ho, hh, hg⟩ hp hs hb hpl => ?_, fun ho hc hw => ?_,
      fun hst hp hne hr => ?_⟩
    · refine (combCopy_scratch ho hh hg).trans ?_
      rw [if_neg (by simp [show (s.cell d c).pend = none from hp, hs]), if_neg (by simp [show (s.cell d c).bad = false from hb])]
      rfl
    · refine (combCopy_scratch ho hh hg).trans ?_
      rw [if_pos (by simpa [Option.isSome_iff_ne_none] using hw)]
    · refine (combCopy_scratch ho hh hg).trans ?_
      rw [if_neg (by simp [show (s.cell d c).pend = none from hp, hs]), if_pos hb, copyFails_core hpl]
      rfl
    · refine (combCopy_scratch ho hh hg).trans ?_
      rw [if_neg (by simp [show (s.cell d c).pend = none from hp, hs]), if_pos hb, copyFails_far hpl]
      rfl
    · rw [exec_combLeaveComplete, execCombLeaveComplete, ho]
      simp only [hc, hw, Bool.false_eq_true, if_false]
    · rw [exec_combPlacementMove, execCombPlacementMove]
      refine congrArg _ (if_pos ?_)
      simp [show (s.cell d c).st ≠ .free from hst, hp, show (s.cell d c).place ≠ place from hne, show s.roomAt d (s.cell d c).size place = true from hr]

end Sys2Proof.Proofs
end


section
/-! PROOFS. Fault records and their release (R390 to R396). -/
namespace Sys2Proof.Proofs
open Sys2Proof.Machine Sys2Proof.Safety Sys2Proof.Laws

/-! ## Words packed out of fields -/

/-- The number that holds fields of the given widths and values, the first one lowest. -/
def packed : List (Nat × Nat) → Nat
  | [] => 0
  | (n, v) :: fs => v % 2 ^ n + 2 ^ n * packed fs

theorem packed_lt : ∀ fs : List (Nat × Nat), packed fs < 2 ^ (fs.map Prod.fst).sum
  | [] => by simp [packed]
  | (n, v) :: fs => by
    have ih := packed_lt fs
    have hv : v % 2 ^ n < 2 ^ n := Nat.mod_lt _ (Nat.two_pow_pos n)
    rw [packed, List.map_cons, List.sum_cons, Nat.pow_add]
    calc v % 2 ^ n + 2 ^ n * packed fs < 2 ^ n * (packed fs + 1) := by rw [Nat.mul_succ]; omega
      _ ≤ 2 ^ n * 2 ^ (fs.map Prod.fst).sum := Nat.mul_le_mul_left _ ih

theorem packed_field (n v : Nat) (post : List (Nat × Nat)) :
    ∀ pre : List (Nat × Nat), packed (pre ++ (n, v) :: post) / 2 ^ (pre.map Prod.fst).sum % 2 ^ n = v % 2 ^ n
  | [] => by simp [packed, Nat.add_mul_mod_self_left]
  | (k, x) :: pre => by
    rw [List.cons_append, packed, List.map_cons, List.sum_cons, Nat.pow_add, ← Nat.div_div_eq_div_mul,
      Nat.add_mul_div_left _ _ (Nat.two_pow_pos k), Nat.div_eq_of_lt (Nat.mod_lt _ (Nat.two_pow_pos k)), Nat.zero_add,
      packed_field n v post pre]

/-- The field at place `k` of a packing is the bits from the sum of the widths below it. -/
theorem packed_at {fs : List (Nat × Nat)} {ns : List Nat} (hns : fs.map Prod.fst = ns) (k : Nat) {n v lo : Nat} (hk : fs[k]? = some (n, v))
    (hlo : (ns.take k).sum = lo) : packed fs / 2 ^ lo % 2 ^ n = v % 2 ^ n := by
  obtain ⟨hlt, hv⟩ := List.getElem?_eq_some_iff.1 hk
  rw [← hlo, ← hns, ← List.map_take, ← packed_field n v (fs.drop (k + 1)) (fs.take k), ← hv, ← List.drop_eq_getElem_cons hlt,
    List.take_append_drop]

theorem bits_packed {fs : List (Nat × Nat)} {ns : List Nat} (hns : fs.map Prod.fst = ns) (k : Nat) {n v hi lo : Nat} (hk : fs[k]? = some (n, v))
    (hlo : (ns.take k).sum = lo) (hn : hi + 1 - lo = n) : bits (packed fs) hi lo = v % 2 ^ n := by
  rw [bits_eq, hn, packed_at hns k hk hlo]

theorem testBit_packed {fs : List (Nat × Nat)} {ns : List Nat} (hns : fs.map Prod.fst = ns) (k : Nat) {n v lo j : Nat} (hk : fs[k]? = some (n, v))
    (hlo : (ns.take k).sum = lo) (hj : j < n) : (packed fs).testBit (lo + j) = v.testBit j := by
  have h : (packed fs / 2 ^ lo % 2 ^ n).testBit j = (v % 2 ^ n).testBit j := by rw [packed_at hns k hk hlo]
  simpa [Nat.testBit_mod_two_pow, hj, Nat.testBit_div_two_pow, Nat.add_comm] using h

theorem leNat_leBytes : ∀ n x : Nat, leNat (leBytes n x) = x % 256 ^ n
  | 0, x => by simp [leBytes, leNat, Nat.mod_one]
  | n + 1, x => by
    rw [leBytes, leNat, leNat_leBytes n, BitVec.toNat_ofNat, pow_succ' 256, Nat.mod_mul (a := 256)]

/-! ## The second line of a record (R392) -/

variable {s s1 : State} {c : FaultCtx} {g : Workgroup} {l : Launch}

/-- R392's fields of the second line, from its lowest bit up. -/
def lineFields (c : FaultCtx) (g : Workgroup) (l : Launch) : List (Nat × Nat) :=
  let team := c.tids.head?.getD 0 / 32
  [(128, 0), (64, c.tval), (64, c.faddr), (32, mkBits 32 (fun j => c.tids.contains (32 * team + j))), (1, 0), (1, c.deferred.toNat),
    (1, c.eng.isSome.toNat), (3, c.eng.getD 0), (6, team), (28, g.idx), (24, l.ltag), (8, g.core), (8, c.code), (24, c.epc),
    (24, c.spc), (8, 3), (24, c.epc), (64, 0)]

/-- The widths of R392's fields. -/
def lineWidths : List Nat := [128, 64, 64, 32, 1, 1, 1, 3, 6, 28, 24, 8, 8, 24, 24, 8, 24, 64]

theorem lineFields_widths : (lineFields c g l).map Prod.fst = lineWidths := rfl

theorem mkBits_lt (n : Nat) (f : Nat → Bool) : mkBits n f < 2 ^ n := by
  refine Nat.lt_pow_two_of_testBit _ fun i hi => ?_
  rw [testBit_mkBits]
  simp [Nat.not_lt.2 hi]

/-- A sum of R392's fields at their places, in any base, is their nesting from the lowest up. -/
theorem nested_sum {b v0 v1 v2 v3 v4 v5 v6 v7 v8 v9 v10 v11 v12 v13 e : Nat} (he : e = v4 * b ^ 290 + v5 * b ^ 291) :
    v0 * b ^ 128 + v1 * b ^ 192 + v2 * b ^ 256 + v3 * b ^ 289 + e + v6 * b ^ 294 + v7 * b ^ 300 +
      v8 * b ^ 328 + v9 * b ^ 352 + v10 * b ^ 360 + v11 * b ^ 368 + v12 * b ^ 392 + v13 * b ^ 416 + v11 * b ^ 424 =
    b ^ 128 * (v0 + b ^ 64 * (v1 + b ^ 64 * (v2 + b ^ 32 * (b ^ 1 * (v3 + b ^ 1 * (v4 + b ^ 1 * (v5 + b ^ 3 * (v6 + b ^ 6 * (v7 +
      b ^ 28 * (v8 + b ^ 24 * (v9 + b ^ 8 * (v10 + b ^ 8 * (v11 + b ^ 24 * (v12 + b ^ 24 * (v13 + b ^ 8 * v11))))))))))))))) := by
  rw [he]
  ring

theorem toNat_mod_two (b : Bool) : b.toNat % 2 ^ 1 = b.toNat := by cases b <;> rfl

theorem no_engine_bits : 0 = (none : Option Nat).isSome.toNat * 2 ^ 290 + (none : Option Nat).getD 0 % 8 * 2 ^ 291 := by
  rw [Option.isSome_none, Bool.toNat_false, Option.getD_none, Nat.zero_mod, Nat.zero_mul, Nat.zero_mul]

theorem engine_bits (b : Nat) : 2 ^ 290 + b % 8 * 2 ^ 291 = (some b).isSome.toNat * 2 ^ 290 + (some b).getD 0 % 8 * 2 ^ 291 := by
  rw [Option.isSome_some, Bool.toNat_true, Option.getD_some, Nat.one_mul]

theorem deferred_bit (b : Bool) : (if b = true then 2 ^ 289 else 0) = b.toNat * 2 ^ 289 := by
  cases b with
  | false => rw [if_neg (by decide), Bool.toNat_false, Nat.zero_mul]
  | true => rw [if_pos rfl, Bool.toNat_true, Nat.one_mul]

theorem mod_8 (v : Nat) : v % 2 ^ 3 = v % 8 := rfl

theorem mod_64 (v : Nat) : v % 2 ^ 6 = v % 64 := rfl

theorem mod_256 (v : Nat) : v % 2 ^ 8 = v % 256 := rfl

theorem leNat_line (hg : s.wg c.w = some g) (hl : s.launchOf c.w = some l) : leNat (c.line s) = packed (lineFields c g l) := by
  have hn : s.wgName c.w = (l.ltag, g.idx) := by simp [State.wgName, hg, hl]
  have hc : ((s.wg c.w).map (·.core)).getD 0 = g.core := by rw [hg]; rfl
  have hm := Nat.mod_eq_of_lt (mkBits_lt 32 (fun j => c.tids.contains (32 * (c.tids.head?.getD 0 / 32) + j)))
  have hp : packed (lineFields c g l) = packed (lineFields c g l) % 256 ^ 64 := by
    have hs : ((lineFields c g l).map Prod.fst).sum = 8 * 64 := by simp [lineFields]
    have hlt : packed (lineFields c g l) < (2 ^ 8) ^ 64 := (Nat.pow_mul 2 8 64) ▸ hs ▸ packed_lt (lineFields c g l)
    exact (Nat.mod_eq_of_lt hlt).symm
  unfold FaultCtx.line
  extract_lets nm team
  have ht : team = c.tids.head?.getD 0 / 32 := by
    show (match c.tids with | t :: _ => t / 32 | [] => 0) = _
    cases c.tids <;> rfl
  have hnm : nm = (l.ltag, g.idx) := hn
  clear_value team nm
  subst ht hnm
  rw [leNat_leBytes, hp, hc, deferred_bit]
  simp only [lineFields, packed, Nat.zero_mod, toNat_mod_two, hm, mod_8, mod_64, mod_256, Nat.zero_add, Nat.mul_zero, Nat.add_zero]
  split
  next b h => rw [nested_sum (engine_bits b), h]
  next h => rw [nested_sum no_engine_bits, h]

/-! ## A record, and the fault without one (R395, R396) -/

/-- Settles O49: the second line is the packing of R392's fields, and the two ways of recording are the cases of a free record. -/
theorem faultRecordsHoldTheFault : Obligations.FaultRecordsHoldTheFault := by
  intro s c g l hg hl n team
  have hn : n = packed (lineFields c g l) := leNat_line hg hl
  refine ⟨?_, fun s1 h => ?_, fun id va s1 h he hm => ?_, fun line he => ?_⟩
  · rw [hn]
    have field := fun k {n v hi lo} => bits_packed (lineFields_widths (c := c) (g := g) (l := l)) (n := n) (v := v) (hi := hi) (lo := lo) k
    refine ⟨field 0 rfl (by decide) rfl, field 1 rfl (by decide) rfl,
      field 2 rfl (by decide) rfl, fun j hj => ?_, field 4 rfl (by decide) rfl,
      ?_, ?_, field 7 rfl (by decide) rfl, field 8 rfl (by decide) rfl,
      field 9 rfl (by decide) rfl, field 10 rfl (by decide) rfl,
      field 11 rfl (by decide) rfl, field 12 rfl (by decide) rfl,
      field 13 rfl (by decide) rfl, field 14 rfl (by decide) rfl,
      field 15 rfl (by decide) rfl, field 16 rfl (by decide) rfl,
      field 17 rfl (by decide) rfl⟩
    · refine (testBit_packed lineFields_widths 3 rfl (by decide) hj).trans ?_
      rw [testBit_mkBits]
      simp [hj]
      rfl
    · refine (testBit_packed lineFields_widths 5 (j := 0) rfl (by decide) (by omega)).trans ?_
      cases c.deferred <;> rfl
    · refine (testBit_packed lineFields_widths 6 (j := 0) rfl (by decide) (by omega)).trans ?_
      show c.eng.isSome.toNat.testBit 0 = c.eng.isSome
      cases c.eng.isSome <;> rfl
  · rw [State.recordFault, hg, hl]
    dsimp only
    rw [h]
  · rw [State.recordFault, hg, hl]
    dsimp only
    rw [h, he]
    dsimp only
    rw [if_neg hm]
    exact ⟨_, rfl, rfl, rfl, rfl, rfl, rfl, rfl⟩
  · rw [State.escalate, hg]
    dsimp only
    rw [he]
    exact ⟨_, _, rfl, rfl, rfl, rfl, rfl, rfl, rfl, rfl⟩

end Sys2Proof.Proofs
end


section
/-! PROOFS. A performed write changes exactly its bytes (R53, R26). -/
namespace Sys2Proof.Proofs
open Sys2Proof.Machine Sys2Proof.Safety Sys2Proof.Laws

variable {s : State}

/-- Byte x of a memory after `bytes` were written from address a up. -/
theorem memGet_memWrite {m : Mem} (h : Memory.wf m = true) (a x : Nat) (bytes : List Byte) :
    memGet (memWrite m a bytes) x = if a ≤ x ∧ x < a + bytes.length then bytes[x - a]?.getD 0 else memGet m x := by
  split
  · rename_i hx
    obtain ⟨i, rfl⟩ := Nat.exists_eq_add_of_le hx.1
    have hi : i < bytes.length := by omega
    rw [memGet_memWrite_in h hi, Nat.add_sub_cancel_left, List.getElem?_eq_getElem hi, Option.getD_some]
  · exact memGet_memWrite_out h (by omega)

/-- The two memories and the workgroups, which forwarding an update of a region leaves as they are. -/
def stores (s : State) : Mem × Mem × Tab Workgroup := (s.mem, s.host, s.wgs)

theorem stores_forwardLine (s : State) (p pa : Nat) (who : List (Nat × Nat × Nat)) (launch : Option Nat) :
    stores (s.forwardLine p pa who launch) = stores s := by
  refine foldl_keeps stores (fun s e => ?_) _ _
  split
  · rfl
  · exact foldl_keeps stores (fun s l => (rfl : stores (s.forwardOne p pa e.1 l who launch) = stores s)) _ _

theorem stores_forward (s : State) (p : Nat) (lines : List Nat) (who : List (Nat × Nat × Nat)) (launch : Option Nat) :
    stores (s.forward p lines who launch) = stores s := by
  unfold State.forward
  split
  · rfl
  · exact foldl_keeps stores (fun s l => stores_forwardLine s ..) _ _

theorem stores_write (s : State) (ph : Phys) (va : Nat) (bytes : List Byte) (launch : Option Nat) :
    stores (s.write ph va bytes launch) = (if ph.host then s.mem else memWrite s.mem ph.pa bytes,
      if ph.host then memWrite s.host ph.pa bytes else s.host, s.wgs) := by
  unfold State.write
  dsimp only
  have hkeep : stores (match launch with
      | some l => if ph.det then s.modLaunch l (fun x => x.wrote ph va bytes.length) else s
      | none => s) = stores s := by
    cases launch with
    | none => rfl
    | some l => cases ph.det <;> rfl
  simp only [stores, Prod.mk.injEq] at hkeep
  obtain ⟨hm, hh, hw⟩ := hkeep
  cases ph.host
  · exact Prod.ext (congrArg (memWrite · ph.pa bytes) hm) (Prod.ext hh hw)
  · exact Prod.ext hm (Prod.ext (congrArg (memWrite · ph.pa bytes) hh) hw)

theorem stores_store (hn : s.net = none) (p : Nat) (ph : Phys) (va : Nat) (bytes : List Byte) (launch : Option Nat)
    (who : Option (Nat × Nat × Nat)) : stores (s.store p ph va bytes launch who) =
      (if ph.host then s.mem else memWrite s.mem ph.pa bytes, if ph.host then memWrite s.host ph.pa bytes else s.host, s.wgs) := by
  rw [← stores_write s ph va bytes launch, State.store, if_neg (by simp [hn])]
  dsimp only
  split
  · rfl
  · exact stores_forward ..

theorem memOk_parts (h : memOk s = true) : Memory.wf s.mem = true ∧ Memory.wf s.host = true := by
  simp only [memOk, Bool.and_eq_true] at h
  exact h.1

/-- Settles O47: a store and a write of scratchpad are writes of one memory each, at their own bytes. -/
theorem writesChangeTheirBytesOnly : Obligations.WritesChangeTheirBytesOnly := by
  intro s p ph va bytes launch who by_ t w off g hok hn s1 s2 after
  obtain ⟨hm, hh⟩ := memOk_parts hok
  have hs := stores_store (s := s) hn p ph va bytes launch who
  simp only [stores, Prod.mk.injEq] at hs
  obtain ⟨h1, h2, h3⟩ := hs
  refine ⟨fun hp x => ?_, fun hp x => ?_, fun v => congrArg (tget · v) h3, fun hg hwf => ?_, rfl, rfl, fun v hv => ?_⟩
  · rw [show s1.mem = _ from h1, show s1.host = _ from h2, hp]
    exact ⟨memGet_memWrite hm ph.pa x bytes, rfl⟩
  · rw [show s1.mem = _ from h1, show s1.host = _ from h2, hp]
    exact ⟨memGet_memWrite hh ph.pa x bytes, rfl⟩
  · refine ⟨_, (tget_tmod_same ..).trans (congrArg (Option.map _) hg), fun x => memGet_memWrite hwf off x bytes, rfl, rfl⟩
  · exact tget_tmod_other _ _ hv
end Sys2Proof.Proofs
end


section
/-! PROOFS. The release of a fault record (R394). -/
namespace Sys2Proof.Proofs
open Sys2Proof.Machine Sys2Proof.Safety Sys2Proof.Laws

variable {s : State} {id : Nat} {r : Record} {line : Nat}

/-! ## The two lines of a record that goes -/

/-- Two lines of zeros from an address up. -/
def zeroed (m : Mem) (a : Nat) : Mem := memWrite (memWrite m a (List.replicate 64 0)) (a + 64) (List.replicate 64 0)

theorem memGet_zeroed {m : Mem} (h : Memory.wf m = true) (a x : Nat) :
    memGet (zeroed m a) x = if a ≤ x ∧ x < a + 128 then 0 else memGet m x := by
  rw [zeroed, memGet_memWrite (memWrite_wf _ _ h), memGet_memWrite h]
  simp only [List.length_replicate, List.getElem?_replicate]
  split
  · rw [if_pos (by omega), if_pos (by omega)]; rfl
  · split
    · rw [if_pos (by omega), if_pos (by omega)]; rfl
    · rw [if_neg (by omega)]

theorem zeroed_clears {m : Mem} (h : Memory.wf m = true) (a : Nat) : (∀ x, a ≤ x → x < a + 128 → memGet (zeroed m a) x = 0) ∧
    ∀ x, x < a ∨ a + 128 ≤ x → memGet (zeroed m a) x = memGet m x :=
  ⟨fun x h1 h2 => by rw [memGet_zeroed h, if_pos ⟨h1, h2⟩], fun x hx => by rw [memGet_zeroed h, if_neg (by omega)]⟩

theorem stores_clearRecord (hr : tget s.records id = some r) (hn : s.net = none) : stores (s.clearRecord id) =
    (if r.host then s.mem else zeroed s.mem r.pa, if r.host then zeroed s.host r.pa else s.host, s.wgs) := by
  have h := stores_store hn r.part { pa := r.pa, host := r.host } r.va (List.replicate 64 0) none none
  have hk : (s.store r.part { pa := r.pa, host := r.host } r.va (List.replicate 64 0) none none).net = s.net := still_net (still_store ..)
  simp only [State.clearRecord, hr]
  revert h hk
  generalize s.store r.part { pa := r.pa, host := r.host } r.va (List.replicate 64 0) none none = s1
  intro h hk
  simp only [stores, Prod.mk.injEq] at h
  obtain ⟨hm, hh, hw⟩ := h
  have h2 := stores_store (hk.trans hn) r.part { pa := r.pa + 64, host := r.host } (r.va + 64) (List.replicate 64 0) none none
  rw [hm, hh, hw] at h2
  revert h2
  generalize s1.store r.part { pa := r.pa + 64, host := r.host } (r.va + 64) (List.replicate 64 0) none none = s2
  intro h2
  unfold stores at h2 ⊢
  rw [h2]
  cases r.host <;> simp [zeroed]

/-! ## The actions of a release -/

/-- What a release that is not escalated does, and when the record stays. -/
theorem release_responds (hr : tget s.records id = some r) (hl : r.answer = some line) (he : r.escalated = false)
    (hg : s.wg r.wg ≠ none) (h3 : ¬(3 ≤ bits line 423 416 ∨ (r.eng.isSome = true ∧ bits line 423 416 = 1))) {s1 : State}
    (h1 : s.respond r.wg line (bits line 423 416) (bits line 447 424) (ofN (bits line 511 448))
      (s.stillParked r.wg r.tids (.record id)) r.eng (some id) = s1) :
    exec (.faultRecordRelease id) s =
      .next (if bits line 423 416 == 1 && (tget s1.records id).any (·.escalated) then s1 else s1.clearRecord id) := by
  show Host.Outcome.next _ = _
  rw [hr]
  dsimp only
  rw [hl]
  dsimp only
  rw [he, if_neg (by decide), if_neg (by simpa using hg), if_neg (by simpa using h3), h1]

/-- Settles O50: each action is a case of the response, and the two lines of the record that goes are zeroed. -/
theorem returnFromException : Obligations.ReturnFromException := by
  intro s rec_ r line i action ts awake
  refine ⟨fun hr => ?_, fun hr hl => ?_, fun hr hl he => ⟨fun hg => ?_, fun hg => ⟨fun ha hn => ?_, fun ha hn s1 h1 hx => ?_,
    fun ha hn left s1 hne h1 => ?_, fun ha => ?_, fun b ha hb => ?_, fun ha => ?_⟩⟩, fun w t pc th ht => ?_, fun hr hok hn => ?_⟩
  · show Host.Outcome.next _ = _
    rw [hr]
  · show Host.Outcome.next _ = _
    rw [hr]
    dsimp only
    rcases hl with hl | hl
    · rw [hl]
    · rw [hl]
      cases r.answer <;> rfl
  · show Host.Outcome.next _ = _
    rw [hr]
    dsimp only
    rw [hl]
    dsimp only
    rw [he, if_neg (by decide), if_pos (by simp [hg])]
  · refine (release_responds hr hl he hg (by simp [hn, show bits line 423 416 = 0 from ha]) rfl).trans ?_
    rw [show bits line 423 416 = 0 from ha, hn]
    rfl
  · refine (release_responds hr hl he hg (by simp [hn, show bits line 423 416 = 1 from ha]) (s1 := s1) ?_).trans ?_
    · rw [show bits line 423 416 = 1 from ha, hn, State.respond, show (s.wakeAcquire r.wg).unwindAll _ _ _ _ = _ from h1]
      rfl
    · rw [hx, Bool.and_false, if_neg (by decide)]
  · refine (release_responds hr hl he hg (by simp [hn, show bits line 423 416 = 1 from ha])
      (s1 := s1.escalate (lineCtx r.wg line left none) ((lineCtx r.wg line left none).line s1) (some rec_)) ?_).trans ?_
    · rw [show bits line 423 416 = 1 from ha, hn, State.respond, show (s.wakeAcquire r.wg).unwindAll _ _ _ _ = _ from h1]
      exact if_neg (by simpa using hne)
    · rw [show bits line 423 416 = 1 from ha]
      rfl
  · refine (release_responds hr hl he hg (by simp [show bits line 423 416 = 2 from ha]) rfl).trans ?_
    rw [show bits line 423 416 = 2 from ha]
    cases r.eng <;> rfl
  · refine (release_responds hr hl he hg (by simp [show bits line 423 416 = 0 from ha]) rfl).trans ?_
    rw [show bits line 423 416 = 0 from ha, hb]
    rfl
  · refine ⟨lineCtx r.wg line (if r.eng.isSome then r.tids else ts) r.eng, ?_, rfl, rfl⟩
    show Host.Outcome.next _ = _
    rw [hr]
    dsimp only
    rw [hl]
    dsimp only
    rw [he, if_neg (by decide), if_neg (by simpa using hg), if_pos (by simp [show 3 ≤ bits line 423 416 from ha])]
  · refine ⟨_, (s.thread_modThread_same ..).trans (congrArg (Option.map _) ht), rfl, rfl, rfl, rfl, rfl, rfl, rfl, rfl, fun hpc => if_pos hpc⟩
  · obtain ⟨hm, hh⟩ := memOk_parts hok
    have hs := stores_clearRecord hr hn
    simp only [stores, Prod.mk.injEq] at hs
    obtain ⟨h1, h2, -⟩ := hs
    refine ⟨fun hp => ?_, fun hp => ?_⟩
    · rw [h1, h2, if_neg (by simp [hp]), if_neg (by simp [hp])]
      exact ⟨zeroed_clears hm r.pa, rfl⟩
    · rw [h1, h2, if_pos hp, if_pos hp]
      exact ⟨zeroed_clears hh r.pa, rfl⟩

end Sys2Proof.Proofs
end


section
/-! PROOFS. The fault queue delivers, holds and counts its entries (R417, R420). -/
namespace Sys2Proof.Proofs
open Sys2Proof.Machine Sys2Proof.Safety Sys2Proof.Laws

variable {s : State} {p : Nat} {e : Post} {rest : List Post}

theorem modPart_congr {f g : Partition → Partition} (h : f (s.part p) = g (s.part p)) : s.modPart p f = s.modPart p g := by
  rw [State.modPart, State.modPart, h]

theorem faultQueuePost_of (h : (s.part p).posts = e :: rest) : exec (.faultQueuePost p) s = .next
    (if (s.part p).held.isEmpty && s.ringRoom p then (s.modPart p (fun q => { q with posts := rest })).postNow p e
      else if (s.part p).held.length < 256 then s.modPart p (fun q => { q with posts := rest, held := q.held ++ [e] })
      else match (s.part p).posts.find? (fun e => e.kind == 3) with
        | some e => s.modPart p (fun q => { q with posts := q.posts.erase e, lost := (q.lost + 1) % 2 ^ 32, ovf := true })
        | none => s) := by
  rw [exec_faultQueuePost, execFaultQueuePost]
  simp only [h] <;> rfl

/-- Signalling vector 0 changes only its pending bit or the list of the messages sent. -/
theorem signal_zero (s : State) (p : Nat) : (s.signal p 0).host = s.host ∧ ((s.signal p 0).part p).fqtail = (s.part p).fqtail ∧
    ((s.signal p 0).msis = (p, 0) :: s.msis ∨ ((s.signal p 0).part p).pba.toNat.testBit 0 = true) := by
  unfold State.signal
  split
  · refine ⟨rfl, by rw [State.part_modPart_same], .inr ?_⟩
    rw [State.part_modPart_same]
    simp [ofN]
  · exact ⟨rfl, rfl, .inl rfl⟩

/-- The ring's address of the next entry (R417). -/
def ringAt (s : State) (p : Nat) : Nat :=
  s.ioAddr p ((s.part p).reg 0x1000 + 128 * ((s.part p).fqtail % 2 ^ ((s.part p).reg 0x1008 % 2 ^ 5)))

/-- The state with an entry written into the ring and FQTAIL moved, before the vector is signalled. -/
def posted (s : State) (p : Nat) (e : Post) : State :=
  ({ s with
    host := memWrite s.host (ringAt s p) (entryBytes s p e)
    kind2s := if e.kind = 2 then tmod s.kind2s e.ref (fun k => { k with seqno := (s.part p).fqtail }) else s.kind2s } : State).modPart p
      (fun q => { q with fqtail := ((s.part p).fqtail + 1) % 2 ^ 32 })

theorem posted_host : (posted s p e).host = memWrite s.host (ringAt s p) (entryBytes s p e) := by
  simp only [posted, State.modPart]

theorem posted_fqtail : ((posted s p e).part p).fqtail = ((s.part p).fqtail + 1) % 2 ^ 32 := by
  rw [posted, State.part_modPart_same]

theorem postNow_of (he : e.rc = none) : s.postNow p e = (posted s p e).signal p 0 := by
  unfold State.postNow
  extract_lets q a s1
  rw [State.settleEntry, he]
  rfl

/-- Settles O41: the cases of the two events, and what an entry that is posted writes. -/
theorem faultQueueDelivers : Obligations.FaultQueueDelivers := by
  intro s p e rest q posts popped room
  refine ⟨fun h => ?_, fun h hh hr => ?_, fun h hn hl => ?_, fun h hk hl => ?_, fun h hr => ?_, fun h => ?_, fun he _ => ?_⟩
  · rw [exec_faultQueuePost, execFaultQueuePost]
    simp only [show (s.part p).posts = [] from h]
  · refine (faultQueuePost_of h).trans (congrArg _ (if_pos ?_))
    simp [show (s.part p).held = [] from hh, show s.ringRoom p = true from hr]
  · refine (faultQueuePost_of h).trans (congrArg _ ((if_neg ?_).trans (if_pos hl)))
    rwa [Bool.and_eq_true, List.isEmpty_iff]
  · have hne : (s.part p).held ≠ [] := fun h0 => by simp [q, h0] at hl
    refine (faultQueuePost_of h).trans (congrArg _ ((if_neg (by simp [hne])).trans ((if_neg (by simpa using hl)).trans ?_)))
    rw [show (s.part p).posts = e :: rest from h, List.find?_cons_of_pos (by simpa using hk)]
    refine modPart_congr ?_
    simp only [show (s.part p).posts = e :: rest from h, List.erase_cons_head]
  · rw [exec_faultQueueDrain, execFaultQueueDrain]
    simp only [show (s.part p).held = e :: rest from h]
    exact congrArg _ (if_pos hr)
  · rw [exec_faultQueueDrain, execFaultQueueDrain]
    rcases h with h | h
    · simp only [show (s.part p).held = [] from h]
    · cases (s.part p).held with
      | nil => rfl
      | cons e' rest' => exact congrArg _ (if_neg h)
  · intro a
    obtain ⟨hh, hf, hm⟩ := signal_zero (posted s p e) p
    rw [postNow_of he, hh, hf, posted_host, posted_fqtail]
    exact ⟨rfl, rfl, hm⟩

end Sys2Proof.Proofs
end


section
/-! PROOFS. Taking an exception (R390, R391, R393). -/
namespace Sys2Proof.Proofs
open Sys2Proof.Machine Sys2Proof.Safety Sys2Proof.Laws

variable {s : State} {w t code spc addr : Nat} {tv : Option Word} {d : Bool} {th : Thread} {l : Launch} {g : Workgroup}

theorem dropClaim_cores : s.dropClaim w t = { s with cores := (s.dropClaim w t).cores } := by
  unfold State.dropClaim
  split
  · rfl
  · dsimp only
    split <;> rfl

theorem dropClaim_claims (hg : s.wg w = some g) : ((s.dropClaim w t).core g.core).claims =
    (s.core g.core).claims.filter (fun c => !(c.wg == w && c.op == 0 && c.tid == t)) := by
  unfold State.dropClaim
  rw [hg]
  dsimp only
  split
  · rw [State.core_modCore_same]
  · rename_i h
    refine (List.filter_eq_self.2 fun c hc => ?_).symm
    have hf := List.any_eq_false.1 (Bool.not_eq_true _ ▸ h) c hc
    simpa [imp_iff_not_or, or_assoc] using hf

/-- The thread as it stands once the exception's registers are saved. -/
def saved (th : Thread) (code addr : Nat) (tv : Option Word) : Thread :=
  { th with cause := ofN code, epc := ofN th.pc.toNat, faddr := ofN (if code = 0xB6 then 0 else addr), tval := tv.getD th.tval,
            hold := none, xfails := [] }

/-- The state in which a thread takes its exception: registers saved, and no wait so far. -/
def saving (s : State) (w t : Nat) (th1 : Thread) : State :=
  ({ s with blocked := false, asking := some (.threads w [t]) } : State).modThread w t (fun _ => th1)

def excCtx (w t code spc addr : Nat) (d : Bool) (th1 : Thread) : FaultCtx :=
  ⟨w, [t], code, spc, th1.pc.toNat, if code = 0xB6 then 0 else addr, th1.tval.toNat, d, none, if code = 0xB6 then addr else 0⟩

theorem takeNow_one (ht : s.thread w t = some th) (hl : s.launchOf w = some l) :
    let s1 := saving s w t (saved th code addr tv)
    let c := excCtx w t code spc addr d (saved th code addr tv)
    ({ s with blocked := false, asking := some (.threads w [t]) } : State).takeNow w code spc d [(t, addr, tv)] =
      if l.mode = 1 then
        match s1.unwind w t (ofN ((if code = 0xB6 then 0 else addr) % 2 ^ 32 * 2 ^ 32 + th.pc.toNat * 2 ^ 8 + code)) with
        | some s2 => s2
        | none => s1.escalate c (c.line s1) none
      else s1.recordFault c := by
  intro s1 c
  have hs : ({ s with blocked := false, asking := some (.threads w [t]) } : State).modThread w t (fun th => { th with
      cause := ofN code, epc := ofN th.pc.toNat, faddr := ofN (if code = 0xB6 then 0 else addr), tval := tv.getD th.tval, hold := none
      xfails := [] }) = s1 := modThread_congr (fun x hx => by rw [Option.some.inj ((show s.thread w t = _ from hx).symm.trans ht)]; rfl)
  have ht1 : s1.thread w t = some (saved th code addr tv) :=
    (State.thread_modThread_same ..).trans (congrArg (Option.map _) ht)
  have hl1 : s1.launchOf w = some l := (State.launchOf_modThread ..).trans hl
  unfold State.takeNow
  simp only [List.foldl_cons, List.foldl_nil, List.map_cons, List.map_nil]
  rw [hs, ht1, hl1, min_self]
  by_cases hm : l.mode = 1
  · rw [if_pos hm]
    simp only [Option.map_some, hm, Option.getD_some]
    rfl
  · rw [if_neg hm]
    simp only [Option.map_some, Option.getD_some]
    split
    · next h => exact absurd (Option.some.inj h) hm
    · rfl

theorem takeFault_one (hgo : s.mustWait w t = false) : s.takeFault w code spc d [(t, addr, tv)] =
    (s.dropClaim w t).taking w [t] (fun s => s.takeNow w code spc d [(t, addr, tv)]) := by
  unfold State.takeFault
  rw [List.filter_cons_of_pos (by simp [hgo])]
  rfl

/-- Settles O48: the exception is taken in the state with the claim dropped and the registers saved, and each case of the mode is one
of the ways it ends. -/
theorem takingAnException : Obligations.TakingAnException := by
  intro s w t code spc addr tv d th l ht hl fa th1 s0 s1 info cx took x go ends
  have h0 : s0 = { s with cores := s0.cores } := dropClaim_cores
  have ht0 : s0.thread w t = some th := by rw [h0]; exact ht
  have hl0 : s0.launchOf w = some l := by rw [h0]; exact hl
  have hends : ∀ r : State, go → ({ s0 with blocked := false, asking := some (.threads w [t]) } : State).takeNow w code spc d [(t, addr, tv)] = r →
      ends r := by
    intro r hgo hr
    have htook : took = _ := takeFault_one hgo
    refine ⟨fun hb => ?_, fun hb => ?_⟩
    · rw [htook, State.taking, hr]
      dsimp only
      rw [if_neg (by simp [hb]), show s0.blocked = s.blocked by rw [h0], show s0.asking = s.asking by rw [h0]]
    · rw [htook, State.taking, hr]
      exact if_pos hb
  refine ⟨fun hw => ?_, fun hgo hm => hends _ hgo ((takeNow_one ht0 hl0).trans (if_neg hm)), fun hgo hm s2 hu => hends _ hgo ?_,
    fun hgo hm hu => hends _ hgo ?_, h0, fun g hg => dropClaim_claims hg⟩
  · unfold took State.takeFault
    rw [List.filter_cons_of_neg (by simp [hw])]
    rfl
  · refine (takeNow_one ht0 hl0).trans ((if_pos hm).trans ?_)
    rw [show (saving s0 w t (saved th code addr tv)).unwind w t _ = some s2 from hu]
  · refine (takeNow_one ht0 hl0).trans ((if_pos hm).trans ?_)
    rw [show (saving s0 w t (saved th code addr tv)).unwind w t _ = none from hu]
    rfl

end Sys2Proof.Proofs
end


section
/-!
PROOFS. The frame of an issued access fails for a load of a scratchpad word in error, whose checks pass and which raises 0xE3
precisely (spec/15_faults.md R388, R411).
-/
namespace Sys2Proof.Proofs
open Sys2Proof.Machine Sys2Proof.Safety Sys2Proof.Laws Sys2Proof.Tests

/-- The machine whose workgroup 1 has an uncorrectable error in the first word of its scratchpad, the word that its thread loads. -/
def badWord : State := demoW [0xFF00_0000_0000_0000] (fun g => { g with badScratch := [0] })

/-- The load of that word. -/
def badLoad : Instr := .ld c0 (om .s32 0 0)

theorem badLoad_alone : Alone badWord badLoad c0 u0 0 :=
  alone_of (by decide)

/-- The checks of R45 pass. -/
theorem badLoad_passes : ∃ s1, check (start badWord badLoad c0 u0) u0.wg [0] 0xFF00_0000_0000_0000 4 4 .load Aper.ls false =
    (.scratch 1 0, s1) := ⟨_, rfl⟩

theorem badWord_thread : ∃ th, badWord.thread 1 0 = some th ∧ th.cause = 0 := ⟨_, rfl, rfl⟩

/-- The load ends in the precise exception 0xE3, which sr.CAUSE then holds. -/
theorem badLoad_raises : ∃ s' th, exec badLoad badWord = .next s' ∧ s'.thread 1 0 = some th ∧ th.cause = 0xE3 :=
  ⟨_, _, rfl, rfl, by decide⟩

/-- Refutes O46: a load whose checks pass changes sr.CAUSE of its thread where it meets a scratchpad word in error, which the
statement does not exclude. -/
theorem not_issuedAccessesFrame : ¬Obligations.IssuedAccessesFrame := by
  intro h
  obtain ⟨s1, hchk⟩ := badLoad_passes
  obtain ⟨s', th', hexec, hth', hcause⟩ := badLoad_raises
  obtain ⟨hload, -⟩ := h c0 0 (om .s32 0 0) badWord s' u0 0 (.scratch 1 0) s1
  obtain ⟨-, -, hthreads⟩ := hload badLoad_alone hchk (.inr ⟨_, _, rfl⟩) hexec
  obtain ⟨th, hth, hbefore⟩ := badWord_thread
  obtain ⟨th2, hth2, ⟨hfixed, -⟩, -⟩ := hthreads 1 0 th hth
  obtain rfl : th2 = th' := Option.some.inj (hth2.symm.trans hth')
  have hsame : th2.cause = th.cause := (congrArg Thread.cause hfixed :)
  exact absurd (hcause.symm.trans (hsame.trans hbefore)) (by decide)

end Sys2Proof.Proofs
end


section
/-! PROOFS. The frame of the register instructions (R160, R257): only D, PD and the bookkeeping of the issue change. -/
namespace Sys2Proof.Proofs
open Sys2Proof.Machine Sys2Proof.Safety Sys2Proof.Laws

/-! ## Frames and registers -/

/-- A frame without its words. -/
def bare (f : Frame) : Frame := { f with slots := [], bad := [], fresh := false }

theorem frameShapes_eq (th : Thread) : frameShapes th = th.frames.map bare := rfl

/-- Where a register stands depends on no word of a frame. -/
theorem resolveReg_bare : ∀ (fs : List Frame) (j : Nat), resolveReg (fs.map bare) j = resolveReg fs j
  | [], _ => rfl
  | f :: fs, j => by
    rw [List.map_cons, resolveReg_cons, resolveReg_cons, show (bare f).win = f.win from rfl, resolveReg_bare fs]
    rfl

theorem resolveReg_of_shapes {th th' : Thread} (h : frameShapes th' = frameShapes th) (j : Nat) :
    resolveReg th'.frames j = resolveReg th.frames j := by
  rw [← resolveReg_bare, ← resolveReg_bare th.frames]
  exact congrArg (resolveReg · j) h

/-- A change of each frame that keeps its name and the word of register q keeps what q reads as. -/
theorem frameGet_map {h : Frame → Frame} {q : Nat × Nat} (fs : List Frame) (hid : ∀ f, (h f).id = f.id)
    (hslot : ∀ f, f.id = q.1 → (h f).slots[q.2]? = f.slots[q.2]?) : frameGet (fs.map h) q = frameGet fs q := by
  unfold frameGet
  rw [List.find?_map, show ((fun f => f.id == q.1) ∘ h) = (fun (f : Frame) => f.id == q.1) from funext fun f => by simp [hid]]
  cases hf : fs.find? (fun f => f.id == q.1) with
  | none => rfl
  | some f => simp [hslot f (by simpa using List.find?_some hf)]

theorem frameGet_framePut (fs : List Frame) {r q : Nat × Nat} (x : Word) (h : q ≠ r) : frameGet (framePut fs r x) q = frameGet fs q := by
  refine frameGet_map fs (fun f => ?_) fun f hf => ?_
  · split <;> rfl
  · split
    · rename_i hr
      have hne : r.2 ≠ q.2 := fun h2 => h (Prod.ext (hf.symm.trans (by simpa using hr)) h2.symm)
      exact List.getElem?_set_ne hne
    · rfl

theorem framePut_bare (fs : List Frame) (r : Nat × Nat) (x : Word) : (framePut fs r x).map bare = fs.map bare := by
  unfold framePut
  rw [List.map_map]
  refine List.map_congr_left fun f _ => ?_
  simp only [Function.comp]
  split <;> rfl

/-! ## What an instruction may change of its threads -/

/-- The places that D names in a thread. -/
def namedBy (d : Opnd) (th : Thread) (r : Nat × Nat) : Prop := ∃ j : Fin 240, d = .v j ∧ resolveReg th.frames j.val = some r

theorem keepsThread_refl (th : Thread) (pd : Option Nat) (d : Nat × Nat → Prop) : keepsThread th th pd d :=
  ⟨rfl, rfl, fun _ _ => rfl, fun _ _ => rfl⟩

theorem keepsThread_trans {a b c : Thread} {pd : Option Nat} {d : Opnd} (h : keepsThread a b pd (namedBy d a))
    (k : keepsThread b c pd (namedBy d b)) : keepsThread a c pd (namedBy d a) := by
  obtain ⟨h1, h2, h3, h4⟩ := h
  obtain ⟨k1, k2, k3, k4⟩ := k
  refine ⟨k1.trans h1, k2.trans h2, fun n hn => (k3 n hn).trans (h3 n hn), fun r hr => (k4 r ?_).trans (h4 r hr)⟩
  rintro ⟨j, hd, hj⟩
  exact hr ⟨j, hd, (resolveReg_of_shapes h2 j).symm.trans hj⟩

theorem keepsThread_advance (th : Thread) (pd : Option Nat) (d : Nat × Nat → Prop) : keepsThread th th.advance pd d := by
  unfold Thread.advance
  split
  · exact keepsThread_refl ..
  · split
    · split <;> exact keepsThread_refl ..
    · exact keepsThread_refl ..

theorem keepsThread_setPred (th : Thread) (n : Nat) (b : Bool) (d : Nat × Nat → Prop) : keepsThread th (th.setPred n b) (some n) d :=
  ⟨rfl, rfl, fun _ hm => List.getElem?_set_ne (fun h => hm (congrArg some h)), fun _ _ => rfl⟩

theorem keepsThread_setReg (th : Thread) (j : Fin 240) (x : Word) (pd : Option Nat) :
    keepsThread th (th.setReg j.val x) pd (namedBy (.v j) th) := by
  unfold Thread.setReg
  split
  · rename_i r hr
    exact ⟨rfl, framePut_bare .., fun _ _ => rfl, fun q hq => frameGet_framePut _ _ (fun h => hq ⟨j, rfl, h ▸ hr⟩)⟩
  · exact keepsThread_refl ..

/-! ## What an instruction may change of the module -/

/-- From s on only the threads of the bundle, register D, predicate PD and the latches have changed. -/
structure Framed (u : Cur) (d : Opnd) (pd : Option Nat) (s s' : State) : Prop where
  rest : s' = { s with cores := s'.cores, wgs := s'.wgs }
  cores : ∀ k, { s'.core k with latches := [] } = { s.core k with latches := [] }
  others : ∀ w, w ≠ u.wg → s'.wg w = s.wg w
  group : ∀ g, s.wg u.wg = some g → ∃ g', s'.wg u.wg = some g' ∧
    { g' with threads := [], kregs := [] } = { g with threads := [], kregs := [] } ∧
    ∀ n, (∀ k : Fin 64, d = .k k → k.val ≠ n) → g'.kregs[n]? = g.kregs[n]?
  strangers : ∀ t, t ∉ u.tids → s'.thread u.wg t = s.thread u.wg t
  members : ∀ t ∈ u.tids, ∀ th, s.thread u.wg t = some th → ∃ th', s'.thread u.wg t = some th' ∧ keepsThread th th' pd (namedBy d th)

section
variable {u : Cur} {d : Opnd} {pd : Option Nat} {s s1 s2 : State}

theorem framed_refl (s : State) : Framed u d pd s s :=
  ⟨rfl, fun _ => rfl, fun _ _ => rfl, fun g h => ⟨g, h, rfl, fun _ _ => rfl⟩, fun _ _ => rfl, fun _ _ th h => ⟨th, h, keepsThread_refl ..⟩⟩

theorem framed_trans (h : Framed u d pd s s1) (k : Framed u d pd s1 s2) : Framed u d pd s s2 := by
  refine ⟨?_, fun i => (k.cores i).trans (h.cores i), fun w hw => (k.others w hw).trans (h.others w hw), fun g hg => ?_,
    fun t ht => (k.strangers t ht).trans (h.strangers t ht), fun t ht th hth => ?_⟩
  · rw [k.rest, h.rest]
  · obtain ⟨g1, hg1, h1, h2⟩ := h.group g hg
    obtain ⟨g2, hg2, k1, k2⟩ := k.group g1 hg1
    exact ⟨g2, hg2, k1.trans h1, fun n hn => (k2 n hn).trans (h2 n hn)⟩
  · obtain ⟨th1, hth1, h1⟩ := h.members t ht th hth
    obtain ⟨th2, hth2, k1⟩ := k.members t ht th1 hth1
    exact ⟨th2, hth2, keepsThread_trans h1 k1⟩

theorem framed_modThread {t : Nat} {f : Thread → Thread} (ht : t ∈ u.tids) (hf : ∀ th, s.thread u.wg t = some th → keepsThread th (f th) pd (namedBy d th)) :
    Framed u d pd s (s.modThread u.wg t f) := by
  refine ⟨rfl, fun _ => rfl, fun w hw => State.wg_modThread_other s f hw, fun g hg => ?_,
    fun v hv => State.thread_modThread_other s f (.inr fun h => hv (h ▸ ht)), fun v hv th hth => ?_⟩
  · exact ⟨_, (State.wg_modWg_same ..).trans (congrArg (Option.map _) hg), rfl, fun _ _ => rfl⟩
  · by_cases h : v = t
    · subst h
      exact ⟨_, (State.thread_modThread_same ..).trans (congrArg (Option.map f) hth), hf th hth⟩
    · exact ⟨th, (State.thread_modThread_other s f (.inr h)).trans hth, keepsThread_refl ..⟩

theorem framed_latches (k : Nat) (f : List Latch → List Latch) :
    Framed u d pd s (s.modCore k (fun c => { c with latches := f c.latches })) := by
  refine ⟨rfl, fun j => ?_, fun _ _ => rfl, fun g h => ⟨g, h, rfl, fun _ _ => rfl⟩, fun _ _ => rfl, fun _ _ th h => ⟨th, h, keepsThread_refl ..⟩⟩
  by_cases h : j = k
  · subst h
    rw [State.core_modCore_same]
  · rw [State.core_modCore_other s _ h]

theorem framed_kreg (n : Fin 64) (x : Word) : Framed u (.k n) pd s (s.modWg u.wg (fun g => { g with kregs := g.kregs.set n.val x })) := by
  refine ⟨rfl, fun _ => rfl, fun w hw => State.wg_modWg_other s _ hw, fun g hg => ?_, fun t _ => ?_, fun t _ th hth => ⟨th, ?_, keepsThread_refl ..⟩⟩
  · exact ⟨_, (State.wg_modWg_same ..).trans (congrArg (Option.map _) hg), rfl, fun m hm => List.getElem?_set_ne (hm n rfl)⟩
  · exact State.thread_modWg_keep s u.wg u.wg t _ (fun _ => rfl)
  · exact (State.thread_modWg_keep s u.wg u.wg t (fun g => { g with kregs := g.kregs.set n.val x }) (fun _ => rfl)).trans hth

theorem framed_unlatch (t : Nat) (r : Nat × Nat) : Framed u d pd s (s.unlatch u.wg t r) := by
  unfold State.unlatch
  split
  · split
    · exact framed_refl s
    · exact framed_latches _ (fun ls => ls.filter _)
  · exact framed_refl s

theorem framed_put {t : Nat} (ht : t ∈ u.tids) (x : Word) : Framed u d pd s (s.put u.wg t d x) := by
  unfold State.put
  split
  · rename_i j
    have hset : ∀ s : State, Framed u (.v j) pd s (s.modThread u.wg t (fun th => th.setReg j.val x)) :=
      fun s => framed_modThread ht fun th _ => keepsThread_setReg th j x pd
    dsimp only
    split
    · rename_i r _
      exact framed_trans (framed_unlatch t r) (hset _)
    · exact hset s
  · exact framed_kreg ..
  · exact framed_refl s

theorem framed_foldl {f : State → Nat → State} : ∀ (ts : List Nat) (s : State),
    (∀ t ∈ ts, ∀ s, Framed u d pd s (f s t)) → Framed u d pd s (ts.foldl f s)
  | [], s, _ => framed_refl s
  | t :: ts, s, h => framed_trans (h t (by simp) s) (framed_foldl ts _ fun v hv => h v (List.mem_cons_of_mem _ hv))

theorem framed_putPred {ts : List Nat} (hts : ∀ t ∈ ts, t ∈ u.tids) (n : Nat) (b : Bool) : Framed u d (some n) s (s.putPred u.wg ts n b) := by
  unfold State.putPred
  split
  · exact framed_refl s
  · exact framed_foldl ts s fun t ht s => framed_modThread (hts t ht) fun th _ => keepsThread_setPred th n b _

theorem framed_start (i : Instr) (c : Ctl) : Framed u d pd { s with cur := none } (start s i c u) := by
  unfold start State.latch
  extract_lets src new
  clear_value new
  split
  · exact framed_refl _
  · exact framed_latches u.core (fun ls => new ++ ls.filterMap _)

theorem framed_issued {t : Nat} (c : Ctl) (ht : t ∈ u.tids) : Framed u d pd s (s.issued u.wg t c) := by
  refine framed_modThread ht fun th _ => ⟨rfl, ?_, fun _ _ => rfl, fun r _ => ?_⟩
  · rw [frameShapes_eq, frameShapes_eq, List.map_map]
    rfl
  · exact frameGet_map th.frames (fun _ => rfl) fun _ _ => rfl

theorem framed_goOn {t : Nat} (c : Ctl) (ht : t ∈ u.tids) : Framed u d pd s (goOn s u.wg t c) := by
  refine framed_trans (framed_modThread ht fun th _ => ?_) (framed_issued c ht)
  exact keepsThread_advance th pd _

theorem framed_passBy {t : Nat} (c : Ctl) (ht : t ∈ u.tids) : Framed u d pd s (passBy s u.wg t c) := by
  exact framed_trans (framed_modThread ht fun th _ => keepsThread_advance th pd _) (framed_issued c ht)

theorem framed_ran {i : Instr} {c : Ctl} {act : State → Nat → List Nat → State}
    (ha : ∀ s t ts, t ∈ u.tids → (∀ v ∈ ts, v ∈ u.tids) → Framed u d pd s (act s t ts)) : Framed u d pd { s with cur := none } (ran s i c u act) := by
  unfold ran
  refine framed_trans (framed_start i c) ?_
  dsimp only
  split
  · have hoff : Framed u d pd (start s i c u) ((u.tids.filter (fun t => !guardOf (start s i c u) u.wg t c)).foldl (fun s t => goOn s u.wg t c)
        (start s i c u)) := framed_foldl _ _ fun t ht _ => framed_goOn c (List.mem_of_mem_filter ht)
    split
    · exact hoff
    · rename_i t ts hon
      have hin : ∀ v ∈ t :: ts, v ∈ u.tids := fun v hv => List.mem_of_mem_filter (hon ▸ hv)
      refine framed_trans hoff (framed_trans (ha _ t (t :: ts) (hin t (by simp)) hin) ?_)
      exact framed_foldl _ _ fun v hv _ => framed_goOn c (hin v hv)
  · refine framed_foldl _ _ fun t ht s => ?_
    split
    · exact framed_trans (ha s t [t] ht (by simpa using ht)) (framed_goOn c ht)
    · exact framed_passBy c ht

end

/-! ## The register instructions -/

/-- The instruction goes on, and changes nothing beyond D and PD. -/
def Written (i : Instr) (c : Ctl) (d : Opnd) (pd : Option Nat) : Prop :=
  ∀ s u, Bundle s i c u → ∃ s', exec i s = .next s' ∧ Framed u d pd { s with cur := none } s'

/-- The word g reads of its context only the workgroup and the thread. -/
def OfThread {α : Type} (g : State → State → Ctx → α) : Prop := ∀ s s' x y, x.w = y.w → x.t = y.t → g s s' x = g s s' y

theorem written_put {i : Instr} {c : Ctl} {d : Opnd} {pd : Option Nat} {g : State → State → Ctx → Word}
    (h : ∀ s, exec i s = isa i c (fun s' x => .adv (s'.put x.w x.t d (g s s' x))) s)
    (hg : OfThread g := by intro s s' x y hw ht; simp only [hw, ht]) : Written i c d pd := by
  intro s u hb
  refine ⟨_, (h s).trans (isa_ran hb (act := fun s' t _ => s'.put u.wg t d (g s s' (ctx i c u t))) (fun s' x hw _ => ?_)
    fun s' t => keeps_put ..), framed_ran fun s' t ts ht _ => framed_put ht _⟩
  rw [hg s s' x (ctx i c u x.t) hw rfl, hw]

theorem written_putPred {i : Instr} {c : Ctl} {d : Opnd} {n : Nat} {b : State → State → Ctx → Bool} {g : State → State → Ctx → Word}
    (h : ∀ s, exec i s = isa i c (fun s' x => .adv ((s'.putPred x.w x.ts n (b s s' x)).put x.w x.t d (g s s' x))) s)
    (hb : OfThread b := by intro s s' x y hw ht; simp only [hw, ht])
    (hg : OfThread g := by intro s s' x y hw ht; simp only [hw, ht]) : Written i c d (some n) := by
  intro s u hbu
  refine ⟨_, (h s).trans (isa_ran hbu
    (act := fun s' t ts => (s'.putPred u.wg ts n (b s s' (ctx i c u t))).put u.wg t d (g s s' (ctx i c u t))) (fun s' x hw _ => ?_)
    fun s' t => (keeps_putPred_one ..).trans (keeps_put ..)),
    framed_ran fun s' t ts ht hts => framed_trans (framed_putPred hts n _) (framed_put ht _)⟩
  rw [hg s s' x (ctx i c u x.t) hw rfl, hb s s' x (ctx i c u x.t) hw rfl, hw]

/-- The predicate that an instruction names as PD. -/
def pdOf (p : Parts) : Option Nat := match p.body with
  | .f3 o => some o.pd.val
  | .fi o => some o.pd.val
  | _ => none

theorem written_of_parts {i : Instr} {p : Parts} (hp : i.parts = some p) (ho : p.opc < 0x095 ∨ (0x100 ≤ p.opc ∧ p.opc ≤ 0x104)) :
    Written i p.c i.dstOpnd (pdOf p) := by
  cases i with
  | add c o => cases hp; exact written_put (exec_add c o)
  | addImm c o => cases hp; exact written_put (exec_addImm c o)
  | sub c o => cases hp; exact written_put (exec_sub c o)
  | subImm c o => cases hp; exact written_put (exec_subImm c o)
  | mul c o => cases hp; exact written_put (exec_mul c o)
  | mulImm c o => cases hp; exact written_put (exec_mulImm c o)
  | mulh c o => cases hp; exact written_put (exec_mulh c o)
  | mad c o => cases hp; exact written_put (exec_mad c o)
  | div c o => cases hp; exact written_put (exec_div c o)
  | rem c o => cases hp; exact written_put (exec_rem c o)
  | neg c o => cases hp; exact written_put (exec_neg c o)
  | abs c o => cases hp; exact written_put (exec_abs c o)
  | min c o => cases hp; exact written_put (exec_min c o)
  | minImm c o => cases hp; exact written_put (exec_minImm c o)
  | max c o => cases hp; exact written_put (exec_max c o)
  | maxImm c o => cases hp; exact written_put (exec_maxImm c o)
  | sad c o => cases hp; exact written_put (exec_sad c o)
  | and c o => cases hp; exact written_put (exec_and c o)
  | andImm c o => cases hp; exact written_put (exec_andImm c o)
  | or c o => cases hp; exact written_put (exec_or c o)
  | orImm c o => cases hp; exact written_put (exec_orImm c o)
  | xor c o => cases hp; exact written_put (exec_xor c o)
  | xorImm c o => cases hp; exact written_put (exec_xorImm c o)
  | not c o => cases hp; exact written_put (exec_not c o)
  | shl c o => cases hp; exact written_put (exec_shl c o)
  | shlImm c o => cases hp; exact written_put (exec_shlImm c o)
  | shr c o => cases hp; exact written_put (exec_shr c o)
  | shrImm c o => cases hp; exact written_put (exec_shrImm c o)
  | sar c o => cases hp; exact written_put (exec_sar c o)
  | sarImm c o => cases hp; exact written_put (exec_sarImm c o)
  | rot c o => cases hp; exact written_put (exec_rot c o)
  | rotImm c o => cases hp; exact written_put (exec_rotImm c o)
  | clz c o => cases hp; exact written_put (exec_clz c o)
  | ctz c o => cases hp; exact written_put (exec_ctz c o)
  | popc c o => cases hp; exact written_put (exec_popc c o)
  | brev c o => cases hp; exact written_put (exec_brev c o)
  | sel c o =>
    cases hp
    exact written_put (exec_sel c o) (fun s s' x y hw ht => by
      rw [hw, ht, show selPred s' x o.sub.toNat = selPred s' y o.sub.toNat by simp only [selPred, hw, ht]])
  | cmp c o => cases hp; exact written_putPred (exec_cmp c o)
  | cmpImm c o => cases hp; exact written_putPred (exec_cmpImm c o)
  | mov c o => cases hp; exact written_put (exec_mov c o)
  | movi c o => cases hp; exact written_put (exec_movi c o)
  | movh c o => cases hp; exact written_put (exec_movh c o)
  | ext c o => cases hp; exact written_put (exec_ext c o)
  | lea c o => cases hp; exact written_put (exec_lea c o)
  | pack c o => cases hp; exact written_put (exec_pack c o)
  | unpack c o => cases hp; exact written_put (exec_unpack c o)
  | swz c o => cases hp; exact written_put (exec_swz c o)
  | dot4 c o => cases hp; exact written_put (exec_dot4 c o)
  | bfx c o => cases hp; exact written_put (exec_bfx c o)
  | bfi c o => cases hp; exact written_put (exec_bfi c o)
  | bmm8 c o => cases hp; exact written_put (exec_bmm8 c o)
  | pdep c o => cases hp; exact written_put (exec_pdep c o)
  | pext c o => cases hp; exact written_put (exec_pext c o)
  | bperm c o => cases hp; exact written_put (exec_bperm c o)
  | fadd c o => cases hp; exact written_put (exec_fadd c o)
  | faddImm c o => cases hp; exact written_put (exec_faddImm c o)
  | fsub c o => cases hp; exact written_put (exec_fsub c o)
  | fsubImm c o => cases hp; exact written_put (exec_fsubImm c o)
  | fmul c o => cases hp; exact written_put (exec_fmul c o)
  | fmulImm c o => cases hp; exact written_put (exec_fmulImm c o)
  | ffma c o => cases hp; exact written_put (exec_ffma c o)
  | fmin c o => cases hp; exact written_put (exec_fmin c o)
  | fminImm c o => cases hp; exact written_put (exec_fminImm c o)
  | fmax c o => cases hp; exact written_put (exec_fmax c o)
  | fmaxImm c o => cases hp; exact written_put (exec_fmaxImm c o)
  | fcmp c o => cases hp; exact written_putPred (exec_fcmp c o)
  | fcmpImm c o => cases hp; exact written_putPred (exec_fcmpImm c o)
  | fclass c o => cases hp; exact written_putPred (exec_fclass c o)
  | frnd c o => cases hp; exact written_put (exec_frnd c o)
  | cvt c o => cases hp; exact written_put (exec_cvt c o)
  | fdot2 c o => cases hp; exact written_put (exec_fdot2 c o)
  | exp2 c fn o => cases hp; exact written_put (exec_exp2 c fn o)
  | log2 c fn o => cases hp; exact written_put (exec_log2 c fn o)
  | rcp c fn o => cases hp; exact written_put (exec_rcp c fn o)
  | rsqrt c fn o => cases hp; exact written_put (exec_rsqrt c fn o)
  | sqrt c fn o => cases hp; exact written_put (exec_sqrt c fn o)
  | sin c fn o => cases hp; exact written_put (exec_sin c fn o)
  | cos c fn o => cases hp; exact written_put (exec_cos c fn o)
  | tanh c fn o => cases hp; exact written_put (exec_tanh c fn o)
  | sigm c fn o => cases hp; exact written_put (exec_sigm c fn o)
  | erf c fn o => cases hp; exact written_put (exec_erf c fn o)
  | shfl c o => cases hp; exact written_putPred (exec_shfl c o)
  | vote c o => cases hp; exact written_putPred (exec_vote c o)
  | voteImm c o => cases hp; exact written_putPred (exec_voteImm c o)
  | matchT c o => cases hp; exact written_putPred (exec_matchT c o)
  | redTeam c o => cases hp; exact written_put (exec_redTeam c o)
  | redTeamImm c o => cases hp; exact written_put (exec_redTeamImm c o)
  | scanTeam c o => cases hp; exact written_put (exec_scanTeam c o)
  | scanTeamImm c o => cases hp; exact written_put (exec_scanTeamImm c o)
  | _ => cases hp <;> exact absurd ho (by simp)

/-- Settles O45: every register instruction is a write of D, or of PD and D, in the threads of its bundle. -/
theorem registerInstructionsFrame : Obligations.RegisterInstructionsFrame := by
  intro i p s s' u d pd hp ho hb hexec
  obtain ⟨s2, h2, hf⟩ := written_of_parts hp ho s u hb
  obtain rfl : s' = s2 := by
    have := hexec.symm.trans h2
    cases this
    rfl
  exact ⟨hf.rest, hf.cores, hf.others, hf.group, hf.strangers, hf.members⟩

end Sys2Proof.Proofs
end


section
/-! PROOFS. Engine commands, completion bitmaps and cp.resume (R317 to R329, R335). -/
namespace Sys2Proof.Proofs
open Sys2Proof.Machine Sys2Proof.Safety Sys2Proof.Laws

section
variable {i : Instr} {c : Ctl} {o : FX} {s s1 : State} {u : Cur} {t opk : Nat} {bs : List Byte} {bar : Option (Nat × Barrier)} {g : Workgroup}
  {rs : List (Option Nat × Nat)}

/-! ## Steps 6 and 7 of R318 -/

/-- The thread's own staged bytes are dropped. -/
def unstaged (s : State) (u : Cur) (t : Nat) : State := s.dropStage (.thread u.wg t)

/-- The record of a command that is issued. -/
def issuedBitmap (s : State) (c : Ctl) (o : FX) (u : Cur) (t opk : Nat) (bs : List Byte) (bar : Option Nat)
    (recv : List (Option Nat × Nat)) : Bitmap :=
  let guard := if o.xsub.toNat.testBit 13 then some (o.xsub.toNat % 2 ^ 12) else none
  { st := if guard.isSome then 5 else 1, opk := opk, units := descUnits opk (leNat bs), desc := bs, barrier := bar, guard := guard
    recv := recv, tid := t, pc := u.pc, op := s.nextId, hint := c.ch.val }

/-- The state with the command in its bitmap and its queue, its barrier charged. -/
def commanded (s : State) (i : Instr) (c : Ctl) (o : FX) (u : Cur) (t opk : Nat) (bs : List Byte) (bar : Option Nat)
    (recv : List (Option Nat × Nat)) : State :=
  let s2 := ((withOp s (opOf s i u t (.engine o.cb.val) .vz [])).modBitmap u.wg o.cb.val
    (fun _ => issuedBitmap s c o u t opk bs bar recv)).modWg u.wg (fun g => { g with eq := g.eq ++ [s.nextId] })
  match bar with
  | some m => s2.addTx u.wg m (unitsCharge opk (leNat bs) 0 : Int)
  | none => s2

theorem engineIssue_waits {bar : Option Nat} {recv : List (Option Nat × Nat)}
    (h : (s.bitmap u.wg o.cb.val).st = 1 ∨ (s.bitmap u.wg o.cb.val).st = 5) : engineIssue i opk o s (ctx i c u t) bs bar recv =
      .wait (unstaged (s.modThread u.wg t (fun th => { th with hold := some (.command bs bar recv) })) u t) := by
  unfold engineIssue
  exact if_pos (by simpa using h)

theorem engineIssue_over {bar : Option Nat} {recv : List (Option Nat × Nat)} (h1 : (s.bitmap u.wg o.cb.val).st ≠ 1)
    (h5 : (s.bitmap u.wg o.cb.val).st ≠ 5) (hc : s.overCharged u.wg bar (unitsCharge opk (leNat bs) 0) = true) :
    engineIssue i opk o s (ctx i c u t) bs bar recv = .trap 0xC7 0 none (s.modThread u.wg t (fun th => { th with hold := none })) := by
  unfold engineIssue
  exact (if_neg (by simp [h1, h5])).trans (if_pos hc)

theorem engineIssue_goes {bar : Option Nat} {recv : List (Option Nat × Nat)} (h1 : (s.bitmap u.wg o.cb.val).st ≠ 1)
    (h5 : (s.bitmap u.wg o.cb.val).st ≠ 5) (hc : s.overCharged u.wg bar (unitsCharge opk (leNat bs) 0) = false) :
    engineIssue i opk o s (ctx i c u t) bs bar recv = .adv (commanded s i c o u t opk bs bar recv) := by
  unfold engineIssue
  refine (if_neg (by simp [h1, h5])).trans ((if_neg (by simp [hc])).trans ?_)
  rw [openOp_ctx]
  simp only [bits_low]
  rfl

/-! ## Steps 1 to 5 of R318 -/

/-- What a command does after its checks. -/
def afterChecks (i : Instr) (opk : Nat) (o : FX) (x : Ctx) :
    Except (Nat × Nat) (List Byte × Option Nat × List (Option Nat × Nat)) × State → Act
  | (.error (0, _), s) => .wait s
  | (.error (f, a), s) => .trap f a none s
  | (.ok (bs, bar, recv), s) => engineIssue i opk o s x bs bar recv

theorem afterChecks_fails {x : Ctx} {f a : Nat} (hf : f ≠ 0) : afterChecks i opk o x (.error (f, a), s) = .trap f a none s := by
  cases f with
  | zero => exact absurd rfl hf
  | succ f => rfl

/-- A command that has passed its checks goes to step 6 again with what it keeps. -/
theorem engine_kept {m : Option Nat} {r : List (Option Nat × Nat)} {a : Act} (hh : (s.thread u.wg t).bind (·.hold) = some (.command bs m r))
    (ha : engineIssue i opk o (start s i c u) (ctx i c u t) bs m r = a) :
    engineThrough i opk o (start s i c u) (ctx i c u t) = a.after (.thread u.wg t) := by
  unfold engineThrough
  rw [ctx_w, ctx_t, start_thread, hh]
  exact congrArg (Act.after _) ha

theorem engine_first {r : Except (Nat × Nat) (List Byte × Option Nat × List (Option Nat × Nat)) × State} {a : Act}
    (hh : (s.thread u.wg t).bind (·.hold) = none) (hr : engineChecks opk o (start s i c u) (ctx i c u t) = r)
    (ha : afterChecks i opk o (ctx i c u t) r = a) :
    engineThrough i opk o (start s i c u) (ctx i c u t) = a.after (.thread u.wg t) := by
  unfold engineThrough
  rw [ctx_w, ctx_t, start_thread, hh, hr, ← ha]
  obtain ⟨(⟨_ | f, a⟩ | ⟨bs, bar, recv⟩), s2⟩ := r <;> rfl

section
variable {desc : Except (Nat × Nat) (List Byte) × State}

theorem checks_misaligned (ha : (s.src u.wg t o.a).toNat % descAlign opk ≠ 0) :
    engineChecks opk o (start s i c u) (ctx i c u t) = (.error (0x2D, (s.src u.wg t o.a).toNat), start s i c u) := by
  unfold engineChecks
  rw [ctx_w, ctx_t, start_src]
  exact if_pos (by simpa using ha)

/-- The checks behind the descriptor's bytes. -/
def behindRead (opk : Nat) (o : FX) (u : Cur) (t : Nat) (g : Workgroup) (bs : List Byte) (s : State) :
    Except (Nat × Nat) (List Byte × Option Nat × List (Option Nat × Nat)) × State :=
  if badDesc opk (leNat bs) then (.error (0xA0, 0), s)
  else match namedBarrier s u.wg o with
    | .error f => (.error (f, 0), s)
    | .ok bar =>
      if (match bar with
        | some (_, b) => decide (txMax - 1 < b.tx + (unitsCharge opk (leNat bs) 0 : Int))
        | none => false) then (.error (0xC7, 0), s)
      else match (if opk = 3 then receivers g (setBits 64 (s.src u.wg t o.b).toNat) else .ok []) with
        | .error f => (.error (f, 0), s)
        | .ok rs => (.ok (bs, bar.map (·.1), if opk = 3 then distinctRecv [(none, u.wg)] rs else []), s)

theorem checks_unread {f a : Nat} (hal : (s.src u.wg t o.a).toNat % descAlign opk = 0)
    (hd : readDesc (start s i c u) (ctx i c u t) (s.src u.wg t o.a).toNat (descSize opk) = (.error (f, a), s1)) :
    engineChecks opk o (start s i c u) (ctx i c u t) = (.error (f, a), s1) := by
  unfold engineChecks
  rw [ctx_w, ctx_t, start_src]
  refine (if_neg (by simpa using hal)).trans ?_
  simp only [hd]

theorem checks_read (hal : (s.src u.wg t o.a).toNat % descAlign opk = 0)
    (hd : readDesc (start s i c u) (ctx i c u t) (s.src u.wg t o.a).toNat (descSize opk) = (.ok bs, s1)) (hg : s.wg u.wg = some g) :
    engineChecks opk o (start s i c u) (ctx i c u t) = behindRead opk o u t g bs s1 := by
  unfold engineChecks
  rw [ctx_w, ctx_t, start_src, start_wg, hg]
  refine (if_neg (by simpa using hal)).trans ?_
  simp only [hd]
  rfl

theorem behind_malformed (hb : badDesc opk (leNat bs) ≠ false) : behindRead opk o u t g bs s = (.error (0xA0, 0), s) :=
  if_pos (by simpa using hb)

theorem namedBarrier_error {w f : Nat} (h : namedBarrier s w o = .error f) : f = 0xC8 := by
  unfold namedBarrier at h
  split at h
  · cases h
  · split at h <;> cases h
    rfl

theorem behind_unnamed {f : Nat} (hb : badDesc opk (leNat bs) = false) (hn : namedBarrier s u.wg o = .error f) :
    behindRead opk o u t g bs s = (.error (f, 0), s) := by
  refine (if_neg (by simp [hb])).trans ?_
  rw [hn]

/-- A barrier would leave the range of R134 with a charge. -/
def tooMuch (bar : Option (Nat × Barrier)) (n : Nat) : Bool := bar.any (fun b => decide (txMax - 1 < b.2.tx + (n : Int)))

theorem tooMuch_iff (n : Nat) : tooMuch bar n = false ↔ ∀ m b, bar = some (m, b) → b.tx + (n : Int) ≤ 2 ^ 47 - 1 := by
  cases bar with
  | none => simp [tooMuch]
  | some b =>
    obtain ⟨m, b⟩ := b
    rw [tooMuch, Option.any_some, decide_eq_false_iff_not, not_lt]
    exact ⟨fun h m' b' hb => by cases hb; exact h, fun h => h m b rfl⟩

theorem behind_named (hb : badDesc opk (leNat bs) = false) (hn : namedBarrier s u.wg o = .ok bar) :
    behindRead opk o u t g bs s = if tooMuch bar (unitsCharge opk (leNat bs) 0) then (.error (0xC7, 0), s)
      else match (if opk = 3 then receivers g (setBits 64 (s.src u.wg t o.b).toNat) else .ok []) with
        | .error f => (.error (f, 0), s)
        | .ok rs => (.ok (bs, bar.map (·.1), if opk = 3 then distinctRecv [(none, u.wg)] rs else []), s) := by
  refine (if_neg (by simp [hb])).trans ?_
  rw [hn]
  cases bar <;> rfl

theorem receivers_error {f : Nat} : ∀ {ks : List Nat}, receivers g ks = .error f → f = 0x26 ∨ f = 0x27
  | [], h => by cases h
  | k :: ks, h => by
    rw [receivers] at h
    split at h
    · cases h
      exact .inl rfl
    · split at h
      · cases h
        exact .inr rfl
      · cases hr : receivers g ks with
        | error f' =>
          rw [hr] at h
          cases h
          exact receivers_error hr
        | ok l =>
          rw [hr] at h
          cases h

/-- The barrier that NUM names is the one whose TX the charge meets. -/
theorem overCharged_named {w n : Nat} (hn : namedBarrier s w o = .ok bar) : s.overCharged w (bar.map (·.1)) n = tooMuch bar n := by
  unfold namedBarrier at hn
  split at hn
  · cases hn
    rfl
  · split at hn
    · rename_i b hb
      cases hn
      unfold State.barrier at hb
      split at hb
      · rename_i g l hg hl
        split at hb
        · cases hb
        · unfold State.overCharged tooMuch
          simp only [Option.map_some, Option.bind_some, hg, Option.some.inj hb, Option.any_some]
      · cases hb
    · cases hn

end

section
variable (hx : ∀ s, exec i s = isa i c (engineThrough i opk o) s) (h : Alone s i c u t)
include hx h

theorem engine_waits (ha : engineThrough i opk o (start s i c u) (ctx i c u t) = (Act.wait s1).after (.thread u.wg t)) :
    exec i s = .next s1 := waits_alone h (hx s) ha

theorem engine_goes (ha : engineThrough i opk o (start s i c u) (ctx i c u t) = (Act.adv s1).after (.thread u.wg t)) :
    exec i s = .next (goOn (unstaged s1 u t) u.wg t c) := goes_alone h (hx s) ha

theorem engine_faults {f a : Nat} (ha : engineThrough i opk o (start s i c u) (ctx i c u t) = (Act.trap f a none s1).after (.thread u.wg t)) :
    exec i s = .next (faulted (unstaged s1 u t) u t f a c) := (hx s).trans (isa_alone_fault h ha)

theorem engine_traps {f a : Nat} (ha : engineThrough i opk o (start s i c u) (ctx i c u t) = (Act.trap f a none s1).after (.thread u.wg t))
    (hf : lateCode f = false) : exec i s = .next (traps (unstaged s1 u t) u t f a) := traps_alone h (hx s) ha hf

end
end

/-! ## Completion bitmaps (R320, R321, R329) -/

theorem ofN_mod (x : Nat) : ofN (x % 2 ^ 64) = ofN x := by
  exact BitVec.eq_of_toNat_eq (by rw [toNat_ofN, toNat_ofN, Nat.mod_mod])

/-- The word of a bitmap that index j names. -/
def bitmapWord (b : Bitmap) (j : Nat) : Word := if j < 64 then ofN (b.bits / 2 ^ (64 * j) % 2 ^ 64) else if j = 64 then b.status else 0

theorem gives_cbRd (c : Ctl) (o : F3) : Gives (.cbRd c o) c (fun u => sets u o.d (fun s t =>
    bitmapWord (s.bitmap u.wg (o.sub.toNat % 8)) ((s.src u.wg t o.a).toNat % 2 ^ 7))) := by
  refine gives_sets (fun s w t => bitmapWord (s.bitmap w (o.sub.toNat % 8)) ((s.src w t o.a).toNat % 2 ^ 7)) fun s => ?_
  simp only [bitmapWord, ofN_mod]
  rfl

theorem popN_le (n x : Nat) : popN n x ≤ n := by
  rw [popN_eq_countP]
  simpa using List.countP_le_length (p := fun j => x.testBit j) (l := List.range n)

theorem status_fields {b : Bitmap} (h1 : b.st < 16) (h2 : b.code < 2 ^ 8) (h3 : b.funit < 2 ^ 12) (h4 : b.opk < 8) (h5 : b.units ≤ 4096) :
    b.status.toNat / 2 ^ 60 = b.st ∧ b.status.toNat / 2 ^ 52 % 2 ^ 8 = b.code ∧ b.status.toNat / 2 ^ 40 % 2 ^ 12 = b.funit ∧
      b.status.toNat / 2 ^ 37 % 2 ^ 3 = b.opk ∧ b.status.toNat / 2 ^ 13 % 2 ^ 13 = ((List.range b.units).filter b.bits.testBit).length ∧
      b.status.toNat % 2 ^ 13 = b.units := by
  have h6 := popN_le b.units b.bits
  have hp : popN b.units b.bits = ((List.range b.units).filter b.bits.testBit).length := by
    rw [popN_eq_countP, List.countP_eq_length_filter]
  rw [← hp]
  simp only [Bitmap.status, ofN, BitVec.toNat_ofNat]
  omega

theorem bitmap_start (w n : Nat) : (start s i c u).bitmap w n = s.bitmap w n := by simp [State.bitmap]

/-- What cp.resume does in a thread, once the barrier is named and a command was issued. -/
def resumes (s : State) (c : Ctl) (o : FX) (u : Cur) (t : Nat) (m : Option (Nat × Barrier)) : Act :=
  let st := (s.bitmap u.wg o.cb.val).st
  if st = 1 || st = 5 then .wait s
  else if st = 3 then
    (match moveCharge s u.wg o.cb.val (m.map (·.1)) with
    | .error f => .trap f 0 none s
    | .ok s => .adv (s.rerun u.wg t o.cb.val u.pc))
  else .adv ((withOp s (opOf s (.cpResume c o) u t (.local []) .vz [])).finish s.nextId [])

theorem cpResume_named {m : Option (Nat × Barrier)} (h : Alone s (.cpResume c o) c u t) (h0 : (s.bitmap u.wg o.cb.val).st ≠ 0)
    (hn : namedBarrier (start s (.cpResume c o) c u) u.wg o = .ok m) :
    exec (.cpResume c o) s = .next (ended s (.cpResume c o) c u t (resumes (start s (.cpResume c o) c u) c o u t m)) := by
  rw [exec_cpResume, execCpResume, isa_alone h]
  refine congrArg (fun a : Act => Host.Outcome.next (ended s (.cpResume c o) c u t a)) ?_
  rw [ctx_w, ctx_t, hn, openOp_ctx]
  exact if_neg (by rwa [bitmap_start])

theorem moveCharge_error {w n f : Nat} {m : Option Nat} (h : moveCharge s w n m = .error f) : f = 0xC7 := by
  unfold moveCharge at h
  split at h
  · cases h
  · dsimp only at h
    split at h
    · cases h
    · split at h <;> cases h
      rfl

/-! ## The obligation -/

/-- Settles O34: a command is its checks in order, then step 6 or 7; the bitmap's instructions are the cases of its state. -/
theorem engineCommandsAndBitmaps : Obligations.EngineCommandsAndBitmaps := by
  refine ⟨?_, ?_⟩
  · intro c o s u t opk i bs g bar rs s1 va d n charge left s0 desc known read good named room targets recv st guard issued waits hk h
    have hx : ∀ s, exec i s = isa i c (engineThrough i opk o) s := by
      simp only [known, List.mem_cons, Prod.mk.injEq, List.not_mem_nil, or_false] at hk
      obtain ⟨rfl, rfl⟩ | ⟨rfl, rfl⟩ | ⟨rfl, rfl⟩ | ⟨rfl, rfl⟩ | ⟨rfl, rfl⟩ := hk <;> exact fun _ => rfl
    refine ⟨fun m r hh => ⟨fun hst => ?_, fun h1 h5 hc => ?_, fun h1 h5 hc => ?_⟩, fun hh => ⟨fun hal => ?_, fun f a hal hd hf => ?_, fun a hal hd => ?_, fun hr hg => ?_, fun f hr hg hb => ?_, fun hr hg hb hm => ?_,
      fun f hr hg hb hm ho ht => ?_, fun hr hg hb hm ht hst => ?_, fun hr hg hb hm ht h1 h5 => ?_⟩⟩
    · exact engine_waits hx h (engine_kept hh (engineIssue_waits hst))
    · exact engine_goes hx h (engine_kept hh (engineIssue_goes h1 h5 hc))
    · exact engine_traps hx h (engine_kept hh (engineIssue_over h1 h5 hc)) rfl
    · exact engine_traps hx h (engine_first hh (checks_misaligned hal) rfl) rfl
    · exact engine_faults hx h (engine_first hh (checks_unread hal hd) (afterChecks_fails hf))
    · exact engine_waits hx h (engine_first hh (checks_unread hal hd) rfl)
    · obtain ⟨hal, hd, hwg⟩ := hr
      exact engine_traps hx h (engine_first hh ((checks_read hal hd hwg).trans (behind_malformed hg)) rfl) rfl
    · obtain ⟨hal, hd, hwg⟩ := hr
      obtain rfl := namedBarrier_error hb
      exact ⟨rfl, engine_traps hx h (engine_first hh ((checks_read hal hd hwg).trans (behind_unnamed hg hb)) rfl) rfl⟩
    · obtain ⟨hal, hd, hwg⟩ := hr
      have hover : tooMuch bar (unitsCharge opk (leNat bs) 0) = true := by
        rw [← Bool.not_eq_false]
        exact fun h0 => hm ((tooMuch_iff _).1 h0)
      exact engine_traps hx h (engine_first hh ((checks_read hal hd hwg).trans ((behind_named hg hb).trans (if_pos hover))) rfl) rfl
    · obtain ⟨hal, hd, hwg⟩ := hr
      have hcode := receivers_error ht
      have hf : f ≠ 0 ∧ lateCode f = false := by obtain rfl | rfl := hcode <;> decide
      have hroom : tooMuch bar (unitsCharge opk (leNat bs) 0) = false := (tooMuch_iff _).2 hm
      refine ⟨hcode, engine_traps hx h (engine_first hh ((checks_read hal hd hwg).trans ((behind_named hg hb).trans
        ((if_neg (by simp [hroom])).trans ?_))) (afterChecks_fails hf.1)) hf.2⟩
      rw [if_pos ho, ht]
    all_goals
      obtain ⟨hal, hd, hwg⟩ := hr
      have hroom : tooMuch bar (unitsCharge opk (leNat bs) 0) = false := (tooMuch_iff _).2 hm
      have hchecks : engineChecks opk o (start s i c u) (ctx i c u t) = (.ok (bs, bar.map (·.1), recv), s1) := by
        refine (checks_read hal hd hwg).trans ((behind_named hg hb).trans ((if_neg (by simp [hroom])).trans ?_))
        rw [show (if opk = 3 then receivers g (setBits 64 (s1.src u.wg t o.b).toNat) else .ok []) = .ok rs from ht]
    · exact engine_waits hx h (engine_first hh hchecks (engineIssue_waits hst))
    · exact engine_goes hx h (engine_first hh hchecks (engineIssue_goes h1 h5 ((overCharged_named hb).trans hroom)))
  · intro c o p s s1 u t m i n st s0 named
    refine ⟨gives_cbRd c o, fun b h1 h2 h3 h4 h5 => status_fields h1 h2 h3 h4 h5, fun h hst => ?_, fun h hm hst => ?_, fun h hm hst hc => ?_,
      fun h hm hst hc => ?_, fun h hm h0 h1 h3 h5 => ?_⟩
    · exact traps_alone h (exec_cpResume c p s) (if_pos (by rw [ctx_w, bitmap_start]; exact hst)) rfl
    · have hst0 : (s.bitmap u.wg p.cb.val).st = 1 ∨ (s.bitmap u.wg p.cb.val).st = 5 := hst
      refine (cpResume_named h (by omega) hm).trans ?_
      rw [resumes, bitmap_start]
      simp only [hst0, Bool.or_eq_true, decide_eq_true_eq, if_true]
      rfl
    · have hst0 : (s.bitmap u.wg p.cb.val).st = 3 := hst
      refine (cpResume_named h (by omega) hm).trans ?_
      rw [resumes, bitmap_start, hst0, show moveCharge (start s (.cpResume c p) c u) u.wg p.cb.val (m.map (·.1)) = .ok s1 from hc]
      rfl
    · have hst0 : (s.bitmap u.wg p.cb.val).st = 3 := hst
      obtain ⟨f, hc⟩ := hc
      obtain rfl := moveCharge_error hc
      refine (cpResume_named h (by omega) hm).trans ?_
      rw [resumes, bitmap_start, hst0, show moveCharge (start s (.cpResume c p) c u) u.wg p.cb.val (m.map (·.1)) = .error 0xC7 from hc]
      rfl
    · refine (cpResume_named h h0 hm).trans ?_
      have hact : resumes (start s i c u) c p u t m = .adv ((withOp s0 (opOf s0 i u t (.local []) .vz [])).finish s.nextId []) := by
        rw [resumes, bitmap_start, start_nextId]
        refine (if_neg ?_).trans (if_neg h3)
        simpa using ⟨h1, h5⟩
      rw [hact]
      rfl

end Sys2Proof.Proofs
end


section
/-! PROOFS. Accesses of the hardware that go through the networks: how they are tried, ask for lines, store and end (R57, R431). -/
namespace Sys2Proof.Proofs
open Sys2Proof.Machine Sys2Proof.Safety Sys2Proof.Laws

section
variable {s s1 : State} {o : Owner} {src : Src} {move : State → Option (Nat × Nat) × State}
  {ends : Option (Nat × Nat) → State → State} {st : Stage} {out : Option (Nat × Nat)}

/-- The state in which the stores of an access are acknowledged and its end is tried. -/
def landing (s : State) (o : Owner) : State := ({ s with blocked := false } : State).dropStage o

/-- The state in which an access is tried. -/
def trying (s : State) (o : Owner) (src : Src) : State := { s with blocked := false, net := some (o, src), wants := [], puts := [] }

/-- A tried access's stores leave. -/
def sent (s : State) (o : Owner) (src : Src) : Nat × State :=
  ({ s with net := none, wants := [], puts := [] } : State).sendPuts o src s.puts

theorem viaNet_stores (hs : s.stage o = some st) (hw : st.writing = true) (hl : st.left ≠ 0) : s.viaNet o src move ends = s := by
  rw [State.viaNet, hs]
  exact (if_pos hw).trans (if_pos (by simpa using hl))

theorem viaNet_lands (hs : s.stage o = some st) (hw : st.writing = true) (hl : st.left = 0) : s.viaNet o src move ends =
    if (ends st.out (landing s o)).blocked then { s with atsAsk := (ends st.out (landing s o)).atsAsk } else ends st.out (landing s o) := by
  rw [State.viaNet, hs]
  exact (if_pos hw).trans (if_neg (by simpa using hl))

theorem viaNet_asked (hs : s.stage o = some st) (hw : st.writing = false) (ha : st.asked ≠ []) : s.viaNet o src move ends = s := by
  rw [State.viaNet, hs]
  exact (if_neg (by simp [hw])).trans (if_pos (by simpa using ha))

theorem viaNet_wants (hs : s.stage o = none) (ht : move (trying s o src) = (out, s1)) (hb : s1.blocked = true) :
    s.viaNet o src move ends = ({ s with atsAsk := s1.atsAsk } : State).sendWants o s1.wants := by
  rw [State.viaNet, hs]
  refine (if_neg (by simp)).trans ((if_neg (by simp)).trans ?_)
  rw [show move { s with blocked := false, net := some (o, src), wants := [], puts := [] } = (out, s1) from ht]
  exact if_pos hb

theorem viaNet_tried (hs : s.stage o = none) (ht : move (trying s o src) = (out, s1)) (hb : s1.blocked = false) :
    s.viaNet o src move ends = ((sent s1 o src).2.modStage o (fun _ => { owner := o, writing := true, left := (sent s1 o src).1, out := out })).viaEnd o
      { owner := o, writing := true, left := (sent s1 o src).1, out := out } ends := by
  rw [State.viaNet, hs]
  refine (if_neg (by simp)).trans ((if_neg (by simp)).trans ?_)
  rw [show move { s with blocked := false, net := some (o, src), wants := [], puts := [] } = (out, s1) from ht]
  exact if_neg (by simp [hb])

theorem viaNet_sends (hs : s.stage o = none) (ht : move (trying s o src) = (out, s1)) (hb : s1.blocked = false)
    (hn : (sent s1 o src).1 ≠ 0) : s.viaNet o src move ends =
      (sent s1 o src).2.modStage o (fun _ => { owner := o, writing := true, left := (sent s1 o src).1, out := out }) :=
  (viaNet_tried hs ht hb).trans (if_pos (by simpa using hn))

/-- An access's own stage does not outlast its end. -/
theorem landing_modStage (f : Stage → Stage) (hf : ∀ x, (f x).owner = o) : landing (s.modStage o f) o = landing s o := by
  unfold landing State.modStage State.dropStage
  simp only [List.filter_cons, hf, bne_self_eq_false, Bool.false_eq_true, if_false, List.filter_filter, Bool.and_self]

theorem viaNet_ends (hs : s.stage o = none) (ht : move (trying s o src) = (out, s1)) (hb : s1.blocked = false)
    (hn : (sent s1 o src).1 = 0) (he : (ends out (landing (sent s1 o src).2 o)).blocked = false) :
    s.viaNet o src move ends = ends out (landing (sent s1 o src).2 o) := by
  refine (viaNet_tried hs ht hb).trans ((if_neg (by simpa using hn)).trans ?_)
  have hl : landing ((sent s1 o src).2.modStage o (fun _ => { owner := o, writing := true, left := (sent s1 o src).1, out := out })) o =
      landing (sent s1 o src).2 o := landing_modStage _ fun _ => rfl
  simp only [landing] at hl he ⊢
  rw [hl]
  exact if_neg (by simp [he])

theorem sent_nothing (hp : s1.puts = []) : sent s1 o src = (0, { s1 with net := none, wants := [], puts := [] }) := by
  unfold sent
  rw [hp]
  rfl

end

end Sys2Proof.Proofs
end


section
/-! PROOFS. Tensor addressing (R323) and the events of the engine (R134, R194, R318, R319). -/
namespace Sys2Proof.Proofs
open Sys2Proof.Machine Sys2Proof.Safety Sys2Proof.Laws

/-! ## Addresses of elements (R323) -/

/-- The index of element e in dimension k. -/
def indexOf (ds : List (Nat × Int × Int)) (e k : Nat) : Nat := e / ((ds.take k).map (·.1)).prod % ((ds[k]?).map (·.1)).getD 1

/-- How far element e stands from a base, by the strides that f names. -/
def reach (f : Nat × Int × Int → Int) (ds : List (Nat × Int × Int)) (e : Nat) : Int :=
  ((List.range ds.length).map (fun k => (indexOf ds e k : Int) * ((ds[k]?).map f).getD 0)).sum

theorem indexOf_succ (d : Nat × Int × Int) (ds : List (Nat × Int × Int)) (e k : Nat) : indexOf (d :: ds) e (k + 1) = indexOf ds (e / d.1) k := by
  simp [indexOf, Nat.div_div_eq_div_mul]

theorem reach_cons (f : Nat × Int × Int → Int) (d : Nat × Int × Int) (ds : List (Nat × Int × Int)) (e : Nat) :
    reach f (d :: ds) e = ((e % d.1 : Nat) : Int) * f d + reach f ds (e / d.1) := by
  unfold reach
  rw [List.length_cons, List.range_succ_eq_map, List.map_cons, List.sum_cons, List.map_map]
  congr 1
  · simp [indexOf]
  · refine congrArg List.sum (List.map_congr_left fun k _ => ?_)
    simp only [Function.comp, Nat.succ_eq_add_one, indexOf_succ, List.getElem?_cons_succ]

theorem wrapN_cast (x : Int) (n : Nat) : (wrapN x n : Int) = x % 2 ^ n := by
  have hpos : (0 : Int) < ((2 ^ n : Nat) : Int) := by exact_mod_cast Nat.two_pow_pos n
  rw [wrapN, Int.toNat_of_nonneg (Int.emod_nonneg x hpos.ne')]
  norm_num

theorem tensorAddr_eq : ∀ (ds : List (Nat × Int × Int)) (e : Nat) (src dst : Int),
    ((tensorAddr ds e src dst).1 : Int) = (src + reach (·.2.1) ds e) % 2 ^ 64 ∧
      ((tensorAddr ds e src dst).2 : Int) = (dst + reach (·.2.2) ds e) % 2 ^ 64
  | [], _, src, dst => by
    constructor
    · simpa [reach, tensorAddr] using wrapN_cast src 64
    · simpa [reach, tensorAddr] using wrapN_cast dst 64
  | (n, ss, ds) :: r, e, src, dst => by
    obtain ⟨h1, h2⟩ := tensorAddr_eq r (e / n) (src + ((e % n : Nat) : Int) * ss) (dst + ((e % n : Nat) : Int) * ds)
    rw [tensorAddr, h1, h2, reach_cons, reach_cons, add_assoc, add_assoc]
    exact ⟨rfl, rfl⟩

/-! ## Elements and units (R323) -/

/-- The elements of a tensor descriptor. -/
def extents (d : Nat) : Nat := ((List.range (d / 2 ^ 128 % 16)).map (fun k => d / 2 ^ (256 + 128 * k) % 2 ^ 32)).prod

theorem descCount_tensor (d : Nat) : descCount 0 d = extents d := by
  have hb : bits d 131 128 = d / 2 ^ 128 % 16 := bits_eq d 131 128
  have hdim : ∀ k, (dimOf d k).1 = d / 2 ^ (256 + 128 * k) % 2 ^ 32 := by
    intro k
    rw [dimOf, bits_low _ 31, bits_eq, show 383 + 128 * k + 1 - (256 + 128 * k) = 128 by omega]
    exact Nat.mod_mod_of_dvd _ (by norm_num)
  unfold descCount
  simp only [show ¬(((0 : Nat) = 1 || (0 : Nat) = 2) = true) by decide, if_false, show ¬(0 : Nat) = 4 by decide]
  rw [dimsOf, hb, List.foldl_map, extents, List.prod_eq_foldl, List.foldl_map]
  simp only [hdim]
  rfl

theorem unitRange_tensor (d u : Nat) : unitRange 0 d u = (u * ((extents d + 4095) / 4096), min ((u + 1) * ((extents d + 4095) / 4096)) (extents d)) := by
  unfold unitRange perUnit ceilDiv
  rw [descCount_tensor]
  rfl

theorem descUnits_tensor {d : Nat} (h : extents d ≠ 0) : let l := (extents d + 4095) / 4096
    descUnits 0 d = (extents d + l - 1) / l ∧ descUnits 0 d ≤ 4096 := by
  intro l
  have hu : descUnits 0 d = (extents d + l - 1) / l := by
    unfold descUnits perUnit ceilDiv
    rw [descCount_tensor]
    exact if_neg h
  have hl : 0 < l := by omega
  refine ⟨hu, ?_⟩
  rw [hu]
  refine Nat.lt_succ_iff.1 ((Nat.div_lt_iff_lt_mul hl).2 ?_)
  omega

/-! ## The events of the engine -/

section
variable {s s1 s2 : State} {w id n unit m f a k : Nat} {rest : List Nat} {g : Workgroup} {o : Op} {b : Bitmap}

/-- A resident workgroup's command at the head of its queue: its guard decides. -/
theorem dispatch_head (hg : s.wg w = some g) (hq : g.eq = id :: rest) (ho : tget s.ops id = some o) (hk : o.kind = .engine n)
    (hr : g.resid = .resident) :
    exec (.engineCommandDispatch w) s = .next (
      let popped := s.modWg w (fun g => { g with eq := rest })
      let begun := (popped.modBitmap w n (fun b => { b with st := 1, started := true })).checkCommand w n
      match (s.bitmap w n).guard with
      | none => begun
      | some k => match tget (s.part g.part).guards k with
        | none => s
        | some true => begun
        | some false => match (s.bitmap w n).barrier with
          | some m => (popped.endCommand w n 4).addTx w m (-(unitsCharge (s.bitmap w n).opk (leNat (s.bitmap w n).desc) 0 : Int))
          | none => popped.endCommand w n 4) := by
  rw [exec_engineCommandDispatch, execEngineCommandDispatch]
  simp only [hg, hq, ho, hk, hr]
  refine congrArg _ ((if_neg Bool.false_ne_true).trans ?_)
  cases (s.bitmap w n).guard with
  | none => rfl
  | some k =>
    cases tget (s.part g.part).guards k with
    | none => rfl
    | some r => cases r <;> rfl

theorem unitComplete_runs (hg : s.wg w = some g) (h1 : (s.bitmap w n).st = 1) (h2 : (s.bitmap w n).started = true)
    (h3 : unit < (s.bitmap w n).units) (h4 : (s.bitmap w n).bits.testBit unit = false) (h5 : (s.bitmap w n).failed.testBit unit = false)
    (hr : g.resid = .resident) (hs : g.saveFor = 0) : exec (.engineUnitComplete w n unit none) s = .next (s.runUnit w n unit 0 g) := by
  rw [exec_engineUnitComplete, execEngineUnitComplete]
  simp only [hg]
  exact congrArg _ (if_neg (by simp [h1, h2, h3, h4, h5, hr, hs]))

/-- A tried access that neither waits nor stores leaves a state that differs only in having been tried. -/
theorem tried_over (hb : s.blocked = false) (hp : s.puts = []) :
    ({ s with net := none, wants := [], puts := [], blocked := false } : State) = { s with net := none, wants := [] } := by
  cases s
  simp only at hb hp
  subst hb hp
  rfl

theorem unitEnd_fault (hf : f ≠ 0xC7) : s.unitEnd w n unit (some (f, a)) =
    ((s.modBitmap w n (fun b => { b with failed := b.failed + 2 ^ unit })).unitFault w n unit f a).checkCommand w n := by
  unfold State.unitEnd
  split
  · rename_i h
    cases h
  · rename_i h
    cases h
    exact absurd rfl hf
  · rename_i h
    cases h
    rfl

/-- The state with TX of a barrier set to a value. -/
def withTx (s : State) (w m : Nat) (x : Int) : State := s.modWg w (fun g => { g with bars := tmod g.bars m (fun b => { b with tx := x }) })

theorem lowerTx_eq {x : Barrier} {by_ : Nat} (hg : s.wg w = some g) (hx : tget g.bars m = some x) :
    s.lowerTx w m by_ = (
      let s' := if x.arr = x.exp ∧ 0 < x.tx ∧ x.tx ≤ by_ then (withTx s w m 0).openBarrier w m else s
      if x.tx - by_ < -txMax then (withTx s' w m (-txMax), true) else (withTx s' w m (x.tx - by_), false)) := by
  unfold State.lowerTx
  rw [hg, Option.bind_some, hx]
  have hc : (x.arr == x.exp && decide (0 < x.tx) && decide (x.tx ≤ (by_ : Int))) = decide (x.arr = x.exp ∧ 0 < x.tx ∧ x.tx ≤ by_) := by
    rw [Bool.and_assoc]
    rw [Bool.decide_and, Bool.decide_and, beq_eq_decide]
  dsimp only
  rw [hc]
  simp only [decide_eq_true_eq]
  rfl

/-- A barrier that opens as TX passes through 0 starts its next phase, with TX below 0. -/
theorem lowerTx_opens {x : Barrier} (hg : s.wg w = some g) (hx : tget g.bars m = some x) (y : Int) :
    ∃ g', (withTx ((withTx s w m 0).openBarrier w m) w m y).wg w = some g' ∧ tget g'.bars m = some { x with tx := y, ph := (x.ph + 1) % 2 ^ 32, arr := 0 } := by
  have h0 : (withTx s w m 0).wg w = some { g with bars := tmod g.bars m (fun b => { b with tx := 0 }) } :=
    (State.wg_modWg_same ..).trans (congrArg (Option.map _) hg)
  refine ⟨_, (State.wg_modWg_same ..).trans (congrArg (Option.map _) (wg_openBarrier h0)), ?_⟩
  rw [tget_tmod_same, tget_tmod_same, tget_tmod_same, hx]
  rfl

end

/-- Settles O35. -/
theorem tensorTransfers : Obligations.TensorTransfers := by
  refine ⟨fun ds e src dst d u => ⟨tensorAddr_eq ds e src dst, descCount_tensor d, unitRange_tensor d u, descUnits_tensor⟩, ?_⟩
  intro s s1 s2 w id n unit m f a k rest g o ms l b head popped running run owner tried one marked moves into others begins
  refine ⟨fun ⟨hg, hq, ho, hk⟩ hr hb => ?_, fun ⟨hg, hq, ho, hk⟩ hr hb ht => ?_, fun ⟨hg, hq, ho, hk⟩ hr hb ht => ?_,
    fun ⟨hg, hq, ho, hk⟩ hr hb ht hm => ?_, fun ⟨hg, hq, ho, hk⟩ hr hb ht hm => ?_,
    fun ⟨hg, h1, h2, h3, h4, h5, hr, hs⟩ => unitComplete_runs hg h1 h2 h3 h4 h5 hr hs,
    fun x hs hw hl => viaNet_stores hs hw hl, fun x hs hw ha => viaNet_asked hs hw ha, fun x hs hw hl hb => ?_,
    fun out hs ht hb => viaNet_wants hs ht hb, fun out hs ht hb hp he => ?_, fun a hm => ?_, fun hm hf => ?_, fun hm => ?_,
    fun hm hr hf => ?_, fun hm hr hf hk => ?_, fun hm hr hf hk => ?_, rfl, rfl, fun hf => ?_, fun x by_ hg hx hlow hno => ?_,
    fun x by_ hg hx hlow harr h0 hle => ?_⟩
  · refine (dispatch_head hg hq ho hk hr).trans ?_
    dsimp only
    rw [show (s.bitmap w n).guard = none from hb]
  · refine (dispatch_head hg hq ho hk hr).trans ?_
    dsimp only
    rw [show (s.bitmap w n).guard = some k from hb]
    dsimp only
    rw [ht]
  · refine (dispatch_head hg hq ho hk hr).trans ?_
    dsimp only
    rw [show (s.bitmap w n).guard = some k from hb]
    dsimp only
    rw [ht]
  · refine (dispatch_head hg hq ho hk hr).trans ?_
    dsimp only
    rw [show (s.bitmap w n).guard = some k from hb]
    dsimp only
    rw [ht, show (s.bitmap w n).barrier = none from hm]
  · refine (dispatch_head hg hq ho hk hr).trans ?_
    dsimp only
    rw [show (s.bitmap w n).guard = some k from hb]
    dsimp only
    rw [ht, show (s.bitmap w n).barrier = some m from hm]
  · exact (viaNet_lands hs hw hl).trans (if_neg (by rw [Bool.not_eq_true]; exact hb))
  · have hl : landing (sent s1 owner (.engine g.core)).2 owner = ({ s1 with net := none, wants := [] } : State).dropStage owner := by
      rw [sent_nothing hp]
      exact congrArg (State.dropStage · owner) (tried_over hb hp)
    exact (viaNet_ends hs ht hb (by rw [sent_nothing hp]) (by rw [hl]; exact he)).trans (by rw [hl])
  · unfold State.unitMove
    dsimp only
    rw [show movesOf s w (s.bitmap w n).opk (leNat (s.bitmap w n).desc) unit = _ from hm]
    rfl
  · unfold State.unitMove
    dsimp only
    rw [show movesOf s w (s.bitmap w n).opk (leNat (s.bitmap w n).desc) unit = _ from hm]
    cases f with
    | zero => exact absurd rfl hf
    | succ f => rfl
  · unfold State.unitMove
    dsimp only
    rw [show movesOf s w (s.bitmap w n).opk (leNat (s.bitmap w n).desc) unit = _ from hm]
  · unfold State.unitMove
    dsimp only
    rw [show movesOf s w (s.bitmap w n).opk (leNat (s.bitmap w n).desc) unit = _ from hm]
    dsimp only
    rw [show readyMoves w g (s.bitmap w n) ms s1 = _ from hr]
    dsimp only
    rw [hf] <;> rfl
  · unfold State.unitMove
    dsimp only
    rw [show movesOf s w (s.bitmap w n).opk (leNat (s.bitmap w n).desc) unit = _ from hm]
    dsimp only
    rw [show readyMoves w g (s.bitmap w n) ms s1 = _ from hr]
    dsimp only
    rw [hf, List.foldl_map]
    exact if_neg hk
  · unfold State.unitMove
    dsimp only
    rw [show movesOf s w (s.bitmap w n).opk (leNat (s.bitmap w n).desc) unit = _ from hm]
    dsimp only
    rw [show readyMoves w g (s.bitmap w n) ms s1 = _ from hr]
    dsimp only
    rw [hf]
    exact if_pos hk
  · exact unitEnd_fault hf
  · refine (lowerTx_eq hg hx).trans ?_
    dsimp only
    rw [if_neg (show ¬x.tx - (by_ : Int) < -txMax by simp only [txMax]; omega), if_neg hno]
    rfl
  · rw [lowerTx_eq hg hx]
    dsimp only
    rw [if_neg (show ¬x.tx - (by_ : Int) < -txMax by simp only [txMax]; omega), if_pos ⟨harr, h0, hle⟩]
    exact lowerTx_opens hg hx _

end Sys2Proof.Proofs
end


section
/-! PROOFS. Tile, reservation and matrix instructions issue (R361 to R385). -/
namespace Sys2Proof.Proofs
open Sys2Proof.Machine Sys2Proof.Safety Sys2Proof.Laws

section
variable {s s1 s2 : State} {c : Ctl} {o : FX} {u : Cur} {t p d : Nat} {g : Workgroup} {i : Instr}

/-! ## The matrix order (R363) -/

/-- The state in which an operation has joined the matrix order of the issuing workgroup. -/
def joined (s : State) (u : Cur) (t : Nat) (g : Workgroup) (x : TileOp) : State :=
  (withOp s { wg := u.wg, tid := t, core := g.core, cls := some .tl, pc := u.pc, kind := .tile x }).modWg u.wg
    (fun g => { g with mq := g.mq ++ [s.nextId] })

theorem openTile_joined (hg : s.wg u.wg = some g) (x : TileOp) : s.openTile u.wg t u.pc x = (s.nextId, joined s u t g x) := by
  unfold State.openTile
  rw [hg]
  rfl

theorem tileOps_start (w m : Nat) : (start s i c u).tileOps w m = s.tileOps w m := by
  unfold State.tileOps
  rw [start_wg, start_ops]

theorem named_start (w m n : Nat) (f : TileOp → List Nat) : (start s i c u).named w m f n = s.named w m f n := by
  unfold State.named
  rw [tileOps_start]

theorem shapePending_start (w k : Nat) : (start s i c u).shapePending w k = s.shapePending w k := by
  unfold State.shapePending
  rw [tileOps_start, start_nextId]

theorem layoutWord_start (j : Instr) (a : Opnd) : layoutWord (start s i c u) (ctx i c u t) a = layoutWord s (ctx j c u t) a := by
  simp [layoutWord]

/-! ## Tiles (R369 to R372, R385) -/

theorem msSet_goes {a : Nat} (h : Alone s (.msSet c o) c u t) (ha : (s.src u.wg t o.a).toNat = a) (hg : s.wg u.wg = some g) (hok : a = 0 ∨ shapeOk a = true)
    (hf : s.named u.wg ((start s (.msSet c o) c u).markOf (ctx (.msSet c o) c u t)) TileOp.tiles o.mt.val = false)
    (hs : (start s (.msSet c o) c u).storage u.core u.wg 0 t (if a = 0 then [] else [0])
      { wg := u.wg, tid := t, reg := some o.mt.val, tiles := blocksOf a } = (true, s1)) :
    exec (.msSet c o) s = .next (goOn ((s1.modWg u.wg (fun g => g.reshape o.mt.val a)).put u.wg t o.d (ofN (g.shape o.mt.val))) u.wg t c) := by
  refine goes_alone h (exec_msSet c o s) ?_
  simp only [ctx_w, ctx_t, ctx_core, start_src, start_wg, ha, hg, named_start]
  have hbad : (a != 0 && !shapeOk a) = false := by
    rcases hok with h | h <;> simp [h]
  rw [hbad, if_neg Bool.false_ne_true, if_neg (by rw [hf]; exact Bool.false_ne_true), hs]
  rfl

theorem mLd_ends (hg : s.wg u.wg = some g) {bad : Option Nat}
    (ha : tileAccess (start s (.mLd c o) c u) (ctx (.mLd c o) c u t) o.mt.val (layoutWord s (ctx (.mLd c o) c u t) o.a) = .ok p)
    (hb : (start s (.mLd c o) c u).badChunk p (chunkOffs (layoutWord s (ctx (.mLd c o) c u t) o.a) (g.shape o.mt.val)) = bad)
    (h : Alone s (.mLd c o) c u t) :
    (∀ f, bad = some f → exec (.mLd c o) s = .next (traps (start s (.mLd c o) c u) u t 0xE3 (layoutAddr (layoutWord s (ctx (.mLd c o) c u t) o.a) f))) ∧
    (bad = none → exec (.mLd c o) s = .next (goOn (joined (start s (.mLd c o) c u) u t g
      (.mld o.mt.val (layoutWord s (ctx (.mLd c o) c u t) o.a) p (((start s (.mLd c o) c u).chunkBytes p
        (chunkOffs (layoutWord s (ctx (.mLd c o) c u t) o.a) (g.shape o.mt.val))).getD []))) u.wg t c)) := by
  have hl : layoutWord (start s (.mLd c o) c u) (ctx (.mLd c o) c u t) o.a = layoutWord s (ctx (.mLd c o) c u t) o.a := layoutWord_start ..
  refine ⟨fun f hf => traps_alone h (exec_mLd c o s) ?_ rfl, fun hf => goes_alone h (exec_mLd c o s) ?_⟩
  all_goals
    dsimp only
    rw [hl, ha, ctx_w, ctx_t, start_wg, hg]
    dsimp only [Option.map_some, Option.getD_some]
    rw [hb, hf]
  rw [show (ctx (.mLd c o) c u t).pc = u.pc from rfl, openTile_joined ((start_wg ..).trans hg)]

theorem mSt_ends (hg : s.wg u.wg = some g)
    (ha : tileAccess (start s (.mSt c o) c u) (ctx (.mSt c o) c u t) o.mt.val (layoutWord s (ctx (.mLd c o) c u t) o.a) = .ok p)
    (h : Alone s (.mSt c o) c u t) :
    (g.mq = [] → g.tileBad o.mt.val = true → exec (.mSt c o) s = .next (traps (start s (.mSt c o) c u) u t 0xE3 0)) ∧
    (g.mq ≠ [] ∨ g.tileBad o.mt.val = false → exec (.mSt c o) s = .next (goOn (joined (start s (.mSt c o) c u) u t g
      (.mst o.mt.val (layoutWord s (ctx (.mLd c o) c u t) o.a) p)) u.wg t c)) := by
  have hl : layoutWord (start s (.mSt c o) c u) (ctx (.mSt c o) c u t) o.a = layoutWord s (ctx (.mLd c o) c u t) o.a := layoutWord_start ..
  have hclear : (start s (.mSt c o) c u).orderClear u.wg = g.mq.isEmpty := by simp [State.orderClear, hg]
  refine ⟨fun hm hb => traps_alone h (exec_mSt c o s) ?_ rfl, fun hm => goes_alone h (exec_mSt c o s) ?_⟩
  all_goals
    dsimp only
    rw [hl, ha, ctx_w, ctx_t, start_wg, hg, hclear]
    dsimp only [Option.map_some, Option.getD_some]
  · exact if_pos (by simp [hm, hb])
  · rw [show (ctx (.mSt c o) c u t).pc = u.pc from rfl, openTile_joined ((start_wg ..).trans hg)]
    exact if_neg (by simpa [imp_iff_not_or] using hm)

theorem mZero_goes (hg : s.wg u.wg = some g) (h : Alone s (.mZero c o) c u t) (hp : s.shapePending u.wg o.mt.val = false) (hk : g.shape o.mt.val ≠ 0) :
    exec (.mZero c o) s = .next (goOn (joined (start s (.mZero c o) c u) u t g (.mzero o.mt.val)) u.wg t c) := by
  refine goes_alone h (exec_mZero c o s) ?_
  dsimp only
  rw [ctx_w, ctx_t, start_shapePending, hp, if_neg Bool.false_ne_true, start_wg, hg, show (ctx (.mZero c o) c u t).pc = u.pc from rfl,
    openTile_joined ((start_wg ..).trans hg)]
  exact if_neg hk

theorem tileAccess_shapeless (hg : s.wg u.wg = some g) (hp : s.shapePending u.wg o.mt.val = false) (hk : g.shape o.mt.val = 0) (lay : Nat) :
    tileAccess (start s i c u) (ctx i c u t) o.mt.val lay = .error (some (0x82, 0)) := by
  unfold tileAccess
  simp only [ctx_w, start_shapePending, hp, start_wg, hg, Option.map_some, Option.getD_some, hk, if_true, Bool.false_eq_true, if_false]

theorem shapeless_traps (hg : s.wg u.wg = some g) (hp : s.shapePending u.wg o.mt.val = false) (hk : g.shape o.mt.val = 0)
    (hi : i ∈ [Instr.mLd c o, .mSt c o, .mZero c o]) (h : Alone s i c u t) : exec i s = .next (traps (start s i c u) u t 0x82 0) := by
  simp only [List.mem_cons, List.not_mem_nil, or_false] at hi
  obtain rfl | rfl | rfl := hi
  · refine traps_alone h (exec_mLd c o s) ?_ rfl
    dsimp only
    rw [tileAccess_shapeless hg hp hk]
  · refine traps_alone h (exec_mSt c o s) ?_ rfl
    dsimp only
    rw [tileAccess_shapeless hg hp hk]
  · refine traps_alone h (exec_mZero c o s) ?_ rfl
    dsimp only
    rw [ctx_w, start_shapePending, hp, if_neg Bool.false_ne_true, start_wg, hg]
    exact if_pos hk

theorem accClr_goes (hg : s.wg u.wg = some g) (h : Alone s (.accClr c o) c u t) : exec (.accClr c o) s =
    .next (goOn (joined (start s (.accClr c o) c u) u t g (.accClr ((s.src u.wg t o.a).toNat % 2 ^ 8))) u.wg t c) := by
  refine goes_alone h (exec_accClr c o s) ?_
  rw [ctx_w, ctx_t, start_src, show (ctx (.accClr c o) c u t).pc = u.pc from rfl, openTile_joined ((start_wg ..).trans hg)]
  rfl

/-! ## Reservation records (R373 to R375) -/

section
variable {f b : Nat} {bs : List Byte} (h : Alone s (.rsvAlloc c o) c u t)
include h

theorem rsvAlloc_unread (hr : readBlock (start s (.rsvAlloc c o) c u) (ctx (.rsvAlloc c o) c u t) (s.src u.wg t o.a).toNat 8 = (.error (some (f, b)), s1)) :
    exec (.rsvAlloc c o) s = .next (faulted s1 u t f b c) := by
  refine (exec_rsvAlloc c o s).trans (isa_alone_fault h ?_)
  dsimp only
  rw [ctx_w, ctx_t, start_src, hr]
  rfl

variable (hr : readBlock (start s (.rsvAlloc c o) c u) (ctx (.rsvAlloc c o) c u t) (s.src u.wg t o.a).toNat 8 = (.ok d, s1))
  (hg : s.wg u.wg = some g)
include hr hg

theorem rsvAlloc_malformed (hb : badRecord d = true) : exec (.rsvAlloc c o) s = .next (traps s1 u t 0x87 0) := by
  refine traps_alone h (exec_rsvAlloc c o s) ?_ rfl
  dsimp only
  rw [ctx_w, ctx_t, start_src, hr, start_wg, hg]
  exact if_pos hb

variable (hb : badRecord d = false)
include hb

theorem rsvAlloc_unloaded (he : readOffsets s1 (ctx (.rsvAlloc c o) c u t) (d / 2 ^ 32 % 2 ^ 18) (d / 2 ^ 16 % 2 ^ 16) = .error (some (f, b))) :
    exec (.rsvAlloc c o) s = .next (faulted s1 u t f b c) := by
  refine (exec_rsvAlloc c o s).trans (isa_alone_fault h ?_)
  dsimp only
  rw [ctx_w, ctx_t, start_src, hr, start_wg, hg]
  refine (if_neg (by simp [hb])).trans ?_
  rw [bits_eq d 49 32, bits_eq d 31 16, he]
  rfl

variable (he : readOffsets s1 (ctx (.rsvAlloc c o) c u t) (d / 2 ^ 32 % 2 ^ 18) (d / 2 ^ 16 % 2 ^ 16) = .ok bs)
include he

theorem rsvAlloc_full (hf : 16 ≤ g.rsvs.length ∨ 256 < (g.rsvs.map (fun r => unitsOf r.2)).sum + (d / 2 ^ 16 % 2 ^ 16 + 255) / 256) :
    exec (.rsvAlloc c o) s = .next (traps s1 u t 0x87 0) := by
  refine traps_alone h (exec_rsvAlloc c o s) ?_ rfl
  dsimp only
  rw [ctx_w, ctx_t, start_src, hr, start_wg, hg]
  refine (if_neg (by simp [hb])).trans ?_
  rw [bits_eq d 49 32, bits_eq d 31 16, he]
  exact if_pos (by rw [Bool.or_eq_true, decide_eq_true_eq, decide_eq_true_eq]; exact hf)

theorem rsvAlloc_goes (hf : ¬(16 ≤ g.rsvs.length ∨ 256 < (g.rsvs.map (fun r => unitsOf r.2)).sum + (d / 2 ^ 16 % 2 ^ 16 + 255) / 256))
    (hs : s1.storage u.core u.wg 0 t [2] { wg := u.wg, tid := t, recs := 1, units := (d / 2 ^ 16 % 2 ^ 16 + 255) / 256 } = (true, s2)) :
    exec (.rsvAlloc c o) s = .next (goOn ((s2.modWg u.wg (fun h => { h with
      rsvs := tset h.rsvs (tfree g.rsvs) { desc := d, bytes := bs } })).put u.wg t o.d (ofN (tfree g.rsvs))) u.wg t c) := by
  refine goes_alone h (exec_rsvAlloc c o s) ?_
  dsimp only
  rw [ctx_w, ctx_t, start_src, hr, start_wg, hg]
  refine (if_neg (by simp [hb])).trans ?_
  rw [bits_eq d 49 32, bits_eq d 31 16, he]
  refine (if_neg (by rw [Bool.or_eq_true, decide_eq_true_eq, decide_eq_true_eq]; exact hf)).trans ?_
  rw [show s1.storage (ctx (.rsvAlloc c o) c u t).core u.wg 0 t [2]
    { wg := u.wg, tid := t, recs := 1, units := ceilDiv (d / 2 ^ 16 % 2 ^ 16) 256 } = (true, s2) from hs]

end

theorem rsvFree_goes (h : Alone s (.rsvFree c o) c u t) (hg : s.wg u.wg = some g) (ht : thas g.rsvs ((s.src u.wg t o.a).toNat % 16) = true)
    (hn : s.named u.wg ((start s (.rsvFree c o) c u).markOf (ctx (.rsvFree c o) c u t)) TileOp.recs ((s.src u.wg t o.a).toNat % 16) = false) :
    exec (.rsvFree c o) s = .next (goOn ((start s (.rsvFree c o) c u).modWg u.wg
      (fun g => { g with rsvs := tdel g.rsvs ((s.src u.wg t o.a).toNat % 16) })) u.wg t c) := by
  refine goes_alone h (exec_rsvFree c o s) ?_
  dsimp only
  rw [ctx_w, ctx_t, start_src, start_wg, hg, named_start, hn, if_neg Bool.false_ne_true]
  exact if_pos (by simpa using ht)

theorem rsvFree_traps (h : Alone s (.rsvFree c o) c u t) (hg : s.wg u.wg = some g) (ht : thas g.rsvs ((s.src u.wg t o.a).toNat % 16) = false) :
    exec (.rsvFree c o) s = .next (traps (start s (.rsvFree c o) c u) u t 0x83 0) := by
  refine traps_alone h (exec_rsvFree c o s) ?_ rfl
  dsimp only
  rw [ctx_w, ctx_t, start_src, start_wg, hg]
  exact if_neg (by simpa using ht)

end
end Sys2Proof.Proofs
end


section
/-! PROOFS. The array, the epilogue, mma.q and amax.rd issue (R376 to R384), and the statement about tiles and matrices. -/
namespace Sys2Proof.Proofs
open Sys2Proof.Machine Sys2Proof.Safety Sys2Proof.Laws

section
variable {s s1 s2 : State} {c : Ctl} {o : FX} {u : Cur} {t d f a : Nat} {outl : Bool} {list : List Nat} {g : Workgroup} {p : Params}
  {i : Instr}

/-! ## The array (R376 to R379) -/

/-- The tile registers of a parameter block. -/
def blockTiles (outl : Bool) (d : Nat) : List Nat :=
  (if outl then [] else [d % 8]) ++ [d / 8 % 8] ++ (if d.testBit 9 then [d / 2 ^ 6 % 8] else [])

/-- The array's instruction over a parameter block that it has read. -/
def arrayAct (outl : Bool) (d : Nat) (g : Workgroup) (s : State) (x : Ctx) : Act :=
  if badParam outl d then .trap 0x86 0 none s
  else if (blockTiles outl d).any (s.shapePending x.w) then .wait s
  else match paramChecks g (s.eff x.w).outlier outl d with
    | .error f => .trap f 0 none s
    | .ok p => match readOutliers s x d with
      | .error e => Act.ofError s e
      | .ok list => match listChecks g outl d p list with
        | 0 =>
          if s.orderClear x.w && arrayBad g (s.eff x.w).outlier outl d list then .trap 0xE3 0 none s
          else .adv (s.openTile x.w x.t x.pc (.mma outl d list)).2
        | f => .trap f 0 none s

theorem arrayThrough_read {a : Opnd} {x : Ctx} (hr : readBlock s x (s.src x.w x.t a).toNat 32 = (.ok d, s1)) (hg : s.wg x.w = some g) :
    arrayThrough outl a s x = arrayAct outl d g s1 x := by
  unfold arrayThrough
  rw [hr, hg]
  dsimp only
  rw [bits_low _ 2, bits_eq d 5 3, bits_eq d 8 6]
  rfl

theorem paramChecks_code {q : Bool} (h : paramChecks g q outl d = .error f) : lateCode f = false := by
  unfold paramChecks at h
  extract_lets b2 sa sb sc ra rb at h
  split at h
  · cases h; rfl
  · split at h
    · cases h; rfl
    · split at h
      · split at h
        · cases h; rfl
        · split at h
          · cases h; rfl
          · split at h
            · cases h; rfl
            · cases h
      · cases h; rfl

theorem listChecks_code : lateCode (listChecks g outl d p list) = false := by
  unfold listChecks
  dsimp only
  split_ifs <;> rfl

theorem array_act (hg : s.wg u.wg = some g) (hr : readBlock (start s i c u) (ctx i c u t) (s.src u.wg t o.a).toNat 32 = (.ok d, s1)) :
    arrayThrough outl o.a (start s i c u) (ctx i c u t) = arrayAct outl d g s1 (ctx i c u t) :=
  arrayThrough_read (by rw [ctx_w, ctx_t, start_src]; exact hr) ((start_wg ..).trans hg)

/-- The end of the array's checks: the code of the list's check, an error that is met, or the operation in the order. -/
def arrayEnd (outl : Bool) (d : Nat) (list : List Nat) (g : Workgroup) (u : Cur) (t : Nat) (s : State) : Nat → Act
  | 0 =>
    if s.orderClear u.wg && arrayBad g (s.eff u.wg).outlier outl d list then .trap 0xE3 0 none s
    else .adv (s.openTile u.wg t u.pc (.mma outl d list)).2
  | f => .trap f 0 none s

theorem array_checked (hg : s.wg u.wg = some g) (hr : readBlock (start s i c u) (ctx i c u t) (s.src u.wg t o.a).toNat 32 = (.ok d, s1))
    (hb : badParam outl d = false) (hk : (blockTiles outl d).any (s1.shapePending u.wg) = false)
    (hc : paramChecks g (s1.eff u.wg).outlier outl d = .ok p) (hl : readOutliers s1 (ctx i c u t) d = .ok list) {f : Nat}
    (hf : listChecks g outl d p list = f) :
    arrayThrough outl o.a (start s i c u) (ctx i c u t) = arrayEnd outl d list g u t s1 f := by
  refine (array_act hg hr).trans ((if_neg (by simp [hb])).trans ((if_neg (by rw [ctx_w, hk]; exact Bool.false_ne_true)).trans ?_))
  rw [ctx_w, hc]
  dsimp only
  rw [hl]
  subst hf
  unfold arrayEnd
  rfl

section
variable (hx : ∀ s, exec i s = isa i c (arrayThrough outl o.a) s) (h : Alone s i c u t)
include hx h

theorem array_unread (hr : readBlock (start s i c u) (ctx i c u t) (s.src u.wg t o.a).toNat 32 = (.error (some (f, a)), s1)) :
    exec i s = .next (faulted s1 u t f a c) := by
  refine (hx s).trans (isa_alone_fault h ?_)
  unfold arrayThrough
  rw [ctx_w, ctx_t, start_src, hr]
  rfl

variable (hg : s.wg u.wg = some g) (hr : readBlock (start s i c u) (ctx i c u t) (s.src u.wg t o.a).toNat 32 = (.ok d, s1))
include hg hr

theorem array_malformed (hb : badParam outl d = true) : exec i s = .next (traps s1 u t 0x86 0) :=
  traps_alone h (hx s) ((array_act hg hr).trans (if_pos hb)) rfl

variable (hb : badParam outl d = false) (hk : (blockTiles outl d).any (s1.shapePending u.wg) = false)
include hb hk

theorem array_refused (hc : paramChecks g (s1.eff u.wg).outlier outl d = .error f) : exec i s = .next (traps s1 u t f 0) := by
  refine traps_alone h (hx s) ((array_act hg hr).trans ((if_neg (by simp [hb])).trans ((if_neg (by rw [ctx_w, hk]; exact Bool.false_ne_true)).trans ?_)))
    (paramChecks_code hc)
  rw [ctx_w, hc]

variable (hc : paramChecks g (s1.eff u.wg).outlier outl d = .ok p) (hl : readOutliers s1 (ctx i c u t) d = .ok list)
include hc hl

theorem array_listed (hf : listChecks g outl d p list = f) (h0 : f ≠ 0) : exec i s = .next (traps s1 u t f 0) := by
  refine traps_alone h (hx s) ((array_checked hg hr hb hk hc hl hf).trans ?_) (hf ▸ listChecks_code)
  cases f with
  | zero => exact absurd rfl h0
  | succ f => rfl

variable (hg1 : s1.wg u.wg = some g) (hf : listChecks g outl d p list = 0)
include hg1 hf

theorem array_clear (hcl : ¬(g.mq = [] ∧ arrayBad g (s1.eff u.wg).outlier outl d list = true)) :
    exec i s = .next (goOn (joined s1 u t g (.mma outl d list)) u.wg t c) := by
  refine goes_alone h (hx s) ((array_checked hg hr hb hk hc hl hf).trans ?_)
  rw [arrayEnd, openTile_joined hg1]
  exact if_neg (by simpa [State.orderClear, hg1] using hcl)

theorem array_spoilt (hcl : g.mq = [] ∧ arrayBad g (s1.eff u.wg).outlier outl d list = true) :
    exec i s = .next (traps s1 u t 0xE3 0) := by
  refine traps_alone h (hx s) ((array_checked hg hr hb hk hc hl hf).trans ?_) rfl
  exact if_pos (by simpa [State.orderClear, hg1] using hcl)

end

/-! ## The epilogue (R382) -/

section
variable {sb bb : List Byte} {n : Nat} {dir : Nat} (h : Alone s (.epi c o) c u t)
include h

theorem epi_unread (hr : readBlock (start s (.epi c o) c u) (ctx (.epi c o) c u t) (s.src u.wg t o.a).toNat 32 = (.error (some (f, a)), s1)) :
    exec (.epi c o) s = .next (faulted s1 u t f a c) := by
  refine (exec_epi c o s).trans (isa_alone_fault h ?_)
  dsimp only
  rw [ctx_w, ctx_t, start_src, hr]
  rfl

variable (hr : readBlock (start s (.epi c o) c u) (ctx (.epi c o) c u t) (s.src u.wg t o.a).toNat 32 = (.ok d, s1))
include hr

theorem epi_malformed (hb : badEpi d (o.num.toNat != 0 || o.xsub.toNat.testBit 0) ≠ false) : exec (.epi c o) s = .next (traps s1 u t 0x88 0) := by
  refine traps_alone h (exec_epi c o s) ?_ rfl
  dsimp only
  rw [ctx_w, ctx_t, start_src, hr]
  exact if_pos (by rw [← Bool.not_eq_false]; exact hb)

/-- Scales that an epilogue reads. -/
def epiScales (d : Nat) : Nat := if d / 2 ^ 12 % 4 = 2 then epiCols d else d / 2 ^ 12 % 4

/-- The operation of an epilogue that has read its scales and biases. -/
def epiOp (s : State) (u : Cur) (d : Nat) (sb bb : List Byte) : Option (Nat × Nat) → TileOp :=
  TileOp.epi d (words32 (epiScales d) sb) (words32 (bb.length / 4) bb)
    (if epiQuant d then ringMax (s.ring (s.partOf u.wg) (d / 2 ^ 16 % 2 ^ 6)) else 0)

theorem epi_act (hb : badEpi d (o.num.toNat != 0 || o.xsub.toNat.testBit 0) = false)
    (hs : readOffsets s1 (ctx (.epi c o) c u t) (d / 2 ^ 64 % 2 ^ 18) (4 * epiScales d) = .ok sb)
    (hbb : readOffsets s1 (ctx (.epi c o) c u t) (d / 2 ^ 96 % 2 ^ 18) (if d.testBit 14 then 4 * epiCols d else 0) = .ok bb)
    (hout : epiOut s1 u.wg d = none) : exec (.epi c o) s = .next (ended s (.epi c o) c u t
      (if d.testBit 3 then epiCell s1 (ctx (.epi c o) c u t) o d (epiOp s1 u d sb bb)
        else .adv (s1.openTile u.wg t u.pc (epiOp s1 u d sb bb none)).2)) := by
  rw [exec_epi, execEpi, isa_alone h]
  refine congrArg (fun a : Act => Host.Outcome.next (ended s (.epi c o) c u t a)) ?_
  dsimp only
  rw [ctx_w, ctx_t, start_src, hr]
  refine (if_neg (by rw [Bool.not_eq_true]; exact hb)).trans ?_
  have hsc : (if bits d 13 12 = 2 then epiCols d else bits d 13 12) = epiScales d := by rw [bits_eq d 13 12]; rfl
  rw [hsc, bits_eq d 81 64, bits_eq d 113 96, bits_eq d 21 16, hs, show readOffsets s1 (ctx (.epi c o) c u t) (d / 2 ^ 96 % 2 ^ (113 + 1 - 96)) (if bit d 14 = true then 4 * epiCols d else 0) = .ok bb from hbb, hout]
  rfl

end

theorem epiCell_stranger {x : Ctx} {y : Option (Nat × Nat) → TileOp} (hm : s.member x.w = none) :
    epiCell s x o d y = .trap 0x60 0 none s := by
  unfold epiCell
  rw [hm]

section
variable {x : Ctx} {dir : Nat} {y : Option (Nat × Nat) → TileOp} (hm : s.member x.w = some dir)
include hm

theorem epiCell_shapeless (hs : shapeOk (epiShape d) = false) : epiCell s x o d y = .trap 0x65 0 none s := by
  unfold epiCell
  rw [hm]
  exact if_pos (by rw [hs]; rfl)

variable (hs : shapeOk (epiShape d) = true) {id : Nat} (ho : s.openTile x.w x.t x.pc (y (some (dir, cellOf s x o))) = (id, s2))
include hs ho

theorem epiCell_defined (hc : (s.cell dir (cellOf s x o)).st = .defined) : epiCell s x o d y = .trap 0x61 0 none s := by
  unfold epiCell
  rw [hm]
  refine (if_neg (by simp [hs])).trans ?_
  rw [ho, hc]

theorem epiCell_draining (hc : (s.cell dir (cellOf s x o)).st = .draining) :
    epiCell s x o d y = .wait (s2.parkCell x dir (cellOf s x o) false (y (some (dir, cellOf s x o))) (epiShape d) (some id)) := by
  unfold epiCell
  rw [hm]
  refine (if_neg (by simp [hs])).trans ?_
  rw [ho, hc]

theorem epiCell_full (hc : (s.cell dir (cellOf s x o)).st = .free) (hd : s2.define dir (cellOf s x o) x.w (epiShape d) id = none) :
    epiCell s x o d y = .trap 0x66 0 none s := by
  unfold epiCell
  rw [hm]
  refine (if_neg (by simp [hs])).trans ?_
  rw [ho, hc]
  dsimp only
  rw [hd]

theorem epiCell_free {s3 : State} (hc : (s.cell dir (cellOf s x o)).st = .free)
    (hd : s2.define dir (cellOf s x o) x.w (epiShape d) id = some s3) : epiCell s x o d y = .adv s3 := by
  unfold epiCell
  rw [hm]
  refine (if_neg (by simp [hs])).trans ?_
  rw [ho, hc]
  dsimp only
  rw [hd]

end

/-! ## Polling and scaling rings (R381, R384) -/

theorem mmaStatus_start : mmaStatus (start s i c u) u.wg = mmaStatus s u.wg := by
  unfold mmaStatus
  rw [start_wg, start_ops, start_nextId]
  simp only [tileOps_start]

theorem mmaQ_alone (h : Alone s (.mmaQ c o) c u t) : exec (.mmaQ c o) s = .next (goOn (((withOp (start s (.mmaQ c o) c u)
    { wg := u.wg, tid := t, core := u.core, cls := some .tl, pc := u.pc, kind := .local [] }).finish s.nextId []).put u.wg t o.d
      (mmaStatus s u.wg)) u.wg t c) := by
  refine goes_alone h (exec_mmaQ c o s) ?_
  dsimp only
  rw [ctx_w, ctx_t, mmaStatus_start, State.newOp, State.newId, start_nextId]
  simp only [withOp, start_nextId]
  rfl

theorem amaxRd_alone (h : Alone s (.amaxRd c o) c u t) : exec (.amaxRd c o) s =
    .next (((withOp (start s (.amaxRd c o) c u) (opOf (start s (.amaxRd c o) c u) (.amaxRd c o) u t .ring o.d [])).askRing (.core u.core) (s.partOf u.wg)
      ((s.src u.wg t o.a).toNat % 2 ^ 6) (if o.xsub.toNat.testBit 0 then some ((s.src u.wg t o.b).toNat % 2 ^ 31) else none)
      s.nextId).holdFor (ctx (.amaxRd c o) c u t) s.nextId) := by
  refine waits_alone h (exec_amaxRd c o s) ?_
  dsimp only
  rw [openOp_ctx, start_nextId, ctx_w, ctx_t, start_src, start_src,
    show ((withOp (start s (.amaxRd c o) c u) (opOf (start s (.amaxRd c o) c u) (.amaxRd c o) u t .ring o.d [])).partOf u.wg) = s.partOf u.wg from
      start_partOf ..]
  rfl

end

theorem joins_start {x : TileOp} (h : exec i s = .next (goOn (joined (start s i c u) u t g x) u.wg t c)) :
    exec i s = .next (goOn ((withOp (start s i c u) { wg := u.wg, tid := t, core := g.core, cls := some .tl, pc := u.pc, kind := .tile x }).modWg u.wg
      (fun g => { g with mq := g.mq ++ [s.nextId] })) u.wg t c) := by
  rw [h]
  unfold joined
  rw [start_nextId]

/-- Settles O36: each clause is the outcome of the instruction's checks in their order. -/
theorem tilesAndMatrices : Obligations.TilesAndMatrices := by
  refine ⟨?_, ?_⟩
  · intro c o s u t p d bs g s1 s2 st set al fr k a here lay joins fresh claim block units full rec_
    refine ⟨fun h h0 hb => ?_, fun h hg hok hf hs => msSet_goes h rfl hg hok hf hs, fun h hg ha hb => joins_start ((mLd_ends hg ha hb h).2 rfl),
      fun f h hg ha hb => (mLd_ends hg ha hb h).1 f rfl, fun h hg ha hm => joins_start ((mSt_ends hg ha h).2 hm), fun h hg ha hm hb => (mSt_ends hg ha h).1 hm hb,
      fun h hg hp hk => joins_start (mZero_goes hg h hp hk), fun i hi h hg hp hk => shapeless_traps hg hp hk hi h, fun h hg => joins_start (accClr_goes hg h),
      fun f b h hg hr => rsvAlloc_unread h hr, fun f b h ⟨hr, hg⟩ hb he => rsvAlloc_unloaded h hr hg hb he,
      fun h ⟨hr, hg⟩ hb => rsvAlloc_malformed h hr hg hb, fun h ⟨hr, hg⟩ hb hf he => rsvAlloc_full h hr hg hb he hf,
      fun h ⟨hr, hg⟩ hb hf he hs => rsvAlloc_goes h hr hg hb he hf hs, fun h hg ht hn => rsvFree_goes h hg ht hn,
      fun h hg ht => rsvFree_traps h hg ht⟩
    refine traps_alone h (exec_msSet c o s) ?_ rfl
    dsimp only
    rw [ctx_w, ctx_t, start_src]
    exact if_pos (by simpa using ⟨h0, hb⟩)
  · intro c o s u t d f a outl list g p sb bb s1 st i e q r block ks known checked read joined joins clear ns good m0 idle
    have hx : ∀ s, exec i s = isa i c (arrayThrough outl o.a) s := by
      intro s
      cases outl <;> rfl
    refine ⟨fun j hj h hg hr => ?_, fun h ⟨hr, hg, hg1⟩ hb => array_malformed hx h hg hr hb,
      fun h ⟨hr, hg, hg1⟩ hb hk hc => array_refused hx h hg hr hb hk hc,
      fun h ⟨hr, hg, hg1⟩ hb hk hc hl hf h0 => array_listed hx h hg hr hb hk hc hl hf h0,
      fun h ⟨hr, hg, hg1⟩ hb hk hc hl hf hcl => array_clear hx h hg hr hb hk hc hl hg1 hf hcl,
      fun h ⟨hr, hg, hg1⟩ hb hk hc hl hf hcl => array_spoilt hx h hg hr hb hk hc hl hg1 hf (not_not.1 hcl),
      fun h ⟨hr, hg, hg1⟩ hb => epi_malformed h hr hb, fun h ⟨hr, hg, hg1⟩ hb hs hbb hout => ?_, fun h => mmaQ_alone h, fun h => amaxRd_alone h⟩
    · simp only [List.mem_cons, List.not_mem_nil, or_false] at hj
      obtain rfl | rfl := hj
      · exact array_unread hx h hr
      · exact epi_unread h hr
    · intro y n
      have act := epi_act h hr hb hs hbb hout
      have opened : ∀ y : TileOp, s1.openTile u.wg t u.pc y = (s1.nextId, joined y) := openTile_joined hg1
      refine ⟨fun hd => act.trans ?_, fun hd hm => act.trans ?_, fun dir hd hm => ⟨fun hsh => act.trans ?_, fun hsh hc => act.trans ?_,
        fun hsh hc => act.trans ?_, fun s2 hsh hc hdef => act.trans ?_, fun hsh hc hdef => act.trans ?_⟩⟩
      all_goals rw [hd]
      · rw [if_neg Bool.false_ne_true, opened]
        rfl
      all_goals rw [if_pos rfl]
      · rw [epiCell_stranger hm]
        rfl
      · rw [epiCell_shapeless hm hsh]
        rfl
      · rw [epiCell_defined hm hsh (opened _) hc]
        rfl
      · rw [epiCell_draining hm hsh (opened _) hc]
        rfl
      · rw [epiCell_free (y := epiOp s1 u d sb bb) hm hsh (opened _) hc hdef]
        rfl
      · rw [epiCell_full (y := epiOp s1 u d sb bb) hm hsh (opened _) hc hdef]
        rfl

end Sys2Proof.Proofs
end


section
/-! PROOFS. One entry of an mma (R378), and the events of the matrix units (R363 to R367, R384). -/
namespace Sys2Proof.Proofs
open Sys2Proof.Machine Sys2Proof.Safety Sys2Proof.Laws

/-! ## One entry -/

section
variable {d : Nat} {ra rw : RsvRec} {woff i j old : Nat} {as bs list : List Nat}

theorem foldl_add_map {α : Type} (f : α → Int) (l : List α) : ∀ z : Int, l.foldl (fun x e => x + f e) z = z + (l.map f).sum := by
  induction l with
  | nil => simp
  | cons e l ih =>
    intro z
    rw [List.foldl_cons, ih, List.map_cons, List.sum_cons, add_assoc]

theorem wrapN_eq (x : Int) (n : Nat) : (wrapN x n : Int) = x % 2 ^ n := by
  rw [wrapN, Int.toNat_of_nonneg (Int.emod_nonneg _ (by positivity))]
  push_cast
  rfl

/-- The plain integer formats: the exact products, modulo 2^56. -/
theorem mmaEntry_plain (hp : ra.fmt = 3 ∨ ra.fmt = 4) (hw : rw.fmt = ra.fmt) :
    (mmaEntry d ra rw woff i j as bs list old).2 = true ∧ ((mmaEntry d ra rw woff i j as bs list old).1 : Int) =
      (((if d.testBit 10 then 0 else old : Nat) : Int) +
        ((as.zip bs).map (fun (e : Nat × Nat) => signExt e.1 (fmtWidth ra.fmt) * signExt e.2 (fmtWidth ra.fmt))).sum) % 2 ^ 56 := by
  have plain : mmaEntry d ra rw woff i j as bs list old = (wrapN ((as.zip bs).foldl
      (fun (x : Int) e => x + signExt e.1 (fmtWidth ra.fmt) * signExt e.2 (fmtWidth ra.fmt)) ((if d.testBit 10 then 0 else old : Nat) : Int)) 56, true) := by
    unfold mmaEntry
    dsimp only
    rw [hw]
    exact if_pos (by rcases hp with h | h <;> rw [h] <;> rfl)
  rw [plain]
  refine ⟨rfl, ?_⟩
  rw [wrapN_eq, foldl_add_map]

theorem groupInt_sum (wa wb : Nat) : groupInt wa wb as bs = ((as.zip bs).map (fun (e : Nat × Nat) =>
    ((e.1 : Int) - (wa / 2 ^ 16 % 2 ^ 8 : Nat)) * ((e.2 : Int) - (wb / 2 ^ 16 % 2 ^ 8 : Nat)))).sum := by
  rw [groupInt, bits_eq, bits_eq, foldl_add_map, zero_add]

/-- A mode that is not a plain integer one adds in A56, and then the outliers. -/
theorem mmaEntry_float (hp : (ra.fmt == 3 || ra.fmt == 4) = false) : mmaEntry d ra rw woff i j as bs list old =
    (addOutliers rw woff j i bs list
      (if grouped ra.fmt then
        addGroups ra.glen ((List.range (as.length / ra.glen)).map (fun n => ra.word (d / 2 ^ 64 % 2 ^ 16 + 4 * (i * (as.length / ra.glen) + n))))
          ((List.range (as.length / ra.glen)).map (fun n => rw.word (woff + 4 * (j * (as.length / ra.glen) + n))))
          (if d.testBit 10 then 0 else old) as bs
      else (as.zip bs).foldl (fun acc (e : Nat × Nat) => addA56 acc (productOf ra.fmt e.1 e.2)) (if d.testBit 10 then 0 else old)), false) := by
  unfold mmaEntry
  dsimp only
  refine (if_neg (by rw [hp]; exact Bool.false_ne_true)).trans ?_
  rw [bits_eq d 79 64]
  rfl

theorem addGroups_cons (glen wa wb acc : Nat) (was wbs : List Nat) : addGroups glen (wa :: was) (wb :: wbs) acc as bs = addGroups glen was wbs
    (addA56 acc (((decodeF .f16 wa).mul (decodeF .f16 wb)).mul (FP.ofInt (groupInt wa wb (as.take glen) (bs.take glen)))))
    (as.drop glen) (bs.drop glen) := rfl

end

/-! ## The events at the head of the order -/

section
variable {s s1 : State} {w id d m0 : Nat} {o : Op} {x : TileOp} {g : Workgroup}

theorem tileTransfer_moves (hh : s.headTile w = some (id, o, x)) (hg : s.wg w = some g) (hs : s.tileStorage g id o x = (true, s1))
    (hx : (∃ k lay p old, x = .mld k lay p old) ∨ (∃ k lay p, x = .mst k lay p) ∨ (∃ k, x = .mzero k) ∨ (∃ a, x = .accClr a))
    (hp : s.peerAway w x = false) : exec (.tileTransferComplete w) s = .next (moveTile s1 ((s1.wg w).getD g) id o x) := by
  rw [exec_tileTransferComplete, execTileTransferComplete, hh, hg]
  obtain ⟨k, lay, p, old, rfl⟩ | ⟨k, lay, p, rfl⟩ | ⟨k, rfl⟩ | ⟨a, rfl⟩ := hx
  all_goals
    dsimp only
    rw [hp, hs]
    rfl

theorem tileTransfer_waits (hh : s.headTile w = some (id, o, x)) (hg : s.wg w = some g) (hp : s.peerAway w x = true) :
    exec (.tileTransferComplete w) s = .next s := by
  rw [exec_tileTransferComplete, execTileTransferComplete, hh, hg]
  exact congrArg _ (if_pos (by rw [hp, Bool.or_true]))

section
variable {outl : Bool} {list : List Nat} (hh : s.headTile w = some (id, o, .mma outl d list)) (hg : s.wg w = some g)
  (hs : s.tileStorage g id o (.mma outl d list) = (true, s1))
include hh hg hs

theorem mmaComplete_spoilt (hb : arrayBad ((s1.wg w).getD g) (s1.eff w).outlier outl d list = true) :
    exec (.mmaComplete w) s = .next (s1.failTile w id 0xE3) := by
  rw [exec_mmaComplete, execMmaComplete, hh, hg]
  dsimp only
  rw [hs]
  exact congrArg _ (if_pos hb)

theorem mmaComplete_done (hb : arrayBad ((s1.wg w).getD g) (s1.eff w).outlier outl d list = false) :
    exec (.mmaComplete w) s = .next ((s1.modWg w (fun g => { g with
      mdone := (g.mdone + 1) % 2 ^ 24
      accs := tset g.accs (d / 2 ^ 11 % 4) (arrayEffect g outl d list ((tget g.accs (d / 2 ^ 11 % 4)).getD {})) })).endTile w id) := by
  rw [exec_mmaComplete, execMmaComplete, hh, hg]
  dsimp only
  rw [hs, bits_eq d 12 11]
  exact congrArg _ (if_neg (by simp [hb]))

end

/-- The definition of an epilogue's cell is not admitted yet. -/
def cellWaits (s : State) (id : Nat) : Option (Nat × Nat) → Bool
  | some (dir, c) => (s.cell dir c).definers.any (fun x => x.id == some id)
  | none => false

section
variable {sc bi : List Nat} {cell : Option (Nat × Nat)} (hh : s.headTile w = some (id, o, .epi d sc bi m0 cell)) (hg : s.wg w = some g)
include hh hg

theorem epiComplete_waits (hw : cellWaits s id cell = true ∨ o.pieces ≠ []) : exec (.epiComplete w) s = .next s := by
  rw [exec_epiComplete, execEpiComplete, hh]
  dsimp only
  rw [hg]
  refine congrArg _ (if_pos ?_)
  rw [Bool.or_eq_true]
  exact hw.imp (fun h => h) (by simp)

variable (hs : s.tileStorage g id o (.epi d sc bi m0 cell) = (true, s1)) (hw : cellWaits s id cell = false) (hp : o.pieces = [])
include hs hw hp

theorem epiComplete_ends : exec (.epiComplete w) s = .next
    (if ((tget g.accs (d % 4)).map (fun a => a.badRegion (epiRows d) (epiCols d))).getD false then epiFails s1 id o cell
      else epiEffect s1 ((s1.wg w).getD g) id o d sc bi m0 cell) := by
  rw [exec_epiComplete, execEpiComplete, hh]
  dsimp only
  rw [hg]
  refine congrArg _ ((if_neg ?_).trans ?_)
  · rw [Bool.not_eq_true, Bool.or_eq_false_iff]
    exact ⟨hw, by simp [hp]⟩
  · rw [hs, bits_low d 1]
    rfl

end

/-! ## Scaling rings -/

theorem ringAt_push {part ring v : Nat} : s.ringAt part ring (some v) =
    (some (0, leBytes 4 (ringMax (ringPush (s.ring part ring) v)), []),
      s.modPart part (fun q => { q with rings := tset q.rings ring (ringPush (s.ring part ring) v) })) := by
  have pushed : (s.modPart part (fun q => { q with rings := tset q.rings ring (ringPush (s.ring part ring) v) })).ring part ring =
      ringPush (s.ring part ring) v := by
    simp [State.ring, State.part, State.modPart, tget_tset_same]
  unfold State.ringAt
  dsimp only
  rw [pushed]

theorem opAnswered_ring {n va : Nat} {data : List Byte} (ho : tget s.ops id = some o) (hk : o.kind = .ring) :
    s.opAnswered id n va 0 data = s.finish id (o.dst.map (fun e => (e, ofN (leNat data)))) := by
  unfold State.opAnswered
  rw [if_neg (by decide), ho]
  dsimp only
  rw [hk]

theorem attempt_congr {f f' : State → State} (h : f { s with blocked := false } = f' { s with blocked := false }) : s.attempt f = s.attempt f' := by
  unfold State.attempt
  rw [h]

theorem scalingRingPush_serves {p ring v : Nat} {k : Pkt} {q : Req} (hp : s.pkts = [(p, k)]) (hq : tget s.reqs k.req = some q)
    (hk : q.kind = .atomic (.ring ring (some v))) : exec (.scalingRingPush q.part) s = exec (.sliceRequest p) s := by
  rw [exec_scalingRingPush, exec_sliceRequest, execScalingRingPush, execSliceRequest, hp, List.foldl_cons, List.foldl_nil]
  unfold State.serveAt
  refine congrArg Host.Outcome.next (attempt_congr ?_)
  have hpk : tget s.pkts p = some k := by simp [hp, tget]
  dsimp only
  rw [hpk]
  dsimp only
  rw [hq]
  simp [hk]

/-! ## Claims on the matrix storage -/

section
variable {core : Nat} {cl : Claim} (hf : (s.core core).claims.find? (fun c => !c.granted) = some cl)
include hf

theorem grantClaim_fits (h : s.claimFits core cl = true) : s.grantClaim core = (s.modCore core (fun k => { k with
    claims := k.claims.map (fun x => if x == cl then { x with granted := true } else x) })).vacate (core / 8) 0 := by
  unfold State.grantClaim
  rw [hf]
  exact if_pos h

theorem grantClaim_waits (h : s.claimFits core cl = false) : s.grantClaim core = s := by
  unfold State.grantClaim
  rw [hf]
  exact if_neg (by simp [h])

theorem matrixEviction_waits (h : s.now < cl.since + 4096 ∨ s.claimFits core cl = true) : exec (.matrixEviction core) s = .next s := by
  rw [exec_matrixEviction, execMatrixEviction, hf]
  exact congrArg _ (if_pos (by simpa using h))

theorem matrixEviction_evicts (h1 : cl.since + 4096 ≤ s.now) (h2 : s.claimFits core cl = false) :
    exec (.matrixEviction core) s = .next ((s.evictFor core cl
      ((sortBy (fun a b => decide (b.2.placedAt < a.2.placedAt) || (a.2.placedAt == b.2.placedAt && decide (b.1 ≤ a.1)))
        (s.wgs.filter (fun e => e.2.core == core && e.1 != cl.wg && e.2.resid != .saved))).map (·.1))).grantClaim core) := by
  rw [exec_matrixEviction, execMatrixEviction, hf]
  exact congrArg _ (if_neg (by simp [h1, h2]))

end

theorem grantClaim_none {core : Nat} (hf : (s.core core).claims.find? (fun c => !c.granted) = none) : s.grantClaim core = s := by
  unfold State.grantClaim
  rw [hf]

end

/-- Settles O37: the arithmetic of one entry, and each event by the branch of its operation. -/
theorem arrayOrderAndMatrixEvents : Obligations.ArrayOrderAndMatrixEvents := by
  refine ⟨?_, ?_⟩
  · intro d ra rw woff i j old as bs list z w
    refine ⟨fun hp hw _ => mmaEntry_plain hp hw, fun wa wb => groupInt_sum wa wb, fun hg => ?_, fun glen wa wb was wbs acc => addGroups_cons ..,
      fun glen acc => rfl, fun hf hl => ?_⟩
    · have hfmt : (ra.fmt == 3 || ra.fmt == 4) = false := by
        rcases (by simpa [grouped] using hg : ra.fmt = 5 ∨ ra.fmt = 6) with h | h <;> simp [h]
      exact (mmaEntry_float hfmt).trans (by rw [if_pos hg])
    · have hfmt : (ra.fmt == 3 || ra.fmt == 4) = false := by simp; omega
      have hg : ¬grouped ra.fmt = true := by simp [grouped]; omega
      rw [mmaEntry_float hfmt, hl, if_neg hg]
      rfl
  · intro s s1 w id d m0 core ring part v x outl list sc bi o g cl head first parked spoilt wins old others
    refine ⟨fun ⟨hh, hg, hs⟩ hx hp => tileTransfer_moves hh hg hs hx hp, fun hh hg hp => tileTransfer_waits hh hg hp,
      fun ⟨hh, hg, hs⟩ hb => mmaComplete_spoilt hh hg hs hb, fun ⟨hh, hg, hs⟩ hb => mmaComplete_done hh hg hs hb,
      fun cell ⟨hh, hg, hs⟩ hw hp hsp => (epiComplete_ends hh hg hs hw hp).trans (congrArg _ (if_pos hsp)),
      fun cell ⟨hh, hg, hs⟩ hw hp hsp => (epiComplete_ends hh hg hs hw hp).trans (congrArg _ (if_neg (ne_true_of_eq_false hsp))),
      fun cell hh hg hw => epiComplete_waits hh hg hw,
      fun _ _ => ⟨_, _, ringAt_push, rfl, rfl, rfl⟩, rfl, fun n va data ho hk => opAnswered_ring ho hk,
      fun p k q hp hq hpart hk => hpart ▸ scalingRingPush_serves hp hq hk, fun hp => ?_,
      fun hf => congrArg Host.Outcome.next (grantClaim_none hf), fun hf h => congrArg Host.Outcome.next (grantClaim_waits hf h),
      fun hf h => congrArg Host.Outcome.next (grantClaim_fits hf h), fun hf h => matrixEviction_waits hf h,
      fun hf h1 h2 => matrixEviction_evicts hf h1 h2⟩
    rw [exec_scalingRingPush, execScalingRingPush, hp]
    rfl

end Sys2Proof.Proofs
end


section
/-! PROOFS. Graph, guard, push and waggle instructions issue (R194, R195, R330 to R334). -/
namespace Sys2Proof.Proofs
open Sys2Proof.Machine Sys2Proof.Safety Sys2Proof.Laws

section
variable {s s1 s2 : State} {c : Ctl} {o : FX} {u : Cur} {t a b n i0 slot v i hive : Nat} {ph : Phys} {g : Workgroup} {l : Launch} {ns : List (Nat × Nat)}

/-- The state with an operation of an instruction opened. -/
def openedOp (s : State) (i : Instr) (u : Cur) (t : Nat) (k : OpKind) : State := withOp s (opOf s i u t k .vz [])

/-! ## dg.node (R330) -/

theorem dgNode_goes {ad : Nat} (h : Alone s (.dgNode c o) c u t)
    (hc : check (start s (.dgNode c o) c u) u.wg [t] (s.src u.wg t o.a).toNat 64 64 .atomic Aper.g false = (.glob ad ph, s1))
    (hd : s1.doneOwn u.wg t .st ((start s (.dgNode c o) c u).markOf (ctx (.dgNode c o) c u t)) = true) :
    exec (.dgNode c o) s = .next (goOn ((openedOp s1 (.dgNode c o) u t (.node (s1.partOf u.wg))).modPart (s1.partOf u.wg) (fun q => { q with
      preds := q.preds ++ [predOf s1 u.wg ad (some s1.nextId)] })) u.wg t c) := by
  refine goes_alone h (exec_dgNode c o s) ?_
  dsimp only
  rw [ctx_w, ctx_t, ctx_ts, start_src, hc]
  exact if_neg (by simp [hd])

/-! ## dg.go (R331) -/

section
variable (h : Alone s (.dgGo c o) c u t) (hg : s.wg u.wg = some g) (hl : s.launchOf u.wg = some l)
  (ha : (s.src u.wg t o.a).toNat = a) (hb : (s.src u.wg t o.b).toNat = b)

/-- The checks of the pages of an array. -/
def arrayLooks (s : State) (c : Ctl) (o : FX) (u : Cur) (t a n : Nat) : Option (Nat × Nat) × State :=
  (ctx (.dgGo c o) c u t).asks (start s (.dgGo c o) c u) (fun s => arrayChecks s u.wg a (64 * n))

/-- The state in which the operation of a dg.go is open and its child indices are taken. -/
def goOpened (s : State) (c : Ctl) (u : Cur) (t n i0 : Nat) (g : Workgroup) : State :=
  withOp { ({ s with blocked := false } : State).modLaunch g.launch (fun l => { l with children := (List.range n).map (i0 + ·) ++ l.children }) with
    nextId := s.nextId + 1 } { wg := u.wg, tid := t, core := u.core, cls := some .cp, pc := u.pc, kind := .graphGo s.nextId, hint := c.ch.val }

/-- The graph run of a dg.go. -/
def goRun (s : State) (a n i0 : Nat) (g : Workgroup) (l : Launch) : GraphRun :=
  { part := g.part, queue := l.queue, priv := l.priv, asid := l.eff.asid, root := l.eff.ptroot,
    seq := l.lseq, base := a, count := n, issuer := some (g.launch, s.nextId + 1), i0 := i0 }

/-- dg.go once the pages of its array have passed their checks. -/
def arrayStarts (c : Ctl) (o : FX) (u : Cur) (t a n i0 m : Nat) (g : Workgroup) (l : Launch) (s : State) : Act :=
  let x := ctx (.dgGo c o) c u t
  if l.lseq % 65536 != 0 then .trap 0xB2 0 none s
  else if 65535 < i0 + n || l.children.any (fun i => i0 ≤ i && decide (i < i0 + n)) then .trap 0xB3 0 none s
  else if !s.doneOwn u.wg t .st m then .wait (s.begun x m)
  else
    match x.asks (goOpened s c u t n i0 g) (fun r => graphArray r (goRun s a n i0 g l) n a) with
    | (.error 0, r) => x.parks ((s.begun x m).asked r)
    | (.error f, r) => .adv (r.failOp (s.nextId + 1) f a)
    | (.ok ns, r) =>
      let r' := (x.asks r (fun r => ((), r.startArray s.nextId (goRun s a n i0 g l) ns))).2
      if r'.blocked then x.parks ((s.begun x m).asked r') else .adv r'

/-- What dg.go does once it has looked at the pages of its array. -/
def goLooked (c : Ctl) (o : FX) (u : Cur) (t a n i0 m : Nat) (g : Workgroup) (l : Launch) : Option (Nat × Nat) × State → Act
  | (some (0, _), s) => (ctx (.dgGo c o) c u t).parks s
  | (some (f, ad), s) => .trap f ad none s
  | (none, s) => arrayStarts c o u t a n i0 m g l s

theorem goLooked_none {m : Nat} : goLooked c o u t a n i0 m g l (none, s) = arrayStarts c o u t a n i0 m g l s := rfl

include h hg hl ha hb

theorem dgGo_ended : exec (.dgGo c o) s = .next (ended s (.dgGo c o) c u t
    (if b % 2 ^ 16 = 0 then .adv (start s (.dgGo c o) c u)
      else if a % 64 != 0 then .trap 0x2D a none (start s (.dgGo c o) c u)
      else goLooked c o u t a (b % 2 ^ 16) (b / 2 ^ 32 % 2 ^ 16) ((start s (.dgGo c o) c u).markOf (ctx (.dgGo c o) c u t)) g l
        (arrayLooks s c o u t a (b % 2 ^ 16)))) := by
  rw [exec_dgGo, execDgGo, isa_alone h]
  refine congrArg (fun a : Act => Host.Outcome.next (ended s (.dgGo c o) c u t a)) ?_
  dsimp only
  rw [ctx_w, ctx_t, start_wg, hg, start_launchOf, hl, start_src, start_src, ha, hb, bits_low _ 15, bits_eq b 47 32]
  rfl

theorem dgGo_empty (hn : b % 2 ^ 16 = 0) : exec (.dgGo c o) s = .next (goOn (start s (.dgGo c o) c u) u.wg t c) := by
  rw [dgGo_ended h hg hl ha hb, if_pos hn]
  rfl

variable (hn : b % 2 ^ 16 ≠ 0)
include hn

theorem dgGo_misaligned (h64 : a % 64 ≠ 0) : exec (.dgGo c o) s = .next (traps (start s (.dgGo c o) c u) u t 0x2D a) := by
  rw [dgGo_ended h hg hl ha hb, if_neg hn, if_pos (bne_iff_ne.2 h64)]
  rfl

variable (h64 : a % 64 = 0)
include h64

theorem dgGo_looked {r : Option (Nat × Nat)} (hr : arrayLooks s c o u t a (b % 2 ^ 16) = (r, s1)) : exec (.dgGo c o) s = .next (ended s (.dgGo c o) c u t
    (goLooked c o u t a (b % 2 ^ 16) (b / 2 ^ 32 % 2 ^ 16) ((start s (.dgGo c o) c u).markOf (ctx (.dgGo c o) c u t)) g l (r, s1))) := by
  rw [dgGo_ended h hg hl ha hb, if_neg hn, if_neg (by simp [h64]), hr]

variable {f va : Nat}

theorem dgGo_faults (hr : arrayLooks s c o u t a (b % 2 ^ 16) = (some (f, va), s1)) (hf : f ≠ 0) :
    exec (.dgGo c o) s = .next (faulted s1 u t f va c) := by
  rw [dgGo_looked h hg hl ha hb hn h64 hr]
  cases f with
  | zero => exact absurd rfl hf
  | succ f => rfl

theorem dgGo_parks (hr : arrayLooks s c o u t a (b % 2 ^ 16) = (some (0, va), s1)) : exec (.dgGo c o) s = .next (s1.parkHost u.wg [t]) := by
  rw [dgGo_looked h hg hl ha hb hn h64 hr]
  rfl

variable (hr : arrayLooks s c o u t a (b % 2 ^ 16) = (none, s1))
include hr

theorem dgGo_child (hq : l.lseq % 65536 ≠ 0) : exec (.dgGo c o) s = .next (traps s1 u t 0xB2 0) := by
  rw [dgGo_looked h hg hl ha hb hn h64 hr, goLooked_none, arrayStarts, if_pos (by simpa using hq)]
  rfl

variable (hq : l.lseq % 65536 = 0)
include hq

/-- The child indices of an array are below 65,536 and not taken. -/
def indicesFree (l : Launch) (i0 n : Nat) : Prop := ¬(65535 < i0 + n) ∧ ∀ i ∈ l.children, ¬(i0 ≤ i ∧ i < i0 + n)

omit h hg hl ha hb hn h64 hr hq in
theorem indicesFree_iff : ((65535 < i0 + n || l.children.any (fun i => i0 ≤ i && decide (i < i0 + n))) = true) ↔ ¬indicesFree l i0 n := by
  simp [indicesFree, Classical.or_iff_not_imp_left]

theorem dgGo_taken (hfree : ¬indicesFree l (b / 2 ^ 32 % 2 ^ 16) (b % 2 ^ 16)) : exec (.dgGo c o) s = .next (traps s1 u t 0xB3 0) := by
  rw [dgGo_looked h hg hl ha hb hn h64 hr, goLooked_none, arrayStarts, if_neg (by simpa using hq), if_pos (indicesFree_iff.2 hfree)]
  rfl

theorem dgGo_goes (hfree : indicesFree l (b / 2 ^ 32 % 2 ^ 16) (b % 2 ^ 16))
    (hd : s1.doneOwn u.wg t .st ((start s (.dgGo c o) c u).markOf (ctx (.dgGo c o) c u t)) = true)
    (hgr : (ctx (.dgGo c o) c u t).asks (goOpened s1 c u t (b % 2 ^ 16) (b / 2 ^ 32 % 2 ^ 16) g)
      (fun s => graphArray s (goRun s1 a (b % 2 ^ 16) (b / 2 ^ 32 % 2 ^ 16) g l) (b % 2 ^ 16) a) = (.ok ns, s2))
    (hbl : ((ctx (.dgGo c o) c u t).asks s2 (fun s => ((), s.startArray s1.nextId (goRun s1 a (b % 2 ^ 16) (b / 2 ^ 32 % 2 ^ 16) g l) ns))).2.blocked = false) :
    exec (.dgGo c o) s = .next (goOn ((ctx (.dgGo c o) c u t).asks s2
      (fun s => ((), s.startArray s1.nextId (goRun s1 a (b % 2 ^ 16) (b / 2 ^ 32 % 2 ^ 16) g l) ns))).2 u.wg t c) := by
  rw [dgGo_looked h hg hl ha hb hn h64 hr, goLooked_none, arrayStarts, if_neg (by simpa using hq),
    if_neg (fun hc => indicesFree_iff.1 hc hfree), if_neg (by simp [hd])]
  refine congrArg (fun a : Act => Host.Outcome.next (ended s (.dgGo c o) c u t a)) (a₂ := .adv _) ?_
  rw [hgr]
  exact if_neg (by rw [hbl]; exact Bool.false_ne_true)

end

/-! ## eng.guard (R334) -/

theorem guard_opposite_iff {held : Option Bool} (h2 : v < 2) :
    (held.map (fun b => b != (v == 1))).getD false = true ↔ held = some (decide (v = 0)) := by
  obtain rfl | rfl : v = 0 ∨ v = 1 := by omega
  all_goals rcases held with _ | _ | _ <;> decide

section
variable (h : Alone s (.engGuard c o) c u t) (ha : (s.src u.wg t o.a).toNat % 2 ^ 12 = slot)
  (hd : (start s (.engGuard c o) c u).doneOwn u.wg t .st ((start s (.engGuard c o) c u).markOf (ctx (.engGuard c o) c u t)) = true)
  (hv : o.xsub.toNat % 4 = v)
include h ha hd hv

theorem engGuard_ended : exec (.engGuard c o) s = .next (ended s (.engGuard c o) c u t
    (if v < 2 && ((tget (s.part (s.partOf u.wg)).guards slot).map (fun b => b != (v == 1))).getD false then
      .trap 0xB6 slot none (start s (.engGuard c o) c u)
    else .adv (((openedOp (start s (.engGuard c o) c u) (.engGuard c o) u t (.guard (s.partOf u.wg) slot v)).modPart (s.partOf u.wg)
      (fun q => { q with guards := if v = 2 then tdel q.guards slot else tset q.guards slot (v == 1) })).finish s.nextId []))) := by
  rw [exec_engGuard, execEngGuard, isa_alone h]
  refine congrArg (fun a : Act => Host.Outcome.next (ended s (.engGuard c o) c u t a)) ?_
  dsimp only
  rw [ctx_w, ctx_t, start_src, bits_low _ 11, bits_low _ 1, show o.xsub.toNat % 2 ^ (1 + 1) = v from hv,
    show (s.src u.wg t o.a).toNat % 2 ^ (11 + 1) = slot from ha, hd, start_partOf, start_part]
  rw [openOp_ctx, start_nextId]
  rfl

theorem engGuard_refused (h2 : v < 2) (hh : tget (s.part (s.partOf u.wg)).guards slot = some (decide (v = 0))) :
    exec (.engGuard c o) s = .next (traps (start s (.engGuard c o) c u) u t 0xB6 slot) := by
  rw [engGuard_ended h ha hd hv, if_pos (by rw [Bool.and_eq_true, guard_opposite_iff h2]; exact ⟨decide_eq_true h2, hh⟩)]
  rfl

theorem engGuard_resolves (h2 : v < 2) (hh : tget (s.part (s.partOf u.wg)).guards slot ≠ some (decide (v = 0))) :
    exec (.engGuard c o) s = .next (goOn
      (((openedOp (start s (.engGuard c o) c u) (.engGuard c o) u t (.guard (s.partOf u.wg) slot v)).modPart (s.partOf u.wg)
        (fun q => { q with guards := tset q.guards slot (v == 1) })).finish s.nextId []) u.wg t c) := by
  rw [engGuard_ended h ha hd hv, if_neg (by rw [Bool.and_eq_true, guard_opposite_iff h2]; exact fun hc => hh hc.2), ended]
  simp only [show ¬v = 2 by omega, if_false]

theorem engGuard_clears (h2 : v = 2) : exec (.engGuard c o) s = .next (goOn
      (((openedOp (start s (.engGuard c o) c u) (.engGuard c o) u t (.guard (s.partOf u.wg) slot v)).modPart (s.partOf u.wg)
        (fun q => { q with guards := tdel q.guards slot })).finish s.nextId []) u.wg t c) := by
  rw [engGuard_ended h ha hd hv, if_neg (by simp [h2]), ended]
  simp only [h2, if_true]

end

/-! ## lq.push (R195, R332) -/

/-- What an operand holds does not depend on a launch's children. -/
theorem src_children (s : State) (n w t : Nat) (f : Launch → List Nat) (d : Opnd) :
    (s.modLaunch n (fun l => { l with children := f l })).src w t d = s.src w t d := by
  unfold State.src
  rw [show (s.modLaunch n (fun l => { l with children := f l })).wg w = s.wg w from rfl]
  cases s.wg w with
  | none => rfl
  | some g =>
    cases d with
    | sp k =>
      by_cases hn : g.launch = n
      · simp only [State.modLaunch, hn, tget_tmod_same]
        cases tget s.launches n <;> rfl
      · simp only [State.modLaunch, tget_tmod_other _ _ hn]
        cases tget s.launches g.launch <;> rfl
    | _ => rfl

section
variable (h : Alone s (.lqPush c o) c u t) (hg : s.wg u.wg = some g) (hl : s.launchOf u.wg = some l)
  (hi : (s.src u.wg t (Opnd.plus o.b 1)).toNat % 2 ^ 16 = i)
include h hg hl hi

/-- lq.push of a child index that is free. -/
def pushed (s : State) (c : Ctl) (o : FX) (u : Cur) (t : Nat) (g : Workgroup) (i : Nat) : State :=
  let b0 := (s.src u.wg t (Opnd.plus o.b 0)).toNat
  (openedOp ((start s (.lqPush c o) c u).modLaunch g.launch (fun l => { l with children := i :: l.children })) (.lqPush c o) u t
    (.push (u.core / 64) g.launch i (s.src u.wg t o.a).toNat (b0 % 2 ^ 28, b0 / 2 ^ 28 % 2 ^ 16, b0 / 2 ^ 44 % 2 ^ 16)
      (ofN ((s.src u.wg t (Opnd.plus o.b 1)).toNat / 2 ^ 16)))).admitPush (u.core / 64)

theorem lqPush_ended : exec (.lqPush c o) s = .next (ended s (.lqPush c o) c u t
    (if l.lseq % 65536 != 0 then .trap 0xB2 0 none (start s (.lqPush c o) c u)
      else if i = 65535 || l.children.contains i then .trap 0xB3 0 none (start s (.lqPush c o) c u)
      else .adv (pushed s c o u t g i))) := by
  have high : bits (s.src u.wg t (Opnd.plus o.b 1)).toNat 63 16 = (s.src u.wg t (Opnd.plus o.b 1)).toNat / 2 ^ 16 := by
    rw [bits_eq, Nat.mod_eq_of_lt (Nat.div_lt_of_lt_mul (lt_of_lt_of_eq (BitVec.isLt _) (by decide)))]
  rw [exec_lqPush, execLqPush, isa_alone h]
  refine congrArg (fun a : Act => Host.Outcome.next (ended s (.lqPush c o) c u t a)) ?_
  dsimp only [regFrom, ctx_w, ctx_t]
  simp only [start_wg, hg, start_launchOf, hl, start_src, src_children, bits_low, show _ % 2 ^ (15 + 1) = i from hi, high]
  rw [bits_eq _ 43 28, bits_eq _ 59 44, openOp_ctx]
  rfl

theorem lqPush_child (hq : l.lseq % 65536 ≠ 0) : exec (.lqPush c o) s = .next (traps (start s (.lqPush c o) c u) u t 0xB2 0) := by
  rw [lqPush_ended h hg hl hi, if_pos (bne_iff_ne.2 hq)]
  rfl

variable (hq : l.lseq % 65536 = 0)
include hq

theorem lqPush_taken (ht : i = 65535 ∨ i ∈ l.children) : exec (.lqPush c o) s = .next (traps (start s (.lqPush c o) c u) u t 0xB3 0) := by
  rw [lqPush_ended h hg hl hi, if_neg (by simp [hq]), if_pos (by simpa using ht)]
  rfl

theorem lqPush_goes (h1 : i ≠ 65535) (h2 : i ∉ l.children) : exec (.lqPush c o) s = .next (goOn (pushed s c o u t g i) u.wg t c) := by
  rw [lqPush_ended h hg hl hi, if_neg (by simp [hq]), if_neg (by simp [h1, h2])]
  rfl

end

/-! ## wag.send (R333) -/

section
variable (h : Alone s (.wagSend c o) c u t) (hlocal : (s.src u.wg t o.a).toNat.testBit 63 = false)
  (ha : (s.src u.wg t o.a).toNat = a)
include h hlocal ha

/-- A waggle to a hive of the partition is sent. -/
def waggled (s : State) (c : Ctl) (o : FX) (u : Cur) (t hive n : Nat) : State :=
  let r := (openedOp (start s (.wagSend c o) c u) (.wagSend c o) u t (.mem .store)).send {
    src := .core u.core, dst := ((s.part (s.partOf u.wg)).home[(8 * hive + n % 8) % 256]?).getD 0, part := s.partOf u.wg, n := 64, va := 0
    op := some s.nextId
    kind := .atomic (.waggle hive n ((List.range 8).map (fun j => s.src u.wg t (Opnd.plus o.b j)) ++
      [ofN (u.core % 256 + (s.wgName u.wg).1 % 2 ^ 24 * 2 ^ 8 + t % 2 ^ 11 * 2 ^ 32)]))
    ph := { pa := 64 * s.nextId, cache := 2 }, launch := (s.wg u.wg).map (·.launch) }
  r.2.setPieces s.nextId [{ va := 0, n := 0, loc := .net r.1 }]

theorem wagSend_ended : exec (.wagSend c o) s = .next (ended s (.wagSend c o) c u t
    (if !((s.part (s.partOf u.wg)).hives.contains (a % 2 ^ 5)) then .trap 0xB7 0 none (start s (.wagSend c o) c u)
      else .adv (waggled s c o u t (a % 2 ^ 5) (a / 2 ^ 8 % 2 ^ 8)))) := by
  rw [exec_wagSend, execWagSend, isa_alone h]
  refine congrArg (fun a : Act => Host.Outcome.next (ended s (.wagSend c o) c u t a)) ?_
  dsimp only
  rw [ctx_w, ctx_t, start_src]
  refine (if_neg (by rw [bit, hlocal]; exact Bool.false_ne_true)).trans ?_
  rw [ha, start_partOf, bits_low _ 4, bits_eq _ 15 8, openOp_ctx, start_nextId, start_part]
  have regs : regFrom (start s (.wagSend c o) c u) (ctx (.wagSend c o) c u t) o.b = fun j => s.src u.wg t (Opnd.plus o.b j) :=
    funext fun j => start_src ..
  rw [regs]
  refine if_congr Iff.rfl rfl (congrArg Act.adv ?_)
  unfold waggled openedOp senderWord
  rw [show (withOp (start s (.wagSend c o) c u) (opOf (start s (.wagSend c o) c u) (.wagSend c o) u t (.mem .store) .vz [])).wgName
    (ctx (.wagSend c o) c u t).w = s.wgName u.wg by
      show (start s (.wagSend c o) c u).wgName u.wg = _
      simp [State.wgName]]
  rw [show (withOp (start s (.wagSend c o) c u) (opOf (start s (.wagSend c o) c u) (.wagSend c o) u t (.mem .store) .vz [])).wg u.wg =
    s.wg u.wg from start_wg ..]
  rw [show (withOp (start s (.wagSend c o) c u) (opOf (start s (.wagSend c o) c u) (.wagSend c o) u t (.mem .store) .vz [])).part (s.partOf u.wg) =
    s.part (s.partOf u.wg) from start_part ..]
  rfl

theorem wagSend_refused (hh : a % 2 ^ 5 ∉ (s.part (s.partOf u.wg)).hives) :
    exec (.wagSend c o) s = .next (traps (start s (.wagSend c o) c u) u t 0xB7 0) := by
  rw [wagSend_ended h hlocal ha, if_pos (by simpa using hh)]
  rfl

theorem wagSend_goes (hh : a % 2 ^ 5 ∈ (s.part (s.partOf u.wg)).hives) :
    exec (.wagSend c o) s = .next (goOn (waggled s c o u t (a % 2 ^ 5) (a / 2 ^ 8 % 2 ^ 8)) u.wg t c) := by
  rw [wagSend_ended h hlocal ha, if_neg (by simpa using hh)]
  rfl

end

end
end Sys2Proof.Proofs
end


section
/-! PROOFS. Doorbells and ring commands (R185 to R188, R190, R191, R194), and the statement about launch instructions and rings. -/
namespace Sys2Proof.Proofs
open Sys2Proof.Machine Sys2Proof.Safety Sys2Proof.Laws

section
variable {s s1 s2 s3 r : State} {p q value c k l : Nat} {h : HeadCmd} {qu : Queue} {nd : Node} {f : State → State}

/-- An attempt whose result is not held back is its function, over the state with no hold. -/
theorem attempt_gives (hf : f { s with blocked := false } = r) (hr : r.blocked = false) : s.attempt f = r := by
  unfold State.attempt
  rw [hf]
  exact if_neg (by simp [hr])

theorem attempt_result (hf : f { s with blocked := false } = r) : s.attempt f = if r.blocked then s.asked r else r := by
  unfold State.attempt
  rw [hf]

/-! ## Doorbells (R185) -/

/-- A doorbell of a function, once the function's writes are through. -/
def rung (p q value : Nat) (s : State) : State :=
  match tget (s.part p).queues q with
  | none => s.event p 0xB0 (q % 256)
  | some qu =>
    if !(s.part p).registered q then s.event p 0xB0 (q % 256)
    else match readNode s p qu.node with
      | (.error _, s) => s.event p 0xB0 (q % 256)
      | (.ok n, s) =>
        if !n.rings q then s.event p 0xB0 (q % 256)
        else if 2 ^ n.f 1652 1648 < wrapN ((value : Int) - (n.f 1567 1536 : Nat)) 32 then
          s.event p 0xB1 (q % 256 + value % 2 ^ 32 * 2 ^ 32)
        else
          let s := putNode s p qu.node 196 (leBytes 4 value)
          if n.r.testBit 1663 then s
          else s.modPart p (fun x => { x with queues := tmod x.queues q (fun y => { y with halted := false }) })

section
variable (hv : (s.part p).vf = true) (hf : s.hostForwards p = false)
include hv hf

theorem doorbell_gives (hr : rung p q value { s with blocked := false } = r) (hb : r.blocked = false) :
    exec (.doorbell p q value) s = .next r := by
  rw [exec_doorbell, execDoorbell]
  refine congrArg Host.Outcome.next ((if_neg (by simp [hv, hf])).trans (attempt_gives ?_ hb))
  exact hr

theorem doorbell_unknown (hq : tget (s.part p).queues q = none) (hb : (State.event { s with blocked := false } p 0xB0 (q % 256)).blocked = false) :
    exec (.doorbell p q value) s = .next (State.event { s with blocked := false } p 0xB0 (q % 256)) := by
  refine doorbell_gives hv hf ?_ hb
  unfold rung
  rw [show tget (({ s with blocked := false } : State).part p).queues q = none from hq]

variable (hq : tget (s.part p).queues q = some qu) (hg : (s.part p).registered q = true)
  (hn : readNode { s with blocked := false } p qu.node = (.ok nd, s1)) (hr : nd.rings q = true)
include hq hg hn hr

omit hv hf in
theorem rung_node : rung p q value { s with blocked := false } =
    if 2 ^ nd.f 1652 1648 < wrapN ((value : Int) - (nd.f 1567 1536 : Nat)) 32 then s1.event p 0xB1 (q % 256 + value % 2 ^ 32 * 2 ^ 32)
    else if nd.r.testBit 1663 then putNode s1 p qu.node 196 (leBytes 4 value)
    else (putNode s1 p qu.node 196 (leBytes 4 value)).modPart p
      (fun x => { x with queues := tmod x.queues q (fun y => { y with halted := false }) }) := by
  unfold rung
  rw [show tget (({ s with blocked := false } : State).part p).queues q = some qu from hq]
  refine (if_neg (by rw [Bool.not_eq_true', Bool.not_eq_false]; exact hg)).trans ?_
  rw [hn]
  exact if_neg (by simp [hr])

theorem doorbell_rings (hd : wrapN ((value : Int) - (nd.f 1567 1536 : Nat)) 32 ≤ 2 ^ nd.f 1652 1648) (hs : nd.r.testBit 1663 = false)
    (hb : ((putNode s1 p qu.node 196 (leBytes 4 value)).modPart p
      (fun x => { x with queues := tmod x.queues q (fun y => { y with halted := false }) })).blocked = false) :
    exec (.doorbell p q value) s = .next ((putNode s1 p qu.node 196 (leBytes 4 value)).modPart p
      (fun x => { x with queues := tmod x.queues q (fun y => { y with halted := false }) })) :=
  doorbell_gives hv hf ((rung_node hq hg hn hr).trans ((if_neg (not_lt.2 hd)).trans (if_neg (by simp [hs])))) hb

theorem doorbell_stopped (hd : wrapN ((value : Int) - (nd.f 1567 1536 : Nat)) 32 ≤ 2 ^ nd.f 1652 1648) (hs : nd.r.testBit 1663 = true)
    (hb : (putNode s1 p qu.node 196 (leBytes 4 value)).blocked = false) :
    exec (.doorbell p q value) s = .next (putNode s1 p qu.node 196 (leBytes 4 value)) :=
  doorbell_gives hv hf ((rung_node hq hg hn hr).trans ((if_neg (not_lt.2 hd)).trans (if_pos hs))) hb

theorem doorbell_full (hd : 2 ^ nd.f 1652 1648 < wrapN ((value : Int) - (nd.f 1567 1536 : Nat)) 32)
    (hb : (s1.event p 0xB1 (q % 256 + value % 2 ^ 32 * 2 ^ 32)).blocked = false) :
    exec (.doorbell p q value) s = .next (s1.event p 0xB1 (q % 256 + value % 2 ^ 32 * 2 ^ 32)) :=
  doorbell_gives hv hf ((rung_node hq hg hn hr).trans (if_pos hd)) hb

end

/-! ## Ring commands (R186, R187) -/

/-- The event of the command at the head, by its operation. -/
def ringEvent (p q k : Nat) : Instr :=
  if k = 0 then .ringCommandNop p q else if k = 1 then .ringCommandLaunch p q else if k = 2 then .ringCommandGraph p q
    else .ringCommandDigestReset p q

/-- What a command of an operation does: the run, and the discard under a false guard. -/
def commandRun (p q k : Nat) : State → HeadCmd → Nat → State :=
  if k = 0 then endAtOnce p q else if k = 1 then launchCommand p q none else if k = 2 then graphCommand p q else digestReset p q

def commandDiscard (p q k : Nat) : State → HeadCmd → Nat → State :=
  if k = 1 then launchCommand p q (some (0, 0, 0)) else endAtOnce p q

theorem exec_ringEvent (hk : k ≤ 3) : exec (ringEvent p q k) s = .next (s.ringCommand p q k (commandRun p q k) (commandDiscard p q k)) := by
  obtain rfl | rfl | rfl | rfl : k = 0 ∨ k = 1 ∨ k = 2 ∨ k = 3 := by omega
  · exact exec_ringCommandNop ..
  · exact exec_ringCommandLaunch ..
  · exact exec_ringCommandGraph ..
  · exact exec_ringCommandDigestReset ..

/-- What the command at the head comes to. -/
def commandEnds (p q k c : Nat) (h : HeadCmd) (s : State) : State :=
  if badCommand c then (s.takeCmd p q h none).failCmd p q h none 0xB0
  else match s.guardOf p c with
    | none => s
    | some true => commandRun p q k s h c
    | some false => commandDiscard p q k s h c

section
variable (hh : State.headCmd { s with blocked := false } p q = (some h, s1)) (hc : h.cmd = .ok c) (hk : c / 2 ^ 56 % 2 ^ 8 = k) (hk3 : k ≤ 3)
  (hm : h.mayStart s1 p q c = true)
include hh hc hk hk3 hm

theorem ringCommand_head : exec (ringEvent p q k) s = .next
    (if (commandEnds p q k c h s1).blocked then s.asked (commandEnds p q k c h s1) else commandEnds p q k c h s1) := by
  rw [exec_ringEvent hk3, State.ringCommand]
  refine congrArg Host.Outcome.next (attempt_result ?_)
  dsimp only
  rw [hh]
  dsimp only
  rw [hc]
  dsimp only
  have hop : bits c 63 56 = k := (bits_eq ..).trans hk
  refine (if_neg (by simp [hop, hm])).trans ?_
  rfl

theorem ringCommand_gives (hr : commandEnds p q k c h s1 = r) (hb : r.blocked = false) : exec (ringEvent p q k) s = .next r := by
  rw [ringCommand_head hh hc hk hk3 hm, hr]
  exact congrArg _ (if_neg (by simp [hb]))

end

theorem commandEnds_bad (hb : badCommand c = true) : commandEnds p q k c h s = (s.takeCmd p q h none).failCmd p q h none 0xB0 := if_pos hb

section
variable (hb : badCommand c = false)
include hb

theorem commandEnds_held (hg : s.guardOf p c = none) : commandEnds p q k c h s = s := by
  refine (if_neg (by simp [hb])).trans ?_
  rw [hg]

theorem commandEnds_runs (hg : s.guardOf p c = some true) : commandEnds p q k c h s = commandRun p q k s h c := by
  refine (if_neg (by simp [hb])).trans ?_
  rw [hg]

theorem commandEnds_discards (hg : s.guardOf p c = some false) : commandEnds p q k c h s = commandDiscard p q k s h c := by
  refine (if_neg (by simp [hb])).trans ?_
  rw [hg]

end

/-- A LAUNCH resolves its kernel, and NSEQ advances. -/
theorem launchCommand_resolves {grid : Option (Nat × Nat × Nat)} (hfull : s.launchesFull p = false)
    (hr : resolve (s.takeCmd p q h none) 
      { part := p, queue := some q, rcb := c / 2 ^ 64 % 2 ^ 64, lseq := h.node.f 1471 1408,
        origin := .command q h.index, priv := h.qu.priv, grid := grid } = (.ok l, s2)) :
    launchCommand p q grid s h c = (putNode s2 p h.qu.node 176 (leBytes 8 (h.node.f 1471 1408 + 2 ^ 32))).completeEmpty l := by
  refine (if_neg (by simp [hfull])).trans ?_
  dsimp only
  rw [bits_eq c 127 64, hr]
  rfl

/-- The run of a GRAPH command. -/
def commandGraph (p q c : Nat) (h : HeadCmd) (space : Nat × Nat) : GraphRun :=
  { part := p, queue := some q, priv := h.qu.priv, asid := space.1, root := space.2, seq := h.node.f 1471 1408, base := c / 2 ^ 64 % 2 ^ 64,
    count := c / 2 ^ 128 % 2 ^ 32 }

/-- A GRAPH starts its array, and NSEQ advances. -/
theorem graphCommand_starts {space : Nat × Nat} {ns : List (Nat × Nat)}
    (hs : nodeSpace (({ s with nextId := s.nextId + 1 } : State).takeCmd p q h (some s.nextId)) p h.qu.node = (.ok space, s2))
    (hg : graphArray s2 (commandGraph p q c h space) (c / 2 ^ 128 % 2 ^ 32) (c / 2 ^ 64 % 2 ^ 64) = (.ok ns, s3)) :
    graphCommand p q s h c = (putNode s3 p h.qu.node 176 (leBytes 8 (h.node.f 1471 1408 + 2 ^ 32))).startArray s.nextId
      (commandGraph p q c h space) ns := by
  unfold graphCommand
  dsimp only [State.newId]
  rw [hs]
  obtain ⟨asid, root⟩ := space
  dsimp only
  unfold commandGraph at hg ⊢
  simp only [bits_eq c 127 64, bits_eq c 159 128, Nat.reduceAdd, Nat.reduceSub] at hg ⊢
  rw [hg]
  rfl

end

/-- Settles O38: each instruction by its checks in their order, each ring command by the branch of its guard and operation. -/
theorem launchInstructionsAndRings : Obligations.LaunchInstructionsAndRings := by
  refine ⟨?_, ?_⟩
  · intro c o s u t ad ph g l ns s1 s2 node go gd push wag st faults a b b1 part here stored opened n i0 slot v held free s3 run b0 grid hive
      dst x looks after
    refine ⟨fun h hc hd => dgNode_goes h hc hd, fun h ⟨hg, hl⟩ hn => dgGo_empty h hg hl rfl rfl hn,
      fun h ⟨hg, hl⟩ hn h64 => dgGo_misaligned h hg hl rfl rfl hn h64,
      fun h ⟨hg, hl⟩ hn h64 hr hq => dgGo_child h hg hl rfl rfl hn h64 hr hq,
      fun h ⟨hg, hl⟩ hn h64 hr hq hf => dgGo_taken h hg hl rfl rfl hn h64 hr hq hf,
      fun h ⟨hg, hl⟩ hn h64 hr hq hf hd hgr hb => dgGo_goes h hg hl rfl rfl hn h64 hr hq hf hd hgr hb,
      fun f va h ⟨hg, hl⟩ hn h64 hr hf => dgGo_faults h hg hl rfl rfl hn h64 hr hf,
      fun va h ⟨hg, hl⟩ hn h64 hr => dgGo_parks h hg hl rfl rfl hn h64 hr,
      fun h hd h2 hh => engGuard_refused h rfl hd rfl h2 hh, fun h hd h2 hh => engGuard_resolves h rfl hd rfl h2 hh,
      fun h hd h2 => engGuard_clears h rfl hd rfl h2, fun h ⟨hg, hl⟩ hq => lqPush_child h hg hl rfl hq,
      fun h ⟨hg, hl⟩ hq ht => lqPush_taken h hg hl rfl hq ht, fun h ⟨hg, hl⟩ hq h1 h2 => lqPush_goes h hg hl rfl hq h1 h2,
      fun h hlocal hh => wagSend_refused h hlocal rfl hh, fun h hlocal hh => wagSend_goes h hlocal rfl hh⟩
  · intro s s1 s2 s3 p q value c k l asid root h ns qu nd s0 ev head good on gives a seq asks rings bells dist belled run
    have ends : head → ∀ {r : State}, commandEnds p q k c h s1 = r → gives r := fun ⟨hh, hc, hk, hk3, hm⟩ _ hr hb =>
      ringCommand_gives hh hc hk hk3 hm hr hb
    refine ⟨fun ⟨hv, hf, hq, hg, hn, hr⟩ hd hs hb => doorbell_rings hv hf hq hg hn hr hd hs hb,
      fun ⟨hv, hf, hq, hg, hn, hr⟩ hd hs hb => doorbell_stopped hv hf hq hg hn hr hd hs hb,
      fun ⟨hv, hf, hq, hg, hn, hr⟩ hd hb => doorbell_full hv hf hq hg hn hr hd hb,
      fun hv hf hq hb => doorbell_unknown hv hf hq hb, fun hd hbad => ends hd (commandEnds_bad hbad), fun hd hgood hg => ?_,
      fun hd hgood hon hk => ends hd ?_, fun hd hgood hoff hk => ends hd ?_, fun hd hgood hon hk hfull hr => ends hd ?_,
      fun hd hgood hoff hk hfull hr => ends hd ?_, fun hd hgood hon hk hs hg => ends hd ?_, fun hd hgood hon hk => ends hd ?_⟩
    · obtain ⟨hh, hc, hk, hk3, hm⟩ := hd
      refine (ringCommand_head hh hc hk hk3 hm).trans ?_
      rw [commandEnds_held hgood hg]
    · subst hk
      exact commandEnds_runs hgood hon
    · refine (commandEnds_discards hgood hoff).trans ?_
      rw [commandDiscard, if_neg hk]
      rfl
    · subst hk
      exact (commandEnds_runs hgood hon).trans (launchCommand_resolves hfull hr)
    · subst hk
      exact (commandEnds_discards hgood hoff).trans (launchCommand_resolves hfull hr)
    · subst hk
      exact (commandEnds_runs hgood hon).trans (graphCommand_starts (space := (asid, root)) hs hg)
    · subst hk
      exact commandEnds_runs hgood hon

end Sys2Proof.Proofs
end


section
/-! PROOFS. The life of a launch (R145, R193, R195 to R203). -/
namespace Sys2Proof.Proofs
open Sys2Proof.Machine Sys2Proof.Safety Sys2Proof.Laws

section
variable {s s1 s2 s3 s4 t r : State} {p q die lid c w l k : Nat} {la : Launch} {g : Workgroup} {e : Pred} {rest : List Pred} {ch : Child}
  {cs : List Child} {wa : Waggle} {qu : Queue} {lw : LinkWait}

/-! ## Decrements of PRED (R193) -/

/-- What a decrement of a graph's own comes to, once its answer is known. -/
def decremented (p : Nat) (e : Pred) : Except Nat Nat × State → State
  | (.error 0, s) => { s with blocked := true }
  | (.error f, s) => s.event p f e.node
  | (.ok 0, s) => s.event p 0xB4 e.node
  | (.ok 1, s) => s.startNode p e
  | (.ok _, s) => s

theorem graphPredDecrement_gives (hp : (s.part p).preds = e :: rest) (hs : e.start = false) (ho : e.op = none) {a : Except Nat Nat}
    (hd : (State.modPart { s with blocked := false } p (fun q => { q with preds := rest })).decrement p e = (a, s1))
    (hr : decremented p e (a, s1) = r) (hb : r.blocked = false) : exec (.graphPredDecrement p) s = .next r := by
  rw [exec_graphPredDecrement, execGraphPredDecrement, hp]
  refine congrArg Host.Outcome.next ((if_neg (by simp [hs])).trans (attempt_gives ?_ hb))
  dsimp only
  refine (if_neg (by simp [hs])).trans ?_
  rw [hd, ho, ← hr]
  rcases a with f | n
  · cases f <;> rfl
  · rcases n with _ | _ | n <;> rfl

/-- What the store of a decremented value answers. -/
def decrementStored (k : Nat) : Except Nat Unit × State → Except Nat Nat × State
  | (.error f, s) => (.error f, s)
  | (.ok _, s) => (.ok k, s)

section
variable {bs : List Byte} {pl : Phys}
  (hr : readSys s p e.asid e.root e.node 64 = (.ok bs, s1)) (hk : leNat bs / 2 ^ 336 % 2 ^ 32 = k)
  (hp : sysPart s1 p e.asid e.root (e.node + 42) .atomic = (.ok pl, s2))
include hr hk hp

theorem decrement_known : s.decrement p e = if k = 0 then (.ok 0, s2)
    else decrementStored k (writeSys s2 p e.asid e.root (e.node + 42) (leBytes 4 (k - 1))) := by
  unfold State.decrement
  rw [hr]
  dsimp only
  rw [hp, bits_eq (leNat bs) 367 336, show leNat bs / 2 ^ 336 % 2 ^ (367 + 1 - 336) = k from hk]
  rfl

theorem decrement_at_zero (h0 : k = 0) : s.decrement p e = (.ok 0, s2) :=
  (decrement_known hr hk hp).trans (if_pos h0)

theorem decrement_writes (h0 : k ≠ 0) (hw : writeSys s2 p e.asid e.root (e.node + 42) (leBytes 4 (k - 1)) = (.ok (), t)) :
    s.decrement p e = (.ok k, t) := by
  rw [decrement_known hr hk hp, if_neg h0, hw, decrementStored]

theorem decrement_fails {f : Nat} (h0 : k ≠ 0) (hw : writeSys s2 p e.asid e.root (e.node + 42) (leBytes 4 (k - 1)) = (.error f, t)) :
    s.decrement p e = (.error f, t) := by
  rw [decrement_known hr hk hp, if_neg h0, hw, decrementStored]

end

/-! ## Launch queues and the distributor (R195 to R199) -/

theorem launchQueueTake_resolves (hq : s.lq die = ch :: cs) (hp : ch.part = p) (hf : s.launchesFull p = false)
    (hr : resolve { s with blocked := false, lqs := tset s.lqs die cs, lqPlaced := tset s.lqPlaced die 0 }
      { part := ch.part, queue := ch.queue, rcb := ch.rcb, lseq := ch.lseq % 2 ^ 64, origin := .child ch.launch,
        priv := ch.priv, grid := some ch.grid, ks := [(63, ch.k63)] } = (.ok l, s2))
    (hb : (((s2.modLaunch l (fun x => { x with die := some die })).completeEmpty l).admitPush die).blocked = false) :
    exec (.launchQueueTake p die) s = .next (((s2.modLaunch l (fun x => { x with die := some die })).completeEmpty l).admitPush die) := by
  have hfrom : s.takeFrom die = some die := by
    unfold State.takeFrom
    rw [hq]
    rfl
  rw [exec_launchQueueTake, execLaunchQueueTake, hfrom]
  dsimp only
  rw [hq]
  refine congrArg Host.Outcome.next ((if_neg (by simp [hp, hf])).trans (attempt_gives ?_ hb))
  dsimp only
  rw [hr]

theorem workgroupPlace_early (h : s.now < (tget s.placeAt die).getD 0) : exec (.workgroupPlace die) s = .next s := by
  rw [exec_workgroupPlace, execWorkgroupPlace]
  exact congrArg _ (if_pos h)

theorem workgroupPlace_places (h : (tget s.placeAt die).getD 0 ≤ s.now) (hn : s.nextPlacement die = some (lid, la, c))
    (hp : s.place lid la c = some s1) : exec (.workgroupPlace die) s = .next s1 := by
  rw [exec_workgroupPlace, execWorkgroupPlace, hn]
  refine congrArg _ ((if_neg (not_lt.2 h)).trans ?_)
  dsimp only
  rw [hp]
  rfl

theorem priorityReserve_reserves (hl : tget s.launches lid = some la) (h1 : la.placed < la.total)
    (h2 : max (la.resolvedAt + (15 - la.eff.prio) * 65536) la.lastPlaced + 65536 ≤ s.now) :
    exec (.priorityReserve lid) s = .next (s.modLaunch lid (fun l => { l with reserved := true })) := by
  rw [exec_priorityReserve, execPriorityReserve, hl]
  refine congrArg _ (if_pos ?_)
  rw [Bool.and_eq_true, decide_eq_true_eq, decide_eq_true_eq]
  exact ⟨h1, h2⟩

theorem granuleClear_starts (hg : s.wg w = some g) (hr : g.resid = .clearing) (ht : g.clearAt ≤ s.now)
    (hf : g.grans = [] ∨ ∀ x ∈ s.onCore g.core, ¬(x.2.resid = .clearing ∧ x.2.clearAt < g.clearAt)) :
    exec (.granuleClearComplete w) s = .next
      (if (tget s.launches g.launch).any (fun l => l.origin == .waggle) then
        (s.modWg w (fun g => { g with resid := .resident, threads := g.threads.map (fun th => { th with readyAt := s.now }) })).discard g.core .ls
          (fun _ => true)
      else s.modWg w (fun g => { g with resid := .resident, threads := g.threads.map (fun th => { th with readyAt := s.now }) })) := by
  have clear : (!g.grans.isEmpty && (s.onCore g.core).any (fun e => e.2.resid == .clearing && decide (e.2.clearAt < g.clearAt))) = false := by
    rcases hf with h | h
    · rw [h]
      rfl
    · rw [Bool.and_eq_false_iff]
      exact .inr (List.any_eq_false.2 fun x hx => by simpa using h x hx)
  rw [exec_granuleClearComplete, execGranuleClearComplete, hg]
  refine congrArg _ ((if_neg ?_).trans rfl)
  rw [clear, hr]
  simp [ht]

/-! ## Links and waggle handlers (R145, R203) -/

theorem digestLinkAppend_appends (hq : tget (s.part p).queues q = some qu) (hl : s.nextLink p q qu = some lw) {bs : Nat}
    (hn : State.nodeBits { s with blocked := false } p qu.node = (bs, s1))
    (hb : ((putNode s1 p qu.node 224 (sha3 (leBytes 32 (bs / 2 ^ 1792 % 2 ^ 256) ++ leBytes 8 lw.lseq ++ lw.digest))).modPart p
      (fun x => { x with queues := tmod x.queues q (fun y => { y with links := y.links.erase lw }) })).blocked = false) :
    exec (.digestLinkAppend p q) s = .next
      ((putNode s1 p qu.node 224 (sha3 (leBytes 32 (bs / 2 ^ 1792 % 2 ^ 256) ++ leBytes 8 lw.lseq ++ lw.digest))).modPart p
        (fun x => { x with queues := tmod x.queues q (fun y => { y with links := y.links.erase lw }) })) := by
  rw [exec_digestLinkAppend, execDigestLinkAppend, hq]
  dsimp only
  rw [hl]
  refine congrArg Host.Outcome.next (attempt_gives ?_ hb)
  rw [hn, bits_eq bs 2047 1792]

section
variable {n : Node} {b : List Byte}

/-- The earliest waggle that has reached its hive is taken. -/
def waggleTaken (s : State) (p : Nat) (wa : Waggle) : State :=
  State.modPart { s with blocked := false } p (fun q => { q with waggles := q.waggles.filter (fun e => e.id != wa.id) })

variable (hw : (s.part p).waggles.find? (·.here) = some wa)
  (hn : readNode (waggleTaken s p wa) p ((waggleTaken s p wa).part p).rootRcb = (.ok n, s2))
  (hr : readSys s2 p ((waggleTaken s p wa).part p).rootAsid ((waggleTaken s p wa).part p).rootPt (n.f 1727 1664 + 8 * wa.n) 8 = (.ok b, s3))
include hw hn hr

theorem waggleHandler_none (h0 : (leNat b).testBit 0 = false) (hb : (s3.event p 0xB7 (wa.n % 256 + wa.hive % 32 * 256) wa.ltag).blocked = false) :
    exec (.waggleHandlerLaunch p) s = .next (s3.event p 0xB7 (wa.n % 256 + wa.hive % 32 * 256) wa.ltag) := by
  rw [exec_waggleHandlerLaunch, execWaggleHandlerLaunch, hw]
  refine congrArg Host.Outcome.next (attempt_gives ?_ hb)
  unfold waggleTaken at hn hr
  dsimp only
  rw [hn]
  dsimp only
  rw [hr]
  exact if_pos (by rw [bit, h0]; rfl)

theorem waggleHandler_launches (h0 : (leNat b).testBit 0 = true)
    (hl : resolve s3
      { part := p, queue := none, rcb := leNat b / 256 * 256, lseq := 0, origin := .waggle, priv := false
        grid := some (1, 1, 1), hiveOnly := some wa.hive, handler := true
        ks := wa.regs.zipIdx.map (fun e => (e.2, e.1)) } = (.ok l, s4)) (hb : s4.blocked = false) :
    exec (.waggleHandlerLaunch p) s = .next s4 := by
  rw [exec_waggleHandlerLaunch, execWaggleHandlerLaunch, hw]
  refine congrArg Host.Outcome.next (attempt_gives ?_ hb)
  unfold waggleTaken at hn hr
  dsimp only
  rw [hn]
  dsimp only
  rw [hr]
  refine (if_neg (by rw [bit, h0]; decide)).trans ?_
  rw [hl]

end

end
end Sys2Proof.Proofs
end


section
/-! PROOFS. The life of a workgroup: retirement, save and restore (R189, R398 to R405), and the statement about launches and workgroups. -/
namespace Sys2Proof.Proofs
open Sys2Proof.Machine Sys2Proof.Safety Sys2Proof.Laws

section
variable {s s1 : State} {w core i : Nat} {g : Workgroup} {l : Launch}

/-! ## Retirement (R189) -/

/-- A workgroup has left its launch and its core. -/
def retired (s : State) (w : Nat) (g : Workgroup) : State :=
  let s0 := s.endMembership w
  let gone : State := { s0 with wgs := tdel s0.wgs w, ops := s0.ops.filter (fun e => e.2.wg != w) }
  let freed := gone.modCore g.core (fun k => { k with
    claims := k.claims.filter (fun c => c.wg != w), needs := k.needs.filter (fun n => n.2.1 != w)
    latches := k.latches.filter (fun l => l.wg != w) })
  (freed.grantClaims g.core (freed.core g.core).claims.length).modLaunch g.launch (fun l => { l with
    retired := l.retired + 1, faulted := l.faulted || (g.lostWork || g.torn) })

/-- The launch of a workgroup that has left completes with its last workgroup. -/
def launchEnds (g : Workgroup) (s : State) : State :=
  match tget s.launches g.launch with
  | some l => if l.retired == l.total then s.completeLaunch g.launch else s
  | none => s

theorem settleHost_blocked (p : Nat) : (s.settleHost p).blocked = s.blocked := by
  unfold State.settleHost
  split <;> rfl

/-- What a workgroup waits for before it retires is over. -/
def mayRetire (s : State) (w : Nat) (g : Workgroup) : Prop :=
  s.wg w = some g ∧ s.spent w g = true ∧ s.combPending w = false ∧ s.windowPending w = false ∧
    (s.launchForwards g.launch = true → ∀ x, tget s.launches g.launch = some x → x.retired + 1 ≠ x.total)

theorem workgroupRetire_goes (h : mayRetire s w g) (hb : (launchEnds g (retired { s with blocked := false } w g)).blocked = false) :
    exec (.workgroupRetire w) s = .next ((launchEnds g (retired { s with blocked := false } w g)).settleHost g.part) := by
  obtain ⟨hg, hs, hc, hw, hf⟩ := h
  rw [exec_workgroupRetire, execWorkgroupRetire, hg]
  refine congrArg Host.Outcome.next ((if_neg ?_).trans (attempt_gives rfl ?_))
  · rw [hs, hc, hw]
    simp only [Bool.not_true, Bool.false_or, Bool.and_eq_true, not_and, Option.any_eq_true, beq_iff_eq]
    rintro ⟨x, hx, ht⟩ hfw
    exact hf hfw x hx ht
  · exact (settleHost_blocked _).trans hb

section
variable (h : mayRetire s w g) (hl : tget (retired { s with blocked := false } w g).launches g.launch = some l)
include h hl

theorem workgroupRetire_more (hr : l.retired ≠ l.total) (hb : (retired { s with blocked := false } w g).blocked = false) :
    exec (.workgroupRetire w) s = .next ((retired { s with blocked := false } w g).settleHost g.part) := by
  have ends : launchEnds g (retired { s with blocked := false } w g) = retired { s with blocked := false } w g := by
    unfold launchEnds
    rw [hl]
    exact if_neg (by simpa using hr)
  rw [workgroupRetire_goes h (by rw [ends]; exact hb), ends]

theorem workgroupRetire_last (hr : l.retired = l.total) (hb : ((retired { s with blocked := false } w g).completeLaunch g.launch).blocked = false) :
    exec (.workgroupRetire w) s = .next (((retired { s with blocked := false } w g).completeLaunch g.launch).settleHost g.part) := by
  have ends : launchEnds g (retired { s with blocked := false } w g) = (retired { s with blocked := false } w g).completeLaunch g.launch := by
    unfold launchEnds
    rw [hl]
    exact if_pos (by simpa using hr)
  rw [workgroupRetire_goes h (by rw [ends]; exact hb), ends]

end

theorem workgroupRetire_stays (hg : s.wg w = some g) (hs : s.spent w g = false) : exec (.workgroupRetire w) s = .next s := by
  rw [exec_workgroupRetire, execWorkgroupRetire, hg]
  exact congrArg _ (if_pos (by rw [hs]; rfl))

/-! ## Saves (R401) -/

theorem workgroupSave_unasked (hg : s.wg w = some g) (h0 : g.saveFor = 0) : exec (.workgroupSave w) s = .next s := by
  rw [exec_workgroupSave, execWorkgroupSave, hg]
  exact congrArg _ (if_pos (by simp [h0]))

/-- The threads of a workgroup that have a deferred fault to meet. -/
def lateThreads (g : Workgroup) : List Nat := g.which (fun th => th.st == .run && !th.faults.isEmpty && !th.waitsOp)

/-- Every frame of a workgroup leaves the core. -/
def framesOut (s : State) (w : Nat) (g : Workgroup) : Bool × State :=
  (List.range g.threads.length).foldl (spillThread w ((g.threads.map (fun th => th.frames.length)).sum + 1)) (true, s)

/-- The sections of a workgroup are written. -/
def sectionsWritten (s : State) (w : Nat) (g : Workgroup) : State :=
  let kept := (s.keepSources w).dropReads w g.core
  (kept.sections w).foldl (fun (s : State) x => s.writeSection w x) kept

/-- A workgroup whose sections are written is saved. -/
def contextSaved (s : State) (w : Nat) (g : Workgroup) : State :=
  let written := sectionsWritten s w g
  let left := (({ written with nextId := written.nextId + 1 } : State).modWg w (fun g => { g with
    resid := .saved, savedAt := written.nextId, evicted := []
    threads := g.threads.map (Thread.saved written.now) })).modCore g.core (fun k => { k with
      claims := k.claims.filter (fun c => c.wg != w), needs := k.needs.filter (fun x => x.2.1 != w)
      latches := k.latches.filter (fun l => l.wg != w) })
  let saved := (left.grantClaims g.core (left.core g.core).claims.length).grantLanes g.core
  let posted := if g.saveFor = 3 then
    saved.post g.part { kind := 4, cause := 0, ltag := (saved.wgName w).1, wgidx := (saved.wgName w).2 } else saved
  posted.settleHost g.part

/-- What a save comes to once the frames of its threads have left. -/
def afterFrames (w : Nat) (g : Workgroup) : Bool × State → State
  | (false, s) => s
  | (true, s) => if s.storesOut w then s else s.attempt (fun s => contextSaved s w g)

section
variable (hg : s.wg w = some g) (hs : g.saveFor ≠ 0) (hr : g.resid = .resident)
include hg hs hr

theorem workgroupSave_asked : exec (.workgroupSave w) s = .next
    (if !(lateThreads g).isEmpty then (lateThreads g).foldl (fun (s : State) t => s.deliverDeferred w t) s
      else if !s.quiet w g then s
      else afterFrames w g (framesOut s w g)) := by
  rw [exec_workgroupSave, execWorkgroupSave, hg]
  refine congrArg Host.Outcome.next ((if_neg (by simp [hs, hr])).trans ?_)
  rfl

theorem workgroupSave_late (hl : lateThreads g ≠ []) :
    exec (.workgroupSave w) s = .next ((lateThreads g).foldl (fun (s : State) t => s.deliverDeferred w t) s) := by
  rw [workgroupSave_asked hg hs hr]
  exact congrArg _ (if_pos (by simpa using hl))

variable (hl : lateThreads g = [])
include hl

theorem workgroupSave_busy (hq : s.quiet w g = false) : exec (.workgroupSave w) s = .next s := by
  rw [workgroupSave_asked hg hs hr]
  exact congrArg _ ((if_neg (by simp [hl])).trans (if_pos (by simp [hq])))

variable (hq : s.quiet w g = true)
include hq

theorem workgroupSave_quiet : exec (.workgroupSave w) s = .next (afterFrames w g (framesOut s w g)) := by
  rw [workgroupSave_asked hg hs hr]
  exact congrArg _ ((if_neg (by simp [hl])).trans (if_neg (by simp [hq])))

theorem workgroupSave_spills (hf : framesOut s w g = (false, s1)) : exec (.workgroupSave w) s = .next s1 := by
  rw [workgroupSave_quiet hg hs hr hl hq, hf]
  rfl

theorem workgroupSave_stores (hf : framesOut s w g = (true, s1)) (ho : s1.storesOut w = true) : exec (.workgroupSave w) s = .next s1 := by
  rw [workgroupSave_quiet hg hs hr hl hq, hf]
  exact congrArg _ (if_pos ho)

theorem workgroupSave_done (hf : framesOut s w g = (true, s1)) (ho : s1.storesOut w = false)
    (hb : (contextSaved { s1 with blocked := false } w g).blocked = false) :
    exec (.workgroupSave w) s = .next (contextSaved { s1 with blocked := false } w g) := by
  rw [workgroupSave_quiet hg hs hr hl hq, hf]
  exact congrArg _ ((if_neg (by simp [ho])).trans (attempt_gives rfl hb))

end

/-! ## Restores (R402, R405) -/

/-- A workgroup whose sections pass their checks comes back. -/
def cameBack (w core : Nat) (g : Workgroup) (s : State) : State :=
  let grans := s.freeScratch core g.grans.length
  let s := (((s.modWg w (fun h => { h with
    resid := .clearing, core := core, grans := grans, wantBack := false, saveFor := 0, placedAt := s.now
    clearAt := if grans.isEmpty then s.now else s.clearFrom core + 64 * grans.length, evicted := [0, 1, 2]
    threads := h.threads.map (fun (th : Thread) => { th with
      readyAt := s.now
      st := match th.st with
        | .parked (.sleep n) => .parked (.sleep (s.now + n))
        | st => st }) })).vacate (core / 8) 1).discard core .ls (fun _ => true)).modSources w (fun _ => none)
  let s := (List.range g.threads.length).foldl (fun (s : State) t => s.backThread w t) s
  let s := (List.range g.threads.length).foldl (fun (s : State) t => (s.backUnwind w t).backFaults w t) s
  ({ s with ops := s.ops.map (fun (e : Nat × Op) => if e.2.wg == w then (e.1, { e.2 with core := core }) else e) } :
    State).settleHost g.part

/-- A workgroup whose section fails its check is torn down. -/
def restoreFails (w : Nat) (g : Workgroup) (s : State) (i : Nat) : State :=
  ((s.teardown w).event g.part 0xB9 i (s.wgName w).1 (s.wgName w).2).settleHost g.part

/-- What a restore comes to once its sections are checked. -/
def restored (w core : Nat) (g : Workgroup) : Option Nat × State → State
  | (some i, s) => restoreFails w g s i
  | (none, s) => cameBack w core g s

/-- The sections of a workgroup are checked, or one is said to fail. -/
def sectionsChecked (s : State) (w : Nat) : Option Nat → Option Nat × State
  | some i => (some (min i 4), s)
  | none => s.badSection w

/-- A saved workgroup is the next that comes back, and fits on the core. -/
def mayRestore (s : State) (w core : Nat) (g : Workgroup) (l : Launch) : Prop :=
  s.wg w = some g ∧ s.launchOf w = some l ∧ g.resid = .saved ∧ g.wantBack = true ∧ s.firstBack g = true ∧
    core ∈ s.homeCores g l ∧ s.fitsCore l core = true ∧ s.reservedFrom g.launch l core = false ∧ g.mq.all s.parkedEpi = true ∧
    s.entriesDue w g = false

theorem workgroupRestore_gives {r : State} {bad : Option Nat} {a : Option Nat × State} (h : mayRestore s w core g l)
    (hc : sectionsChecked { s with blocked := false } w bad = a) (hr : restored w core g a = r) (hb : r.blocked = false) :
    exec (.workgroupRestore w core bad) s = .next r := by
  obtain ⟨hg, hl, hres, hwant, hfirst, hcore, hfits, hrsv, hmq, hdue⟩ := h
  subst hc hr
  rw [exec_workgroupRestore, execWorkgroupRestore, hg, hl]
  refine congrArg Host.Outcome.next ((if_neg ?_).trans (attempt_gives ?_ hb))
  · have on : (s.homeCores g l).contains core = true := by simpa using hcore
    rw [hres, hwant, hfirst, on, hfits, hrsv, hmq, hdue]
    decide
  · cases bad with
    | some i => rfl
    | none =>
      dsimp only [sectionsChecked]
      rcases State.badSection { s with blocked := false } w with ⟨_ | _, _⟩ <;> rfl

theorem workgroupRestore_resident (hg : s.wg w = some g) (hr : g.resid ≠ .saved) : exec (.workgroupRestore w core none) s = .next s := by
  rw [exec_workgroupRestore, execWorkgroupRestore, hg]
  cases s.launchOf w with
  | none => rfl
  | some l => exact congrArg _ (if_pos (by simp [hr]))

end

/-- Settles O39: each event by its conditions, and by what its attempt gives. -/
theorem launchesAndWorkgroups : Obligations.LaunchesAndWorkgroups := by
  refine ⟨?_, ?_⟩
  · intro s s1 s2 p q die lid c w l k la g e rest ch cs wa qu lw fresh gives popped pred took asks h
    refine ⟨fun ⟨hp, hs, ho, hd⟩ hb => graphPredDecrement_gives hp hs ho hd rfl hb,
      fun hk ⟨hp, hs, ho, hd⟩ hb => graphPredDecrement_gives hp hs ho hd ?_ hb,
      fun ⟨hp, hs, ho, hd⟩ hb => graphPredDecrement_gives hp hs ho hd rfl hb,
      fun f hf ⟨hp, hs, ho, hd⟩ hb => graphPredDecrement_gives hp hs ho hd ?_ hb,
      fun bs pl t hr hk hp => ⟨fun h0 => decrement_at_zero hr hk hp h0, fun h0 hw => decrement_writes hr hk hp h0 hw,
        fun f h0 hw => decrement_fails hr hk hp h0 hw⟩,
      fun hq hp hf hr hb => launchQueueTake_resolves hq hp hf hr hb, fun h => workgroupPlace_early h,
      fun h hn hp => workgroupPlace_places h hn hp, fun hl h1 h2 => priorityReserve_reserves hl h1 h2,
      fun hg hr ht hf => granuleClear_starts hg hr ht hf, fun hq hl hb => digestLinkAppend_appends hq hl rfl hb,
      fun hw n s2 s3 b hn hr => ⟨fun h0 hb => waggleHandler_none hw hn hr h0 hb,
        fun s4 h0 hl hb => waggleHandler_launches hw hn hr h0 hl hb⟩⟩
    · obtain ⟨k, rfl⟩ : ∃ m, k = m + 2 := ⟨k - 2, by omega⟩
      rfl
    · cases f with
      | zero => exact absurd rfl hf
      | succ f => rfl
  · intro s s1 w core i g l s0 gone freed ended spent back all late spilled kept written left saved posted again fails fresh asked gives
    exact ⟨fun h hl hr hb => workgroupRetire_more h hl hr hb, fun h hl hr hb => workgroupRetire_last h hl hr hb,
      fun hg hs => workgroupRetire_stays hg hs, fun hg h0 => workgroupSave_unasked hg h0,
      fun ⟨hg, hs, hr⟩ hl => workgroupSave_late hg hs hr hl, fun ⟨hg, hs, hr⟩ hl hq => workgroupSave_busy hg hs hr hl hq,
      fun ⟨hg, hs, hr⟩ hl hq hf => workgroupSave_spills hg hs hr hl hq hf,
      fun ⟨hg, hs, hr⟩ hl hq hf ho => workgroupSave_stores hg hs hr hl hq hf ho,
      fun ⟨hg, hs, hr⟩ hl hq hf ho hb => workgroupSave_done hg hs hr hl hq hf ho hb,
      fun h hb => workgroupRestore_gives h rfl rfl hb, fun h hbad hb => workgroupRestore_gives h hbad rfl hb,
      fun h hbad hb => workgroupRestore_gives h hbad rfl hb, fun hg hr => workgroupRestore_resident hg hr⟩

end Sys2Proof.Proofs
end


section
/-! PROOFS. The host's accesses, registers, queue table and requests (R416 to R423, R431). -/
namespace Sys2Proof.Proofs
open Sys2Proof.Machine Sys2Proof.Safety Sys2Proof.Laws

section
variable {s s1 : State} {p va n q k value off w op f a : Nat} {bytes : List Byte} {data : Option (List Byte)} {g : Workgroup} {r : List Nat}

/-! ## BAR2 (R416) -/

theorem netAnswer_fails {α : Type} {g : α → State → State} (hf : f ≠ 0) : netAnswer g (.error (f, a), s) = (some (f, a), s) := by
  cases f with
  | zero => exact absurd rfl hf
  | succ f => rfl

theorem hostBar2Access_function (h16 : p ≠ 16) (hv : (s.part p).vf = true) (ha : va + data.elim n List.length ≤ 2 ^ 40) :
    exec (.hostBar2Access p va n data) s =
      .next (s.viaNet (.host p va n data) .host (fun s => s.barMove p va n data) (fun e s => s.barEnd p data e)) := by
  refine (exec_hostBar2Access ..).trans ?_
  exact congrArg Host.Outcome.next ((if_neg h16).trans ((if_neg (by simp [hv])).trans (if_neg (not_lt.2 ha))))

theorem hostBar2Access_root (ha : va + n ≤ 2 ^ 34) :
    exec (.hostBar2Access 16 va n none) s = .next { s with hostData := some (s.readFirmware va n) } := by
  refine (exec_hostBar2Access ..).trans (congrArg Host.Outcome.next ((if_pos rfl).trans (if_pos ha)))

section
variable (hr : readSysAt s p (s.part p).rootAsid (s.part p).rootPt va n = (.ok bytes, s1))
include hr

theorem barMove_reads : s.barMove p va n none = (none, { s1 with hostData := some bytes }) := by
  unfold State.barMove
  dsimp only
  rw [hr]
  rfl

end

theorem barMove_unread (hr : readSysAt s p (s.part p).rootAsid (s.part p).rootPt va n = (.error (f, a), s1)) (hf : f ≠ 0) :
    s.barMove p va n none = (some (f, a), s1) := by
  unfold State.barMove
  dsimp only
  rw [hr]
  exact netAnswer_fails hf

theorem barMove_writes (hw : writeAs s p (s.part p).rootAsid (s.part p).rootPt va bytes (0, p, 0) = (.ok (), s1)) :
    s.barMove p va n (some bytes) = (none, s1) := by
  unfold State.barMove
  dsimp only
  rw [hw]
  rfl

theorem barMove_unwritten (hw : writeAs s p (s.part p).rootAsid (s.part p).rootPt va bytes (0, p, 0) = (.error (f, a), s1)) (hf : f ≠ 0) :
    s.barMove p va n (some bytes) = (some (f, a), s1) := by
  unfold State.barMove
  dsimp only
  rw [hw]
  exact netAnswer_fails hf

/-! ## The register page (R418, R419, R422) -/

section
variable (hv : (s.part p).vf = true)
include hv

theorem registerWrite_plain (ho : off ∈ [0x1000, 0x1050, 0x1400, 0x1408, 0x1410, 0x1418, 0x1420, 0x1428, 0x1800]) :
    exec (.registerWrite p off value) s = .next (s.modPart p (fun q => { q with regs := tset q.regs off (ofN value) })) := by
  have held : plainReg off = true ∧ regMask off value = value % 2 ^ 64 := by
    simp only [List.mem_cons, List.not_mem_nil, or_false] at ho
    rcases ho with rfl | rfl | rfl | rfl | rfl | rfl | rfl | rfl | rfl
    all_goals exact ⟨rfl, rfl⟩
  obtain ⟨hp, hm⟩ := held
  rw [exec_registerWrite, execRegisterWrite]
  refine congrArg _ ((if_neg (by simp [hv])).trans ((if_pos hp).trans ?_))
  rw [hm, ofN_mod]

theorem registerWrite_response : exec (.registerWrite p 0x1030 value) s = .next (s.modPart p (fun q => { q with fqresp0 := ofN value })) := by
  rw [exec_registerWrite, execRegisterWrite]
  exact congrArg _ ((if_neg (by simp [hv])).trans ((if_neg (by decide)).trans (if_pos rfl)))

theorem qtabWrite_busy (hq : q < 64) (hb : s.queueBusy p q = (true, s1)) : exec (.qtabWrite p q value) s = .next (s1.event p 0xB0 q) := by
  rw [exec_qtabWrite, execQtabWrite]
  refine congrArg _ ((if_neg (by simp [hv, hq])).trans ?_)
  rw [hb]

theorem qtabWrite_writes (hq : q < 64) (hb : s.queueBusy p q = (false, s1)) :
    exec (.qtabWrite p q value) s = .next (s1.modPart p (fun x => { x with
      qtab := tset x.qtab q (ofN value)
      queues := tset x.queues q { (tget x.queues q).getD { node := 0, priv := false } with
        node := value / 2 ^ 8 % 2 ^ 56 * 256, priv := value.testBit 1 } })) := by
  rw [exec_qtabWrite, execQtabWrite]
  refine congrArg _ ((if_neg (by simp [hv, hq])).trans ?_)
  rw [hb, bits_eq value 63 8]
  rfl

omit hv in
theorem fqresp1_waits (hf : s.hostForwards p = true) : exec (.fqresp1 p value) s = .next s := by
  rw [exec_fqresp1, execFqresp1]
  exact congrArg _ (if_neg (by simp [hf]))

omit hv in
theorem respondEntry_none (hn : s.kind2s.find? (fun e => e.2.part == p && e.2.seqno == value % 2 ^ 32) = none) :
    s.respondEntry p value = s := by
  unfold State.respondEntry
  rw [bits_low _ 31, hn]

omit hv in
theorem fqresp1_unnamed (hn : ∀ e ∈ s.kind2s, ¬(e.2.part = p ∧ e.2.seqno = value % 2 ^ 32)) : exec (.fqresp1 p value) s = .next s := by
  rw [exec_fqresp1, execFqresp1]
  refine congrArg _ ((ite_congr rfl (fun _ => respondEntry_none ?_) (fun _ => rfl)).trans (ite_self _))
  exact List.find?_eq_none.2 fun e he => by simpa using hn e he

theorem fqresp1_responds {id : Nat} {e : Kind2} (hf : s.hostForwards p = false)
    (hn : s.kind2s.find? (fun e => e.2.part == p && e.2.seqno == value % 2 ^ 32) = some (id, e)) (he : e.eng = none)
    (ha : value / 2 ^ 32 % 2 ^ 8 < 3) : exec (.fqresp1 p value) s = .next
      (({ s with kind2s := tdel s.kind2s id } : State).respond e.wg e.line (value / 2 ^ 32 % 2 ^ 8) (value / 2 ^ 40 % 2 ^ 24)
        (s.part p).fqresp0 (s.stillParked e.wg e.tids (.entry id)) none none) := by
  rw [exec_fqresp1, execFqresp1]
  refine congrArg _ ((if_pos (by simp [hv, hf])).trans ?_)
  unfold State.respondEntry
  rw [bits_low _ 31, hn, bits_eq value 39 32, bits_eq value 63 40]
  dsimp only
  refine (if_neg ?_).trans ?_
  · rw [he]
    simpa using ha
  · rw [he]
    rfl

end

/-! ## Host requests (R423, R431) -/

theorem hreq_busy {f : State → State} (hv : (s.part p).vf = true) (hb : (s.part p).hstat.toNat.testBit 0 = true) :
    s.hreq p value op f = s.modPart p (fun q => { q with hstat := 5 }) :=
  (if_neg (by simp [hv])).trans (if_pos hb)

/-- A function that takes the request of an operation. -/
def requested (s : State) (p value op : Nat) : Prop :=
  ((s.part p).vf = true ∧ (s.part p).hstat.toNat.testBit 0 = false ∧ value / 2 ^ 10 % 4 = 0) ∧ value % 16 = op ∧ op ≠ 0 ∧ op ≤ 4

theorem hreq_takes {f : State → State} (h : requested s p value op) : s.hreq p value op f = f s := by
  obtain ⟨⟨hv, hb, hz⟩, hop, h0, h4⟩ := h
  have h3 : bits value 3 0 = op := (bits_low value 3).trans hop
  have h10 : bits value 11 10 = 0 := (bits_eq value 11 10).trans hz
  refine (if_neg (by simp [hv])).trans ((if_neg (by rw [bit, hb]; exact Bool.false_ne_true)).trans ((if_neg ?_).trans (if_neg ?_)))
  · rw [h3, h10]
    simp [h0, h4]
  · rw [h3]
    simp

theorem switchOut_takes (h : requested s p value 1) (hq : s.hasQueue p (value / 2 ^ 4 % 2 ^ 6) = true) :
    exec (.switchOut p value) s = .next (({ s.setSwitched p (value / 2 ^ 4 % 2 ^ 6) true with
      wgs := s.wgs.map (fun (e : Nat × Workgroup) => if s.ofQueue p (value / 2 ^ 4 % 2 ^ 6) e.2 && !e.2.torn && e.2.saveFor != 3 then
        (e.1, { e.2 with saveFor := 2, wantBack := false }) else e) } : State).settleHost p) := by
  rw [exec_switchOut, execSwitchOut, hreq_takes h, bits_eq value 9 4]
  exact congrArg _ (if_neg (by rw [hq]; decide))

theorem switchOut_unknown (h : requested s p value 1) (hq : ¬s.hasQueue p (value / 2 ^ 4 % 2 ^ 6) = true) :
    exec (.switchOut p value) s = .next (s.modPart p (fun q => { q with hstat := ofN 2 })) := by
  rw [exec_switchOut, execSwitchOut, hreq_takes h, bits_eq value 9 4]
  exact congrArg _ (if_pos (by rw [Bool.not_eq_true'] ; exact (Bool.not_eq_true _).mp hq))

theorem switchIn_takes (h : requested s p value 2) (hq : s.hasQueue p (value / 2 ^ 4 % 2 ^ 6) = true) :
    exec (.switchIn p value) s = .next (({ s.setSwitched p (value / 2 ^ 4 % 2 ^ 6) false with
      wgs := s.wgs.map (fun (e : Nat × Workgroup) => if s.ofQueue p (value / 2 ^ 4 % 2 ^ 6) e.2 && e.2.saveFor == 2 && e.2.resid == .saved then
        (e.1, { e.2 with wantBack := true }) else e) } : State).settleHost p) := by
  rw [exec_switchIn, execSwitchIn, hreq_takes h, bits_eq value 9 4]
  exact congrArg _ (if_neg (by rw [hq]; decide))

theorem restore_takes (h : requested s p value 3) (hw : s.findWg p (value / 2 ^ 12 % 2 ^ 24) (value / 2 ^ 36 % 2 ^ 28) = some (w, g))
    (hr : g.resid = .saved) (hs : 2 ≤ g.saveFor) : exec (.restore p value) s =
      .next ((s.modWg w (fun g => { g with wantBack := true })).modPart p (fun q => { q with hstat := 1 })) := by
  rw [exec_restore, execRestore, hreq_takes h, bits_eq value 35 12, bits_eq value 63 36, hw]
  exact congrArg _ (if_pos (by simp [hr, hs]))

theorem attest_reports (h : requested s p value 4) (hr : s.reportOf p = (r, s1)) : exec (.attest p value) s = .next
    (({ s1 with host := memWrite s1.host (s1.ioAddr p ((s1.part p).reg 0x1428)) (Config.report r) } : State).modPart p
      (fun q => { q with hstat := 0 })) := by
  rw [exec_attest, execAttest, hreq_takes h, hr]
  rfl

end

/-- Settles O40: each access by what its checks and its networks give, each request by its operation. -/
theorem hostAccessesComplete : Obligations.HostAccessesComplete := by
  intro s s1 p va n q value off w bytes g f r x on idle k queue none_
  refine ⟨fun data ⟨h16, hv⟩ ha => hostBar2Access_function h16 hv ha, fun hr => barMove_reads hr, fun a hr hf => barMove_unread hr hf,
    fun hw => barMove_writes hw, fun a hw hf => barMove_unwritten hw hf, fun a data => ⟨rfl, rfl, rfl⟩, ?_, fun ha => hostBar2Access_root ha,
    fun hv ho => registerWrite_plain hv ho, fun hv => registerWrite_response hv, fun hv hq hb => qtabWrite_busy hv hq hb,
    fun hv hq hb => qtabWrite_writes hv hq hb, rfl, fun _ hf => fqresp1_waits hf, fun _ hn => fqresp1_unnamed hn,
    fun id e hv hf hn he ha => fqresp1_responds hv hf hn he ha, fun hi ho hq => switchOut_takes ⟨hi, ho, by decide, by decide⟩ hq,
    fun hi ho hq => switchOut_unknown ⟨hi, ho, by decide, by decide⟩ hq, fun hi ho hq => switchIn_takes ⟨hi, ho, by decide, by decide⟩ hq,
    fun hi ho hw hr hs => restore_takes ⟨hi, ho, by decide, by decide⟩ hw hr hs, fun hi ho hr => attest_reports ⟨hi, ho, by decide, by decide⟩ hr, ?_⟩
  · intro o src move ends st out net landed tried sent at_once
    exact ⟨fun hs hw hl => viaNet_stores hs hw hl,
      fun hs hw hl hb => (viaNet_lands hs hw hl).trans (if_neg (by rw [Bool.not_eq_true]; exact hb)),
      fun hs hw hl hb => (viaNet_lands hs hw hl).trans (if_pos hb), fun hs hw ha => viaNet_asked hs hw ha,
      fun hs ht hb => viaNet_wants hs ht hb, fun hs ht hb hn => viaNet_sends hs ht hb hn, fun hs ht hb hn he => viaNet_ends hs ht hb hn he⟩
  · intro hv hb
    rw [exec_switchOut, execSwitchOut, hreq_busy hv hb]

end Sys2Proof.Proofs
end


section
/-! PROOFS. The loss of the host link (R424). -/
namespace Sys2Proof.Proofs
open Sys2Proof.Machine Sys2Proof.Safety Sys2Proof.Laws

/-! ## What telling a thread keeps -/

/-- A thread that is woken from the host's page, or told failures, and else as it was. -/
def ToldThread (a b : Thread) : Prop :=
  b.frames = a.frames ∧ b.preds = a.preds ∧ b.pc = a.pc ∧ (b.st = a.st ∨ a.st = .parked .hostPage ∧ b.st = .run) ∧ ∀ x ∈ a.xfails, x ∈ b.xfails

/-- The threads of a state are told, and none is lost. -/
def Told (s t : State) : Prop := ∀ w v th, s.thread w v = some th → ∃ th', t.thread w v = some th' ∧ ToldThread th th'

theorem toldThread_refl (a : Thread) : ToldThread a a := ⟨rfl, rfl, rfl, .inl rfl, fun _ h => h⟩

theorem toldThread_trans {a b c : Thread} (h1 : ToldThread a b) (h2 : ToldThread b c) : ToldThread a c := by
  obtain ⟨hf, hp, hc, hs, hx⟩ := h1
  obtain ⟨hf', hp', hc', hs', hx'⟩ := h2
  refine ⟨hf'.trans hf, hp'.trans hp, hc'.trans hc, ?_, fun x h => hx' x (hx x h)⟩
  rcases hs with hs | ⟨hs, hr⟩
  · rcases hs' with hs' | ⟨hs', hr'⟩
    · exact .inl (hs'.trans hs)
    · exact .inr ⟨hs.symm.trans hs', hr'⟩
  · rcases hs' with hs' | ⟨hs', hr'⟩
    · exact .inr ⟨hs, hs'.trans hr⟩
    · exact .inr ⟨hs, hr'⟩

theorem told_refl (s : State) : Told s s := fun _ _ th h => ⟨th, h, toldThread_refl th⟩

theorem told_of_wgs {s t : State} (h : t.wgs = s.wgs) : Told s t := by
  intro w v th hth
  refine ⟨th, ?_, toldThread_refl th⟩
  unfold State.thread at hth ⊢
  rw [h]
  exact hth

theorem told_trans {s t r : State} (h1 : Told s t) (h2 : Told t r) : Told s r := by
  intro w v th h
  obtain ⟨a, ha, hta⟩ := h1 w v th h
  obtain ⟨b, hb, htb⟩ := h2 w v a ha
  exact ⟨b, hb, toldThread_trans hta htb⟩

theorem told_foldl {α : Type} {f : State → α → State} (h : ∀ s a, Told s (f s a)) (l : List α) (s : State) : Told s (l.foldl f s) := by
  induction l generalizing s with
  | nil => exact told_refl s
  | cons a l ih => exact told_trans (h s a) (ih _)

theorem told_modThread (s : State) (w t : Nat) {f : Thread → Thread} (hf : ∀ th, ToldThread th (f th)) : Told s (s.modThread w t f) := by
  intro v u th h
  by_cases hv : v = w ∧ u = t
  · obtain ⟨rfl, rfl⟩ := hv
    exact ⟨f th, (State.thread_modThread_same ..).trans (congrArg (Option.map f) h), hf th⟩
  · exact ⟨th, (State.thread_modThread_other s f (not_and_or.1 hv)).trans h, toldThread_refl th⟩

/-- A thread of a state has a property. -/
def Has (w v : Nat) (p : Thread → Prop) (s : State) : Prop := ∃ th, s.thread w v = some th ∧ p th

theorem has_told {s t : State} {w v : Nat} {p : Thread → Prop} (hp : ∀ a b, ToldThread a b → p a → p b) (h : Told s t) (hs : Has w v p s) :
    Has w v p t := by
  obtain ⟨a, ha, hpa⟩ := hs
  obtain ⟨b, hb, hab⟩ := h w v a ha
  exact ⟨b, hb, hp a b hab hpa⟩

/-- A fold that keeps the threads told gives one a property that the step of an element gives it. -/
theorem has_foldl {α : Type} {f : State → α → State} {w v : Nat} {p : Thread → Prop} (hf : ∀ s a, Told s (f s a))
    (hp : ∀ a b, ToldThread a b → p a → p b) {l : List α} {a : α} (ha : a ∈ l)
    (h : ∀ s, Has w v (fun _ => True) s → Has w v p (f s a)) (s : State) (hs : Has w v (fun _ => True) s) : Has w v p (l.foldl f s) := by
  induction l generalizing s with
  | nil => exact absurd ha List.not_mem_nil
  | cons x l ih =>
    rcases List.mem_cons.1 ha with rfl | hl
    · exact has_told hp (told_foldl hf l _) (h s hs)
    · exact ih hl _ (has_told (fun _ _ _ _ => trivial) (hf s x) hs)

theorem has_modThread {s : State} {w v : Nat} {f : Thread → Thread} {p : Thread → Prop} (hf : ∀ th, p (f th)) (hs : Has w v (fun _ => True) s) :
    Has w v p (s.modThread w v f) := by
  obtain ⟨th, hth, -⟩ := hs
  exact ⟨f th, (State.thread_modThread_same ..).trans (congrArg (Option.map f) hth), hf th⟩

/-! ## Waking and telling -/

/-- A thread that waits for the host's page goes on. -/
def wakes (now : Nat) (th : Thread) : Thread := if th.st == .parked .hostPage then { th with st := .run, readyAt := now } else th

theorem wakes_told (now : Nat) (th : Thread) : ToldThread th (wakes now th) := by
  unfold wakes
  split
  · next h => exact ⟨rfl, rfl, rfl, .inr ⟨by simpa using h, rfl⟩, fun _ h => h⟩
  · exact toldThread_refl th

theorem told_wakeHost (s : State) (w : Nat) (ts : List Nat) : Told s (s.wakeHost w ts) :=
  told_foldl (fun s t => told_modThread s w t (wakes_told s.now)) ts s

theorem has_wakeHost {s : State} {w v : Nat} {ts : List Nat} (hv : v ∈ ts) (hs : Has w v (fun _ => True) s) :
    Has w v (fun th => th.st ≠ .parked .hostPage) (s.wakeHost w ts) := by
  refine has_foldl (fun s t => told_modThread s w t (wakes_told s.now)) ?_ hv (fun s => has_modThread fun th => ?_) s hs
  · rintro a b ⟨-, -, -, hst | ⟨hst, -⟩, -⟩ h
    · rw [hst]
      exact h
    · exact absurd hst h
  · show (wakes s.now th).st ≠ .parked .hostPage
    unfold wakes
    split
    · exact TState.noConfusion
    · next h => simpa using h

/-- A thread is told the failure of an access. -/
def tells (x : XFail) (th : Thread) : Thread := { th with xfails := x :: th.xfails }

theorem tells_told (x : XFail) (th : Thread) : ToldThread th (tells x th) :=
  ⟨rfl, rfl, rfl, .inl rfl, fun _ h => List.mem_cons_of_mem _ h⟩

/-- The failure of an access, by a code. -/
def failureOf (code : Nat) (q : XAsk) : XFail := { va := q.va, acc := q.acc, ro := q.ro, user := q.user, code := code }

theorem told_tellFail (s : State) (code : Nat) (q : XAsk) : Told s (s.tellFail code q) :=
  told_trans (told_wakeHost s q.wg q.tids) (told_foldl (fun s t => told_modThread s q.wg t (tells_told (failureOf code q))) q.tids _)

theorem has_tellFail {s : State} {code v : Nat} {q : XAsk} (hv : v ∈ q.tids) (hs : Has q.wg v (fun _ => True) s) :
    Has q.wg v (fun th => failureOf code q ∈ th.xfails) (s.tellFail code q) :=
  has_foldl (fun s t => told_modThread s q.wg t (tells_told (failureOf code q))) (fun _ _ ⟨_, _, _, _, hx⟩ h => hx _ h) hv
    (fun _ => has_modThread fun _ => List.mem_cons_self) _ (has_told (fun _ _ _ _ => trivial) (told_wakeHost s q.wg q.tids) hs)

theorem told_askEnds (s : State) (bad : Bool) (e : HostAsk) : Told s (s.askEnds bad e) := by
  unfold State.askEnds
  cases e.asker with
  | threads w ts =>
    dsimp only
    split
    · exact told_trans (told_of_wgs (by rfl)) (told_wakeHost _ w ts)
    · exact told_wakeHost s w ts
  | owner o =>
    dsimp only
    split <;> exact told_of_wgs rfl
  | turn n =>
    dsimp only
    split <;> exact told_of_wgs rfl

theorem told_failMisses (s : State) (code : Nat) (l : List (Nat × Nat × Miss)) : Told s (s.failMisses code l) := by
  unfold State.failMisses
  refine told_foldl (fun s e => ?_) l s
  exact told_trans (t := s.modCore e.1 (fun c => { c with misses := tdel c.misses e.2.1 })) (told_of_wgs rfl)
    (told_foldl (fun s q => told_tellFail s code q) e.2.2.asks _)

/-! ## The loss of the link -/

/-- The link is down: requests that await the host have failed, and nothing asks it. -/
def linkLost (s : State) : State :=
  { s with link := false, reqs := s.reqs.map (fun (e : Nat × Req) => (e.1, if e.2.hostSt = 1 then { e.2 with hostSt := 3 } else e.2)), atsAsk := [] }

/-- The requests of hardware for a host page have ended in a failure. -/
def asksEnded (s : State) : State := s.atsAsk.foldl (fun (s : State) e => s.askEnds true e) (linkLost s)

/-- The misses of a core whose leaf awaits the host end in a failure. -/
def coreEnded (s : State) (c : Nat × Core) : State := c.2.misses.foldl (fun (s : State) m => match m.2.ats with
  | some t => s.failHost c.1 m.2 t
  | none => s) s

theorem hostLinkDown_ends (s : State) : exec .hostLinkDown s = .next ((asksEnded s).cores.foldl coreEnded (asksEnded s)) := rfl

theorem told_coreEnded (s : State) (c : Nat × Core) : Told s (coreEnded s c) := by
  refine told_foldl (fun s m => ?_) _ s
  cases m.2.ats with
  | none => exact told_refl s
  | some t => exact told_failMisses s _ _

theorem told_asksEnded (s : State) : Told s (asksEnded s) :=
  told_trans (t := linkLost s) (told_of_wgs rfl) (told_foldl (fun s e => told_askEnds s true e) _ _)

theorem told_hostLinkDown (s : State) : Told s ((asksEnded s).cores.foldl coreEnded (asksEnded s)) :=
  told_trans (told_asksEnded s) (told_foldl told_coreEnded _ _)

/-- A projection of the state that threads and cores do not enter is as the loss of the link leaves it. -/
theorem hostLinkDown_keeps {γ : Type} (π : State → γ) (hw : ∀ (s : State) w f, π (s.modWg w f) = π s) (hc : ∀ (s : State) c f, π (s.modCore c f) = π s)
    (s : State) : π ((asksEnded s).cores.foldl coreEnded (asksEnded s)) = π (asksEnded s) := by
  refine foldl_keeps π (fun s c => foldl_keeps π (fun s m => ?_) _ s) _ _
  cases m.2.ats with
  | none => rfl
  | some t =>
    refine foldl_keeps π (fun s e => (foldl_keeps π (fun s q => ?_) _ _).trans (hc ..)) _ s
    exact (foldl_keeps π (fun s t => hw ..) _ _).trans (foldl_keeps π (fun s t => hw ..) _ _)

theorem asksEnded_keeps {γ : Type} (π : State → γ) (hw : ∀ (s : State) w f, π (s.modWg w f) = π s) (hb : ∀ (s : State) l, π { s with atsBad := l } = π s)
    (s : State) : π (asksEnded s) = π (linkLost s) := by
  refine foldl_keeps π (fun s e => ?_) _ _
  unfold State.askEnds
  cases e.asker with
  | threads w ts =>
    dsimp only
    split
    · exact (foldl_keeps π (fun s t => hw ..) _ _).trans (hb ..)
    · exact foldl_keeps π (fun s t => hw ..) _ _
  | owner o =>
    dsimp only
    split
    · exact hb ..
    · rfl
  | turn n =>
    dsimp only
    split
    · exact hb ..
    · rfl

/-- The failures of the requests that the accesses of the hardware have made are kept for them. -/
theorem asksEnded_bad (s : State) (e : HostAsk) (he : e ∈ s.atsAsk) (ha : ∀ w ts, e.asker ≠ .threads w ts) :
    (e.asker, e.part, e.base, 0x2E) ∈ (asksEnded s).atsBad := by
  have mono : ∀ (s : State) (x : HostAsk) y, y ∈ s.atsBad → y ∈ (s.askEnds true x).atsBad := by
    intro s x y hy
    have kept : ∀ (s : State) w ts, (s.wakeHost w ts).atsBad = s.atsBad := by
      intro s w ts
      unfold State.wakeHost
      exact foldl_keeps State.atsBad (fun _ _ => by rfl) ts s
    unfold State.askEnds
    cases x.asker with
    | threads w ts =>
      dsimp only
      rw [kept]
      split
      · exact List.mem_cons_of_mem _ hy
      · exact hy
    | owner o => exact List.mem_cons_of_mem _ hy
    | turn n => exact List.mem_cons_of_mem _ hy
  have added : ∀ s : State, (e.asker, e.part, e.base, 0x2E) ∈ (s.askEnds true e).atsBad := by
    intro s
    unfold State.askEnds
    cases hk : e.asker with
    | threads w ts => exact absurd hk (ha w ts)
    | owner o => exact List.mem_cons_self
    | turn n => exact List.mem_cons_self
  have folded : ∀ (l : List HostAsk) (s : State) y, y ∈ s.atsBad → y ∈ (l.foldl (fun (s : State) e => s.askEnds true e) s).atsBad := by
    intro l
    induction l with
    | nil => exact fun s y h => h
    | cons x l ih => exact fun s y h => ih _ y (mono s x y h)
  unfold asksEnded
  obtain ⟨l1, l2, hl⟩ := List.append_of_mem he
  rw [hl, List.foldl_append, List.foldl_cons]
  exact folded l2 _ _ (added _)

/-- A thread that a request of the host's page is for goes on. -/
theorem hostLinkDown_wakes {s : State} {w v : Nat} {th : Thread} (hth : s.thread w v = some th)
    (he : ∃ e ∈ s.atsAsk, ∃ ts, e.asker = .threads w ts ∧ v ∈ ts) :
    Has w v (fun th => th.st ≠ .parked .hostPage) ((asksEnded s).cores.foldl coreEnded (asksEnded s)) := by
  have kept : ∀ a b, ToldThread a b → a.st ≠ .parked .hostPage → b.st ≠ .parked .hostPage := by
    rintro a b ⟨-, -, -, hst | ⟨hst, -⟩, -⟩ h
    · rw [hst]
      exact h
    · exact absurd hst h
  obtain ⟨e, hmem, ts, ha, hv⟩ := he
  refine has_told kept (told_foldl told_coreEnded _ _) (has_foldl (fun s e => told_askEnds s true e) kept hmem (fun s hs => ?_) _ ⟨th, hth, trivial⟩)
  unfold State.askEnds
  rw [ha]
  dsimp only
  split
  · exact has_wakeHost hv hs
  · exact has_wakeHost hv hs

section
variable {s : State} {c n : Nat} {k : Core} {m : Miss} {x : TlbEntry} (hc : s.cores = [(c, k)]) (hm : k.misses = [(n, m)]) (hx : m.ats = some x)
  (ho : m.on m.root x = true)
include hc hm hx ho

/-- With one miss of one core, the loss of the link fails that miss. -/
theorem hostLinkDown_miss : (asksEnded s).cores.foldl coreEnded (asksEnded s) =
    m.asks.foldl (fun s q => s.tellFail 0x2E q) ((asksEnded s).modCore c (fun k => { k with misses := tdel k.misses n })) := by
  have hcores : (asksEnded s).cores = [(c, k)] := (asksEnded_keeps State.cores (fun _ _ _ => rfl) (fun _ _ => rfl) s).trans hc
  have one : (asksEnded s).sharers c m x = [(c, n, m)] := by
    unfold State.sharers State.dieMisses
    rw [hcores]
    simp [hm, ho]
  rw [hcores, List.foldl_cons, List.foldl_nil, coreEnded, hm, List.foldl_cons, List.foldl_nil]
  dsimp only
  rw [hx]
  dsimp only
  rw [State.failHost, one, State.failMisses, List.foldl_cons, List.foldl_nil]

theorem hostLinkDown_misses : (((asksEnded s).cores.foldl coreEnded (asksEnded s)).core c).misses = [] := by
  have hcores : (asksEnded s).cores = [(c, k)] := (asksEnded_keeps State.cores (fun _ _ _ => rfl) (fun _ _ => rfl) s).trans hc
  rw [hostLinkDown_miss hc hm hx ho]
  refine (foldl_keeps (fun s : State => (s.core c).misses) (fun s q => ?_) _ _).trans ?_
  · unfold State.tellFail State.wakeAsk State.wakeHost
    exact (foldl_keeps (fun s : State => (s.core c).misses) (fun _ _ => by rfl) _ _).trans
      (foldl_keeps (fun s : State => (s.core c).misses) (fun _ _ => by rfl) _ _)
  · simp [State.core, State.modCore, hcores, tget, hm, tdel]

theorem hostLinkDown_tells {a : XAsk} {v : Nat} {th : Thread} (ha : a ∈ m.asks) (hv : v ∈ a.tids) (hth : s.thread a.wg v = some th) :
    Has a.wg v (fun th => failureOf 0x2E a ∈ th.xfails) ((asksEnded s).cores.foldl coreEnded (asksEnded s)) := by
  rw [hostLinkDown_miss hc hm hx ho]
  refine has_foldl (fun s q => told_tellFail s 0x2E q) (fun _ _ ⟨_, _, _, _, hx⟩ h => hx _ h) ha (fun s hs => has_tellFail hv hs) _ ?_
  exact has_told (fun _ _ _ _ => trivial) (told_asksEnded s) ⟨th, hth, trivial⟩

end

end Sys2Proof.Proofs
end


section
/-! PROOFS. Fatal errors, power, firmware and reset (R413, R414, R427, R431 to R433), and the statement about module events. -/
namespace Sys2Proof.Proofs
open Sys2Proof.Machine Sys2Proof.Safety Sys2Proof.Laws

section
variable {s : State} {kind : UnitKind} {i a b bank p origin : Nat} {image : List Byte}

/-! ## Fatal errors (R413, R414) -/

theorem fatalError_again (h : s.fatal ≠ none) : s.fatalError origin = s :=
  if_pos (by simpa [Option.isSome_iff_ne_none] using h)

/-- The L2 nodes are written back, and the error is recorded. -/
def writtenBack (s : State) (origin : Nat) : State :=
  { s.l2.foldl State.writeBack s with
    fatal := some origin, l2 := (s.l2.foldl State.writeBack s).l2.map (fun (l : L2Line) => { l with dirty := false }) }

/-- Every partition is told the error, while the link is up. -/
def partsTold (s : State) (origin : Nat) : State :=
  if s.link then s.parts.foldl (fun (s : State) (e : Nat × Partition) => s.event e.1 0xE7 origin) s else s

/-- The body of the dump. -/
def dumped (s : State) : List Byte := s.dumpBody.take (15 * 2 ^ 30 - 64)

/-- The state with its dump. -/
def withDump (s : State) (origin : Nat) (body : List Byte) : State :=
  { s with mem := memWrite s.mem dumpBase (dumpHeader origin (s.now + Config.clockSkew 256) body ++ body) }

theorem withDump_mem (s : State) (origin : Nat) (body : List Byte) : (withDump s origin body).mem =
    memWrite s.mem 0x8_4000_0000 (dumpHeader origin (s.now + Config.clockSkew 256) body ++ body) := by
  unfold withDump dumpBase
  generalize dumpHeader origin (s.now + Config.clockSkew 256) body ++ body = l
  rfl

theorem fatalError_first (h : s.fatal = none) : s.fatalError origin =
    withDump (partsTold (writtenBack s origin) origin) origin (dumped (partsTold (writtenBack s origin) origin)) :=
  if_neg (by simp [h])

theorem writeBack_keeps {γ : Type} (π : State → γ) (h : ∀ (s : State) m, π { s with mem := m } = π s) (s : State) :
    π (s.l2.foldl State.writeBack s) = π s := by
  refine foldl_keeps π (fun s l => ?_) _ s
  unfold State.writeBack
  split
  · rfl
  · split
    · rfl
    · exact h ..

theorem partsTold_keeps {γ : Type} (π : State → γ) (h : ∀ (s : State) p f, π (s.modPart p f) = π s) (s : State) :
    π (partsTold s origin) = π s := by
  unfold partsTold
  split
  · refine foldl_keeps π (fun s e => ?_) _ s
    exact h s e.1 (fun q => { q with posts := q.posts ++ [{ kind := 3, cause := 0xE7, info := origin }] })
  · rfl

theorem event_part (s : State) (p q : Nat) : ((s.event p 0xE7 origin).part q).posts =
    if q = p then (s.part q).posts ++ [{ kind := 3, cause := 0xE7, info := origin }] else (s.part q).posts := by
  simp only [State.event, State.post, State.part, State.modPart]
  split
  · next h =>
    rw [h, tget_tset_same]
    rfl
  · next h => rw [tget_tset_other _ _ h]

/-- Each of distinct partitions gets one event. -/
theorem events_posts {l : List (Nat × Partition)} (hn : (l.map (·.1)).Nodup) {q : Nat} : ∀ s : State,
    ((l.foldl (fun (s : State) (e : Nat × Partition) => s.event e.1 0xE7 origin) s).part q).posts =
      if q ∈ l.map (·.1) then (s.part q).posts ++ [{ kind := 3, cause := 0xE7, info := origin }] else (s.part q).posts := by
  induction l with
  | nil => exact fun s => rfl
  | cons e l ih =>
    intro s
    rw [List.map_cons, List.nodup_cons] at hn
    rw [List.foldl_cons, ih hn.2, event_part]
    by_cases h : q = e.1
    · subst h
      rw [if_neg hn.1, if_pos rfl, if_pos (by simp)]
    · simp only [List.map_cons, List.mem_cons, h, false_or, if_false]

theorem mem_keys_of_tget {α : Type} {l : Tab α} {q : Nat} {y : α} (h : tget l q = some y) : q ∈ l.map (·.1) := by
  induction l with
  | nil => exact absurd h (by simp [tget])
  | cons e l ih =>
    rw [tget] at h
    split at h
    · next hq => simp [hq]
    · simp [ih h]

theorem fatalError_posts (h : s.fatal = none) (hl : s.link = true) {q : Nat} {y : Partition} (hq : tget s.parts q = some y)
    (hn : (s.parts.map (·.1)).Nodup) :
    ((s.fatalError origin).part q).posts = y.posts ++ [{ kind := 3, cause := 0xE7, info := origin }] := by
  have hlink : (writtenBack s origin).link = true := (writeBack_keeps State.link (fun _ _ => rfl) s).trans hl
  have hparts : (writtenBack s origin).parts = s.parts := writeBack_keeps State.parts (fun _ _ => rfl) s
  rw [fatalError_first h]
  show ((partsTold (writtenBack s origin) origin).part q).posts = _
  unfold partsTold
  rw [if_pos hlink, hparts, events_posts hn, if_pos (mem_keys_of_tget hq)]
  simp [State.part, hparts, hq]

theorem fatalError_mem (h : s.fatal = none) : ∃ body, (s.fatalError origin).mem = memWrite (s.l2.foldl State.writeBack s).mem 0x8_4000_0000
    (dumpHeader origin (s.now + Config.clockSkew 256) body ++ body) := by
  have hmem : (partsTold (writtenBack s origin) origin).mem = (s.l2.foldl State.writeBack s).mem :=
    partsTold_keeps State.mem (fun _ _ _ => rfl) _
  have hnow : (partsTold (writtenBack s origin) origin).now = s.now :=
    (partsTold_keeps State.now (fun _ _ _ => rfl) _).trans (writeBack_keeps State.now (fun _ _ => rfl) s)
  refine ⟨dumped (partsTold (writtenBack s origin) origin), ?_⟩
  rw [fatalError_first h]
  generalize dumped (partsTold (writtenBack s origin) origin) = body
  rw [withDump_mem, hmem, hnow]

theorem fatalError_fatal (h : s.fatal = none) : (s.fatalError origin).fatal = some origin := by
  rw [fatalError_first h]
  exact partsTold_keeps State.fatal (fun _ _ _ => rfl) (writtenBack s origin)

theorem fatalError_wgs (h : s.fatal = none) : (s.fatalError origin).wgs = s.wgs := by
  rw [fatalError_first h]
  exact (partsTold_keeps State.wgs (fun _ _ _ => rfl) (writtenBack s origin)).trans (writeBack_keeps State.wgs (fun _ _ => rfl) s)

theorem fatalError_clean (h : s.fatal = none) : (s.fatalError origin).l2.all (fun l => !l.dirty) = true := by
  rw [fatalError_first h]
  refine (congrArg (List.all · (fun l => !l.dirty)) (partsTold_keeps State.l2 (fun _ _ _ => rfl) (writtenBack s origin))).trans ?_
  simp [writtenBack]

theorem fatalError_exec (hi : i < unitCount kind) : exec (.fatalError kind i) s = .next (s.fatalError (originOf kind i)) := by
  rw [exec_fatalError, execFatalError]
  exact congrArg _ (if_pos hi)

/-! ## Power and the clock (R414, R432) -/

theorem lossOfPower_idle (h : s.fatal = none) : exec .lossOfPower s = .next { s with power := false } := by
  rw [exec_lossOfPower, execLossOfPower]
  exact congrArg _ (if_pos (by simp [h]))

theorem lossOfPower_dumping (h : s.fatal ≠ none) :
    ∃ t, exec .lossOfPower s = .next t ∧ t.power = false ∧ t.wgs = s.wgs ∧ t.fatal = s.fatal := by
  rw [exec_lossOfPower, execLossOfPower]
  dsimp only
  rw [if_neg (by simpa using h)]
  exact ⟨_, rfl, rfl, rfl, rfl⟩

theorem powerArbiterTick_over (hb : 2400 < b) (hc : s.clock = 32) : exec (.powerArbiterTick a b) s = .next (s.fatalError (originOf .controller 0)) := by
  rw [exec_powerArbiterTick, execPowerArbiterTick]
  exact congrArg _ (if_pos (by simp [hb, hc]))

section
variable (h : ¬(2400 < b ∧ s.clock = 32))
include h

theorem powerArbiterTick_under : exec (.powerArbiterTick a b) s = .next
    (if 2400 < a then { s with clock := max 32 (s.clock - 1) }
      else if a < 2300 ∧ s.clock < 64 then { s with clock := s.clock + 1 } else s) := by
  rw [exec_powerArbiterTick, execPowerArbiterTick]
  refine congrArg _ ((if_neg (by simpa using h)).trans ?_)
  simp only [Bool.and_eq_true, decide_eq_true_eq]

theorem powerArbiterTick_down (ha : 2400 < a) : exec (.powerArbiterTick a b) s = .next { s with clock := max 32 (s.clock - 1) } :=
  (powerArbiterTick_under h).trans (congrArg _ (if_pos ha))

theorem powerArbiterTick_up (ha : a < 2300) (hc : s.clock < 64) : exec (.powerArbiterTick a b) s = .next { s with clock := s.clock + 1 } :=
  (powerArbiterTick_under h).trans (congrArg _ ((if_neg (by omega)).trans (if_pos ⟨ha, hc⟩)))

theorem powerArbiterTick_still (ha : a ≤ 2400) (hc : 2300 ≤ a ∨ 64 ≤ s.clock) : exec (.powerArbiterTick a b) s = .next s :=
  (powerArbiterTick_under h).trans (congrArg _ ((if_neg (by omega)).trans (if_neg (by omega))))

end

/-! ## Firmware and reset (R431, R433) -/

theorem firmwareStage_enters (h1 : bank < 2) (h2 : bank ≠ s.activeBank) (h3 : imageOk image = true) :
    exec (.firmwareStage bank image) s = .next { s with banks := tset s.banks bank image } := by
  rw [exec_firmwareStage, execFirmwareStage]
  exact congrArg _ (if_pos (by simp [h1, h2, h3]))

theorem firmwareStage_refused (h : ¬(bank < 2 ∧ bank ≠ s.activeBank ∧ imageOk image = true)) :
    exec (.firmwareStage bank image) s = .next s := by
  rw [exec_firmwareStage, execFirmwareStage]
  exact congrArg _ (if_neg (by simpa [and_assoc] using h))

/-- The image in a bank passes the checks of the ROM. -/
def bankOk (s : State) (k : Nat) : Prop := imageOk ((tget s.banks k).getD []) = true

theorem bootBank_first (h : bankOk s a) : s.bootBank a = some a := if_pos h

theorem bootBank_other (h : ¬bankOk s a) (h1 : bankOk s (1 - a)) : s.bootBank a = some (1 - a) := (if_neg h).trans (if_pos h1)

theorem bootBank_none (h : ¬bankOk s a) (h1 : ¬bankOk s (1 - a)) : s.bootBank a = none := (if_neg h).trans (if_neg h1)

/-! ## Function-level reset (R427) -/

/-- The workgroups of a function are torn down, and what waits in its queues has ended. -/
def flrEnded (p : Nat) (s : State) : State :=
  let torn := (s.wgs.filter (fun e => e.2.part == p)).foldl (fun (s : State) e => s.teardown e.1) s
  (torn.ops.filterMap (fun e => if e.2.queuedIn p torn then some e.1 else none)).foldl (fun (s : State) id => s.finish id []) torn

/-- The queues of a function are empty, and its launches are cut. -/
def flrCut (p : Nat) (s : State) : State :=
  let emptied := (List.range 64).foldl (fun (s : State) q => s.emptyQueue p q) { s with
    runs := s.runs.filter (fun r => r.2.part != p)
    lqs := s.lqs.map (fun e => (e.1, e.2.filter (fun (c : Child) => c.part != p))) }
  let cleared := emptied.modPart p (fun q => { q with
    preds := [], waggles := [], regs := tset q.regs 0x1008 (ofN (q.reg 0x1008 % 2 ^ 5)) })
  ((cleared.launches.filterMap (fun e => if e.2.part == p then some e.1 else none)).foldl State.cutLaunch cleared).settleHost p

theorem flrVf_none (h : (s.part p).vf = false) : exec (.flrVf p) s = .next s := by
  rw [exec_flrVf, execFlrVf]
  exact congrArg _ (if_pos (by simp [h]))

theorem flrVf_resets (h : (s.part p).vf = true) : exec (.flrVf p) s = .next
    (if (flrCut p (flrEnded p { s with blocked := false })).blocked then s.asked (flrCut p (flrEnded p { s with blocked := false }))
      else flrCut p (flrEnded p { s with blocked := false })) := by
  rw [exec_flrVf, execFlrVf]
  refine congrArg _ ((if_neg (by simp [h])).trans (attempt_result ?_))
  dsimp only
  simp only [bits_low _ 4]
  rfl

section
variable (hw : s.wgs = []) (ho : s.ops = []) (hl : s.launches = []) (hq : (s.part p).queues = []) (hb : s.blocked = false)

theorem emptyQueue_none {q : Nat} (hq : tget (s.part p).queues q = none) : s.emptyQueue p q = s := by
  unfold State.emptyQueue
  rw [hq]

theorem emptyQueues_none (l : List Nat) (hq : (s.part p).queues = []) : l.foldl (fun (s : State) q => s.emptyQueue p q) s = s := by
  induction l with
  | nil => rfl
  | cons q l ih => rw [List.foldl_cons, emptyQueue_none (by rw [hq]; rfl), ih]

include hw ho hb in
theorem flrEnded_empty : flrEnded p { s with blocked := false } = s := by
  have hs : ({ s with blocked := false } : State) = s := by rw [← hb]
  unfold flrEnded
  rw [hs, hw, List.filter_nil, List.foldl_nil]
  dsimp only
  rw [ho, List.filterMap_nil, List.foldl_nil]

include hl hq in
theorem flrCut_empty : flrCut p s = (({ s with
      runs := s.runs.filter (fun r => r.2.part != p)
      lqs := s.lqs.map (fun e => (e.1, e.2.filter (fun (c : Child) => c.part != p))) } : State).modPart p (fun q => { q with
        preds := [], waggles := [], regs := tset q.regs 0x1008 (ofN (q.reg 0x1008 % 2 ^ 5)) })).settleHost p := by
  unfold flrCut
  rw [emptyQueues_none (s := { s with
      runs := s.runs.filter (fun r => r.2.part != p)
      lqs := s.lqs.map (fun e => (e.1, e.2.filter (fun (c : Child) => c.part != p))) }) _ hq]
  simp only [State.modPart_launches, hl, List.filterMap_nil, List.foldl_nil]

end

end

/-- Settles O42: each event by its branch; the loss of the link by what telling a thread keeps. -/
theorem moduleEventsComplete : Obligations.ModuleEventsComplete := by
  intro s kind i a b bank p image x ok
  have drawn : exec .moduleReset s = .next { State.reset with
      agenda := s.agenda, host := s.host, fresh := s.fresh + 1, nextId := s.nextId, msis := s.msis, banks := s.banks
      activeBank := (s.bootBank (x.toNat % 2)).getD s.activeBank, running := s.bootBank (x.toNat % 2) } := rfl
  have two : x.toNat % 2 = 0 ∨ x.toNat % 2 = 1 := by omega
  refine ⟨fun h => ?_, fun hi => ?_, fun h hi => ⟨_, fatalError_exec hi, fatalError_fatal h, fatalError_wgs h, fatalError_clean h,
      fatalError_mem h, fun hl q y hq hn => fatalError_posts h hl hq hn⟩, fun h => lossOfPower_idle h, fun h => lossOfPower_dumping h,
    fun hb hc => powerArbiterTick_over hb hc, fun h ha => powerArbiterTick_down h ha, fun h ha hc => powerArbiterTick_up h ha hc,
    fun h ha hc => powerArbiterTick_still h ha hc, fun h1 h2 h3 => firmwareStage_enters h1 h2 h3, fun h => firmwareStage_refused h,
    ⟨_, drawn, fun h => bootBank_first h, fun h h1 => bootBank_other h h1, fun h0 h1 => ?_⟩, fun h => flrVf_none h, fun h => ?_,
    fun h hw ho hl hq hb => ?_, ?_, fun c k n m x hc hm hx ho => ?_⟩
  · rw [exec_fatalError, execFatalError, fatalError_again h]
    exact congrArg _ (ite_self s)
  · rw [exec_fatalError, execFatalError]
    exact congrArg _ (if_neg (not_lt.2 hi))
  · rcases two with h2 | h2
    all_goals
      rw [h2]
      exact bootBank_none (by assumption) (by assumption)
  · exact ⟨fun hb => (flrVf_resets h).trans (congrArg _ (if_neg (by rw [Bool.not_eq_true]; exact hb))),
      fun hb => (flrVf_resets h).trans (congrArg _ (if_pos hb))⟩
  · rw [flrVf_resets h, flrEnded_empty hw ho hb, flrCut_empty hl hq]
    refine congrArg _ (if_neg ?_)
    rw [settleHost_blocked]
    exact fun h => absurd (h.symm.trans hb) (by decide)
  · have told := told_hostLinkDown s
    have end_ {γ : Type} (π : State → γ) (hw : ∀ (s : State) w f, π (s.modWg w f) = π s) (hc : ∀ (s : State) c f, π (s.modCore c f) = π s)
        (hb : ∀ (s : State) l, π { s with atsBad := l } = π s) :
        π ((asksEnded s).cores.foldl coreEnded (asksEnded s)) = π (linkLost s) :=
      (hostLinkDown_keeps π hw hc s).trans (asksEnded_keeps π hw hb s)
    refine ⟨_, hostLinkDown_ends s, end_ State.link (fun _ _ _ => rfl) (fun _ _ _ => rfl) (fun _ _ => rfl),
      end_ State.atsAsk (fun _ _ _ => rfl) (fun _ _ _ => rfl) (fun _ _ => rfl), end_ State.mem (fun _ _ _ => rfl) (fun _ _ _ => rfl) (fun _ _ => rfl),
      end_ State.host (fun _ _ _ => rfl) (fun _ _ _ => rfl) (fun _ _ => rfl), fun e he ha => ?_,
      end_ State.reqs (fun _ _ _ => rfl) (fun _ _ _ => rfl) (fun _ _ => rfl), fun w v th hth => ?_⟩
    · rw [hostLinkDown_keeps State.atsBad (fun _ _ _ => rfl) (fun _ _ _ => rfl)]
      exact asksEnded_bad s e he ha
    · obtain ⟨th', hth', hf, hp, hpc, hst, hx⟩ := told w v th hth
      refine ⟨th', hth', hf, hp, hpc, fun hpark he => ?_⟩
      obtain ⟨th2, hth2, hne⟩ := hostLinkDown_wakes hth he
      obtain rfl : th2 = th' := Option.some.inj (hth2.symm.trans hth')
      rcases hst with hst | ⟨-, hst⟩
      · exact absurd (hst.trans hpark) hne
      · exact hst
  · refine ⟨_, hostLinkDown_ends s, hostLinkDown_misses hc hm hx ho, fun a ha v hv th hth => ?_⟩
    exact hostLinkDown_tells hc hm hx ho ha hv hth

end Sys2Proof.Proofs
end


section
/-! PROOFS. Creating and resizing a partition (R54, R425, R426). -/
namespace Sys2Proof.Proofs
open Sys2Proof.Machine Sys2Proof.Safety Sys2Proof.Laws

/-! ## HomeTable (R54) -/

theorem sortBy_sorted {l : List Nat} (h : l.Pairwise (· < ·)) : sortBy (fun a b => decide (a ≤ b)) l = l := by
  induction h with
  | nil => rfl
  | @cons a l ha _ ih =>
    show insertBy _ a (sortBy _ l) = _
    rw [ih]
    cases l with
    | nil => rfl
    | cons b l => exact if_pos (decide_eq_true (ha b List.mem_cons_self).le)

theorem homeTable_at {slices : List Nat} {i : Nat} (hi : i < 256) (hs : slices.Pairwise (· < ·)) :
    (homeTable slices)[i]? = some ((slices[i % slices.length]?).getD 0) := by
  unfold homeTable
  dsimp only
  rw [sortBy_sorted hs, List.getElem?_map, List.getElem?_range hi]
  rfl

section
variable {s : State} {p pt asid rcb : Nat} {hives slices groups : List Nat} {shadow combbk : Nat} {rates : List Nat} {image : List (Nat × List Byte)}

/-! ## Creation (R426) -/

/-- The partition of a composition. -/
def composed (hives slices groups : List Nat) (shadow combbk pt asid rcb : Nat) : Partition :=
  { hives := hives, slices := slices, groups := groups, shadow := shadow, combbk := combbk
    home := homeTable slices, rootPt := pt, rootAsid := asid, rootRcb := rcb, vf := true }

/-- The image lies in the partition's groups and outside its reserved areas. -/
def imageInside (q : Partition) (image : List (Nat × List Byte)) : Bool :=
  image.all (fun e => (List.range e.2.length).all (fun i => inGroups q.groups (e.1 + i) &&
    !(q.reserved.1 ≤ e.1 + i && decide (e.1 + i < q.reserved.2))))

/-- A partition is made: its groups cleared, the image written, its buckets full. -/
def partitionMade (s : State) (p : Nat) (q : Partition) (rates : List Nat) (image : List (Nat × List Byte)) : State :=
  ({ s.clearGroups q.groups with
      mem := image.foldl (fun (m : Mem) (e : Nat × List Byte) => memWrite m e.1 e.2) (s.clearGroups q.groups).mem
      parts := tset s.parts p q } : State).setRates p rates

theorem partitionCreate_ends : exec (.partitionCreate p hives slices groups shadow combbk rates pt asid rcb image) s = .next
    (if (s.part p).vf || !s.composes p (composed hives slices groups shadow combbk pt asid rcb) ||
        !imageInside (composed hives slices groups shadow combbk pt asid rcb) image then s
      else if (partitionMade s p (composed hives slices groups shadow combbk pt asid rcb) rates image).rootOk p then
        partitionMade s p (composed hives slices groups shadow combbk pt asid rcb) rates image
      else s) := rfl

theorem mayCreate_iff {a b c : Bool} : (a || !b || !c) = true ↔ ¬(a = false ∧ b = true ∧ c = true) := by
  cases a <;> cases b <;> cases c <;> decide

section
variable (h : (s.part p).vf = false ∧ s.composes p (composed hives slices groups shadow combbk pt asid rcb) = true ∧
  imageInside (composed hives slices groups shadow combbk pt asid rcb) image = true)
include h

theorem partitionCreate_makes (hr : (partitionMade s p (composed hives slices groups shadow combbk pt asid rcb) rates image).rootOk p = true) :
    exec (.partitionCreate p hives slices groups shadow combbk rates pt asid rcb image) s =
      .next (partitionMade s p (composed hives slices groups shadow combbk pt asid rcb) rates image) := by
  rw [partitionCreate_ends, if_neg (fun hc => mayCreate_iff.1 hc h), if_pos hr]

theorem partitionCreate_rootless (hr : (partitionMade s p (composed hives slices groups shadow combbk pt asid rcb) rates image).rootOk p = false) :
    exec (.partitionCreate p hives slices groups shadow combbk rates pt asid rcb image) s = .next s := by
  rw [partitionCreate_ends, if_neg (fun hc => mayCreate_iff.1 hc h), if_neg (by rw [hr]; exact Bool.false_ne_true)]

end

theorem partitionCreate_refused (h : ¬((s.part p).vf = false ∧ s.composes p (composed hives slices groups shadow combbk pt asid rcb) = true ∧
    imageInside (composed hives slices groups shadow combbk pt asid rcb) image = true)) :
    exec (.partitionCreate p hives slices groups shadow combbk rates pt asid rcb image) s = .next s := by
  rw [partitionCreate_ends, if_pos (mayCreate_iff.2 h)]

/-! ## Resizing (R426) -/

/-- The partition with the units of a resize. -/
def resizedTo (x : Partition) (hives slices groups : List Nat) : Partition :=
  { x with hives := hives, slices := slices, groups := groups, home := homeTable slices }

/-- The hives that leave. -/
def leavingHives (x : Partition) (hives : List Nat) : List Nat := x.hives.filter (fun h => !hives.contains h)

/-- A resize has begun: the workgroups of the hives that leave are to be saved. -/
def resizeBegun (s : State) (p : Nat) (hives slices : List Nat) : State :=
  { s.modPart p (fun x => { x with leavingHives := leavingHives (s.part p) hives, moving := homeTable slices }) with
    wgs := s.wgs.map (fun (e : Nat × Workgroup) => if e.2.part == p && (leavingHives (s.part p) hives).contains (e.2.core / 8) && e.2.resid != .saved &&
      e.2.saveFor == 0 && !e.2.torn then (e.1, { e.2 with saveFor := 1 }) else e) }

/-- The parked threads of the members of leaving hives leave their cells. -/
def membersOut (s : State) (leaving : List Nat) : State := (s.membersOf leaving).foldl State.expelSaved s

/-- A resize goes on once the hives that leave are drained. -/
def resizeGoes (p : Nat) (leaving : List Nat) (x : Partition) (rates : List Nat) (s : State) : State :=
  if s.draining p leaving then s
  else if (membersOut s leaving).underWay p || ((membersOut s leaving).membersOf leaving).any (membersOut s leaving).combPending then
    membersOut s leaving
  else (membersOut s leaving).finishResize p x rates

theorem partitionResize_ends : exec (.partitionResize p hives slices groups rates) s = .next
    (if !(s.part p).vf || !s.composes p (resizedTo (s.part p) hives slices groups) then s
      else resizeGoes p (leavingHives (s.part p) hives) (resizedTo (s.part p) hives slices groups) rates (resizeBegun s p hives slices)) := rfl

theorem partitionResize_refused (h : ¬((s.part p).vf = true ∧ s.composes p (resizedTo (s.part p) hives slices groups) = true)) :
    exec (.partitionResize p hives slices groups rates) s = .next s := by
  rw [partitionResize_ends]
  refine congrArg _ (if_pos ?_)
  rw [Bool.or_eq_true, Bool.not_eq_true', Bool.not_eq_true', ← Bool.not_eq_true, ← Bool.not_eq_true]
  exact not_and_or.1 h

section
variable (h : (s.part p).vf = true ∧ s.composes p (resizedTo (s.part p) hives slices groups) = true)
include h

theorem partitionResize_goes : exec (.partitionResize p hives slices groups rates) s = .next
    (resizeGoes p (leavingHives (s.part p) hives) (resizedTo (s.part p) hives slices groups) rates (resizeBegun s p hives slices)) := by
  rw [partitionResize_ends, h.1, h.2]
  rfl

theorem partitionResize_drains (hd : (resizeBegun s p hives slices).draining p (leavingHives (s.part p) hives) = true) :
    exec (.partitionResize p hives slices groups rates) s = .next (resizeBegun s p hives slices) :=
  (partitionResize_goes h).trans (congrArg _ (if_pos hd))

variable (hd : (resizeBegun s p hives slices).draining p (leavingHives (s.part p) hives) = false)
include hd

theorem partitionResize_waits {out : State} (ho : membersOut (resizeBegun s p hives slices) (leavingHives (s.part p) hives) = out)
    (hw : out.underWay p = true ∨ (out.membersOf (leavingHives (s.part p) hives)).any out.combPending = true) :
    exec (.partitionResize p hives slices groups rates) s = .next out := by
  subst ho
  exact (partitionResize_goes h).trans (congrArg _ ((if_neg (by rw [hd]; exact Bool.false_ne_true)).trans (if_pos (by rw [Bool.or_eq_true]; exact hw))))

theorem partitionResize_finishes {out : State} (ho : membersOut (resizeBegun s p hives slices) (leavingHives (s.part p) hives) = out)
    (hw : out.underWay p = false) (hc : (out.membersOf (leavingHives (s.part p) hives)).any out.combPending = false) :
    exec (.partitionResize p hives slices groups rates) s = .next (out.finishResize p (resizedTo (s.part p) hives slices groups) rates) := by
  subst ho
  refine (partitionResize_goes h).trans (congrArg _ ((if_neg (by rw [hd]; exact Bool.false_ne_true)).trans (if_neg ?_)))
  rw [hw, hc]
  decide

end

end

/-- Settles O43: creation and resizing by their checks in order. -/
theorem partitionsComplete : Obligations.PartitionsComplete := by
  intro s p pt asid rcb hives slices groups shadow combbk rates image q inside ok cleared made ev x x' leaving begun out rs fits
  exact ⟨fun h hr => partitionCreate_makes h hr, fun h hr => partitionCreate_rootless h hr, fun h => partitionCreate_refused h,
    fun i hi _ hs => homeTable_at hi hs, fun h => partitionResize_refused h, fun h hd => partitionResize_drains h hd,
    fun h hd hw => partitionResize_waits h hd rfl hw, fun h hd hw hc => partitionResize_finishes h hd rfl hw hc⟩

end Sys2Proof.Proofs
end


section
/-! PROOFS. The mailbox: completion queues, queue pairs and memory regions (R429). -/
namespace Sys2Proof.Proofs
open Sys2Proof.Machine Sys2Proof.Safety Sys2Proof.Laws

section
variable {s t : State} {p k r v n : Nat} {b : Block} {qp : Qp} {f : State → Block → Answered}

/-! ## MBGO -/

theorem bits_high (w : Word) {i : Nat} (hi : i ≤ 63) : bits w.toNat 63 i = w.toNat / 2 ^ i := by
  rw [bits_eq]
  refine Nat.mod_eq_of_lt (Nat.div_lt_of_lt_mul ?_)
  rw [← pow_add, show i + (63 + 1 - i) = 64 by omega]
  exact w.isLt

theorem registerWrite_mailbox (hv : (s.part p).vf = true) : exec (.registerWrite p 0x1808 v) s = .next (s.mailboxGo p) := by
  rw [exec_registerWrite, execRegisterWrite]
  exact congrArg _ ((if_neg (by simp [hv])).trans ((if_neg (by decide)).trans ((if_neg (by decide)).trans (if_pos rfl))))

theorem mailboxGo_busy (hb : (s.part p).mbstat.toNat.testBit 0 = true) :
    s.mailboxGo p = s.modPart p (fun q => { q with mbstat := ofN ((s.part p).mbstat.toNat / 2 ^ 32 * 2 ^ 32 + 5) }) := by
  refine (if_pos hb).trans (modPart_congr ?_)
  rw [bits_high _ (by decide)]

theorem mailboxGo_reads (hb : (s.part p).mbstat.toNat.testBit 0 = false) : s.mailboxGo p = s.modPart p (fun q => { q with
    mbox := (List.range 32).map (fun i => memNat s.host (s.ioAddr p ((s.part p).reg 0x1800) + 8 * i) 8)
    mbstat := ofN ((s.part p).mbstat.toNat / 2 * 2 + 1) }) := by
  refine (if_neg (by rw [bit, hb]; exact Bool.false_ne_true)).trans (modPart_congr ?_)
  rw [bits_high _ (by decide)]
  rfl

/-! ## Commands -/

/-- A command is answered: RESULT and the value are written, and BUSY clears. -/
def answered (s : State) (p r v : Nat) : State :=
  s.modPart p (fun q => { q with mbstat := ofN (v % 2 ^ 32 * 2 ^ 32 + 2 * r), mbox := [] })

theorem answered_zero : answered s p 0 v = s.modPart p (fun q => { q with mbstat := ofN (v % 2 ^ 32 * 2 ^ 32), mbox := [] }) := by
  unfold answered
  rw [Nat.mul_zero, Nat.add_zero]

/-- The mailbox holds a well-formed block of an operation. -/
def holds (s : State) (p : Nat) (b : Block) (k : Nat) : Prop :=
  ((s.part p).vf = true ∧ (s.part p).mbstat.toNat.testBit 0 = true ∧ b = (s.part p).mbox ∧
    b.d 0 < 2 ^ 8 ∧ ∀ i, i < 24 → b.d (8 + i) = 0) ∧ b.d 0 = k

/-- What a command has answered is written; without RESULT 0 nothing else changes. -/
def settledAs (s : State) (p : Nat) : Answered → State
  | (0, v, t) => answered t p 0 v
  | (r + 1, _, _) => answered s p (r + 1) 0

theorem mailbox_answer (h : holds s p b k) (hk : 0 < k ∧ k ≤ 7) : s.mailbox p k f = settledAs s p (f s b) := by
  obtain ⟨⟨hv, hb, rfl, h8, hz⟩, hop⟩ := h
  have hlow : bits (Block.d (s.part p).mbox 0) 7 0 = k := by
    rw [bits_low, Nat.mod_eq_of_lt h8, hop]
  have hhigh : bits (Block.d (s.part p).mbox 0) 63 8 = 0 := by
    rw [bits_eq, Nat.div_eq_of_lt h8, Nat.zero_mod]
  have hzero : (List.range 24).any (fun i => Block.d (s.part p).mbox (8 + i) != 0) = false :=
    List.any_eq_false.2 fun i hi => by simpa using hz i (List.mem_range.1 hi)
  unfold State.mailbox
  refine (if_neg (by simp [hv, bit, hb])).trans ((if_neg ?_).trans ((if_neg ?_).trans ((if_neg ?_).trans ?_)))
  · rw [hlow]
    simp only [Bool.or_eq_true, decide_eq_true_eq]
    omega
  · rw [hlow]
    simp
  · rw [hhigh, hzero]
    decide
  · rcases f s (s.part p).mbox with ⟨_ | r, v, t⟩ <;> rfl

theorem mailbox_does (h : holds s p b k) (hk : 0 < k ∧ k ≤ 7) (hf : f s b = (0, v, t)) : s.mailbox p k f = answered t p 0 v := by
  rw [mailbox_answer h hk, hf, settledAs]

theorem mailbox_refuses (h : holds s p b k) (hk : 0 < k ∧ k ≤ 7) (hf : f s b = (r + 1, v, t)) : s.mailbox p k f = answered s p (r + 1) 0 := by
  rw [mailbox_answer h hk, hf, settledAs]

theorem isGlobal_iff {a : Nat} : isGlobal a = true ↔ a < 2 ^ 57 := decide_eq_true_iff

/-- A free number comes with a draw. -/
theorem freeNumber_draws {α : Type} {tab : Tab α} {limit : Nat} (hn : (s.freeNumber tab limit).1 = some n) :
    s.freeNumber tab limit = (some n, { s with fresh := s.fresh + 1 }) := by
  refine Prod.ext hn ?_
  unfold State.freeNumber
  dsimp only
  split <;> rfl

/-! ## Completion queues -/

/-- The block of a new completion queue is within its limits. -/
def cqFits (b : Block) : Prop := b.d 1 < 2 ^ 57 ∧ b.d 1 % 64 = 0 ∧ 4 ≤ b.d 2 % 2 ^ 5 ∧ b.d 2 % 2 ^ 5 ≤ 16 ∧ b.d 3 < 2 ^ 57

theorem cqFits_iff : (!isGlobal (b.d 1) || b.d 1 % 64 != 0 || decide (bits (b.d 2) 4 0 < 4) || decide (16 < bits (b.d 2) 4 0) || !isGlobal (b.d 3)) = true ↔
    ¬cqFits b := by
  rw [bits_low _ 4]
  simp only [Bool.or_eq_true, Bool.not_eq_true', ← Bool.not_eq_true, isGlobal_iff, bne_iff_ne, decide_eq_true_eq, cqFits]
  omega

theorem createCq_makes (h : holds s p b 1) (hb : cqFits b) (hn : (s.freeNumber (s.part p).cqs 16384).1 = some n) :
    exec (.createCq p) s = .next (answered (State.modPart { s with fresh := s.fresh + 1 } p (fun q => { q with
      cqs := tset q.cqs n { base := b.d 1, log := b.d 2 % 2 ^ 5, vec := b.d 2 / 2 ^ 8 % 2 ^ 5, sync := b.d 3 } })) p 0 n) := by
  rw [exec_createCq, execCreateCq]
  refine congrArg _ (mailbox_does h (by decide) ?_)
  dsimp only
  refine (if_neg fun hc => cqFits_iff.1 hc hb).trans ?_
  rw [freeNumber_draws hn, bits_low _ 4, bits_eq _ 12 8]

theorem createCq_refused (h : holds s p b 1) (hb : ¬cqFits b) : exec (.createCq p) s = .next (answered s p 3 0) := by
  rw [exec_createCq, execCreateCq]
  exact congrArg _ (mailbox_refuses h (by decide) (if_pos (cqFits_iff.2 hb)))

section
variable (h : holds s p b 2)
include h

theorem destroyCq_unknown (hc : thas (s.part p).cqs (b.d 1) = false) : exec (.destroyCq p) s = .next (answered s p 1 0) := by
  rw [exec_destroyCq, execDestroyCq]
  exact congrArg _ (mailbox_refuses h (by decide) (if_pos (by rw [hc]; rfl)))

variable (hc : thas (s.part p).cqs (b.d 1) = true)
include hc

theorem destroyCq_used (hu : (s.part p).qps.any (fun e => e.2.scq == b.d 1 || e.2.rcq == b.d 1) = true) :
    exec (.destroyCq p) s = .next (answered s p 3 0) := by
  rw [exec_destroyCq, execDestroyCq]
  exact congrArg _ (mailbox_refuses h (by decide) ((if_neg (by rw [hc]; decide)).trans (if_pos hu)))

theorem destroyCq_removes (hu : (s.part p).qps.any (fun e => e.2.scq == b.d 1 || e.2.rcq == b.d 1) = false) :
    exec (.destroyCq p) s = .next (answered (s.modPart p (fun q => { q with cqs := tdel q.cqs (b.d 1) })) p 0 0) := by
  rw [exec_destroyCq, execDestroyCq]
  exact congrArg _ (mailbox_does h (by decide) ((if_neg (by rw [hc]; decide)).trans (if_neg (by rw [hu]; exact Bool.false_ne_true))))

end

/-! ## Queue pairs -/

/-- The block of a new queue pair is within its limits. -/
def qpFits (b : Block) : Prop :=
  b.d 1 < 2 ^ 57 ∧ b.d 2 < 2 ^ 57 ∧ 4 ≤ b.d 3 % 2 ^ 4 ∧ b.d 3 % 2 ^ 4 ≤ 14 ∧ 4 ≤ b.d 3 / 2 ^ 8 % 2 ^ 4 ∧ b.d 3 / 2 ^ 8 % 2 ^ 4 ≤ 14 ∧ b.d 5 < 2 ^ 57

theorem qpFits_iff : (!isGlobal (b.d 1) || !isGlobal (b.d 2) || decide (bits (b.d 3) 3 0 < 4) || decide (14 < bits (b.d 3) 3 0) ||
    decide (bits (b.d 3) 11 8 < 4) || decide (14 < bits (b.d 3) 11 8) || !isGlobal (b.d 5)) = true ↔ ¬qpFits b := by
  rw [bits_low _ 3, bits_eq _ 11 8]
  simp only [Bool.or_eq_true, Bool.not_eq_true', ← Bool.not_eq_true, isGlobal_iff, decide_eq_true_eq, qpFits, Nat.reduceAdd, Nat.reduceSub]
  omega

theorem createQp_makes (h : holds s p b 3) (hb : qpFits b) (hs : thas (s.part p).cqs (b.d 4 % 2 ^ 14) = true)
    (hr : thas (s.part p).cqs (b.d 4 / 2 ^ 16 % 2 ^ 14) = true) (hn : (s.freeNumber (s.part p).qps 16384).1 = some n) :
    exec (.createQp p) s = .next (answered (State.modPart { s with fresh := s.fresh + 1 } p (fun q => { q with
      qps := tset q.qps n { sbase := b.d 1, rbase := b.d 2, slog := b.d 3 % 2 ^ 4, rlog := b.d 3 / 2 ^ 8 % 2 ^ 4, scq := b.d 4 % 2 ^ 14,
                            rcq := b.d 4 / 2 ^ 16 % 2 ^ 14, sync := b.d 5 } })) p 0 n) := by
  rw [exec_createQp, execCreateQp]
  refine congrArg _ (mailbox_does h (by decide) ?_)
  dsimp only
  refine (if_neg fun hc => qpFits_iff.1 hc hb).trans ?_
  rw [bits_low _ 13, bits_eq _ 29 16, hs, hr, bits_low _ 3, bits_eq _ 11 8]
  refine (if_neg (by decide)).trans ?_
  rw [freeNumber_draws hn]

section
variable (h : holds s p b 4)
include h

/-- Changing a queue pair that stands. -/
def qpChange (s : State) (p n : Nat) (q : Qp) (b : Block) : Answered :=
  match b.d 2, q.st with
  | 0, _ => (0, 0, s.setQp p n { q with st := 0, shead := 0, stail := 0, rhead := 0, rtail := 0, tries := 0 })
  | 4, _ => (0, 0, (s.flush p n q).setQp p n { q with st := 4, shead := q.stail, rhead := q.rtail, tries := 0 })
  | 1, 0 => (0, 0, s.setQp p n { q with st := 1 })
  | 2, 1 =>
    if 2 ^ 24 ≤ b.d 3 || 2 ^ 24 ≤ b.d 6 || 4 < b.d 7 || b.d 4 / 2 ^ 16 != 0 then (3, 0, s)
    else (0, 0, s.setQp p n { q with
      st := 2, rqpn := b.d 3, node := bits (b.d 4) 11 0, rpart := bits (b.d 4) 15 12, epsn := b.d 6, mtu := b.d 7 })
  | 3, 2 => if 2 ^ 24 ≤ b.d 5 then (3, 0, s) else (0, 0, s.setQp p n { q with st := 3, psn := b.d 5 })
  | x, _ => (if 4 < x then 3 else 4, 0, s)

theorem modifyQp_unknown (hq : tget (s.part p).qps (b.d 1) = none) : exec (.modifyQp p) s = .next (answered s p 1 0) := by
  rw [exec_modifyQp, execModifyQp]
  refine congrArg _ (mailbox_refuses h (by decide) (v := 0) (t := s) ?_)
  dsimp only
  rw [hq]

variable (hq : tget (s.part p).qps (b.d 1) = some qp)
include hq

theorem modifyQp_changes {a : Answered} (ha : qpChange s p (b.d 1) qp b = a) : exec (.modifyQp p) s = .next (settledAs s p a) := by
  subst ha
  rw [exec_modifyQp, execModifyQp]
  refine congrArg _ ((mailbox_answer h (by decide)).trans (congrArg (settledAs s p) ?_))
  dsimp only
  rw [hq]
  rfl

theorem modifyQp_resets (h0 : b.d 2 = 0) : exec (.modifyQp p) s = .next (answered (s.setQp p (b.d 1) { qp with
    st := 0, shead := 0, stail := 0, rhead := 0, rtail := 0, tries := 0 }) p 0 0) :=
  modifyQp_changes h hq (a := (0, 0, _)) (by unfold qpChange; rw [h0]; rfl)

theorem modifyQp_init (h1 : b.d 2 = 1) (hs : qp.st = 0) : exec (.modifyQp p) s = .next (answered (s.setQp p (b.d 1) { qp with st := 1 }) p 0 0) :=
  modifyQp_changes h hq (a := (0, 0, _)) (by unfold qpChange; rw [h1, hs]; rfl)

theorem modifyQp_initLate (h1 : b.d 2 = 1) (hs : qp.st ≠ 0) : exec (.modifyQp p) s = .next (answered s p 4 0) := by
  refine modifyQp_changes h hq (a := (4, 0, s)) ?_
  unfold qpChange
  rw [h1]
  cases hst : qp.st with
  | zero => exact absurd hst hs
  | succ n => rfl

theorem modifyQp_receives (h2 : b.d 2 = 2) (hs : qp.st = 1) (h3 : b.d 3 < 2 ^ 24) (h6 : b.d 6 < 2 ^ 24) (h7 : b.d 7 ≤ 4) (h4 : b.d 4 < 2 ^ 16) :
    exec (.modifyQp p) s = .next (answered (s.setQp p (b.d 1) { qp with
      st := 2, rqpn := b.d 3, node := b.d 4 % 2 ^ 12, rpart := b.d 4 / 2 ^ 12 % 2 ^ 4, epsn := b.d 6, mtu := b.d 7 }) p 0 0) := by
  refine modifyQp_changes h hq (a := (0, 0, _)) ?_
  unfold qpChange
  rw [h2, hs, bits_low _ 11, bits_eq _ 15 12]
  refine if_neg ?_
  simp only [Bool.or_eq_true, decide_eq_true_eq, bne_iff_ne, Nat.div_eq_of_lt h4]
  omega

theorem modifyQp_sends (h3 : b.d 2 = 3) (hs : qp.st = 2) (h5 : b.d 5 < 2 ^ 24) :
    exec (.modifyQp p) s = .next (answered (s.setQp p (b.d 1) { qp with st := 3, psn := b.d 5 }) p 0 0) := by
  refine modifyQp_changes h hq (a := (0, 0, _)) ?_
  unfold qpChange
  rw [h3, hs]
  exact if_neg (not_le.2 h5)

end

theorem destroyQp_removes (h : holds s p b 5) (hq : thas (s.part p).qps (b.d 1) = true) :
    exec (.destroyQp p) s = .next (answered (s.modPart p (fun q => { q with qps := tdel q.qps (b.d 1) })) p 0 0) := by
  rw [exec_destroyQp, execDestroyQp]
  exact congrArg _ (mailbox_does h (by decide) (if_pos hq))

theorem destroyQp_unknown (h : holds s p b 5) (hq : thas (s.part p).qps (b.d 1) = false) :
    exec (.destroyQp p) s = .next (answered s p 1 0) := by
  rw [exec_destroyQp, execDestroyQp]
  exact congrArg _ (mailbox_refuses h (by decide) (if_neg (by rw [hq]; exact Bool.false_ne_true)))

/-! ## Memory regions -/

/-- The block of a new memory region is within its limits. -/
def mrFits (b : Block) : Prop := b.d 1 < 2 ^ 57 ∧ b.d 2 ≠ 0 ∧ b.d 2 ≤ 2 ^ 40 ∧ b.d 3 < 8

theorem mrFits_iff : (!isGlobal (b.d 1) || decide (b.d 2 = 0) || decide (2 ^ 40 < b.d 2) || b.d 3 / 8 != 0) = true ↔ ¬mrFits b := by
  simp only [Bool.or_eq_true, Bool.not_eq_true', ← Bool.not_eq_true, isGlobal_iff, bne_iff_ne, decide_eq_true_eq, mrFits]
  omega

theorem regMr_makes (h : holds s p b 6) (hb : mrFits b) (hn : (s.freeNumber (s.part p).mrs (2 ^ 32)).1 = some n) :
    exec (.regMr p) s = .next (answered (State.modPart { s with fresh := s.fresh + 1 } p (fun q => { q with
      mrs := tset q.mrs n { base := b.d 1, len := b.d 2, acc := b.d 3 } })) p 0 n) := by
  rw [exec_regMr, execRegMr]
  refine congrArg _ (mailbox_does h (by decide) ((if_neg fun hc => mrFits_iff.1 hc hb).trans ?_))
  rw [freeNumber_draws hn]

theorem regMr_refused (h : holds s p b 6) (hb : ¬mrFits b) : exec (.regMr p) s = .next (answered s p 3 0) := by
  rw [exec_regMr, execRegMr]
  exact congrArg _ (mailbox_refuses h (by decide) (if_pos (mrFits_iff.2 hb)))

theorem deregMr_removes (h : holds s p b 7) (hm : thas (s.part p).mrs (b.d 1) = true) (hu : s.keyUsed p (b.d 1) = false) :
    exec (.deregMr p) s = .next (answered (s.modPart p (fun q => { q with mrs := tdel q.mrs (b.d 1) })) p 0 0) := by
  rw [exec_deregMr, execDeregMr]
  exact congrArg _ (mailbox_does h (by decide) ((if_neg (by rw [hm]; decide)).trans (if_neg (by rw [hu]; exact Bool.false_ne_true))))

theorem deregMr_unknown (h : holds s p b 7) (hm : thas (s.part p).mrs (b.d 1) = false) : exec (.deregMr p) s = .next (answered s p 1 0) := by
  rw [exec_deregMr, execDeregMr]
  exact congrArg _ (mailbox_refuses h (by decide) (if_pos (by rw [hm]; rfl)))

end
end Sys2Proof.Proofs
end


section
/-! PROOFS. The Ethernet ports: work requests, inbound packets and the encapsulation (R428, R430), and the statement about mailbox and
ports. -/
namespace Sys2Proof.Proofs
open Sys2Proof.Machine Sys2Proof.Safety Sys2Proof.Laws

section
variable {s s1 s2 : State} {p n value status kind rva rkey imm w st len node spart seq va r e : Nat} {data bs : List Byte} {args : List Word}
  {q : Qp} {x : Remote} {src : Src}

/-! ## Doorbells and the acting port -/

section
variable (hv : (s.part p).vf = true)
include hv

theorem sqdb_sets : exec (.sqdb p value) s = .next (s.modPart p (fun x => { x with
    qps := tmod x.qps (value % 2 ^ 14) (fun y => { y with stail := value / 2 ^ 32 % 2 ^ 16 }) })) := by
  rw [exec_sqdb, execSqdb, bits_low _ 13, bits_eq _ 47 32]
  exact congrArg _ (if_neg (by simp [hv]))

theorem rqdb_sets : exec (.rqdb p value) s = .next (s.modPart p (fun x => { x with
    qps := tmod x.qps (value % 2 ^ 14) (fun y => { y with rtail := value / 2 ^ 32 % 2 ^ 16 }) })) := by
  rw [exec_rqdb, execRqdb, bits_low _ 13, bits_eq _ 47 32]
  exact congrArg _ (if_neg (by simp [hv]))

end

/-- The ports that an entry of the peer table names. -/
def namedPorts (e : Nat) : List Nat := (List.range 18).filter (fun i => e.testBit (192 + i))

theorem portFor_known (hp : s.peer p node = (some e, s1)) :
    s.portFor p node n = (some (.port (((namedPorts e)[n % (namedPorts e).length]?).getD (n % 18))), s1) := by
  unfold State.portFor
  rw [hp]
  rfl

theorem portFor_unnamed (hp : s.peer p node = (some e, s1)) (h : ∀ i, i < 18 → e.testBit (192 + i) = false) :
    s.portFor p node n = (some (.port (n % 18)), s1) := by
  have none_ : namedPorts e = [] := List.filter_eq_nil_iff.2 fun i hi => by simp [h i (List.mem_range.1 hi)]
  rw [portFor_known hp, none_]
  rfl

theorem portFor_named (hp : s.peer p node = (some e, s1)) (h : ∃ i, i < 18 ∧ e.testBit (192 + i) = true) :
    ∃ i, i < 18 ∧ e.testBit (192 + i) = true ∧ s.portFor p node n = (some (.port i), s1) := by
  obtain ⟨j, hj, hbit⟩ := h
  have hmem : j ∈ namedPorts e := List.mem_filter.2 ⟨List.mem_range.2 hj, hbit⟩
  have hlt : n % (namedPorts e).length < (namedPorts e).length := Nat.mod_lt _ (List.length_pos_of_mem hmem)
  have hport := List.mem_filter.1 (List.getElem_mem hlt)
  refine ⟨(namedPorts e)[n % (namedPorts e).length], List.mem_range.1 hport.1, hport.2, ?_⟩
  rw [portFor_known hp, List.getElem?_eq_getElem hlt]
  rfl

/-! ## Work requests (R429) -/

section
variable (hq : tget (s.part p).qps n = some q) (h3 : q.st = 3) (hr : q.shead ≠ q.stail)
include hq h3 hr

theorem sendWorkRequest_takes (hp : s.portFor p q.node n = (some src, s1)) : exec (.sendWorkRequest p n status data) s =
    .next (s1.viaNet (.inbound p [0, n, q.shead]) src (fun s => s.sendMove p q status data) (fun e s => s.sendEnd p n q e)) := by
  rw [exec_sendWorkRequest, execSendWorkRequest, hq]
  refine congrArg _ ((if_neg (by simp [h3, hr])).trans ?_)
  rw [hp]

theorem sendWorkRequest_waits (hp : s.portFor p q.node n = (none, s1)) : exec (.sendWorkRequest p n status data) s = .next s1 := by
  rw [exec_sendWorkRequest, execSendWorkRequest, hq]
  refine congrArg _ ((if_neg (by simp [h3, hr])).trans ?_)
  rw [hp]

theorem roceRetry_again (ht : q.tries < Config.roceRetries) :
    exec (.roceRetryTimeout p n) s = .next (s.setQp p n { q with tries := q.tries + 1 }) := by
  rw [exec_roceRetryTimeout, execRoceRetryTimeout, hq]
  exact congrArg _ ((if_neg (by simp [h3, hr])).trans (if_pos ht))

theorem roceRetry_ends (ht : Config.roceRetries ≤ q.tries) (hw : s.workRequest p q.sbase q.slog q.shead = (some w, s1)) :
    exec (.roceRetryTimeout p n) s = .next ((s1.sendDone p n q w 4 0).advanceSend p n 0) := by
  rw [exec_roceRetryTimeout, execRoceRetryTimeout, hq]
  refine congrArg _ ((if_neg (by simp [h3, hr])).trans ((if_neg (not_lt.2 ht)).trans ?_))
  rw [hw]
  rfl

end

theorem sendMove_unread (hw : s.workRequest p q.sbase q.slog q.shead = (none, s1)) : s.sendMove p q status data = (some (2, 0), s1) := by
  unfold State.sendMove
  rw [hw]

section
variable (hw : s.workRequest p q.sbase q.slog q.shead = (some w, s1))
include hw

theorem sendMove_tried (ht : s1.trySend p w status data = some (st, len, s2)) : s.sendMove p q status data = (some (st, len), s2) := by
  unfold State.sendMove
  rw [hw]
  dsimp only
  rw [ht]

theorem sendMove_waits (ht : s1.trySend p w status data = none) : s.sendMove p q status data = (none, { s1 with blocked := true }) := by
  unfold State.sendMove
  rw [hw]
  dsimp only
  rw [ht]

theorem sendEnd_done : s.sendEnd p n q (some (st, len)) = (s1.sendDone p n q w st len).advanceSend p n len := by
  unfold State.sendEnd
  dsimp only [Option.getD_some]
  rw [hw]

end

/-! ## Inbound packets (R428) -/

/-- A packet of a kind may come to its region. -/
def coversInbound (s : State) (p k rva rkey imm : Nat) (data : List Byte) : Bool :=
  match k with
  | 0 => true
  | 1 => (s.part p).covers rkey rva data.length (some 2)
  | 2 => (s.part p).covers rkey rva data.length (some 2)
  | _ => (s.part p).covers rkey rva imm (some 1)

theorem coversInbound_iff {k : Nat} : coversInbound s p k rva rkey imm data = true ↔
    if k = 0 then True else if k = 1 ∨ k = 2 then (s.part p).covers rkey rva data.length (some 2) = true
      else (s.part p).covers rkey rva imm (some 1) = true := by
  rcases k with _ | _ | _ | k
  · exact ⟨fun _ => trivial, fun _ => rfl⟩
  · exact Iff.rfl
  · exact Iff.rfl
  · rw [if_neg (by omega), if_neg (by omega)]
    exact Iff.rfl

section
variable (hq : tget (s.part p).qps n = some q) (h23 : q.st = 2 ∨ q.st = 3)
include hq h23

theorem roceInbound_ends : exec (.roceInbound p n kind rva rkey imm data) s = .next
    (if ((kind % 4 == 0 || kind % 4 == 2) && q.rhead == q.rtail) || !coversInbound s p (kind % 4) rva rkey imm data then
      s.notify p n (kind.testBit 2)
    else match s.portFor p q.node n with
      | (none, s) => s
      | (some src, s) => s.viaNet (.inbound p [1, n, q.epsn, kind % 4, rva, imm, data.length]) src
          (fun s => s.inboundMove p q (kind % 4) rva imm data)
          (fun e s => (s.inboundEnd p n q (kind % 4) imm data e).notify p n (kind.testBit 2))) := by
  rw [exec_roceInbound, execRoceInbound, hq]
  refine congrArg _ ((if_neg ?_).trans rfl)
  rcases h23 with h | h <;> simp [h]

omit hq h23 in
theorem roceInbound_taken_iff : (((kind % 4 == 0 || kind % 4 == 2) && q.rhead == q.rtail) || !coversInbound s p (kind % 4) rva rkey imm data) = true ↔
    ¬(coversInbound s p (kind % 4) rva rkey imm data = true) ∨ ((kind % 4 = 0 ∨ kind % 4 = 2) ∧ q.rhead = q.rtail) := by
  simp only [Bool.or_eq_true, Bool.and_eq_true, beq_iff_eq, Bool.not_eq_true', Bool.not_eq_true]
  exact or_comm

theorem roceInbound_refused (h : ¬(coversInbound s p (kind % 4) rva rkey imm data = true) ∨ ((kind % 4 = 0 ∨ kind % 4 = 2) ∧ q.rhead = q.rtail)) :
    exec (.roceInbound p n kind rva rkey imm data) s = .next (s.notify p n (kind.testBit 2)) := by
  rw [roceInbound_ends hq h23, if_pos (roceInbound_taken_iff.2 h)]

section
variable (hr : kind % 4 = 0 ∨ kind % 4 = 2 → q.rhead ≠ q.rtail) (hc : coversInbound s p (kind % 4) rva rkey imm data = true)
include hr hc

theorem roceInbound_lands (hp : s.portFor p q.node n = (some src, s1)) : exec (.roceInbound p n kind rva rkey imm data) s =
    .next (s1.viaNet (.inbound p [1, n, q.epsn, kind % 4, rva, imm, data.length]) src (fun s => s.inboundMove p q (kind % 4) rva imm data)
      (fun e s => (s.inboundEnd p n q (kind % 4) imm data e).notify p n (kind.testBit 2))) := by
  rw [roceInbound_ends hq h23, if_neg (fun h => (roceInbound_taken_iff.1 h).elim (· hc) fun h => hr h.1 h.2), hp]

theorem roceInbound_waits (hp : s.portFor p q.node n = (none, s1)) : exec (.roceInbound p n kind rva rkey imm data) s = .next s1 := by
  rw [roceInbound_ends hq h23, if_neg (fun h => (roceInbound_taken_iff.1 h).elim (· hc) fun h => hr h.1 h.2), hp]

end

end

theorem inboundMove_send (hw : s.workRequest p q.rbase q.rlog q.rhead = (some w, s1)) (hl : s1.landSend p w data = (st, s2)) :
    s.inboundMove p q 0 rva imm data = (if st = 0 then none else some (st, 0), s2) := by
  unfold State.inboundMove State.receiveHead
  dsimp only
  rw [hw]
  dsimp only [Option.getD_some]
  rw [hl]
  cases st <;> rfl

section
variable (hw : writeAs s p (s.part p).rootAsid (s.part p).rootPt rva data (0, 16, 0) = (.ok (), s1))
include hw

theorem inboundMove_write : s.inboundMove p q 1 rva imm data = (none, s1) := by
  unfold State.inboundMove
  dsimp only
  rw [hw]
  rfl

theorem inboundMove_writeImm (hr : s1.workRequest p q.rbase q.rlog q.rhead = (some w, s2)) :
    s.inboundMove p q 2 rva imm data = (if badReceive w then some (2, 0) else none, s2) := by
  unfold State.inboundMove State.receiveHead
  dsimp only
  rw [hw]
  dsimp only [netAnswer]
  rw [hr]
  rfl

end

theorem inboundMove_read (hr : readSysAt s p (s.part p).rootAsid (s.part p).rootPt rva imm = (.ok bs, s1)) :
    s.inboundMove p q 3 rva imm data = (none, s1) := by
  unfold State.inboundMove
  dsimp only
  rw [hr]
  rfl

theorem inboundEnd_refused (hs : st < 16) : s.inboundEnd p n q 0 imm data (some (st, 0)) =
    (s.complete p q.rcq n 4 q.rhead 0 0 st).advanceReceive p n data.length 1 := by
  have hst : (if st < 16 then st else 2) = st := if_pos hs
  exact congrArg (fun k => (s.complete p q.rcq n 4 q.rhead 0 0 k).advanceReceive p n data.length 1) hst

theorem inboundEnd_fault {k : Nat} (h0 : k ≠ 0) (h2 : ¬(k = 2 ∧ st = 2)) : s.inboundEnd p n q k imm data (some (st, len)) = s.accessFault p st := by
  rcases k with _ | _ | _ | k
  · exact absurd rfl h0
  · rfl
  · rcases st with _ | _ | _ | st
    · rfl
    · rfl
    · exact absurd ⟨rfl, rfl⟩ h2
    · rfl
  · rfl

/-! ## The encapsulation (R66, R430) -/

/-- A request already handled: its recorded result again, where the retry bit is set or it is a cancel. -/
def repeated (s : State) (p node spart seq kind : Nat) : State :=
  if !(decide (kind % 8 = 4) || kind.testBit 3) then s
  else ((s.peerWin p node spart).ran.find? (fun r => r.1 == seq)).elim s (fun r => s.sendAnswer p node spart seq r.2.1 r.2.2)

/-- A request of a peer's partition by its operation. -/
def encapRequest (s : State) (p node spart seq kind va : Nat) (args : List Word) : State :=
  let pw := s.peerWin p node spart
  if kind % 8 = 4 then if seq = pw.expect then s.answerPeer pw 0xE5 [] else repeated s p node spart seq kind
  else if seq ≠ pw.expect then repeated s p node spart seq kind
  else if kind % 8 = 0 then (s.remoteWaggle p node spart va args).2.answerPeer pw (s.remoteWaggle p node spart va args).1 []
  else s.remoteAtomic p node (.inbound p [2, node, spart, seq]) va args (fun s code d => s.answerPeer pw code d)

/-- A request of this partition that a peer answers. -/
def asked (s : State) (p node spart seq : Nat) : Option (Nat × Remote) :=
  s.remotes.find? (fun r => r.2.part == p && r.2.node == node && r.2.rpart == spart && r.2.seq == seq)

section
variable (hv : (s.part p).vf = true)
include hv

theorem remoteEncap_request (ho : kind % 8 = 0 ∨ kind % 8 = 1 ∨ kind % 8 = 4) :
    exec (.remoteEncapRequest p node spart seq kind va args) s = .next (encapRequest s p node spart seq kind va args) := by
  rw [exec_remoteEncapRequest, execRemoteEncapRequest]
  refine congrArg _ ((if_neg (by simp [hv])).trans ?_)
  unfold encapRequest repeated
  rcases ho with h | h | h
  all_goals
    dsimp only
    rw [h]
  · rw [if_neg (show ¬0 = 4 by decide)]
    by_cases hs : seq = (s.peerWin p node spart).expect
    · rw [if_neg (not_not.2 hs), if_pos rfl]
      exact if_neg (by simp [hs])
    · rw [if_pos hs]
      exact if_pos (by simpa using hs)
  · rw [if_neg (show ¬1 = 4 by decide)]
    by_cases hs : seq = (s.peerWin p node spart).expect
    · rw [if_neg (not_not.2 hs), if_neg (show ¬1 = 0 by decide)]
      exact if_neg (by simp [hs])
    · rw [if_pos hs]
      exact if_pos (by simpa using hs)
  · rw [if_pos rfl]
    rfl

theorem remoteEncap_late (ho : kind % 8 = 0 ∨ kind % 8 = 1 ∨ kind % 8 = 4) (hs : seq ≠ (s.peerWin p node spart).expect) :
    exec (.remoteEncapRequest p node spart seq kind va args) s = .next (repeated s p node spart seq kind) := by
  rw [remoteEncap_request hv ho]
  refine congrArg _ ?_
  unfold encapRequest
  dsimp only
  rw [if_pos hs, if_neg hs]
  exact ite_self _

theorem remoteEncap_next {k : Nat} (ho : kind % 8 = k) (hk : k = 0 ∨ k = 1 ∨ k = 4) (hs : seq = (s.peerWin p node spart).expect) :
    exec (.remoteEncapRequest p node spart seq kind va args) s = .next
      (if k = 4 then s.answerPeer (s.peerWin p node spart) 0xE5 []
        else if k = 0 then (s.remoteWaggle p node spart va args).2.answerPeer (s.peerWin p node spart) (s.remoteWaggle p node spart va args).1 []
        else s.remoteAtomic p node (.inbound p [2, node, spart, seq]) va args (fun t code d => t.answerPeer (s.peerWin p node spart) code d)) := by
  subst ho
  rw [remoteEncap_request hv hk]
  refine congrArg _ ?_
  unfold encapRequest
  dsimp only
  rw [if_pos hs, if_neg (not_not.2 hs)]

theorem remoteEncap_answer (ho : kind % 8 = 2 ∨ kind % 8 = 3) (hm : asked s p node spart seq = some (r, x)) :
    exec (.remoteEncapRequest p node spart seq kind va args) s = .next
      (if x.dead then { s with remotes := tdel s.remotes r }
        else if kind % 8 = 2 then ({ s with remotes := tdel s.remotes r } : State).finish x.op []
        else ({ s with remotes := tdel s.remotes r } : State).failOp x.op 0xB7 0) := by
  rw [exec_remoteEncapRequest, execRemoteEncapRequest]
  refine congrArg _ ((if_neg (by simp [hv])).trans ?_)
  unfold asked at hm
  dsimp only
  rcases ho with h | h
  all_goals
    rw [h, hm]
    rfl

end

theorem repeated_dropped (h4 : kind % 8 ≠ 4) (h3 : kind.testBit 3 = false) : repeated s p node spart seq kind = s :=
  if_pos (by simp [h4, h3])

theorem repeated_forgotten (h : ∀ e ∈ (s.peerWin p node spart).ran, e.1 ≠ seq) : repeated s p node spart seq kind = s := by
  have hnone : (s.peerWin p node spart).ran.find? (fun r => r.1 == seq) = none :=
    List.find?_eq_none.2 fun e he => by simpa using h e he
  unfold repeated
  rw [hnone]
  exact ite_self s

theorem repeated_sent {code : Nat} (h : kind % 8 = 4 ∨ kind.testBit 3 = true)
    (hf : (s.peerWin p node spart).ran.find? (fun e => e.1 == seq) = some (seq, code, bs)) :
    repeated s p node spart seq kind = s.sendAnswer p node spart seq code bs := by
  unfold repeated
  rw [hf]
  exact if_neg (by rcases h with h | h <;> simp [h])

/-! ## Remote atomics -/

section
variable {o : Owner} {fin : State → Nat → List Byte → State}

theorem remoteAtomic_storing {y : Stage} (hs : s.stage o = some y) (hw : y.writing = true) (hl : y.left ≠ 0) :
    s.remoteAtomic p node o va args fin = s := by
  unfold State.remoteAtomic
  rw [hs]
  exact (if_pos hw).trans (if_pos (by simpa using hl))

theorem remoteAtomic_answered {y : Stage} {l : Seen} {ls : List Seen} (hs : s.stage o = some y) (hw : y.writing = true) (hl : y.left = 0)
    (ho : y.out = none) (hseen : y.seen = l :: ls) : s.remoteAtomic p node o va args fin = fin (s.dropStage o) 0 l.data := by
  unfold State.remoteAtomic
  rw [hs]
  refine (if_pos hw).trans ((if_neg (by simpa using hl)).trans ?_)
  rw [show ((some y).getD { owner := o }).out = none from ho, show ((some y).getD { owner := o }).seen = l :: ls from hseen]
  rfl

variable (hs : s.stage o = none) (hp : s.portFor p node node = (some src, s2))
include hs hp

theorem remoteAtomic_places {a : Except (Nat × Nat) (Nat × Phys)} (hr : s2.readNet o src (fun s => s.remotePlace p va
    ((Ty.ofCode ((args.getD 2 0).toNat)).width / 8)) = (a, s1)) : s.remoteAtomic p node o va args fin =
      match a with
      | .error (0, _) => s1
      | .error (f, _) => fin (s1.accessFault p f) f []
      | .ok (v, ph) => ((s1.modStage o (fun e => { e with writing := true, left := 1 })).send
        { src := src, dst := s1.home p ph.pa, part := p, n := (Ty.ofCode ((args.getD 2 0).toNat)).width / 8, va := v, owner := some o, ph := ph
          kind := .atomic (.rmw (args.getD 0 0).toNat (args.getD 1 0).toNat (args.getD 2 0).toNat (args.getD 3 0).toNat (args.getD 4 0).toNat) }).2 := by
  unfold State.remoteAtomic
  rw [hs]
  refine (if_neg Bool.false_ne_true).trans ?_
  rw [hp]
  dsimp only
  rw [show s2.readNet o src (fun s => s.remotePlace p va (Ty.bytes (Ty.ofCode ((args.getD 2 0).toNat)))) = (a, s1) from hr]
  rcases a with ⟨_ | f, a⟩ | ⟨v, ph⟩ <;> rfl

end

theorem remotePlace_misaligned {size : Nat} (h : va % size ≠ 0) : s.remotePlace p va size = (.error (0x2D, va), s) :=
  if_pos (by simpa using h)

/-! ## Retransmission of remote requests (R65) -/

section
variable (hx : tget s.remotes r = some x)
include hx

theorem remoteRetransmit_early (h : s.now < x.deadline) : exec (.remoteRetransmit r) s = .next s := by
  rw [exec_remoteRetransmit, execRemoteRetransmit, hx]
  exact congrArg _ (if_pos h)

/-- A remote request that is sent again. -/
def remoteAgain (s : State) (x : Remote) : Remote :=
  { x with sends := min 5 (x.sends + 1), deadline := s.now + 2 ^ 24 * 2 ^ min 4 x.sends }

/-- A remote request that is cancelled. -/
def remoteCancelled (s : State) (x : Remote) : Remote := { x with dead := true, sends := 1, deadline := s.now + 2 ^ 24 }

theorem remoteRetransmit_due (h : x.deadline ≤ s.now) : exec (.remoteRetransmit r) s = .next
    (if x.dead then ({ s with remotes := tset s.remotes r (remoteAgain s x) } : State).sendCancel (remoteAgain s x)
      else if x.sends < 5 then ({ s with remotes := tset s.remotes r (remoteAgain s x) } : State).sendWaggle (remoteAgain s x)
      else (({ s with remotes := tset s.remotes r (remoteCancelled s x) } : State).sendCancel (remoteCancelled s x)).failOp x.op 0xE5 0) := by
  rw [exec_remoteRetransmit, execRemoteRetransmit, hx]
  exact congrArg _ (if_neg (not_lt.2 h))

end

end

/-- Settles O44: each command by its checks, each event of a port by its branch. -/
theorem mailboxAndPorts : Obligations.MailboxAndPorts := by
  refine ⟨?_, ?_⟩
  · intro s p b qp x a block op answers does put number drawn log cqOk sl rl sc rc qpOk mrOk qpIs
    refine ⟨fun v hv hb => ?_, fun v hv hb => ?_, fun n h hb hn => (createCq_makes h hb hn).trans (congrArg Host.Outcome.next answered_zero), fun h hb => createCq_refused h hb, fun h hc => destroyCq_unknown h hc,
      fun h hc hu => destroyCq_used h hc hu, fun h hc hu => destroyCq_removes h hc hu, fun n h hb hs hr hn => (createQp_makes h hb hs hr hn).trans (congrArg Host.Outcome.next answered_zero),
      fun h hq => modifyQp_unknown h hq, fun h hq h0 => modifyQp_resets h hq h0, fun h hq h1 hs => modifyQp_init h hq h1 hs,
      fun h hq h1 hs => modifyQp_initLate h hq h1 hs, fun h hq h2 hs h3 h6 h7 h4 => modifyQp_receives h hq h2 hs h3 h6 h7 h4,
      fun h hq h3 hs h5 => modifyQp_sends h hq h3 hs h5, fun h hq => destroyQp_removes h hq, fun h hq => destroyQp_unknown h hq,
      fun n h hb hn => (regMr_makes h hb hn).trans (congrArg Host.Outcome.next answered_zero), fun h hb => regMr_refused h hb, fun h hm hu => deregMr_removes h hm hu,
      fun h hm => deregMr_unknown h hm⟩
    · rw [registerWrite_mailbox hv, mailboxGo_busy hb]
    · rw [registerWrite_mailbox hv, mailboxGo_reads hb]
  · intro s s1 s2 p n value status kind rva rkey imm w st len node spart seq va r data args q x on qp sends reads y pw mine ring waggle arg size owner
      atomic k mark o sentAgain cancelled due covered
    have hcov : coversInbound s p (kind % 4) rva rkey imm data = true ↔ covered := coversInbound_iff
    refine ⟨fun hv => sqdb_sets hv, fun hv => rqdb_sets hv, fun e hp h => portFor_unnamed hp h, fun e hp h => portFor_named hp h,
      fun src ⟨hq, h3, hr⟩ hp => sendWorkRequest_takes hq h3 hr hp, fun ⟨hq, h3, hr⟩ hp => sendWorkRequest_waits hq h3 hr hp,
      fun hw => sendMove_unread hw, fun hw ht => sendMove_tried hw ht, fun hw ht => sendMove_waits hw ht, fun hw => sendEnd_done hw,
      fun ⟨hq, h3, hr⟩ ht => roceRetry_again hq h3 hr ht, fun ⟨hq, h3, hr⟩ ht hw => roceRetry_ends hq h3 hr ht hw,
      fun src ⟨hq, h23⟩ hr hc hp => roceInbound_lands hq h23 hr (hcov.2 hc) hp, fun ⟨hq, h23⟩ hr hc hp => roceInbound_waits hq h23 hr (hcov.2 hc) hp,
      fun ⟨hq, h23⟩ h => roceInbound_refused hq h23 (h.imp_left (mt hcov.1)), ⟨rfl, rfl⟩, fun hw hl => inboundMove_send hw hl,
      fun hw => inboundMove_write hw, fun hw hr => inboundMove_writeImm hw hr, fun bs hr => inboundMove_read hr, rfl,
      fun hs => inboundEnd_refused hs, rfl, rfl, rfl, rfl, fun h0 h2 => inboundEnd_fault h0 h2,
      fun hv hs ho => remoteEncap_next hv ho (.inl rfl) hs, fun hv hs ho => remoteEncap_next hv ho (.inr (.inl rfl)) hs,
      fun hv hs ho => remoteEncap_next hv ho (.inr (.inr rfl)) hs, fun y hs hw hl => remoteAtomic_storing hs hw hl,
      fun y l ls hs hw hl ho hseen => remoteAtomic_answered hs hw hl ho hseen, fun src v ph hs hp hr => remoteAtomic_places hs hp hr,
      fun src f a hs hp hr hf => (remoteAtomic_places hs hp hr).trans ?_, fun h => remotePlace_misaligned h,
      fun hv hs ho h => (remoteEncap_late hv ho hs).trans (congrArg _ (repeated_forgotten h)),
      fun hv hs ho h3 => (remoteEncap_late hv (by omega) hs).trans (congrArg _ (repeated_dropped (by omega) h3)),
      fun code bs hv hs ho hf => (remoteEncap_late hv (by omega) hs).trans (congrArg _ (repeated_sent (ho.imp_right And.right) hf)),
      fun hv hm ho hd => (remoteEncap_answer hv (.inl ho) hm).trans (congrArg _ ((if_neg (by rw [hd]; exact Bool.false_ne_true)).trans (if_pos ho))),
      fun hv hm ho hd => (remoteEncap_answer hv (.inr ho) hm).trans (congrArg _ ((if_neg (by rw [hd]; exact Bool.false_ne_true)).trans (if_neg (by omega)))),
      fun hv hm ho hd => (remoteEncap_answer hv ho hm).trans (congrArg _ (if_pos hd)), fun hx h => remoteRetransmit_early hx h,
      fun ⟨hx, h⟩ hd h5 => (remoteRetransmit_due hx h).trans (congrArg _ ((if_neg (by rw [hd]; exact Bool.false_ne_true)).trans (if_pos h5))),
      fun ⟨hx, h⟩ hd h5 => (remoteRetransmit_due hx h).trans (congrArg _ ((if_neg (by rw [hd]; exact Bool.false_ne_true)).trans (if_neg (not_lt.2 h5)))),
      fun ⟨hx, h⟩ hd => (remoteRetransmit_due hx h).trans (congrArg _ (if_pos hd))⟩
    cases f with
    | zero => exact absurd rfl hf
    | succ f => rfl

end Sys2Proof.Proofs
end


section
/-!
PROOFS. Canonical memories: what an update of the state leaves canonical, and the writes themselves (R53, R26). In the sections that
follow, `Canonical.f` says that the function `f` of the model keeps every memory canonical; its proof goes through the branches of
`f`, and a chain `h.f.g.k` through its steps in their order.
-/
namespace Sys2Proof.Proofs
open Sys2Proof.Machine Sys2Proof.Safety Sys2Proof.Laws

/-- Every memory of the state is in the list form of `memOk`: both memories, and the scratchpad of each workgroup. -/
def Canonical (s : State) : Prop := memOk s = true

/-- The state that an effect hands on. -/
abbrev actState : Act → State
  | .adv s => s
  | .jump s => s
  | .trap _ _ _ s => s
  | .wait s => s

/-- The next state, or `s` where the machine stops. -/
abbrev outState (s : State) : Out → State
  | .next t => t
  | _ => s

section
variable {s t u : State} {α β γ : Type}

theorem canonical_iff : Canonical s ↔ Memory.wf s.mem = true ∧ Memory.wf s.host = true ∧ ∀ e ∈ s.wgs, Memory.wf e.2.scratch = true := by
  simp only [Canonical, memOk, Bool.and_eq_true, List.all_eq_true, and_assoc]

theorem mem_tset {α : Type} {x : Tab α} {i : Nat} {y : α} {e : Nat × α} (h : e ∈ tset x i y) : e ∈ x ∨ e = (i, y) := by
  induction x with
  | nil => exact .inr (List.mem_singleton.1 h)
  | cons d x ih =>
    simp only [tset] at h
    split at h
    · simpa [or_comm] using h
    · split at h <;> simp only [List.mem_cons] at h ⊢
      · tauto
      · tauto

theorem mem_tdel {α : Type} {x : Tab α} {i : Nat} {e : Nat × α} (h : e ∈ tdel x i) : e ∈ x := by
  induction x with
  | nil => exact h
  | cons d x ih =>
    simp only [tdel] at h
    split at h
    · exact .tail _ h
    · obtain rfl | h := List.mem_cons.1 h
      · exact .head _
      · exact .tail _ (ih h)

theorem mem_tmod {α : Type} {x : Tab α} {i : Nat} {f : α → α} {e : Nat × α} (h : e ∈ tmod x i f) :
    e ∈ x ∨ ∃ y, (i, y) ∈ x ∧ (i, f y) = e := by
  simp only [tmod] at h
  split at h
  · next y hy => exact (mem_tset h).imp id fun he => ⟨y, mem_of_tget hy, he.symm⟩
  · exact .inl h

/-- A part of a canonical list is canonical. -/
theorem filter_wfFrom {m : Mem} {lo : Nat} (f : Host.Cell → Bool) (h : Memory.wfFrom lo m = true) :
    Memory.wfFrom lo (m.filter f) = true := by
  induction m generalizing lo with
  | nil => rfl
  | cons e m ih =>
    obtain ⟨a, b⟩ := e
    simp only [Memory.wfFrom, Bool.and_eq_true, decide_eq_true_eq] at h
    simp only [List.filter_cons]
    split
    · simp only [Memory.wfFrom, Bool.and_eq_true, decide_eq_true_eq]
      exact ⟨h.1, ih h.2⟩
    · exact wfFrom_weaken (by omega) (ih h.2)

/-- A series of writes keeps the canonical form. -/
theorem foldl_memWrite_wf {m : Mem} (h : Memory.wf m = true) (l : List (Nat × List Byte)) :
    Memory.wf (l.foldl (fun (m : Mem) (e : Nat × List Byte) => memWrite m e.1 e.2) m) = true := by
  induction l generalizing m with
  | nil => exact h
  | cons e l ih => exact ih (memWrite_wf e.1 e.2 h)

namespace Canonical

theorem of_wf (m : Memory.wf s.mem = true) (o : Memory.wf s.host = true) (g : ∀ e ∈ s.wgs, Memory.wf e.2.scratch = true) :
    Canonical s := canonical_iff.2 ⟨m, o, g⟩

theorem mem_wf (h : Canonical s) : Memory.wf s.mem = true := (canonical_iff.1 h).1

theorem host_wf (h : Canonical s) : Memory.wf s.host = true := (canonical_iff.1 h).2.1

theorem scratch_wf (h : Canonical s) : ∀ e ∈ s.wgs, Memory.wf e.2.scratch = true := (canonical_iff.1 h).2.2

/-- An update of other fields. -/
theorem keep {agenda cur fresh nextId issues now wlog l2 poison slicePoison hbmReads cores walks slices launches ops reqs
    pkts windows seqs buckets waiters records kind2s dirs parts runs lqs lqPlaced ecc link clock ats atsAsk atsBad turn
    asking walkLast windowAt fatal power placeAt msis blocked stages net wants puts remotes peers encaps cnps banks
    activeBank running hostData}
    (h : Canonical s) :
    Canonical ⟨agenda, cur, fresh, nextId, issues, now, s.mem, s.host, wlog, l2, poison, slicePoison, hbmReads, cores,
      walks, slices, s.wgs, launches, ops, reqs, pkts, windows, seqs, buckets, waiters, records, kind2s, dirs, parts,
      runs, lqs, lqPlaced, ecc, link, clock, ats, atsAsk, atsBad, turn, asking, walkLast, windowAt, fatal, power,
      placeAt, msis, blocked, stages, net, wants, puts, remotes, peers, encaps, cnps, banks, activeBank, running,
      hostData⟩ := h

/-- An update of each workgroup that leaves its scratchpad, and of other fields. -/
theorem mapWgs {agenda cur fresh nextId issues now wlog l2 poison slicePoison hbmReads cores walks slices launches ops reqs
    pkts windows seqs buckets waiters records kind2s dirs parts runs lqs lqPlaced ecc link clock ats atsAsk atsBad turn
    asking walkLast windowAt fatal power placeAt msis blocked stages net wants puts remotes peers encaps cnps banks
    activeBank running hostData}
    (h : Canonical s) {f : Nat × Workgroup → Nat × Workgroup} (k : ∀ e, (f e).2.scratch = e.2.scratch) :
    Canonical ⟨agenda, cur, fresh, nextId, issues, now, s.mem, s.host, wlog, l2, poison, slicePoison, hbmReads, cores,
      walks, slices, s.wgs.map f, launches, ops, reqs, pkts, windows, seqs, buckets, waiters, records, kind2s, dirs,
      parts, runs, lqs, lqPlaced, ecc, link, clock, ats, atsAsk, atsBad, turn, asking, walkLast, windowAt, fatal, power,
      placeAt, msis, blocked, stages, net, wants, puts, remotes, peers, encaps, cnps, banks, activeBank, running,
      hostData⟩ := by
  refine of_wf h.mem_wf h.host_wf fun e he => ?_
  obtain ⟨x, hx, rfl⟩ := List.mem_map.1 he
  exact k x ▸ h.scratch_wf x hx

theorem ite {c : Prop} {_ : Decidable c} (h : Canonical s) (h' : Canonical t) : Canonical (if c then s else t) := by
  split <;> assumption

theorem iteSnd {c : Prop} {_ : Decidable c} {p q : α × State} (h : Canonical p.2) (h' : Canonical q.2) :
    Canonical (if c then p else q).2 := by
  split <;> assumption

theorem iteFst {c : Prop} {_ : Decidable c} {p q : State × α} (h : Canonical p.1) (h' : Canonical q.1) :
    Canonical (if c then p else q).1 := by
  split <;> assumption

theorem iteAct {c : Prop} {_ : Decidable c} {p q : Act} (h : Canonical (actState p)) (h' : Canonical (actState q)) :
    Canonical (actState (if c then p else q)) := by
  split <;> assumption

theorem foldl {f : State → β → State} (hf : ∀ s b, Canonical s → Canonical (f s b)) (h : Canonical s) {l : List β} :
    Canonical (l.foldl f s) := by
  induction l generalizing s with
  | nil => exact h
  | cons b l ih => exact ih (hf s b h)

theorem foldlSnd {f : α × State → β → α × State} (hf : ∀ a b, Canonical a.2 → Canonical (f a b).2) {a : α × State}
    (h : Canonical a.2) {l : List β} : Canonical (l.foldl f a).2 := by
  induction l generalizing a with
  | nil => exact h
  | cons b l ih => exact ih (hf a b h)

theorem foldlFst {f : State × α → β → State × α} (hf : ∀ a b, Canonical a.1 → Canonical (f a b).1) {a : State × α}
    (h : Canonical a.1) {l : List β} : Canonical (l.foldl f a).1 := by
  induction l generalizing a with
  | nil => exact h
  | cons b l ih => exact ih (hf a b h)

/-! What a function has answered, taken apart -/

theorem snd {r : α × State} {a : α} (h : Canonical r.2) (e : r = (a, t)) : Canonical t := by subst e; exact h

theorem fst {r : State × α} {a : α} (h : Canonical r.1) (e : r = (t, a)) : Canonical t := by subst e; exact h

theorem last {r : α × β × State} {a : α} {b : β} (h : Canonical r.2.2) (e : r = (a, b, t)) : Canonical t := by subst e; exact h

theorem fourth {r : α × β × γ × State} {a : α} {b : β} {c : γ} (h : Canonical r.2.2.2) (e : r = (a, b, c, t)) : Canonical t := by
  subst e; exact h

theorem some {o : Option State} (h : Canonical (o.getD s)) (e : o = Option.some t) : Canonical t := by subst e; exact h

theorem someLast {o : Option (α × β × State)} {a : α} {b : β} (h : Canonical (o.elim s (·.2.2))) (e : o = Option.some (a, b, t)) :
    Canonical t := by
  subst e; exact h

theorem ok {r : Except α State} (h : Canonical (r.toOption.getD s)) (e : r = .ok t) : Canonical t := by subst e; exact h

theorem adv {a : Act} (h : Canonical (actState a)) (e : a = .adv t) : Canonical t := by subst e; exact h

theorem jump {a : Act} (h : Canonical (actState a)) (e : a = .jump t) : Canonical t := by subst e; exact h

theorem wait {a : Act} (h : Canonical (actState a)) (e : a = .wait t) : Canonical t := by subst e; exact h

theorem trap {a : Act} {f d : Nat} {v : Option Word} (h : Canonical (actState a)) (e : a = .trap f d v t) : Canonical t := by
  subst e; exact h

theorem getD {o : Option State} (h : Canonical (o.getD s)) (h' : Canonical t) : Canonical (o.getD t) := by
  cases o <;> assumption

theorem landed {a : Out} (h : Canonical (outState s a)) (h' : Canonical t) : Canonical (outState t a) := by
  cases a <;> assumption

theorem next {a : Out} (h : Canonical (outState s a)) (e : a = .next t) : Canonical t := by subst e; exact h

/-! The writes -/

/-- A write of the modelled memory, with an update of other fields. -/
theorem writeMem {agenda cur fresh nextId issues now wlog l2 poison slicePoison hbmReads cores walks slices launches ops
    reqs pkts windows seqs buckets waiters records kind2s dirs parts runs lqs lqPlaced ecc link clock ats atsAsk atsBad turn
    asking walkLast windowAt fatal power placeAt msis blocked stages net wants puts remotes peers encaps cnps banks
    activeBank running hostData}
    (h : Canonical s) {a : Nat} {bs : List Byte} :
    Canonical ⟨agenda, cur, fresh, nextId, issues, now, memWrite s.mem a bs, s.host, wlog, l2, poison, slicePoison,
      hbmReads, cores, walks, slices, s.wgs, launches, ops, reqs, pkts, windows, seqs, buckets, waiters, records,
      kind2s, dirs, parts, runs, lqs, lqPlaced, ecc, link, clock, ats, atsAsk, atsBad, turn, asking, walkLast, windowAt,
      fatal, power, placeAt, msis, blocked, stages, net, wants, puts, remotes, peers, encaps, cnps, banks, activeBank,
      running, hostData⟩ :=
  of_wf (memWrite_wf a bs h.mem_wf) h.host_wf h.scratch_wf

/-- A write of host memory, with an update of other fields. -/
theorem writeHost {agenda cur fresh nextId issues now wlog l2 poison slicePoison hbmReads cores walks slices launches ops
    reqs pkts windows seqs buckets waiters records kind2s dirs parts runs lqs lqPlaced ecc link clock ats atsAsk atsBad turn
    asking walkLast windowAt fatal power placeAt msis blocked stages net wants puts remotes peers encaps cnps banks
    activeBank running hostData}
    (h : Canonical s) {a : Nat} {bs : List Byte} :
    Canonical ⟨agenda, cur, fresh, nextId, issues, now, s.mem, memWrite s.host a bs, wlog, l2, poison, slicePoison,
      hbmReads, cores, walks, slices, s.wgs, launches, ops, reqs, pkts, windows, seqs, buckets, waiters, records,
      kind2s, dirs, parts, runs, lqs, lqPlaced, ecc, link, clock, ats, atsAsk, atsBad, turn, asking, walkLast, windowAt,
      fatal, power, placeAt, msis, blocked, stages, net, wants, puts, remotes, peers, encaps, cnps, banks, activeBank,
      running, hostData⟩ :=
  of_wf h.mem_wf (memWrite_wf a bs h.host_wf) h.scratch_wf

/-- A change of one workgroup that keeps its scratchpad canonical. -/
theorem modWg_wf (h : Canonical s) {w : Nat} {f : Workgroup → Workgroup}
    (k : ∀ g, Memory.wf g.scratch = true → Memory.wf (f g).scratch = true) : Canonical (s.modWg w f) := by
  refine of_wf h.mem_wf h.host_wf fun e he => ?_
  obtain hd | ⟨g, hg, rfl⟩ := mem_tmod he
  · exact h.scratch_wf e hd
  · exact k g (h.scratch_wf _ hg)

/-- A change of one workgroup that leaves its scratchpad. -/
theorem modWg (h : Canonical s) {w : Nat} {f : Workgroup → Workgroup} (k : ∀ g, (f g).scratch = g.scratch := by intro g; rfl) :
    Canonical (s.modWg w f) :=
  h.modWg_wf fun g hg => (congrArg Memory.wf (k g)).trans hg

/-- A new workgroup whose scratchpad lists no byte. -/
theorem setWg {agenda cur fresh nextId issues now wlog l2 poison slicePoison hbmReads cores walks slices launches ops reqs
    pkts windows seqs buckets waiters records kind2s dirs parts runs lqs lqPlaced ecc link clock ats atsAsk atsBad turn
    asking walkLast windowAt fatal power placeAt msis blocked stages net wants puts remotes peers encaps cnps banks
    activeBank running hostData}
    (h : Canonical s) {w : Nat} {x : Workgroup} (k : x.scratch = []) :
    Canonical ⟨agenda, cur, fresh, nextId, issues, now, s.mem, s.host, wlog, l2, poison, slicePoison, hbmReads, cores,
      walks, slices, tset s.wgs w x, launches, ops, reqs, pkts, windows, seqs, buckets, waiters, records, kind2s, dirs,
      parts, runs, lqs, lqPlaced, ecc, link, clock, ats, atsAsk, atsBad, turn, asking, walkLast, windowAt, fatal, power,
      placeAt, msis, blocked, stages, net, wants, puts, remotes, peers, encaps, cnps, banks, activeBank, running,
      hostData⟩ := by
  refine of_wf h.mem_wf h.host_wf fun e he => ?_
  obtain hd | rfl := mem_tset he
  · exact h.scratch_wf e hd
  · exact congrArg Memory.wf k

/-- The end of a workgroup. -/
theorem delWg {agenda cur fresh nextId issues now wlog l2 poison slicePoison hbmReads cores walks slices launches ops reqs
    pkts windows seqs buckets waiters records kind2s dirs parts runs lqs lqPlaced ecc link clock ats atsAsk atsBad turn
    asking walkLast windowAt fatal power placeAt msis blocked stages net wants puts remotes peers encaps cnps banks
    activeBank running hostData}
    (h : Canonical s) {w : Nat} :
    Canonical ⟨agenda, cur, fresh, nextId, issues, now, s.mem, s.host, wlog, l2, poison, slicePoison, hbmReads, cores,
      walks, slices, tdel s.wgs w, launches, ops, reqs, pkts, windows, seqs, buckets, waiters, records, kind2s, dirs,
      parts, runs, lqs, lqPlaced, ecc, link, clock, ats, atsAsk, atsBad, turn, asking, walkLast, windowAt, fatal, power,
      placeAt, msis, blocked, stages, net, wants, puts, remotes, peers, encaps, cnps, banks, activeBank, running,
      hostData⟩ :=
  of_wf h.mem_wf h.host_wf fun e he => h.scratch_wf e (mem_tdel he)

end Canonical
end
end Sys2Proof.Proofs
end


section
/-!
PROOFS. Memories stay canonical: a lemma for each function of the model that a step goes through, in the model's own order, and the
statement about the step.
-/
namespace Sys2Proof.Proofs
open Sys2Proof.Machine Sys2Proof.Safety Sys2Proof.Laws

-- One proof after another: elaborated side by side, so many short ones ask for more threads than the check's memory limit allows.
set_option Elab.async false

/-! ## Home slices, networks and page walks (spec/02_address_spaces.md, spec/03_memory_paths.md) -/

theorem Canonical.modCore {s c f} (h : Canonical s) : Canonical (s.modCore c f) := h.keep

theorem Canonical.modSlice {s n f} (h : Canonical s) : Canonical (s.modSlice n f) := h.keep

theorem Canonical.modThread {s w t f} (h : Canonical s) : Canonical (s.modThread w t f) := h.modWg

theorem Canonical.modPart {s p f} (h : Canonical s) : Canonical (s.modPart p f) := h.keep

theorem Canonical.modLaunch {s l f} (h : Canonical s) : Canonical (s.modLaunch l f) := h.keep

theorem Canonical.modDir {s d f} (h : Canonical s) : Canonical (s.modDir d f) := h.keep

theorem Canonical.newId {s} (h : Canonical s) : Canonical s.newId.2 := h.keep

theorem Canonical.draw {s} (h : Canonical s) : Canonical s.draw.2 := h.keep

theorem Canonical.inject {s k} (h : Canonical s) : Canonical (s.inject k) := h.newId.keep

theorem Canonical.sendCopy {s id r retry cancel} (h : Canonical s) : Canonical (s.sendCopy id r retry cancel) :=
  h.inject

theorem Canonical.send {s r} (h : Canonical s) : Canonical (s.send r).2 := h.newId.keep.sendCopy

theorem Canonical.forwardOne {s p pa slot line who launch} (h : Canonical s) :
    Canonical (s.forwardOne p pa slot line who launch) :=
  h.newId.modPart.send

theorem Canonical.forwardLine {s p pa who launch} (h : Canonical s) : Canonical (s.forwardLine p pa who launch) :=
  h.foldl fun _ _ h1 => h1.ite (h1.foldl (fun _ _ h2 => h2.forwardOne))

theorem Canonical.forward {s p lines who launch} (h : Canonical s) : Canonical (s.forward p lines who launch) :=
  h.ite (h.foldl (fun _ _ h1 => h1.forwardLine))

theorem Canonical.write {s ph va bytes launch} (h : Canonical s) : Canonical (s.write ph va bytes launch) := by
  unfold State.write
  refine .ite (.writeHost ?_) (.writeMem ?_)
  · split
    · exact h.modLaunch.ite h
    · exact h
  · split
    · exact h.modLaunch.ite h
    · exact h

theorem Canonical.store {s p ph va bytes launch who} (h : Canonical s) : Canonical (s.store p ph va bytes launch who) :=
  h.keep.ite (h.write.ite h.write.forward)

theorem Canonical.dropStage {s o} (h : Canonical s) : Canonical (s.dropStage o) := h.keep

theorem Canonical.modStage {s o f} (h : Canonical s) : Canonical (s.modStage o f) := h.keep

theorem Canonical.fetchAs {s o src part ph va n} (h : Canonical s) : Canonical (s.fetchAs o src part ph va n).2 := by
  unfold State.fetchAs
  dsimp only
  split
  · exact h.keep
  · split <;> exact h

theorem Canonical.fetch {s part ph va n} (h : Canonical s) : Canonical (s.fetch part ph va n).2 := by
  unfold State.fetch
  split
  · exact h
  · exact h.fetchAs

theorem Canonical.sendWants {s o ws} (h : Canonical s) : Canonical (s.sendWants o ws) :=
  h.foldl fun _ _ h1 => h1.ite h1.send.modStage

theorem Canonical.sendPuts {s o src ps} (h : Canonical s) : Canonical (s.sendPuts o src ps).2 :=
  h.foldl fun _ _ h1 => h1.send

theorem Canonical.asked {s r} (h : Canonical s) : Canonical (s.asked r) := h.keep

theorem Canonical.attempt {s f} (h : Canonical s) (hf : ∀ s, Canonical s → Canonical (f s)) : Canonical (s.attempt f) :=
  h.asked.ite (hf _ h.keep)

theorem Canonical.viaEnd {s o st g} (h : Canonical s) (hg : ∀ x s, Canonical s → Canonical (g x s)) :
    Canonical (s.viaEnd o st g) :=
  h.ite (h.keep.ite (hg _ _ h.keep.dropStage))

theorem Canonical.viaNet {s o src f g} (h : Canonical s) (hf : ∀ s, Canonical s → Canonical (f s).2)
    (hg : ∀ x s, Canonical s → Canonical (g x s)) :
    Canonical (s.viaNet o src f g) :=
  (h.viaEnd (fun _ _ h1 => hg _ _ h1)).ite (h.ite (h.keep.sendWants.ite
      ((hf _ h.keep).keep.sendPuts.modStage.viaEnd (fun _ _ h1 => hg _ _ h1))))

theorem Canonical.readNet {α : Type} {s o src} {f : State → Except (Nat × Nat) α × State}
    (hf : ∀ s, Canonical s → Canonical (f s).2) (h : Canonical s) :
    Canonical (s.readNet o src f).2 :=
  h.keep.sendWants.iteSnd (hf _ h.keep).keep.dropStage

theorem Canonical.writeBack {s l} (h : Canonical s) : Canonical (s.writeBack l) := by
  unfold State.writeBack
  dsimp only
  split
  · exact h
  · split
    · exact h
    · exact h.writeMem

theorem Canonical.l2Insert {s l x} (h : Canonical s) : Canonical (s.l2Insert l x) := by
  unfold State.l2Insert
  dsimp only
  split
  · exact h.writeBack
  · split
    · exact h.keep
    · exact h.writeBack.keep

theorem Canonical.l2Put {s l} (h : Canonical s) : Canonical (s.l2Put l) := h.draw.l2Insert

theorem Canonical.l2Trim {s} (h : Canonical s) : Canonical s.l2Trim := (h.foldl (fun _ _ h1 => h1.writeBack)).keep

theorem Canonical.discard {s c p drop} (h : Canonical s) : Canonical (s.discard c p drop) := h.modCore.keep

theorem Canonical.l1Store {s c ph bytes} (h : Canonical s) : Canonical (s.l1Store c ph bytes) :=
  (h.keep.modCore.ite h.keep.modCore.modCore).keep

theorem Canonical.setAccMod {s part va a e m} (h : Canonical s) : Canonical (Machine.setAccMod s part va a e m).2 := by
  unfold Machine.setAccMod
  split
  · exact h
  · split
    · exact h.store
    · exact h.keep

theorem Canonical.readPte {s part va a} (h : Canonical s) : Canonical (Machine.readPte s part va a).2 := by
  unfold Machine.readPte
  split
  · split <;> exact h
  · split <;> (next e1 => exact h.fetchAs.snd e1)

theorem Canonical.walkKeep {s die part asid va level e} (h : Canonical s) :
    Canonical (s.walkKeep die part asid va level e) := by
  unfold State.walkKeep
  dsimp only
  split
  · exact h
  · exact (h.draw.iteSnd h).keep

theorem Canonical.walkFrom {s die part asid va x x1 x2} (h : Canonical s) :
    Canonical (Machine.walkFrom s die part asid va x x1 x2).2 := by
  induction x generalizing s x1 x2 with
  | zero =>
    unfold Machine.walkFrom
    exact h
  | succ _ ih =>
    unfold Machine.walkFrom
    dsimp only
    split
    · exact ih h
    · split
      · next e1 => exact h.readPte.snd e1
      · next e1 =>
          have h1 := h.readPte.snd e1
          split
          · exact h1
          · exact h1
          · exact ih h1.walkKeep

theorem Canonical.walk {s part asid root va acc ro user} (h : Canonical s) :
    Canonical (Machine.walk s part asid root va acc ro user).2 := by
  unfold Machine.walk
  split
  · next e => exact h.walkFrom.snd e
  · next e =>
      have h1 := h.walkFrom.snd e
      split
      · split <;> (next e2 => exact h1.setAccMod.snd e2)
      · exact h1

theorem Canonical.askFor {α : Type} {s a} {f : State → α × State} (hf : ∀ s, Canonical s → Canonical (f s).2) (h : Canonical s)
    :
    Canonical (s.askFor a f).2 :=
  (hf _ h.keep).keep

theorem Canonical.forget {s w ts} (h : Canonical s) : Canonical (s.forget w ts) := h.keep

theorem Canonical.xnow {s part asid root va acc ro user} (h : Canonical s) :
    Canonical (s.xnow part asid root va acc ro user).2 := by
  unfold State.xnow
  dsimp only
  split
  · next e =>
      have h1 := h.walk.snd e
      split
      · exact h1
      · split
        · exact h1
        · split
          · exact h1.keep
          · exact h1.iteSnd h1.keep
  · next e => exact h.walk.snd e
  · next e => exact h.walk.snd e

theorem Canonical.parkHost {s w ts} (h : Canonical s) : Canonical (s.parkHost w ts) :=
  h.foldl fun _ _ h1 => h1.modThread

theorem Canonical.wakeHost {s w ts} (h : Canonical s) : Canonical (s.wakeHost w ts) :=
  h.foldl fun _ _ h1 => h1.modThread

theorem Canonical.wakeAsk {s q} (h : Canonical s) : Canonical (s.wakeAsk q) := h.wakeHost

theorem Canonical.askEnds {s bad e} (h : Canonical s) : Canonical (s.askEnds bad e) := by
  unfold State.askEnds
  dsimp only
  split
  · exact (h.keep.ite h).wakeHost
  · exact h.keep.ite h

theorem Canonical.taking {s w ts f} (h : Canonical s) (hf : ∀ s, Canonical s → Canonical (f s)) :
    Canonical (s.taking w ts f) :=
  h.asked.parkHost.ite (hf _ h.keep).forget.keep

theorem Canonical.tellFail {s code q} (h : Canonical s) : Canonical (s.tellFail code q) :=
  h.wakeAsk.foldl fun _ _ h1 => h1.modThread

theorem Canonical.miss {s c m q} (h : Canonical s) : Canonical (s.miss c m q) := by
  unfold State.miss
  dsimp only
  split
  · exact (h.parkHost.ite h).ite (h.parkHost.ite h).modCore
  · exact (h.modCore.ite h).ite (h.ite h.modCore)

theorem Canonical.xlate {s c w ts part asid root va acc ro user} (h : Canonical s) :
    Canonical (s.xlate c w ts part asid root va acc ro user).2 := by
  unfold State.xlate
  split
  · exact h
  · split
    · exact h
    · split
      · exact h
      · exact h.miss

theorem Canonical.checkGlob {s w ts va acc ro} (h : Canonical s) : Canonical (Machine.checkGlob s w ts va acc ro).2 := by
  unfold Machine.checkGlob
  dsimp only
  split
  · exact h
  · split <;> (next e1 => exact h.xlate.snd e1)

theorem Canonical.check {s w ts va n align acc ap ro} (h : Canonical s) :
    Canonical (Machine.check s w ts va n align acc ap ro).2 := by
  unfold Machine.check
  dsimp only
  split
  · exact h
  · split
    · exact h
    · split
      · exact h
      · exact h.checkGlob.iteSnd h
      · exact h.iteSnd (h.iteSnd h)
      · exact h.iteSnd h
      · exact h.iteSnd (h.iteSnd (h.iteSnd h.checkGlob))

theorem Canonical.checkNow {s w va n acc ap} (h : Canonical s) : Canonical (Machine.checkNow s w va n acc ap).2 := by
  unfold Machine.checkNow
  dsimp only
  split
  · exact h
  · split
    · exact h
    · split
      · exact h
      · split <;> (next e2 => exact h.xnow.snd e2)
    · exact h.iteSnd (h.iteSnd h)
    · exact h.iteSnd h
    · exact h

theorem Canonical.readAt {s part n x} (h : Canonical s) : Canonical (s.readAt part n x).2 := by
  unfold State.readAt
  split
  · split
    · split <;> exact h
    · exact h
  · exact h.fetch
  · exact h
  · exact h

theorem Canonical.writeAt {s by_ t bytes x} (h : Canonical s) : Canonical (s.writeAt by_ t bytes x) := by
  unfold State.writeAt
  split
  · exact h.modWg_wf fun _ hg => memWrite_wf _ _ hg
  · split
    · exact h.store
    · exact h
  · exact h

theorem Canonical.readRange {s w va n ap} (h : Canonical s) : Canonical (Machine.readRange s w va n ap).2 := by
  unfold Machine.readRange
  refine .foldlSnd (fun _ _ h1 => ?_) h
  split
  · exact h1
  · split
    · next e => exact h1.checkNow.snd e
    · next e => exact h1.checkNow.snd e
    · next e =>
        have h2 := h1.checkNow.snd e
        split <;> (next e1 => exact h2.readAt.snd e1)

theorem Canonical.sysPart {s part asid root va acc} (h : Canonical s) :
    Canonical (Machine.sysPart s part asid root va acc).2 := by
  unfold Machine.sysPart
  split
  · split <;> (next e1 => exact h.xnow.snd e1)
  · exact h
  · exact h

theorem Canonical.readSysAt {s part asid root va n} (h : Canonical s) :
    Canonical (Machine.readSysAt s part asid root va n).2 := by
  unfold Machine.readSysAt
  refine .foldlSnd (fun _ _ h1 => ?_) h
  split
  · exact h1
  · split
    · next e => exact h1.sysPart.snd e
    · next e =>
        have h2 := h1.sysPart.snd e
        split <;> (next e1 => exact h2.fetch.snd e1)

theorem Canonical.placeSys {s part asid root va n} (h : Canonical s) :
    Canonical (Machine.placeSys s part asid root va n).2 := by
  unfold Machine.placeSys
  refine .foldlSnd (fun _ _ h1 => ?_) h
  split
  · exact h1
  · split <;> (next e => exact h1.sysPart.snd e)

theorem Canonical.writeSysAt {s part asid root va bytes} (h : Canonical s) :
    Canonical (Machine.writeSysAt s part asid root va bytes).2 := by
  unfold Machine.writeSysAt
  split
  · next e => exact h.placeSys.snd e
  · next e => exact (h.placeSys.snd e).foldlFst fun _ _ h2 => h2.store

theorem Canonical.codeOnly {α : Type} {r : Except (Nat × Nat) α × State} (h : Canonical r.2) :
    Canonical (Machine.codeOnly r).2 :=
  h

theorem Canonical.readSys {s part asid root va n} (h : Canonical s) :
    Canonical (Machine.readSys s part asid root va n).2 :=
  h.readSysAt.codeOnly

theorem Canonical.writeSys {s part asid root va bytes} (h : Canonical s) :
    Canonical (Machine.writeSys s part asid root va bytes).2 :=
  h.writeSysAt.codeOnly

/-! ## Register frames and their results (spec/07_execution.md R167 to R169) -/

theorem Canonical.unlatch {s w t r} (h : Canonical s) : Canonical (s.unlatch w t r) := by
  unfold State.unlatch
  split
  · exact h.ite h.modCore
  · exact h

theorem Canonical.put {s w t o x} (h : Canonical s) : Canonical (s.put w t o x) := by
  unfold State.put
  dsimp only
  split
  · refine .modThread ?_
    split
    · exact h.unlatch
    · exact h
  · exact h.modWg
  · exact h

theorem Canonical.putPred {s w ts n b} (h : Canonical s) : Canonical (s.putPred w ts n b) :=
  h.ite (h.foldl (fun _ _ h1 => h1.modThread))

theorem Canonical.putDst {s w t d x} (h : Canonical s) : Canonical (s.putDst w t d x) := by
  unfold State.putDst
  split
  · exact h.unlatch.modThread
  · exact h.modWg
  · exact h.putPred

/-! ## Region control blocks and the resolution of a launch (spec/08_scheduling.md R180 to R184) -/

theorem Canonical.readNode {s p addr} (h : Canonical s) : Canonical (Machine.readNode s p addr).2 := by
  unfold Machine.readNode
  dsimp only
  split
  · exact h
  · split <;> (next e => exact h.readSys.snd e)

theorem Canonical.chain {s p x x1} (h : Canonical s) : Canonical (Machine.chain s p x x1).2 := by
  induction x generalizing s x1 with
  | zero =>
    unfold Machine.chain
    exact h
  | succ _ ih =>
    unfold Machine.chain
    split
    · next e => exact h.readNode.snd e
    · next e =>
        have h1 := h.readNode.snd e
        split
        · exact h1
        · split
          · exact h1.iteSnd h1
          · split <;> (next e1 => exact (ih h1).snd e1)

theorem Canonical.readEff {s p e va n} (h : Canonical s) : Canonical (Machine.readEff s p e va n).2 := h.readSys

theorem Canonical.gridOf {s a n e} (h : Canonical s) : Canonical (Machine.gridOf s a n e).2 := by
  unfold Machine.gridOf
  split
  · exact h
  · split
    · split <;> (next e3 => exact h.readEff.snd e3)
    · exact h

theorem Canonical.putNode {s p addr off bytes} (h : Canonical s) : Canonical (Machine.putNode s p addr off bytes) := by
  unfold Machine.putNode
  dsimp only
  split
  · next e => exact (h.writeSys.snd e).keep
  · next e => exact h.writeSys.snd e

theorem Canonical.buildLaunch {s a} (h : Canonical s) : Canonical (Machine.buildLaunch s a).2 := by
  unfold Machine.buildLaunch
  dsimp only
  split
  · next e => exact h.chain.snd e
  · next e => exact h.chain.snd e
  · next e =>
      have h1 := h.chain.snd e
      split
      · exact h1
      · refine .iteSnd h1 ?_
        split
        · next e1 => exact h1.gridOf.snd e1
        · next e1 =>
            have h2 := h1.gridOf.snd e1
            split
            · exact h2
            · split
              · next e2 => exact h2.readEff.snd e2
              · next e2 =>
                  have h3 := h2.readEff.snd e2
                  split
                  · next e3 => exact (h3.iteSnd h3.readEff).snd e3
                  · next e3 =>
                      have h4 := (h3.iteSnd h3.readEff).snd e3
                      split <;> exact h4

theorem Canonical.resolve {s a} (h : Canonical s) : Canonical (Machine.resolve s a).2 := by
  unfold Machine.resolve
  dsimp only
  split
  · next e => exact h.buildLaunch.snd e
  · next e =>
      have h1 := h.buildLaunch.snd e
      exact h1.newId.modPart.keep.ite h1.newId.modPart.keep.putNode.putNode

/-! ## Register pools, needs and refills (spec/07_execution.md R166 to R178) -/

theorem Canonical.lineLoad {s g w t ph va n} (h : Canonical s) : Canonical (s.lineLoad g w t ph va n).2 := by
  unfold State.lineLoad
  dsimp only
  split
  · exact h.modCore
  · split
    · next e1 => exact h.fetchAs.snd e1
    · exact h.sendWants
    · exact h

theorem Canonical.spillRead {s w off t n} (h : Canonical s) : Canonical (s.spillRead w off t n).2 := by
  unfold State.spillRead
  dsimp only
  split
  · generalize hr : s.askFor _ _ = r
    have h1 : Canonical r.2 := by
      rw [← hr]
      refine .askFor (fun _ h1 => .foldlSnd (fun _ _ h2 => ?_) h1) h
      split
      · exact h2
      · split
        · next e _ => exact h2.sysPart.snd e
        · next e _ _ => exact h2.sysPart.snd e
        · next e _ =>
            split
            · next e1 _ => exact (h2.sysPart.snd e).lineLoad.snd e1
            · next e1 _ => exact (h2.sysPart.snd e).lineLoad.snd e1
            · next e1 _ _ _ => exact (h2.sysPart.snd e).lineLoad.snd e1
    split
    · exact h1
    · exact h1.dropStage
  · exact h

theorem Canonical.spillWrite {s w off t bytes} (h : Canonical s) : Canonical (s.spillWrite w off t bytes).2 := by
  unfold State.spillWrite
  dsimp only
  split
  · split
    · next e1 => exact (h.askFor (fun _ h1 => h1.placeSys)).snd e1
    · next e1 =>
        exact ((h.askFor (fun _ h1 => h1.placeSys)).snd e1).foldl fun _ _ h2 => h2.foldl (fun _ _ h3 => h3.l1Store.send)
  · exact h

theorem Canonical.dropLatches {s w t} (h : Canonical s) : Canonical (s.dropLatches w t) := by
  unfold State.dropLatches
  split
  · exact h.modCore
  · exact h

theorem Canonical.swarmFault {s w t code spc addr} (h : Canonical s) : Canonical (s.swarmFault w t code spc addr) :=
  h.modThread

theorem Canonical.windowOf {s w t top below win args} (h : Canonical s) :
    Canonical (s.windowOf w t top below win args).2 := by
  unfold State.windowOf
  dsimp only
  split
  · exact h
  · split
    · exact h
    · split <;> (next e => exact h.spillRead.snd e)

theorem Canonical.makeFrame {s w t c grans} (h : Canonical s) : Canonical (s.makeFrame w t c grans).2 := by
  unfold State.makeFrame
  dsimp only
  split
  · exact h
  · split
    · exact h
    · split
      · exact h.asked
      · next e2 => exact (h.windowOf.snd e2).swarmFault
      · next e2 => exact (h.windowOf.snd e2).newId.modThread.dropLatches

theorem Canonical.refillFail {w t s th code addr} (h : Canonical s) : Canonical (State.refill.fail w t s th code addr) :=
  h.modThread

theorem Canonical.refill {s w t} (h : Canonical s) : Canonical (s.refill w t).2 := by
  unfold State.refill
  dsimp only
  split
  · exact h
  · split
    · exact h
    · split
      · exact h
      · split
        · exact h.asked
        · next e3 => exact ((h.iteSnd h.spillRead).snd e3).refillFail
        · next e3 =>
            have h1 := (h.iteSnd h.spillRead).snd e3
            exact h1.refillFail.iteSnd h1.modThread.dropLatches

theorem Canonical.keepLate {s w t f at_ ws} (h : Canonical s) : Canonical (s.keepLate w t f at_ ws) := h.modThread

theorem Canonical.spillPut {s w t f below at_ ws} (h : Canonical s) : Canonical (s.spillPut w t f below at_ ws) := by
  unfold State.spillPut
  split
  · next e => exact h.spillWrite.snd e
  · exact h.asked.keepLate
  · next e => exact (h.spillWrite.snd e).modThread

theorem Canonical.putRecord {s w t d x} (h : Canonical s) : Canonical (s.putRecord w t d x) := by
  unfold State.putRecord
  split
  · split
    · exact h.spillPut.ite h
    · exact h
  · exact h

theorem Canonical.dropNeed {s c w t} (h : Canonical s) : Canonical (s.dropNeed c w t) := h.modCore

theorem Canonical.grantWait {s w t th} (h : Canonical s) : Canonical (s.grantWait w t th).2 := by
  unfold State.grantWait
  split
  · split
    · exact h.makeFrame
    · exact h
  · exact h.refill
  · exact h

theorem Canonical.grantOne {s w t} (h : Canonical s) : Canonical (s.grantOne w t).2 := by
  unfold State.grantOne
  dsimp only
  split
  · exact h
  · split
    · exact h.grantWait
    · split
      · next e1 => exact h.refill.snd e1
      · next e1 => exact (h.refill.snd e1).modThread.grantWait

theorem Canonical.grantLane {s c lane x} (h : Canonical s) : Canonical (s.grantLane c lane x) := by
  induction x generalizing s with
  | zero =>
    unfold State.grantLane
    exact h
  | succ _ ih =>
    unfold State.grantLane
    split
    · exact h
    · split
      · next e1 => exact ih (h.grantOne.snd e1).dropNeed
      · next e1 => exact h.grantOne.snd e1

theorem Canonical.grantCore {s c} (h : Canonical s) : Canonical (s.grantCore c) := h.foldl fun _ _ h1 => h1.grantLane

theorem Canonical.grantFor {s w t} (h : Canonical s) : Canonical (s.grantFor w t) := by
  unfold State.grantFor
  split
  · exact h.grantLane
  · exact h

theorem Canonical.need {s w t f} (h : Canonical s) : Canonical (s.need w t f) := by
  unfold State.need
  dsimp only
  split
  · exact h
  · exact h.modThread.modCore.grantFor

theorem Canonical.callFrame {s w t c} (h : Canonical s) : Canonical (s.callFrame w t c) := h.need

theorem Canonical.retFrame {s w t top caller} (h : Canonical s) : Canonical (s.retFrame w t top caller) :=
  h.modThread.dropLatches.need.ite h.modThread.dropLatches.modThread.grantFor

theorem Canonical.unwind {s w t x} (h : Canonical s) : Canonical ((s.unwind w t x).getD s) := by
  unfold State.unwind
  dsimp only
  split
  · exact h
  · split
    · exact h
    · split
      · exact h
      · split
        · exact h.modThread.dropLatches.modThread.need.grantFor
        · split
          · exact h.modThread.dropLatches.spillPut.spillPut.need.grantFor
          · exact h.modThread.dropLatches.modThread.grantFor

theorem Canonical.freeFrames {s w t} (h : Canonical s) : Canonical (s.freeFrames w t) := by
  unfold State.freeFrames
  refine .grantFor (.dropLatches (.modThread ?_))
  split
  · exact h.dropNeed
  · exact h

/-! ## Entries for the fault queue and the taking of an exception (spec/15_faults.md R390 to R396) -/

theorem Canonical.post {s p e} (h : Canonical s) : Canonical (s.post p e) := h.modPart

theorem Canonical.event {s p cause info ltag wgidx} (h : Canonical s) : Canonical (s.event p cause info ltag wgidx) :=
  h.post

theorem Canonical.accessFault {s p code} (h : Canonical s) : Canonical (s.accessFault p code) := h.draw.event

theorem Canonical.freeRecord {s p e x x1} (h : Canonical s) : Canonical (Machine.freeRecord s p e x x1).2 := by
  induction x generalizing s x1 with
  | zero =>
    unfold Machine.freeRecord
    exact h
  | succ _ ih =>
    unfold Machine.freeRecord
    split
    · exact ih h
    · split
      · next e1 =>
          have h1 := h.readSys.snd e1
          exact h1.iteSnd (ih h1)
      · next e1 => exact h.readSys.snd e1

theorem Canonical.newRecord {s c} (h : Canonical s) : Canonical (Machine.newRecord s c).2 := by
  unfold Machine.newRecord
  dsimp only
  split
  · exact h
  · split
    · next e1 => exact h.freeRecord.snd e1
    · next e1 =>
        have h1 := h.freeRecord.snd e1
        split
        · next e2 =>
            have h2 := h1.xnow.snd e2
            split
            · next e3 => exact (h2.writeSys.snd e3).newId.keep
            · next e3 => exact h2.writeSys.snd e3
        · next e2 => exact h1.xnow.snd e2

theorem Canonical.parkOn {s w ts p} (h : Canonical s) : Canonical (s.parkOn w ts p) :=
  h.foldl fun _ _ h1 => h1.modThread

theorem Canonical.clearRecord {s id} (h : Canonical s) : Canonical (s.clearRecord id) := by
  unfold State.clearRecord
  dsimp only
  split
  · exact h
  · exact h.store.store.keep

theorem Canonical.escalate {s c line rc} (h : Canonical s) : Canonical (s.escalate c line rc) := by
  unfold State.escalate
  dsimp only
  split
  · exact h
  · split
    · split
      · exact h.newId.keep.post
      · exact h.newId.keep.post.parkOn
    · split
      · exact h.newId.keep.post.keep
      · split
        · exact h.newId.keep.post.clearRecord
        · exact h.newId.keep.post.parkOn.clearRecord

theorem Canonical.recordFault {s c} (h : Canonical s) : Canonical (s.recordFault c) := by
  unfold State.recordFault
  dsimp only
  split
  · split
    · next e2 => exact (h.newRecord.snd e2).escalate
    · next e2 =>
        have h1 := h.newRecord.snd e2
        split
        · split
          · next e4 =>
              refine .snd ?_ e4
              split
              · dsimp only
                split
                · exact h1
                · exact h1.parkOn
              · refine .resolve ?_
                split
                · exact h1
                · exact h1.parkOn
          · next e4 =>
              refine .escalate (.event (.snd ?_ e4))
              split
              · dsimp only
                split
                · exact h1
                · exact h1.parkOn
              · refine .resolve ?_
                split
                · exact h1
                · exact h1.parkOn
        · refine .post ?_
          split
          · exact h1
          · exact h1.parkOn
  · exact h

theorem Canonical.takeNow {s w code spc deferred ts} (h : Canonical s) : Canonical (s.takeNow w code spc deferred ts) := by
  unfold State.takeNow
  dsimp only
  split
  · refine .foldl (fun _ _ h1 => ?_) (h.foldl (fun _ _ h1 => h1.modThread))
    split
    · next e1 => exact h1.unwind.some e1
    · exact h1.escalate
  · exact (h.foldl (fun _ _ h1 => h1.modThread)).recordFault

theorem Canonical.dropClaim {s w t} (h : Canonical s) : Canonical (s.dropClaim w t) := by
  unfold State.dropClaim
  dsimp only
  split
  · exact h
  · exact h.modCore.ite h

theorem Canonical.takeFault {s w code spc deferred ts} (h : Canonical s) :
    Canonical (s.takeFault w code spc deferred ts) :=
  (h.foldl (fun _ _ h1 => h1.dropClaim)).ite ((h.foldl (fun _ _ h1 => h1.dropClaim)).taking (fun _ h1 => h1.takeNow))

theorem Canonical.resumeAt {s w rpc ts} (h : Canonical s) : Canonical (s.resumeAt w rpc ts) :=
  h.foldl fun _ _ h1 => h1.modThread

theorem Canonical.deliver {s w spc x x1} (h : Canonical s) : Canonical (s.deliver w spc x x1) := by
  induction x generalizing s x1 with
  | zero => exact h
  | succ _ ih =>
    cases x1 with
    | nil => exact h
    | cons => exact ih h.takeFault

theorem Canonical.unpark {s w t} (h : Canonical s) : Canonical (s.unpark w t) := by
  unfold State.unpark
  dsimp only
  split
  · split
    · exact (h.modDir.foldl (fun _ _ h1 => h1.modWg.keep)).modThread
    · exact h.keep.modThread
    · exact h.modThread.modThread.grantFor
    · exact h.dropNeed.modThread
    · exact h.modThread
  · exact h

theorem Canonical.deliverDeferred {s w t} (h : Canonical s) : Canonical (s.deliverDeferred w t) := by
  unfold State.deliverDeferred
  dsimp only
  split
  · exact h
  · split
    · exact h
    · exact h.ite (h.taking (fun _ h1 => h1.modThread.takeNow))

theorem Canonical.meetFault {s w t} (h : Canonical s) : Canonical (s.meetFault w t) := by
  unfold State.meetFault
  split
  · exact h
  · split
    · exact h
    · split
      · exact h
      · exact h
      · exact h
      · exact h
      · exact h
      · exact h
      · exact h.unpark.deliverDeferred

theorem Canonical.deferTo {s w t d} (h : Canonical s) : Canonical (s.deferTo w t d) := by
  unfold State.deferTo
  dsimp only
  split
  · exact h.modWg.event.ite (h.modThread.ite h.modThread.meetFault)
  · exact h

theorem Canonical.newOp {s o} (h : Canonical s) : Canonical (s.newOp o).2 := h.newId.keep

theorem Canonical.release {s w t} (h : Canonical s) : Canonical (s.release w t) := h.modThread

theorem Canonical.finish {s id vals} (h : Canonical s) : Canonical (s.finish id vals) := by
  unfold State.finish
  dsimp only
  split
  · exact h
  · split <;> exact ((h.foldl (fun _ _ h1 => h1.putDst.putRecord)).foldl (fun _ _ h1 => h1.release)).keep

theorem Canonical.failOp {s id code addr} (h : Canonical s) : Canonical (s.failOp id code addr) := by
  unfold State.failOp
  dsimp only
  split
  · exact h
  · refine .deferTo ?_
    split <;> exact h.keep

theorem Canonical.trapOp {s id code addr} (h : Canonical s) : Canonical (s.trapOp id code addr) := by
  unfold State.trapOp
  dsimp only
  split
  · exact h
  · exact (h.keep.foldl (fun _ _ h1 => h1.modThread)).takeFault

theorem Canonical.issued {s w t c} (h : Canonical s) : Canonical (s.issued w t c) := h.modThread

theorem Canonical.issuedFrom {s w t c old} (h : Canonical s) : Canonical (s.issuedFrom w t c old) := h.modThread

theorem Canonical.lateFault {s w t pc code addr c} (h : Canonical s) : Canonical (s.lateFault w t pc code addr c) :=
  h.newId.modThread.issued.deferTo

theorem Canonical.actAfter {o x} (h : Canonical (actState x)) : Canonical (actState (Act.after o x)) := by
  unfold Act.after
  split
  · exact h.dropStage
  · exact h.dropStage
  · exact h.dropStage
  · exact h

theorem Canonical.runThread {i c f x acc} (hf : ∀ s x, Canonical s → Canonical (actState (f s x))) (h : Canonical acc.1) :
    Canonical (Machine.runThread i c f x acc).1 := by
  unfold Machine.runThread
  dsimp only
  split
  · exact h
  · split
    · exact h.deliverDeferred
    · split
      · exact h.need
      · split
        · exact h
        · split
          · exact h.modThread.issued
          · split
            · exact h
            · exact h
            · split
              · next e2 => exact ((hf _ _ h).adv e2).modThread.issued
              · next e2 => exact ((hf _ _ h).jump e2).issuedFrom
              · next e2 => exact (hf _ _ h).wait e2
              · next e2 =>
                  have h1 := (hf _ _ h).trap e2
                  exact h1.lateFault.iteFst h1

theorem Canonical.runUniform {i c f u s} (hf : ∀ s x, Canonical s → Canonical (actState (f s x))) (h : Canonical s) :
    Canonical (Machine.runUniform i c f u s).1 := by
  unfold Machine.runUniform
  extract_lets adv go off s0 s1 bad ok
  have hadv : ∀ s l, Canonical s → Canonical (adv s l) := fun _ _ h => h.foldl fun _ _ h1 => h1.modThread.issued
  have h1 : Canonical s1 := by
    refine .foldl (fun _ _ h1 => ?_) (hadv _ _ h)
    exact h1.runThread fun _ _ h2 => h2
  clear_value s1 ok
  split
  · exact h1
  · split
    · exact h1
    · split
      · next e => exact hadv _ _ ((hf _ _ h1).adv e)
      · next e => exact (hf _ _ h1).jump e
      · next e => exact (hf _ _ h1).wait e
      · next e =>
          have h2 := (hf _ _ h1).trap e
          exact .iteFst (hadv _ _ h2.lateFault) h2

theorem Canonical.latch {s u i c} (h : Canonical s) : Canonical (s.latch u i c) := h.ite h.modCore

theorem Canonical.forThreads {i c f s} (hf : ∀ s x, Canonical s → Canonical (actState (f s x))) (h : Canonical s) :
    Canonical (Machine.forThreads i c f s) := by
  unfold Machine.forThreads
  dsimp only
  split
  · exact h
  · exact ((h.keep.latch.runUniform (fun _ _ h1 => hf _ _ h1)).iteFst
      (h.keep.latch.foldlFst (fun _ _ h1 => h1.runThread (fun _ _ h2 => hf _ _ h2)))).deliver

theorem Canonical.isa {d i c f s} (hf : ∀ s x, Canonical s → Canonical (actState (f s x))) (h : Canonical s) :
    Canonical (outState d (Machine.isa i c f s)) :=
  h.forThreads fun _ _ h1 => hf _ _ h1

/-! ## The picker, the fetch and the turns of an issue (spec/07_execution.md R153 to R162) -/

theorem Canonical.freeGroups {s c} (h : Canonical s) : Canonical (s.freeGroups c) := h.modCore

theorem Canonical.lookup {s c w t} (h : Canonical s) : Canonical (s.lookup c w t) := by
  unfold State.lookup
  dsimp only
  split
  · exact h
  · split
    · exact h
    · split
      · exact h.modThread
      · split
        · exact h.modCore.modThread
        · exact h.modThread

theorem Canonical.regroup {s c issued} (h : Canonical s) : Canonical (s.regroup c issued) :=
  (h.freeGroups.foldl (fun _ _ h1 => h1.lookup)).foldl fun _ _ h1 => h1.lookup

theorem Canonical.gatherUp {s c} (h : Canonical s) : Canonical (s.gatherUp c) := h.ite h.modCore

theorem Canonical.needTops {s c} (h : Canonical s) : Canonical (s.needTops c) := h.foldl fun _ _ h1 => h1.need.ite h1

theorem Canonical.unhold {s c} (h : Canonical s) : Canonical (s.unhold c) := by
  unfold State.unhold
  split
  · exact h
  · exact h.ite h.modCore

theorem Canonical.markWaits {s c} (h : Canonical s) : Canonical (s.markWaits c) :=
  h.mapWgs (by intro e; split <;> rfl)

theorem Canonical.meetFaults {s c} (h : Canonical s) : Canonical (s.meetFaults c) :=
  h.foldl fun _ _ h1 => h1.meetFault

theorem Canonical.tidyCore {s c issued} (h : Canonical s) : Canonical (s.tidyCore c issued) :=
  h.needTops.grantCore.meetFaults.regroup.gatherUp.unhold.markWaits

theorem Canonical.tidy {s core issued} (h : Canonical s) : Canonical (s.tidy core issued) :=
  h.foldl fun _ _ h1 => h1.tidyCore

theorem Canonical.afterIssue {s u} (h : Canonical s) : Canonical (s.afterIssue u) :=
  (h.foldl (fun _ _ h1 => h1.modThread)).tidy

theorem Canonical.yielded {s u i} (h : Canonical s) : Canonical (s.yielded u i) := h.modCore.ite h

theorem Canonical.stalled {s u i} (h : Canonical s) : Canonical (s.stalled u i) :=
  h.ite (h.foldl (fun _ _ h1 => h1.modThread))

theorem Canonical.afterExec {s u i x} (h : Canonical (outState s x)) : Canonical (outState s (Machine.afterExec u i x)) := by
  unfold Machine.afterExec
  split
  · exact h.yielded.stalled.afterIssue
  · exact h

theorem Canonical.afterEvent {s x} (h : Canonical (outState s x)) : Canonical (outState s (Machine.afterEvent x)) := by
  unfold Machine.afterEvent
  split
  · exact h.tidy
  · exact h

theorem Canonical.ranked {s c} (h : Canonical s) : Canonical (s.ranked c) := by
  unfold State.ranked
  dsimp only
  split
  · exact h
  · exact h.modCore

theorem Canonical.picked {s c pipe x} (h : Canonical s) : Canonical (s.picked c pipe x) := h.modCore

theorem Canonical.fetchAddrs {s c w ts part asid root user va n} (h : Canonical s) :
    Canonical (Machine.fetchAddrs s c w ts part asid root user va n).2 := by
  unfold Machine.fetchAddrs
  refine .foldlSnd (fun _ _ h1 => ?_) h
  split
  · exact h1
  · split
    · split
      · next e1 =>
          have h2 := h1.xlate.snd e1
          split <;> exact h2
      · next e1 => exact h1.xlate.snd e1
      · next e1 => exact h1.xlate.snd e1
    · exact h1
    · exact h1

theorem Canonical.fetchWord {s w ts idx} (h : Canonical s) : Canonical (Machine.fetchWord s w ts idx).2 := by
  unfold Machine.fetchWord
  dsimp only
  split
  · split
    · next e2 => exact (h.fetchAddrs.snd e2).keep
    · next e2 => exact h.fetchAddrs.snd e2
  · exact h

theorem Canonical.fetchFault {s w pc ts code addr} (h : Canonical s) : Canonical (s.fetchFault w pc ts code addr) :=
  ((h.foldl (fun _ _ h1 => h1.deliverDeferred)).foldl (fun _ _ h1 => h1.takeFault)).ite
      (h.foldl (fun _ _ h1 => h1.deliverDeferred)).deliver

theorem Canonical.gather {s w pc i c m ts} (h : Canonical s) : Canonical (s.gather w pc i c m ts) := by
  unfold State.gather
  dsimp only
  split
  · exact ((h.foldl (fun _ _ h1 => h1.deliverDeferred)).foldl (fun _ _ h1 => h1.need)).deliver.foldl fun _ _ h1 => h1.modThread
  · exact ((((h.foldl (fun _ _ h1 => h1.deliverDeferred)).foldl (fun _ _ h1 => h1.need)).deliver.foldl
      (fun _ _ h1 => h1.modThread)).foldl (fun _ _ h1 => h1.modThread)).deliver

theorem Canonical.form {s c pipe} (h : Canonical s) : Canonical (s.form c pipe).1 := by
  unfold State.form
  dsimp only
  split
  · exact h.ranked
  · split
    · next e1 => exact (h.ranked.picked.keep.fetchWord.snd e1).foldl fun _ _ h2 => h2.deliverDeferred
    · next e1 => exact (h.ranked.picked.keep.fetchWord.snd e1).fetchFault
    · next e1 =>
        have h1 := h.ranked.picked.keep.fetchWord.snd e1
        split
        · exact ((h1.foldl (fun _ _ h2 => h2.deliverDeferred)).foldl (fun _ _ h2 => h2.modThread.issued)).deliver
        · split
          · exact (h1.foldl (fun _ _ h2 => h2.need)).iteFst (h1.foldl (fun _ _ h2 => h2.modThread)).keep
          · exact h1.gather
          · exact h1.keep

theorem Canonical.issueTurn {s c pipe exec} (h : Canonical s) (hexec : ∀ x s, Canonical s → Canonical (outState s (exec x s))) :
    Canonical (outState s (Machine.issueTurn s c pipe exec)) := by
  unfold Machine.issueTurn
  split
  · next e => exact (h.form.fst e).tidy
  · next s1 i e =>
      have h1 := hexec i s1 (h.form.fst e)
      split
      · exact (h1.landed h).afterExec
      · exact h1.landed h

theorem Canonical.ageCore {s c} (h : Canonical s) : Canonical (s.ageCore c) := by
  unfold State.ageCore
  dsimp only
  split
  · exact h.ranked.modCore.lookup.ite h.ranked.modCore
  · exact h.ranked.modCore

theorem Canonical.tick {s} (h : Canonical s) : Canonical s.tick :=
  ((h.foldl (fun _ _ h1 => h1.ageCore)).foldl (fun _ _ h1 => h1.modSlice.ite h1)).keep.tidy

/-! ## Integer, logic, move, packed and bit-field instructions (spec/11_isa_compute.md R260 to R279) -/

theorem Canonical.alu1 {i c o f s} (h : Canonical s) : Canonical (outState s (Machine.alu1 i c o f s)) :=
  h.isa fun _ _ h1 => h1.put

theorem Canonical.alu2 {i c o f s} (h : Canonical s) : Canonical (outState s (Machine.alu2 i c o f s)) :=
  h.isa fun _ _ h1 => h1.put

theorem Canonical.alu3 {i c o f s} (h : Canonical s) : Canonical (outState s (Machine.alu3 i c o f s)) :=
  h.isa fun _ _ h1 => h1.put

theorem Canonical.aluI {i c o imm f s} (h : Canonical s) : Canonical (outState s (Machine.aluI i c o imm f s)) :=
  h.isa fun _ _ h1 => h1.put

theorem Canonical.putBool {s x d pd b} (h : Canonical s) : Canonical (Machine.putBool s x d pd b) := h.putPred.put

theorem Canonical.execAdd {c o s} (h : Canonical s) : Canonical (outState s (Machine.execAdd c o s)) := h.alu2

theorem Canonical.execAddImm {c o s} (h : Canonical s) : Canonical (outState s (Machine.execAddImm c o s)) := h.aluI

theorem Canonical.execSub {c o s} (h : Canonical s) : Canonical (outState s (Machine.execSub c o s)) := h.alu2

theorem Canonical.execSubImm {c o s} (h : Canonical s) : Canonical (outState s (Machine.execSubImm c o s)) := h.aluI

theorem Canonical.execMul {c o s} (h : Canonical s) : Canonical (outState s (Machine.execMul c o s)) := h.alu2

theorem Canonical.execMulImm {c o s} (h : Canonical s) : Canonical (outState s (Machine.execMulImm c o s)) := h.aluI

theorem Canonical.execMulh {c o s} (h : Canonical s) : Canonical (outState s (Machine.execMulh c o s)) := h.alu2

theorem Canonical.execMad {c o s} (h : Canonical s) : Canonical (outState s (Machine.execMad c o s)) := h.alu3

theorem Canonical.execDiv {c o s} (h : Canonical s) : Canonical (outState s (Machine.execDiv c o s)) := h.alu2

theorem Canonical.execRem {c o s} (h : Canonical s) : Canonical (outState s (Machine.execRem c o s)) := h.alu2

theorem Canonical.execNeg {c o s} (h : Canonical s) : Canonical (outState s (Machine.execNeg c o s)) := h.alu1

theorem Canonical.execAbs {c o s} (h : Canonical s) : Canonical (outState s (Machine.execAbs c o s)) := h.alu1

theorem Canonical.execMin {c o s} (h : Canonical s) : Canonical (outState s (Machine.execMin c o s)) := h.alu2

theorem Canonical.execMinImm {c o s} (h : Canonical s) : Canonical (outState s (Machine.execMinImm c o s)) := h.aluI

theorem Canonical.execMax {c o s} (h : Canonical s) : Canonical (outState s (Machine.execMax c o s)) := h.alu2

theorem Canonical.execMaxImm {c o s} (h : Canonical s) : Canonical (outState s (Machine.execMaxImm c o s)) := h.aluI

theorem Canonical.execSad {c o s} (h : Canonical s) : Canonical (outState s (Machine.execSad c o s)) := h.alu3

theorem Canonical.execAnd {c o s} (h : Canonical s) : Canonical (outState s (Machine.execAnd c o s)) := h.alu2

theorem Canonical.execAndImm {c o s} (h : Canonical s) : Canonical (outState s (Machine.execAndImm c o s)) := h.aluI

theorem Canonical.execOr {c o s} (h : Canonical s) : Canonical (outState s (Machine.execOr c o s)) := h.alu2

theorem Canonical.execOrImm {c o s} (h : Canonical s) : Canonical (outState s (Machine.execOrImm c o s)) := h.aluI

theorem Canonical.execXor {c o s} (h : Canonical s) : Canonical (outState s (Machine.execXor c o s)) := h.alu2

theorem Canonical.execXorImm {c o s} (h : Canonical s) : Canonical (outState s (Machine.execXorImm c o s)) := h.aluI

theorem Canonical.execNot {c o s} (h : Canonical s) : Canonical (outState s (Machine.execNot c o s)) := h.alu1

theorem Canonical.execShl {c o s} (h : Canonical s) : Canonical (outState s (Machine.execShl c o s)) := h.alu2

theorem Canonical.execShlImm {c o s} (h : Canonical s) : Canonical (outState s (Machine.execShlImm c o s)) := h.aluI

theorem Canonical.execShr {c o s} (h : Canonical s) : Canonical (outState s (Machine.execShr c o s)) := h.alu2

theorem Canonical.execShrImm {c o s} (h : Canonical s) : Canonical (outState s (Machine.execShrImm c o s)) := h.aluI

theorem Canonical.execSar {c o s} (h : Canonical s) : Canonical (outState s (Machine.execSar c o s)) := h.alu2

theorem Canonical.execSarImm {c o s} (h : Canonical s) : Canonical (outState s (Machine.execSarImm c o s)) := h.aluI

theorem Canonical.execRot {c o s} (h : Canonical s) : Canonical (outState s (Machine.execRot c o s)) := h.alu2

theorem Canonical.execRotImm {c o s} (h : Canonical s) : Canonical (outState s (Machine.execRotImm c o s)) := h.aluI

theorem Canonical.execClz {c o s} (h : Canonical s) : Canonical (outState s (Machine.execClz c o s)) := h.alu1

theorem Canonical.execCtz {c o s} (h : Canonical s) : Canonical (outState s (Machine.execCtz c o s)) := h.alu1

theorem Canonical.execPopc {c o s} (h : Canonical s) : Canonical (outState s (Machine.execPopc c o s)) := h.alu1

theorem Canonical.execBrev {c o s} (h : Canonical s) : Canonical (outState s (Machine.execBrev c o s)) := h.alu1

theorem Canonical.execCmp {c o s} (h : Canonical s) : Canonical (outState s (Machine.execCmp c o s)) :=
  h.isa fun _ _ h1 => h1.putBool

theorem Canonical.execCmpImm {c o s} (h : Canonical s) : Canonical (outState s (Machine.execCmpImm c o s)) :=
  h.isa fun _ _ h1 => h1.putBool

theorem Canonical.execSel {c o s} (h : Canonical s) : Canonical (outState s (Machine.execSel c o s)) :=
  h.isa fun _ _ h1 => h1.put

theorem Canonical.execMov {c o s} (h : Canonical s) : Canonical (outState s (Machine.execMov c o s)) := h.alu1

theorem Canonical.execMovi {c o s} (h : Canonical s) : Canonical (outState s (Machine.execMovi c o s)) :=
  h.isa fun _ _ h1 => h1.put

theorem Canonical.execMovh {c o s} (h : Canonical s) : Canonical (outState s (Machine.execMovh c o s)) := h.aluI

theorem Canonical.execExt {c o s} (h : Canonical s) : Canonical (outState s (Machine.execExt c o s)) := h.alu1

theorem Canonical.execLea {c o s} (h : Canonical s) : Canonical (outState s (Machine.execLea c o s)) := h.alu3

theorem Canonical.execPack {c o s} (h : Canonical s) : Canonical (outState s (Machine.execPack c o s)) := h.alu2

theorem Canonical.execUnpack {c o s} (h : Canonical s) : Canonical (outState s (Machine.execUnpack c o s)) := h.alu1

theorem Canonical.execSwz {c o s} (h : Canonical s) : Canonical (outState s (Machine.execSwz c o s)) := h.alu3

theorem Canonical.execDot4 {c o s} (h : Canonical s) : Canonical (outState s (Machine.execDot4 c o s)) := h.alu3

theorem Canonical.execBfx {c o s} (h : Canonical s) : Canonical (outState s (Machine.execBfx c o s)) := h.alu3

theorem Canonical.execBfi {c o s} (h : Canonical s) : Canonical (outState s (Machine.execBfi c o s)) :=
  h.isa fun _ _ h1 => h1.put

theorem Canonical.execBmm8 {c o s} (h : Canonical s) : Canonical (outState s (Machine.execBmm8 c o s)) := h.alu2

theorem Canonical.execPdep {c o s} (h : Canonical s) : Canonical (outState s (Machine.execPdep c o s)) := h.alu2

theorem Canonical.execPext {c o s} (h : Canonical s) : Canonical (outState s (Machine.execPext c o s)) := h.alu2

theorem Canonical.execBperm {c o s} (h : Canonical s) : Canonical (outState s (Machine.execBperm c o s)) :=
  h.isa fun _ _ h1 => h1.put

/-! ## Floating-point instructions (spec/11_isa_compute.md R280 to R285) -/

theorem Canonical.execFadd {c o s} (h : Canonical s) : Canonical (outState s (Machine.execFadd c o s)) := h.alu2

theorem Canonical.execFaddImm {c o s} (h : Canonical s) : Canonical (outState s (Machine.execFaddImm c o s)) :=
  h.aluI

theorem Canonical.execFsub {c o s} (h : Canonical s) : Canonical (outState s (Machine.execFsub c o s)) := h.alu2

theorem Canonical.execFsubImm {c o s} (h : Canonical s) : Canonical (outState s (Machine.execFsubImm c o s)) :=
  h.aluI

theorem Canonical.execFmul {c o s} (h : Canonical s) : Canonical (outState s (Machine.execFmul c o s)) := h.alu2

theorem Canonical.execFmulImm {c o s} (h : Canonical s) : Canonical (outState s (Machine.execFmulImm c o s)) :=
  h.aluI

theorem Canonical.execFfma {c o s} (h : Canonical s) : Canonical (outState s (Machine.execFfma c o s)) := h.alu3

theorem Canonical.execFmin {c o s} (h : Canonical s) : Canonical (outState s (Machine.execFmin c o s)) := h.alu2

theorem Canonical.execFminImm {c o s} (h : Canonical s) : Canonical (outState s (Machine.execFminImm c o s)) :=
  h.aluI

theorem Canonical.execFmax {c o s} (h : Canonical s) : Canonical (outState s (Machine.execFmax c o s)) := h.alu2

theorem Canonical.execFmaxImm {c o s} (h : Canonical s) : Canonical (outState s (Machine.execFmaxImm c o s)) :=
  h.aluI

theorem Canonical.execFcmp {c o s} (h : Canonical s) : Canonical (outState s (Machine.execFcmp c o s)) :=
  h.isa fun _ _ h1 => h1.putBool

theorem Canonical.execFcmpImm {c o s} (h : Canonical s) : Canonical (outState s (Machine.execFcmpImm c o s)) :=
  h.isa fun _ _ h1 => h1.putBool

theorem Canonical.execFclass {c o s} (h : Canonical s) : Canonical (outState s (Machine.execFclass c o s)) :=
  h.isa fun _ _ h1 => h1.putPred.put

theorem Canonical.execFrnd {c o s} (h : Canonical s) : Canonical (outState s (Machine.execFrnd c o s)) := h.alu1

theorem Canonical.execCvt {c o s} (h : Canonical s) : Canonical (outState s (Machine.execCvt c o s)) := h.alu1

theorem Canonical.execFdot2 {c o s} (h : Canonical s) : Canonical (outState s (Machine.execFdot2 c o s)) := h.alu3

/-! ## Special functions (spec/11_isa_compute.md R286) -/

theorem Canonical.execExp2 {c fn o s} (h : Canonical s) : Canonical (outState s (Machine.execExp2 c fn o s)) :=
  h.alu1

theorem Canonical.execLog2 {c fn o s} (h : Canonical s) : Canonical (outState s (Machine.execLog2 c fn o s)) :=
  h.alu1

theorem Canonical.execRcp {c fn o s} (h : Canonical s) : Canonical (outState s (Machine.execRcp c fn o s)) := h.alu1

theorem Canonical.execRsqrt {c fn o s} (h : Canonical s) : Canonical (outState s (Machine.execRsqrt c fn o s)) :=
  h.alu1

theorem Canonical.execSqrt {c fn o s} (h : Canonical s) : Canonical (outState s (Machine.execSqrt c fn o s)) :=
  h.alu1

theorem Canonical.execSin {c fn o s} (h : Canonical s) : Canonical (outState s (Machine.execSin c fn o s)) := h.alu1

theorem Canonical.execCos {c fn o s} (h : Canonical s) : Canonical (outState s (Machine.execCos c fn o s)) := h.alu1

theorem Canonical.execTanh {c fn o s} (h : Canonical s) : Canonical (outState s (Machine.execTanh c fn o s)) :=
  h.alu1

theorem Canonical.execSigm {c fn o s} (h : Canonical s) : Canonical (outState s (Machine.execSigm c fn o s)) :=
  h.alu1

theorem Canonical.execErf {c fn o s} (h : Canonical s) : Canonical (outState s (Machine.execErf c fn o s)) := h.alu1

/-! ## Lane exchanges, draws and quantisation (spec/11_isa_compute.md R287 to R298) -/

theorem Canonical.execShfl {c o s} (h : Canonical s) : Canonical (outState s (Machine.execShfl c o s)) :=
  h.isa fun _ _ h1 => h1.putPred.put

theorem Canonical.voteBy {s c x mode d pd src s'} (h : Canonical s') :
    Canonical (actState (Machine.voteBy s c x mode d pd src s')) :=
  h.putPred.put

theorem Canonical.execVote {c o s} (h : Canonical s) : Canonical (outState s (Machine.execVote c o s)) :=
  h.isa fun _ _ h1 => h1.voteBy

theorem Canonical.execVoteImm {c o s} (h : Canonical s) : Canonical (outState s (Machine.execVoteImm c o s)) :=
  h.isa fun _ _ h1 => h1.voteBy

theorem Canonical.execMatchT {c o s} (h : Canonical s) : Canonical (outState s (Machine.execMatchT c o s)) :=
  h.isa fun _ _ h1 => h1.putPred.put

theorem Canonical.execRedTeam {c o s} (h : Canonical s) : Canonical (outState s (Machine.execRedTeam c o s)) :=
  h.isa fun _ _ h1 => h1.put

theorem Canonical.execRedTeamImm {c o s} (h : Canonical s) : Canonical (outState s (Machine.execRedTeamImm c o s)) :=
  h.isa fun _ _ h1 => h1.put

theorem Canonical.execScanTeam {c o s} (h : Canonical s) : Canonical (outState s (Machine.execScanTeam c o s)) :=
  h.isa fun _ _ h1 => h1.put

theorem Canonical.execScanTeamImm {c o s} (h : Canonical s) : Canonical (outState s (Machine.execScanTeamImm c o s)) :=
  h.isa fun _ _ h1 => h1.put

theorem Canonical.putGroup {s w t d xs} (h : Canonical s) : Canonical (s.putGroup w t d xs) :=
  h.foldl fun _ _ h1 => h1.put

theorem Canonical.execTopkIns {c o s} (h : Canonical s) : Canonical (outState s (Machine.execTopkIns c o s)) := by
  unfold Machine.execTopkIns
  refine .isa (fun _ _ h1 => ?_) h
  dsimp only
  split
  · exact h1.putPred.putGroup
  · exact h1.putPred

theorem Canonical.rngDraw {s w t} (h : Canonical s) : Canonical (s.rngDraw w t).2 := by
  unfold State.rngDraw
  split
  · exact h.modThread
  · exact h

theorem Canonical.execRngDraw {c o s} (h : Canonical s) : Canonical (outState s (Machine.execRngDraw c o s)) :=
  h.isa fun _ _ h1 => h1.rngDraw.put

theorem Canonical.execGmax {c o s} (h : Canonical s) : Canonical (outState s (Machine.execGmax c o s)) := by
  unfold Machine.execGmax
  refine .isa (fun s1 x h1 => ?_) h
  dsimp only
  by_cases hb : bit o.sub.toNat 0 = true
  · simp only [if_pos hb]
    split
    · exact h1.putPred.put
    · exact h1.putPred
  · simp only [if_neg hb]
    split
    · exact h1.rngDraw.putPred.put
    · exact h1.rngDraw.putPred

theorem Canonical.execQuant {c o s} (h : Canonical s) : Canonical (outState s (Machine.execQuant c o s)) :=
  h.isa fun _ _ h1 => h1.put.put

theorem Canonical.execDequant {c o s} (h : Canonical s) : Canonical (outState s (Machine.execDequant c o s)) := by
  unfold Machine.execDequant
  refine .isa (fun _ _ h1 => ?_) h
  dsimp only
  split
  · exact h1
  · exact h1.put

/-! ## Caches of a core and requests to home slices (spec/03_memory_paths.md R47 to R60) -/

theorem Canonical.join {s id r e} (h : Canonical s) : Canonical (s.join id r e) := h.keep

theorem Canonical.ask {s x id piece kind ph va n fill key hint tl} (h : Canonical s) :
    Canonical (s.ask x id piece kind ph va n fill key hint tl).2 := by
  unfold State.ask
  dsimp only
  split
  · exact h.join
  · exact h.send

theorem Canonical.fetchLine {s x p fill ph va hint} (h : Canonical s) : Canonical (s.fetchLine x p fill ph va hint) :=
  h.ite h.send

theorem Canonical.fetchNext {s x p ph va} (h : Canonical s) : Canonical (s.fetchNext x p ph va) := h.fetchLine.ite h

theorem Canonical.openOp {s x i kind d} (h : Canonical s) : Canonical (s.openOp x i kind d).2 := h.newOp

theorem Canonical.modOp {s id f} (h : Canonical s) : Canonical (s.modOp id f) := h.keep

theorem Canonical.setPieces {s id ps} (h : Canonical s) : Canonical (s.setPieces id ps) := h.modOp

theorem Canonical.holdFor {s x id} (h : Canonical s) : Canonical (s.holdFor x id) :=
  h.modOp.foldl fun _ _ h1 => h1.modThread

theorem Canonical.loadLoc {s x c p ph va n id piece} (h : Canonical s) : Canonical (s.loadLoc x c p ph va n id piece).2 := by
  unfold State.loadLoc
  dsimp only
  split
  · exact h.ask
  · split
    · exact h.ask
    · split
      · refine .fetchNext ?_
        split
        · exact h.modCore
        · exact h.ask
      · split
        · exact h.modCore
        · exact h.ask

theorem Canonical.settle {s id} (h : Canonical s) : Canonical (s.settle id) := by
  unfold State.settle
  split
  · exact h
  · split
    · exact h
    · split
      · exact h.finish.ite h
      · exact h.finish.ite h
      · exact h

theorem Canonical.endTile {s w id} (h : Canonical s) : Canonical (s.endTile w id) := h.modWg.finish

theorem Canonical.gotPiece {s id piece bytes} (h : Canonical s) : Canonical (s.gotPiece id piece bytes) :=
  h.modOp.settle

theorem Canonical.opFault {s id code addr} (h : Canonical s) : Canonical (s.opFault id code addr) := by
  unfold State.opFault
  split
  · exact h
  · split
    · exact (h.foldl (fun _ _ h1 => h1.modThread)).failOp
    · exact h.failOp.ite h.trapOp

/-! ## Memory instructions, fences and bindings (spec/12_isa_memory.md R304 to R313) -/

theorem Canonical.scratchAct {s w off n va go} (h : Canonical s) (hgo : ∀ s, Canonical s → Canonical (actState (go s))) :
    Canonical (actState (Machine.scratchAct s w off n va go)) := by
  unfold Machine.scratchAct
  split
  · exact h
  · exact hgo _ h

theorem Canonical.loadThrough {i c o p ap ro s} (h : Canonical s) :
    Canonical (outState s (Machine.loadThrough i c o p ap ro s)) := by
  unfold Machine.loadThrough
  refine .isa (fun _ _ h1 => ?_) h
  dsimp only
  split
  · next e => exact h1.check.snd e
  · next e => exact h1.check.snd e
  · next e => exact (h1.check.snd e).scratchAct fun _ h3 => h3.openOp.setPieces
  · next e =>
      have h2 := h1.check.snd e
      split
      · exact h2
      · exact h2.openOp.loadLoc.setPieces

theorem Canonical.execLd {c o s} (h : Canonical s) : Canonical (outState s (Machine.execLd c o s)) := h.loadThrough

theorem Canonical.execLdRo {c o s} (h : Canonical s) : Canonical (outState s (Machine.execLdRo c o s)) :=
  h.loadThrough

theorem Canonical.execLdC {c o s} (h : Canonical s) : Canonical (outState s (Machine.execLdC c o s)) := h.loadThrough

theorem Canonical.execLdTl {c o s} (h : Canonical s) : Canonical (outState s (Machine.execLdTl c o s)) :=
  h.loadThrough

theorem Canonical.execSt {c o s} (h : Canonical s) : Canonical (outState s (Machine.execSt c o s)) := by
  unfold Machine.execSt
  refine .isa (fun _ _ h1 => ?_) h
  dsimp only
  split
  · next e => exact h1.check.snd e
  · next e => exact h1.check.snd e
  · next e => exact (h1.check.snd e).openOp.setPieces
  · next e =>
      have h2 := h1.check.snd e
      split
      · exact h2
      · exact h2.openOp.l1Store.ask.setPieces

theorem Canonical.execPref {c o s} (h : Canonical s) : Canonical (outState s (Machine.execPref c o s)) := by
  unfold Machine.execPref
  refine .isa (fun _ _ h1 => ?_) h
  dsimp only
  split
  · next e => exact h1.check.snd e
  · next e =>
      have h2 := h1.check.snd e
      exact h2.fetchLine.fetchNext.ite h2.fetchLine
  · next e => exact h1.check.snd e

theorem Canonical.checkTexels {w ts n x s} (h : Canonical s) : Canonical (Machine.checkTexels w ts n x s).2.2.2 := by
  induction x generalizing s with
  | nil => exact h
  | cons a _ ih =>
    cases a with
    | none => exact ih h
    | some =>
      unfold Machine.checkTexels
      generalize hr : Machine.check _ _ _ _ _ _ _ _ _ = r
      have h1 : Canonical r.2 := hr ▸ h.check
      split
      generalize hq : Machine.checkTexels _ _ _ _ _ = q
      have h2 : Canonical q.2.2.2 := hq ▸ ih h1
      split
      split <;> exact h2

theorem Canonical.samplePieces {x c n id x1 x2 s} (h : Canonical s) :
    Canonical (Machine.samplePieces x c n id x1 x2 s).2 := by
  induction x2 generalizing s x1 with
  | nil => exact h
  | cons a _ ih =>
    cases a with
    | none => exact ih h
    | some =>
      unfold Machine.samplePieces
      dsimp only
      exact ih h.loadLoc

theorem Canonical.execSmp {c o s} (h : Canonical s) : Canonical (outState s (Machine.execSmp c o s)) := by
  unfold Machine.execSmp
  refine .isa (fun _ _ h1 => ?_) h
  dsimp only
  split
  · next e => exact h1.checkTexels.fourth e
  · next e => exact h1.checkTexels.fourth e
  · next e => exact (h1.checkTexels.fourth e).openOp.samplePieces.setPieces

theorem Canonical.execCinv {c o s} (h : Canonical s) : Canonical (outState s (Machine.execCinv c o s)) := by
  unfold Machine.execCinv
  refine .isa (fun _ _ h1 => ?_) h
  dsimp only
  split
  · next e => exact h1.check.snd e
  · next e => exact h1.check.snd e
  · next e =>
      have h2 := h1.check.snd e
      exact (h2.ite (h2.foldl (fun _ _ h3 => h3.discard))).openOp.setPieces
  · next e => exact h1.check.snd e

theorem Canonical.execCwb {c o s} (h : Canonical s) : Canonical (outState s (Machine.execCwb c o s)) := by
  unfold Machine.execCwb
  refine .isa (fun _ _ h1 => ?_) h
  dsimp only
  split
  · next e => exact h1.check.snd e
  · next e => exact h1.check.snd e
  · next e => exact (h1.check.snd e).openOp.ask.setPieces
  · next e => exact h1.check.snd e

theorem Canonical.atomThrough {i c opc fn o s} (h : Canonical s) :
    Canonical (outState s (Machine.atomThrough i c opc fn o s)) := by
  unfold Machine.atomThrough
  refine .isa (fun _ _ h1 => ?_) h
  dsimp only
  split
  · next e => exact h1.check.snd e
  · next e => exact h1.check.snd e
  · next e => exact (h1.check.snd e).scratchAct fun _ h3 => h3.openOp.setPieces
  · next e =>
      have h2 := h1.check.snd e
      split
      · exact h2
      · exact ((h2.openOp.ite h2.openOp.discard).modThread.ite (h2.openOp.ite h2.openOp.discard)).ask.setPieces

theorem Canonical.execAtom {c fn o s} (h : Canonical s) : Canonical (outState s (Machine.execAtom c fn o s)) :=
  h.atomThrough

theorem Canonical.execAtomF {c fn o s} (h : Canonical s) : Canonical (outState s (Machine.execAtomF c fn o s)) :=
  h.atomThrough

theorem Canonical.execAtomCas {c o s} (h : Canonical s) : Canonical (outState s (Machine.execAtomCas c o s)) :=
  h.atomThrough

theorem Canonical.execAtomOrd {c fn o s} (h : Canonical s) : Canonical (outState s (Machine.execAtomOrd c fn o s)) :=
  h.atomThrough

theorem Canonical.begun {s x m} (h : Canonical s) : Canonical (s.begun x m) := h.foldl fun _ _ h1 => h1.modThread

theorem Canonical.execFence {c fn o s} (h : Canonical s) : Canonical (outState s (Machine.execFence c fn o s)) := by
  unfold Machine.execFence
  refine .isa (fun _ _ h1 => ?_) h
  dsimp only
  split
  · exact h1.begun
  · split
    · exact (h1.discard.ite h1).openOp.ask.setPieces.holdFor
    · exact h1.discard.ite h1

theorem Canonical.execFencePath {c o s} (h : Canonical s) : Canonical (outState s (Machine.execFencePath c o s)) := by
  unfold Machine.execFencePath
  refine .isa (fun _ _ h1 => ?_) h
  dsimp only
  split
  · exact h1.begun
  · exact h1.discard.discard

theorem Canonical.syncThrough {i c o a f d s x} (h : Canonical s) :
    Canonical (actState (Machine.syncThrough i c o a f d s x)) := by
  unfold Machine.syncThrough
  dsimp only
  split
  · next e => exact h.check.snd e
  · next e => exact h.check.snd e
  · next e =>
      have h1 := h.check.snd e
      exact (h1.openOp.ite h1.openOp.discard).ask.setPieces.holdFor
  · next e => exact h.check.snd e

theorem Canonical.execAcq {c o s} (h : Canonical s) : Canonical (outState s (Machine.execAcq c o s)) :=
  h.isa fun _ _ h1 => h1.syncThrough

theorem Canonical.execAcqGe {c o s} (h : Canonical s) : Canonical (outState s (Machine.execAcqGe c o s)) :=
  h.isa fun _ _ h1 => h1.syncThrough

theorem Canonical.execAcqX {c o s} (h : Canonical s) : Canonical (outState s (Machine.execAcqX c o s)) :=
  h.isa fun _ _ h1 => h1.syncThrough

theorem Canonical.execRel {c o s} (h : Canonical s) : Canonical (outState s (Machine.execRel c o s)) := by
  unfold Machine.execRel
  refine .isa (fun _ _ h1 => ?_) h
  dsimp only
  split
  · next e => exact (h1.check.snd e).begun
  · next e => exact h1.check.snd e
  · next e =>
      have h2 := h1.check.snd e
      split
      · exact h2.syncThrough
      · exact h2.begun

theorem Canonical.asks {α : Type} {x : Ctx} {s} {f : State → α × State} (hf : ∀ s, Canonical s → Canonical (f s).2)
    (h : Canonical s) :
    Canonical (x.asks s f).2 :=
  h.askFor fun _ h1 => hf _ h1

theorem Canonical.parks {x s} (h : Canonical s) : Canonical (actState (Ctx.parks x s)) := h.parkHost

theorem Canonical.rangeFrames {s w va n} (h : Canonical s) : Canonical (Machine.rangeFrames s w va n).2 := by
  unfold Machine.rangeFrames
  refine .foldlSnd (fun _ _ h1 => ?_) h
  split
  · exact h1
  · split <;> (next e => exact h1.checkNow.snd e)

theorem Canonical.bindChecks {s w obj objPh base size} (h : Canonical s) :
    Canonical (Machine.bindChecks s w obj objPh base size).2 := by
  unfold Machine.bindChecks
  dsimp only
  split
  · exact h
  · split
    · split
      · next e2 => exact h.rangeFrames.snd e2
      · next e2 =>
          have h1 := h.rangeFrames.snd e2
          exact h1.iteSnd (h1.iteSnd h1)
    · exact h
    · exact h
    · exact h

theorem Canonical.execSyncBind {c o s} (h : Canonical s) : Canonical (outState s (Machine.execSyncBind c o s)) := by
  unfold Machine.execSyncBind
  refine .isa (fun _ _ h1 => ?_) h
  dsimp only
  split
  · next e => exact h1.check.snd e
  · next e => exact h1.check.snd e
  · next e =>
      have h2 := h1.check.snd e
      split
      · next e1 => exact ((h2.asks (fun _ h3 => h3.bindChecks)).snd e1).parks
      · next e1 => exact (h2.asks (fun _ h3 => h3.bindChecks)).snd e1
      · next e1 => exact ((h2.asks (fun _ h3 => h3.bindChecks)).snd e1).modPart
  · next e => exact h1.check.snd e

theorem Canonical.execSyncUnbind {c o s} (h : Canonical s) : Canonical (outState s (Machine.execSyncUnbind c o s)) := by
  unfold Machine.execSyncUnbind
  refine .isa (fun _ _ h1 => ?_) h
  dsimp only
  split
  · exact h1.modPart
  · exact h1

theorem Canonical.acquireAt {s core part obj} (h : Canonical s) : Canonical (s.acquireAt core part obj) :=
  h.ite h.discard

/-! ## Home slices, replies, walkers and the answers of the host (spec/03_memory_paths.md R55 to R66) -/

theorem Canonical.corrected {s k i} (h : Canonical s) : Canonical (s.corrected k i) :=
  h.keep.ite (h.keep.foldl (fun _ _ h1 => h1.event.ite h1))

theorem Canonical.leaves {s k} (h : Canonical s) : Canonical (s.leaves k).2 := h.iteSnd (h.ite h.keep)

theorem Canonical.execFlitInjection {p s} (h : Canonical s) : Canonical (outState s (Machine.execFlitInjection p s)) := by
  unfold Machine.execFlitInjection
  dsimp only
  split
  · exact h
  · split
    · exact h
    · split
      · exact h.leaves.keep
      · exact h.leaves.keep.ite (h.ite h.keep.leaves.keep)

theorem Canonical.execFlitArrival {p good s} (h : Canonical s) :
    Canonical (outState s (Machine.execFlitArrival p good s)) := by
  unfold Machine.execFlitArrival
  dsimp only
  split
  · exact h
  · exact h.ite (((h.ite h.corrected).ite (h.ite h.corrected).keep).keep.ite
      (((h.ite h.corrected).ite (h.ite h.corrected).keep).keep.ite ((h.ite h.corrected).ite (h.ite h.corrected).keep).keep))

theorem Canonical.nodeBits {s p addr} (h : Canonical s) : Canonical (s.nodeBits p addr).2 := by
  unfold State.nodeBits
  split <;> (next e => exact h.readNode.snd e)

theorem Canonical.setFlag {s p addr b} (h : Canonical s) : Canonical (s.setFlag p addr b) := by
  unfold State.setFlag
  exact h.nodeBits.putNode

theorem Canonical.logSpace {s p addr} (h : Canonical s) : Canonical (Machine.logSpace s p addr).2 := by
  unfold Machine.logSpace
  dsimp only
  split <;> (next e => exact h.chain.snd e)

theorem Canonical.logLost {s p q qu} (h : Canonical s) : Canonical (Machine.logLost s p q qu) := by
  unfold Machine.logLost
  exact (h.ite h.event).modPart.setFlag

theorem Canonical.appendLog {s p q qu entry} (h : Canonical s) : Canonical (Machine.appendLog s p q qu entry) := by
  unfold Machine.appendLog
  dsimp only
  split
  · exact h
  · split
    · next e =>
        have h1 := h.nodeBits.logSpace.snd e
        exact h1.ite h1.logLost
    · next e =>
        have h1 := h.nodeBits.logSpace.snd e
        split
        · exact h1.logLost
        · split
          · next e1 =>
              have h2 := h1.writeSys.snd e1
              exact h2.ite h2.logLost
          · next e1 => exact (h1.writeSys.snd e1).putNode

theorem Canonical.intrude {s slice o ph opc fn n x cmp} (h : Canonical s) :
    Canonical (s.intrude slice o ph opc fn n x cmp) := by
  unfold State.intrude
  dsimp only
  split
  · exact h
  · split
    · exact h.nodeBits.setFlag.setFlag
    · split <;> exact h.nodeBits.setFlag.appendLog

theorem Canonical.rmwAt {s part ph va n opc fn ty x cmp launch who} (h : Canonical s) :
    Canonical (s.rmwAt part ph va n opc fn ty x cmp launch who).2 := by
  unfold State.rmwAt
  split
  · exact h
  · exact h.store

theorem Canonical.atomicAt {s r opc fn ty x cmp} (h : Canonical s) : Canonical (s.atomicAt r opc fn ty x cmp).2 := by
  unfold State.atomicAt
  dsimp only
  split
  · exact h.rmwAt
  · split
    · split
      · split
        · exact h.rmwAt.intrude
        · exact h.rmwAt
      · exact h.iteSnd h.modOp.modSlice
    · split
      · exact h.rmwAt.intrude
      · exact h.rmwAt

theorem Canonical.grantAcquire {s w seq} (h : Canonical s) : Canonical (s.grantAcquire w seq) := by
  unfold State.grantAcquire
  dsimp only
  split
  · exact h
  · exact h.acquireAt.finish

theorem Canonical.parkAcquire {s r a} (h : Canonical s) : Canonical (s.parkAcquire r a) := by
  unfold State.parkAcquire
  dsimp only
  split
  · exact h
  · split
    · exact h
    · exact h.keep.ite (h.foldl (fun _ _ h1 => h1.modThread)).keep

theorem Canonical.relAt {s r seq held} (h : Canonical s) : Canonical (s.relAt r seq held) :=
  h.store.keep.foldl fun _ _ h1 => h1.grantAcquire

theorem Canonical.syncAt {s r a} (h : Canonical s) : Canonical (s.syncAt r a).2 := by
  unfold State.syncAt
  dsimp only
  split
  · exact h
  · split
    · exact h
    · split
      · dsimp only
        split
        · exact h.acquireAt
        · exact h
      · split
        · dsimp only
          split
          · exact h.acquireAt
          · exact h
        · exact h.parkAcquire
      · split
        · exact h.iteSnd h.parkAcquire
        · dsimp only
          split
          · exact h.store.acquireAt
          · exact h.store
      · exact h.iteSnd h.relAt
      · exact h

theorem Canonical.takeWaggle {s r hive n regs} (h : Canonical s) : Canonical (s.takeWaggle r hive n regs).2 :=
  h.iteSnd h.newId.modPart.inject

theorem Canonical.waggleHere {s p id} (h : Canonical s) : Canonical (s.waggleHere p id) := h.modPart

theorem Canonical.orAt {s r m} (h : Canonical s) : Canonical (s.orAt r m).2 := by
  unfold State.orAt
  dsimp only
  split
  · exact h
  · exact h.store

theorem Canonical.modRegion {s p slot f} (h : Canonical s) : Canonical (s.modRegion p slot f) := h.modPart

theorem Canonical.storeAt {s r d} (h : Canonical s) : Canonical (s.storeAt r d) :=
  (((h.keep.ite h).write.foldl (fun _ _ h1 => h1.write)).ite ((h.keep.ite h).write.foldl (fun _ _ h1 => h1.write)).forward).ite
      ((((h.keep.ite h).write.foldl (fun _ _ h1 => h1.write)).ite
      ((h.keep.ite h).write.foldl (fun _ _ h1 => h1.write)).forward).ite
      (((h.keep.ite h).write.foldl (fun _ _ h1 => h1.write)).ite
      ((h.keep.ite h).write.foldl (fun _ _ h1 => h1.write)).forward).l2Put)

theorem Canonical.loadAt {s r} (h : Canonical s) : Canonical (s.loadAt r).2 := by
  unfold State.loadAt
  dsimp only
  split <;> exact h

theorem Canonical.touchNodes {s p slot r is pages} (h : Canonical s) : Canonical (s.touchNodes p slot r is pages) :=
  h.foldl fun _ _ h1 => h1.ite h1.l2Put

theorem Canonical.readQuery {s p id slot r a} (h : Canonical s) : Canonical (s.readQuery p id slot r a) := by
  unfold State.readQuery
  split
  · exact h
  · exact h.modOp.touchNodes

theorem Canonical.readsAt {s p id at_ a} (h : Canonical s) : Canonical (s.readsAt p id at_ a) := by
  unfold State.readsAt
  split
  · exact h.readQuery
  · exact h

theorem Canonical.acceptAt {s r} (h : Canonical s) : Canonical (s.acceptAt r).2 := by
  unfold State.acceptAt
  dsimp only
  split
  · exact h
  · split
    · split
      · dsimp only
        split
        · exact h.modOp.rngDraw.modOp.readsAt
        · exact h.modOp.modRegion.modPart
        · exact h.modOp.readsAt
      · exact h
    · exact h

theorem Canonical.ringAt {s p n v} (h : Canonical s) : Canonical (s.ringAt p n v).2 := by
  unfold State.ringAt
  dsimp only
  split
  · exact h.modPart
  · exact h

theorem Canonical.perform {s r} (h : Canonical s) : Canonical (s.perform r).2 := by
  unfold State.perform
  split
  · exact h.loadAt
  · exact h.storeAt
  · exact h.atomicAt
  · exact h.takeWaggle
  · exact h.orAt
  · exact h.ringAt
  · exact h.keep
  · exact h.syncAt
  · exact h.modRegion
  · exact h.acceptAt

theorem Canonical.setWindow {s x} (h : Canonical s) : Canonical (s.setWindow x) := h.keep

theorem Canonical.noteLow {s slice src low} (h : Canonical s) : Canonical (s.noteLow slice src low) :=
  h.ite h.setWindow

theorem Canonical.record {s slice src e} (h : Canonical s) : Canonical (s.record slice src e) := h.setWindow

theorem Canonical.sendReply {s req r fault data line} (h : Canonical s) : Canonical (s.sendReply req r fault data line) :=
  h.inject

theorem Canonical.acknowledge {s req} (h : Canonical s) : Canonical (s.acknowledge req) := h.keep

theorem Canonical.hintLine {s r} (h : Canonical s) : Canonical (s.hintLine r) := h.keep.ite h

theorem Canonical.runRequest {s req r pre} (h : Canonical s) : Canonical (s.runRequest req r pre) := by
  unfold State.runRequest
  split
  · next e =>
      refine .sendReply (.record (.snd ?_ e))
      split
      · exact h
      · exact h.hintLine.perform
  · next e =>
      refine .acknowledge (.record (.snd ?_ e))
      split
      · exact h
      · exact h.hintLine.perform

theorem Canonical.cancelled {s req r} (h : Canonical s) : Canonical (s.cancelled req r) := by
  unfold State.cancelled
  refine .sendReply (.record ?_)
  split
  · exact h.modRegion
  · exact h

theorem Canonical.serve {s p k r} (h : Canonical s) : Canonical (s.serve p k r) := by
  unfold State.serve
  dsimp only
  split
  · exact h.noteLow.keep
  · split
    · exact h.noteLow.sendReply.keep.ite h.noteLow.keep
    · exact h.noteLow.cancelled.keep.ite (h.noteLow.ite ((h.noteLow.runRequest.keep.ite
        (h.noteLow.runRequest.keep.ite (h.noteLow.runRequest.keep.ite (h.noteLow.ite h.noteLow.keep)))).ite
        ((h.noteLow.ite h.noteLow.keep).ite h.noteLow.runRequest.keep)))

theorem Canonical.serveAt {s p sel} (h : Canonical s) : Canonical (s.serveAt p sel) := by
  unfold State.serveAt
  refine .attempt h (fun _ h1 => ?_)
  split
  · exact h1
  · split
    · exact h1
    · split
      · exact h1.serve.ite h1
      · exact h1.keep

theorem Canonical.execSliceRequest {p s} (h : Canonical s) : Canonical (outState s (Machine.execSliceRequest p s)) :=
  h.serveAt

theorem Canonical.fillLine {s r line} (h : Canonical s) : Canonical (s.fillLine r line) := by
  unfold State.fillLine
  dsimp only
  split
  · split
    · exact h.keep
    · exact h.keep.ite h.keep.modCore
  · exact h

theorem Canonical.readBack {s o} (h : Canonical s) : Canonical (s.readBack o) := by
  unfold State.readBack
  split
  · split
    · exact h.grantCore
    · exact h
  · exact h

theorem Canonical.owned {s req r o fault data line} (h : Canonical s) : Canonical (s.owned req r o fault data line) := by
  unfold State.owned
  dsimp only
  split
  · exact h
  · refine .ite (.modStage ?_) h.modStage.readBack
    split
    · exact h.ite h.discard
    · exact h

theorem Canonical.walked {s req core k fault data} (h : Canonical s) : Canonical (s.walked req core k fault data) :=
  h.modCore

theorem Canonical.opAnswered {s id piece va fault data} (h : Canonical s) :
    Canonical (s.opAnswered id piece va fault data) := by
  unfold State.opAnswered
  split
  · refine .opFault ?_
    split
    · exact h.modWg
    · exact h
  · split
    · split
      · exact (h.foldl (fun _ _ h1 => h1.release)).modOp
      · exact h.finish
      · exact h.modWg.endTile
      · exact h.gotPiece
    · exact h

theorem Canonical.answered {s req r fault data line} (h : Canonical s) : Canonical (s.answered req r fault data line) := by
  unfold State.answered
  extract_lets s1 s2 s3 s4
  have h1 : Canonical s1 := .ite h.fillLine h
  have h2 : Canonical s2 := by
    unfold s2
    split
    · exact h1.owned
    · exact h1
  have h3 : Canonical s3 := by
    unfold s3
    split
    · exact h2.walked
    · exact h2
  have h4 : Canonical s4 := by
    unfold s4
    split
    · exact h3.opAnswered
    · split
      · exact .ite h3 h3.deferTo
      · exact h3
  exact h4.foldl fun _ _ h5 => h5.opAnswered

theorem Canonical.execReplyArrival {p s} (h : Canonical s) : Canonical (outState s (Machine.execReplyArrival p s)) := by
  unfold Machine.execReplyArrival
  dsimp only
  split
  · exact h
  · split
    · exact h
    · split
      · exact h.keep.waggleHere
      · exact h.keep
      · exact h.keep.ite h.keep.answered

theorem Canonical.scratchDo {s w off n a} (h : Canonical s) : Canonical (s.scratchDo w off n a).2 := by
  unfold State.scratchDo
  dsimp only
  split
  · exact h
  · split
    · exact h.modWg_wf fun _ hg => memWrite_wf _ _ hg
    · exact h.iteSnd h
    · exact h.iteSnd (h.modWg_wf (fun _ hg => memWrite_wf _ _ hg))
    · exact h

theorem Canonical.execLocalAccessComplete {op s} (h : Canonical s) :
    Canonical (outState s (Machine.execLocalAccessComplete op s)) := by
  unfold Machine.execLocalAccessComplete
  dsimp only
  split
  · exact h
  · split
    · exact h
    · split
      · exact h.finish
      · split
        · exact h
        · split
          · next e2 =>
              refine .opFault (.snd (.foldlSnd (fun _ _ h1 => ?_) h) e2)
              split
              · exact h1.gotPiece
              · split
                · next e6 => exact (h1.scratchDo.snd e6).gotPiece
                · next e6 => exact h1.scratchDo.snd e6
              · exact h1
          · next e2 =>
              refine .settle (.snd (.foldlSnd (fun _ _ h1 => ?_) h) e2)
              split
              · exact h1.gotPiece
              · split
                · next e6 => exact (h1.scratchDo.snd e6).gotPiece
                · next e6 => exact h1.scratchDo.snd e6
              · exact h1
      · exact h

theorem Canonical.lineRead {s line} (h : Canonical s) : Canonical (s.lineRead line) := h.keep

theorem Canonical.execHbmReadComplete {line good victim s} (h : Canonical s) :
    Canonical (outState s (Machine.execHbmReadComplete line good victim s)) := by
  unfold Machine.execHbmReadComplete
  dsimp only
  split
  · exact h
  · split
    · exact h.keep.lineRead.l2Insert
    · exact h.keep.lineRead

theorem Canonical.execHostCompletion {r good s} (h : Canonical s) :
    Canonical (outState s (Machine.execHostCompletion r good s)) := by
  unfold Machine.execHostCompletion
  split
  · exact h.keep.ite h
  · exact h

theorem Canonical.modMiss {s c k f} (h : Canonical s) : Canonical (s.modMiss c k f) := h.modCore

theorem Canonical.failMisses {s code l} (h : Canonical s) : Canonical (s.failMisses code l) :=
  h.foldl fun _ _ h1 => h1.modCore.foldl (fun _ _ h2 => h2.tellFail)

theorem Canonical.failWalk {s core m code} (h : Canonical s) : Canonical (s.failWalk core m code) := h.failMisses

theorem Canonical.failHost {s core m t} (h : Canonical s) : Canonical (s.failHost core m t) := h.failMisses

theorem Canonical.refuse {s t l} (h : Canonical s) : Canonical (s.refuse t l) := by
  unfold State.refuse
  refine .foldl (fun _ _ h1 => .foldl (fun _ _ h2 => ?_) h1.modCore) h
  split
  · exact h2
  · exact h2.tellFail

theorem Canonical.endWalk {s core m t victim} (h : Canonical s) : Canonical (s.endWalk core m t victim) := by
  unfold State.endWalk
  refine .foldl (fun _ _ h1 => .foldl (fun _ _ h2 => ?_) h1.draw.modCore) h
  split
  · exact h2.wakeAsk
  · exact h2.tellFail

theorem Canonical.awaitPage {s core m t} (h : Canonical s) : Canonical (s.awaitPage core m t) :=
  h.foldl fun _ _ h1 => h1.modMiss.foldl (fun _ _ h2 => h2.parkHost)

theorem Canonical.leafFound {s core m t victim} (h : Canonical s) : Canonical (s.leafFound core m t victim) := by
  unfold State.leafFound
  dsimp only
  split
  · exact h.endWalk
  · split
    · exact h.endWalk
    · exact h.refuse.failHost.ite (h.refuse.ite h.refuse.awaitPage)

theorem Canonical.walkSend {s core k m a kind} (h : Canonical s) : Canonical (s.walkSend core k m a kind) :=
  h.send.modMiss

theorem Canonical.descend {s core k x x1} (h : Canonical s) : Canonical (s.descend core k x x1) := by
  induction x generalizing x1 with
  | zero =>
    unfold State.descend
    exact h.failWalk
  | succ _ ih =>
    unfold State.descend
    split
    · exact ih
    · exact h.walkSend

theorem Canonical.examined {s core k m e victim} (h : Canonical s) : Canonical (s.examined core k m e victim) := by
  unfold State.examined
  dsimp only
  split
  · exact h.failWalk
  · exact h.walkKeep.descend
  · exact h.leafFound.ite h.walkSend

theorem Canonical.execTlbMissWalk {core k victim s} (h : Canonical s) :
    Canonical (outState s (Machine.execTlbMissWalk core k victim s)) := by
  unfold Machine.execTlbMissWalk
  dsimp only
  split
  · exact h
  · split
    · exact h
    · split
      · exact h.leafFound
      · exact h.failWalk
      · exact h.examined
      · split
        · exact h
        · split
          · exact h.leafFound
          · exact h.ite h.keep.descend

theorem Canonical.hostAnswered {s k f bad} (h : Canonical s) (hf : ∀ x s, Canonical s → Canonical (f x s)) :
    Canonical (s.hostAnswered k f bad) := by
  unfold State.hostAnswered
  dsimp only
  split
  · exact h
  · exact (hf _ _ h.keep).askEnds.foldl fun _ _ h1 => h1.grantCore

theorem Canonical.hostSays {s part base size ha} (h : Canonical s) : Canonical (s.hostSays part base size ha) :=
  h.keep

theorem Canonical.execHostTranslationResponse {core k ok ha s} (h : Canonical s) :
    Canonical (outState s (Machine.execHostTranslationResponse core k ok ha s)) := by
  unfold Machine.execHostTranslationResponse
  split
  · exact h.hostAnswered fun _ _ h1 => h1.hostSays.ite h1
  · split
    · exact h
    · split
      · exact h
      · exact h.hostSays.endWalk.ite h.failHost

theorem Canonical.execHostRequestTimeout {core k req s} (h : Canonical s) :
    Canonical (outState s (Machine.execHostRequestTimeout core k req s)) := by
  unfold Machine.execHostRequestTimeout
  dsimp only
  split
  · split
    · exact h.keep.ite h
    · exact h
  · split
    · exact (h.hostAnswered (fun _ _ h1 => h1)).ite h
    · split
      · split
        · exact h.failHost.ite h
        · exact h
      · exact h

theorem Canonical.execAtsInvalidation {part ha size s} (h : Canonical s) :
    Canonical (outState s (Machine.execAtsInvalidation part ha size s)) :=
  h.ite h.keep

theorem Canonical.execCongestionWindowEnd {s} (h : Canonical s) :
    Canonical (outState s (Machine.execCongestionWindowEnd s)) :=
  h.ite ((h.keep.foldl (fun _ _ h1 => h1.modSlice)).foldl (fun _ _ h1 => h1.foldl
      (fun _ _ h2 => h2.foldl (fun _ _ h3 => h3.modCore))))

theorem Canonical.execEccCorrected {kind index s} (h : Canonical s) :
    Canonical (outState s (Machine.execEccCorrected kind index s)) :=
  h.corrected.ite h

theorem Canonical.execOrderedEntryArrival {slice s} (h : Canonical s) :
    Canonical (outState s (Machine.execOrderedEntryArrival slice s)) := by
  unfold Machine.execOrderedEntryArrival
  dsimp only
  split
  · exact h
  · split
    · exact h.modSlice.opFault
    · exact h.modSlice

theorem Canonical.execFloorReport {core slice s} (h : Canonical s) :
    Canonical (outState s (Machine.execFloorReport core slice s)) :=
  h.modSlice

theorem Canonical.readLog {s p asid root base x x1} (h : Canonical s) :
    Canonical (Machine.readLog s p asid root base x x1).2 := by
  induction x generalizing s x1 with
  | zero =>
    unfold Machine.readLog
    exact h
  | succ _ ih =>
    unfold Machine.readLog
    dsimp only
    split
    · next e =>
        have h1 := h.readSys.snd e
        exact h1.iteSnd (ih h1)
    · next e => exact h.readSys.snd e

theorem Canonical.applyLogged {s p l e} (h : Canonical s) : Canonical (Machine.applyLogged s p l e) := by
  unfold Machine.applyLogged
  dsimp only
  split
  · next e1 =>
      have h1 := h.draw.xnow.snd e1
      split
      · exact h1.store
      · exact h1
  · next e1 => exact h.draw.xnow.snd e1

theorem Canonical.replay {s p q lid sel} (h : Canonical s) : Canonical (s.replay p q lid sel) := by
  unfold State.replay
  dsimp only
  split
  · split
    · exact h.nodeBits
    · split
      · next e2 => exact h.nodeBits.logSpace.snd e2
      · next e2 => exact (h.nodeBits.logSpace.snd e2).readLog.foldl fun _ _ h2 => h2.ite h2.applyLogged.modPart
  · exact h

theorem Canonical.execOrderedEntryApply {slice line s} (h : Canonical s) :
    Canonical (outState s (Machine.execOrderedEntryApply slice line s)) := by
  unfold Machine.execOrderedEntryApply
  dsimp only
  split
  · exact h
  · split
    · refine .attempt h (fun _ h1 => .replay ?_)
      split
      · exact (h1.replay.rmwAt.ite h1.replay.rmwAt.discard).modSlice.gotPiece
      · exact (h1.replay.rmwAt.ite h1.replay.rmwAt.discard).modSlice.opFault
      · exact (h1.replay.rmwAt.ite h1.replay.rmwAt.discard).modSlice
    · exact h

/-! ## Aggregate regions (spec/04_aggregate_regions.md) -/

theorem Canonical.leafPages {s w va n} (h : Canonical s) : Canonical (Machine.leafPages s w va n).2 := by
  unfold Machine.leafPages
  refine .foldlSnd (fun _ _ h1 => ?_) h
  split
  · exact h1
  · split <;> (next e => exact h1.checkNow.snd e)

theorem Canonical.syncObject {s w obj} (h : Canonical s) : Canonical (Machine.syncObject s w obj).2 := by
  unfold Machine.syncObject
  split <;> (next e => exact h.checkNow.snd e)

theorem Canonical.declChecks {s w d} (h : Canonical s) : Canonical (Machine.declChecks s w d).2 := by
  unfold Machine.declChecks
  dsimp only
  split
  · exact h
  · split
    · exact h
    · split
      · next e1 => exact h.leafPages.snd e1
      · next e1 =>
          have h1 := h.leafPages.snd e1
          split
          · exact h1
          · split
            · exact h1
            · split
              · exact h1
              · split
                · exact h1
                · split
                  · exact h1
                  · split
                    · next e5 => exact h1.syncObject.snd e5
                    · next e5 =>
                        have h2 := h1.syncObject.snd e5
                        split <;> (next e6 => exact h2.bindChecks.snd e6)

theorem Canonical.openAgg {s x a d pd} (h : Canonical s) : Canonical (s.openAgg x a d pd).2 := h.newOp

theorem Canonical.readThroughL1 {s x va n ph} (h : Canonical s) : Canonical (Machine.readThroughL1 s x va n ph).2 := by
  unfold Machine.readThroughL1
  dsimp only
  split
  · exact h.modCore
  · split
    · exact h.sendWants
    · next e1 => exact h.fetchAs.snd e1

theorem Canonical.readAhead {s x va ph} (h : Canonical s) : Canonical (s.readAhead x va ph) := h.fetchNext.ite h

theorem Canonical.execAggDecl {c o s} (h : Canonical s) : Canonical (outState s (Machine.execAggDecl c o s)) := by
  unfold Machine.execAggDecl
  refine .isa (fun _ _ h1 => .actAfter ?_) h
  dsimp only
  split
  · next e => exact h1.check.snd e
  · next e => exact h1.check.snd e
  · next e =>
      have h2 := h1.check.snd e
      split
      · next e1 => exact h2.readThroughL1.snd e1
      · next e1 => exact h2.readThroughL1.snd e1
      · next e1 =>
          have h3 := h2.readThroughL1.snd e1
          split
          · next e2 => exact ((h3.asks (fun _ h4 => h4.declChecks)).snd e2).parks
          · next e2 => exact (h3.asks (fun _ h4 => h4.declChecks)).snd e2
          · next e2 => exact ((h3.asks (fun _ h4 => h4.declChecks)).snd e2).openAgg.readAhead.modPart
  · next e => exact h1.check.snd e

theorem Canonical.aggThrough {c i d pd named a s} (h : Canonical s) :
    Canonical (outState s (Machine.aggThrough c i d pd named a s)) := by
  unfold Machine.aggThrough
  refine .isa (fun _ _ h1 => ?_) h
  dsimp only
  split
  · exact h1.openAgg.send.setPieces.holdFor
  · exact h1.openAgg

theorem Canonical.execAggFree {c o s} (h : Canonical s) : Canonical (outState s (Machine.execAggFree c o s)) :=
  h.aggThrough

theorem Canonical.execAggRange {c o s} (h : Canonical s) : Canonical (outState s (Machine.execAggRange c o s)) :=
  h.aggThrough

theorem Canonical.execAggPfx {c o s} (h : Canonical s) : Canonical (outState s (Machine.execAggPfx c o s)) :=
  h.aggThrough

theorem Canonical.execAggPick {c o s} (h : Canonical s) : Canonical (outState s (Machine.execAggPick c o s)) :=
  h.aggThrough

theorem Canonical.execAggSync {c o s} (h : Canonical s) : Canonical (outState s (Machine.execAggSync c o s)) :=
  h.aggThrough

theorem Canonical.execAggUpdateApply {part slot s} (h : Canonical s) :
    Canonical (outState s (Machine.execAggUpdateApply part slot s)) := by
  unfold Machine.execAggUpdateApply
  dsimp only
  split
  · exact h
  · split
    · exact h
    · split
      · exact h
      · exact h.draw.modPart.touchNodes

theorem Canonical.resultOf {s id o a} (h : Canonical s) : Canonical (s.resultOf id o a) := by
  unfold State.resultOf
  split
  · exact h.finish.ite h
  · split
    · exact h.opFault
    · exact h.finish
    · exact h

theorem Canonical.execAggQueryAccept {op s} (h : Canonical s) :
    Canonical (outState s (Machine.execAggQueryAccept op s)) := by
  unfold Machine.execAggQueryAccept
  split
  · exact h
  · split
    · split
      · exact h
      · split
        · exact h
        · exact h.finish.ite h
        · exact h.resultOf.ite (h.foldl (fun _ _ h1 => h1.serveAt))
    · exact h

theorem Canonical.execAggBuildComplete {op s} (h : Canonical s) :
    Canonical (outState s (Machine.execAggBuildComplete op s)) := by
  unfold Machine.execAggBuildComplete
  dsimp only
  split
  · split
    · split
      · exact h.modRegion.finish.ite h
      · exact h
    · exact h
  · exact h

theorem Canonical.execAggFreeDrain {op s} (h : Canonical s) : Canonical (outState s (Machine.execAggFreeDrain op s)) := by
  unfold Machine.execAggFreeDrain
  dsimp only
  split
  · exact h
  · split
    · exact h
    · exact h.ite h.keep.modPart.finish

/-! ## Tile registers, the matrix order and claims (spec/14_isa_matrix.md R360 to R367) -/

theorem Canonical.openTile {s w t pc o} (h : Canonical s) : Canonical (s.openTile w t pc o).2 := h.newOp.modWg

theorem Canonical.mixWords {s x x1 x2} (h : Canonical s) : Canonical (Machine.mixWords s x x1 x2).2 := by
  induction x2 generalizing s x x1 with
  | zero => exact h
  | succ _ ih =>
    unfold Machine.mixWords
    dsimp only
    split
    · exact ih h
    · exact ih h.draw

theorem Canonical.modCell {s d c f} (h : Canonical s) : Canonical (s.modCell d c f) := h.modDir

theorem Canonical.setPlace {s d c place} (h : Canonical s) : Canonical (s.setPlace d c place) := h.modCell.l2Trim

theorem Canonical.vacate {s hive place} (h : Canonical s) : Canonical (s.vacate hive place) :=
  h.foldl fun _ _ h1 => h1.ite h1.setPlace

theorem Canonical.grantClaim {s core} (h : Canonical s) : Canonical (s.grantClaim core) := by
  unfold State.grantClaim
  split
  · exact h
  · exact h.modCore.vacate.ite h

theorem Canonical.claim {s core c} (h : Canonical s) : Canonical (s.claim core c).2 := by
  unfold State.claim
  dsimp only
  split
  · exact h
  · split
    · exact h
    · exact h.modCore.grantClaim

theorem Canonical.unclaim {s core c} (h : Canonical s) : Canonical (s.unclaim core c) := h.modCore

theorem Canonical.bringBack {s core w op tid x} (h : Canonical s) : Canonical (s.bringBack core w op tid x).2 := by
  induction x generalizing s with
  | nil =>
    unfold State.bringBack
    exact h
  | cons _ _ ih =>
    unfold State.bringBack
    dsimp only
    split
    · exact h
    · split
      · exact ih h
      · split
        · next e1 => exact h.claim.snd e1
        · next e1 => exact ih (h.claim.snd e1).unclaim.modWg

theorem Canonical.storage {s core w op tid kinds c} (h : Canonical s) : Canonical (s.storage core w op tid kinds c).2 := by
  unfold State.storage
  split
  · next e => exact h.bringBack.snd e
  · next e =>
      have h1 := h.bringBack.snd e
      split
      · next e1 => exact h1.claim.snd e1
      · next e1 => exact (h1.claim.snd e1).unclaim

theorem Canonical.execMatrixClaimGrant {core s} (h : Canonical s) :
    Canonical (outState s (Machine.execMatrixClaimGrant core s)) :=
  h.grantClaim

theorem Canonical.writePayload {s w sec} (h : Canonical s) : Canonical (s.writePayload w sec) := by
  unfold State.writePayload
  dsimp only
  split
  · exact h
  · exact h.keep.writeSys

theorem Canonical.evictFor {s core c victims} (h : Canonical s) : Canonical (s.evictFor core c victims) := by
  unfold State.evictFor
  refine .foldl (fun s _ h1 => .ite h1 (.modWg ?_)) h
  cases (s.sections _)[4]? with
  | none => exact h1
  | some => exact h1.writePayload

theorem Canonical.execMatrixEviction {core s} (h : Canonical s) :
    Canonical (outState s (Machine.execMatrixEviction core s)) := by
  unfold Machine.execMatrixEviction
  dsimp only
  split
  · exact h
  · exact h.ite h.evictFor.grantClaim

/-! ## The Comb (spec/05_comb.md R94 to R118) -/

theorem Canonical.faultParked {s w t code addr} (h : Canonical s) : Canonical (s.faultParked w t code addr) := by
  unfold State.faultParked
  dsimp only
  split
  · exact h.modThread.ite h.modThread.deliverDeferred
  · exact h

theorem Canonical.startCopyBegin {d c x go s} (h : Canonical s) : Canonical (State.startCopy.begin_ d c x go s) :=
  h.openTile.modCell.release.ite h.openTile.modCell

theorem Canonical.startCopy {s d c x go} (h : Canonical s) : Canonical (s.startCopy d c x go) := by
  unfold State.startCopy
  dsimp only
  split
  · exact h.faultParked.ite h.startCopyBegin
  · exact h.startCopyBegin

theorem Canonical.define {s d c w shape id} (h : Canonical s) : Canonical ((s.define d c w shape id).getD s) := by
  unfold State.define
  dsimp only
  split
  · exact h
  · exact h.modCell.l2Trim.foldl fun _ _ h1 => h1.startCopy

theorem Canonical.openDef {s w t pc shape o src} (h : Canonical s) : Canonical (s.openDef w t pc shape o src).2 :=
  h.openTile

theorem Canonical.letDefine {s d c x} (h : Canonical s) : Canonical (s.letDefine d c x) := by
  induction x generalizing s with
  | nil =>
    unfold State.letDefine
    exact h.modCell
  | cons _ _ ih =>
    unfold State.letDefine
    dsimp only
    split
    · next e =>
        refine .release (.modCell (.some (.define ?_) e))
        split
        · exact h
        · exact h.openDef
    · refine ih (.faultParked ?_)
      split
      · exact h.modWg.keep
      · exact h

theorem Canonical.drained {s d c} (h : Canonical s) : Canonical (s.drained d c) := h.modCell.letDefine.ite h

theorem Canonical.onCell {o f s x} (hf : ∀ s x y z, Canonical s → Canonical (actState (f s x y z))) (h : Canonical s) :
    Canonical (actState (Machine.onCell o f s x)) := by
  unfold Machine.onCell
  split
  · exact h
  · exact hf _ _ _ _ h

theorem Canonical.parkCell {s x d c reads o shape id} (h : Canonical s) : Canonical (s.parkCell x d c reads o shape id) :=
  h.modThread.modCell

theorem Canonical.defineThrough {s x d c o shape} (h : Canonical s) :
    Canonical (actState (Machine.defineThrough s x d c o shape)) := by
  unfold Machine.defineThrough
  split
  · exact h
  · exact h.parkCell
  · split
    · exact h
    · split
      · next e1 =>
          split
          · next e2 => exact (h.openDef.snd e1).define.some e2
          · exact h

theorem Canonical.execCombJoin {c o s} (h : Canonical s) : Canonical (outState s (Machine.execCombJoin c o s)) := by
  unfold Machine.execCombJoin
  refine .isa (fun _ _ h1 => ?_) h
  dsimp only
  split
  · exact h1
  · split
    · exact h1
    · split
      · exact h1
      · split
        · exact h1
        · exact h1.modDir.modWg.put

theorem Canonical.execCombLeave {c o s} (h : Canonical s) : Canonical (outState s (Machine.execCombLeave c o s)) := by
  unfold Machine.execCombLeave
  refine .isa (fun _ _ h1 => ?_) h
  split
  · exact h1
  · exact h1.newOp.modWg.holdFor

theorem Canonical.execCombDef {c o s} (h : Canonical s) : Canonical (outState s (Machine.execCombDef c o s)) := by
  unfold Machine.execCombDef
  refine .isa (fun _ _ h1 => .onCell (fun _ _ _ _ h2 => ?_) h1) h
  dsimp only
  split
  · exact h2
  · split
    · exact h2
    · exact h2.defineThrough

theorem Canonical.execCombDefs {c o s} (h : Canonical s) : Canonical (outState s (Machine.execCombDefs c o s)) := by
  unfold Machine.execCombDefs
  refine .isa (fun _ _ h1 => .onCell (fun _ _ _ _ h2 => ?_) h1) h
  dsimp only
  split
  · exact h2
  · split
    · next e =>
        have h3 := h2.check.snd e
        split
        · exact h3
        · exact h3.defineThrough
    · next e => exact h2.check.snd e
    · next e => exact h2.check.snd e

theorem Canonical.readThrough {s x d c o} (h : Canonical s) : Canonical (actState (Machine.readThrough s x d c o)) := by
  unfold Machine.readThrough
  split
  · split
    · split
      · exact h
      · exact h.startCopy
    · exact h.startCopy
  · exact h.parkCell

theorem Canonical.execCombRd {c o s} (h : Canonical s) : Canonical (outState s (Machine.execCombRd c o s)) :=
  h.isa fun _ _ h1 => h1.onCell (fun _ _ _ _ h2 => h2.readThrough)

theorem Canonical.execCombRds {c o s} (h : Canonical s) : Canonical (outState s (Machine.execCombRds c o s)) := by
  unfold Machine.execCombRds
  refine .isa (fun _ _ h1 => .onCell (fun _ _ _ _ h2 => ?_) h1) h
  split
  · next e => exact (h2.check.snd e).readThrough
  · next e => exact h2.check.snd e
  · next e => exact h2.check.snd e

theorem Canonical.execCombKill {c o s} (h : Canonical s) : Canonical (outState s (Machine.execCombKill c o s)) := by
  unfold Machine.execCombKill
  refine .isa (fun _ _ h1 => .onCell (fun _ _ _ _ h2 => ?_) h1) h
  split
  · exact h2
  · exact h2
  · exact h2.modCell.drained

theorem Canonical.execCombQ {c o s} (h : Canonical s) : Canonical (outState s (Machine.execCombQ c o s)) :=
  h.isa fun _ _ h1 => h1.onCell (fun _ _ _ _ h2 => h2.newOp)

theorem Canonical.execCombMap {c o s} (h : Canonical s) : Canonical (outState s (Machine.execCombMap c o s)) := by
  unfold Machine.execCombMap
  refine .isa (fun _ _ h1 => ?_) h
  dsimp only
  split
  · exact h1
  · split
    · exact h1
    · exact h1.modWg

theorem Canonical.execCombDefinitionComplete {op s} (h : Canonical s) :
    Canonical (outState s (Machine.execCombDefinitionComplete op s)) := by
  unfold Machine.execCombDefinitionComplete
  dsimp only
  split
  · exact h
  · split
    · split
      · exact h
      · split
        · split
          · next e3 =>
              have h1 := (h.iteSnd h.storage).snd e3
              exact h1.modCell.modWg.opFault.ite (h1.modCell.endTile.ite h1.mixWords.modCell.endTile)
          · next e3 => exact (h.iteSnd h.storage).snd e3
        · exact h.modCell.modWg.opFault.ite (h.modCell.endTile.ite h.mixWords.modCell.endTile)
        · exact h
    · exact h

theorem Canonical.copyFails {s id o code} (h : Canonical s) : Canonical (s.copyFails id o code) :=
  h.ite h.modWg.opFault

theorem Canonical.execCombCopyComplete {op s} (h : Canonical s) :
    Canonical (outState s (Machine.execCombCopyComplete op s)) := by
  unfold Machine.execCombCopyComplete
  dsimp only
  split
  · exact h
  · split
    · split
      · exact h
      · split
        · split
          · exact h
          · split
            · exact h.copyFails.endTile.modCell.drained
            · split
              · next e3 => exact ((h.iteSnd h.storage).snd e3).modWg.endTile.modCell.drained
              · next e3 => exact (h.iteSnd h.storage).snd e3
        · exact h.ite (h.copyFails.endTile.modCell.drained.ite h.writeAt.endTile.modCell.drained)
        · exact h
    · exact h

theorem Canonical.endMembership {s w} (h : Canonical s) : Canonical (s.endMembership w) := by
  unfold State.endMembership
  dsimp only
  split
  · next e _ => exact ((h.mapWgs (by intro e; rfl)).foldl (fun _ _ h1 => h1.setPlace)).modDir.modWg
  · exact h

theorem Canonical.expel {s w} (h : Canonical s) : Canonical (s.expel w) := by
  unfold State.expel
  dsimp only
  split
  · exact h
  · exact h.foldl fun _ _ h1 => h1.unpark.faultParked

theorem Canonical.execCombLeaveComplete {wg s} (h : Canonical s) :
    Canonical (outState s (Machine.execCombLeaveComplete wg s)) := by
  unfold Machine.execCombLeaveComplete
  dsimp only
  split
  · exact h
  · exact h.ite (h.expel.ite h.expel.endMembership.finish)

theorem Canonical.execCombPlacementMove {dir cell place s} (h : Canonical s) :
    Canonical (outState s (Machine.execCombPlacementMove dir cell place s)) :=
  h.setPlace.ite h

/-! ## Control and system instructions (spec/13_isa_control.md) -/

theorem Canonical.goto {s w t pc} (h : Canonical s) : Canonical (s.goto w t pc) := h.modThread

theorem Canonical.execBra {c o s} (h : Canonical s) : Canonical (outState s (Machine.execBra c o s)) :=
  h.isa fun _ _ h1 => h1.goto

theorem Canonical.execBraI {c o s} (h : Canonical s) : Canonical (outState s (Machine.execBraI c o s)) :=
  h.isa fun _ _ h1 => h1.goto

theorem Canonical.callThrough {o target hd q s x} (h : Canonical s) :
    Canonical (actState (Machine.callThrough o target hd q s x)) := by
  unfold Machine.callThrough
  dsimp only
  refine .iteAct h ?_
  split
  · exact h
  · split
    · exact h
    · exact h.callFrame

theorem Canonical.execCallF {c o s} (h : Canonical s) : Canonical (outState s (Machine.execCallF c o s)) :=
  h.isa fun _ _ h1 => h1.callThrough

theorem Canonical.execCallFH {c o s} (h : Canonical s) : Canonical (outState s (Machine.execCallFH c o s)) :=
  h.isa fun _ _ h1 => h1.callThrough

theorem Canonical.execCallI {c o s} (h : Canonical s) : Canonical (outState s (Machine.execCallI c o s)) :=
  h.isa fun _ _ h1 => h1.callThrough

theorem Canonical.execCallIH {c o s} (h : Canonical s) : Canonical (outState s (Machine.execCallIH c o s)) :=
  h.isa fun _ _ h1 => h1.callThrough

theorem Canonical.execCallQ {c o s} (h : Canonical s) : Canonical (outState s (Machine.execCallQ c o s)) :=
  h.isa fun _ _ h1 => h1.callThrough

theorem Canonical.execRet {c o s} (h : Canonical s) : Canonical (outState s (Machine.execRet c o s)) := by
  unfold Machine.execRet
  refine .isa (fun _ _ h1 => ?_) h
  split
  · split
    · exact h1
    · exact h1.retFrame
  · exact h1

theorem Canonical.execUnwind {c o s} (h : Canonical s) : Canonical (outState s (Machine.execUnwind c o s)) := by
  unfold Machine.execUnwind
  refine .isa (fun _ _ h1 => ?_) h
  split
  · next e => exact h1.unwind.some e
  · exact h1

theorem Canonical.execExit {c o s} (h : Canonical s) : Canonical (outState s (Machine.execExit c o s)) :=
  h.isa fun _ _ h1 => h1.freeFrames.modThread

theorem Canonical.fetchWords {s w ts x x1} (h : Canonical s) : Canonical (Machine.fetchWords s w ts x x1).2 := by
  induction x1 generalizing s x with
  | zero =>
    unfold Machine.fetchWords
    exact h
  | succ _ ih =>
    unfold Machine.fetchWords
    split
    · next e => exact h.fetchWord.snd e
    · next e =>
        have h1 := h.fetchWord.snd e
        split <;> (next e1 => exact (ih h1).snd e1)

theorem Canonical.execLoopCap {c o s} (h : Canonical s) : Canonical (outState s (Machine.execLoopCap c o s)) := by
  unfold Machine.execLoopCap
  refine .isa (fun _ _ h1 => ?_) h
  dsimp only
  split
  · next e => exact h1.fetchWords.snd e
  · next e => exact h1.fetchWords.snd e
  · next e =>
      have h2 := h1.fetchWords.snd e
      split
      · exact h2
      · split
        · exact h2.goto
        · exact h2.modThread

theorem Canonical.execLoopStep {c o s} (h : Canonical s) : Canonical (outState s (Machine.execLoopStep c o s)) :=
  h.isa fun _ _ h1 => h1

theorem Canonical.cstWord {s x va} (h : Canonical s) : Canonical (Machine.cstWord s x va).2 := by
  unfold Machine.cstWord
  split
  · next e => exact h.check.snd e
  · next e => exact h.check.snd e
  · next e =>
      have h1 := h.check.snd e
      split
      · exact h1
      · split
        · exact h1.sendWants
        · next e2 => exact h1.fetchAs.snd e2
        · next e2 => exact h1.fetchAs.snd e2
  · next e => exact h.check.snd e

theorem Canonical.cstWords {s x x1 x2} (h : Canonical s) : Canonical (Machine.cstWords s x x1 x2).2 := by
  induction x2 generalizing s x1 with
  | zero =>
    unfold Machine.cstWords
    exact h
  | succ _ ih =>
    unfold Machine.cstWords
    split
    · next e => exact h.cstWord.snd e
    · next e =>
        have h1 := h.cstWord.snd e
        split <;> (next e1 => exact (ih h1).snd e1)

theorem Canonical.findBucket {s x nd vs x1 x2} (h : Canonical s) : Canonical (Machine.findBucket s x nd vs x1 x2).2 := by
  induction x2 generalizing s x1 with
  | zero =>
    unfold Machine.findBucket
    exact h
  | succ _ ih =>
    unfold Machine.findBucket
    split
    · next e => exact h.cstWords.snd e
    · next e =>
        have h1 := h.cstWords.snd e
        exact h1.iteSnd (h1.iteSnd (ih h1))

theorem Canonical.execBktSel {c o s} (h : Canonical s) : Canonical (outState s (Machine.execBktSel c o s)) := by
  unfold Machine.execBktSel
  refine .isa (fun s1 x h1 => .actAfter ?_) h
  extract_lets va k0
  split
  · next e => exact h1.cstWord.snd e
  · next e => exact h1.cstWord.snd e
  · next e =>
      have h2 := h1.cstWord.snd e
      extract_lets nd nb es beyond names vs
      clear_value beyond names vs
      refine .iteAct h2 (.iteAct h2 (.iteAct ?_ ?_))
      · exact h2.foldl fun _ _ h3 => h3.modThread
      · split
        · next e1 => exact h2.findBucket.snd e1
        · next e1 => exact h2.findBucket.snd e1
        · next e1 => exact (h2.findBucket.snd e1).newOp

theorem Canonical.execElect {c o s} (h : Canonical s) : Canonical (outState s (Machine.execElect c o s)) := by
  unfold Machine.execElect
  refine .isa (fun _ _ h1 => ?_) ?_
  · dsimp only
    split
    · split
      · exact h1.modWg.putPred
      · split
        · exact h1
        · exact h1.modWg.putPred
    · exact h1
  · split
    · exact h.modWg
    · exact h

theorem Canonical.execYield {c o s} (h : Canonical s) : Canonical (outState s (Machine.execYield c o s)) :=
  h.isa fun _ _ h1 => h1.modThread

theorem Canonical.execNop {c o s} (h : Canonical s) : Canonical (outState s (Machine.execNop c o s)) :=
  h.isa fun _ _ h1 => h1

theorem Canonical.openBarrier {s w n} (h : Canonical s) : Canonical (s.openBarrier w n) := by
  unfold State.openBarrier
  dsimp only
  split
  · exact h
  · refine .foldl (fun _ _ h1 => ?_) h.modWg
    split
    · exact h1.ite (h1.modThread.release.ite h1.modThread)
    · exact h1

theorem Canonical.settleBarrier {s w n} (h : Canonical s) : Canonical (s.settleBarrier w n) := by
  unfold State.settleBarrier
  split
  · exact h.openBarrier.ite h
  · exact h

theorem Canonical.onBarrier {o f s x} (hf : ∀ s x y z, Canonical s → Canonical (actState (f s x y z))) (h : Canonical s) :
    Canonical (actState (Machine.onBarrier o f s x)) := by
  unfold Machine.onBarrier
  dsimp only
  split
  · exact hf _ _ _ _ h
  · exact h

theorem Canonical.setBarrier {s w n b} (h : Canonical s) : Canonical (Machine.setBarrier s w n b) := h.modWg

theorem Canonical.execBarInit {c o s} (h : Canonical s) : Canonical (outState s (Machine.execBarInit c o s)) := by
  unfold Machine.execBarInit
  refine .isa (fun _ _ h1 => ?_) h
  dsimp only
  split
  · exact h1
  · split
    · exact h1
    · split
      · exact h1.setBarrier
      · split
        · exact h1
        · exact .iteAct h1 h1.setBarrier.settleBarrier

theorem Canonical.execBarArrive {c o s} (h : Canonical s) : Canonical (outState s (Machine.execBarArrive c o s)) := by
  unfold Machine.execBarArrive
  refine .isa (fun _ _ h1 => .onBarrier (fun _ _ _ _ h2 => ?_) h1) h
  dsimp only
  split
  · exact h2.begun
  · split
    · exact h2.modThread
    · exact h2.modThread.setBarrier.settleBarrier

theorem Canonical.execBarWait {c o s} (h : Canonical s) : Canonical (outState s (Machine.execBarWait c o s)) := by
  unfold Machine.execBarWait
  refine .isa (fun _ _ h1 => .onBarrier (fun _ _ _ _ h2 => ?_) h1) h
  dsimp only
  split <;> split <;> exact h2.modThread

theorem Canonical.execBarTx {c o s} (h : Canonical s) : Canonical (outState s (Machine.execBarTx c o s)) := by
  unfold Machine.execBarTx
  refine .isa (fun _ _ h1 => .onBarrier (fun _ _ _ _ h2 => ?_) h1) h
  dsimp only
  split
  · exact h2.setBarrier.settleBarrier
  · exact h2

theorem Canonical.teamFence {i c m s} (h : Canonical s) : Canonical (outState s (Machine.teamFence i c m s)) := by
  unfold Machine.teamFence
  dsimp only
  split
  · exact h
  · split
    · exact h.isa fun _ _ h1 => h1
    · exact ((h.foldl (fun _ _ h1 => h1.begun)).foldl (fun _ _ h1 => h1.modThread)).keep

theorem Canonical.execTeamSync {c o s} (h : Canonical s) : Canonical (outState s (Machine.execTeamSync c o s)) :=
  h.teamFence

theorem Canonical.execTeamSyncImm {c o s} (h : Canonical s) : Canonical (outState s (Machine.execTeamSyncImm c o s)) :=
  h.teamFence

theorem Canonical.execWait {c o s} (h : Canonical s) : Canonical (outState s (Machine.execWait c o s)) := by
  unfold Machine.execWait
  refine .isa (fun _ _ h1 => ?_) h
  split <;> exact h1

theorem Canonical.execTrap {c o s} (h : Canonical s) : Canonical (outState s (Machine.execTrap c o s)) :=
  h.isa fun _ _ h1 => h1

theorem Canonical.execBrk {c o s} (h : Canonical s) : Canonical (outState s (Machine.execBrk c o s)) :=
  h.isa fun _ _ h1 => h1

theorem Canonical.execRdsr {c o s} (h : Canonical s) : Canonical (outState s (Machine.execRdsr c o s)) :=
  h.isa fun _ _ h1 => h1.put

theorem Canonical.execWrsr {c o s} (h : Canonical s) : Canonical (outState s (Machine.execWrsr c o s)) :=
  h.isa fun _ _ h1 => h1.modThread

theorem Canonical.digestOf {s w} (h : Canonical s) : Canonical (s.digestOf w).2 := by
  unfold State.digestOf
  dsimp only
  split
  · exact h
  · split
    · exact h
    · exact h.nodeBits

theorem Canonical.execDigestRd {c o s} (h : Canonical s) : Canonical (outState s (Machine.execDigestRd c o s)) := by
  unfold Machine.execDigestRd
  refine .isa (fun _ _ h1 => ?_) h
  dsimp only
  split
  · exact h1.begun
  · exact (h1.discard.digestOf.foldl (fun _ _ h2 => h2.put)).putPred

theorem Canonical.tlbDrop {s part a b} (h : Canonical s) : Canonical (s.tlbDrop part a b) := h.keep

theorem Canonical.execTlbInv {c o s} (h : Canonical s) : Canonical (outState s (Machine.execTlbInv c o s)) := by
  unfold Machine.execTlbInv
  refine .isa (fun _ _ h1 => ?_) h
  dsimp only
  split
  · split <;> exact h1
  · split
    · exact h1.begun
    · split
      · exact h1.discard.tlbDrop
      · exact h1.discard.tlbDrop.modThread

theorem Canonical.execSleep {c o s} (h : Canonical s) : Canonical (outState s (Machine.execSleep c o s)) := by
  unfold Machine.execSleep
  refine .isa (fun _ _ h1 => ?_) h
  split
  · exact h1
  · exact h1.modThread

theorem Canonical.execHalt {c o s} (h : Canonical s) : Canonical (outState s (Machine.execHalt c o s)) :=
  h.isa fun _ _ h1 => h1.modWg

theorem Canonical.execStallCountExpire {wg tid s} (h : Canonical s) :
    Canonical (outState s (Machine.execStallCountExpire wg tid s)) :=
  h.modThread

theorem Canonical.execYieldHoldExpire {wg tid s} (h : Canonical s) :
    Canonical (outState s (Machine.execYieldHoldExpire wg tid s)) :=
  h.modThread

theorem Canonical.execSleepExpire {wg tid s} (h : Canonical s) :
    Canonical (outState s (Machine.execSleepExpire wg tid s)) := by
  unfold Machine.execSleepExpire
  split
  · exact h.release.ite h
  · exact h

theorem Canonical.execCalleeQueueDrain {core s} (h : Canonical s) :
    Canonical (outState s (Machine.execCalleeQueueDrain core s)) := by
  unfold Machine.execCalleeQueueDrain
  dsimp only
  split
  · exact h
  · split
    · exact h
    · split
      · exact h.modCore
      · exact h.modCore.foldl fun _ _ h1 => h1.modThread

/-! ## The array, the epilogue and the scaling rings (spec/14_isa_matrix.md R368 to R387) -/

theorem Canonical.execMsSet {c o s} (h : Canonical s) : Canonical (outState s (Machine.execMsSet c o s)) := by
  unfold Machine.execMsSet
  refine .isa (fun _ _ h1 => ?_) h
  dsimp only
  split
  · exact h1
  · split
    · exact h1.begun
    · split
      · next e => exact (h1.storage.snd e).begun
      · next e => exact (h1.storage.snd e).modWg.put

theorem Canonical.execMLd {c o s} (h : Canonical s) : Canonical (outState s (Machine.execMLd c o s)) := by
  unfold Machine.execMLd
  refine .isa (fun _ _ h1 => ?_) h
  dsimp only
  split
  · split
    · exact h1
    · exact h1.openTile
  · exact h1
  · exact h1

theorem Canonical.execMSt {c o s} (h : Canonical s) : Canonical (outState s (Machine.execMSt c o s)) := by
  unfold Machine.execMSt
  refine .isa (fun _ _ h1 => ?_) h
  dsimp only
  split
  · split
    · exact h1
    · exact h1.openTile
  · exact h1
  · exact h1

theorem Canonical.execMZero {c o s} (h : Canonical s) : Canonical (outState s (Machine.execMZero c o s)) := by
  unfold Machine.execMZero
  refine .isa (fun _ _ h1 => ?_) h
  dsimp only
  split
  · exact h1
  · split
    · exact h1
    · exact h1.openTile

theorem Canonical.execAccClr {c o s} (h : Canonical s) : Canonical (outState s (Machine.execAccClr c o s)) :=
  h.isa fun _ _ h1 => h1.openTile

theorem Canonical.failTile {s w id code} (h : Canonical s) : Canonical (s.failTile w id code) := h.modWg.opFault

theorem Canonical.tileStorage {s g id o t} (h : Canonical s) : Canonical (s.tileStorage g id o t).2 := by
  unfold State.tileStorage
  dsimp only
  split
  · next e => exact (h.storage.snd e).modWg
  · next e => exact h.storage.snd e

theorem Canonical.moveTile {s g id o x} (h : Canonical s) : Canonical (Machine.moveTile s g id o x) := by
  unfold Machine.moveTile
  dsimp only
  split
  · split
    · exact h.failTile
    · exact h.mixWords.modWg.endTile
  · exact h.failTile.ite (h.foldl (fun _ _ h1 => h1.writeAt)).endTile
  · exact h.modWg.endTile
  · exact h.modWg.endTile
  · exact h

theorem Canonical.execTileTransferComplete {wg s} (h : Canonical s) :
    Canonical (outState s (Machine.execTileTransferComplete wg s)) := by
  unfold Machine.execTileTransferComplete
  dsimp only
  split
  · split
    all_goals
      split
      · exact h
      · split
        · next e => exact (h.tileStorage.snd e).moveTile
        · next e => exact h.tileStorage.snd e
  · exact h

theorem Canonical.readBlock {s x va n} (h : Canonical s) : Canonical (Machine.readBlock s x va n).2 := by
  unfold Machine.readBlock
  split <;> (next e => exact h.check.snd e)

theorem Canonical.actOfError {s x} (h : Canonical s) : Canonical (actState (Act.ofError s x)) := by
  unfold Act.ofError
  split <;> exact h

theorem Canonical.execRsvAlloc {c o s} (h : Canonical s) : Canonical (outState s (Machine.execRsvAlloc c o s)) := by
  unfold Machine.execRsvAlloc
  refine .isa (fun _ _ h1 => ?_) h
  dsimp only
  split
  · next e => exact (h1.readBlock.snd e).actOfError
  · next e _ =>
      have h2 := h1.readBlock.snd e
      split
      · exact h2
      · split
        · exact h2.actOfError
        · split
          · exact h2
          · split
            · next e3 => exact h2.storage.snd e3
            · next e3 => exact (h2.storage.snd e3).modWg.put
  · next e _ => exact h1.readBlock.snd e

theorem Canonical.execRsvFree {c o s} (h : Canonical s) : Canonical (outState s (Machine.execRsvFree c o s)) := by
  unfold Machine.execRsvFree
  refine .isa (fun _ _ h1 => ?_) h
  dsimp only
  split
  · split
    · exact h1.begun
    · exact h1.modWg
  · exact h1

theorem Canonical.arrayThrough {outl a s x} (h : Canonical s) : Canonical (actState (Machine.arrayThrough outl a s x)) := by
  unfold Machine.arrayThrough
  dsimp only
  split
  · next e => exact (h.readBlock.snd e).actOfError
  · next e _ =>
      have h1 := h.readBlock.snd e
      split
      · exact h1
      · refine .iteAct h1 ?_
        split
        · exact h1
        · split
          · exact h1.actOfError
          · split
            · split
              · exact h1
              · exact h1.openTile
            · exact h1
  · next e _ => exact h.readBlock.snd e

theorem Canonical.execMma {c o s} (h : Canonical s) : Canonical (outState s (Machine.execMma c o s)) :=
  h.isa fun _ _ h1 => h1.arrayThrough

theorem Canonical.execOutlAdd {c o s} (h : Canonical s) : Canonical (outState s (Machine.execOutlAdd c o s)) :=
  h.isa fun _ _ h1 => h1.arrayThrough

theorem Canonical.execMmaComplete {wg s} (h : Canonical s) : Canonical (outState s (Machine.execMmaComplete wg s)) := by
  unfold Machine.execMmaComplete
  dsimp only
  split
  · split
    · next e2 => exact h.tileStorage.snd e2
    · next e2 =>
        have h1 := h.tileStorage.snd e2
        exact h1.failTile.ite h1.modWg.endTile
  · exact h

theorem Canonical.execMmaQ {c o s} (h : Canonical s) : Canonical (outState s (Machine.execMmaQ c o s)) :=
  h.isa fun _ _ h1 => h1.newOp.finish.put

theorem Canonical.askRing {s src p n v id} (h : Canonical s) : Canonical (s.askRing src p n v id) := h.send.setPieces

theorem Canonical.execAmaxRd {c o s} (h : Canonical s) : Canonical (outState s (Machine.execAmaxRd c o s)) :=
  h.isa fun _ _ h1 => h1.openOp.askRing.holdFor

theorem Canonical.execScalingRingPush {part s} (h : Canonical s) :
    Canonical (outState s (Machine.execScalingRingPush part s)) :=
  h.foldl fun _ _ h1 => h1.serveAt

theorem Canonical.epiCell {s x o d t} (h : Canonical s) : Canonical (actState (Machine.epiCell s x o d t)) := by
  unfold Machine.epiCell
  dsimp only
  split
  · exact h
  · split
    · exact h
    · split
      · exact h
      · exact h.openTile.parkCell
      · split
        · next e2 => exact h.openTile.define.some e2
        · exact h

theorem Canonical.execEpi {c o s} (h : Canonical s) : Canonical (outState s (Machine.execEpi c o s)) := by
  unfold Machine.execEpi
  refine .isa (fun _ _ h1 => ?_) h
  dsimp only
  split
  · next e => exact (h1.readBlock.snd e).actOfError
  · next e =>
      have h2 := h1.readBlock.snd e
      split
      · exact h2
      · split
        · exact h2.actOfError
        · exact h2.actOfError
        · exact h2.actOfError
        · split
          · exact h2.epiCell
          · exact h2.openTile

theorem Canonical.epiFails {s id o cell} (h : Canonical s) : Canonical (Machine.epiFails s id o cell) := by
  unfold Machine.epiFails
  refine .failTile ?_
  split
  · exact h.modCell
  · exact h

theorem Canonical.epiEffect {s g id o d scale bias m0 cell} (h : Canonical s) :
    Canonical (Machine.epiEffect s g id o d scale bias m0 cell) := by
  unfold Machine.epiEffect
  extract_lets n acc a out s1 s2 s3
  have h1 : Canonical s1 := by
    cases cell with
    | none => exact h.foldl fun _ _ h1 => h1.writeAt
    | some => exact h.modCell
  have h2 : Canonical s2 := .ite h1.writeAt h1
  have h3 : Canonical s3 := .ite h2.modWg h2
  exact .ite h3.askRing h3.modWg.endTile

theorem Canonical.execEpiComplete {wg s} (h : Canonical s) : Canonical (outState s (Machine.execEpiComplete wg s)) := by
  unfold Machine.execEpiComplete
  dsimp only
  split
  · split
    · exact h
    · split
      · split
        · exact h
        · split
          · next e2 => exact h.tileStorage.snd e2
          · next e2 =>
              have h1 := h.tileStorage.snd e2
              exact h1.epiFails.ite h1.epiEffect
      · split
        · exact h
        · split
          · next e2 => exact h.tileStorage.snd e2
          · next e2 =>
              have h1 := h.tileStorage.snd e2
              exact h1.epiFails.ite h1.epiEffect
  · exact h

/-! ## Engine commands and their units (spec/12_isa_memory.md R317 to R329) -/

theorem Canonical.lowerTx {s w m n} (h : Canonical s) : Canonical (s.lowerTx w m n).1 := by
  unfold State.lowerTx
  dsimp only
  split
  · exact h
  · exact (h.modWg.openBarrier.ite h).modWg.iteFst (h.modWg.openBarrier.ite h).modWg

theorem Canonical.addTx {s w m n} (h : Canonical s) : Canonical (s.addTx w m n) := h.modWg.settleBarrier

theorem Canonical.modBitmap {s w c f} (h : Canonical s) : Canonical (s.modBitmap w c f) := h.modWg

theorem Canonical.execCbRd {c o s} (h : Canonical s) : Canonical (outState s (Machine.execCbRd c o s)) :=
  h.isa fun _ _ h1 => h1.put

theorem Canonical.descLocal {s x va n} (h : Canonical s) : Canonical (Machine.descLocal s x va n).2 := by
  unfold Machine.descLocal
  split
  · next e => exact h.check.snd e
  · next e =>
      have h1 := h.check.snd e
      split <;> exact h1
  · next e => exact h.check.snd e

theorem Canonical.descGlobal {s x va n} (h : Canonical s) : Canonical (Machine.descGlobal s x va n).2 := by
  unfold Machine.descGlobal
  refine .foldlSnd (fun _ _ h1 => ?_) h
  split
  · exact h1
  · split
    · next e => exact h1.check.snd e
    · next e => exact h1.check.snd e
    · next e => exact h1.check.snd e
    · next e =>
        have h2 := h1.check.snd e
        split
        · next e1 =>
            have h3 := h2.readThroughL1.snd e1
            exact h3.readAhead.ite h3
        · next e1 => exact h2.readThroughL1.snd e1
        · next e1 => exact h2.readThroughL1.snd e1

theorem Canonical.readDesc {s x va n} (h : Canonical s) : Canonical (Machine.readDesc s x va n).2 := by
  unfold Machine.readDesc
  split
  · exact h.descGlobal
  · exact h.descLocal

theorem Canonical.engineChecks {opk o s x} (h : Canonical s) : Canonical (Machine.engineChecks opk o s x).2 := by
  unfold Machine.engineChecks
  dsimp only
  split
  · exact h
  · split
    · next e => exact h.readDesc.snd e
    · next e _ => exact h.readDesc.snd e
    · next e _ =>
        have h1 := h.readDesc.snd e
        split
        · exact h1
        · split
          · exact h1
          · split
            · split
              · exact h1
              · split <;> exact h1
            · split
              · exact h1
              · split <;> exact h1

theorem Canonical.engineIssue {i opk o s x bs bar recv} (h : Canonical s) :
    Canonical (actState (Machine.engineIssue i opk o s x bs bar recv)) := by
  unfold Machine.engineIssue
  dsimp only
  split
  · exact h.modThread.dropStage
  · split
    · exact h.modThread
    · split
      · exact h.openOp.modBitmap.modWg.addTx
      · exact h.openOp.modBitmap.modWg

theorem Canonical.engineThrough {i opk o s x} (h : Canonical s) :
    Canonical (actState (Machine.engineThrough i opk o s x)) := by
  unfold Machine.engineThrough
  refine .actAfter ?_
  split
  · exact h.engineIssue
  · split
    · next e => exact h.engineChecks.snd e
    · next e => exact h.engineChecks.snd e
    · next e => exact (h.engineChecks.snd e).engineIssue

theorem Canonical.execCpTensor {c o s} (h : Canonical s) : Canonical (outState s (Machine.execCpTensor c o s)) :=
  h.isa fun _ _ h1 => h1.engineThrough

theorem Canonical.execCpGather {c o s} (h : Canonical s) : Canonical (outState s (Machine.execCpGather c o s)) :=
  h.isa fun _ _ h1 => h1.engineThrough

theorem Canonical.execCpScatter {c o s} (h : Canonical s) : Canonical (outState s (Machine.execCpScatter c o s)) :=
  h.isa fun _ _ h1 => h1.engineThrough

theorem Canonical.execCpMcast {c o s} (h : Canonical s) : Canonical (outState s (Machine.execCpMcast c o s)) :=
  h.isa fun _ _ h1 => h1.engineThrough

theorem Canonical.execCpFill {c o s} (h : Canonical s) : Canonical (outState s (Machine.execCpFill c o s)) :=
  h.isa fun _ _ h1 => h1.engineThrough

theorem Canonical.moveCharge {s w c m} (h : Canonical s) : Canonical ((Machine.moveCharge s w c m).toOption.getD s) := by
  unfold Machine.moveCharge
  dsimp only
  split
  · exact h
  · split
    · exact h
    · split
      · exact h
      · dsimp only [Except.toOption, Option.getD]
        refine .modBitmap (.addTx ?_)
        split
        · exact h.addTx
        · exact h

theorem Canonical.rerun {s w t c pc} (h : Canonical s) : Canonical (s.rerun w t c pc) := h.newOp.modBitmap.modWg

theorem Canonical.resumeEngine {s w c} (h : Canonical s) : Canonical (s.resumeEngine w c) := h.rerun.ite h

theorem Canonical.execCpResume {c o s} (h : Canonical s) : Canonical (outState s (Machine.execCpResume c o s)) := by
  unfold Machine.execCpResume
  refine .isa (fun _ _ h1 => ?_) h
  dsimp only
  split
  · exact h1
  · split
    · exact h1
    · split
      · exact h1
      · split
        · split
          · exact h1
          · next e2 => exact (h1.moveCharge.ok e2).rerun
        · exact h1.openOp.finish

theorem Canonical.endCommand {s w c st} (h : Canonical s) : Canonical (s.endCommand w c st) := h.modBitmap.finish

theorem Canonical.checkCommand {s w c} (h : Canonical s) : Canonical (s.checkCommand w c) := h.endCommand.ite h

theorem Canonical.execEngineCommandDispatch {wg s} (h : Canonical s) :
    Canonical (outState s (Machine.execEngineCommandDispatch wg s)) := by
  unfold Machine.execEngineCommandDispatch
  dsimp only
  split
  · exact h
  · split
    · exact h
    · split
      · exact h.modWg
      · split
        · split
          · exact h
          · split
            · exact h.modWg.modBitmap.checkCommand
            · split
              · exact h
              · exact h.modWg.modBitmap.checkCommand
              · split
                · exact h.modWg.endCommand.addTx
                · exact h.modWg.endCommand
        · exact h.modWg

theorem Canonical.movesOf {s w opk d u} (h : Canonical s) : Canonical (Machine.movesOf s w opk d u).2 := by
  unfold Machine.movesOf
  dsimp only
  split
  · split
    · next e1 => exact h.readRange.snd e1
    · next e1 =>
        have h1 := h.readRange.snd e1
        exact h1.iteSnd h1
  · exact h

theorem Canonical.movePlaces {s w g b m} (h : Canonical s) : Canonical (Machine.movePlaces s w g b m).2 := by
  unfold Machine.movePlaces
  split
  · split <;> (next e1 => exact h.checkNow.snd e1)
  · split <;> (next e => exact h.checkNow.snd e)

theorem Canonical.moveBytes {s w m} (h : Canonical s) : Canonical (Machine.moveBytes s w m).2 := by
  unfold Machine.moveBytes
  split
  · exact h
  · split
    · next e1 => exact h.checkNow.snd e1
    · next e1 => exact h.checkNow.snd e1
    · next e1 =>
        have h1 := h.checkNow.snd e1
        split <;> (next e2 => exact h1.readAt.snd e2)

theorem Canonical.readyMoves {w g b x s} (h : Canonical s) : Canonical (Machine.readyMoves w g b x s).2.2 := by
  induction x generalizing s with
  | nil =>
    unfold Machine.readyMoves
    exact h
  | cons _ _ ih =>
    unfold Machine.readyMoves
    exact ih h.moveBytes.movePlaces

theorem Canonical.unitFault {s w c u code addr} (h : Canonical s) : Canonical (s.unitFault w c u code addr) :=
  (h.modBitmap.ite h).ite (h.modBitmap.ite h).draw.recordFault

theorem Canonical.lowerAll {s m x} (h : Canonical s) : Canonical (s.lowerAll m x).2 := by
  induction x generalizing s with
  | nil =>
    unfold State.lowerAll
    exact h
  | cons _ _ ih =>
    unfold State.lowerAll
    exact (ih h).iteSnd (ih h.lowerTx)

theorem Canonical.lowerFor {s b l} (h : Canonical s) : Canonical (s.lowerFor b l).2 := by
  unfold State.lowerFor
  split
  · exact h
  · split <;> (next e1 => exact h.lowerAll.snd e1)

theorem Canonical.unitMove {s w c u mask g} (h : Canonical s) : Canonical (s.unitMove w c u mask g).2 := by
  unfold State.unitMove
  dsimp only
  split
  · next e => exact (h.movesOf.snd e).keep
  · next e => exact h.movesOf.snd e
  · next e => exact (h.movesOf.snd e).lowerFor
  · next e =>
      have h1 := h.movesOf.snd e
      split
      · next e1 => exact (h1.readyMoves.last e1).keep
      · next e1 =>
          have h2 := h1.readyMoves.last e1
          split
          · refine .lowerFor (.foldl (fun _ _ h3 => ?_) h2)
            split
            · refine .foldl (fun _ _ h4 => ?_) h3
              split
              · exact h4.writeAt
              · exact h4
            · exact h3
          · refine .iteSnd (.lowerFor (.foldl (fun _ _ h3 => ?_) h2)) (.foldl (fun _ _ h3 => ?_) h2)
            · split
              · refine .foldl (fun _ _ h4 => ?_) h3
                split
                · exact h4.writeAt
                · exact h4
              · exact h3
            · split
              · refine .foldl (fun _ _ h4 => ?_) h3
                split
                · exact h4.writeAt
                · exact h4
              · exact h3

theorem Canonical.unitEnd {s w c u x} (h : Canonical s) : Canonical (s.unitEnd w c u x) := by
  unfold State.unitEnd
  split
  · exact h.modBitmap.checkCommand
  · exact h.modBitmap.unitFault.checkCommand
  · exact h.modBitmap.unitFault.checkCommand

theorem Canonical.runUnit {s w c u mask g} (h : Canonical s) : Canonical (s.runUnit w c u mask g) :=
  h.viaNet (fun _ h1 => h1.unitMove) fun _ _ h1 => h1.unitEnd

theorem Canonical.execEngineUnitComplete {wg cb unit part s} (h : Canonical s) :
    Canonical (outState s (Machine.execEngineUnitComplete wg cb unit part s)) := by
  unfold Machine.execEngineUnitComplete
  dsimp only
  split
  · exact h
  · exact h.ite h.runUnit

/-! ## Completion of launches, graph nodes, guards and waggles (spec/08_scheduling.md) -/

theorem Canonical.signal {s p v} (h : Canonical s) : Canonical (s.signal p v) := h.modPart.ite h.keep

theorem Canonical.increment {s p asid root va ltag wgidx} (h : Canonical s) :
    Canonical (s.increment p asid root va ltag wgidx) := by
  unfold State.increment
  dsimp only
  split
  · exact h
  · split
    · exact h.event
    · split
      · exact h.event
      · split
        · next e1 => exact (h.xnow.snd e1).keep
        · next e1 => exact (h.xnow.snd e1).event
        · next e1 =>
            have h1 := h.xnow.snd e1
            split
            · exact h1.event
            · exact h1.event.ite h1.relAt
      · exact h.event

theorem Canonical.commandDone {s p q index} (h : Canonical s) : Canonical (s.commandDone p q index) :=
  h.modPart.ite h.modPart.signal

theorem Canonical.endRun {s id} (h : Canonical s) : Canonical (s.endRun id) := by
  unfold State.endRun
  dsimp only
  split
  · exact h
  · split
    · exact h
    · split
      · exact h.keep.finish
      · exact h.keep.commandDone
      · exact h.keep

theorem Canonical.graphNode {s r node} (h : Canonical s) : Canonical (s.graphNode r node).2 := by
  unfold State.graphNode
  split <;> (next e => exact h.readSys.snd e)

theorem Canonical.putGraph {s r node off bytes} (h : Canonical s) : Canonical (s.putGraph r node off bytes) :=
  h.writeSys

theorem Canonical.setNState {s r node n st} (h : Canonical s) : Canonical (s.setNState r node n st) := h.putGraph

theorem Canonical.decrementAll {s id r n} (h : Canonical s) : Canonical (s.decrementAll id r n) := by
  unfold State.decrementAll
  split
  · next e => exact (h.readSys.snd e).modPart
  · next e => exact (h.readSys.snd e).event

theorem Canonical.endNode {s id node asid root ltag ok} (h : Canonical s) :
    Canonical (s.endNode id node asid root ltag ok) := by
  unfold State.endNode
  dsimp only
  split
  · exact h
  · split
    · next e1 => exact (h.graphNode.snd e1).event
    · next e1 =>
        have h1 := h.graphNode.snd e1
        exact (h1.setNState.increment.decrementAll.ite h1.setNState).keep.endRun

theorem Canonical.replayRest {s lid l} (h : Canonical s) : Canonical (s.replayRest lid l) := by
  unfold State.replayRest
  dsimp only
  split
  · exact h
  · exact h.replay.foldl fun _ _ h1 => h1.event

theorem Canonical.stopQueue {s p q} (h : Canonical s) : Canonical (s.stopQueue p q) := by
  unfold State.stopQueue
  dsimp only
  split
  · exact h.setFlag.modPart
  · exact h

theorem Canonical.completeLaunch {s lid} (h : Canonical s) : Canonical (s.completeLaunch lid) := by
  unfold State.completeLaunch
  dsimp only
  split
  · exact h
  · refine .ite h.keep (.keep ?_)
    split
    · refine .modPart ?_
      split
      · exact (h.replayRest.putNode.stopQueue.ite h.replayRest.putNode.increment).commandDone
      · exact (h.replayRest.putNode.stopQueue.ite h.replayRest.putNode.increment).endNode
      · exact h.replayRest.putNode.stopQueue.ite h.replayRest.putNode.increment
    · split
      · exact (h.replayRest.putNode.stopQueue.ite h.replayRest.putNode.increment).commandDone
      · exact (h.replayRest.putNode.stopQueue.ite h.replayRest.putNode.increment).endNode
      · exact h.replayRest.putNode.stopQueue.ite h.replayRest.putNode.increment

theorem Canonical.completeEmpty {s lid} (h : Canonical s) : Canonical (s.completeEmpty lid) := by
  unfold State.completeEmpty
  split
  · exact h.completeLaunch.ite h
  · exact h

theorem Canonical.failResolution {s p q rcb code index} (h : Canonical s) :
    Canonical (s.failResolution p q rcb code index) := by
  unfold State.failResolution
  refine .stopQueue ?_
  split
  · exact h.event.putNode
  · exact h.event

theorem Canonical.execDigestLinkAppend {part q s} (h : Canonical s) :
    Canonical (outState s (Machine.execDigestLinkAppend part q s)) := by
  unfold Machine.execDigestLinkAppend
  dsimp only
  split
  · exact h
  · split
    · exact h
    · exact h.attempt fun _ h1 => h1.nodeBits.putNode.modPart

theorem Canonical.looseRun {s p e} (h : Canonical s) : Canonical (s.looseRun p e).2 := h.draw.newId.keep

theorem Canonical.runOf {s p e} (h : Canonical s) : Canonical (s.runOf p e).2 := by
  unfold State.runOf
  dsimp only
  split
  · exact h
  · split
    · exact h
    · exact h.looseRun

theorem Canonical.startNode {s p e} (h : Canonical s) : Canonical (s.startNode p e) := by
  unfold State.startNode
  dsimp only
  split
  · exact h.runOf
  · split
    · next e2 => exact (h.runOf.graphNode.snd e2).event
    · next e2 =>
        have h1 := h.runOf.graphNode.snd e2
        split
        · split
          · exact h1.modPart
          · split
            · next e4 => exact (h1.setNState.resolve.snd e4).completeEmpty
            · next e4 => exact (h1.setNState.resolve.snd e4).failResolution.endNode
        · exact h1.setNState.keep
        · exact h1.setNState.endNode
        · exact h1.failResolution.endNode

theorem Canonical.copyMoves {part asid root x s} (h : Canonical s) : Canonical (Machine.copyMoves part asid root x s).2 := by
  induction x generalizing s with
  | nil =>
    unfold Machine.copyMoves
    exact h
  | cons _ _ ih =>
    unfold Machine.copyMoves
    dsimp only
    split
    · next e =>
        refine .snd ?_ e
        split
        · exact h
        · exact h.readSysAt
    · next e =>
        split
        · next e1 =>
            refine .snd (.placeSys (.snd ?_ e)) e1
            split
            · exact h
            · exact h.readSysAt
        · next e1 =>
            split
            · next e2 =>
                refine .snd (ih (.snd (.placeSys (.snd ?_ e)) e1)) e2
                split
                · exact h
                · exact h.readSysAt
            · next e2 =>
                refine .snd (ih (.snd (.placeSys (.snd ?_ e)) e1)) e2
                split
                · exact h
                · exact h.readSysAt

theorem Canonical.copyMove {s r node} (h : Canonical s) : Canonical (s.copyMove r node).2 := by
  unfold State.copyMove
  dsimp only
  split
  · next e =>
      have h1 := h.readSysAt.snd e
      exact h1.keep.iteSnd h1
  · next e =>
      have h1 := h.readSysAt.snd e
      split
      · exact h1
      · split
        · next e1 =>
            have h2 := h1.readSysAt.snd e1
            exact h2.keep.iteSnd h2
        · next e1 =>
            have h2 := h1.readSysAt.snd e1
            split
            · exact h2
            · split
              · next e2 =>
                  have h3 := h2.copyMoves.snd e2
                  exact h3.keep.iteSnd h3
              · next e2 => exact (h2.copyMoves.snd e2).foldl fun _ _ h4 => h4.foldlFst (fun _ _ h5 => h5.store)

theorem Canonical.runCopy {s run node} (h : Canonical s) : Canonical (s.runCopy run node) := by
  unfold State.runCopy
  dsimp only
  split
  · exact h
  · refine .ite h (.viaNet h (fun _ h1 => h1.copyMove) (fun _ _ h1 => .endNode (.keep ?_)))
    split
    · exact h1.event
    · exact h1

theorem Canonical.graphArray {s r x x1} (h : Canonical s) : Canonical (Machine.graphArray s r x x1).2 := by
  induction x generalizing s x1 with
  | zero =>
    unfold Machine.graphArray
    exact h
  | succ _ ih =>
    unfold Machine.graphArray
    split
    · next e => exact h.graphNode.snd e
    · next e =>
        have h1 := h.graphNode.snd e
        split <;> (next e1 => exact (ih h1).snd e1)

theorem Canonical.startArray {s id r nodes} (h : Canonical s) : Canonical (s.startArray id r nodes) :=
  h.keep.foldl fun _ _ h1 => h1.startNode.ite h1

theorem Canonical.decrement {s part e} (h : Canonical s) : Canonical (s.decrement part e).2 := by
  unfold State.decrement
  dsimp only
  split
  · next e1 => exact h.readSys.snd e1
  · next e1 =>
      have h1 := h.readSys.snd e1
      split
      · next e2 => exact h1.sysPart.snd e2
      · next e2 =>
          have h2 := h1.sysPart.snd e2
          split
          · exact h2
          · split <;> (next e3 => exact h2.writeSys.snd e3)

theorem Canonical.execGraphPredDecrement {part s} (h : Canonical s) :
    Canonical (outState s (Machine.execGraphPredDecrement part s)) := by
  unfold Machine.execGraphPredDecrement
  dsimp only
  split
  · exact h
  · refine .ite h (.attempt h (fun _ h1 => ?_))
    split
    · exact h1.modPart.startNode
    · split
      · next e1 => exact (h1.modPart.decrement.snd e1).keep
      · next e1 =>
          have h2 := h1.modPart.decrement.snd e1
          split
          · exact h2.failOp
          · exact h2.event
      · next e1 =>
          have h2 := h1.modPart.decrement.snd e1
          refine .event ?_
          split
          · exact h2.finish
          · exact h2
      · next e1 =>
          have h2 := h1.modPart.decrement.snd e1
          refine .startNode ?_
          split
          · exact h2.finish
          · exact h2
      · next e1 =>
          have h2 := h1.modPart.decrement.snd e1
          split
          · exact h2.finish
          · exact h2

theorem Canonical.execDgNode {c o s} (h : Canonical s) : Canonical (outState s (Machine.execDgNode c o s)) := by
  unfold Machine.execDgNode
  refine .isa (fun _ _ h1 => ?_) h
  dsimp only
  split
  · next e => exact h1.check.snd e
  · next e =>
      have h2 := h1.check.snd e
      split
      · exact h2.begun
      · exact h2.openOp.modPart
  · next e => exact h1.check.snd e

theorem Canonical.arrayChecks {s w va n} (h : Canonical s) : Canonical (Machine.arrayChecks s w va n).2 := by
  unfold Machine.arrayChecks
  refine .foldlSnd (fun _ _ h1 => ?_) h
  split
  · exact h1
  · split <;> (next e => exact h1.checkNow.snd e)

theorem Canonical.execDgGo {c o s} (h : Canonical s) : Canonical (outState s (Machine.execDgGo c o s)) := by
  unfold Machine.execDgGo
  refine .isa (fun _ _ h1 => ?_) h
  dsimp only
  split
  · split
    · exact h1
    · split
      · exact h1
      · split
        · next e2 => exact ((h1.asks (fun _ h2 => h2.arrayChecks)).snd e2).parks
        · next e2 => exact (h1.asks (fun _ h2 => h2.arrayChecks)).snd e2
        · next e2 =>
            have h2 := (h1.asks (fun _ h2 => h2.arrayChecks)).snd e2
            split
            · exact h2
            · split
              · exact h2
              · split
                · exact h2.begun
                · split
                  · exact h2.begun.asked.parks
                  · next e3 => exact ((h2.keep.modLaunch.newId.openOp.asks (fun _ h3 => h3.graphArray)).snd e3).failOp
                  · next e3 =>
                      split
                      · exact h2.begun.asked.parks
                      · exact ((h2.keep.modLaunch.newId.openOp.asks (fun _ h3 => h3.graphArray)).snd e3).asks fun _ h4 =>
                          h4.startArray
  · exact h1

theorem Canonical.execEngGuard {c o s} (h : Canonical s) : Canonical (outState s (Machine.execEngGuard c o s)) := by
  unfold Machine.execEngGuard
  refine .isa (fun _ _ h1 => ?_) h
  dsimp only
  split
  · exact h1.begun
  · split
    · exact h1
    · exact h1.openOp.modPart.finish

theorem Canonical.enterChild {s die c} (h : Canonical s) : Canonical (s.enterChild die c) := h.keep

theorem Canonical.admitPush {s die} (h : Canonical s) : Canonical (s.admitPush die) := by
  unfold State.admitPush
  split
  · exact h
  · split
    · split
      · split
        · exact h.enterChild.finish
        · exact h.finish
      · exact h
    · exact h

theorem Canonical.execLqPush {c o s} (h : Canonical s) : Canonical (outState s (Machine.execLqPush c o s)) := by
  unfold Machine.execLqPush
  refine .isa (fun _ _ h1 => ?_) h
  dsimp only
  split
  · split
    · exact h1
    · split
      · exact h1
      · exact h1.modLaunch.openOp.admitPush
  · exact h1

theorem Canonical.peer {s p node} (h : Canonical s) : Canonical (s.peer p node).2 := by
  unfold State.peer
  dsimp only
  split <;> (next e => exact h.readSys.snd e)

theorem Canonical.sendWaggle {s r} (h : Canonical s) : Canonical (s.sendWaggle r) := h.keep

theorem Canonical.sendRemote {s r} (h : Canonical s) : Canonical (s.sendRemote r) := h.newId.keep.sendWaggle

theorem Canonical.execWagSend {c o s} (h : Canonical s) : Canonical (outState s (Machine.execWagSend c o s)) := by
  unfold Machine.execWagSend
  refine .isa (fun _ _ h1 => ?_) h
  dsimp only
  split
  · split
    · next e1 => exact ((h1.asks (fun _ h2 => h2.peer)).snd e1).parks
    · next e1 =>
        have h2 := (h1.asks (fun _ h2 => h2.peer)).snd e1
        split
        · exact h2
        · exact h2.openOp.sendRemote
  · split
    · exact h1
    · exact h1.openOp.send.setPieces

/-! ## Doorbells, ring commands and the distributor (spec/08_scheduling.md) -/

theorem Canonical.execDoorbell {part q value s} (h : Canonical s) :
    Canonical (outState s (Machine.execDoorbell part q value s)) := by
  unfold Machine.execDoorbell
  refine .ite h (.attempt h (fun _ h1 => ?_))
  dsimp only
  split
  · exact h1.event
  · split
    · exact h1.event
    · split
      · next e1 => exact (h1.readNode.snd e1).event
      · next e1 =>
          have h2 := h1.readNode.snd e1
          exact h2.event.ite (h2.event.ite (h2.putNode.ite h2.putNode.modPart))

theorem Canonical.headCmd {s p q} (h : Canonical s) : Canonical (s.headCmd p q).2 := by
  unfold State.headCmd
  dsimp only
  split
  · exact h
  · split
    · exact h
    · split
      · next e1 => exact h.readNode.snd e1
      · next e1 =>
          have h1 := h.readNode.snd e1
          split
          · exact h1
          · split <;> (next e2 => exact h1.readSys.snd e2)

theorem Canonical.takeCmd {s p q hd run} (h : Canonical s) : Canonical (s.takeCmd p q hd run) := by
  unfold State.takeCmd
  exact h.putNode.modPart

theorem Canonical.failCmd {s p q hd rcb code} (h : Canonical s) : Canonical (s.failCmd p q hd rcb code) :=
  h.failResolution.commandDone

theorem Canonical.ringCommand {s p q opk run discard} (h : Canonical s) (hrun : ∀ s x y, Canonical s → Canonical (run s x y))
    (hdiscard : ∀ s x y, Canonical s → Canonical (discard s x y)) :
    Canonical (s.ringCommand p q opk run discard) := by
  unfold State.ringCommand
  refine .attempt h (fun _ h1 => ?_)
  dsimp only
  split
  · next e => exact h1.headCmd.snd e
  · next e =>
      have h2 := h1.headCmd.snd e
      split
      · exact h2.takeCmd.failCmd.ite h2
      · split
        · exact h2
        · split
          · exact h2.takeCmd.failCmd
          · split
            · exact h2
            · exact hrun _ _ _ h2
            · exact hdiscard _ _ _ h2

theorem Canonical.endAtOnce {p q s hd x} (h : Canonical s) : Canonical (Machine.endAtOnce p q s hd x) :=
  h.takeCmd.commandDone

theorem Canonical.execRingCommandNop {part q s} (h : Canonical s) :
    Canonical (outState s (Machine.execRingCommandNop part q s)) :=
  h.ringCommand (fun _ _ _ h1 => h1.endAtOnce) fun _ _ _ h1 => h1.endAtOnce

theorem Canonical.nextNseq {s p hd} (h : Canonical s) : Canonical (s.nextNseq p hd) := h.putNode

theorem Canonical.launchCommand {p q grid s hd c} (h : Canonical s) : Canonical (Machine.launchCommand p q grid s hd c) := by
  unfold Machine.launchCommand
  dsimp only
  split
  · exact h
  · split
    · next e => exact (h.takeCmd.resolve.snd e).nextNseq.completeEmpty
    · next e => exact (h.takeCmd.resolve.snd e).failCmd

theorem Canonical.execRingCommandLaunch {part q s} (h : Canonical s) :
    Canonical (outState s (Machine.execRingCommandLaunch part q s)) :=
  h.ringCommand (fun _ _ _ h1 => h1.launchCommand) fun _ _ _ h1 => h1.launchCommand

theorem Canonical.nodeSpace {s p node} (h : Canonical s) : Canonical (Machine.nodeSpace s p node).2 := by
  unfold Machine.nodeSpace
  dsimp only
  split <;> (next e => exact h.chain.snd e)

theorem Canonical.graphCommand {p q s hd c} (h : Canonical s) : Canonical (Machine.graphCommand p q s hd c) := by
  unfold Machine.graphCommand
  dsimp only
  split
  · next e => exact (h.newId.takeCmd.nodeSpace.snd e).failCmd
  · next e =>
      have h1 := h.newId.takeCmd.nodeSpace.snd e
      split
      · next e1 => exact (h1.graphArray.snd e1).failCmd
      · next e1 => exact (h1.graphArray.snd e1).nextNseq.startArray

theorem Canonical.execRingCommandGraph {part q s} (h : Canonical s) :
    Canonical (outState s (Machine.execRingCommandGraph part q s)) :=
  h.ringCommand (fun _ _ _ h1 => h1.graphCommand) fun _ _ _ h1 => h1.endAtOnce

theorem Canonical.digestReset {p q s hd c} (h : Canonical s) : Canonical (Machine.digestReset p q s hd c) :=
  h.takeCmd.putNode.putNode.putNode.modPart.commandDone

theorem Canonical.execRingCommandDigestReset {part q s} (h : Canonical s) :
    Canonical (outState s (Machine.execRingCommandDigestReset part q s)) :=
  h.ringCommand (fun _ _ _ h1 => h1.digestReset) fun _ _ _ h1 => h1.endAtOnce

theorem Canonical.execLaunchQueueTake {part die s} (h : Canonical s) :
    Canonical (outState s (Machine.execLaunchQueueTake part die s)) := by
  unfold Machine.execLaunchQueueTake
  dsimp only
  split
  · exact h
  · split
    · exact h
    · refine .ite h (.attempt h (fun _ h1 => ?_))
      split
      · next e2 => exact (h1.keep.resolve.snd e2).modLaunch.completeEmpty.admitPush
      · next e2 => exact (h1.keep.resolve.snd e2).failResolution.admitPush

theorem Canonical.execWaggleHandlerLaunch {part s} (h : Canonical s) :
    Canonical (outState s (Machine.execWaggleHandlerLaunch part s)) := by
  unfold Machine.execWaggleHandlerLaunch
  dsimp only
  split
  · exact h
  · refine .attempt h (fun _ h1 => ?_)
    split
    · next e1 => exact (h1.modPart.readNode.snd e1).event
    · next e1 =>
        have h2 := h1.modPart.readNode.snd e1
        split
        · next e2 => exact (h2.readSys.snd e2).event
        · next e2 =>
            have h3 := h2.readSys.snd e2
            split
            · exact h3.event
            · split
              · next e3 => exact h3.resolve.snd e3
              · next e3 => exact (h3.resolve.snd e3).event

theorem Canonical.addThreads {s w c regs x x1} (h : Canonical s) : Canonical ((s.addThreads w c regs x x1).getD s) := by
  induction x generalizing s x1 with
  | zero => exact h
  | succ _ ih =>
    unfold State.addThreads
    split
    · exact h
    · exact (ih h.newId.modWg).getD h

theorem Canonical.place {s lid l c} (h : Canonical s) : Canonical ((s.place lid l c).getD s) := by
  unfold State.place
  dsimp only
  split
  · exact h
  · split
    · exact h
    · next e1 =>
        have h1 := (h.newId.setWg rfl).addThreads.some e1
        exact (h1.modLaunch.putNode.ite h1.modLaunch).keep.vacate

theorem Canonical.execWorkgroupPlace {die s} (h : Canonical s) :
    Canonical (outState s (Machine.execWorkgroupPlace die s)) := by
  unfold Machine.execWorkgroupPlace
  split
  · exact h
  · split
    · exact h
    · exact h.place

theorem Canonical.execPriorityReserve {launch s} (h : Canonical s) :
    Canonical (outState s (Machine.execPriorityReserve launch s)) := by
  unfold Machine.execPriorityReserve
  dsimp only
  split
  · exact h
  · exact h.modLaunch.ite h

theorem Canonical.execGranuleClearComplete {wg s} (h : Canonical s) :
    Canonical (outState s (Machine.execGranuleClearComplete wg s)) := by
  unfold Machine.execGranuleClearComplete
  dsimp only
  split
  · exact h
  · exact h.ite (h.modWg.discard.ite h.modWg)

theorem Canonical.settleHost {s p} (h : Canonical s) : Canonical (s.settleHost p) := h.modPart.ite h

theorem Canonical.grantClaims {s c x} (h : Canonical s) : Canonical (s.grantClaims c x) := by
  induction x generalizing s with
  | zero =>
    unfold State.grantClaims
    exact h
  | succ _ ih =>
    unfold State.grantClaims
    exact ih h.grantClaim

theorem Canonical.execWorkgroupRetire {wg s} (h : Canonical s) :
    Canonical (outState s (Machine.execWorkgroupRetire wg s)) := by
  unfold Machine.execWorkgroupRetire
  dsimp only
  split
  · exact h
  · refine .ite h (.attempt h (fun _ h1 => .settleHost ?_))
    split
    · exact h1.endMembership.delWg.modCore.grantClaims.modLaunch.completeLaunch.ite
        h1.endMembership.delWg.modCore.grantClaims.modLaunch
    · exact h1.endMembership.delWg.modCore.grantClaims.modLaunch

/-! ## The Swarm engine (spec/07_execution.md R171 to R174) -/

theorem Canonical.spill {s w t} (h : Canonical s) : Canonical (s.spill w t).2 := by
  unfold State.spill
  dsimp only
  split
  · exact h
  · split
    · exact h
    · split
      · exact h
      · split
        · exact h.asked
        · next e2 => exact h.spillWrite.snd e2
        · next e2 => exact (h.spillWrite.snd e2).modThread.dropLatches

theorem Canonical.leaveCallee {s w t late} (h : Canonical s) : Canonical (s.leaveCallee w t late) := by
  unfold State.leaveCallee
  dsimp only
  split
  · exact ((h.ite h.modThread).keepLate.ite (h.ite h.modThread)).modThread.dropLatches
  · exact h

theorem Canonical.takeCallee {s w t} (h : Canonical s) : Canonical (s.takeCallee w t).2 := by
  unfold State.takeCallee
  split
  · split
    · exact h.leaveCallee
    · split
      · next e1 => exact (h.spillWrite.snd e1).leaveCallee
      · exact h.asked.leaveCallee
      · next e1 => exact h.spillWrite.snd e1
  · exact h

theorem Canonical.evict {s core v} (h : Canonical s) : Canonical (s.evict core v).2 := by
  unfold State.evict
  split
  · exact h
  · split
    · split
      · next e2 => exact h.takeCallee.snd e2
      · next e2 => exact (h.takeCallee.snd e2).swarmFault.dropNeed
    · split
      · next e1 => exact h.spill.snd e1
      · next e1 => exact (h.spill.snd e1).modCore
      · next e1 => exact (h.spill.snd e1).deferTo

theorem Canonical.swarm {s core x x1} (h : Canonical s) : Canonical (s.swarm core x x1) := by
  induction x generalizing s x1 with
  | zero =>
    unfold State.swarm
    exact h
  | succ _ ih =>
    unfold State.swarm
    split
    · exact h
    · split
      · next e1 => exact ih (h.grantOne.snd e1).dropNeed
      · next e1 =>
          have h1 := h.grantOne.snd e1
          split
          · exact h1
          · split
            · exact h1.modCore
            · split
              · exact h1
              · split
                · next e4 => exact ih (h1.evict.snd e4).grantCore
                · next e4 => exact ih (h1.evict.snd e4)

theorem Canonical.execSwarmStart {core s} (h : Canonical s) : Canonical (outState s (Machine.execSwarmStart core s)) :=
  h.modCore.swarm.ite h

/-! ## Teardown, released records, saving and restoring (spec/15_faults.md R394 to R405) -/

theorem Canonical.dropOrdered {s w} (h : Canonical s) : Canonical (s.dropOrdered w) := h.keep

theorem Canonical.killThread {s w t} (h : Canonical s) : Canonical (s.killThread w t) :=
  h.unpark.freeFrames.modThread

theorem Canonical.dropReads {s w core} (h : Canonical s) : Canonical (s.dropReads w core) := h.keep.modCore

theorem Canonical.teardown {s w} (h : Canonical s) : Canonical (s.teardown w) := by
  unfold State.teardown
  dsimp only
  split
  · exact h
  · exact ((h.foldl (fun _ _ h1 => h1.killThread)).dropOrdered.keep.dropReads.foldl
      (fun _ _ h1 => h1.clearRecord)).modCore.modWg.settleHost

theorem Canonical.unwindAll {s w line x ts} (h : Canonical s) : Canonical (s.unwindAll w line x ts).2 := by
  unfold State.unwindAll
  refine .foldlSnd (fun _ _ h1 => ?_) h
  split
  · exact h1.modThread
  · split
    · next e => exact h1.unwind.some e
    · exact h1

theorem Canonical.wakeAcquire {s w} (h : Canonical s) : Canonical (s.wakeAcquire w) := by
  unfold State.wakeAcquire
  split
  · exact h.ite h.discard
  · exact h

theorem Canonical.respond {s w line action rpc value ts eng rc} (h : Canonical s) :
    Canonical (s.respond w line action rpc value ts eng rc) := by
  unfold State.respond
  dsimp only
  split
  · exact h.resumeEngine
  · exact h.teardown
  · exact h.wakeAcquire.resumeAt
  · exact h.wakeAcquire.unwindAll.ite h.wakeAcquire.unwindAll.escalate
  · exact h

theorem Canonical.execFaultRecordRelease {rec s} (h : Canonical s) :
    Canonical (outState s (Machine.execFaultRecordRelease rec s)) := by
  unfold Machine.execFaultRecordRelease
  dsimp only
  split
  · exact h
  · split
    · exact h
    · exact h.ite (h.clearRecord.ite (h.escalate.ite (h.respond.ite h.respond.clearRecord)))

theorem Canonical.respondEntry {s part value} (h : Canonical s) : Canonical (s.respondEntry part value) := by
  unfold State.respondEntry
  dsimp only
  split
  · exact h
  · exact h.ite h.keep.respond

theorem Canonical.storeFrame {s w t} (h : Canonical s) : Canonical (s.storeFrame w t) := h.modThread

theorem Canonical.spillAll {s w t x} (h : Canonical s) : Canonical (s.spillAll w t x).2 := by
  induction x generalizing s with
  | zero =>
    unfold State.spillAll
    exact h
  | succ _ ih =>
    unfold State.spillAll
    split
    · exact h
    · split
      · next e1 => exact ih (h.spill.snd e1)
      · next e1 => exact h.spill.snd e1
      · next e1 => exact ih (h.spill.snd e1).storeFrame

theorem Canonical.unqueue {s w t} (h : Canonical s) : Canonical (s.unqueue w t) := by
  unfold State.unqueue
  split
  · exact h
  · split
    · exact h.modThread
    · exact h

theorem Canonical.spillThread {w n acc t} (h : Canonical acc.2) : Canonical (Machine.spillThread w n acc t).2 := by
  unfold Machine.spillThread
  refine .iteSnd h (.spillAll ?_)
  split
  · split
    · next e1 => exact h.unqueue.takeCallee.snd e1
    · next e1 => exact (h.unqueue.takeCallee.snd e1).leaveCallee
  · exact h.unqueue

theorem Canonical.writeSection {s w sec} (h : Canonical s) : Canonical (s.writeSection w sec) := by
  unfold State.writeSection
  dsimp only
  split
  · exact h
  · exact h.keep.writeSys

theorem Canonical.grantLanes {s c} (h : Canonical s) : Canonical (s.grantLanes c) :=
  h.foldl fun _ _ h1 => h1.grantLane

theorem Canonical.modSources {s w f} (h : Canonical s) : Canonical (s.modSources w f) := h.keep

theorem Canonical.keepSources {s w} (h : Canonical s) : Canonical (s.keepSources w) := h.modSources

theorem Canonical.execWorkgroupSave {wg s} (h : Canonical s) : Canonical (outState s (Machine.execWorkgroupSave wg s)) := by
  unfold Machine.execWorkgroupSave
  dsimp only
  split
  · exact h
  · split
    · exact h
    · split
      · exact h.foldl fun _ _ h1 => h1.deliverDeferred
      · split
        · exact h
        · split
          · next e1 => exact (h.foldlSnd (fun _ _ h1 => h1.spillThread)).snd e1
          · next e1 =>
              have h1 := (h.foldlSnd (fun _ _ h1 => h1.spillThread)).snd e1
              exact h1.ite (h1.attempt (fun _ h2 => ((h2.keepSources.dropReads.foldl
                  (fun _ _ h3 => h3.writeSection)).newId.modWg.modCore.grantClaims.grantLanes.post.ite
                  (h2.keepSources.dropReads.foldl (fun _ _ h3 =>
                  h3.writeSection)).newId.modWg.modCore.grantClaims.grantLanes).settleHost))

theorem Canonical.backFaults {s w t} (h : Canonical s) : Canonical (s.backFaults w t) := by
  unfold State.backFaults
  split
  · exact h.ite (h.deliverDeferred.ite h.meetFault)
  · exact h

theorem Canonical.badSection {s w} (h : Canonical s) : Canonical (s.badSection w).2 := by
  unfold State.badSection
  dsimp only
  split
  · exact h
  · refine .foldlSnd (fun _ _ h1 => ?_) h
    split
    · exact h1
    · split <;> (next e1 => exact h1.readSys.snd e1)

theorem Canonical.backThread {s w t} (h : Canonical s) : Canonical (s.backThread w t) := by
  unfold State.backThread
  split
  · exact h
  · split
    · exact h
    · exact h.need
    · exact h.need.ite h
    · exact h.need
    · exact h.need.ite h

theorem Canonical.backUnwind {s w t} (h : Canonical s) : Canonical (s.backUnwind w t) := by
  unfold State.backUnwind
  dsimp only
  split
  · exact h
  · split
    · next e1 => exact h.modThread.unwind.some e1
    · exact h.modThread.escalate

theorem Canonical.execWorkgroupRestore {wg core bad s} (h : Canonical s) :
    Canonical (outState s (Machine.execWorkgroupRestore wg core bad s)) := by
  unfold Machine.execWorkgroupRestore
  dsimp only
  split
  · refine .ite h (.attempt h (fun _ h1 => ?_))
    split
    · next e2 =>
        refine .settleHost (.event (.teardown (.snd ?_ e2)))
        split
        · exact h1
        · exact h1.badSection
    · next e2 =>
        refine .settleHost (.keep (.foldl (fun _ _ h2 => h2.backUnwind.backFaults)
            (.foldl (fun _ _ h2 => h2.backThread) (.modSources (.discard (.vacate (.modWg (.snd ?_ e2))))))))
        split
        · exact h1
        · exact h1.badSection
  · exact h

/-! ## The fault queue, fatal errors, power and reset (spec/15_faults.md R413, R414; spec/16_device.md R420) -/

theorem Canonical.settleEntry {s e} (h : Canonical s) : Canonical (s.settleEntry e) := by
  unfold State.settleEntry
  dsimp only
  split
  · exact h.parkOn.clearRecord
  · exact h.clearRecord
  · exact h

theorem Canonical.postNow {s p e} (h : Canonical s) : Canonical (s.postNow p e) :=
  h.writeHost.modPart.settleEntry.signal

theorem Canonical.execFaultQueuePost {part s} (h : Canonical s) :
    Canonical (outState s (Machine.execFaultQueuePost part s)) := by
  unfold Machine.execFaultQueuePost
  dsimp only
  split
  · exact h
  · split
    · exact h.modPart.postNow
    · split
      · exact h.modPart
      · split
        · exact h.modPart
        · exact h

theorem Canonical.execFaultQueueDrain {part s} (h : Canonical s) :
    Canonical (outState s (Machine.execFaultQueueDrain part s)) := by
  unfold Machine.execFaultQueueDrain
  split
  · exact h
  · exact h.modPart.postNow.ite h

theorem Canonical.fatalError {s origin} (h : Canonical s) : Canonical (s.fatalError origin) :=
  h.ite (((h.foldl (fun _ _ h1 => h1.writeBack)).keep.foldl (fun _ _ h1 => h1.event)).ite
      (h.foldl (fun _ _ h1 => h1.writeBack)).keep).writeMem

theorem Canonical.execRequestRetransmit {r s} (h : Canonical s) :
    Canonical (outState s (Machine.execRequestRetransmit r s)) := by
  unfold Machine.execRequestRetransmit
  dsimp only
  split
  · exact h
  · exact h.ite (h.keep.sendCopy.ite (h.keep.sendCopy.ite (h.fatalError.ite h.keep.sendCopy.answered)))

theorem Canonical.execFatalError {kind index s} (h : Canonical s) :
    Canonical (outState s (Machine.execFatalError kind index s)) :=
  h.fatalError.ite h

theorem Canonical.execLossOfPower {s} (h : Canonical s) : Canonical (outState s (Machine.execLossOfPower s)) :=
  h.keep.ite h.keep.draw.writeMem

theorem Canonical.execPowerArbiterTick {avg100us avg1ms s} (h : Canonical s) :
    Canonical (outState s (Machine.execPowerArbiterTick avg100us avg1ms s)) :=
  h.fatalError.ite (h.keep.ite (h.keep.ite h))

theorem Canonical.execFirmwareStage {bank image s} (h : Canonical s) :
    Canonical (outState s (Machine.execFirmwareStage bank image s)) :=
  h.keep.ite h

theorem Canonical.execModuleReset {s} (h : Canonical s) : Canonical (outState s (Machine.execModuleReset s)) :=
  .of_wf rfl h.host_wf fun _ he => nomatch he

/-! ## What the host does over the link (spec/16_device.md R416 to R431) -/

theorem Canonical.writeAs {s part asid root va bytes who} (h : Canonical s) :
    Canonical (Machine.writeAs s part asid root va bytes who).2 := by
  unfold Machine.writeAs
  split
  · next e => exact h.placeSys.snd e
  · next e => exact (h.placeSys.snd e).foldlFst fun _ _ h2 => h2.store

theorem Canonical.netAnswer {α : Type} {f : α → State → State} {r : Except (Nat × Nat) α × State}
    (hf : ∀ x s, Canonical s → Canonical (f x s)) (h : Canonical r.2) :
    Canonical (Machine.netAnswer f r).2 := by
  unfold Machine.netAnswer
  split
  · exact hf _ _ h
  · exact h.keep
  · exact h

theorem Canonical.barMove {s part va n data} (h : Canonical s) : Canonical (s.barMove part va n data).2 := by
  unfold State.barMove
  dsimp only
  split
  · exact h.readSysAt.netAnswer fun _ _ h1 => h1.keep
  · exact h.writeAs.netAnswer fun _ _ h1 => h1

theorem Canonical.barEnd {s part data x} (h : Canonical s) : Canonical (s.barEnd part data x) := by
  unfold State.barEnd
  dsimp only
  split
  · exact h
  · exact h.accessFault.keep.ite h.accessFault

theorem Canonical.execHostBar2Access {part va n data s} (h : Canonical s) :
    Canonical (outState s (Machine.execHostBar2Access part va n data s)) := by
  unfold Machine.execHostBar2Access
  split
  · split
    · exact h.keep.ite h
    · exact h
  · exact h.ite (h.ite (h.viaNet (fun _ h1 => h1.barMove) (fun _ _ h1 => h1.barEnd)))

theorem Canonical.unmask {s p v} (h : Canonical s) : Canonical (s.unmask p v) := h.modPart.keep.ite h

theorem Canonical.mailboxGo {s p} (h : Canonical s) : Canonical (s.mailboxGo p) := h.modPart.ite h.modPart

theorem Canonical.execRegisterWrite {part off value s} (h : Canonical s) :
    Canonical (outState s (Machine.execRegisterWrite part off value s)) :=
  h.ite (h.modPart.ite (h.modPart.ite (h.mailboxGo.ite (h.modPart.unmask.ite h))))

theorem Canonical.queueBusy {s p q} (h : Canonical s) : Canonical (s.queueBusy p q).2 := by
  unfold State.queueBusy
  split
  · exact h
  · exact h.nodeBits

theorem Canonical.execQtabWrite {part q value s} (h : Canonical s) :
    Canonical (outState s (Machine.execQtabWrite part q value s)) := by
  unfold Machine.execQtabWrite
  dsimp only
  split
  · exact h
  · split
    · next e => exact (h.queueBusy.snd e).event
    · next e => exact (h.queueBusy.snd e).modPart

theorem Canonical.execFqstatClear {part s} (h : Canonical s) : Canonical (outState s (Machine.execFqstatClear part s)) :=
  h.modPart

theorem Canonical.execFqresp1 {part value s} (h : Canonical s) :
    Canonical (outState s (Machine.execFqresp1 part value s)) :=
  h.respondEntry.ite h

theorem Canonical.hresult {s p r} (h : Canonical s) : Canonical (s.hresult p r) := h.modPart

theorem Canonical.hreq {s p value op f} (h : Canonical s) (hf : ∀ s, Canonical s → Canonical (f s)) :
    Canonical (s.hreq p value op f) :=
  h.ite (h.modPart.ite (h.hresult.ite (h.ite (hf _ h))))

theorem Canonical.setSwitched {s p q b} (h : Canonical s) : Canonical (s.setSwitched p q b) := h.modPart

theorem Canonical.execSwitchOut {part value s} (h : Canonical s) :
    Canonical (outState s (Machine.execSwitchOut part value s)) :=
  h.hreq fun _ h1 => h1.hresult.ite (h1.setSwitched.mapWgs (by intro e; split <;> rfl)).settleHost

theorem Canonical.execSwitchIn {part value s} (h : Canonical s) :
    Canonical (outState s (Machine.execSwitchIn part value s)) :=
  h.hreq fun _ h1 => h1.hresult.ite (h1.setSwitched.mapWgs (by intro e; split <;> rfl)).settleHost

theorem Canonical.execRestore {part value s} (h : Canonical s) :
    Canonical (outState s (Machine.execRestore part value s)) := by
  unfold Machine.execRestore
  refine .hreq h (fun _ h1 => ?_)
  split
  · exact h1.modWg.modPart.ite h1.hresult
  · exact h1.hresult

theorem Canonical.digests {s p sel} (h : Canonical s) : Canonical (s.digests p sel).2 := by
  unfold State.digests
  refine .foldlSnd (fun a _ h1 => ?_) h
  dsimp only
  split
  · exact h1.nodeBits
  · exact h1

theorem Canonical.reportOf {s p} (h : Canonical s) : Canonical (s.reportOf p).2 := h.digests

theorem Canonical.execAttest {part value s} (h : Canonical s) :
    Canonical (outState s (Machine.execAttest part value s)) :=
  h.hreq fun _ h1 => h1.reportOf.writeHost.hresult

theorem Canonical.execHostLinkDown {s} (h : Canonical s) : Canonical (outState s (Machine.execHostLinkDown s)) := by
  unfold Machine.execHostLinkDown
  refine .foldl (fun _ _ h1 => .foldl (fun _ _ h2 => ?_) h1) (h.keep.foldl (fun _ _ h1 => h1.askEnds))
  split
  · exact h2.failHost
  · exact h2

theorem Canonical.emptyQueue {s p q} (h : Canonical s) : Canonical (s.emptyQueue p q) := by
  unfold State.emptyQueue
  dsimp only
  split
  · exact h
  · exact ((h.nodeBits.iteSnd h).ite (h.nodeBits.iteSnd h).putNode).modPart

theorem Canonical.cutLaunch {s lid} (h : Canonical s) : Canonical (s.cutLaunch lid) := by
  unfold State.cutLaunch
  dsimp only
  split
  · exact h.modLaunch.completeLaunch.ite h.modLaunch
  · exact h.modLaunch

theorem Canonical.execFlrVf {part s} (h : Canonical s) : Canonical (outState s (Machine.execFlrVf part s)) :=
  h.ite (h.attempt (fun _ h1 => ((((h1.foldl (fun _ _ h2 => h2.teardown)).foldl (fun _ _ h2 => h2.finish)).keep.foldl
      (fun _ _ h2 => h2.emptyQueue)).modPart.foldl (fun _ _ h2 => h2.cutLaunch)).settleHost))

/-! ## The mailbox and the Ethernet ports (spec/16_device.md R428 to R430) -/

theorem Canonical.mailbox {s p op f} (h : Canonical s) (hf : ∀ s x, Canonical s → Canonical (f s x).2.2) :
    Canonical (s.mailbox p op f) := by
  unfold State.mailbox
  extract_lets q b o set
  have hset : ∀ s r v, Canonical s → Canonical (set s r v) := fun _ _ _ h => h.modPart
  refine .ite h (.ite (.ite (hset _ _ _ h) h) (.ite h (.ite (hset _ _ _ h) ?_)))
  split
  · next e => exact hset _ _ _ ((hf _ _ h).last e)
  · exact hset _ _ _ h

theorem Canonical.freeNumber {α : Type} {s} {t : Tab α} {n : Nat} (h : Canonical s) : Canonical (s.freeNumber t n).2 := by
  unfold State.freeNumber
  dsimp only
  split <;> exact h.draw

theorem Canonical.execCreateCq {part s} (h : Canonical s) : Canonical (outState s (Machine.execCreateCq part s)) := by
  unfold Machine.execCreateCq
  refine .mailbox h (fun _ _ h1 => ?_)
  dsimp only
  split
  · exact h1
  · split
    · next e => exact h1.freeNumber.snd e
    · next e => exact (h1.freeNumber.snd e).modPart

theorem Canonical.execDestroyCq {part s} (h : Canonical s) : Canonical (outState s (Machine.execDestroyCq part s)) := by
  unfold Machine.execDestroyCq
  refine .mailbox h (fun _ _ h1 => ?_)
  dsimp only
  split
  · exact h1
  · split
    · exact h1
    · exact h1.modPart

theorem Canonical.execCreateQp {part s} (h : Canonical s) : Canonical (outState s (Machine.execCreateQp part s)) := by
  unfold Machine.execCreateQp
  refine .mailbox h (fun _ _ h1 => ?_)
  dsimp only
  split
  · exact h1
  · split
    · exact h1
    · split
      · next e => exact h1.freeNumber.snd e
      · next e => exact (h1.freeNumber.snd e).modPart

theorem Canonical.complete {s p cqn qpn opk index imm bytes status} (h : Canonical s) :
    Canonical (s.complete p cqn qpn opk index imm bytes status) := by
  unfold State.complete
  dsimp only
  split
  · exact h
  · exact h.writeSys.modPart.increment.ite h.writeSys.modPart.increment.signal

theorem Canonical.workRequest {s p base log index} (h : Canonical s) : Canonical (s.workRequest p base log index).2 := by
  unfold State.workRequest
  dsimp only
  split <;> (next e => exact h.readSys.snd e)

theorem Canonical.sendDone {s p qpn q wr status bytes} (h : Canonical s) :
    Canonical (s.sendDone p qpn q wr status bytes) :=
  h.complete.ite h

theorem Canonical.flush {s p qpn q} (h : Canonical s) : Canonical (s.flush p qpn q) :=
  (h.foldl (fun _ _ h1 => h1.workRequest.sendDone)).foldl fun _ _ h1 => h1.complete

theorem Canonical.setQp {s p qpn q} (h : Canonical s) : Canonical (s.setQp p qpn q) := h.modPart

theorem Canonical.execModifyQp {part s} (h : Canonical s) : Canonical (outState s (Machine.execModifyQp part s)) := by
  unfold Machine.execModifyQp
  refine .mailbox h (fun _ _ h1 => ?_)
  dsimp only
  split
  · exact h1
  · split
    · exact h1.setQp
    · exact h1.flush.setQp
    · exact h1.setQp
    · split
      · exact h1
      · exact h1.setQp
    · split
      · exact h1
      · exact h1.setQp
    · exact h1

theorem Canonical.execDestroyQp {part s} (h : Canonical s) : Canonical (outState s (Machine.execDestroyQp part s)) := by
  unfold Machine.execDestroyQp
  refine .mailbox h (fun _ _ h1 => ?_)
  split
  · exact h1.modPart
  · exact h1

theorem Canonical.execRegMr {part s} (h : Canonical s) : Canonical (outState s (Machine.execRegMr part s)) := by
  unfold Machine.execRegMr
  refine .mailbox h (fun _ _ h1 => ?_)
  split
  · exact h1
  · split
    · next e => exact h1.freeNumber.snd e
    · next e => exact (h1.freeNumber.snd e).modPart

theorem Canonical.execDeregMr {part s} (h : Canonical s) : Canonical (outState s (Machine.execDeregMr part s)) := by
  unfold Machine.execDeregMr
  refine .mailbox h (fun _ _ h1 => ?_)
  split
  · exact h1
  · split
    · exact h1
    · exact h1.modPart

theorem Canonical.execSqdb {part value s} (h : Canonical s) : Canonical (outState s (Machine.execSqdb part value s)) :=
  h.ite h.modPart

theorem Canonical.execRqdb {part value s} (h : Canonical s) : Canonical (outState s (Machine.execRqdb part value s)) :=
  h.ite h.modPart

theorem Canonical.advanceSend {s p qpn n} (h : Canonical s) : Canonical (s.advanceSend p qpn n) := h.modPart

theorem Canonical.trySend {s p w status data} (h : Canonical s) :
    Canonical ((s.trySend p w status data).elim s (·.2.2)) := by
  unfold State.trySend
  dsimp only
  split
  · exact h
  · split
    · exact h
    · split
      · split
        · exact h
        · split
          · exact h
          · split
            · exact h
            · split
              · next e1 => exact h.writeAs.snd e1
              · next e1 => exact (h.writeAs.snd e1).keep
              · next e1 => exact h.writeAs.snd e1
      · split
        · exact h
        · split
          · next e =>
              have h1 := h.readSys.snd e
              split <;> exact h1
          · next e => exact (h.readSys.snd e).keep
          · next e => exact h.readSys.snd e

theorem Canonical.portFor {s p node n} (h : Canonical s) : Canonical (s.portFor p node n).2 := by
  unfold State.portFor
  dsimp only
  split <;> (next e => exact h.peer.snd e)

theorem Canonical.sendMove {s part q status data} (h : Canonical s) : Canonical (s.sendMove part q status data).2 := by
  unfold State.sendMove
  split
  · next e => exact h.workRequest.snd e
  · next e =>
      have h1 := h.workRequest.snd e
      split
      · exact h1.keep
      · next e1 => exact h1.trySend.someLast e1

theorem Canonical.sendEnd {s part qpn q e} (h : Canonical s) : Canonical (s.sendEnd part qpn q e) := by
  unfold State.sendEnd
  split
  split
  · next e2 => exact (h.workRequest.snd e2).complete.advanceSend
  · next e2 => exact (h.workRequest.snd e2).sendDone.advanceSend

theorem Canonical.execSendWorkRequest {part qpn status data s} (h : Canonical s) :
    Canonical (outState s (Machine.execSendWorkRequest part qpn status data s)) := by
  unfold Machine.execSendWorkRequest
  split
  · exact h
  · split
    · exact h
    · split
      · next e1 => exact h.portFor.snd e1
      · next e1 => exact (h.portFor.snd e1).viaNet (fun _ h2 => h2.sendMove) fun _ _ h2 => h2.sendEnd

theorem Canonical.execRoceRetryTimeout {part qpn s} (h : Canonical s) :
    Canonical (outState s (Machine.execRoceRetryTimeout part qpn s)) := by
  unfold Machine.execRoceRetryTimeout
  dsimp only
  split
  · exact h
  · exact h.ite (h.setQp.ite h.workRequest.sendDone.advanceSend)

theorem Canonical.received {s p q} (h : Canonical s) : Canonical (s.received p q) := h.keep.ite h.increment

theorem Canonical.advanceReceive {s p qpn n taken} (h : Canonical s) : Canonical (s.advanceReceive p qpn n taken) :=
  h.modPart

theorem Canonical.landSend {s p w data} (h : Canonical s) : Canonical (s.landSend p w data).2 := by
  unfold State.landSend
  dsimp only
  split
  · exact h
  · split
    · exact h
    · split
      · exact h
      · split
        · next e => exact h.writeAs.snd e
        · next e => exact (h.writeAs.snd e).keep
        · next e => exact (h.writeAs.snd e).accessFault

theorem Canonical.receiveHead {s p q} (h : Canonical s) : Canonical (s.receiveHead p q).2 := h.workRequest

theorem Canonical.inboundMove {s part q kind rva imm data} (h : Canonical s) :
    Canonical (s.inboundMove part q kind rva imm data).2 := by
  unfold State.inboundMove
  dsimp only
  split
  · split <;> (next e => exact h.receiveHead.landSend.snd e)
  · split
    · next e => exact ((h.writeAs.netAnswer (fun _ _ h1 => h1)).snd e).receiveHead
    · exact h.writeAs.netAnswer fun _ _ h1 => h1
  · exact h.readSysAt.netAnswer fun _ _ h1 => h1
  · exact h.writeAs.netAnswer fun _ _ h1 => h1

theorem Canonical.inboundEnd {s part qpn q kind imm data e} (h : Canonical s) :
    Canonical (s.inboundEnd part qpn q kind imm data e) := by
  unfold State.inboundEnd
  split
  · exact h.received.complete.advanceReceive
  · exact h.complete.advanceReceive
  · exact h.received.complete.advanceReceive
  · exact h.accessFault
  · exact h.advanceReceive
  · exact h.received.complete.advanceReceive
  · exact h.advanceReceive

theorem Canonical.notify {s p qpn mark} (h : Canonical s) : Canonical (s.notify p qpn mark) := h.keep.ite h

theorem Canonical.execRoceInbound {part qpn kind rva rkey imm data s} (h : Canonical s) :
    Canonical (outState s (Machine.execRoceInbound part qpn kind rva rkey imm data s)) := by
  unfold Machine.execRoceInbound
  dsimp only
  split
  · exact h
  · split
    · exact h
    · split
      · split
        · exact h.notify
        · split
          · next e2 => exact h.portFor.snd e2
          · next e2 => exact (h.portFor.snd e2).viaNet (fun _ h2 => h2.inboundMove) fun _ _ h2 => h2.inboundEnd.notify
      · split
        · exact h.notify
        · split
          · next e2 => exact h.portFor.snd e2
          · next e2 => exact (h.portFor.snd e2).viaNet (fun _ h2 => h2.inboundMove) fun _ _ h2 => h2.inboundEnd.notify
      · split
        · exact h.notify
        · split
          · next e2 => exact h.portFor.snd e2
          · next e2 => exact (h.portFor.snd e2).viaNet (fun _ h2 => h2.inboundMove) fun _ _ h2 => h2.inboundEnd.notify
      · split
        · exact h.notify
        · split
          · next e1 => exact h.portFor.snd e1
          · next e1 => exact (h.portFor.snd e1).viaNet (fun _ h2 => h2.inboundMove) fun _ _ h2 => h2.inboundEnd.notify

theorem Canonical.peerRan {s w code data} (h : Canonical s) : Canonical (s.peerRan w code data) := h.keep

theorem Canonical.remoteWaggle {s part node spart va args} (h : Canonical s) :
    Canonical (s.remoteWaggle part node spart va args).2 :=
  h.iteSnd h.newId.modPart

theorem Canonical.remotePlace {s part va n} (h : Canonical s) : Canonical (s.remotePlace part va n).2 := by
  unfold State.remotePlace
  dsimp only
  split
  · exact h
  · split <;> (next e => exact h.sysPart.snd e)

theorem Canonical.remoteAtomic {s part node o va args fin} (h : Canonical s)
    (hfin : ∀ s x y, Canonical s → Canonical (fin s x y)) :
    Canonical (s.remoteAtomic part node o va args fin) := by
  unfold State.remoteAtomic
  dsimp only
  split
  · split
    · exact h
    · split
      · exact hfin _ _ _ h.dropStage.accessFault
      · exact hfin _ _ _ h.dropStage
  · split
    · next e => exact h.portFor.snd e
    · next e =>
        have h1 := h.portFor.snd e
        split
        · next e1 => exact (h1.readNet (fun _ h2 => h2.remotePlace)).snd e1
        · next e1 => exact hfin _ _ _ ((h1.readNet (fun _ h2 => h2.remotePlace)).snd e1).accessFault
        · next e1 => exact ((h1.readNet (fun _ h2 => h2.remotePlace)).snd e1).modStage.send

theorem Canonical.sendAnswer {s part node peer seq code data} (h : Canonical s) :
    Canonical (s.sendAnswer part node peer seq code data) :=
  h.keep

theorem Canonical.answerPeer {s w code data} (h : Canonical s) : Canonical (s.answerPeer w code data) :=
  h.peerRan.sendAnswer

theorem Canonical.execRemoteEncapRequest {part node spart seq op va args s} (h : Canonical s) :
    Canonical (outState s (Machine.execRemoteEncapRequest part node spart seq op va args s)) := by
  unfold Machine.execRemoteEncapRequest
  extract_lets retry op w mine drop repeats again
  have hdrop : ∀ s id, Canonical s → Canonical (drop s id) := fun _ _ h => h.keep
  have hagain : Canonical again := by
    refine .ite h ?_
    cases w.ran.find? (fun r => r.1 == seq) with
    | none => exact h
    | some => exact h.sendAnswer
  clear_value again drop mine op
  refine .ite h ?_
  split
  · split
    · exact .ite (hdrop _ _ h) (hdrop _ _ h).finish
    · exact h
  · split
    · exact .ite (hdrop _ _ h) (hdrop _ _ h).failOp
    · exact h
  · exact .ite h.answerPeer hagain
  · exact .ite hagain h.remoteWaggle.answerPeer
  · exact .ite hagain (h.remoteAtomic fun _ _ _ h1 => h1.answerPeer)
  · exact h

theorem Canonical.sendCancel {s x} (h : Canonical s) : Canonical (s.sendCancel x) := h.keep

theorem Canonical.execRemoteRetransmit {r s} (h : Canonical s) :
    Canonical (outState s (Machine.execRemoteRetransmit r s)) := by
  unfold Machine.execRemoteRetransmit
  dsimp only
  split
  · exact h
  · exact h.ite (h.keep.sendCancel.ite (h.keep.sendWaggle.ite h.keep.sendCancel.failOp))

/-! ## Creating and resizing a partition (spec/16_device.md R425, R426) -/

theorem Canonical.setRates {s p rates} (h : Canonical s) : Canonical (s.setRates p rates) := h.keep

theorem Canonical.clearGroups {s groups} (h : Canonical s) : Canonical (s.clearGroups groups) :=
  .of_wf (filter_wfFrom _ h.mem_wf) h.host_wf h.scratch_wf

theorem Canonical.execPartitionCreate {part hives slices groups shadow combbk rates rootPt asid rcb image s} (h : Canonical s) :
    Canonical (outState s (Machine.execPartitionCreate part hives slices groups shadow combbk rates rootPt asid rcb image s))
        := by
  unfold Machine.execPartitionCreate
  extract_lets q inside s1 s2 s3
  have h1 : Canonical s1 := h.clearGroups
  have h2 : Canonical s2 := .of_wf (foldl_memWrite_wf h1.mem_wf image) h1.host_wf h1.scratch_wf
  exact .ite h (.ite h2.setRates h)

theorem Canonical.expelSaved {s w} (h : Canonical s) : Canonical (s.expelSaved w) := by
  unfold State.expelSaved
  dsimp only
  split
  · exact h
  · exact h.foldl fun _ _ h1 => h1.unpark.modThread

theorem Canonical.moveOrdered {s p} (h : Canonical s) : Canonical (s.moveOrdered p) :=
  ((h.keep.foldl (fun _ _ h1 => h1.modSlice)).foldl (fun _ _ h1 => h1.modSlice)).foldl fun _ _ h1 => h1.modSlice

theorem Canonical.redirect {s id r} (h : Canonical s) : Canonical (s.redirect id r) := h.keep

theorem Canonical.finishResize {s p q' rates} (h : Canonical s) : Canonical (s.finishResize p q' rates) :=
  (((h.foldl (fun _ _ h1 => h1.endMembership)).foldl (fun _ _ h1 =>
      h1.writeBack)).keep.modPart.moveOrdered.clearGroups.setRates.tlbDrop.foldl (fun _ _ h1 => h1.redirect)).mapWgs
      (by intro e; split <;> rfl)

theorem Canonical.execPartitionResize {part hives slices groups rates s} (h : Canonical s) :
    Canonical (outState s (Machine.execPartitionResize part hives slices groups rates s)) :=
  h.ite ((h.modPart.mapWgs (by intro e; split <;> rfl)).ite (((h.modPart.mapWgs (by intro e; split <;> rfl)).foldl
      (fun _ _ h1 => h1.expelSaved)).ite ((h.modPart.mapWgs (by intro e; split <;> rfl)).foldl
      (fun _ _ h1 => h1.expelSaved)).finishResize))

/-! ## Every instruction and event -/

theorem Canonical.exec {i s} (h : Canonical s) : Canonical (outState s (Machine.exec i s)) := by
  unfold Machine.exec
  split
  · exact h.execAdd
  · exact h.execAddImm
  · exact h.execSub
  · exact h.execSubImm
  · exact h.execMul
  · exact h.execMulImm
  · exact h.execMulh
  · exact h.execMad
  · exact h.execDiv
  · exact h.execRem
  · exact h.execNeg
  · exact h.execAbs
  · exact h.execMin
  · exact h.execMinImm
  · exact h.execMax
  · exact h.execMaxImm
  · exact h.execSad
  · exact h.execAnd
  · exact h.execAndImm
  · exact h.execOr
  · exact h.execOrImm
  · exact h.execXor
  · exact h.execXorImm
  · exact h.execNot
  · exact h.execShl
  · exact h.execShlImm
  · exact h.execShr
  · exact h.execShrImm
  · exact h.execSar
  · exact h.execSarImm
  · exact h.execRot
  · exact h.execRotImm
  · exact h.execClz
  · exact h.execCtz
  · exact h.execPopc
  · exact h.execBrev
  · exact h.execSel
  · exact h.execCmp
  · exact h.execCmpImm
  · exact h.execMov
  · exact h.execMovi
  · exact h.execMovh
  · exact h.execExt
  · exact h.execLea
  · exact h.execPack
  · exact h.execUnpack
  · exact h.execSwz
  · exact h.execDot4
  · exact h.execBfx
  · exact h.execBfi
  · exact h.execBmm8
  · exact h.execPdep
  · exact h.execPext
  · exact h.execBperm
  · exact h.execFadd
  · exact h.execFaddImm
  · exact h.execFsub
  · exact h.execFsubImm
  · exact h.execFmul
  · exact h.execFmulImm
  · exact h.execFfma
  · exact h.execFmin
  · exact h.execFminImm
  · exact h.execFmax
  · exact h.execFmaxImm
  · exact h.execFcmp
  · exact h.execFcmpImm
  · exact h.execFclass
  · exact h.execFrnd
  · exact h.execCvt
  · exact h.execFdot2
  · exact h.execExp2
  · exact h.execLog2
  · exact h.execRcp
  · exact h.execRsqrt
  · exact h.execSqrt
  · exact h.execSin
  · exact h.execCos
  · exact h.execTanh
  · exact h.execSigm
  · exact h.execErf
  · exact h.execRngDraw
  · exact h.execGmax
  · exact h.execQuant
  · exact h.execDequant
  · exact h.execShfl
  · exact h.execVote
  · exact h.execVoteImm
  · exact h.execMatchT
  · exact h.execRedTeam
  · exact h.execRedTeamImm
  · exact h.execScanTeam
  · exact h.execScanTeamImm
  · exact h.execTopkIns
  · exact h.execLd
  · exact h.execLdRo
  · exact h.execLdC
  · exact h.execLdTl
  · exact h.execSt
  · exact h.execPref
  · exact h.execSmp
  · exact h.execAtom
  · exact h.execAtomF
  · exact h.execAtomCas
  · exact h.execAtomOrd
  · exact h.execFence
  · exact h.execFencePath
  · exact h.execAcq
  · exact h.execAcqGe
  · exact h.execAcqX
  · exact h.execRel
  · exact h.execSyncBind
  · exact h.execSyncUnbind
  · exact h.execCinv
  · exact h.execCwb
  · exact h.execAggDecl
  · exact h.execAggFree
  · exact h.execAggRange
  · exact h.execAggPfx
  · exact h.execAggPick
  · exact h.execAggSync
  · exact h.execCombJoin
  · exact h.execCombLeave
  · exact h.execCombDef
  · exact h.execCombDefs
  · exact h.execCombRd
  · exact h.execCombRds
  · exact h.execCombKill
  · exact h.execCombQ
  · exact h.execCombMap
  · exact h.execCpTensor
  · exact h.execCpGather
  · exact h.execCpScatter
  · exact h.execCpMcast
  · exact h.execCpFill
  · exact h.execCpResume
  · exact h.execCbRd
  · exact h.execDgNode
  · exact h.execDgGo
  · exact h.execEngGuard
  · exact h.execWagSend
  · exact h.execLqPush
  · exact h.execMsSet
  · exact h.execMLd
  · exact h.execMSt
  · exact h.execMZero
  · exact h.execRsvAlloc
  · exact h.execRsvFree
  · exact h.execMma
  · exact h.execMmaQ
  · exact h.execEpi
  · exact h.execOutlAdd
  · exact h.execAmaxRd
  · exact h.execAccClr
  · exact h.execBra
  · exact h.execBraI
  · exact h.execCallF
  · exact h.execCallFH
  · exact h.execCallI
  · exact h.execCallIH
  · exact h.execCallQ
  · exact h.execRet
  · exact h.execUnwind
  · exact h.execExit
  · exact h.execLoopCap
  · exact h.execLoopStep
  · exact h.execBktSel
  · exact h.execElect
  · exact h.execYield
  · exact h.execNop
  · exact h.execBarInit
  · exact h.execBarArrive
  · exact h.execBarWait
  · exact h.execBarTx
  · exact h.execTeamSync
  · exact h.execTeamSyncImm
  · exact h.execWait
  · exact h.execTrap
  · exact h.execBrk
  · exact h.execRdsr
  · exact h.execWrsr
  · exact h.execDigestRd
  · exact h.execTlbInv
  · exact h.execSleep
  · exact h.execHalt
  · exact h.execTlbMissWalk
  · exact h.execHostTranslationResponse
  · exact h.execHostRequestTimeout
  · exact h.execAtsInvalidation
  · exact h.execFlitInjection
  · exact h.execFlitArrival
  · exact h.execSliceRequest
  · exact h.execReplyArrival
  · exact h.execRequestRetransmit
  · exact h.execCongestionWindowEnd
  · exact h.execAggUpdateApply
  · exact h.execAggQueryAccept
  · exact h.execAggBuildComplete
  · exact h.execAggFreeDrain
  · exact h.execOrderedEntryArrival
  · exact h.execFloorReport
  · exact h.execOrderedEntryApply
  · exact h.execScalingRingPush
  · exact h.execCombCopyComplete
  · exact h.execCombLeaveComplete
  · exact h.execCombPlacementMove
  · exact h.execEngineCommandDispatch
  · exact h.execEngineUnitComplete
  · exact h.execStallCountExpire
  · exact h.execSleepExpire
  · exact h.execCalleeQueueDrain
  · exact h.execSwarmStart
  · exact h.execMmaComplete
  · exact h.execEpiComplete
  · exact h.execTileTransferComplete
  · exact h.execMatrixClaimGrant
  · exact h.execMatrixEviction
  · exact h.execDoorbell
  · exact h.execRingCommandNop
  · exact h.execRingCommandLaunch
  · exact h.execRingCommandGraph
  · exact h.execRingCommandDigestReset
  · exact h.execGraphPredDecrement
  · exact h.execLaunchQueueTake
  · exact h.execWorkgroupPlace
  · exact h.execPriorityReserve
  · exact h.execGranuleClearComplete
  · exact h.execWorkgroupRetire
  · exact h.execDigestLinkAppend
  · exact h.execWaggleHandlerLaunch
  · exact h.execFaultRecordRelease
  · exact h.execWorkgroupSave
  · exact h.execWorkgroupRestore
  · exact h.execEccCorrected
  · exact h.execFatalError
  · exact h.execPowerArbiterTick
  · exact h.execHostBar2Access
  · exact h.execRegisterWrite
  · exact h.execQtabWrite
  · exact h.execFqstatClear
  · exact h.execFqresp1
  · exact h.execSwitchOut
  · exact h.execSwitchIn
  · exact h.execRestore
  · exact h.execAttest
  · exact h.execFaultQueuePost
  · exact h.execFaultQueueDrain
  · exact h.execCreateCq
  · exact h.execDestroyCq
  · exact h.execCreateQp
  · exact h.execModifyQp
  · exact h.execDestroyQp
  · exact h.execRegMr
  · exact h.execDeregMr
  · exact h.execSqdb
  · exact h.execRqdb
  · exact h.execSendWorkRequest
  · exact h.execRoceInbound
  · exact h.execRemoteEncapRequest
  · exact h.execRemoteRetransmit
  · exact h.execHostLinkDown
  · exact h.execFlrVf
  · exact h.execPartitionCreate
  · exact h.execPartitionResize
  · exact h.execFirmwareStage
  · exact h.execModuleReset
  · exact h.execLocalAccessComplete
  · exact h.execHbmReadComplete
  · exact h.execCombDefinitionComplete
  · exact h.execYieldHoldExpire
  · exact h.execHostCompletion
  · exact h.execRoceRetryTimeout
  · exact h.execLossOfPower

/-! ## Storage that is upset (spec/15_faults.md R407, R410) -/

theorem Canonical.dropCached {s core line} (h : Canonical s) : Canonical (s.dropCached core line) :=
  h.ite h.modCore.corrected

theorem Canonical.dirtyBad {s line} (h : Canonical s) : Canonical (s.dirtyBad line) := h.keep.ite h

theorem Canonical.upset {s x} (h : Canonical s) : Canonical (s.upset x) := by
  unfold State.upset
  split
  · exact h.modThread
  · exact h.modWg (by intro g; split <;> rfl)
  · exact h.modWg
  · exact h.modWg
  · exact h.modWg
  · exact h.dirtyBad
  · exact h.modRegion
  · exact h.modCell.ite h
  · exact h.dropCached

/-! ## One step, and the statement itself -/

theorem Canonical.step {s} (h : Canonical s) : Canonical (outState s (Machine.step s)) := by
  unfold Machine.step
  split
  · split
    · exact h.tick
    · exact h
  · next u rest _ =>
    have h0 : Canonical { s with agenda := rest, turn := Option.some u } := h.keep
    dsimp only
    split
    · split
      · exact h
      · split
        · exact (h0.exec.landed h).afterEvent
        · exact h0
    · split
      · exact h0.tick
      · exact h
    · split
      · exact h
      · split
        · exact h0
        · exact (h0.issueTurn fun _ _ h1 => h1.exec).landed h
    · split
      · exact h
      · split
        · exact h0
        · exact .afterEvent h0.runCopy
    · split
      · exact h
      · split
        · exact h0
        · exact .afterEvent h0.upset

/-- Settles O58: whatever the turn does, each function that it goes through keeps every memory in its canonical form. -/
theorem memoryCanonicalKept : Obligations.MemoryCanonicalKept :=
  fun _ _ h e => (Canonical.step h).next e

end Sys2Proof.Proofs
end
